-- ==== Sys2Proof/Word.lean ====
section
/-! DEFINITION. The word types of the module: bytes, 32-bit and 64-bit words, and the 32-byte sector. -/

namespace Sys2Proof

/-- One byte of memory (R50: multi-byte values are stored little-endian). -/
abbrev Byte := BitVec 8
/-- A 32-bit word. -/
abbrev W32 := BitVec 32
/-- A 64-bit word: every register is held in one, 32-bit registers in the low half. -/
abbrev W64 := BitVec 64

end Sys2Proof
end

