-- ==== Sys2Proof/Machine/Bits.lean ====
section
/-! DEFINITION. Bit-field, sign-extension, byte-order and list helpers, and the sparse map that holds everything the
spec addresses by number (registers, memory, cores, dies). -/

namespace Sys2Proof.Machine

/-- The bits [hi:lo] of `n`, as a number. -/
def bitsOf (n hi lo : Nat) : Nat := (n >>> lo) % 2 ^ (hi + 1 - lo)

/-- Bit `i` of `n`. -/
def bitOf (n i : Nat) : Bool := n.testBit i

/-- `n` with the bits [hi:lo] replaced by `v` (cut to the field's width). -/
def setBits (n hi lo v : Nat) : Nat :=
  let w := hi + 1 - lo
  n % 2 ^ lo + (v % 2 ^ w) * 2 ^ lo + (n >>> (hi + 1)) * 2 ^ (hi + 1)

/-- 1 for true and 0 for false. -/
def b2n (b : Bool) : Nat := if b then 1 else 0

/-- The `w`-bit number `n` read as two's complement. -/
def signed (w n : Nat) : Int :=
  let m := n % 2 ^ w
  if m < 2 ^ (w - 1) then (m : Int) else (m : Int) - (2 ^ w : Nat)

/-- An integer narrowed to `w` bits, modulo 2^w. -/
def wrap (w : Nat) (i : Int) : Nat := (i % (2 ^ w : Nat)).toNat

/-- min(n, 2^w − 1): the value of a saturating count. -/
def satN (w n : Nat) : Nat := if n < 2 ^ w then n else 2 ^ w - 1

/-- The `n` low bytes of `v`, least significant first (R50). -/
def toBytes : Nat → Nat → List Byte
  | 0, _ => []
  | n + 1, v => BitVec.ofNat 8 (v % 256) :: toBytes n (v / 256)

/-- The number whose bytes, least significant first, are `bs` (R50). -/
def ofBytes : List Byte → Nat
  | [] => 0
  | b :: bs => b.toNat + 256 * ofBytes bs

/-- Round `n` up to a multiple of `k`. -/
def roundUp (n k : Nat) : Nat := (n + k - 1) / k * k

/-- ⌈n / k⌉. -/
def ceilDiv (n k : Nat) : Nat := (n + k - 1) / k

/-- Replace entry `i` of a list. -/
def listSet {α : Type} (l : List α) (i : Nat) (v : α) : List α := l.set i v

/-- Entry `i` of a list, or `d` past its end. -/
def listGet {α : Type} (d : α) (l : List α) (i : Nat) : α := l.getD i d

/-- The numbers whose bit is set in `mask`, below `n`, ascending. -/
def bitsSet (mask n : Nat) : List Nat := (List.range n).filter (fun i => mask.testBit i)

/-- The lowest set bit of `mask` below `n`. -/
def lowestBit (mask n : Nat) : Option Nat := (bitsSet mask n).head?

/-- How many bits of `mask` below `n` are set. -/
def popcount (mask n : Nat) : Nat := (bitsSet mask n).length

/-- A map from numbers in ONE canonical form: keys strictly rising, and no entry equal to the default value that an
unlisted key reads as. -/
abbrev SMap (α : Type) := List (Nat × α)

/-- The value at key `k`, or the default `d` where the map lists none. -/
def smGet {α : Type} (d : α) : SMap α → Nat → α
  | [], _ => d
  | (k', v) :: m, k => if k' = k then v else smGet d m k

/-- `m` with key `k` holding `v`; writing the default `d` removes the entry, so the form stays canonical. -/
def smSet {α : Type} [DecidableEq α] (d : α) : SMap α → Nat → α → SMap α
  | [], k, v => if v = d then [] else [(k, v)]
  | (k', v') :: m, k, v =>
    if k < k' then (if v = d then (k', v') :: m else (k, v) :: (k', v') :: m)
    else if k = k' then (if v = d then m else (k, v) :: m)
    else (k', v') :: smSet d m k v

/-- Apply `f` to the value at key `k`. -/
def smMod {α : Type} [DecidableEq α] (d : α) (m : SMap α) (k : Nat) (f : α → α) : SMap α :=
  smSet d m k (f (smGet d m k))

/-- Every key of the map lies above `k`. -/
def smAbove {α : Type} (k : Nat) : SMap α → Bool
  | [] => true
  | (k', _) :: m => decide (k < k') && smAbove k m

/-- The canonical form: keys strictly rising, no entry equal to the default. -/
def smWf {α : Type} [DecidableEq α] (d : α) : SMap α → Bool
  | [] => true
  | (k, v) :: m => decide (v ≠ d) && smAbove k m && smWf d m

/-- Cantor-style pairing of two numbers: one key out of two, injective. -/
def pairKey (a b : Nat) : Nat := Nat.pair a b

end Sys2Proof.Machine
end

