-- ==== Sys2Proof/Machine/Float.lean ====
section
/-! DEFINITION. The number formats of spec/03 (Table 3.1): encodings, exact dyadic values, rounding, and the arithmetic
that every unit of the module computes with. Each operation forms the exact result and rounds it once (R55, R58). -/

namespace Sys2Proof.Machine

/-- What the all-ones exponent of a format means (Table 3.1): infinities and NaNs as IEEE 754, one NaN code only (E4M3),
finite values throughout (E2M1), NaN whatever the fraction (FA40). -/
inductive FKind where
  | ieee | oneNan | allFinite | nanExp
  deriving DecidableEq, Repr

/-- A floating-point format of Table 3.1: exponent bits, fraction bits, bias, kind. -/
structure FFmt where
  eb : Nat
  fb : Nat
  bias : Nat
  kind : FKind
  deriving DecidableEq, Repr

def fmtE2M1 : FFmt := ⟨2, 1, 1, .allFinite⟩
def fmtE4M3 : FFmt := ⟨4, 3, 7, .oneNan⟩
def fmtE5M2 : FFmt := ⟨5, 2, 15, .ieee⟩
def fmtBF16 : FFmt := ⟨8, 7, 127, .ieee⟩
def fmtB16 : FFmt := ⟨5, 10, 15, .ieee⟩
def fmtB32 : FFmt := ⟨8, 23, 127, .ieee⟩
def fmtFA40 : FFmt := ⟨8, 31, 127, .nanExp⟩
def fmtB64 : FFmt := ⟨11, 52, 1023, .ieee⟩

/-- The width of a format in bits. -/
def FFmt.width (f : FFmt) : Nat := 1 + f.eb + f.fb

/-- The code of the largest finite magnitude (Table 3.1). -/
def FFmt.maxCode (f : FFmt) : Nat :=
  match f.kind with
  | .allFinite => 2 ^ (f.eb + f.fb) - 1
  | .oneNan => 2 ^ (f.eb + f.fb) - 2
  | .ieee | .nanExp => (2 ^ f.eb - 1) * 2 ^ f.fb - 1

/-- The code of +infinity of an IEEE format. -/
def FFmt.infCode (f : FFmt) : Nat := (2 ^ f.eb - 1) * 2 ^ f.fb

/-- R52: the canonical NaN of the result format. -/
def FFmt.nanCode (f : FFmt) : Nat :=
  match f.kind with
  | .allFinite => 0
  | .oneNan => 2 ^ (f.eb + f.fb) - 1
  | .ieee | .nanExp => (2 ^ f.eb - 1) * 2 ^ f.fb + 2 ^ (f.fb - 1)

/-- The sign bit of a format, in place. -/
def FFmt.signBit (f : FFmt) (s : Bool) : Nat := if s then 2 ^ (f.eb + f.fb) else 0

/-- A decoded value: NaN (with whether it signals), an infinity, or a finite (−1)^neg × m × 2^e. -/
inductive FV where
  | nan (signalling : Bool)
  | inf (neg : Bool)
  | fin (neg : Bool) (m : Nat) (e : Int)
  deriving DecidableEq, Repr

/-- Table 3.1: the value a code stands for. Subnormals are values like any other (R51). -/
def FFmt.unpack (f : FFmt) (n : Nat) : FV :=
  let neg := n.testBit (f.eb + f.fb)
  let ex := (n >>> f.fb) % 2 ^ f.eb
  let fr := n % 2 ^ f.fb
  let fin : FV :=
    if ex = 0 then .fin neg fr (1 - (f.bias : Int) - f.fb)
    else .fin neg (2 ^ f.fb + fr) ((ex : Int) - f.bias - f.fb)
  if ex = 2 ^ f.eb - 1 then
    match f.kind with
    | .allFinite => fin
    | .oneNan => if fr = 2 ^ f.fb - 1 then .nan false else fin
    | .nanExp => .nan false
    | .ieee => if fr = 0 then .inf neg else .nan (!fr.testBit (f.fb - 1))
  else fin

/-- The rounding modes: nearest even (R58), and the four others that core threads select through fcsr. -/
inductive RM where
  | rne | rtz | rdn | rup | rmm
  deriving DecidableEq, Repr

/-- The exception flags of an operation. -/
structure FFlags where
  nv : Bool
  dz : Bool
  ov : Bool
  uf : Bool
  nx : Bool
  deriving DecidableEq, Repr

def FFlags.none : FFlags := ⟨false, false, false, false, false⟩

/-- The union of two sets of flags. -/
def FFlags.or (a b : FFlags) : FFlags :=
  ⟨a.nv || b.nv, a.dz || b.dz, a.ov || b.ov, a.uf || b.uf, a.nx || b.nx⟩

/-- The RISC-V fflags bits [4:0]: nv, dz, of, uf, nx. -/
def FFlags.bits (a : FFlags) : Nat :=
  b2n a.nv * 16 + b2n a.dz * 8 + b2n a.ov * 4 + b2n a.uf * 2 + b2n a.nx

/-- A result code with its flags. -/
structure FR where
  v : Nat
  fl : FFlags
  deriving DecidableEq, Repr

/-- Whether a magnitude with integer part `a` (in units of the quantum) and discarded part rem/den rounds up. -/
def roundsUp (rm : RM) (neg : Bool) (a rem den : Nat) : Bool :=
  if rem = 0 then false
  else match rm with
    | .rne => decide (den < 2 * rem) || (decide (den = 2 * rem) && a % 2 == 1)
    | .rtz => false
    | .rdn => neg
    | .rup => !neg
    | .rmm => decide (den ≤ 2 * rem)

/-- m × 2^(−k) rounded to an integer, and whether anything was discarded. -/
def roundShift (rm : RM) (neg : Bool) (m : Nat) (k : Int) : Nat × Bool :=
  if k ≤ 0 then (m * 2 ^ (-k).toNat, false)
  else
    let d := 2 ^ k.toNat
    let a := m / d
    let r := m % d
    (a + b2n (roundsUp rm neg a r d), decide (r ≠ 0))

/-- The exponent of the quantum of a magnitude m × 2^e in a format: of its last fraction bit, subnormals included. -/
def FFmt.quantum (f : FFmt) (m : Nat) (e : Int) : Int :=
  max (e + Nat.log2 m) (1 - (f.bias : Int)) - f.fb

/-- The code of `mant` quanta 2^q; a carry out of the fraction raises the exponent by itself. -/
def FFmt.codeOf (f : FFmt) (mant : Nat) (q : Int) : Nat :=
  mant + ((q + f.fb + f.bias - 1).toNat) * 2 ^ f.fb

/-- Round (−1)^neg × m × 2^e into a format: IEEE 754 rules at overflow for an IEEE format; the formats without infinity
give their largest finite value and raise `ov` (R62, Table 3.3). -/
def FFmt.round (f : FFmt) (rm : RM) (neg : Bool) (m : Nat) (e : Int) : FR :=
  if m = 0 then ⟨f.signBit neg, FFlags.none⟩
  else
    let q := f.quantum m e
    let (mant, inx) := roundShift rm neg m (q - e)
    let code := f.codeOf mant q
    if f.maxCode < code then
      let toInf := match rm with
        | .rne | .rmm => true
        | .rtz => false
        | .rdn => neg
        | .rup => !neg
      let big := if f.kind = .ieee && toInf then f.infCode else f.maxCode
      ⟨big + f.signBit neg, { FFlags.none with ov := true, nx := true }⟩
    else
      -- tininess after rounding: round once more with an unbounded exponent
      let tiny :=
        if e + Nat.log2 m < 1 - (f.bias : Int) then
          let (m2, _) := roundShift rm neg m (e + Nat.log2 m - f.fb - e)
          !(decide (e + Nat.log2 m + 1 = 1 - (f.bias : Int)) && decide (m2 = 2 ^ (f.fb + 1)))
        else false
      ⟨code + f.signBit neg, { FFlags.none with nx := inx, uf := inx && tiny }⟩

/-- Round a decoded value into a format; a NaN becomes the canonical NaN (R52). -/
def FFmt.pack (f : FFmt) (rm : RM) : FV → FR
  | .nan sig => ⟨f.nanCode, { FFlags.none with nv := sig }⟩
  | .inf neg =>
    if f.kind = .ieee then ⟨f.infCode + f.signBit neg, FFlags.none⟩
    else ⟨f.nanCode, FFlags.none⟩
  | .fin neg m e => f.round rm neg m e

/-- The signed integer of a dyadic, in units 2^e0 where e0 ≤ e. -/
def dyInt (neg : Bool) (m : Nat) (e e0 : Int) : Int :=
  let v : Int := (m * 2 ^ (e - e0).toNat : Nat)
  if neg then -v else v

/-- The exact sum of two finite dyadics, as (value, exponent). -/
def dyAdd (a b : Int × Int) : Int × Int :=
  let e0 := min a.2 b.2
  (a.1 * 2 ^ (a.2 - e0).toNat + b.1 * 2 ^ (b.2 - e0).toNat, e0)

/-- Whether a value is a NaN that signals. -/
def FV.snan : FV → Bool
  | .nan s => s
  | _ => false

/-- Whether a value is a NaN. -/
def FV.isNan : FV → Bool
  | .nan _ => true
  | _ => false

/-- Whether a value is finite. -/
def FV.isFin : FV → Bool
  | .fin _ _ _ => true
  | _ => false

/-- The magnitude of a value. -/
def FV.mag : FV → FV
  | .fin _ m e => .fin false m e
  | .inf _ => .inf false
  | v => v

/-- The sign of a value (false for NaN). -/
def FV.neg : FV → Bool
  | .nan _ => false
  | .inf n => n
  | .fin n _ _ => n

/-- Whether a value is a zero. -/
def FV.isZero : FV → Bool
  | .fin _ 0 _ => true
  | _ => false

/-- The negation of a value. -/
def FV.negate : FV → FV
  | .nan s => .nan s
  | .inf n => .inf (!n)
  | .fin n m e => .fin (!n) m e

/-- The exact product of two values; an invalid product is a NaN. -/
def FV.mul (a b : FV) : FV :=
  match a, b with
  | .nan _, _ | _, .nan _ => .nan false
  | .inf n, y => if y.isZero then .nan false else .inf (n != y.neg)
  | x, .inf n => if x.isZero then .nan false else .inf (n != x.neg)
  | .fin n m e, .fin n' m' e' => .fin (n != n') (m * m') (e + e')

/-- Whether a product of two values is invalid (infinity times zero). -/
def FV.mulInvalid (a b : FV) : Bool :=
  match a, b with
  | .inf _, y => y.isZero
  | x, .inf _ => x.isZero
  | _, _ => false

/-- The exact sum of two values under a rounding mode (which fixes the sign of an exact zero, R63). -/
def FV.add (rm : RM) (a b : FV) : FV :=
  match a, b with
  | .nan _, _ | _, .nan _ => .nan false
  | .inf n, .inf n' => if n = n' then .inf n else .nan false
  | .inf n, _ => .inf n
  | _, .inf n => .inf n
  | .fin n m e, .fin n' m' e' =>
    let e0 := min e e'
    let v := dyInt n m e e0 + dyInt n' m' e' e0
    if v = 0 then
      (if m = 0 ∧ m' = 0 ∧ n = n' then .fin n 0 e0 else .fin (decide (rm = .rdn)) 0 e0)
    else .fin (decide (v < 0)) v.natAbs e0

/-- Whether a sum of two values is invalid (infinities of opposite sign). -/
def FV.addInvalid (a b : FV) : Bool :=
  match a, b with
  | .inf n, .inf n' => decide (n ≠ n')
  | _, _ => false

/-- An operation's result with `nv` raised where `bad` holds. -/
def FR.orNv (r : FR) (bad : Bool) : FR := ⟨r.v, { r.fl with nv := r.fl.nv || bad }⟩

/-- a + b in a format. -/
def FFmt.add (f : FFmt) (rm : RM) (a b : Nat) : FR :=
  let x := f.unpack a
  let y := f.unpack b
  (f.pack rm (x.add rm y)).orNv (x.snan || y.snan || x.addInvalid y)

/-- The code with its sign bit flipped. -/
def FFmt.flip (f : FFmt) (a : Nat) : Nat := a ^^^ 2 ^ (f.eb + f.fb)

/-- a − b in a format. -/
def FFmt.sub (f : FFmt) (rm : RM) (a b : Nat) : FR := f.add rm a (f.flip b)

/-- a × b in a format. -/
def FFmt.mul (f : FFmt) (rm : RM) (a b : Nat) : FR :=
  let x := f.unpack a
  let y := f.unpack b
  (f.pack rm (x.mul y)).orNv (x.snan || y.snan || x.mulInvalid y)

/-- a × b + c with one rounding. -/
def FFmt.fma (f : FFmt) (rm : RM) (a b c : Nat) : FR :=
  let x := f.unpack a
  let y := f.unpack b
  let z := f.unpack c
  let p := x.mul y
  (f.pack rm (p.add rm z)).orNv
    (x.snan || y.snan || z.snan || x.mulInvalid y || (!x.isNan && !y.isNan && p.addInvalid z))

/-- a ÷ b in a format: the quotient to two bits beyond the fraction, with a sticky bit below it, rounded once. -/
def FFmt.div (f : FFmt) (rm : RM) (a b : Nat) : FR :=
  let x := f.unpack a
  let y := f.unpack b
  let s := x.neg != y.neg
  match x, y with
  | .nan s1, _ => ⟨f.nanCode, { FFlags.none with nv := s1 || y.snan }⟩
  | _, .nan s2 => ⟨f.nanCode, { FFlags.none with nv := s2 }⟩
  | .inf _, .inf _ => ⟨f.nanCode, { FFlags.none with nv := true }⟩
  | .inf _, _ => ⟨f.infCode + f.signBit s, FFlags.none⟩
  | _, .inf _ => ⟨f.signBit s, FFlags.none⟩
  | .fin _ m e, .fin _ m' e' =>
    if m' = 0 then
      (if m = 0 then ⟨f.nanCode, { FFlags.none with nv := true }⟩
       else ⟨f.infCode + f.signBit s, { FFlags.none with dz := true }⟩)
    else if m = 0 then ⟨f.signBit s, FFlags.none⟩
    else
      let k := 2 * f.fb + 6
      let n := m * 2 ^ k
      f.round rm s (2 * (n / m') + b2n (decide (n % m' ≠ 0))) (e - e' - k - 1)

/-- Newton's iteration from above, at most `fuel` times: it stops at the integer square root. -/
def isqrtFrom : Nat → Nat → Nat → Nat
  | 0, _, x => x
  | fuel + 1, n, x =>
    let y := (x + n / x) / 2
    if y < x then isqrtFrom fuel n y else x

/-- ⌊√n⌋. -/
def isqrt (n : Nat) : Nat := if n = 0 then 0 else isqrtFrom 256 n (2 ^ (Nat.log2 n / 2 + 1))

/-- √a in a format. -/
def FFmt.sqrt (f : FFmt) (rm : RM) (a : Nat) : FR :=
  match f.unpack a with
  | .nan s => ⟨f.nanCode, { FFlags.none with nv := s }⟩
  | .inf neg => if neg then ⟨f.nanCode, { FFlags.none with nv := true }⟩ else ⟨f.infCode, FFlags.none⟩
  | .fin neg m e =>
    if m = 0 then ⟨f.signBit neg, FFlags.none⟩
    else if neg then ⟨f.nanCode, { FFlags.none with nv := true }⟩
    else
      let k0 := 2 * f.fb + 8
      let k := if (e - k0) % 2 = 0 then k0 else k0 + 1
      let n := m * 2 ^ k
      let r := isqrt n
      f.round rm false (2 * r + b2n (decide (r * r ≠ n))) ((e - k) / 2 - 1)

/-- Convert a code from one format to another with one rounding. -/
def FFmt.convert (src dst : FFmt) (rm : RM) (a : Nat) : FR := dst.pack rm (src.unpack a)

/-- The comparison of two values that are not NaN: −1, 0 or 1. -/
def FV.cmp (a b : FV) : Int :=
  match a, b with
  | .inf n, .inf n' => if n = n' then 0 else if n then -1 else 1
  | .inf n, _ => if n then -1 else 1
  | _, .inf n => if n then 1 else -1
  | .fin n m e, .fin n' m' e' =>
    let e0 := min e e'
    let d := dyInt n m e e0 - dyInt n' m' e' e0
    if d < 0 then -1 else if d = 0 then 0 else 1
  | _, _ => 0

/-- The magnitude of a code (its sign bit cleared). -/
def FFmt.abs (f : FFmt) (a : Nat) : Nat := a % 2 ^ (f.eb + f.fb)

/-- The value rounded to an integer, and whether it was inexact; none for NaN and infinities. -/
def FV.toInt (rm : RM) : FV → Option (Int × Bool)
  | .fin n m e =>
    let (v, inx) := roundShift rm n m (-e)
    some (if n then -(v : Int) else v, inx)
  | _ => none

/-- An integer as a decoded value. -/
def FV.ofInt (i : Int) : FV := .fin (decide (i < 0)) i.natAbs 0

/-- R59: the magnitude m × 2^e rounded stochastically into quanta 2^q with the draw r. -/
def stochastic (m : Nat) (e q : Int) (r : Nat) : Nat :=
  let (a, _) := roundShift .rtz false m (q - e)
  let (w, _) := roundShift .rtz false m (q - 16 - e)
  a + b2n (decide (r < w % 65536))

/-- The RISC-V class of a code: bits 0 to 9. [PRESUMED, log 61] -/
def FFmt.classify (f : FFmt) (a : Nat) : Nat :=
  match f.unpack a with
  | .nan s => if s then 2 ^ 8 else 2 ^ 9
  | .inf n => if n then 2 ^ 0 else 2 ^ 7
  | .fin n m _ =>
    if m = 0 then (if n then 2 ^ 3 else 2 ^ 4)
    else if m < 2 ^ f.fb then (if n then 2 ^ 2 else 2 ^ 5)
    else (if n then 2 ^ 1 else 2 ^ 6)

end Sys2Proof.Machine
end

