-- ==== Sys2Proof/Machine/Func.lean ====
section
/-! DEFINITION. The functions of Table 6.1 whose values the spec bounds and does not state (R152): exp2, exp, log2, log, tanh, sigmoid
and erf. Each is enclosed by fixed-point arithmetic far finer than binary32, and an open value stands wherever it lies within the bound. -/

namespace Sys2Proof.Machine

/-! ### Fixed point: integers in units of 2^-160 -/

/-- One. -/
def fixOne : Nat := 2 ^ 160

/-- The magnitude m × 2^e, cut to fixed point. -/
def fixOf (m : Nat) (e : Int) : Nat := (roundShift .rtz false m (-(e + 160))).1

/-- e^f for 0 ≤ f < 1: its power series. -/
def fixExp (f : Nat) : Nat :=
  ((List.range 48).foldl (fun (a : Nat × Nat) n =>
    let term := a.2 * f / ((n + 1) * fixOne)
    (a.1 + term, term)) (fixOne, fixOne)).1

/-- ln u for 1 ≤ u ≤ 2: twice the series of the inverse hyperbolic tangent at (u − 1) / (u + 1). -/
def fixLn (u : Nat) : Nat :=
  let z := (u - fixOne) * fixOne / (u + fixOne)
  let z2 := z * z / fixOne
  2 * ((List.range 60).foldl (fun (a : Nat × Nat) n => (a.1 + a.2 / (2 * n + 1), a.2 * z2 / fixOne)) (0, z)).1

/-- ln 2. -/
def fixLn2 : Nat := fixLn (2 * fixOne)

/-- 2 / √π, cut to fixed point. -/
def fixTwoOverRootPi : Nat := 0x120dd750429b6d11ae3a914fed7fd8688281341d7

/-! ### The functions, on a magnitude m × 2^e with its sign -/

/-- 2 (or e) to the power ±m × 2^e, as a mantissa and an exponent of two. Beyond ±512 the power is of no consequence to binary32. -/
def expDy (base2 neg : Bool) (m : Nat) (e : Int) : Nat × Int :=
  if m = 0 then (1, 0)
  else if 9 ≤ e + Nat.log2 m then (1, if neg then -600 else 600)
  else
    let t := fixOf m e
    let unit := if base2 then fixOne else fixLn2
    let k := t / unit
    let f := if base2 then t % unit * fixLn2 / fixOne else t % unit
    if neg then (fixExp (fixLn2 - f), -(k : Int) - 161) else (fixExp f, (k : Int) - 160)

/-- A ratio as a dyadic of 400 fraction bits. -/
def ratio (neg : Bool) (n den : Nat) : FV := .fin neg (n * 2 ^ 400 / den) (-400)

/-- e^x as a ratio of integers. -/
def expRatio (neg : Bool) (m : Nat) (e : Int) : Nat × Nat :=
  let (a, k) := expDy false neg m e
  if 0 ≤ k then (a * 2 ^ k.toNat, 1) else (a, 2 ^ (-k).toNat)

/-- log2 (or ln) of m × 2^e, m not 0. -/
def logVal (base2 : Bool) (m : Nat) (e : Int) : FV :=
  let l := Nat.log2 m
  let frac := fixLn (m * fixOne / 2 ^ l)
  let x : Int := (l : Int) + e
  let v : Int := if base2 then x * fixOne + frac * fixOne / fixLn2 else x * fixLn2 + frac
  .fin (decide (v < 0)) v.natAbs (-160)

/-- tanh: the first terms of its series near 0, 1 where it is that to 2^-180, and (e^2x − 1) / (e^2x + 1) between. -/
def tanhVal (neg : Bool) (m : Nat) (e : Int) : FV :=
  if e + Nat.log2 m < -40 then .fin neg (m * (fixOne - fixOf (m * m) (2 * e) / 3)) (e - 160)
  else if 6 ≤ e + Nat.log2 m then .fin neg 1 0
  else
    let (a, b) := expRatio false m (e + 1)
    ratio neg (a - b) (a + b)

/-- sigmoid: 1 / (1 + e^−x). -/
def sigmoidVal (neg : Bool) (m : Nat) (e : Int) : FV :=
  let (a, b) := expRatio false m e
  ratio false (if neg then b else a) (a + b)

/-- erf: 2 / √π × x × e^(−x²) × (1 + 2x²/3 + (2x²)²/(3 × 5) + …), and 1 from 8 on, where it is that to 2^-90. -/
def erfVal (neg : Bool) (m : Nat) (e : Int) : FV :=
  if 3 ≤ e + Nat.log2 m then .fin neg 1 0
  else
    let x2 := fixOf (m * m) (2 * e)
    let sum := ((List.range 400).foldl (fun (a : Nat × Nat) n =>
      let term := a.2 * (2 * x2) / ((2 * n + 3) * fixOne)
      (a.1 + term, term)) (fixOne, fixOne)).1
    let (g, k) := expDy false true x2 (-160)
    .fin neg (m * fixTwoOverRootPi * sum * g) (e - 320 + k)

/-- The value of a function at (−1)^neg × m × 2^e: 0 exp2, 1 exp, 2 log2, 3 log, 4 tanh, 5 sigmoid, 6 erf. -/
def funcVal (fn : Nat) (neg : Bool) (m : Nat) (e : Int) : FV :=
  match fn with
  | 0 | 1 =>
    let (a, k) := expDy (fn == 0) neg m e
    .fin false a k
  | 2 | 3 => logVal (fn == 2) m e
  | 4 => tanhVal neg m e
  | 5 => sigmoidVal neg m e
  | _ => erfVal neg m e

/-! ### The bounds of Table 6.1 -/

/-- The bound of one unit in the last place of the binary32 result: the quantum of a code, as a dyadic; that of the largest binade for
an infinity. -/
def ulpOf (code : Nat) : FV :=
  match fmtB32.unpack code with
  | .fin _ m e => .fin false 1 (fmtB32.quantum m e)
  | _ => .fin false 1 104

/-- A value minus another, as a magnitude. -/
def absDiff (a b : FV) : FV := (a.add .rne b.negate).mag

/-- A binary32 code as a number, an infinity as the 2^128 at which rounding reaches it. -/
def resultVal (code : Nat) : FV :=
  match fmtB32.unpack code with
  | .inf neg => .fin neg 1 128
  | v => v

/-- The largest error of a result near `near`: 1 ulp for exp2, 2 ulp for the others, 2^-22 for a logarithm of an input in [0.5, 2]. -/
def funcBound (fn near : Nat) (x : FV) : FV :=
  if (fn = 2 ∨ fn = 3) ∧ x.cmp (.fin false 1 (-1)) ≠ -1 ∧ x.cmp (.fin false 2 0) ≠ 1 then .fin false 1 (-22)
  else (ulpOf near).mul (.fin false (if fn = 0 then 1 else 2) 0)

/-- The open code where it lies within the bound about a value, and the value's own binary32 code elsewhere: every code within the bound
can stand, and no other. [DESIGN CHOICE, log 59] -/
def funcPick (fn pick : Nat) (x y : FV) : Nat :=
  let near := (fmtB32.pack .rne y).v
  let cand := resultVal pick
  if cand.isFin && (absDiff cand y).cmp (funcBound fn near x) != 1 then pick else near

end Sys2Proof.Machine
end

