-- ==== Sys2Proof/Config.lean ====
section
/-! DEFINITION. The values that the spec leaves open: constants without a body, so that nothing proved depends on a
choice of one. Each is named in a row of the assumption log. -/

namespace Sys2Proof.Config

/-- A fresh open number (R28: by how much a rate adjustment moves; R304 and the like). [DESIGN CHOICE, log 18] -/
opaque freeInt : Nat → Int

/-- A fresh open number of 64 bits. -/
opaque freeWord : Nat → W64

/-- An open value of a lane: of the `n`-th draw, lane `i`. [DESIGN CHOICE, log 58] -/
opaque freeLane (n i : Nat) : W64

/-- Open bits of any number: of the `n`-th draw. [DESIGN CHOICE, log 102] -/
opaque freeBits (n : Nat) : Nat

/-- Which way VROT turns a row: toward the higher lanes or not. [DESIGN CHOICE, log 63] -/
opaque rotUp : Bool

/-- The version of the boot ROM (QUERY item 3) and the minor mailbox version of the CP firmware (R487). [DESIGN CHOICE, log 96] -/
opaque romVersion : W64
opaque mbxMinor : W64

/-- The part of an X.509 v3 certificate that is signed (R520, R521): of the issuer's public key, the subject's, and what it carries: the spec
gives its names, serial number and dates nowhere. [PRESUMED, log 101] -/
opaque tbsCertificate (issuerPk pk carries : List Byte) : List Byte

/-- How the repair log's rows (seven numbers each) are laid out as bytes (R331, Table 17.4). [PRESUMED, log 101] -/
opaque repairLog (rows : List (List Nat)) : List Byte

end Sys2Proof.Config
end

