-- ==== Sys2Proof/Machine/Reg.lean ====
section
/-! DEFINITION. The registers of the module: one name per register map of the spec, with its block, place, width,
access types and reset values, as the register tables of spec/00 to spec/17 print them (R8 to R12). -/

namespace Sys2Proof.Machine

/-- One constructor per register map of the spec; an indexed register (a counter, a timer, a port) is one constructor
with an index beside it in `RegId`. -/
inductive Reg where
  | ftCount
  | ftCtrl
  | ftStatus
  | ftEvents
  | ftCivilOffset
  | ftTmrTgt
  | ftTmrCtl
  | ftTmrFired
  | ftTmrLate
  | ftTmrMissed
  | ftTmrMissedCount
  | arrCfg
  | arrStatus
  | arrTileStatus
  | arrEvents
  | arrChkLog
  | arrFence
  | arrSpareMap
  | arrCnt
  | sumCtrl
  | sumStatus
  | sumEvents
  | sumCnt
  | sumTblBase
  | sumTblCfg
  | sumFold
  | sumDieEvents
  | vecStatus
  | vecFlags
  | vecEvents
  | vecSrKey
  | vecSrCtrLo
  | vecSrCtrHi
  | vecCnt
  | vecSclBase
  | vecSclCfg
  | vecStepLate
  | vecDieEvents
  | vecStepPend
  | vecStepAct
  | tguStatus
  | tguEvents
  | tguFaultPc
  | tguFaultBlk
  | tguCnt
  | tguWdog
  | tguDieEvents
  | cqRingBase
  | cqRingCfg
  | cqStatus
  | cqSeq
  | cqEvents
  | cqCnt
  | cqColStatus
  | cqDieEvents
  | lqBase
  | lqCfg
  | lqTail
  | lqHead
  | lqCringBase
  | syncCtr
  | syncCtrAdd
  | syncCtrSub
  | syncCtrArm
  | syncCtrTotal
  | syncBarCfg
  | syncMbarCfg
  | syncMbarDies
  | syncBarStatus
  | syncMbarStatus
  | syncBarWdog
  | syncDieEvents
  | syncW1cCollide
  | syncW1cLast
  | syncCnt
  | dcL1Cfg
  | dcL1Status
  | dcL1Cnt
  | dcCfg
  | dcStatus
  | dcEvents
  | dcPinQuota
  | dcPinUsed
  | dcPinVa
  | dcPinCmd
  | dcPinStatus
  | dcPinFail
  | dcPinPress
  | dcDeadCfg
  | dcDeadAddr
  | dcDeadCtl
  | dcCnt
  | hbmCfg
  | hbmStatus
  | hbmEvents
  | hbmErrAddr
  | hbmErrSym
  | hbmScrub
  | hbmCnt
  | gdStatus
  | gdEvents
  | gdErrLog
  | gdCnt
  | cfgXlatRoot
  | cfgXlatInv
  | fabNode
  | fabDims
  | fabJob
  | fabRouteCtl
  | fabRouteSwitch
  | fabEvents
  | fabPortStatus
  | fabPortCtl
  | fabDetour
  | fabDetourPend
  | fabLost
  | fabPortCnt
  | fabCnt
  | colCfg
  | colGrpBase
  | colGrpCfg
  | colStatus
  | colEvents
  | colResume
  | colCnt
  | snapCfg
  | snapTimes
  | snapRgnBase
  | snapSsrBase
  | snapWork
  | snapStatus
  | snapStep
  | snapCommit
  | snapUpdDone
  | snapEvents
  | snapFqBase
  | snapFqCfg
  | snapFqPtr
  | snapFqDropped
  | snapCnt
  | snapRecvCfg
  | snapRecvArea
  | snapHoldArea
  | snapRecvStatus
  | snapRecvStep
  | snapHoldStep
  | pwrCap
  | pwrCapPend
  | pwrDomainW
  | pwrEnergy
  | pwrCtl
  | pwrStatus
  | pwrMemW
  | pwrNutCfg
  | pwrNutDslot
  | pwrNutMslot
  | pwrNutGrp
  | pwrNutProf
  | pwrEvents
  | thmStatus
  | pwrCnt
  | thmCnt
  | mbxReqTail
  | mbxReqHead
  | mbxRspTail
  | mbxRspHead
  | mbxCfg
  | mbxStatus
  | mbxEvents
  | mbxVec
  | bootId
  | bootStatus
  | bootPhaseUs
  | bootFw
  | secStatus
  | secEvents
  | secDevid
  | cqColRingBase
  | cqColRingCfg
  deriving DecidableEq, Repr

/-- Which copies of a register exist (the line above its table): one per core, per Orlupo die, per die of all nine, per
memory stack of a die, or one on the Bludjan die. -/
inductive Scope where
  | core | die | nine | stack | sd
  deriving DecidableEq, Repr

/-- Table 0.3: the access types. -/
inductive Acc where
  | ro | rw | w1c | w1s | rc | rwl | wo
  deriving DecidableEq, Repr

/-- Who may write the register (R42, R116, R290, R340, R343, R380, R410, R452, R474): anyone, only the CP firmware, only
the MC. -/
inductive Who where
  | any | cp | mc
  deriving DecidableEq, Repr

/-- One field of a register map: its bits [hi:lo], its access type and its reset value. -/
structure FieldInfo where
  hi : Nat
  lo : Nat
  acc : Acc
  reset : Nat
  deriving DecidableEq, Repr

/-- One register map: scope, place in its region (the core's, the compute die's) and in the Bludjan window, strides and counts
of an indexed register, width in bits, who writes it and its fields (reserved bits are no field: they read as zero). -/
structure RegInfo where
  scope : Scope
  offset : Nat
  sdOffset : Nat
  stride : Nat
  first : Nat
  count : Nat
  stride2 : Nat
  count2 : Nat
  width : Nat
  who : Who
  fields : List FieldInfo
  deriving DecidableEq, Repr

/-- A named field: its register and its bits. -/
structure Fld where
  reg : Reg
  hi : Nat
  lo : Nat
  deriving DecidableEq, Repr

/-- FT_COUNT. -/
def Reg.ftCountInfo : RegInfo := ⟨.nine, 0x40010000, 0x10000, 0, 0, 1, 0, 1, 64, .any,
      [⟨63, 0, .ro, 0⟩]⟩
/-- FT_CTRL. -/
def Reg.ftCtrlInfo : RegInfo := ⟨.nine, 0x40010008, 0x10008, 0, 0, 1, 0, 1, 32, .any,
      [⟨2, 2, .w1s, 0⟩, ⟨1, 0, .rwl, 0⟩]⟩
/-- FT_STATUS. -/
def Reg.ftStatusInfo : RegInfo := ⟨.nine, 0x40010010, 0x10010, 0, 0, 1, 0, 1, 64, .any,
      [⟨48, 48, .ro, 0⟩, ⟨47, 34, .ro, 0⟩, ⟨33, 26, .ro, 0⟩, ⟨25, 20, .ro, 0x3f⟩, ⟨19, 12, .ro, 0xff⟩, ⟨11, 4, .ro, 0⟩, ⟨3, 3, .ro, 1⟩, ⟨2, 2, .ro, 1⟩, ⟨1, 0, .ro, 0⟩]⟩
/-- FT_EVENTS. -/
def Reg.ftEventsInfo : RegInfo := ⟨.nine, 0x40010018, 0x10018, 0, 0, 1, 0, 1, 32, .any,
      [⟨31, 16, .ro, 0⟩, ⟨3, 3, .w1c, 0⟩, ⟨2, 2, .w1c, 0⟩, ⟨1, 1, .w1c, 0⟩, ⟨0, 0, .w1c, 0⟩]⟩
/-- FT_CIVIL_OFFSET. -/
def Reg.ftCivilOffsetInfo : RegInfo := ⟨.nine, 0x40010020, 0x10020, 0, 0, 1, 0, 1, 64, .any,
      [⟨63, 0, .ro, 0⟩]⟩
/-- FT_TMR_TGT. -/
def Reg.ftTmrTgtInfo : RegInfo := ⟨.die, 0x40010100, 0x0, 16, 0, 64, 0, 1, 64, .any,
      [⟨63, 0, .rw, 0⟩]⟩
/-- FT_TMR_CTL. -/
def Reg.ftTmrCtlInfo : RegInfo := ⟨.die, 0x40010108, 0x0, 16, 0, 64, 0, 1, 64, .any,
      [⟨63, 32, .rw, 0⟩, ⟨31, 16, .rw, 0⟩, ⟨15, 12, .rw, 0⟩, ⟨11, 4, .rw, 0⟩, ⟨3, 3, .w1c, 0⟩, ⟨2, 2, .rw, 0⟩, ⟨0, 0, .rw, 0⟩]⟩
/-- FT_TMR_FIRED. -/
def Reg.ftTmrFiredInfo : RegInfo := ⟨.die, 0x40010500, 0x0, 0, 0, 1, 0, 1, 64, .any,
      [⟨63, 0, .w1c, 0⟩]⟩
/-- FT_TMR_LATE. -/
def Reg.ftTmrLateInfo : RegInfo := ⟨.die, 0x40010508, 0x0, 0, 0, 1, 0, 1, 64, .any,
      [⟨63, 0, .w1c, 0⟩]⟩
/-- FT_TMR_MISSED. -/
def Reg.ftTmrMissedInfo : RegInfo := ⟨.die, 0x40010510, 0x0, 0, 0, 1, 0, 1, 64, .any,
      [⟨63, 0, .w1c, 0⟩]⟩
/-- FT_TMR_MISSED_COUNT. -/
def Reg.ftTmrMissedCountInfo : RegInfo := ⟨.die, 0x40010518, 0x0, 0, 0, 1, 0, 1, 32, .any,
      [⟨31, 0, .rc, 0⟩]⟩
/-- ARR_CFG. -/
def Reg.arrCfgInfo : RegInfo := ⟨.core, 0x20000, 0x0, 0, 0, 1, 0, 1, 32, .any,
      [⟨11, 8, .rw, 0⟩, ⟨7, 4, .rw, 0⟩, ⟨3, 0, .rw, 0xc⟩]⟩
/-- ARR_STATUS. -/
def Reg.arrStatusInfo : RegInfo := ⟨.core, 0x20008, 0x0, 0, 0, 1, 0, 1, 32, .any,
      [⟨31, 16, .ro, 0⟩, ⟨15, 15, .ro, 0⟩, ⟨14, 14, .ro, 0⟩, ⟨13, 11, .ro, 0⟩, ⟨10, 8, .ro, 0⟩, ⟨7, 5, .ro, 0⟩, ⟨1, 0, .ro, 0⟩]⟩
/-- ARR_TILE_STATUS. -/
def Reg.arrTileStatusInfo : RegInfo := ⟨.core, 0x20010, 0x0, 0, 0, 1, 0, 1, 32, .any,
      [⟨31, 0, .ro, 0⟩]⟩
/-- ARR_EVENTS. -/
def Reg.arrEventsInfo : RegInfo := ⟨.core, 0x20018, 0x0, 0, 0, 1, 0, 1, 32, .any,
      [⟨7, 7, .w1c, 0⟩, ⟨6, 6, .w1c, 0⟩, ⟨5, 5, .w1c, 0⟩, ⟨4, 4, .w1c, 0⟩, ⟨3, 3, .w1c, 0⟩, ⟨2, 2, .w1c, 0⟩, ⟨1, 1, .w1c, 0⟩, ⟨0, 0, .w1c, 0⟩]⟩
/-- ARR_CHK_LOG. -/
def Reg.arrChkLogInfo : RegInfo := ⟨.core, 0x20020, 0x0, 0, 0, 1, 0, 1, 64, .any,
      [⟨63, 48, .ro, 0⟩, ⟨47, 40, .ro, 0xff⟩, ⟨39, 32, .ro, 0xff⟩, ⟨31, 16, .ro, 0⟩, ⟨15, 8, .ro, 0⟩]⟩
/-- ARR_FENCE. -/
def Reg.arrFenceInfo : RegInfo := ⟨.core, 0x20028, 0x0, 0, 0, 1, 0, 1, 32, .any,
      [⟨7, 4, .ro, 0⟩, ⟨0, 0, .ro, 0⟩]⟩
/-- ARR_SPARE_MAP. -/
def Reg.arrSpareMapInfo : RegInfo := ⟨.core, 0x20030, 0x0, 0, 0, 1, 0, 1, 64, .cp,
      [⟨63, 63, .w1s, 0⟩, ⟨40, 40, .rwl, 0⟩, ⟨39, 32, .rwl, 0xff⟩, ⟨31, 24, .rwl, 0xff⟩, ⟨23, 16, .rwl, 0xff⟩, ⟨15, 8, .rwl, 0xff⟩]⟩
/-- ARR_CNT. -/
def Reg.arrCntInfo : RegInfo := ⟨.core, 0x20100, 0x0, 8, 0, 16, 0, 1, 64, .any,
      [⟨63, 0, .rc, 0⟩]⟩
/-- SUM_CTRL. -/
def Reg.sumCtrlInfo : RegInfo := ⟨.core, 0x30000, 0x0, 0, 0, 1, 0, 1, 32, .any,
      [⟨1, 0, .rw, 0⟩]⟩
/-- SUM_STATUS. -/
def Reg.sumStatusInfo : RegInfo := ⟨.core, 0x30008, 0x0, 0, 0, 1, 0, 1, 32, .any,
      [⟨16, 16, .ro, 0⟩, ⟨15, 0, .ro, 0⟩]⟩
/-- SUM_EVENTS. -/
def Reg.sumEventsInfo : RegInfo := ⟨.core, 0x30010, 0x0, 0, 0, 1, 0, 1, 32, .any,
      [⟨5, 5, .w1c, 0⟩, ⟨4, 4, .w1c, 0⟩, ⟨3, 3, .w1c, 0⟩, ⟨2, 2, .w1c, 0⟩, ⟨1, 1, .w1c, 0⟩, ⟨0, 0, .w1c, 0⟩]⟩
/-- SUM_CNT. -/
def Reg.sumCntInfo : RegInfo := ⟨.core, 0x30100, 0x0, 8, 0, 10, 0, 1, 64, .any,
      [⟨63, 0, .rc, 0⟩]⟩
/-- SUM_TBL_BASE. -/
def Reg.sumTblBaseInfo : RegInfo := ⟨.die, 0x40030000, 0x0, 0, 0, 1, 0, 1, 64, .any,
      [⟨47, 12, .rw, 0⟩]⟩
/-- SUM_TBL_CFG. -/
def Reg.sumTblCfgInfo : RegInfo := ⟨.die, 0x40030008, 0x0, 0, 0, 1, 0, 1, 32, .any,
      [⟨16, 16, .rw, 0⟩, ⟨10, 0, .rw, 0⟩]⟩
/-- SUM_FOLD. -/
def Reg.sumFoldInfo : RegInfo := ⟨.die, 0x40030010, 0x0, 0, 0, 1, 0, 1, 32, .any,
      [⟨16, 16, .wo, 0⟩, ⟨10, 0, .wo, 0⟩]⟩
/-- SUM_DIE_EVENTS. -/
def Reg.sumDieEventsInfo : RegInfo := ⟨.die, 0x40030018, 0x0, 0, 0, 1, 0, 1, 32, .any,
      [⟨2, 2, .w1c, 0⟩, ⟨1, 1, .w1c, 0⟩, ⟨0, 0, .w1c, 0⟩]⟩
/-- VEC_STATUS. -/
def Reg.vecStatusInfo : RegInfo := ⟨.core, 0x40000, 0x0, 0, 0, 1, 0, 1, 32, .any,
      [⟨17, 17, .ro, 0⟩, ⟨16, 16, .ro, 0⟩, ⟨15, 0, .ro, 0⟩]⟩
/-- VEC_FLAGS. -/
def Reg.vecFlagsInfo : RegInfo := ⟨.core, 0x40008, 0x0, 0, 0, 1, 0, 1, 32, .any,
      [⟨2, 2, .w1c, 0⟩, ⟨1, 1, .w1c, 0⟩, ⟨0, 0, .w1c, 0⟩]⟩
/-- VEC_EVENTS. -/
def Reg.vecEventsInfo : RegInfo := ⟨.core, 0x40010, 0x0, 0, 0, 1, 0, 1, 32, .any,
      [⟨3, 3, .w1c, 0⟩, ⟨2, 2, .w1c, 0⟩, ⟨1, 1, .w1c, 0⟩, ⟨0, 0, .w1c, 0⟩]⟩
/-- VEC_SR_KEY. -/
def Reg.vecSrKeyInfo : RegInfo := ⟨.core, 0x40018, 0x0, 0, 0, 1, 0, 1, 64, .any,
      [⟨63, 0, .rw, 0⟩]⟩
/-- VEC_SR_CTR_LO. -/
def Reg.vecSrCtrLoInfo : RegInfo := ⟨.core, 0x40020, 0x0, 0, 0, 1, 0, 1, 64, .any,
      [⟨63, 0, .rw, 0⟩]⟩
/-- VEC_SR_CTR_HI. -/
def Reg.vecSrCtrHiInfo : RegInfo := ⟨.core, 0x40028, 0x0, 0, 0, 1, 0, 1, 64, .any,
      [⟨63, 0, .rw, 0⟩]⟩
/-- VEC_CNT. -/
def Reg.vecCntInfo : RegInfo := ⟨.core, 0x40100, 0x0, 8, 0, 8, 0, 1, 64, .any,
      [⟨63, 0, .rc, 0⟩]⟩
/-- VEC_SCL_BASE. -/
def Reg.vecSclBaseInfo : RegInfo := ⟨.die, 0x40040000, 0x0, 0, 0, 1, 0, 1, 64, .any,
      [⟨47, 6, .rw, 0⟩]⟩
/-- VEC_SCL_CFG. -/
def Reg.vecSclCfgInfo : RegInfo := ⟨.die, 0x40040008, 0x0, 0, 0, 1, 0, 1, 32, .any,
      [⟨12, 0, .rw, 0⟩]⟩
/-- VEC_STEP_LATE. -/
def Reg.vecStepLateInfo : RegInfo := ⟨.die, 0x40040010, 0x0, 0, 0, 1, 0, 1, 32, .any,
      [⟨31, 0, .rc, 0⟩]⟩
/-- VEC_DIE_EVENTS. -/
def Reg.vecDieEventsInfo : RegInfo := ⟨.die, 0x40040018, 0x0, 0, 0, 1, 0, 1, 32, .any,
      [⟨2, 2, .w1c, 0⟩, ⟨1, 1, .w1c, 0⟩, ⟨0, 0, .w1c, 0⟩]⟩
/-- VEC_STEP_PEND. -/
def Reg.vecStepPendInfo : RegInfo := ⟨.die, 0x40040400, 0x0, 8, 0, 32, 0, 1, 64, .any,
      [⟨63, 0, .rw, 0⟩]⟩
/-- VEC_STEP_ACT. -/
def Reg.vecStepActInfo : RegInfo := ⟨.die, 0x40040500, 0x0, 8, 0, 32, 0, 1, 64, .any,
      [⟨63, 0, .ro, 0⟩]⟩
/-- TGU_STATUS. -/
def Reg.tguStatusInfo : RegInfo := ⟨.core, 0x50000, 0x0, 0, 0, 1, 0, 1, 32, .any,
      [⟨26, 24, .ro, 0⟩, ⟨23, 17, .ro, 0⟩, ⟨16, 11, .ro, 0⟩, ⟨10, 9, .ro, 0⟩, ⟨8, 8, .ro, 0⟩]⟩
/-- TGU_EVENTS. -/
def Reg.tguEventsInfo : RegInfo := ⟨.core, 0x50008, 0x0, 0, 0, 1, 0, 1, 32, .any,
      [⟨4, 4, .w1c, 0⟩, ⟨3, 3, .w1c, 0⟩, ⟨2, 2, .w1c, 0⟩, ⟨1, 1, .w1c, 0⟩, ⟨0, 0, .w1c, 0⟩]⟩
/-- TGU_FAULT_PC. -/
def Reg.tguFaultPcInfo : RegInfo := ⟨.core, 0x50010, 0x0, 0, 0, 1, 0, 1, 64, .any,
      [⟨63, 56, .ro, 0⟩, ⟨47, 0, .ro, 0⟩]⟩
/-- TGU_FAULT_BLK. -/
def Reg.tguFaultBlkInfo : RegInfo := ⟨.core, 0x50018, 0x0, 0, 0, 1, 0, 1, 64, .any,
      [⟨63, 32, .ro, 0⟩, ⟨25, 16, .ro, 0⟩]⟩
/-- TGU_CNT. -/
def Reg.tguCntInfo : RegInfo := ⟨.core, 0x50100, 0x0, 8, 0, 12, 0, 1, 64, .any,
      [⟨63, 0, .rc, 0⟩]⟩
/-- TGU_WDOG. -/
def Reg.tguWdogInfo : RegInfo := ⟨.die, 0x40050000, 0x0, 0, 0, 1, 0, 1, 32, .any,
      [⟨4, 0, .rw, 0x18⟩]⟩
/-- TGU_DIE_EVENTS. -/
def Reg.tguDieEventsInfo : RegInfo := ⟨.die, 0x40050008, 0x0, 0, 0, 1, 0, 1, 32, .any,
      [⟨0, 0, .w1c, 0⟩]⟩
/-- CQ_RING_BASE. -/
def Reg.cqRingBaseInfo : RegInfo := ⟨.core, 0x60000, 0x0, 16, 0, 3, 0, 1, 64, .any,
      [⟨47, 5, .rw, 0⟩]⟩
/-- CQ_RING_CFG. -/
def Reg.cqRingCfgInfo : RegInfo := ⟨.core, 0x60008, 0x0, 16, 0, 3, 0, 1, 32, .any,
      [⟨31, 31, .rw, 0⟩, ⟨4, 0, .rw, 5⟩]⟩
/-- CQ_STATUS. -/
def Reg.cqStatusInfo : RegInfo := ⟨.core, 0x60040, 0x0, 0, 0, 1, 0, 1, 64, .any,
      [⟨34, 34, .ro, 0⟩, ⟨33, 33, .ro, 0⟩, ⟨32, 32, .ro, 0⟩, ⟨22, 16, .ro, 0⟩, ⟨13, 8, .ro, 0⟩, ⟨5, 0, .ro, 0⟩]⟩
/-- CQ_SEQ. -/
def Reg.cqSeqInfo : RegInfo := ⟨.core, 0x60048, 0x0, 8, 0, 3, 0, 1, 64, .any,
      [⟨63, 32, .ro, 0⟩, ⟨31, 0, .ro, 0⟩]⟩
/-- CQ_EVENTS. -/
def Reg.cqEventsInfo : RegInfo := ⟨.core, 0x60060, 0x0, 0, 0, 1, 0, 1, 32, .any,
      [⟨3, 3, .w1c, 0⟩, ⟨2, 2, .w1c, 0⟩, ⟨1, 1, .w1c, 0⟩, ⟨0, 0, .w1c, 0⟩]⟩
/-- CQ_CNT. -/
def Reg.cqCntInfo : RegInfo := ⟨.core, 0x60100, 0x0, 8, 0, 8, 0, 1, 64, .any,
      [⟨63, 0, .rc, 0⟩]⟩
/-- CQ_COL_STATUS. -/
def Reg.cqColStatusInfo : RegInfo := ⟨.die, 0x40060010, 0x0, 0, 0, 1, 0, 1, 64, .any,
      [⟨63, 32, .ro, 0⟩, ⟨8, 8, .ro, 0⟩, ⟨7, 0, .ro, 0⟩]⟩
/-- CQ_DIE_EVENTS. -/
def Reg.cqDieEventsInfo : RegInfo := ⟨.die, 0x40060018, 0x0, 0, 0, 1, 0, 1, 32, .any,
      [⟨2, 2, .w1c, 0⟩, ⟨1, 1, .w1c, 0⟩, ⟨0, 0, .w1c, 0⟩]⟩
/-- LQ_BASE. -/
def Reg.lqBaseInfo : RegInfo := ⟨.die, 0x40060100, 0x0, 64, 0, 16, 0, 1, 64, .any,
      [⟨47, 7, .rw, 0⟩]⟩
/-- LQ_CFG. -/
def Reg.lqCfgInfo : RegInfo := ⟨.die, 0x40060108, 0x0, 64, 0, 16, 0, 1, 32, .any,
      [⟨31, 31, .rw, 0⟩, ⟨30, 30, .rw, 0⟩, ⟨3, 0, .rw, 4⟩]⟩
/-- LQ_TAIL. -/
def Reg.lqTailInfo : RegInfo := ⟨.die, 0x40060110, 0x0, 64, 0, 16, 0, 1, 32, .any,
      [⟨15, 0, .rw, 0⟩]⟩
/-- LQ_HEAD. -/
def Reg.lqHeadInfo : RegInfo := ⟨.die, 0x40060118, 0x0, 64, 0, 16, 0, 1, 32, .any,
      [⟨31, 16, .ro, 0⟩, ⟨15, 0, .ro, 0⟩]⟩
/-- LQ_CRING_BASE. -/
def Reg.lqCringBaseInfo : RegInfo := ⟨.die, 0x40060120, 0x0, 64, 0, 16, 0, 1, 64, .any,
      [⟨47, 5, .rw, 0⟩]⟩
/-- SYNC_CTR. -/
def Reg.syncCtrInfo : RegInfo := ⟨.die, 0x40200000, 0x0, 8, 0, 4096, 0, 1, 64, .any,
      [⟨39, 39, .ro, 0⟩, ⟨38, 38, .w1c, 0⟩, ⟨37, 37, .w1c, 0⟩, ⟨36, 36, .w1c, 0⟩, ⟨31, 0, .rw, 0⟩]⟩
/-- SYNC_CTR_ADD. -/
def Reg.syncCtrAddInfo : RegInfo := ⟨.die, 0x40208000, 0x0, 4, 0, 4096, 0, 1, 32, .any,
      [⟨31, 0, .wo, 0⟩]⟩
/-- SYNC_CTR_SUB. -/
def Reg.syncCtrSubInfo : RegInfo := ⟨.die, 0x4020c000, 0x0, 4, 0, 4096, 0, 1, 32, .any,
      [⟨31, 0, .wo, 0⟩]⟩
/-- SYNC_CTR_ARM. -/
def Reg.syncCtrArmInfo : RegInfo := ⟨.die, 0x40210000, 0x0, 8, 0, 4096, 0, 1, 64, .any,
      [⟨32, 32, .rw, 0⟩, ⟨31, 0, .rw, 0⟩]⟩
/-- SYNC_CTR_TOTAL. -/
def Reg.syncCtrTotalInfo : RegInfo := ⟨.die, 0x40218000, 0x0, 4, 0, 4096, 0, 1, 32, .any,
      [⟨31, 0, .ro, 0⟩]⟩
/-- SYNC_BAR_CFG. -/
def Reg.syncBarCfgInfo : RegInfo := ⟨.die, 0x40220000, 0x0, 32, 0, 64, 0, 1, 64, .any,
      [⟨63, 32, .rw, 0⟩, ⟨31, 31, .rw, 0⟩, ⟨30, 30, .rw, 0⟩, ⟨29, 15, .rw, 1⟩, ⟨11, 0, .rw, 0⟩]⟩
/-- SYNC_MBAR_CFG. -/
def Reg.syncMbarCfgInfo : RegInfo := ⟨.die, 0x40221000, 0x0, 32, 0, 16, 0, 1, 64, .any,
      [⟨63, 32, .rw, 0⟩, ⟨31, 31, .rw, 0⟩, ⟨30, 30, .rw, 0⟩, ⟨29, 15, .rw, 1⟩, ⟨11, 0, .rw, 0⟩]⟩
/-- SYNC_MBAR_DIES. -/
def Reg.syncMbarDiesInfo : RegInfo := ⟨.die, 0x40221008, 0x0, 32, 0, 16, 0, 1, 32, .any,
      [⟨7, 0, .rw, 0⟩]⟩
/-- SYNC_BAR_STATUS. -/
def Reg.syncBarStatusInfo : RegInfo := ⟨.die, 0x40220008, 0x0, 32, 0, 64, 0, 1, 64, .any,
      [⟨63, 32, .ro, 0⟩, ⟨31, 16, .ro, 0⟩, ⟨15, 0, .ro, 0⟩]⟩
/-- SYNC_MBAR_STATUS. -/
def Reg.syncMbarStatusInfo : RegInfo := ⟨.die, 0x40221010, 0x0, 32, 0, 16, 0, 1, 64, .any,
      [⟨63, 32, .ro, 0⟩, ⟨31, 16, .ro, 0⟩, ⟨15, 0, .ro, 0⟩]⟩
/-- SYNC_BAR_WDOG. -/
def Reg.syncBarWdogInfo : RegInfo := ⟨.die, 0x40230000, 0x0, 0, 0, 1, 0, 1, 32, .any,
      [⟨4, 0, .rw, 0x18⟩]⟩
/-- SYNC_DIE_EVENTS. -/
def Reg.syncDieEventsInfo : RegInfo := ⟨.die, 0x40230008, 0x0, 0, 0, 1, 0, 1, 32, .any,
      [⟨4, 4, .w1c, 0⟩, ⟨3, 3, .w1c, 0⟩, ⟨2, 2, .w1c, 0⟩, ⟨1, 1, .w1c, 0⟩, ⟨0, 0, .w1c, 0⟩]⟩
/-- SYNC_W1C_COLLIDE. -/
def Reg.syncW1cCollideInfo : RegInfo := ⟨.nine, 0x40230010, 0x20010, 0, 0, 1, 0, 1, 32, .any,
      [⟨31, 0, .rc, 0⟩]⟩
/-- SYNC_W1C_LAST. -/
def Reg.syncW1cLastInfo : RegInfo := ⟨.nine, 0x40230018, 0x20018, 0, 0, 1, 0, 1, 64, .any,
      [⟨53, 48, .ro, 0⟩, ⟨47, 0, .ro, 0⟩]⟩
/-- SYNC_CNT. -/
def Reg.syncCntInfo : RegInfo := ⟨.die, 0x40230100, 0x0, 8, 0, 12, 0, 1, 64, .any,
      [⟨63, 0, .rc, 0⟩]⟩
/-- DC_L1_CFG. -/
def Reg.dcL1CfgInfo : RegInfo := ⟨.core, 0x70000, 0x0, 0, 0, 1, 0, 1, 32, .any,
      [⟨4, 4, .rw, 1⟩, ⟨3, 0, .rw, 4⟩]⟩
/-- DC_L1_STATUS. -/
def Reg.dcL1StatusInfo : RegInfo := ⟨.core, 0x70008, 0x0, 0, 0, 1, 0, 1, 32, .any,
      [⟨24, 16, .ro, 0⟩, ⟨6, 0, .ro, 0⟩]⟩
/-- DC_L1_CNT. -/
def Reg.dcL1CntInfo : RegInfo := ⟨.core, 0x70100, 0x0, 8, 0, 12, 0, 1, 64, .any,
      [⟨63, 0, .rc, 0⟩]⟩
/-- DC_CFG. -/
def Reg.dcCfgInfo : RegInfo := ⟨.die, 0x40080000, 0x0, 0, 0, 1, 0, 1, 32, .any,
      [⟨9, 8, .rw, 1⟩, ⟨7, 2, .rw, 8⟩]⟩
/-- DC_STATUS. -/
def Reg.dcStatusInfo : RegInfo := ⟨.die, 0x40080008, 0x0, 0, 0, 1, 0, 1, 64, .any,
      [⟨47, 32, .ro, 0⟩, ⟨16, 16, .ro, 0⟩, ⟨12, 0, .ro, 0⟩]⟩
/-- DC_EVENTS. -/
def Reg.dcEventsInfo : RegInfo := ⟨.die, 0x40080010, 0x0, 0, 0, 1, 0, 1, 32, .any,
      [⟨8, 8, .w1c, 0⟩, ⟨7, 7, .w1c, 0⟩, ⟨6, 6, .w1c, 0⟩, ⟨5, 5, .w1c, 0⟩, ⟨4, 4, .w1c, 0⟩, ⟨3, 3, .w1c, 0⟩, ⟨2, 2, .w1c, 0⟩, ⟨1, 1, .w1c, 0⟩, ⟨0, 0, .w1c, 0⟩]⟩
/-- DC_PIN_QUOTA. -/
def Reg.dcPinQuotaInfo : RegInfo := ⟨.die, 0x40080018, 0x0, 0, 0, 1, 0, 1, 32, .cp,
      [⟨20, 0, .rw, 0x100000⟩]⟩
/-- DC_PIN_USED. -/
def Reg.dcPinUsedInfo : RegInfo := ⟨.die, 0x4008001c, 0x0, 0, 0, 1, 0, 1, 32, .any,
      [⟨20, 0, .ro, 0⟩]⟩
/-- DC_PIN_VA. -/
def Reg.dcPinVaInfo : RegInfo := ⟨.die, 0x40080020, 0x0, 0, 0, 1, 0, 1, 64, .any,
      [⟨47, 7, .rw, 0⟩]⟩
/-- DC_PIN_CMD. -/
def Reg.dcPinCmdInfo : RegInfo := ⟨.die, 0x40080028, 0x0, 0, 0, 1, 0, 1, 64, .any,
      [⟨63, 32, .rw, 0⟩, ⟨1, 0, .wo, 0⟩]⟩
/-- DC_PIN_STATUS. -/
def Reg.dcPinStatusInfo : RegInfo := ⟨.die, 0x40080030, 0x0, 0, 0, 1, 0, 1, 64, .any,
      [⟨63, 32, .ro, 0⟩, ⟨7, 4, .ro, 0⟩, ⟨0, 0, .ro, 0⟩]⟩
/-- DC_PIN_FAIL. -/
def Reg.dcPinFailInfo : RegInfo := ⟨.die, 0x40080038, 0x0, 0, 0, 1, 0, 1, 64, .any,
      [⟨47, 0, .ro, 0⟩]⟩
/-- DC_PIN_PRESS. -/
def Reg.dcPinPressInfo : RegInfo := ⟨.die, 0x40080040, 0x0, 0, 0, 1, 0, 1, 32, .any,
      [⟨31, 12, .rw, 0x10000⟩, ⟨9, 0, .rw, 0x64⟩]⟩
/-- DC_DEAD_CFG. -/
def Reg.dcDeadCfgInfo : RegInfo := ⟨.die, 0x40080048, 0x0, 0, 0, 1, 0, 1, 32, .any,
      [⟨0, 0, .rw, 0⟩]⟩
/-- DC_DEAD_ADDR. -/
def Reg.dcDeadAddrInfo : RegInfo := ⟨.die, 0x40081000, 0x0, 16, 0, 64, 0, 1, 64, .any,
      [⟨47, 12, .rw, 0⟩]⟩
/-- DC_DEAD_CTL. -/
def Reg.dcDeadCtlInfo : RegInfo := ⟨.die, 0x40081008, 0x0, 16, 0, 64, 0, 1, 64, .any,
      [⟨63, 32, .rw, 0⟩, ⟨7, 5, .ro, 0⟩, ⟨4, 4, .wo, 0⟩, ⟨3, 3, .w1c, 0⟩, ⟨2, 2, .ro, 0⟩, ⟨1, 1, .ro, 0⟩, ⟨0, 0, .wo, 0⟩]⟩
/-- DC_CNT. -/
def Reg.dcCntInfo : RegInfo := ⟨.die, 0x40082000, 0x0, 8, 0, 27, 0, 1, 64, .any,
      [⟨63, 0, .rc, 0⟩]⟩
/-- HBM_CFG. -/
def Reg.hbmCfgInfo : RegInfo := ⟨.stack, 0x40100000, 0x0, 0, 0, 1, 0, 1, 32, .cp,
      [⟨23, 16, .rw, 0x40⟩, ⟨11, 8, .rw, 4⟩, ⟨1, 0, .rw, 0⟩]⟩
/-- HBM_STATUS. -/
def Reg.hbmStatusInfo : RegInfo := ⟨.stack, 0x40100008, 0x0, 0, 0, 1, 0, 1, 32, .any,
      [⟨23, 16, .ro, 0⟩, ⟨11, 9, .ro, 0⟩, ⟨8, 8, .ro, 0⟩, ⟨7, 7, .ro, 0⟩, ⟨6, 6, .ro, 0⟩]⟩
/-- HBM_EVENTS. -/
def Reg.hbmEventsInfo : RegInfo := ⟨.stack, 0x40100010, 0x0, 0, 0, 1, 0, 1, 32, .any,
      [⟨7, 7, .w1c, 0⟩, ⟨6, 6, .w1c, 0⟩, ⟨5, 5, .w1c, 0⟩, ⟨4, 4, .w1c, 0⟩, ⟨3, 3, .w1c, 0⟩, ⟨2, 2, .w1c, 0⟩, ⟨1, 1, .w1c, 0⟩, ⟨0, 0, .w1c, 0⟩]⟩
/-- HBM_ERR_ADDR. -/
def Reg.hbmErrAddrInfo : RegInfo := ⟨.stack, 0x40100018, 0x0, 0, 0, 1, 0, 1, 64, .any,
      [⟨63, 63, .w1c, 0⟩, ⟨62, 62, .ro, 0⟩, ⟨61, 61, .ro, 0⟩, ⟨60, 60, .ro, 0⟩, ⟨35, 30, .ro, 0⟩, ⟨29, 28, .ro, 0⟩, ⟨27, 26, .ro, 0⟩, ⟨25, 24, .ro, 0⟩, ⟨23, 10, .ro, 0⟩, ⟨9, 5, .ro, 0⟩]⟩
/-- HBM_ERR_SYM. -/
def Reg.hbmErrSymInfo : RegInfo := ⟨.stack, 0x40100020, 0x0, 0, 0, 1, 0, 1, 64, .any,
      [⟨35, 0, .ro, 0⟩]⟩
/-- HBM_SCRUB. -/
def Reg.hbmScrubInfo : RegInfo := ⟨.stack, 0x40100028, 0x0, 0, 0, 1, 0, 1, 64, .any,
      [⟨63, 32, .ro, 0⟩, ⟨24, 0, .ro, 0⟩]⟩
/-- HBM_CNT. -/
def Reg.hbmCntInfo : RegInfo := ⟨.stack, 0x40100100, 0x0, 8, 0, 10, 0, 1, 64, .any,
      [⟨63, 0, .rc, 0⟩]⟩
/-- GD_STATUS. -/
def Reg.gdStatusInfo : RegInfo := ⟨.sd, 0x0, 0x30000, 0, 0, 1, 0, 1, 32, .any,
      [⟨28, 16, .ro, 0⟩, ⟨1, 0, .ro, 0⟩]⟩
/-- GD_EVENTS. -/
def Reg.gdEventsInfo : RegInfo := ⟨.sd, 0x0, 0x30008, 0, 0, 1, 0, 1, 32, .any,
      [⟨2, 2, .w1c, 0⟩, ⟨1, 1, .w1c, 0⟩, ⟨0, 0, .w1c, 0⟩]⟩
/-- GD_ERR_LOG. -/
def Reg.gdErrLogInfo : RegInfo := ⟨.sd, 0x0, 0x30010, 0, 0, 1, 0, 1, 64, .any,
      [⟨63, 63, .w1c, 0⟩, ⟨38, 35, .ro, 0⟩, ⟨34, 5, .ro, 0⟩]⟩
/-- GD_CNT. -/
def Reg.gdCntInfo : RegInfo := ⟨.sd, 0x0, 0x30100, 8, 0, 6, 0, 1, 64, .any,
      [⟨63, 0, .rc, 0⟩]⟩
/-- CFG_XLAT_ROOT. -/
def Reg.cfgXlatRootInfo : RegInfo := ⟨.die, 0x40140000, 0x0, 0, 0, 1, 0, 1, 64, .cp,
      [⟨47, 12, .rw, 0⟩, ⟨0, 0, .rw, 0⟩]⟩
/-- CFG_XLAT_INV. -/
def Reg.cfgXlatInvInfo : RegInfo := ⟨.die, 0x40140008, 0x0, 0, 0, 1, 0, 1, 64, .any,
      [⟨63, 16, .rw, 0⟩, ⟨4, 4, .w1c, 0⟩, ⟨3, 2, .rw, 0⟩, ⟨1, 1, .ro, 0⟩, ⟨0, 0, .wo, 0⟩]⟩
/-- FAB_NODE. -/
def Reg.fabNodeInfo : RegInfo := ⟨.die, 0x40180000, 0x0, 0, 0, 1, 0, 1, 32, .cp,
      [⟨15, 15, .w1s, 0⟩, ⟨14, 14, .rwl, 0⟩, ⟨13, 0, .rwl, 0⟩]⟩
/-- FAB_DIMS. -/
def Reg.fabDimsInfo : RegInfo := ⟨.die, 0x40180008, 0x0, 0, 0, 1, 0, 1, 32, .cp,
      [⟨8, 6, .rwl, 0⟩, ⟨5, 3, .rwl, 0⟩, ⟨2, 0, .rwl, 0⟩]⟩
/-- FAB_JOB. -/
def Reg.fabJobInfo : RegInfo := ⟨.die, 0x40180010, 0x0, 0, 0, 1, 0, 1, 64, .cp,
      [⟨63, 63, .rw, 0⟩, ⟨47, 32, .rw, 0⟩, ⟨31, 27, .rw, 0⟩, ⟨26, 22, .rw, 0⟩, ⟨21, 18, .rw, 0⟩, ⟨17, 15, .rw, 0⟩, ⟨14, 12, .rw, 0⟩, ⟨11, 9, .rw, 0⟩]⟩
/-- FAB_ROUTE_CTL. -/
def Reg.fabRouteCtlInfo : RegInfo := ⟨.die, 0x40180018, 0x0, 0, 0, 1, 0, 1, 64, .cp,
      [⟨63, 48, .ro, 0⟩, ⟨47, 32, .rw, 0⟩, ⟨1, 1, .w1c, 0⟩, ⟨0, 0, .rw, 0⟩]⟩
/-- FAB_ROUTE_SWITCH. -/
def Reg.fabRouteSwitchInfo : RegInfo := ⟨.die, 0x40180020, 0x0, 0, 0, 1, 0, 1, 64, .cp,
      [⟨63, 0, .rw, 0⟩]⟩
/-- FAB_EVENTS. -/
def Reg.fabEventsInfo : RegInfo := ⟨.die, 0x40180028, 0x0, 0, 0, 1, 0, 1, 32, .any,
      [⟨14, 14, .w1c, 0⟩, ⟨13, 13, .w1c, 0⟩, ⟨12, 12, .w1c, 0⟩, ⟨11, 11, .w1c, 0⟩, ⟨10, 10, .w1c, 0⟩, ⟨9, 9, .w1c, 0⟩, ⟨8, 8, .w1c, 0⟩, ⟨7, 7, .w1c, 0⟩, ⟨6, 6, .w1c, 0⟩, ⟨5, 5, .w1c, 0⟩, ⟨4, 4, .w1c, 0⟩, ⟨3, 3, .w1c, 0⟩, ⟨2, 2, .w1c, 0⟩, ⟨1, 1, .w1c, 0⟩, ⟨0, 0, .w1c, 0⟩]⟩
/-- FAB_PORT_STATUS. -/
def Reg.fabPortStatusInfo : RegInfo := ⟨.die, 0x40180100, 0x0, 32, 0, 8, 0, 1, 64, .any,
      [⟨63, 50, .ro, 0⟩, ⟨49, 47, .ro, 0⟩, ⟨46, 44, .ro, 0⟩, ⟨43, 40, .ro, 0⟩, ⟨39, 32, .ro, 0xff⟩, ⟨23, 21, .ro, 0⟩, ⟨20, 19, .ro, 0⟩, ⟨18, 17, .ro, 0⟩, ⟨15, 12, .ro, 0⟩, ⟨3, 0, .ro, 0⟩]⟩
/-- FAB_PORT_CTL. -/
def Reg.fabPortCtlInfo : RegInfo := ⟨.die, 0x40180108, 0x0, 32, 0, 8, 0, 1, 32, .cp,
      [⟨31, 16, .rw, 0⟩, ⟨15, 15, .rw, 0⟩, ⟨2, 1, .rw, 3⟩, ⟨0, 0, .rw, 0⟩]⟩
/-- FAB_DETOUR. -/
def Reg.fabDetourInfo : RegInfo := ⟨.die, 0x40180200, 0x0, 8, 0, 64, 0, 1, 64, .any,
      [⟨63, 0, .ro, 0⟩]⟩
/-- FAB_DETOUR_PEND. -/
def Reg.fabDetourPendInfo : RegInfo := ⟨.die, 0x40180400, 0x0, 8, 0, 64, 0, 1, 64, .cp,
      [⟨63, 0, .rw, 0⟩]⟩
/-- FAB_LOST. -/
def Reg.fabLostInfo : RegInfo := ⟨.die, 0x40181000, 0x0, 8, 0, 256, 0, 1, 64, .any,
      [⟨63, 0, .ro, 0⟩]⟩
/-- FAB_PORT_CNT. -/
def Reg.fabPortCntInfo : RegInfo := ⟨.die, 0x40180600, 0x0, 64, 0, 8, 8, 8, 64, .any,
      [⟨63, 0, .rc, 0⟩]⟩
/-- FAB_CNT. -/
def Reg.fabCntInfo : RegInfo := ⟨.die, 0x40180800, 0x0, 8, 0, 13, 0, 1, 64, .any,
      [⟨63, 0, .rc, 0⟩]⟩
/-- COL_CFG. -/
def Reg.colCfgInfo : RegInfo := ⟨.die, 0x40090000, 0x0, 0, 0, 1, 0, 1, 32, .cp,
      [⟨1, 1, .rw, 0⟩, ⟨0, 0, .rw, 1⟩]⟩
/-- COL_GRP_BASE. -/
def Reg.colGrpBaseInfo : RegInfo := ⟨.die, 0x40090008, 0x0, 0, 0, 1, 0, 1, 64, .any,
      [⟨47, 12, .rw, 0⟩]⟩
/-- COL_GRP_CFG. -/
def Reg.colGrpCfgInfo : RegInfo := ⟨.die, 0x40090010, 0x0, 0, 0, 1, 0, 1, 32, .any,
      [⟨8, 0, .rw, 0⟩]⟩
/-- COL_STATUS. -/
def Reg.colStatusInfo : RegInfo := ⟨.die, 0x40090018, 0x0, 0, 0, 1, 0, 1, 32, .any,
      [⟨15, 8, .ro, 0⟩, ⟨5, 5, .ro, 0⟩, ⟨4, 4, .ro, 0⟩, ⟨3, 0, .ro, 0⟩]⟩
/-- COL_EVENTS. -/
def Reg.colEventsInfo : RegInfo := ⟨.die, 0x40090020, 0x0, 0, 0, 1, 0, 1, 32, .any,
      [⟨5, 5, .w1c, 0⟩, ⟨4, 4, .w1c, 0⟩, ⟨3, 3, .w1c, 0⟩, ⟨2, 2, .w1c, 0⟩, ⟨1, 1, .w1c, 0⟩, ⟨0, 0, .w1c, 0⟩]⟩
/-- COL_RESUME. -/
def Reg.colResumeInfo : RegInfo := ⟨.die, 0x40090028, 0x0, 0, 0, 1, 0, 1, 32, .any,
      [⟨7, 0, .wo, 0⟩]⟩
/-- COL_CNT. -/
def Reg.colCntInfo : RegInfo := ⟨.die, 0x40090100, 0x0, 8, 0, 10, 0, 1, 64, .any,
      [⟨63, 0, .rc, 0⟩]⟩
/-- SNAP_CFG. -/
def Reg.snapCfgInfo : RegInfo := ⟨.die, 0x400a0000, 0x0, 0, 0, 1, 0, 1, 64, .cp,
      [⟨63, 50, .rw, 0⟩, ⟨49, 36, .rw, 0⟩, ⟨35, 35, .rw, 0⟩, ⟨32, 24, .rw, 0⟩, ⟨23, 12, .rw, 0⟩, ⟨7, 0, .rw, 0x40⟩]⟩
/-- SNAP_TIMES. -/
def Reg.snapTimesInfo : RegInfo := ⟨.die, 0x400a0008, 0x0, 0, 0, 1, 0, 1, 32, .cp,
      [⟨31, 16, .rw, 0x1388⟩, ⟨15, 0, .rw, 0⟩]⟩
/-- SNAP_RGN_BASE. -/
def Reg.snapRgnBaseInfo : RegInfo := ⟨.die, 0x400a0010, 0x0, 0, 0, 1, 0, 1, 64, .any,
      [⟨47, 8, .rw, 0⟩]⟩
/-- SNAP_SSR_BASE. -/
def Reg.snapSsrBaseInfo : RegInfo := ⟨.die, 0x400a0040, 0x0, 0, 0, 1, 0, 1, 64, .any,
      [⟨47, 8, .rw, 0⟩]⟩
/-- SNAP_WORK. -/
def Reg.snapWorkInfo : RegInfo := ⟨.die, 0x400a0018, 0x0, 0, 0, 1, 0, 1, 64, .cp,
      [⟨63, 48, .rw, 0⟩, ⟨47, 22, .rw, 0⟩]⟩
/-- SNAP_STATUS. -/
def Reg.snapStatusInfo : RegInfo := ⟨.die, 0x400a0020, 0x0, 0, 0, 1, 0, 1, 32, .any,
      [⟨6, 6, .ro, 0⟩, ⟨5, 5, .ro, 0⟩, ⟨4, 4, .ro, 0⟩, ⟨3, 3, .ro, 0⟩, ⟨2, 2, .ro, 0⟩, ⟨1, 1, .ro, 0⟩, ⟨0, 0, .ro, 0⟩]⟩
/-- SNAP_STEP. -/
def Reg.snapStepInfo : RegInfo := ⟨.die, 0x400a0028, 0x0, 0, 0, 1, 0, 1, 64, .any,
      [⟨63, 0, .ro, 0⟩]⟩
/-- SNAP_COMMIT. -/
def Reg.snapCommitInfo : RegInfo := ⟨.die, 0x400a0030, 0x0, 0, 0, 1, 0, 1, 64, .any,
      [⟨63, 0, .ro, 0xffffffffffffffff⟩]⟩
/-- SNAP_UPD_DONE. -/
def Reg.snapUpdDoneInfo : RegInfo := ⟨.die, 0x400a0038, 0x0, 0, 0, 1, 0, 1, 64, .any,
      [⟨63, 0, .rw, 0xffffffffffffffff⟩]⟩
/-- SNAP_EVENTS. -/
def Reg.snapEventsInfo : RegInfo := ⟨.die, 0x400a0048, 0x0, 0, 0, 1, 0, 1, 32, .any,
      [⟨7, 7, .w1c, 0⟩, ⟨6, 6, .w1c, 0⟩, ⟨5, 5, .w1c, 0⟩, ⟨4, 4, .w1c, 0⟩, ⟨3, 3, .w1c, 0⟩, ⟨2, 2, .w1c, 0⟩, ⟨1, 1, .w1c, 0⟩, ⟨0, 0, .w1c, 0⟩]⟩
/-- SNAP_FQ_BASE. -/
def Reg.snapFqBaseInfo : RegInfo := ⟨.die, 0x400a0050, 0x0, 0, 0, 1, 0, 1, 64, .any,
      [⟨47, 6, .rw, 0⟩]⟩
/-- SNAP_FQ_CFG. -/
def Reg.snapFqCfgInfo : RegInfo := ⟨.die, 0x400a0058, 0x0, 0, 0, 1, 0, 1, 32, .any,
      [⟨31, 31, .rw, 0⟩, ⟨30, 30, .rw, 0⟩, ⟨19, 8, .rw, 0⟩, ⟨4, 0, .rw, 6⟩]⟩
/-- SNAP_FQ_PTR. -/
def Reg.snapFqPtrInfo : RegInfo := ⟨.die, 0x400a0060, 0x0, 0, 0, 1, 0, 1, 64, .any,
      [⟨63, 32, .ro, 0⟩, ⟨31, 0, .rw, 0⟩]⟩
/-- SNAP_FQ_DROPPED. -/
def Reg.snapFqDroppedInfo : RegInfo := ⟨.die, 0x400a0068, 0x0, 0, 0, 1, 0, 1, 32, .any,
      [⟨31, 0, .rc, 0⟩]⟩
/-- SNAP_CNT. -/
def Reg.snapCntInfo : RegInfo := ⟨.die, 0x400a0100, 0x0, 8, 0, 8, 0, 1, 64, .any,
      [⟨63, 0, .rc, 0⟩]⟩
/-- SNAP_RECV_CFG. -/
def Reg.snapRecvCfgInfo : RegInfo := ⟨.sd, 0x0, 0x40000, 0, 0, 1, 0, 1, 32, .cp,
      [⟨14, 14, .rw, 0⟩, ⟨13, 0, .rw, 0⟩]⟩
/-- SNAP_RECV_AREA. -/
def Reg.snapRecvAreaInfo : RegInfo := ⟨.sd, 0x0, 0x40008, 0, 0, 1, 0, 1, 64, .cp,
      [⟨63, 48, .rw, 0⟩, ⟨47, 22, .rw, 0⟩]⟩
/-- SNAP_HOLD_AREA. -/
def Reg.snapHoldAreaInfo : RegInfo := ⟨.sd, 0x0, 0x40010, 0, 0, 1, 0, 1, 64, .cp,
      [⟨63, 48, .rw, 0⟩, ⟨47, 22, .rw, 0⟩]⟩
/-- SNAP_RECV_STATUS. -/
def Reg.snapRecvStatusInfo : RegInfo := ⟨.sd, 0x0, 0x40018, 0, 0, 1, 0, 1, 64, .any,
      [⟨63, 63, .ro, 0⟩, ⟨62, 62, .ro, 0⟩, ⟨61, 61, .ro, 0⟩, ⟨39, 0, .ro, 0⟩]⟩
/-- SNAP_RECV_STEP. -/
def Reg.snapRecvStepInfo : RegInfo := ⟨.sd, 0x0, 0x40020, 0, 0, 1, 0, 1, 64, .any,
      [⟨63, 0, .ro, 0xffffffffffffffff⟩]⟩
/-- SNAP_HOLD_STEP. -/
def Reg.snapHoldStepInfo : RegInfo := ⟨.sd, 0x0, 0x40028, 0, 0, 1, 0, 1, 64, .any,
      [⟨63, 0, .ro, 0xffffffffffffffff⟩]⟩
/-- PWR_CAP. -/
def Reg.pwrCapInfo : RegInfo := ⟨.sd, 0x0, 0x50000, 0, 0, 1, 0, 1, 32, .any,
      [⟨28, 27, .ro, 0⟩, ⟨26, 26, .ro, 0⟩, ⟨25, 25, .ro, 0⟩, ⟨15, 0, .ro, 0⟩]⟩
/-- PWR_CAP_PEND. -/
def Reg.pwrCapPendInfo : RegInfo := ⟨.sd, 0x0, 0x50008, 0, 0, 1, 0, 1, 32, .mc,
      [⟨31, 31, .rw, 0⟩, ⟨15, 0, .rw, 0⟩]⟩
/-- PWR_DOMAIN_W. -/
def Reg.pwrDomainWInfo : RegInfo := ⟨.sd, 0x0, 0x50010, 0, 0, 1, 0, 1, 64, .any,
      [⟨63, 48, .ro, 0⟩, ⟨47, 32, .ro, 0⟩, ⟨31, 16, .ro, 0⟩, ⟨15, 0, .ro, 0⟩]⟩
/-- PWR_ENERGY. -/
def Reg.pwrEnergyInfo : RegInfo := ⟨.sd, 0x0, 0x50100, 8, 0, 4, 0, 1, 64, .any,
      [⟨63, 0, .ro, 0⟩]⟩
/-- PWR_CTL. -/
def Reg.pwrCtlInfo : RegInfo := ⟨.die, 0x400b0000, 0x0, 0, 0, 1, 0, 1, 32, .cp,
      [⟨11, 8, .rw, 2⟩, ⟨7, 4, .rw, 4⟩, ⟨3, 0, .rw, 4⟩]⟩
/-- PWR_STATUS. -/
def Reg.pwrStatusInfo : RegInfo := ⟨.die, 0x400b0008, 0x0, 0, 0, 1, 0, 1, 64, .any,
      [⟨63, 48, .ro, 0⟩, ⟨47, 32, .ro, 0⟩, ⟨31, 24, .ro, 0⟩, ⟨23, 8, .ro, 0⟩, ⟨1, 1, .ro, 0⟩, ⟨0, 0, .ro, 0⟩]⟩
/-- PWR_MEM_W. -/
def Reg.pwrMemWInfo : RegInfo := ⟨.die, 0x400b0010, 0x0, 0, 0, 1, 0, 1, 64, .any,
      [⟨63, 0, .ro, 0⟩]⟩
/-- PWR_NUT_CFG. -/
def Reg.pwrNutCfgInfo : RegInfo := ⟨.die, 0x400b0018, 0x0, 0, 0, 1, 0, 1, 32, .any,
      [⟨31, 31, .rw, 0⟩, ⟨30, 24, .rw, 0x3c⟩, ⟨23, 12, .rw, 0x14⟩, ⟨11, 0, .rw, 0x3e8⟩]⟩
/-- PWR_NUT_DSLOT. -/
def Reg.pwrNutDslotInfo : RegInfo := ⟨.die, 0x400b0020, 0x0, 0, 0, 1, 0, 1, 64, .any,
      [⟨63, 0, .rw, 0⟩]⟩
/-- PWR_NUT_MSLOT. -/
def Reg.pwrNutMslotInfo : RegInfo := ⟨.die, 0x400b0028, 0x0, 0, 0, 1, 0, 1, 64, .any,
      [⟨15, 0, .rw, 0⟩]⟩
/-- PWR_NUT_GRP. -/
def Reg.pwrNutGrpInfo : RegInfo := ⟨.die, 0x400b0030, 0x0, 8, 0, 4, 0, 1, 64, .any,
      [⟨63, 0, .rw, 0⟩]⟩
/-- PWR_NUT_PROF. -/
def Reg.pwrNutProfInfo : RegInfo := ⟨.die, 0x400b0080, 0x0, 8, 0, 16, 0, 1, 64, .any,
      [⟨63, 32, .rw, 0⟩, ⟨23, 16, .rw, 0⟩, ⟨0, 0, .rw, 0⟩]⟩
/-- PWR_EVENTS. -/
def Reg.pwrEventsInfo : RegInfo := ⟨.die, 0x400b0100, 0x0, 0, 0, 1, 0, 1, 32, .any,
      [⟨3, 3, .w1c, 0⟩, ⟨2, 2, .w1c, 0⟩, ⟨1, 1, .w1c, 0⟩, ⟨0, 0, .w1c, 0⟩]⟩
/-- THM_STATUS. -/
def Reg.thmStatusInfo : RegInfo := ⟨.nine, 0x400c0000, 0x60000, 0, 0, 1, 0, 1, 64, .any,
      [⟨63, 52, .ro, 0⟩, ⟨51, 40, .ro, 0⟩, ⟨39, 28, .ro, 0⟩, ⟨2, 2, .ro, 0⟩, ⟨1, 1, .ro, 0⟩, ⟨0, 0, .ro, 0⟩]⟩
/-- PWR_CNT. -/
def Reg.pwrCntInfo : RegInfo := ⟨.die, 0x400b0200, 0x0, 8, 0, 8, 0, 1, 64, .any,
      [⟨63, 0, .rc, 0⟩]⟩
/-- THM_CNT. -/
def Reg.thmCntInfo : RegInfo := ⟨.nine, 0x400c0140, 0x60140, 8, 8, 3, 0, 1, 64, .any,
      [⟨63, 0, .rc, 0⟩]⟩
/-- MBX_REQ_TAIL. -/
def Reg.mbxReqTailInfo : RegInfo := ⟨.sd, 0x0, 0x70000, 64, 0, 32, 0, 1, 32, .any,
      [⟨15, 0, .rw, 0⟩]⟩
/-- MBX_REQ_HEAD. -/
def Reg.mbxReqHeadInfo : RegInfo := ⟨.sd, 0x0, 0x70008, 64, 0, 32, 0, 1, 32, .any,
      [⟨15, 0, .ro, 0⟩]⟩
/-- MBX_RSP_TAIL. -/
def Reg.mbxRspTailInfo : RegInfo := ⟨.sd, 0x0, 0x70010, 64, 0, 32, 0, 1, 32, .any,
      [⟨15, 0, .ro, 0⟩]⟩
/-- MBX_RSP_HEAD. -/
def Reg.mbxRspHeadInfo : RegInfo := ⟨.sd, 0x0, 0x70018, 64, 0, 32, 0, 1, 32, .any,
      [⟨15, 0, .rw, 0⟩]⟩
/-- MBX_CFG. -/
def Reg.mbxCfgInfo : RegInfo := ⟨.sd, 0x0, 0x70020, 64, 0, 32, 0, 1, 32, .any,
      [⟨31, 31, .rw, 0⟩, ⟨11, 0, .rw, 0⟩]⟩
/-- MBX_STATUS. -/
def Reg.mbxStatusInfo : RegInfo := ⟨.sd, 0x0, 0x70028, 64, 0, 32, 0, 1, 32, .any,
      [⟨31, 31, .ro, 0⟩, ⟨30, 30, .ro, 0⟩, ⟨23, 16, .ro, 0⟩, ⟨11, 8, .ro, 0xf⟩]⟩
/-- MBX_EVENTS. -/
def Reg.mbxEventsInfo : RegInfo := ⟨.sd, 0x0, 0x70030, 64, 0, 32, 0, 1, 32, .any,
      [⟨2, 2, .w1c, 0⟩, ⟨1, 1, .w1c, 0⟩, ⟨0, 0, .w1c, 0⟩]⟩
/-- MBX_VEC. -/
def Reg.mbxVecInfo : RegInfo := ⟨.sd, 0x0, 0x71000, 8, 0, 4096, 0, 1, 64, .any,
      [⟨63, 63, .rw, 0⟩, ⟨62, 48, .rc, 0⟩, ⟨19, 16, .rw, 0⟩, ⟨10, 0, .rw, 0⟩]⟩
/-- BOOT_ID. -/
def Reg.bootIdInfo : RegInfo := ⟨.sd, 0x0, 0xa0000, 0, 0, 1, 0, 1, 32, .any,
      [⟨31, 16, .ro, 0x2048⟩, ⟨15, 0, .ro, 0x2046⟩]⟩
/-- BOOT_STATUS. -/
def Reg.bootStatusInfo : RegInfo := ⟨.sd, 0x0, 0xa0008, 0, 0, 1, 0, 1, 64, .any,
      [⟨47, 40, .ro, 0⟩, ⟨39, 32, .ro, 0⟩, ⟨16, 16, .ro, 0⟩, ⟨15, 8, .ro, 0⟩, ⟨7, 0, .ro, 1⟩]⟩
/-- BOOT_PHASE_US. -/
def Reg.bootPhaseUsInfo : RegInfo := ⟨.sd, 0x0, 0xa0010, 4, 0, 16, 0, 1, 32, .any,
      [⟨31, 0, .ro, 0⟩]⟩
/-- BOOT_FW. -/
def Reg.bootFwInfo : RegInfo := ⟨.sd, 0x0, 0xa0068, 8, 1, 6, 0, 1, 64, .any,
      [⟨55, 48, .ro, 0⟩, ⟨47, 32, .ro, 0⟩, ⟨31, 0, .ro, 0⟩]⟩
/-- SEC_STATUS. -/
def Reg.secStatusInfo : RegInfo := ⟨.sd, 0x0, 0xb0000, 0, 0, 1, 0, 1, 32, .any,
      [⟨15, 12, .ro, 0⟩, ⟨11, 10, .ro, 0⟩, ⟨9, 6, .ro, 0⟩, ⟨5, 4, .ro, 0⟩, ⟨3, 3, .ro, 0⟩, ⟨2, 2, .ro, 0⟩, ⟨1, 1, .ro, 0⟩, ⟨0, 0, .ro, 0⟩]⟩
/-- SEC_EVENTS. -/
def Reg.secEventsInfo : RegInfo := ⟨.sd, 0x0, 0xb0008, 0, 0, 1, 0, 1, 32, .any,
      [⟨2, 2, .w1c, 0⟩, ⟨1, 1, .w1c, 0⟩, ⟨0, 0, .w1c, 0⟩]⟩
/-- SEC_DEVID. -/
def Reg.secDevidInfo : RegInfo := ⟨.sd, 0x0, 0xb0010, 8, 0, 4, 0, 1, 64, .any,
      [⟨63, 0, .ro, 0⟩]⟩
/-- CQ_COL_RING_BASE. -/
def Reg.cqColRingBaseInfo : RegInfo := ⟨.die, 0x40060000, 0x0, 0, 0, 1, 0, 1, 64, .any,
      [⟨47, 5, .rw, 0⟩]⟩
/-- CQ_COL_RING_CFG. -/
def Reg.cqColRingCfgInfo : RegInfo := ⟨.die, 0x40060008, 0x0, 0, 0, 1, 0, 1, 32, .any,
      [⟨31, 31, .rw, 0⟩, ⟨4, 0, .rw, 7⟩]⟩
/-- The register maps. -/
def Reg.info : Reg → RegInfo
  | .ftCount => Reg.ftCountInfo
  | .ftCtrl => Reg.ftCtrlInfo
  | .ftStatus => Reg.ftStatusInfo
  | .ftEvents => Reg.ftEventsInfo
  | .ftCivilOffset => Reg.ftCivilOffsetInfo
  | .ftTmrTgt => Reg.ftTmrTgtInfo
  | .ftTmrCtl => Reg.ftTmrCtlInfo
  | .ftTmrFired => Reg.ftTmrFiredInfo
  | .ftTmrLate => Reg.ftTmrLateInfo
  | .ftTmrMissed => Reg.ftTmrMissedInfo
  | .ftTmrMissedCount => Reg.ftTmrMissedCountInfo
  | .arrCfg => Reg.arrCfgInfo
  | .arrStatus => Reg.arrStatusInfo
  | .arrTileStatus => Reg.arrTileStatusInfo
  | .arrEvents => Reg.arrEventsInfo
  | .arrChkLog => Reg.arrChkLogInfo
  | .arrFence => Reg.arrFenceInfo
  | .arrSpareMap => Reg.arrSpareMapInfo
  | .arrCnt => Reg.arrCntInfo
  | .sumCtrl => Reg.sumCtrlInfo
  | .sumStatus => Reg.sumStatusInfo
  | .sumEvents => Reg.sumEventsInfo
  | .sumCnt => Reg.sumCntInfo
  | .sumTblBase => Reg.sumTblBaseInfo
  | .sumTblCfg => Reg.sumTblCfgInfo
  | .sumFold => Reg.sumFoldInfo
  | .sumDieEvents => Reg.sumDieEventsInfo
  | .vecStatus => Reg.vecStatusInfo
  | .vecFlags => Reg.vecFlagsInfo
  | .vecEvents => Reg.vecEventsInfo
  | .vecSrKey => Reg.vecSrKeyInfo
  | .vecSrCtrLo => Reg.vecSrCtrLoInfo
  | .vecSrCtrHi => Reg.vecSrCtrHiInfo
  | .vecCnt => Reg.vecCntInfo
  | .vecSclBase => Reg.vecSclBaseInfo
  | .vecSclCfg => Reg.vecSclCfgInfo
  | .vecStepLate => Reg.vecStepLateInfo
  | .vecDieEvents => Reg.vecDieEventsInfo
  | .vecStepPend => Reg.vecStepPendInfo
  | .vecStepAct => Reg.vecStepActInfo
  | .tguStatus => Reg.tguStatusInfo
  | .tguEvents => Reg.tguEventsInfo
  | .tguFaultPc => Reg.tguFaultPcInfo
  | .tguFaultBlk => Reg.tguFaultBlkInfo
  | .tguCnt => Reg.tguCntInfo
  | .tguWdog => Reg.tguWdogInfo
  | .tguDieEvents => Reg.tguDieEventsInfo
  | .cqRingBase => Reg.cqRingBaseInfo
  | .cqRingCfg => Reg.cqRingCfgInfo
  | .cqStatus => Reg.cqStatusInfo
  | .cqSeq => Reg.cqSeqInfo
  | .cqEvents => Reg.cqEventsInfo
  | .cqCnt => Reg.cqCntInfo
  | .cqColStatus => Reg.cqColStatusInfo
  | .cqDieEvents => Reg.cqDieEventsInfo
  | .lqBase => Reg.lqBaseInfo
  | .lqCfg => Reg.lqCfgInfo
  | .lqTail => Reg.lqTailInfo
  | .lqHead => Reg.lqHeadInfo
  | .lqCringBase => Reg.lqCringBaseInfo
  | .syncCtr => Reg.syncCtrInfo
  | .syncCtrAdd => Reg.syncCtrAddInfo
  | .syncCtrSub => Reg.syncCtrSubInfo
  | .syncCtrArm => Reg.syncCtrArmInfo
  | .syncCtrTotal => Reg.syncCtrTotalInfo
  | .syncBarCfg => Reg.syncBarCfgInfo
  | .syncMbarCfg => Reg.syncMbarCfgInfo
  | .syncMbarDies => Reg.syncMbarDiesInfo
  | .syncBarStatus => Reg.syncBarStatusInfo
  | .syncMbarStatus => Reg.syncMbarStatusInfo
  | .syncBarWdog => Reg.syncBarWdogInfo
  | .syncDieEvents => Reg.syncDieEventsInfo
  | .syncW1cCollide => Reg.syncW1cCollideInfo
  | .syncW1cLast => Reg.syncW1cLastInfo
  | .syncCnt => Reg.syncCntInfo
  | .dcL1Cfg => Reg.dcL1CfgInfo
  | .dcL1Status => Reg.dcL1StatusInfo
  | .dcL1Cnt => Reg.dcL1CntInfo
  | .dcCfg => Reg.dcCfgInfo
  | .dcStatus => Reg.dcStatusInfo
  | .dcEvents => Reg.dcEventsInfo
  | .dcPinQuota => Reg.dcPinQuotaInfo
  | .dcPinUsed => Reg.dcPinUsedInfo
  | .dcPinVa => Reg.dcPinVaInfo
  | .dcPinCmd => Reg.dcPinCmdInfo
  | .dcPinStatus => Reg.dcPinStatusInfo
  | .dcPinFail => Reg.dcPinFailInfo
  | .dcPinPress => Reg.dcPinPressInfo
  | .dcDeadCfg => Reg.dcDeadCfgInfo
  | .dcDeadAddr => Reg.dcDeadAddrInfo
  | .dcDeadCtl => Reg.dcDeadCtlInfo
  | .dcCnt => Reg.dcCntInfo
  | .hbmCfg => Reg.hbmCfgInfo
  | .hbmStatus => Reg.hbmStatusInfo
  | .hbmEvents => Reg.hbmEventsInfo
  | .hbmErrAddr => Reg.hbmErrAddrInfo
  | .hbmErrSym => Reg.hbmErrSymInfo
  | .hbmScrub => Reg.hbmScrubInfo
  | .hbmCnt => Reg.hbmCntInfo
  | .gdStatus => Reg.gdStatusInfo
  | .gdEvents => Reg.gdEventsInfo
  | .gdErrLog => Reg.gdErrLogInfo
  | .gdCnt => Reg.gdCntInfo
  | .cfgXlatRoot => Reg.cfgXlatRootInfo
  | .cfgXlatInv => Reg.cfgXlatInvInfo
  | .fabNode => Reg.fabNodeInfo
  | .fabDims => Reg.fabDimsInfo
  | .fabJob => Reg.fabJobInfo
  | .fabRouteCtl => Reg.fabRouteCtlInfo
  | .fabRouteSwitch => Reg.fabRouteSwitchInfo
  | .fabEvents => Reg.fabEventsInfo
  | .fabPortStatus => Reg.fabPortStatusInfo
  | .fabPortCtl => Reg.fabPortCtlInfo
  | .fabDetour => Reg.fabDetourInfo
  | .fabDetourPend => Reg.fabDetourPendInfo
  | .fabLost => Reg.fabLostInfo
  | .fabPortCnt => Reg.fabPortCntInfo
  | .fabCnt => Reg.fabCntInfo
  | .colCfg => Reg.colCfgInfo
  | .colGrpBase => Reg.colGrpBaseInfo
  | .colGrpCfg => Reg.colGrpCfgInfo
  | .colStatus => Reg.colStatusInfo
  | .colEvents => Reg.colEventsInfo
  | .colResume => Reg.colResumeInfo
  | .colCnt => Reg.colCntInfo
  | .snapCfg => Reg.snapCfgInfo
  | .snapTimes => Reg.snapTimesInfo
  | .snapRgnBase => Reg.snapRgnBaseInfo
  | .snapSsrBase => Reg.snapSsrBaseInfo
  | .snapWork => Reg.snapWorkInfo
  | .snapStatus => Reg.snapStatusInfo
  | .snapStep => Reg.snapStepInfo
  | .snapCommit => Reg.snapCommitInfo
  | .snapUpdDone => Reg.snapUpdDoneInfo
  | .snapEvents => Reg.snapEventsInfo
  | .snapFqBase => Reg.snapFqBaseInfo
  | .snapFqCfg => Reg.snapFqCfgInfo
  | .snapFqPtr => Reg.snapFqPtrInfo
  | .snapFqDropped => Reg.snapFqDroppedInfo
  | .snapCnt => Reg.snapCntInfo
  | .snapRecvCfg => Reg.snapRecvCfgInfo
  | .snapRecvArea => Reg.snapRecvAreaInfo
  | .snapHoldArea => Reg.snapHoldAreaInfo
  | .snapRecvStatus => Reg.snapRecvStatusInfo
  | .snapRecvStep => Reg.snapRecvStepInfo
  | .snapHoldStep => Reg.snapHoldStepInfo
  | .pwrCap => Reg.pwrCapInfo
  | .pwrCapPend => Reg.pwrCapPendInfo
  | .pwrDomainW => Reg.pwrDomainWInfo
  | .pwrEnergy => Reg.pwrEnergyInfo
  | .pwrCtl => Reg.pwrCtlInfo
  | .pwrStatus => Reg.pwrStatusInfo
  | .pwrMemW => Reg.pwrMemWInfo
  | .pwrNutCfg => Reg.pwrNutCfgInfo
  | .pwrNutDslot => Reg.pwrNutDslotInfo
  | .pwrNutMslot => Reg.pwrNutMslotInfo
  | .pwrNutGrp => Reg.pwrNutGrpInfo
  | .pwrNutProf => Reg.pwrNutProfInfo
  | .pwrEvents => Reg.pwrEventsInfo
  | .thmStatus => Reg.thmStatusInfo
  | .pwrCnt => Reg.pwrCntInfo
  | .thmCnt => Reg.thmCntInfo
  | .mbxReqTail => Reg.mbxReqTailInfo
  | .mbxReqHead => Reg.mbxReqHeadInfo
  | .mbxRspTail => Reg.mbxRspTailInfo
  | .mbxRspHead => Reg.mbxRspHeadInfo
  | .mbxCfg => Reg.mbxCfgInfo
  | .mbxStatus => Reg.mbxStatusInfo
  | .mbxEvents => Reg.mbxEventsInfo
  | .mbxVec => Reg.mbxVecInfo
  | .bootId => Reg.bootIdInfo
  | .bootStatus => Reg.bootStatusInfo
  | .bootPhaseUs => Reg.bootPhaseUsInfo
  | .bootFw => Reg.bootFwInfo
  | .secStatus => Reg.secStatusInfo
  | .secEvents => Reg.secEventsInfo
  | .secDevid => Reg.secDevidInfo
  | .cqColRingBase => Reg.cqColRingBaseInfo
  | .cqColRingCfg => Reg.cqColRingCfgInfo

/-- Part 1 of the list of every register. -/
def Reg.all0 : List Reg := [Reg.ftCount, Reg.ftCtrl, Reg.ftStatus, Reg.ftEvents, Reg.ftCivilOffset, Reg.ftTmrTgt, Reg.ftTmrCtl, Reg.ftTmrFired, Reg.ftTmrLate, Reg.ftTmrMissed, Reg.ftTmrMissedCount, Reg.arrCfg, Reg.arrStatus, Reg.arrTileStatus, Reg.arrEvents, Reg.arrChkLog, Reg.arrFence, Reg.arrSpareMap, Reg.arrCnt, Reg.sumCtrl]
/-- Part 2 of the list of every register. -/
def Reg.all1 : List Reg := [Reg.sumStatus, Reg.sumEvents, Reg.sumCnt, Reg.sumTblBase, Reg.sumTblCfg, Reg.sumFold, Reg.sumDieEvents, Reg.vecStatus, Reg.vecFlags, Reg.vecEvents, Reg.vecSrKey, Reg.vecSrCtrLo, Reg.vecSrCtrHi, Reg.vecCnt, Reg.vecSclBase, Reg.vecSclCfg, Reg.vecStepLate, Reg.vecDieEvents, Reg.vecStepPend, Reg.vecStepAct]
/-- Part 3 of the list of every register. -/
def Reg.all2 : List Reg := [Reg.tguStatus, Reg.tguEvents, Reg.tguFaultPc, Reg.tguFaultBlk, Reg.tguCnt, Reg.tguWdog, Reg.tguDieEvents, Reg.cqRingBase, Reg.cqRingCfg, Reg.cqStatus, Reg.cqSeq, Reg.cqEvents, Reg.cqCnt, Reg.cqColStatus, Reg.cqDieEvents, Reg.lqBase, Reg.lqCfg, Reg.lqTail, Reg.lqHead, Reg.lqCringBase]
/-- Part 4 of the list of every register. -/
def Reg.all3 : List Reg := [Reg.syncCtr, Reg.syncCtrAdd, Reg.syncCtrSub, Reg.syncCtrArm, Reg.syncCtrTotal, Reg.syncBarCfg, Reg.syncMbarCfg, Reg.syncMbarDies, Reg.syncBarStatus, Reg.syncMbarStatus, Reg.syncBarWdog, Reg.syncDieEvents, Reg.syncW1cCollide, Reg.syncW1cLast, Reg.syncCnt, Reg.dcL1Cfg, Reg.dcL1Status, Reg.dcL1Cnt, Reg.dcCfg, Reg.dcStatus]
/-- Part 5 of the list of every register. -/
def Reg.all4 : List Reg := [Reg.dcEvents, Reg.dcPinQuota, Reg.dcPinUsed, Reg.dcPinVa, Reg.dcPinCmd, Reg.dcPinStatus, Reg.dcPinFail, Reg.dcPinPress, Reg.dcDeadCfg, Reg.dcDeadAddr, Reg.dcDeadCtl, Reg.dcCnt, Reg.hbmCfg, Reg.hbmStatus, Reg.hbmEvents, Reg.hbmErrAddr, Reg.hbmErrSym, Reg.hbmScrub, Reg.hbmCnt, Reg.gdStatus]
/-- Part 6 of the list of every register. -/
def Reg.all5 : List Reg := [Reg.gdEvents, Reg.gdErrLog, Reg.gdCnt, Reg.cfgXlatRoot, Reg.cfgXlatInv, Reg.fabNode, Reg.fabDims, Reg.fabJob, Reg.fabRouteCtl, Reg.fabRouteSwitch, Reg.fabEvents, Reg.fabPortStatus, Reg.fabPortCtl, Reg.fabDetour, Reg.fabDetourPend, Reg.fabLost, Reg.fabPortCnt, Reg.fabCnt, Reg.colCfg, Reg.colGrpBase]
/-- Part 7 of the list of every register. -/
def Reg.all6 : List Reg := [Reg.colGrpCfg, Reg.colStatus, Reg.colEvents, Reg.colResume, Reg.colCnt, Reg.snapCfg, Reg.snapTimes, Reg.snapRgnBase, Reg.snapSsrBase, Reg.snapWork, Reg.snapStatus, Reg.snapStep, Reg.snapCommit, Reg.snapUpdDone, Reg.snapEvents, Reg.snapFqBase, Reg.snapFqCfg, Reg.snapFqPtr, Reg.snapFqDropped, Reg.snapCnt]
/-- Part 8 of the list of every register. -/
def Reg.all7 : List Reg := [Reg.snapRecvCfg, Reg.snapRecvArea, Reg.snapHoldArea, Reg.snapRecvStatus, Reg.snapRecvStep, Reg.snapHoldStep, Reg.pwrCap, Reg.pwrCapPend, Reg.pwrDomainW, Reg.pwrEnergy, Reg.pwrCtl, Reg.pwrStatus, Reg.pwrMemW, Reg.pwrNutCfg, Reg.pwrNutDslot, Reg.pwrNutMslot, Reg.pwrNutGrp, Reg.pwrNutProf, Reg.pwrEvents, Reg.thmStatus]
/-- Part 9 of the list of every register. -/
def Reg.all8 : List Reg := [Reg.pwrCnt, Reg.thmCnt, Reg.mbxReqTail, Reg.mbxReqHead, Reg.mbxRspTail, Reg.mbxRspHead, Reg.mbxCfg, Reg.mbxStatus, Reg.mbxEvents, Reg.mbxVec, Reg.bootId, Reg.bootStatus, Reg.bootPhaseUs, Reg.bootFw, Reg.secStatus, Reg.secEvents, Reg.secDevid, Reg.cqColRingBase, Reg.cqColRingCfg]
/-- Every register, in the order of the chapters of the spec. -/
def Reg.all : List Reg :=
  List.flatten [Reg.all0, Reg.all1, Reg.all2, Reg.all3, Reg.all4, Reg.all5, Reg.all6, Reg.all7, Reg.all8]

/-- A number for each register, for the key of the register map. -/
def Reg.code (r : Reg) : Nat := r.ctorIdx

end Sys2Proof.Machine
end

