-- ==== Sys2Proof/Machine/Fld.lean ====
section
/-! DEFINITION. The fields of the register maps, by name: `Fld.<register>_<field>`. -/

namespace Sys2Proof.Machine

/-- FT_COUNT.`count` -/ abbrev Fld.ftCount_count : Fld := ⟨.ftCount, 63, 0⟩
/-- FT_CTRL.`lock` -/ abbrev Fld.ftCtrl_lock : Fld := ⟨.ftCtrl, 2, 2⟩
/-- FT_CTRL.`role` -/ abbrev Fld.ftCtrl_role : Fld := ⟨.ftCtrl, 1, 0⟩
/-- FT_STATUS.`civil_valid` -/ abbrev Fld.ftStatus_civil_valid : Fld := ⟨.ftStatus, 48, 48⟩
/-- FT_STATUS.`gm_node` -/ abbrev Fld.ftStatus_gm_node : Fld := ⟨.ftStatus, 47, 34⟩
/-- FT_STATUS.`time_epoch` -/ abbrev Fld.ftStatus_time_epoch : Fld := ⟨.ftStatus, 33, 26⟩
/-- FT_STATUS.`hop_count` -/ abbrev Fld.ftStatus_hop_count : Fld := ⟨.ftStatus, 25, 20⟩
/-- FT_STATUS.`upstream` -/ abbrev Fld.ftStatus_upstream : Fld := ⟨.ftStatus, 19, 12⟩
/-- FT_STATUS.`offset_est` -/ abbrev Fld.ftStatus_offset_est : Fld := ⟨.ftStatus, 11, 4⟩
/-- FT_STATUS.`module_unlocked` -/ abbrev Fld.ftStatus_module_unlocked : Fld := ⟨.ftStatus, 3, 3⟩
/-- FT_STATUS.`die_unlocked` -/ abbrev Fld.ftStatus_die_unlocked : Fld := ⟨.ftStatus, 2, 2⟩
/-- FT_STATUS.`state` -/ abbrev Fld.ftStatus_state : Fld := ⟨.ftStatus, 1, 0⟩
/-- FT_EVENTS.`lock_lost_count` -/ abbrev Fld.ftEvents_lock_lost_count : Fld := ⟨.ftEvents, 31, 16⟩
/-- FT_EVENTS.`step_applied` -/ abbrev Fld.ftEvents_step_applied : Fld := ⟨.ftEvents, 3, 3⟩
/-- FT_EVENTS.`gm_changed` -/ abbrev Fld.ftEvents_gm_changed : Fld := ⟨.ftEvents, 2, 2⟩
/-- FT_EVENTS.`holdover_entered` -/ abbrev Fld.ftEvents_holdover_entered : Fld := ⟨.ftEvents, 1, 1⟩
/-- FT_EVENTS.`lock_lost` -/ abbrev Fld.ftEvents_lock_lost : Fld := ⟨.ftEvents, 0, 0⟩
/-- FT_CIVIL_OFFSET.`civil_offset` -/ abbrev Fld.ftCivilOffset_civil_offset : Fld := ⟨.ftCivilOffset, 63, 0⟩
/-- FT_TMR_TGT.`target` -/ abbrev Fld.ftTmrTgt_target : Fld := ⟨.ftTmrTgt, 63, 0⟩
/-- FT_TMR_CTL.`period` -/ abbrev Fld.ftTmrCtl_period : Fld := ⟨.ftTmrCtl, 63, 32⟩
/-- FT_TMR_CTL.`arg` -/ abbrev Fld.ftTmrCtl_arg : Fld := ⟨.ftTmrCtl, 31, 16⟩
/-- FT_TMR_CTL.`action` -/ abbrev Fld.ftTmrCtl_action : Fld := ⟨.ftTmrCtl, 15, 12⟩
/-- FT_TMR_CTL.`period_hi` -/ abbrev Fld.ftTmrCtl_period_hi : Fld := ⟨.ftTmrCtl, 11, 4⟩
/-- FT_TMR_CTL.`arm_err` -/ abbrev Fld.ftTmrCtl_arm_err : Fld := ⟨.ftTmrCtl, 3, 3⟩
/-- FT_TMR_CTL.`scope` -/ abbrev Fld.ftTmrCtl_scope : Fld := ⟨.ftTmrCtl, 2, 2⟩
/-- FT_TMR_CTL.`enable` -/ abbrev Fld.ftTmrCtl_enable : Fld := ⟨.ftTmrCtl, 0, 0⟩
/-- FT_TMR_FIRED.`tmr` -/ abbrev Fld.ftTmrFired_tmr : Fld := ⟨.ftTmrFired, 63, 0⟩
/-- FT_TMR_LATE.`tmr` -/ abbrev Fld.ftTmrLate_tmr : Fld := ⟨.ftTmrLate, 63, 0⟩
/-- FT_TMR_MISSED.`tmr` -/ abbrev Fld.ftTmrMissed_tmr : Fld := ⟨.ftTmrMissed, 63, 0⟩
/-- FT_TMR_MISSED_COUNT.`missed` -/ abbrev Fld.ftTmrMissedCount_missed : Fld := ⟨.ftTmrMissedCount, 31, 0⟩
/-- ARR_CFG.`b_resident` -/ abbrev Fld.arrCfg_b_resident : Fld := ⟨.arrCfg, 11, 8⟩
/-- ARR_CFG.`a_resident` -/ abbrev Fld.arrCfg_a_resident : Fld := ⟨.arrCfg, 7, 4⟩
/-- ARR_CFG.`spill_log2` -/ abbrev Fld.arrCfg_spill_log2 : Fld := ⟨.arrCfg, 3, 0⟩
/-- ARR_STATUS.`open_seq` -/ abbrev Fld.arrStatus_open_seq : Fld := ⟨.arrStatus, 31, 16⟩
/-- ARR_STATUS.`fenced` -/ abbrev Fld.arrStatus_fenced : Fld := ⟨.arrStatus, 15, 15⟩
/-- ARR_STATUS.`busy` -/ abbrev Fld.arrStatus_busy : Fld := ⟨.arrStatus, 14, 14⟩
/-- ARR_STATUS.`store_state` -/ abbrev Fld.arrStatus_store_state : Fld := ⟨.arrStatus, 13, 11⟩
/-- ARR_STATUS.`plane1_state` -/ abbrev Fld.arrStatus_plane1_state : Fld := ⟨.arrStatus, 10, 8⟩
/-- ARR_STATUS.`plane0_state` -/ abbrev Fld.arrStatus_plane0_state : Fld := ⟨.arrStatus, 7, 5⟩
/-- ARR_STATUS.`open_tiles` -/ abbrev Fld.arrStatus_open_tiles : Fld := ⟨.arrStatus, 1, 0⟩
/-- ARR_TILE_STATUS.`status` -/ abbrev Fld.arrTileStatus_status : Fld := ⟨.arrTileStatus, 31, 0⟩
/-- ARR_EVENTS.`nan_tile` -/ abbrev Fld.arrEvents_nan_tile : Fld := ⟨.arrEvents, 7, 7⟩
/-- ARR_EVENTS.`sat_tile` -/ abbrev Fld.arrEvents_sat_tile : Fld := ⟨.arrEvents, 6, 6⟩
/-- ARR_EVENTS.`read_err` -/ abbrev Fld.arrEvents_read_err : Fld := ⟨.arrEvents, 5, 5⟩
/-- ARR_EVENTS.`cfg_err` -/ abbrev Fld.arrEvents_cfg_err : Fld := ⟨.arrEvents, 4, 4⟩
/-- ARR_EVENTS.`poison` -/ abbrev Fld.arrEvents_poison : Fld := ⟨.arrEvents, 3, 3⟩
/-- ARR_EVENTS.`fenced` -/ abbrev Fld.arrEvents_fenced : Fld := ⟨.arrEvents, 2, 2⟩
/-- ARR_EVENTS.`recompute_pass` -/ abbrev Fld.arrEvents_recompute_pass : Fld := ⟨.arrEvents, 1, 1⟩
/-- ARR_EVENTS.`chk_mismatch` -/ abbrev Fld.arrEvents_chk_mismatch : Fld := ⟨.arrEvents, 0, 0⟩
/-- ARR_CHK_LOG.`tile_seq` -/ abbrev Fld.arrChkLog_tile_seq : Fld := ⟨.arrChkLog, 63, 48⟩
/-- ARR_CHK_LOG.`row` -/ abbrev Fld.arrChkLog_row : Fld := ⟨.arrChkLog, 47, 40⟩
/-- ARR_CHK_LOG.`col` -/ abbrev Fld.arrChkLog_col : Fld := ⟨.arrChkLog, 39, 32⟩
/-- ARR_CHK_LOG.`segment` -/ abbrev Fld.arrChkLog_segment : Fld := ⟨.arrChkLog, 31, 16⟩
/-- ARR_CHK_LOG.`attempt` -/ abbrev Fld.arrChkLog_attempt : Fld := ⟨.arrChkLog, 15, 8⟩
/-- ARR_FENCE.`cause` -/ abbrev Fld.arrFence_cause : Fld := ⟨.arrFence, 7, 4⟩
/-- ARR_FENCE.`fenced` -/ abbrev Fld.arrFence_fenced : Fld := ⟨.arrFence, 0, 0⟩
/-- ARR_SPARE_MAP.`lock` -/ abbrev Fld.arrSpareMap_lock : Fld := ⟨.arrSpareMap, 63, 63⟩
/-- ARR_SPARE_MAP.`soft` -/ abbrev Fld.arrSpareMap_soft : Fld := ⟨.arrSpareMap, 40, 40⟩
/-- ARR_SPARE_MAP.`col_skip1` -/ abbrev Fld.arrSpareMap_col_skip1 : Fld := ⟨.arrSpareMap, 39, 32⟩
/-- ARR_SPARE_MAP.`col_skip0` -/ abbrev Fld.arrSpareMap_col_skip0 : Fld := ⟨.arrSpareMap, 31, 24⟩
/-- ARR_SPARE_MAP.`row_skip1` -/ abbrev Fld.arrSpareMap_row_skip1 : Fld := ⟨.arrSpareMap, 23, 16⟩
/-- ARR_SPARE_MAP.`row_skip0` -/ abbrev Fld.arrSpareMap_row_skip0 : Fld := ⟨.arrSpareMap, 15, 8⟩
/-- ARR_CNT.`count` -/ abbrev Fld.arrCnt_count : Fld := ⟨.arrCnt, 63, 0⟩
/-- SUM_CTRL.`force` -/ abbrev Fld.sumCtrl_force : Fld := ⟨.sumCtrl, 1, 0⟩
/-- SUM_STATUS.`waiting` -/ abbrev Fld.sumStatus_waiting : Fld := ⟨.sumStatus, 16, 16⟩
/-- SUM_STATUS.`miss_pending` -/ abbrev Fld.sumStatus_miss_pending : Fld := ⟨.sumStatus, 15, 0⟩
/-- SUM_EVENTS.`cfg_err` -/ abbrev Fld.sumEvents_cfg_err : Fld := ⟨.sumEvents, 5, 5⟩
/-- SUM_EVENTS.`corr_spill` -/ abbrev Fld.sumEvents_corr_spill : Fld := ⟨.sumEvents, 4, 4⟩
/-- SUM_EVENTS.`hist_poison` -/ abbrev Fld.sumEvents_hist_poison : Fld := ⟨.sumEvents, 3, 3⟩
/-- SUM_EVENTS.`hist_invalid` -/ abbrev Fld.sumEvents_hist_invalid : Fld := ⟨.sumEvents, 2, 2⟩
/-- SUM_EVENTS.`zmap_poison` -/ abbrev Fld.sumEvents_zmap_poison : Fld := ⟨.sumEvents, 1, 1⟩
/-- SUM_EVENTS.`zmap_false` -/ abbrev Fld.sumEvents_zmap_false : Fld := ⟨.sumEvents, 0, 0⟩
/-- SUM_CNT.`count` -/ abbrev Fld.sumCnt_count : Fld := ⟨.sumCnt, 63, 0⟩
/-- SUM_TBL_BASE.`base` -/ abbrev Fld.sumTblBase_base : Fld := ⟨.sumTblBase, 47, 12⟩
/-- SUM_TBL_CFG.`verify` -/ abbrev Fld.sumTblCfg_verify : Fld := ⟨.sumTblCfg, 16, 16⟩
/-- SUM_TBL_CFG.`entries` -/ abbrev Fld.sumTblCfg_entries : Fld := ⟨.sumTblCfg, 10, 0⟩
/-- SUM_FOLD.`all` -/ abbrev Fld.sumFold_all : Fld := ⟨.sumFold, 16, 16⟩
/-- SUM_FOLD.`entry` -/ abbrev Fld.sumFold_entry : Fld := ⟨.sumFold, 10, 0⟩
/-- SUM_DIE_EVENTS.`tbl_poison` -/ abbrev Fld.sumDieEvents_tbl_poison : Fld := ⟨.sumDieEvents, 2, 2⟩
/-- SUM_DIE_EVENTS.`fold_err` -/ abbrev Fld.sumDieEvents_fold_err : Fld := ⟨.sumDieEvents, 1, 1⟩
/-- SUM_DIE_EVENTS.`cfg_err` -/ abbrev Fld.sumDieEvents_cfg_err : Fld := ⟨.sumDieEvents, 0, 0⟩
/-- VEC_STATUS.`busy` -/ abbrev Fld.vecStatus_busy : Fld := ⟨.vecStatus, 17, 17⟩
/-- VEC_STATUS.`scale_wait` -/ abbrev Fld.vecStatus_scale_wait : Fld := ⟨.vecStatus, 16, 16⟩
/-- VEC_STATUS.`pc_index` -/ abbrev Fld.vecStatus_pc_index : Fld := ⟨.vecStatus, 15, 0⟩
/-- VEC_FLAGS.`dz` -/ abbrev Fld.vecFlags_dz : Fld := ⟨.vecFlags, 2, 2⟩
/-- VEC_FLAGS.`of` -/ abbrev Fld.vecFlags_of : Fld := ⟨.vecFlags, 1, 1⟩
/-- VEC_FLAGS.`nv` -/ abbrev Fld.vecFlags_nv : Fld := ⟨.vecFlags, 0, 0⟩
/-- VEC_EVENTS.`cfg_err` -/ abbrev Fld.vecEvents_cfg_err : Fld := ⟨.vecEvents, 3, 3⟩
/-- VEC_EVENTS.`poison` -/ abbrev Fld.vecEvents_poison : Fld := ⟨.vecEvents, 2, 2⟩
/-- VEC_EVENTS.`desc_err` -/ abbrev Fld.vecEvents_desc_err : Fld := ⟨.vecEvents, 1, 1⟩
/-- VEC_EVENTS.`corrected` -/ abbrev Fld.vecEvents_corrected : Fld := ⟨.vecEvents, 0, 0⟩
/-- VEC_SR_KEY.`key` -/ abbrev Fld.vecSrKey_key : Fld := ⟨.vecSrKey, 63, 0⟩
/-- VEC_SR_CTR_LO.`ctr` -/ abbrev Fld.vecSrCtrLo_ctr : Fld := ⟨.vecSrCtrLo, 63, 0⟩
/-- VEC_SR_CTR_HI.`ctr` -/ abbrev Fld.vecSrCtrHi_ctr : Fld := ⟨.vecSrCtrHi, 63, 0⟩
/-- VEC_CNT.`count` -/ abbrev Fld.vecCnt_count : Fld := ⟨.vecCnt, 63, 0⟩
/-- VEC_SCL_BASE.`base` -/ abbrev Fld.vecSclBase_base : Fld := ⟨.vecSclBase, 47, 6⟩
/-- VEC_SCL_CFG.`entries` -/ abbrev Fld.vecSclCfg_entries : Fld := ⟨.vecSclCfg, 12, 0⟩
/-- VEC_STEP_LATE.`late` -/ abbrev Fld.vecStepLate_late : Fld := ⟨.vecStepLate, 31, 0⟩
/-- VEC_DIE_EVENTS.`cfg_err` -/ abbrev Fld.vecDieEvents_cfg_err : Fld := ⟨.vecDieEvents, 2, 2⟩
/-- VEC_DIE_EVENTS.`late` -/ abbrev Fld.vecDieEvents_late : Fld := ⟨.vecDieEvents, 1, 1⟩
/-- VEC_DIE_EVENTS.`stale` -/ abbrev Fld.vecDieEvents_stale : Fld := ⟨.vecDieEvents, 0, 0⟩
/-- VEC_STEP_PEND.`word` -/ abbrev Fld.vecStepPend_word : Fld := ⟨.vecStepPend, 63, 0⟩
/-- VEC_STEP_ACT.`word` -/ abbrev Fld.vecStepAct_word : Fld := ⟨.vecStepAct, 63, 0⟩
/-- TGU_STATUS.`ls_half_mib` -/ abbrev Fld.tguStatus_ls_half_mib : Fld := ⟨.tguStatus, 26, 24⟩
/-- TGU_STATUS.`groups` -/ abbrev Fld.tguStatus_groups : Fld := ⟨.tguStatus, 23, 17⟩
/-- TGU_STATUS.`blocks` -/ abbrev Fld.tguStatus_blocks : Fld := ⟨.tguStatus, 16, 11⟩
/-- TGU_STATUS.`kernel` -/ abbrev Fld.tguStatus_kernel : Fld := ⟨.tguStatus, 10, 9⟩
/-- TGU_STATUS.`draining` -/ abbrev Fld.tguStatus_draining : Fld := ⟨.tguStatus, 8, 8⟩
/-- TGU_EVENTS.`starve_grant` -/ abbrev Fld.tguEvents_starve_grant : Fld := ⟨.tguEvents, 4, 4⟩
/-- TGU_EVENTS.`bar_timeout` -/ abbrev Fld.tguEvents_bar_timeout : Fld := ⟨.tguEvents, 3, 3⟩
/-- TGU_EVENTS.`bar_mismatch` -/ abbrev Fld.tguEvents_bar_mismatch : Fld := ⟨.tguEvents, 2, 2⟩
/-- TGU_EVENTS.`poison` -/ abbrev Fld.tguEvents_poison : Fld := ⟨.tguEvents, 1, 1⟩
/-- TGU_EVENTS.`block_fault` -/ abbrev Fld.tguEvents_block_fault : Fld := ⟨.tguEvents, 0, 0⟩
/-- TGU_FAULT_PC.`cause` -/ abbrev Fld.tguFaultPc_cause : Fld := ⟨.tguFaultPc, 63, 56⟩
/-- TGU_FAULT_PC.`pc` -/ abbrev Fld.tguFaultPc_pc : Fld := ⟨.tguFaultPc, 47, 0⟩
/-- TGU_FAULT_BLK.`block` -/ abbrev Fld.tguFaultBlk_block : Fld := ⟨.tguFaultBlk, 63, 32⟩
/-- TGU_FAULT_BLK.`thread` -/ abbrev Fld.tguFaultBlk_thread : Fld := ⟨.tguFaultBlk, 25, 16⟩
/-- TGU_CNT.`count` -/ abbrev Fld.tguCnt_count : Fld := ⟨.tguCnt, 63, 0⟩
/-- TGU_WDOG.`wdog_log2` -/ abbrev Fld.tguWdog_wdog_log2 : Fld := ⟨.tguWdog, 4, 0⟩
/-- TGU_DIE_EVENTS.`cfg_err` -/ abbrev Fld.tguDieEvents_cfg_err : Fld := ⟨.tguDieEvents, 0, 0⟩
/-- CQ_RING_BASE.`base` -/ abbrev Fld.cqRingBase_base : Fld := ⟨.cqRingBase, 47, 5⟩
/-- CQ_RING_CFG.`enable` -/ abbrev Fld.cqRingCfg_enable : Fld := ⟨.cqRingCfg, 31, 31⟩
/-- CQ_RING_CFG.`log2_entries` -/ abbrev Fld.cqRingCfg_log2_entries : Fld := ⟨.cqRingCfg, 4, 0⟩
/-- CQ_STATUS.`mover_wait` -/ abbrev Fld.cqStatus_mover_wait : Fld := ⟨.cqStatus, 34, 34⟩
/-- CQ_STATUS.`vector_wait` -/ abbrev Fld.cqStatus_vector_wait : Fld := ⟨.cqStatus, 33, 33⟩
/-- CQ_STATUS.`array_wait` -/ abbrev Fld.cqStatus_array_wait : Fld := ⟨.cqStatus, 32, 32⟩
/-- CQ_STATUS.`mover_occ` -/ abbrev Fld.cqStatus_mover_occ : Fld := ⟨.cqStatus, 22, 16⟩
/-- CQ_STATUS.`vector_occ` -/ abbrev Fld.cqStatus_vector_occ : Fld := ⟨.cqStatus, 13, 8⟩
/-- CQ_STATUS.`array_occ` -/ abbrev Fld.cqStatus_array_occ : Fld := ⟨.cqStatus, 5, 0⟩
/-- CQ_SEQ.`pushed` -/ abbrev Fld.cqSeq_pushed : Fld := ⟨.cqSeq, 63, 32⟩
/-- CQ_SEQ.`completed` -/ abbrev Fld.cqSeq_completed : Fld := ⟨.cqSeq, 31, 0⟩
/-- CQ_EVENTS.`push_stall` -/ abbrev Fld.cqEvents_push_stall : Fld := ⟨.cqEvents, 3, 3⟩
/-- CQ_EVENTS.`cfg_err` -/ abbrev Fld.cqEvents_cfg_err : Fld := ⟨.cqEvents, 2, 2⟩
/-- CQ_EVENTS.`ring_off` -/ abbrev Fld.cqEvents_ring_off : Fld := ⟨.cqEvents, 1, 1⟩
/-- CQ_EVENTS.`desc_err` -/ abbrev Fld.cqEvents_desc_err : Fld := ⟨.cqEvents, 0, 0⟩
/-- CQ_CNT.`count` -/ abbrev Fld.cqCnt_count : Fld := ⟨.cqCnt, 63, 0⟩
/-- CQ_COL_STATUS.`pushed` -/ abbrev Fld.cqColStatus_pushed : Fld := ⟨.cqColStatus, 63, 32⟩
/-- CQ_COL_STATUS.`col_wait` -/ abbrev Fld.cqColStatus_col_wait : Fld := ⟨.cqColStatus, 8, 8⟩
/-- CQ_COL_STATUS.`col_occ` -/ abbrev Fld.cqColStatus_col_occ : Fld := ⟨.cqColStatus, 7, 0⟩
/-- CQ_DIE_EVENTS.`lq_err` -/ abbrev Fld.cqDieEvents_lq_err : Fld := ⟨.cqDieEvents, 2, 2⟩
/-- CQ_DIE_EVENTS.`cfg_err` -/ abbrev Fld.cqDieEvents_cfg_err : Fld := ⟨.cqDieEvents, 1, 1⟩
/-- CQ_DIE_EVENTS.`ring_off` -/ abbrev Fld.cqDieEvents_ring_off : Fld := ⟨.cqDieEvents, 0, 0⟩
/-- LQ_BASE.`base` -/ abbrev Fld.lqBase_base : Fld := ⟨.lqBase, 47, 7⟩
/-- LQ_CFG.`enable` -/ abbrev Fld.lqCfg_enable : Fld := ⟨.lqCfg, 31, 31⟩
/-- LQ_CFG.`cring_en` -/ abbrev Fld.lqCfg_cring_en : Fld := ⟨.lqCfg, 30, 30⟩
/-- LQ_CFG.`log2_entries` -/ abbrev Fld.lqCfg_log2_entries : Fld := ⟨.lqCfg, 3, 0⟩
/-- LQ_TAIL.`tail` -/ abbrev Fld.lqTail_tail : Fld := ⟨.lqTail, 15, 0⟩
/-- LQ_HEAD.`done` -/ abbrev Fld.lqHead_done : Fld := ⟨.lqHead, 31, 16⟩
/-- LQ_HEAD.`head` -/ abbrev Fld.lqHead_head : Fld := ⟨.lqHead, 15, 0⟩
/-- LQ_CRING_BASE.`base` -/ abbrev Fld.lqCringBase_base : Fld := ⟨.lqCringBase, 47, 5⟩
/-- SYNC_CTR.`armed` -/ abbrev Fld.syncCtr_armed : Fld := ⟨.syncCtr, 39, 39⟩
/-- SYNC_CTR.`drift` -/ abbrev Fld.syncCtr_drift : Fld := ⟨.syncCtr, 38, 38⟩
/-- SYNC_CTR.`unf` -/ abbrev Fld.syncCtr_unf : Fld := ⟨.syncCtr, 37, 37⟩
/-- SYNC_CTR.`ovf` -/ abbrev Fld.syncCtr_ovf : Fld := ⟨.syncCtr, 36, 36⟩
/-- SYNC_CTR.`value` -/ abbrev Fld.syncCtr_value : Fld := ⟨.syncCtr, 31, 0⟩
/-- SYNC_CTR_ADD.`amount` -/ abbrev Fld.syncCtrAdd_amount : Fld := ⟨.syncCtrAdd, 31, 0⟩
/-- SYNC_CTR_SUB.`amount` -/ abbrev Fld.syncCtrSub_amount : Fld := ⟨.syncCtrSub, 31, 0⟩
/-- SYNC_CTR_ARM.`armed` -/ abbrev Fld.syncCtrArm_armed : Fld := ⟨.syncCtrArm, 32, 32⟩
/-- SYNC_CTR_ARM.`expect` -/ abbrev Fld.syncCtrArm_expect : Fld := ⟨.syncCtrArm, 31, 0⟩
/-- SYNC_CTR_TOTAL.`total` -/ abbrev Fld.syncCtrTotal_total : Fld := ⟨.syncCtrTotal, 31, 0⟩
/-- SYNC_BAR_CFG.`core_mask` -/ abbrev Fld.syncBarCfg_core_mask : Fld := ⟨.syncBarCfg, 63, 32⟩
/-- SYNC_BAR_CFG.`enable` -/ abbrev Fld.syncBarCfg_enable : Fld := ⟨.syncBarCfg, 31, 31⟩
/-- SYNC_BAR_CFG.`done_en` -/ abbrev Fld.syncBarCfg_done_en : Fld := ⟨.syncBarCfg, 30, 30⟩
/-- SYNC_BAR_CFG.`per_core` -/ abbrev Fld.syncBarCfg_per_core : Fld := ⟨.syncBarCfg, 29, 15⟩
/-- SYNC_BAR_CFG.`done_ctr` -/ abbrev Fld.syncBarCfg_done_ctr : Fld := ⟨.syncBarCfg, 11, 0⟩
/-- SYNC_MBAR_CFG.`core_mask` -/ abbrev Fld.syncMbarCfg_core_mask : Fld := ⟨.syncMbarCfg, 63, 32⟩
/-- SYNC_MBAR_CFG.`enable` -/ abbrev Fld.syncMbarCfg_enable : Fld := ⟨.syncMbarCfg, 31, 31⟩
/-- SYNC_MBAR_CFG.`done_en` -/ abbrev Fld.syncMbarCfg_done_en : Fld := ⟨.syncMbarCfg, 30, 30⟩
/-- SYNC_MBAR_CFG.`per_core` -/ abbrev Fld.syncMbarCfg_per_core : Fld := ⟨.syncMbarCfg, 29, 15⟩
/-- SYNC_MBAR_CFG.`done_ctr` -/ abbrev Fld.syncMbarCfg_done_ctr : Fld := ⟨.syncMbarCfg, 11, 0⟩
/-- SYNC_MBAR_DIES.`die_mask` -/ abbrev Fld.syncMbarDies_die_mask : Fld := ⟨.syncMbarDies, 7, 0⟩
/-- SYNC_BAR_STATUS.`arrived_mask` -/ abbrev Fld.syncBarStatus_arrived_mask : Fld := ⟨.syncBarStatus, 63, 32⟩
/-- SYNC_BAR_STATUS.`generation` -/ abbrev Fld.syncBarStatus_generation : Fld := ⟨.syncBarStatus, 31, 16⟩
/-- SYNC_BAR_STATUS.`waiting` -/ abbrev Fld.syncBarStatus_waiting : Fld := ⟨.syncBarStatus, 15, 0⟩
/-- SYNC_MBAR_STATUS.`arrived_mask` -/ abbrev Fld.syncMbarStatus_arrived_mask : Fld := ⟨.syncMbarStatus, 63, 32⟩
/-- SYNC_MBAR_STATUS.`generation` -/ abbrev Fld.syncMbarStatus_generation : Fld := ⟨.syncMbarStatus, 31, 16⟩
/-- SYNC_MBAR_STATUS.`waiting` -/ abbrev Fld.syncMbarStatus_waiting : Fld := ⟨.syncMbarStatus, 15, 0⟩
/-- SYNC_BAR_WDOG.`wdog_log2` -/ abbrev Fld.syncBarWdog_wdog_log2 : Fld := ⟨.syncBarWdog, 4, 0⟩
/-- SYNC_DIE_EVENTS.`remote_unowned` -/ abbrev Fld.syncDieEvents_remote_unowned : Fld := ⟨.syncDieEvents, 4, 4⟩
/-- SYNC_DIE_EVENTS.`remote_lost` -/ abbrev Fld.syncDieEvents_remote_lost : Fld := ⟨.syncDieEvents, 3, 3⟩
/-- SYNC_DIE_EVENTS.`remote_reject` -/ abbrev Fld.syncDieEvents_remote_reject : Fld := ⟨.syncDieEvents, 2, 2⟩
/-- SYNC_DIE_EVENTS.`bar_timeout` -/ abbrev Fld.syncDieEvents_bar_timeout : Fld := ⟨.syncDieEvents, 1, 1⟩
/-- SYNC_DIE_EVENTS.`cfg_err` -/ abbrev Fld.syncDieEvents_cfg_err : Fld := ⟨.syncDieEvents, 0, 0⟩
/-- SYNC_W1C_COLLIDE.`collisions` -/ abbrev Fld.syncW1cCollide_collisions : Fld := ⟨.syncW1cCollide, 31, 0⟩
/-- SYNC_W1C_LAST.`bit` -/ abbrev Fld.syncW1cLast_bit : Fld := ⟨.syncW1cLast, 53, 48⟩
/-- SYNC_W1C_LAST.`addr` -/ abbrev Fld.syncW1cLast_addr : Fld := ⟨.syncW1cLast, 47, 0⟩
/-- SYNC_CNT.`count` -/ abbrev Fld.syncCnt_count : Fld := ⟨.syncCnt, 63, 0⟩
/-- DC_L1_CFG.`pf_en` -/ abbrev Fld.dcL1Cfg_pf_en : Fld := ⟨.dcL1Cfg, 4, 4⟩
/-- DC_L1_CFG.`pf_distance` -/ abbrev Fld.dcL1Cfg_pf_distance : Fld := ⟨.dcL1Cfg, 3, 0⟩
/-- DC_L1_STATUS.`slots_busy` -/ abbrev Fld.dcL1Status_slots_busy : Fld := ⟨.dcL1Status, 24, 16⟩
/-- DC_L1_STATUS.`ways` -/ abbrev Fld.dcL1Status_ways : Fld := ⟨.dcL1Status, 6, 0⟩
/-- DC_L1_CNT.`count` -/ abbrev Fld.dcL1Cnt_count : Fld := ⟨.dcL1Cnt, 63, 0⟩
/-- DC_CFG.`clove_mode` -/ abbrev Fld.dcCfg_clove_mode : Fld := ⟨.dcCfg, 9, 8⟩
/-- DC_CFG.`dc_pf_distance` -/ abbrev Fld.dcCfg_dc_pf_distance : Fld := ⟨.dcCfg, 7, 2⟩
/-- DC_STATUS.`remote_epoch` -/ abbrev Fld.dcStatus_remote_epoch : Fld := ⟨.dcStatus, 47, 32⟩
/-- DC_STATUS.`sweep_busy` -/ abbrev Fld.dcStatus_sweep_busy : Fld := ⟨.dcStatus, 16, 16⟩
/-- DC_STATUS.`retry_occ` -/ abbrev Fld.dcStatus_retry_occ : Fld := ⟨.dcStatus, 12, 0⟩
/-- DC_EVENTS.`uncorrected` -/ abbrev Fld.dcEvents_uncorrected : Fld := ⟨.dcEvents, 8, 8⟩
/-- DC_EVENTS.`bank_hot` -/ abbrev Fld.dcEvents_bank_hot : Fld := ⟨.dcEvents, 7, 7⟩
/-- DC_EVENTS.`acc_poison` -/ abbrev Fld.dcEvents_acc_poison : Fld := ⟨.dcEvents, 6, 6⟩
/-- DC_EVENTS.`dead_refused` -/ abbrev Fld.dcEvents_dead_refused : Fld := ⟨.dcEvents, 5, 5⟩
/-- DC_EVENTS.`dead_write` -/ abbrev Fld.dcEvents_dead_write : Fld := ⟨.dcEvents, 4, 4⟩
/-- DC_EVENTS.`dead_read` -/ abbrev Fld.dcEvents_dead_read : Fld := ⟨.dcEvents, 3, 3⟩
/-- DC_EVENTS.`pin_pressure` -/ abbrev Fld.dcEvents_pin_pressure : Fld := ⟨.dcEvents, 2, 2⟩
/-- DC_EVENTS.`pin_refused` -/ abbrev Fld.dcEvents_pin_refused : Fld := ⟨.dcEvents, 1, 1⟩
/-- DC_EVENTS.`cfg_err` -/ abbrev Fld.dcEvents_cfg_err : Fld := ⟨.dcEvents, 0, 0⟩
/-- DC_PIN_QUOTA.`quota` -/ abbrev Fld.dcPinQuota_quota : Fld := ⟨.dcPinQuota, 20, 0⟩
/-- DC_PIN_USED.`used` -/ abbrev Fld.dcPinUsed_used : Fld := ⟨.dcPinUsed, 20, 0⟩
/-- DC_PIN_VA.`va` -/ abbrev Fld.dcPinVa_va : Fld := ⟨.dcPinVa, 47, 7⟩
/-- DC_PIN_CMD.`lines` -/ abbrev Fld.dcPinCmd_lines : Fld := ⟨.dcPinCmd, 63, 32⟩
/-- DC_PIN_CMD.`op` -/ abbrev Fld.dcPinCmd_op : Fld := ⟨.dcPinCmd, 1, 0⟩
/-- DC_PIN_STATUS.`done` -/ abbrev Fld.dcPinStatus_done : Fld := ⟨.dcPinStatus, 63, 32⟩
/-- DC_PIN_STATUS.`reason` -/ abbrev Fld.dcPinStatus_reason : Fld := ⟨.dcPinStatus, 7, 4⟩
/-- DC_PIN_STATUS.`busy` -/ abbrev Fld.dcPinStatus_busy : Fld := ⟨.dcPinStatus, 0, 0⟩
/-- DC_PIN_FAIL.`va` -/ abbrev Fld.dcPinFail_va : Fld := ⟨.dcPinFail, 47, 0⟩
/-- DC_PIN_PRESS.`threshold` -/ abbrev Fld.dcPinPress_threshold : Fld := ⟨.dcPinPress, 31, 12⟩
/-- DC_PIN_PRESS.`window_us` -/ abbrev Fld.dcPinPress_window_us : Fld := ⟨.dcPinPress, 9, 0⟩
/-- DC_DEAD_CFG.`read_fault` -/ abbrev Fld.dcDeadCfg_read_fault : Fld := ⟨.dcDeadCfg, 0, 0⟩
/-- DC_DEAD_ADDR.`base` -/ abbrev Fld.dcDeadAddr_base : Fld := ⟨.dcDeadAddr, 47, 12⟩
/-- DC_DEAD_CTL.`len` -/ abbrev Fld.dcDeadCtl_len : Fld := ⟨.dcDeadCtl, 63, 32⟩
/-- DC_DEAD_CTL.`err` -/ abbrev Fld.dcDeadCtl_err : Fld := ⟨.dcDeadCtl, 7, 5⟩
/-- DC_DEAD_CTL.`cancel` -/ abbrev Fld.dcDeadCtl_cancel : Fld := ⟨.dcDeadCtl, 4, 4⟩
/-- DC_DEAD_CTL.`released` -/ abbrev Fld.dcDeadCtl_released : Fld := ⟨.dcDeadCtl, 3, 3⟩
/-- DC_DEAD_CTL.`busy` -/ abbrev Fld.dcDeadCtl_busy : Fld := ⟨.dcDeadCtl, 2, 2⟩
/-- DC_DEAD_CTL.`active` -/ abbrev Fld.dcDeadCtl_active : Fld := ⟨.dcDeadCtl, 1, 1⟩
/-- DC_DEAD_CTL.`declare` -/ abbrev Fld.dcDeadCtl_declare : Fld := ⟨.dcDeadCtl, 0, 0⟩
/-- DC_CNT.`count` -/ abbrev Fld.dcCnt_count : Fld := ⟨.dcCnt, 63, 0⟩
/-- HBM_CFG.`scrub_rate` -/ abbrev Fld.hbmCfg_scrub_rate : Fld := ⟨.hbmCfg, 23, 16⟩
/-- HBM_CFG.`ce_row_limit` -/ abbrev Fld.hbmCfg_ce_row_limit : Fld := ⟨.hbmCfg, 11, 8⟩
/-- HBM_CFG.`ecc_mode` -/ abbrev Fld.hbmCfg_ecc_mode : Fld := ⟨.hbmCfg, 1, 0⟩
/-- HBM_STATUS.`ppr_left` -/ abbrev Fld.hbmStatus_ppr_left : Fld := ⟨.hbmStatus, 23, 16⟩
/-- HBM_STATUS.`rate` -/ abbrev Fld.hbmStatus_rate : Fld := ⟨.hbmStatus, 11, 9⟩
/-- HBM_STATUS.`margining` -/ abbrev Fld.hbmStatus_margining : Fld := ⟨.hbmStatus, 8, 8⟩
/-- HBM_STATUS.`scrub_open` -/ abbrev Fld.hbmStatus_scrub_open : Fld := ⟨.hbmStatus, 7, 7⟩
/-- HBM_STATUS.`retiring` -/ abbrev Fld.hbmStatus_retiring : Fld := ⟨.hbmStatus, 6, 6⟩
/-- HBM_EVENTS.`poison_read` -/ abbrev Fld.hbmEvents_poison_read : Fld := ⟨.hbmEvents, 7, 7⟩
/-- HBM_EVENTS.`scrub_pass` -/ abbrev Fld.hbmEvents_scrub_pass : Fld := ⟨.hbmEvents, 6, 6⟩
/-- HBM_EVENTS.`retire_failed` -/ abbrev Fld.hbmEvents_retire_failed : Fld := ⟨.hbmEvents, 5, 5⟩
/-- HBM_EVENTS.`retire_candidate` -/ abbrev Fld.hbmEvents_retire_candidate : Fld := ⟨.hbmEvents, 4, 4⟩
/-- HBM_EVENTS.`mirror_retry` -/ abbrev Fld.hbmEvents_mirror_retry : Fld := ⟨.hbmEvents, 3, 3⟩
/-- HBM_EVENTS.`ue` -/ abbrev Fld.hbmEvents_ue : Fld := ⟨.hbmEvents, 2, 2⟩
/-- HBM_EVENTS.`ce` -/ abbrev Fld.hbmEvents_ce : Fld := ⟨.hbmEvents, 1, 1⟩
/-- HBM_EVENTS.`cfg_err` -/ abbrev Fld.hbmEvents_cfg_err : Fld := ⟨.hbmEvents, 0, 0⟩
/-- HBM_ERR_ADDR.`valid` -/ abbrev Fld.hbmErrAddr_valid : Fld := ⟨.hbmErrAddr, 63, 63⟩
/-- HBM_ERR_ADDR.`ue` -/ abbrev Fld.hbmErrAddr_ue : Fld := ⟨.hbmErrAddr, 62, 62⟩
/-- HBM_ERR_ADDR.`scrub` -/ abbrev Fld.hbmErrAddr_scrub : Fld := ⟨.hbmErrAddr, 61, 61⟩
/-- HBM_ERR_ADDR.`mirror` -/ abbrev Fld.hbmErrAddr_mirror : Fld := ⟨.hbmErrAddr, 60, 60⟩
/-- HBM_ERR_ADDR.`pch` -/ abbrev Fld.hbmErrAddr_pch : Fld := ⟨.hbmErrAddr, 35, 30⟩
/-- HBM_ERR_ADDR.`sid` -/ abbrev Fld.hbmErrAddr_sid : Fld := ⟨.hbmErrAddr, 29, 28⟩
/-- HBM_ERR_ADDR.`bg` -/ abbrev Fld.hbmErrAddr_bg : Fld := ⟨.hbmErrAddr, 27, 26⟩
/-- HBM_ERR_ADDR.`bank` -/ abbrev Fld.hbmErrAddr_bank : Fld := ⟨.hbmErrAddr, 25, 24⟩
/-- HBM_ERR_ADDR.`row` -/ abbrev Fld.hbmErrAddr_row : Fld := ⟨.hbmErrAddr, 23, 10⟩
/-- HBM_ERR_ADDR.`col` -/ abbrev Fld.hbmErrAddr_col : Fld := ⟨.hbmErrAddr, 9, 5⟩
/-- HBM_ERR_SYM.`sym_mask` -/ abbrev Fld.hbmErrSym_sym_mask : Fld := ⟨.hbmErrSym, 35, 0⟩
/-- HBM_SCRUB.`passes` -/ abbrev Fld.hbmScrub_passes : Fld := ⟨.hbmScrub, 63, 32⟩
/-- HBM_SCRUB.`position` -/ abbrev Fld.hbmScrub_position : Fld := ⟨.hbmScrub, 24, 0⟩
/-- HBM_CNT.`count` -/ abbrev Fld.hbmCnt_count : Fld := ⟨.hbmCnt, 63, 0⟩
/-- GD_STATUS.`poison_used` -/ abbrev Fld.gdStatus_poison_used : Fld := ⟨.gdStatus, 28, 16⟩
/-- GD_STATUS.`rate` -/ abbrev Fld.gdStatus_rate : Fld := ⟨.gdStatus, 1, 0⟩
/-- GD_EVENTS.`poison_read` -/ abbrev Fld.gdEvents_poison_read : Fld := ⟨.gdEvents, 2, 2⟩
/-- GD_EVENTS.`ue` -/ abbrev Fld.gdEvents_ue : Fld := ⟨.gdEvents, 1, 1⟩
/-- GD_EVENTS.`edc_retry` -/ abbrev Fld.gdEvents_edc_retry : Fld := ⟨.gdEvents, 0, 0⟩
/-- GD_ERR_LOG.`valid` -/ abbrev Fld.gdErrLog_valid : Fld := ⟨.gdErrLog, 63, 63⟩
/-- GD_ERR_LOG.`channel` -/ abbrev Fld.gdErrLog_channel : Fld := ⟨.gdErrLog, 38, 35⟩
/-- GD_ERR_LOG.`sector` -/ abbrev Fld.gdErrLog_sector : Fld := ⟨.gdErrLog, 34, 5⟩
/-- GD_CNT.`count` -/ abbrev Fld.gdCnt_count : Fld := ⟨.gdCnt, 63, 0⟩
/-- CFG_XLAT_ROOT.`root` -/ abbrev Fld.cfgXlatRoot_root : Fld := ⟨.cfgXlatRoot, 47, 12⟩
/-- CFG_XLAT_ROOT.`valid` -/ abbrev Fld.cfgXlatRoot_valid : Fld := ⟨.cfgXlatRoot, 0, 0⟩
/-- CFG_XLAT_INV.`va` -/ abbrev Fld.cfgXlatInv_va : Fld := ⟨.cfgXlatInv, 63, 16⟩
/-- CFG_XLAT_INV.`inv_err` -/ abbrev Fld.cfgXlatInv_inv_err : Fld := ⟨.cfgXlatInv, 4, 4⟩
/-- CFG_XLAT_INV.`scope` -/ abbrev Fld.cfgXlatInv_scope : Fld := ⟨.cfgXlatInv, 3, 2⟩
/-- CFG_XLAT_INV.`busy` -/ abbrev Fld.cfgXlatInv_busy : Fld := ⟨.cfgXlatInv, 1, 1⟩
/-- CFG_XLAT_INV.`go` -/ abbrev Fld.cfgXlatInv_go : Fld := ⟨.cfgXlatInv, 0, 0⟩
/-- FAB_NODE.`lock` -/ abbrev Fld.fabNode_lock : Fld := ⟨.fabNode, 15, 15⟩
/-- FAB_NODE.`valid` -/ abbrev Fld.fabNode_valid : Fld := ⟨.fabNode, 14, 14⟩
/-- FAB_NODE.`node` -/ abbrev Fld.fabNode_node : Fld := ⟨.fabNode, 13, 0⟩
/-- FAB_DIMS.`lx` -/ abbrev Fld.fabDims_lx : Fld := ⟨.fabDims, 8, 6⟩
/-- FAB_DIMS.`ly` -/ abbrev Fld.fabDims_ly : Fld := ⟨.fabDims, 5, 3⟩
/-- FAB_DIMS.`lz` -/ abbrev Fld.fabDims_lz : Fld := ⟨.fabDims, 2, 0⟩
/-- FAB_JOB.`valid` -/ abbrev Fld.fabJob_valid : Fld := ⟨.fabJob, 63, 63⟩
/-- FAB_JOB.`job` -/ abbrev Fld.fabJob_job : Fld := ⟨.fabJob, 47, 32⟩
/-- FAB_JOB.`x0` -/ abbrev Fld.fabJob_x0 : Fld := ⟨.fabJob, 31, 27⟩
/-- FAB_JOB.`y0` -/ abbrev Fld.fabJob_y0 : Fld := ⟨.fabJob, 26, 22⟩
/-- FAB_JOB.`z0` -/ abbrev Fld.fabJob_z0 : Fld := ⟨.fabJob, 21, 18⟩
/-- FAB_JOB.`bx` -/ abbrev Fld.fabJob_bx : Fld := ⟨.fabJob, 17, 15⟩
/-- FAB_JOB.`by` -/ abbrev Fld.fabJob_by : Fld := ⟨.fabJob, 14, 12⟩
/-- FAB_JOB.`bz` -/ abbrev Fld.fabJob_bz : Fld := ⟨.fabJob, 11, 9⟩
/-- FAB_ROUTE_CTL.`epoch` -/ abbrev Fld.fabRouteCtl_epoch : Fld := ⟨.fabRouteCtl, 63, 48⟩
/-- FAB_ROUTE_CTL.`pend_epoch` -/ abbrev Fld.fabRouteCtl_pend_epoch : Fld := ⟨.fabRouteCtl, 47, 32⟩
/-- FAB_ROUTE_CTL.`switch_late` -/ abbrev Fld.fabRouteCtl_switch_late : Fld := ⟨.fabRouteCtl, 1, 1⟩
/-- FAB_ROUTE_CTL.`arm` -/ abbrev Fld.fabRouteCtl_arm : Fld := ⟨.fabRouteCtl, 0, 0⟩
/-- FAB_ROUTE_SWITCH.`switch_ft` -/ abbrev Fld.fabRouteSwitch_switch_ft : Fld := ⟨.fabRouteSwitch, 63, 0⟩
/-- FAB_EVENTS.`cfg_err` -/ abbrev Fld.fabEvents_cfg_err : Fld := ⟨.fabEvents, 14, 14⟩
/-- FAB_EVENTS.`wiring` -/ abbrev Fld.fabEvents_wiring : Fld := ⟨.fabEvents, 13, 13⟩
/-- FAB_EVENTS.`degraded` -/ abbrev Fld.fabEvents_degraded : Fld := ⟨.fabEvents, 12, 12⟩
/-- FAB_EVENTS.`self_lost` -/ abbrev Fld.fabEvents_self_lost : Fld := ⟨.fabEvents, 11, 11⟩
/-- FAB_EVENTS.`epoch_switched` -/ abbrev Fld.fabEvents_epoch_switched : Fld := ⟨.fabEvents, 10, 10⟩
/-- FAB_EVENTS.`discarded` -/ abbrev Fld.fabEvents_discarded : Fld := ⟨.fabEvents, 9, 9⟩
/-- FAB_EVENTS.`reject_in` -/ abbrev Fld.fabEvents_reject_in : Fld := ⟨.fabEvents, 8, 8⟩
/-- FAB_EVENTS.`reject_out` -/ abbrev Fld.fabEvents_reject_out : Fld := ⟨.fabEvents, 7, 7⟩
/-- FAB_EVENTS.`dead_load` -/ abbrev Fld.fabEvents_dead_load : Fld := ⟨.fabEvents, 6, 6⟩
/-- FAB_EVENTS.`writes_lost` -/ abbrev Fld.fabEvents_writes_lost : Fld := ⟨.fabEvents, 5, 5⟩
/-- FAB_EVENTS.`fence_timeout` -/ abbrev Fld.fabEvents_fence_timeout : Fld := ⟨.fabEvents, 4, 4⟩
/-- FAB_EVENTS.`node_lost` -/ abbrev Fld.fabEvents_node_lost : Fld := ⟨.fabEvents, 3, 3⟩
/-- FAB_EVENTS.`neighbour_lost` -/ abbrev Fld.fabEvents_neighbour_lost : Fld := ⟨.fabEvents, 2, 2⟩
/-- FAB_EVENTS.`swap` -/ abbrev Fld.fabEvents_swap : Fld := ⟨.fabEvents, 1, 1⟩
/-- FAB_EVENTS.`port_failed` -/ abbrev Fld.fabEvents_port_failed : Fld := ⟨.fabEvents, 0, 0⟩
/-- FAB_PORT_STATUS.`peer_node` -/ abbrev Fld.fabPortStatus_peer_node : Fld := ⟨.fabPortStatus, 63, 50⟩
/-- FAB_PORT_STATUS.`peer_die` -/ abbrev Fld.fabPortStatus_peer_die : Fld := ⟨.fabPortStatus, 49, 47⟩
/-- FAB_PORT_STATUS.`peer_port` -/ abbrev Fld.fabPortStatus_peer_port : Fld := ⟨.fabPortStatus, 46, 44⟩
/-- FAB_PORT_STATUS.`lanes_ok` -/ abbrev Fld.fabPortStatus_lanes_ok : Fld := ⟨.fabPortStatus, 43, 40⟩
/-- FAB_PORT_STATUS.`replaces` -/ abbrev Fld.fabPortStatus_replaces : Fld := ⟨.fabPortStatus, 39, 32⟩
/-- FAB_PORT_STATUS.`dir` -/ abbrev Fld.fabPortStatus_dir : Fld := ⟨.fabPortStatus, 23, 21⟩
/-- FAB_PORT_STATUS.`role` -/ abbrev Fld.fabPortStatus_role : Fld := ⟨.fabPortStatus, 20, 19⟩
/-- FAB_PORT_STATUS.`rate` -/ abbrev Fld.fabPortStatus_rate : Fld := ⟨.fabPortStatus, 18, 17⟩
/-- FAB_PORT_STATUS.`state` -/ abbrev Fld.fabPortStatus_state : Fld := ⟨.fabPortStatus, 15, 12⟩
/-- FAB_PORT_STATUS.`hb_missed` -/ abbrev Fld.fabPortStatus_hb_missed : Fld := ⟨.fabPortStatus, 3, 0⟩
/-- FAB_PORT_CTL.`edge_job` -/ abbrev Fld.fabPortCtl_edge_job : Fld := ⟨.fabPortCtl, 31, 16⟩
/-- FAB_PORT_CTL.`edge_en` -/ abbrev Fld.fabPortCtl_edge_en : Fld := ⟨.fabPortCtl, 15, 15⟩
/-- FAB_PORT_CTL.`max_rate` -/ abbrev Fld.fabPortCtl_max_rate : Fld := ⟨.fabPortCtl, 2, 1⟩
/-- FAB_PORT_CTL.`disable` -/ abbrev Fld.fabPortCtl_disable : Fld := ⟨.fabPortCtl, 0, 0⟩
/-- FAB_DETOUR.`entry` -/ abbrev Fld.fabDetour_entry : Fld := ⟨.fabDetour, 63, 0⟩
/-- FAB_DETOUR_PEND.`entry` -/ abbrev Fld.fabDetourPend_entry : Fld := ⟨.fabDetourPend, 63, 0⟩
/-- FAB_LOST.`lost` -/ abbrev Fld.fabLost_lost : Fld := ⟨.fabLost, 63, 0⟩
/-- FAB_PORT_CNT.`count` -/ abbrev Fld.fabPortCnt_count : Fld := ⟨.fabPortCnt, 63, 0⟩
/-- FAB_CNT.`count` -/ abbrev Fld.fabCnt_count : Fld := ⟨.fabCnt, 63, 0⟩
/-- COL_CFG.`t16_compat` -/ abbrev Fld.colCfg_t16_compat : Fld := ⟨.colCfg, 1, 1⟩
/-- COL_CFG.`pf_en` -/ abbrev Fld.colCfg_pf_en : Fld := ⟨.colCfg, 0, 0⟩
/-- COL_GRP_BASE.`base` -/ abbrev Fld.colGrpBase_base : Fld := ⟨.colGrpBase, 47, 12⟩
/-- COL_GRP_CFG.`entries` -/ abbrev Fld.colGrpCfg_entries : Fld := ⟨.colGrpCfg, 8, 0⟩
/-- COL_STATUS.`oldest_group` -/ abbrev Fld.colStatus_oldest_group : Fld := ⟨.colStatus, 15, 8⟩
/-- COL_STATUS.`relaying` -/ abbrev Fld.colStatus_relaying : Fld := ⟨.colStatus, 5, 5⟩
/-- COL_STATUS.`waiting_peer` -/ abbrev Fld.colStatus_waiting_peer : Fld := ⟨.colStatus, 4, 4⟩
/-- COL_STATUS.`in_progress` -/ abbrev Fld.colStatus_in_progress : Fld := ⟨.colStatus, 3, 0⟩
/-- COL_EVENTS.`stage_short` -/ abbrev Fld.colEvents_stage_short : Fld := ⟨.colEvents, 5, 5⟩
/-- COL_EVENTS.`group_err` -/ abbrev Fld.colEvents_group_err : Fld := ⟨.colEvents, 4, 4⟩
/-- COL_EVENTS.`peer_lost` -/ abbrev Fld.colEvents_peer_lost : Fld := ⟨.colEvents, 3, 3⟩
/-- COL_EVENTS.`late_peer` -/ abbrev Fld.colEvents_late_peer : Fld := ⟨.colEvents, 2, 2⟩
/-- COL_EVENTS.`late_self` -/ abbrev Fld.colEvents_late_self : Fld := ⟨.colEvents, 1, 1⟩
/-- COL_EVENTS.`cfg_err` -/ abbrev Fld.colEvents_cfg_err : Fld := ⟨.colEvents, 0, 0⟩
/-- COL_RESUME.`group` -/ abbrev Fld.colResume_group : Fld := ⟨.colResume, 7, 0⟩
/-- COL_CNT.`count` -/ abbrev Fld.colCnt_count : Fld := ⟨.colCnt, 63, 0⟩
/-- SNAP_CFG.`buddy` -/ abbrev Fld.snapCfg_buddy : Fld := ⟨.snapCfg, 63, 50⟩
/-- SNAP_CFG.`replica` -/ abbrev Fld.snapCfg_replica : Fld := ⟨.snapCfg, 49, 36⟩
/-- SNAP_CFG.`enable` -/ abbrev Fld.snapCfg_enable : Fld := ⟨.snapCfg, 35, 35⟩
/-- SNAP_CFG.`rgn_count` -/ abbrev Fld.snapCfg_rgn_count : Fld := ⟨.snapCfg, 32, 24⟩
/-- SNAP_CFG.`commit_ctr` -/ abbrev Fld.snapCfg_commit_ctr : Fld := ⟨.snapCfg, 23, 12⟩
/-- SNAP_CFG.`drain_rate` -/ abbrev Fld.snapCfg_drain_rate : Fld := ⟨.snapCfg, 7, 0⟩
/-- SNAP_TIMES.`vote_window` -/ abbrev Fld.snapTimes_vote_window : Fld := ⟨.snapTimes, 31, 16⟩
/-- SNAP_TIMES.`drain_delay` -/ abbrev Fld.snapTimes_drain_delay : Fld := ⟨.snapTimes, 15, 0⟩
/-- SNAP_RGN_BASE.`base` -/ abbrev Fld.snapRgnBase_base : Fld := ⟨.snapRgnBase, 47, 8⟩
/-- SNAP_SSR_BASE.`base` -/ abbrev Fld.snapSsrBase_base : Fld := ⟨.snapSsrBase, 47, 8⟩
/-- SNAP_WORK.`len` -/ abbrev Fld.snapWork_len : Fld := ⟨.snapWork, 63, 48⟩
/-- SNAP_WORK.`base` -/ abbrev Fld.snapWork_base : Fld := ⟨.snapWork, 47, 22⟩
/-- SNAP_STATUS.`restoring` -/ abbrev Fld.snapStatus_restoring : Fld := ⟨.snapStatus, 6, 6⟩
/-- SNAP_STATUS.`vote_pending` -/ abbrev Fld.snapStatus_vote_pending : Fld := ⟨.snapStatus, 5, 5⟩
/-- SNAP_STATUS.`committed` -/ abbrev Fld.snapStatus_committed : Fld := ⟨.snapStatus, 4, 4⟩
/-- SNAP_STATUS.`drain_done` -/ abbrev Fld.snapStatus_drain_done : Fld := ⟨.snapStatus, 3, 3⟩
/-- SNAP_STATUS.`digest_done` -/ abbrev Fld.snapStatus_digest_done : Fld := ⟨.snapStatus, 2, 2⟩
/-- SNAP_STATUS.`capturing` -/ abbrev Fld.snapStatus_capturing : Fld := ⟨.snapStatus, 1, 1⟩
/-- SNAP_STATUS.`cur` -/ abbrev Fld.snapStatus_cur : Fld := ⟨.snapStatus, 0, 0⟩
/-- SNAP_STEP.`step` -/ abbrev Fld.snapStep_step : Fld := ⟨.snapStep, 63, 0⟩
/-- SNAP_COMMIT.`step` -/ abbrev Fld.snapCommit_step : Fld := ⟨.snapCommit, 63, 0⟩
/-- SNAP_UPD_DONE.`step` -/ abbrev Fld.snapUpdDone_step : Fld := ⟨.snapUpdDone, 63, 0⟩
/-- SNAP_EVENTS.`restore_done` -/ abbrev Fld.snapEvents_restore_done : Fld := ⟨.snapEvents, 7, 7⟩
/-- SNAP_EVENTS.`drain_failed` -/ abbrev Fld.snapEvents_drain_failed : Fld := ⟨.snapEvents, 6, 6⟩
/-- SNAP_EVENTS.`digest_mismatch` -/ abbrev Fld.snapEvents_digest_mismatch : Fld := ⟨.snapEvents, 5, 5⟩
/-- SNAP_EVENTS.`commit_failed` -/ abbrev Fld.snapEvents_commit_failed : Fld := ⟨.snapEvents, 4, 4⟩
/-- SNAP_EVENTS.`committed` -/ abbrev Fld.snapEvents_committed : Fld := ⟨.snapEvents, 3, 3⟩
/-- SNAP_EVENTS.`flip_skipped` -/ abbrev Fld.snapEvents_flip_skipped : Fld := ⟨.snapEvents, 2, 2⟩
/-- SNAP_EVENTS.`late_boundary` -/ abbrev Fld.snapEvents_late_boundary : Fld := ⟨.snapEvents, 1, 1⟩
/-- SNAP_EVENTS.`cfg_err` -/ abbrev Fld.snapEvents_cfg_err : Fld := ⟨.snapEvents, 0, 0⟩
/-- SNAP_FQ_BASE.`base` -/ abbrev Fld.snapFqBase_base : Fld := ⟨.snapFqBase, 47, 6⟩
/-- SNAP_FQ_CFG.`enable` -/ abbrev Fld.snapFqCfg_enable : Fld := ⟨.snapFqCfg, 31, 31⟩
/-- SNAP_FQ_CFG.`intr_en` -/ abbrev Fld.snapFqCfg_intr_en : Fld := ⟨.snapFqCfg, 30, 30⟩
/-- SNAP_FQ_CFG.`intr` -/ abbrev Fld.snapFqCfg_intr : Fld := ⟨.snapFqCfg, 19, 8⟩
/-- SNAP_FQ_CFG.`log2_entries` -/ abbrev Fld.snapFqCfg_log2_entries : Fld := ⟨.snapFqCfg, 4, 0⟩
/-- SNAP_FQ_PTR.`tail` -/ abbrev Fld.snapFqPtr_tail : Fld := ⟨.snapFqPtr, 63, 32⟩
/-- SNAP_FQ_PTR.`head` -/ abbrev Fld.snapFqPtr_head : Fld := ⟨.snapFqPtr, 31, 0⟩
/-- SNAP_FQ_DROPPED.`dropped` -/ abbrev Fld.snapFqDropped_dropped : Fld := ⟨.snapFqDropped, 31, 0⟩
/-- SNAP_CNT.`count` -/ abbrev Fld.snapCnt_count : Fld := ⟨.snapCnt, 63, 0⟩
/-- SNAP_RECV_CFG.`enable` -/ abbrev Fld.snapRecvCfg_enable : Fld := ⟨.snapRecvCfg, 14, 14⟩
/-- SNAP_RECV_CFG.`sender` -/ abbrev Fld.snapRecvCfg_sender : Fld := ⟨.snapRecvCfg, 13, 0⟩
/-- SNAP_RECV_AREA.`len` -/ abbrev Fld.snapRecvArea_len : Fld := ⟨.snapRecvArea, 63, 48⟩
/-- SNAP_RECV_AREA.`base` -/ abbrev Fld.snapRecvArea_base : Fld := ⟨.snapRecvArea, 47, 22⟩
/-- SNAP_HOLD_AREA.`len` -/ abbrev Fld.snapHoldArea_len : Fld := ⟨.snapHoldArea, 63, 48⟩
/-- SNAP_HOLD_AREA.`base` -/ abbrev Fld.snapHoldArea_base : Fld := ⟨.snapHoldArea, 47, 22⟩
/-- SNAP_RECV_STATUS.`recv_complete` -/ abbrev Fld.snapRecvStatus_recv_complete : Fld := ⟨.snapRecvStatus, 63, 63⟩
/-- SNAP_RECV_STATUS.`hold_valid` -/ abbrev Fld.snapRecvStatus_hold_valid : Fld := ⟨.snapRecvStatus, 62, 62⟩
/-- SNAP_RECV_STATUS.`copying` -/ abbrev Fld.snapRecvStatus_copying : Fld := ⟨.snapRecvStatus, 61, 61⟩
/-- SNAP_RECV_STATUS.`recv_bytes` -/ abbrev Fld.snapRecvStatus_recv_bytes : Fld := ⟨.snapRecvStatus, 39, 0⟩
/-- SNAP_RECV_STEP.`step` -/ abbrev Fld.snapRecvStep_step : Fld := ⟨.snapRecvStep, 63, 0⟩
/-- SNAP_HOLD_STEP.`step` -/ abbrev Fld.snapHoldStep_step : Fld := ⟨.snapHoldStep, 63, 0⟩
/-- PWR_CAP.`class` -/ abbrev Fld.pwrCap_class : Fld := ⟨.pwrCap, 28, 27⟩
/-- PWR_CAP.`strap_invalid` -/ abbrev Fld.pwrCap_strap_invalid : Fld := ⟨.pwrCap, 26, 26⟩
/-- PWR_CAP.`chassis` -/ abbrev Fld.pwrCap_chassis : Fld := ⟨.pwrCap, 25, 25⟩
/-- PWR_CAP.`cap_w` -/ abbrev Fld.pwrCap_cap_w : Fld := ⟨.pwrCap, 15, 0⟩
/-- PWR_CAP_PEND.`valid` -/ abbrev Fld.pwrCapPend_valid : Fld := ⟨.pwrCapPend, 31, 31⟩
/-- PWR_CAP_PEND.`cap_w` -/ abbrev Fld.pwrCapPend_cap_w : Fld := ⟨.pwrCapPend, 15, 0⟩
/-- PWR_DOMAIN_W.`compute` -/ abbrev Fld.pwrDomainW_compute : Fld := ⟨.pwrDomainW, 63, 48⟩
/-- PWR_DOMAIN_W.`memory` -/ abbrev Fld.pwrDomainW_memory : Fld := ⟨.pwrDomainW, 47, 32⟩
/-- PWR_DOMAIN_W.`optics` -/ abbrev Fld.pwrDomainW_optics : Fld := ⟨.pwrDomainW, 31, 16⟩
/-- PWR_DOMAIN_W.`bludjan` -/ abbrev Fld.pwrDomainW_bludjan : Fld := ⟨.pwrDomainW, 15, 0⟩
/-- PWR_ENERGY.`energy` -/ abbrev Fld.pwrEnergy_energy : Fld := ⟨.pwrEnergy, 63, 0⟩
/-- PWR_CTL.`gain` -/ abbrev Fld.pwrCtl_gain : Fld := ⟨.pwrCtl, 11, 8⟩
/-- PWR_CTL.`droop_len` -/ abbrev Fld.pwrCtl_droop_len : Fld := ⟨.pwrCtl, 7, 4⟩
/-- PWR_CTL.`droop_mv` -/ abbrev Fld.pwrCtl_droop_mv : Fld := ⟨.pwrCtl, 3, 0⟩
/-- PWR_STATUS.`die_w` -/ abbrev Fld.pwrStatus_die_w : Fld := ⟨.pwrStatus, 63, 48⟩
/-- PWR_STATUS.`share_w` -/ abbrev Fld.pwrStatus_share_w : Fld := ⟨.pwrStatus, 47, 32⟩
/-- PWR_STATUS.`bubbles` -/ abbrev Fld.pwrStatus_bubbles : Fld := ⟨.pwrStatus, 31, 24⟩
/-- PWR_STATUS.`floor_w` -/ abbrev Fld.pwrStatus_floor_w : Fld := ⟨.pwrStatus, 23, 8⟩
/-- PWR_STATUS.`thermal` -/ abbrev Fld.pwrStatus_thermal : Fld := ⟨.pwrStatus, 1, 1⟩
/-- PWR_STATUS.`nutmeg` -/ abbrev Fld.pwrStatus_nutmeg : Fld := ⟨.pwrStatus, 0, 0⟩
/-- PWR_MEM_W.`stack_w` -/ abbrev Fld.pwrMemW_stack_w : Fld := ⟨.pwrMemW, 63, 0⟩
/-- PWR_NUT_CFG.`enable` -/ abbrev Fld.pwrNutCfg_enable : Fld := ⟨.pwrNutCfg, 31, 31⟩
/-- PWR_NUT_CFG.`floor_pct` -/ abbrev Fld.pwrNutCfg_floor_pct : Fld := ⟨.pwrNutCfg, 30, 24⟩
/-- PWR_NUT_CFG.`taper_ms` -/ abbrev Fld.pwrNutCfg_taper_ms : Fld := ⟨.pwrNutCfg, 23, 12⟩
/-- PWR_NUT_CFG.`grid_us` -/ abbrev Fld.pwrNutCfg_grid_us : Fld := ⟨.pwrNutCfg, 11, 0⟩
/-- PWR_NUT_DSLOT.`mask` -/ abbrev Fld.pwrNutDslot_mask : Fld := ⟨.pwrNutDslot, 63, 0⟩
/-- PWR_NUT_MSLOT.`mask` -/ abbrev Fld.pwrNutMslot_mask : Fld := ⟨.pwrNutMslot, 15, 0⟩
/-- PWR_NUT_GRP.`mask` -/ abbrev Fld.pwrNutGrp_mask : Fld := ⟨.pwrNutGrp, 63, 0⟩
/-- PWR_NUT_PROF.`dur_us` -/ abbrev Fld.pwrNutProf_dur_us : Fld := ⟨.pwrNutProf, 63, 32⟩
/-- PWR_NUT_PROF.`level_pct` -/ abbrev Fld.pwrNutProf_level_pct : Fld := ⟨.pwrNutProf, 23, 16⟩
/-- PWR_NUT_PROF.`valid` -/ abbrev Fld.pwrNutProf_valid : Fld := ⟨.pwrNutProf, 0, 0⟩
/-- PWR_EVENTS.`domain_over` -/ abbrev Fld.pwrEvents_domain_over : Fld := ⟨.pwrEvents, 3, 3⟩
/-- PWR_EVENTS.`droop` -/ abbrev Fld.pwrEvents_droop : Fld := ⟨.pwrEvents, 2, 2⟩
/-- PWR_EVENTS.`cap_applied` -/ abbrev Fld.pwrEvents_cap_applied : Fld := ⟨.pwrEvents, 1, 1⟩
/-- PWR_EVENTS.`cfg_err` -/ abbrev Fld.pwrEvents_cfg_err : Fld := ⟨.pwrEvents, 0, 0⟩
/-- THM_STATUS.`tj_max` -/ abbrev Fld.thmStatus_tj_max : Fld := ⟨.thmStatus, 63, 52⟩
/-- THM_STATUS.`stack_max` -/ abbrev Fld.thmStatus_stack_max : Fld := ⟨.thmStatus, 51, 40⟩
/-- THM_STATUS.`optics_max` -/ abbrev Fld.thmStatus_optics_max : Fld := ⟨.thmStatus, 39, 28⟩
/-- THM_STATUS.`shutdown_pending` -/ abbrev Fld.thmStatus_shutdown_pending : Fld := ⟨.thmStatus, 2, 2⟩
/-- THM_STATUS.`mem_throttle` -/ abbrev Fld.thmStatus_mem_throttle : Fld := ⟨.thmStatus, 1, 1⟩
/-- THM_STATUS.`throttle` -/ abbrev Fld.thmStatus_throttle : Fld := ⟨.thmStatus, 0, 0⟩
/-- PWR_CNT.`count` -/ abbrev Fld.pwrCnt_count : Fld := ⟨.pwrCnt, 63, 0⟩
/-- THM_CNT.`count` -/ abbrev Fld.thmCnt_count : Fld := ⟨.thmCnt, 63, 0⟩
/-- MBX_REQ_TAIL.`tail` -/ abbrev Fld.mbxReqTail_tail : Fld := ⟨.mbxReqTail, 15, 0⟩
/-- MBX_REQ_HEAD.`count` -/ abbrev Fld.mbxReqHead_count : Fld := ⟨.mbxReqHead, 15, 0⟩
/-- MBX_RSP_TAIL.`count` -/ abbrev Fld.mbxRspTail_count : Fld := ⟨.mbxRspTail, 15, 0⟩
/-- MBX_RSP_HEAD.`count` -/ abbrev Fld.mbxRspHead_count : Fld := ⟨.mbxRspHead, 15, 0⟩
/-- MBX_CFG.`intr_en` -/ abbrev Fld.mbxCfg_intr_en : Fld := ⟨.mbxCfg, 31, 31⟩
/-- MBX_CFG.`intr` -/ abbrev Fld.mbxCfg_intr : Fld := ⟨.mbxCfg, 11, 0⟩
/-- MBX_STATUS.`open` -/ abbrev Fld.mbxStatus_open : Fld := ⟨.mbxStatus, 31, 31⟩
/-- MBX_STATUS.`busy` -/ abbrev Fld.mbxStatus_busy : Fld := ⟨.mbxStatus, 30, 30⟩
/-- MBX_STATUS.`major` -/ abbrev Fld.mbxStatus_major : Fld := ⟨.mbxStatus, 23, 16⟩
/-- MBX_STATUS.`part` -/ abbrev Fld.mbxStatus_part : Fld := ⟨.mbxStatus, 11, 8⟩
/-- MBX_EVENTS.`closed_by_reset` -/ abbrev Fld.mbxEvents_closed_by_reset : Fld := ⟨.mbxEvents, 2, 2⟩
/-- MBX_EVENTS.`rsp_err` -/ abbrev Fld.mbxEvents_rsp_err : Fld := ⟨.mbxEvents, 1, 1⟩
/-- MBX_EVENTS.`doorbell_err` -/ abbrev Fld.mbxEvents_doorbell_err : Fld := ⟨.mbxEvents, 0, 0⟩
/-- MBX_VEC.`enable` -/ abbrev Fld.mbxVec_enable : Fld := ⟨.mbxVec, 63, 63⟩
/-- MBX_VEC.`dropped` -/ abbrev Fld.mbxVec_dropped : Fld := ⟨.mbxVec, 62, 48⟩
/-- MBX_VEC.`hart` -/ abbrev Fld.mbxVec_hart : Fld := ⟨.mbxVec, 19, 16⟩
/-- MBX_VEC.`identity` -/ abbrev Fld.mbxVec_identity : Fld := ⟨.mbxVec, 10, 0⟩
/-- BOOT_ID.`part` -/ abbrev Fld.bootId_part : Fld := ⟨.bootId, 31, 16⟩
/-- BOOT_ID.`stepping` -/ abbrev Fld.bootId_stepping : Fld := ⟨.bootId, 15, 0⟩
/-- BOOT_STATUS.`svn_image` -/ abbrev Fld.bootStatus_svn_image : Fld := ⟨.bootStatus, 47, 40⟩
/-- BOOT_STATUS.`svn_fused` -/ abbrev Fld.bootStatus_svn_fused : Fld := ⟨.bootStatus, 39, 32⟩
/-- BOOT_STATUS.`recovery` -/ abbrev Fld.bootStatus_recovery : Fld := ⟨.bootStatus, 16, 16⟩
/-- BOOT_STATUS.`fail` -/ abbrev Fld.bootStatus_fail : Fld := ⟨.bootStatus, 15, 8⟩
/-- BOOT_STATUS.`phase` -/ abbrev Fld.bootStatus_phase : Fld := ⟨.bootStatus, 7, 0⟩
/-- BOOT_PHASE_US.`us` -/ abbrev Fld.bootPhaseUs_us : Fld := ⟨.bootPhaseUs, 31, 0⟩
/-- BOOT_FW.`major` -/ abbrev Fld.bootFw_major : Fld := ⟨.bootFw, 55, 48⟩
/-- BOOT_FW.`minor` -/ abbrev Fld.bootFw_minor : Fld := ⟨.bootFw, 47, 32⟩
/-- BOOT_FW.`build` -/ abbrev Fld.bootFw_build : Fld := ⟨.bootFw, 31, 0⟩
/-- SEC_STATUS.`unlock_fails` -/ abbrev Fld.secStatus_unlock_fails : Fld := ⟨.secStatus, 15, 12⟩
/-- SEC_STATUS.`debug_slots` -/ abbrev Fld.secStatus_debug_slots : Fld := ⟨.secStatus, 11, 10⟩
/-- SEC_STATUS.`root_slots` -/ abbrev Fld.secStatus_root_slots : Fld := ⟨.secStatus, 9, 6⟩
/-- SEC_STATUS.`key_slot` -/ abbrev Fld.secStatus_key_slot : Fld := ⟨.secStatus, 5, 4⟩
/-- SEC_STATUS.`uds_locked` -/ abbrev Fld.secStatus_uds_locked : Fld := ⟨.secStatus, 3, 3⟩
/-- SEC_STATUS.`attest_ready` -/ abbrev Fld.secStatus_attest_ready : Fld := ⟨.secStatus, 2, 2⟩
/-- SEC_STATUS.`taint` -/ abbrev Fld.secStatus_taint : Fld := ⟨.secStatus, 1, 1⟩
/-- SEC_STATUS.`debug_open` -/ abbrev Fld.secStatus_debug_open : Fld := ⟨.secStatus, 0, 0⟩
/-- SEC_EVENTS.`attest_busy` -/ abbrev Fld.secEvents_attest_busy : Fld := ⟨.secEvents, 2, 2⟩
/-- SEC_EVENTS.`unlock_refused` -/ abbrev Fld.secEvents_unlock_refused : Fld := ⟨.secEvents, 1, 1⟩
/-- SEC_EVENTS.`debug_opened` -/ abbrev Fld.secEvents_debug_opened : Fld := ⟨.secEvents, 0, 0⟩
/-- SEC_DEVID.`digest` -/ abbrev Fld.secDevid_digest : Fld := ⟨.secDevid, 63, 0⟩
/-- CQ_COL_RING_BASE.`base` -/ abbrev Fld.cqColRingBase_base : Fld := ⟨.cqColRingBase, 47, 5⟩
/-- CQ_COL_RING_CFG.`enable` -/ abbrev Fld.cqColRingCfg_enable : Fld := ⟨.cqColRingCfg, 31, 31⟩
/-- CQ_COL_RING_CFG.`log2_entries` -/ abbrev Fld.cqColRingCfg_log2_entries : Fld := ⟨.cqColRingCfg, 4, 0⟩

end Sys2Proof.Machine
end

