-- ==== Sys2Proof/Syntax.lean ====
section
/-! DEFINITION. The commands of the module, one constructor for each row of the opcode table, and the types of their operands.
A command's operands are what comes from outside the model's state: who accesses what, what another module, a sensor, the memory
devices or the firmware's inputs supply. -/

namespace Sys2Proof

/-- An operand, and whether the on-chip storage that the row reads meets an uncorrectable error (R417, Table 14.1: the
error comes from outside, like an upset). -/
structure Met (α : Type) where
  val : α
  bad : Bool
  deriving DecidableEq, Repr

/-- What a remote access asks of its target (R366 to R370): a read of bytes, a write (with its poison mark), an AMO by
its RISC-V funct5 code (32: the binary32 add of KT.FAMOADD) and width in bytes with the operands of its lanes in their order
(R190), an accumulate write of elements of a width, an ADD to a sync counter, a
register read or write of a width in bytes, a message between collective engines (its body is on the wire). -/
inductive RemoteOp where
  | read (offset bytes : Nat)
  | write (offset : Nat) (data : List Byte) (poison : Bool)
  | amo (offset funct5 width : Nat) (values : List Nat)
  | acc (offset width : Nat) (data : List Byte) (poison : Bool)
  | add (die ctr value : Nat)
  | regRead (offset width : Nat)
  | regWrite (offset width value : Nat)
  | msg (group seq len : Nat)
  deriving DecidableEq, Repr

/-- Which part of an operation's data a message of the ring engine moves (R398): the stripe (0 to 2), the half (0, 1) that takes
one of the two rings of a wrapped dimension, the index of the dimension in the stripe's order, the shard, and the chunk of at most
1 MiB of that unit (R394). -/
structure ColPiece where
  stripe : Nat
  half : Nat
  dim : Nat
  shard : Nat
  chunk : Nat
  deriving DecidableEq, Repr

/-- What a message between collective engines carries (R389, R391, R398): a partial sum or a result of a piece for a position of
the group box; a block of an all-to-all-v (source rank, bytes it sends here in all, offset); a row of an expert combine
(source rank, rows it sends here in all, its number, the row it goes to). -/
inductive ColBody where
  | part (role : Nat) (piece : ColPiece) (data : List Byte)
  | result (role : Nat) (piece : ColPiece) (data : List Byte)
  | block (rank total off : Nat) (data : List Byte)
  | row (rank total k idx : Nat) (data : List Byte)
  deriving DecidableEq, Repr

/-- A message between collective engines (R387, R395): who sends it, what it belongs to, what its sender believes of the operation
(`box` as the entry's bits [22:0]), the ranks it knows to be late, poison, and the body. -/
structure ColMsg where
  node : Nat
  job : Nat
  group : Nat
  seq : Nat
  gen : Nat
  box : Nat
  op : Nat
  dtype : Nat
  addMode : Nat
  bytes : Nat
  deadline : Option Nat
  late : List Nat
  poison : Bool
  body : ColBody
  deriving DecidableEq, Repr

/-- The requesters that a die-cache slice tells apart (R287): each core's thread path, vector engine, mover and operand
feeder, the die's collective engine, the Bludjan die, and each remote node. -/
inductive Requester where
  | thread (core : Nat) | vector (core : Nat) | mover (core : Nat) | feeder (core : Nat)
  | collective | bludjan | remote (node : Nat)
  deriving DecidableEq, Repr

/-- An error that a die cache's code meets (R303): one bit, two bits of data, two bits of a tag or directory entry. -/
inductive CacheErr where
  | single | data | tag
  deriving DecidableEq, Repr

/-- What a request asks of a die cache: a read of bytes, a write of bytes (with their poison mark), a read of a sector of another node, a
prefetch. -/
inductive CacheOp where
  | read (addr n : Nat)
  | write (addr : Nat) (bytes : List Byte) (poison : Bool)
  | readRemote (node addr : Nat)
  | prefetch (addr : Nat)
  deriving DecidableEq, Repr

/-- Who makes a register access: software on the application cores (R3; no host reaches the module, R16), a core thread, the CP
firmware, the MC. -/
inductive BusWho where
  | sw | core | cp | mc
  deriving DecidableEq, Repr

/-- The buddy's answer to a chunk or to the manifest: it has it, it asks for it again, or it refuses the drain. -/
inductive DrainAnswer where
  | ack | again | refuse
  deriving DecidableEq, Repr

/-- What arrives of a drain: a chunk with its digest, or the manifest: its entries (region, kind, chunk, digest) and its body digest. -/
inductive DrainItem where
  | chunk (region kind chunk : Nat) (data digest : List Byte)
  | manifest (entries : List (Nat × Nat × Nat × List Byte)) (body : List Byte)
  deriving DecidableEq, Repr

/-- What the other end of a link says of itself (R350 step 3): whether it is an edge peer; node, die, port, role; its good lanes,
`max_rate`, system sizes as FAB_DIMS, incarnation and route epoch. -/
structure PeerCaps where
  edge : Bool
  node : Nat
  die : Nat
  port : Nat
  role : Nat
  lanes : Nat
  maxRate : Nat
  dims : Nat
  inc : Nat
  epoch : Nat
  deriving DecidableEq, Repr

/-- What comes on a link (R351): a packet with its link sequence number, whether its CRC is right and its payload bytes; an
acknowledgement up to a number; a request for replay; FEC codewords that were corrected. -/
inductive LinkEvent where
  | data (seq : Nat) (crcOk : Bool) (bytes : Nat)
  | ack (seq : Nat)
  | replay
  | corrected (n : Nat)
  deriving DecidableEq, Repr

/-- A packet to be routed (R360 to R365): source, destination, the job number it carries, its epoch, hops made, payload bytes,
whether it travels on the escape virtual channel, and the hops it still has to take of a detour entry. -/
structure Packet where
  src : Nat
  dest : Nat
  job : Nat
  epoch : Nat
  hops : Nat
  bytes : Nat
  escape : Bool
  detour : List Nat
  deriving DecidableEq, Repr

/-- R320: what training finds in a stack, each the least over the data and check pins of its pseudo-channels: the timing eye, its
part before and after the sampling point, in thousandths of a UI, and the voltage eye in mV. -/
structure StackEye where
  eye : Nat
  left : Nat
  right : Nat
  mv : Nat
  deriving DecidableEq, Repr

/-- A row of the repair log (R331). -/
structure RowRef where
  die : Nat
  stack : Nat
  pch : Nat
  sid : Nat
  bg : Nat
  bank : Nat
  row : Nat
  deriving DecidableEq, Repr

/-- What reaches a restore from other modules: chunks by entry (a replica's or a buddy's hold), and of a lost rank's hold its step
and its manifest: entries (region, kind, chunk, digest; region 0xFF the schedule block) and body digest. -/
structure RestoreFeed where
  fetched : List (Nat × List Byte)
  step : Nat
  entries : List (Nat × Nat × Nat × List Byte)
  body : List Byte
  deriving DecidableEq, Repr

/-- What a margin sweep has measured at one pin (Table 11.6). -/
structure PinMargin where
  tLeft : Nat
  tRight : Nat
  vLow : Nat
  vHigh : Nat
  errors : Nat
  limit : Bool
  deriving DecidableEq, Repr

/-- What the self-test has found at a core (R519): failing physical rows and columns of the array, an SRAM failure beyond repair. -/
structure SelfTestCore where
  die : Nat
  core : Nat
  rows : List Nat
  cols : List Nat
  sram : Bool
  deriving DecidableEq, Repr

/-- Which threads an instruction issues to (R178, R179): die, core, place of a resident block, group, and the lanes that may take it
as a mask; the reuse hints of an Xkt instruction (R200: bit 0 of rs1, bit 1 of rs2), and whether a register that it reads has a double-bit
error (Table 7.6); the rl bit of an LR, SC or AMO. -/
structure Issue where
  die : Fin 8
  core : Fin 32
  block : Fin 32
  group : Fin 16
  lanes : Nat
  hints : Nat := 0
  regBad : Bool := false
  rl : Bool := false
  deriving DecidableEq, Repr

/-- An issue slot (R178): its scheduler, and whether a register that its instruction reads has a double-bit error (Table 7.6). -/
structure SlotIssue where
  sched : Fin 4
  regBad : Bool := false
  deriving DecidableEq, Repr

/-- The commands. -/
inductive Instr where
  /-- REGISTER_WRITE (R9): A write to a register that has no row of its own is checked for width, alignment, access type, lock
  and reserved bits, then applied or faulted. Operands: the requester, the module physical address, the width in bytes, the
  value, the W1C bits that the module sets in the same cycle. -/
  | registerWrite (who : BusWho) (pa n value hw : Nat)
  /-- RC_COUNTER_READ (R13): A read that returns every bit of an RC field returns it and clears it, keeping any event of the
  same cycle. Operands: the requester, the module physical address, the width in bytes. -/
  | rcCounterRead (who : BusWho) (pa n : Nat)
  /-- COLD_RESET (R509): Power-on or assertion of PWR_EN after deassertion restarts every processor, clears all state except
  fuses, flash and the repair log, and samples the straps. Operands: the straps COOL_CLASS and PCIE_BIF, whether the internal
  rails come up. -/
  | coldReset (cool bifurc : Fin 4) (rails : Bool)
  /-- PWR_EN_DEASSERT (R534): Deassertion of PWR_EN makes the module fail-silent, asserts PERST_OUT_N and stops every rail
  within 20 ms. -/
  | pwrEnDeassert
  /-- SUPPLY_OUT_OF_TOLERANCE (R530): P54V outside 44 to 63 V, or an excursion longer than 10 ms, withdraws the module while
  the Bludjan die keeps running. -/
  | supplyOutOfTolerance
  /-- SUPPLY_LOSS (R530): P54V below 36 V or above 63 V for 50 us stops every rail and deasserts PWR_GOOD. Operands: the level
  of P54V in mV. -/
  | supplyLoss (mv : Nat)
  /-- IMAGE_VERIFICATION (R516): The boot ROM checks image layout, key, signature, svn and component digests, and derives the
  boot identity. -/
  | imageVerification
  /-- RECOVERY (R518): After a failed verification, the MC fetches an image by DHCP and TFTP, writes it to the slot and phase
  0x01 runs again. Operands: the image that TFTP supplies, if any. -/
  | recovery (image : Option (List Byte))
  /-- RELEASE (R511): The SP loads and starts the MC and CP firmware, and the MC brings up the management lane and I3C.
  Operands: whether the firmware starts. -/
  | release (started : Bool)
  /-- FUSE_LOAD (R111): The CP firmware loads ARR_SPARE_MAP of every core from the fuses and reads the repair log. Operands:
  whether the fuse check passes. -/
  | fuseLoad (checkOk : Bool)
  /-- MEMORY_TRAINING (R320): The CP firmware trains all stacks at the highest common passing rate, reapplies logged rows, and
  trains the GDDR7. Operands: at each rate the least eyes of each stack, the rates at which the GDDR7 fails to train; if the
  repair log can be read, the repair resources left in each stack once its rows are reapplied. -/
  | memoryTraining (eyes : List (List StackEye)) (gdFails : List Nat) (log : Option (List Nat))
  /-- SELF_TEST (R519): Every core runs the array and SRAM self-test; failing lines are soft-repaired or the core is fenced,
  then every spare map is locked. Operands: what the self-test finds. -/
  | selfTest (results : List SelfTestCore)
  /-- FABRIC_BRING_UP (R512): The CP firmware obtains the node id and system sizes over PLDM and writes FAB_DIMS and FAB_NODE,
  so that the ports may negotiate. Operands: the node id and FAB_DIMS that PLDM supplies, if it does. -/
  | fabricBringUp (info : Option (Nat × Nat))
  /-- LOADER_ENTRY (R511): The CP firmware starts AC0 at the loader entry point, and the SP commits the svn fuses when
  requested. -/
  | loaderEntry
  /-- PHASE_TIMEOUT (R511): A start-up phase that exceeds its maximum fails, which sets BOOT_STATUS.fail and asserts FAULT_N.
  -/
  | phaseTimeout
  /-- FT_COUNTER_TICK (R27): On each PMU cycle, each die adds its rate-adjusted increment to its fabric-time counter. -/
  | ftCounterTick
  /-- TIME_MESSAGE_SEND (R30): Every 64 us each fabric port sends a time message carrying its timestamps, grandmaster id,
  epoch, hop count and civil offset. Operands: die, port. -/
  | timeMessageSend (d : Fin 8) (p : Fin 8)
  /-- TIME_MESSAGE_RECEIVE (R31): A received time message updates the filtered link delay and offset, source selection, rate
  slew or step, and the lock state. Operands: die, source index, the four timestamps; for a fabric port also what its partner says:
  grandmaster, epoch, hop count, whether its civil offset is valid, that offset (a die of the module says what its FT_STATUS shows). -/
  | timeMessageReceive (d : Fin 9) (src : Nat) (t1 t2 t3 t4 : Int) (gm epoch hop : Nat) (valid : Bool) (civil : W64)
  /-- HOLDOVER_EXPIRE (R38): A die that has been in HOLDOVER for 5 ms enters FREE. Operands: die. -/
  | holdoverExpire (d : Fin 9)
  /-- GM_PROMOTE (R37): A backup grandmaster with no message of the current epoch for 1 ms promotes itself and announces the
  epoch plus 1. -/
  | gmPromote
  /-- FT_CTRL_WRITE (R553): A write to FT_CTRL sets or locks the role on CD0, and taking or leaving the grandmaster role takes
  effect. -/
  | ftCtrlWrite (who : BusWho) (pa n value hw : Nat)
  /-- TREF_PPS_EDGE (R33): On the grandmaster, a TREF_PPS rising edge steers the rate of CD0 and the civil offset. -/
  | trefPpsEdge
  /-- PTP_TIME_RECEIVE (R538): IEEE 1588 time received on the management lane supplies the civil seconds for the civil offset.
  Operands: TAI seconds. -/
  | ptpTimeReceive (sec : Nat)
  /-- FT_TMR_TGT_WRITE (R49): A target write is applied while the timer is disabled, and is ignored with arm_err set while it
  is enabled. -/
  | ftTmrTgtWrite (who : BusWho) (pa n value hw : Nat)
  /-- FT_TMR_CTL_WRITE (R49): A timer control write enables, disables or refuses per R49, and a timer enabled with a past
  target fires or misses at once. -/
  | ftTmrCtlWrite (who : BusWho) (pa n value hw : Nat)
  /-- TIMER_FIRE (R43): An enabled timer whose target is reached fires, or misses if it is system-scope while the module is
  unlocked, and re-arms or disables itself. Operands: die, timer. -/
  | timerFire (d : Fin 8) (n : Fin 64)
  /-- TIMER_ACTION_INTERRUPT (R507): Timer action 0x1 raises its interrupt vector at the application cores. Operands: die. -/
  | timerActionInterrupt (d : Fin 8)
  /-- TIMER_ACTION_SYNC_ADD (R238): Timer action 0x2 performs ADD 1 on the named sync counter. Operands: die. -/
  | timerActionSyncAdd (d : Fin 8)
  /-- STEP_BOUNDARY (R426): Timer action 0x3 advances the step number, clears the step status record, latches the step-
  constants page, marks scale entries pending and flips the Saffron version if ready. Operands: partition slot. -/
  | stepBoundary (slot : Fin 8)
  /-- SCALE_ENTRY_PROCESS (R70): Once its earlier conversions have completed, the scale unit processes an entry: it pushes
  amax, recomputes scale and clears the step counts. Operands: die. -/
  | scaleEntryProcess (d : Fin 8)
  /-- COLLECTIVE_DEADLINE_ACTION (R402): Timer action 0x4 makes the oldest unstarted operation of the named group late.
  Operands: die. -/
  | collectiveDeadlineAction (d : Fin 8)
  /-- NUTMEG_RAMP_START (R468): Timer action 0x5 starts the named ramp profile on an engaged die, or only counts. Operands:
  die. -/
  | nutmegRampStart (d : Fin 8)
  /-- APPLY_PENDING_CAP (R454): Timer action 0x6 applies the pending power cap on every die and sends CAP_APPLIED. Operands:
  die. -/
  | applyPendingCap (d : Fin 8)
  /-- COMMIT_POINT (R433): Timer action 0x7 casts the module's local commit vote for an uncommitted current version. Operands:
  die. -/
  | commitPoint (d : Fin 8)
  /-- COMMIT_VOTE_RESULT (R433): The combined votes commit the version on every voting module and signal commit_ctr, or
  COMMIT_FAILED is sent. Operands: die, whether every module voted to commit. -/
  | commitVoteResult (d : Fin 8) (allOk : Bool)
  /-- SCRUB_WINDOW_OPEN (R327): Timer action 0x8 opens patrol scrub on the stacks named in the mask. Operands: die. -/
  | scrubWindowOpen (d : Fin 8)
  /-- SCRUB_WINDOW_CLOSE (R327): Timer action 0x9 closes patrol scrub on the named stacks and keeps the scrub position.
  Operands: die. -/
  | scrubWindowClose (d : Fin 8)
  /-- SCRUB_READ (R328): In an open window, a pseudo-channel reads its next sector at scrub_rate and writes back corrections
  or reports errors. Operands: die, stack, pseudo-channel, error pattern met. -/
  | scrubRead (d : Fin 8) (stack : Fin 4) (pch : Fin 64) (upset : Nat)
  /-- HBM_REFRESH (R321): The controller refreshes each bank within the standard's interval, and requests to that bank wait.
  Operands: die, stack, pseudo-channel, bank. -/
  | hbmRefresh (d : Fin 8) (stack : Fin 4) (pch : Fin 64) (bank : Nat)
  /-- HBM_READ_COMPLETE (R325): A stacked-memory read decodes the RS codeword, corrects, delivers poison or reports an
  uncorrectable error. Operands: address, error pattern met, whether the page is mirrored. -/
  | hbmReadComplete (a upset : Nat) (mirror : Bool)
  /-- ROW_RETIRE (R331): The CP firmware holds the bank, rewrites the row through soft post-package repair and logs it, or
  requests page offlining. Operands: the row, the repair resources left (none: no repair). -/
  | rowRetire (r : RowRef) (left : Option Nat)
  /-- MIRROR_READ (R334): After an uncorrectable primary read, the mirror sector is read and either repairs the primary or the
  read is delivered poisoned. Operands: address of the primary, error pattern met in the mirror. -/
  | mirrorRead (a upset : Nat)
  /-- GDDR7_READ_COMPLETE (R336): A GDDR7 read retries EDC failures up to three times and delivers poison for uncorrectable or
  listed sectors. Operands: address, tries that failed, what the device reports. -/
  | gddr7ReadComplete (a fails : Nat) (devCorrected devUe : Bool)
  /-- HBM_CFG_WRITE (R340): A CP write sets scrub rate, row limit and ECC mode, is ignored on illegal values, and faults from
  software. -/
  | hbmCfgWrite (who : BusWho) (pa n value hw : Nat)
  /-- MARGIN_RUN_COMPLETE (R338): A margin run ends, the trained settings are restored, the swept sectors are zeroed and the
  results are written. Operands: die, the results by pin. -/
  | marginRunComplete (d : Fin 8) (results : List PinMargin)
  /-- XLAT_INV_PAGE (R343): CFG_XLAT_INV with scope 00 and go invalidates the cached translations of the page holding va. -/
  | xlatInvPage (who : BusWho) (pa n value hw : Nat)
  /-- XLAT_INV_PARTITION (R343): CFG_XLAT_INV with scope 01 and go invalidates every cached translation of the partition. -/
  | xlatInvPartition (who : BusWho) (pa n value hw : Nat)
  /-- XLAT_INV_COMPLETE (R317): The invalidation finishes and busy clears within 5 us. Operands: die. -/
  | xlatInvComplete (d : Fin 8)
  /-- CORE_LOAD (R173): A core-thread load reads through L1 and die cache under the class rules, or takes a translation,
  misaligned or dead-load fault. Operands: issue, width in bytes, sign extension, floating-point destination, rd, rs1, offset,
  whether the L1 copies or local-store lines it meets have uncorrectable errors. -/
  | coreLoad (i : Issue) (width : Nat) (sg fl : Bool) (rd rs1 : Fin 32) (off : Int) (l1Bad : Bool)
  /-- CORE_STORE (R272): A core-thread store writes through to the die cache, after other L1 copies are invalidated, or goes
  to the remote home. Operands: issue, width in bytes, floating-point source, rs1, rs2, offset. -/
  | coreStore (i : Issue) (width : Nat) (fl : Bool) (rs1 rs2 : Fin 32) (off : Int)
  /-- CORE_AMO (R190): An AMO is performed at the home die cache, with same-address lanes combined in ascending lane order.
  Operands: issue, funct5 code, width in bytes, rd, rs1, rs2. -/
  | coreAmo (i : Issue) (f5 width : Nat) (rd rs1 rs2 : Fin 32)
  /-- CORE_LR (R173): LR reserves one sector on coherent memory or local store, and faults elsewhere. Operands: issue, width
  in bytes, rd, rs1. -/
  | coreLr (i : Issue) (width : Nat) (rd rs1 : Fin 32)
  /-- CORE_SC (R173): SC conditionally stores on its reservation, and faults outside coherent memory or own local store.
  Operands: issue, width in bytes, rd, rs1, rs2. -/
  | coreSc (i : Issue) (width : Nat) (rd rs1 rs2 : Fin 32)
  /-- CSR_ACCESS (R174): A core thread reads or writes a CSR of Table 7.1, and any other access raises illegal instruction.
  Operands: issue, funct3, rd, rs1 (or the immediate), CSR number. -/
  | csrAccess (i : Issue) (f3 : Fin 8) (rd rs1 : Fin 32) (num : Fin 4096)
  /-- ECALL (R171): ECALL raises the illegal-instruction block fault. Operands: issue. -/
  | ecall (i : Issue)
  /-- EBREAK (R171): EBREAK raises illegal instruction unless debug access is open. Operands: issue. -/
  | ebreak (i : Issue)
  /-- FENCE_I (R171): FENCE.I raises the illegal-instruction block fault. Operands: issue. -/
  | fenceI (i : Issue)
  /-- BASE_INSTRUCTION (R170): Any other RV64IMAF, Zicsr, Zba or Zbb instruction executes per lane as the RISC-V specification
  defines. Operands: issue, the instruction. -/
  | baseInstruction (i : Issue) (word : W32)
  /-- ISSUE_SLOT (R178): Every 4 cc each scheduler picks a group in rotation and a PC, with starvation priority, and issues
  its ready threads. Operands: die, core, slot. -/
  | issueSlot (d : Fin 8) (c : Fin 32) (q : SlotIssue)
  /-- KT_QPUSH (R208): Copies a 64-byte descriptor into the named queue and returns its sequence number, or stalls when the
  queue is full. Operands: issue, queue (array, vector, mover, collective), rd, rs1. -/
  | ktQpush (i : Issue) (q : Fin 4) (rd rs1 : Fin 32)
  /-- KT_QCRED (R207): Returns the free credits of the named queue. Operands: issue, queue, rd. -/
  | ktQcred (i : Issue) (q : Fin 4) (rd : Fin 32)
  /-- KT_SCADD (R238): Local ADD to a sync counter, applied after the thread's earlier accesses are visible. Operands: issue,
  rd, rs1 (handle), rs2. -/
  | ktScadd (i : Issue) (rd rs1 rs2 : Fin 32)
  /-- KT_SCADD_REMOTE (R251): Sends an ADD to a counter on another node, ordered as a store to that node, and returns 0.
  Operands: issue, rd, rs1 (handle), rs2. -/
  | ktScaddRemote (i : Issue) (rd rs1 rs2 : Fin 32)
  /-- KT_SCSUB (R238): SUB from a sync counter, saturating at 0 and setting UNF. Operands: issue, rd, rs1 (handle), rs2. -/
  | ktScsub (i : Issue) (rd rs1 rs2 : Fin 32)
  /-- KT_SCSET (R238): SET of a sync counter value. Operands: issue, rd, rs1 (handle), rs2. -/
  | ktScset (i : Issue) (rd rs1 rs2 : Fin 32)
  /-- KT_SCRD (R238): READ of a sync counter value. Operands: issue, rd, rs1 (handle), rs2. -/
  | ktScrd (i : Issue) (rd rs1 rs2 : Fin 32)
  /-- KT_SCWAIT (R242): Observer wait until the counter reaches N. Operands: issue, rd, rs1 (handle), rs2. -/
  | ktScwait (i : Issue) (rd rs1 rs2 : Fin 32)
  /-- KT_SCWAITC (R243): Consumer wait, served in arrival order, that subtracts N at release. Operands: issue, rd, rs1
  (handle), rs2. -/
  | ktScwaitc (i : Issue) (rd rs1 rs2 : Fin 32)
  /-- KT_BAR (R192): Arrives at a block barrier, which completes when arrivals plus exited threads reach the count, or faults
  on a count mismatch. Operands: issue, rs1 (id), rs2 (count). -/
  | ktBar (i : Issue) (rs1 rs2 : Fin 32)
  /-- BARRIER_TIMEOUT (R194): A block barrier instance not complete within 2^wdog_log2 cc of its first arrival faults the
  block. Operands: die, core, block place. -/
  | barrierTimeout (d : Fin 8) (c b : Fin 32)
  /-- KT_MBAR_ARRIVE_WAIT (R255): Arrives at a die or module barrier slot and waits for the generation to complete. Operands:
  issue, rs1 (slot handle). -/
  | ktMbarArriveWait (i : Issue) (rs1 : Fin 32)
  /-- KT_MBAR_ARRIVE (R255): Arrives at a barrier slot and continues without waiting. Operands: issue, rs1 (slot handle). -/
  | ktMbarArrive (i : Issue) (rs1 : Fin 32)
  /-- BAR_SLOT_TIMEOUT (R259): A slot generation not complete within the watchdog sends BAR_TIMEOUT and sets bar_timeout.
  Operands: die, module slot or die slot, slot. -/
  | barSlotTimeout (d : Fin 8) (md : Bool) (s : Fin 64)
  /-- KT_FAMOADD (R190): binary32 atomic add at the home die cache, combined across lanes as an ordered prefix sum. Operands:
  issue, rd, rs1, rs2. -/
  | ktFamoadd (i : Issue) (rd rs1 rs2 : Fin 32)
  /-- KT_ACCST_W (R281): Accumulate store of a binary32 element by add-to-line at the home die cache. Operands: issue, rs1,
  rs2. -/
  | ktAccstW (i : Issue) (rs1 rs2 : Fin 32)
  /-- KT_ACCST_D (R281): Accumulate store of a binary64 element by add-to-line at the home die cache. Operands: issue, rs1,
  rs2. -/
  | ktAccstD (i : Issue) (rs1 rs2 : Fin 32)
  /-- KT_PREF_L1 (R299): Prefetches a 128-byte line into the L1 and never faults. Operands: issue, rs1. -/
  | ktPrefL1 (i : Issue) (rs1 : Fin 32)
  /-- KT_PREF_DIE_CACHE (R299): Prefetches a 128-byte line into the die cache and never faults. Operands: issue, rs1. -/
  | ktPrefDieCache (i : Issue) (rs1 : Fin 32)
  /-- KT_FENCE_BLOCK (R200): Orders the thread's accesses for every observer in its block. Operands: issue. -/
  | ktFenceBlock (i : Issue)
  /-- KT_FENCE_CLUSTER (R189): Orders the thread's accesses for every block of its cluster. Operands: issue. -/
  | ktFenceCluster (i : Issue)
  /-- KT_FENCE_DIE (R200): Orders the thread's accesses for every thread of its die. Operands: issue. -/
  | ktFenceDie (i : Issue)
  /-- KT_FENCE_MODULE (R200): Orders the thread's accesses for every thread of the module. Operands: issue. -/
  | ktFenceModule (i : Issue)
  /-- KT_FENCE_RELEASE (R372): Fabric release fence that completes when every remote access in its window is acknowledged or
  abandoned. Operands: issue. -/
  | ktFenceRelease (i : Issue)
  /-- KT_FENCE_ACQUIRE (R279): Fabric acquire fence that advances the remote epoch and waits for the thread's earlier remote
  loads. Operands: issue. -/
  | ktFenceAcquire (i : Issue)
  /-- KT_FENCE_FULL (R372): Fabric fence that acts as both release and acquire. Operands: issue. -/
  | ktFenceFull (i : Issue)
  /-- FENCE_TIMEOUT (R373): A fence incomplete after 2 ms sends FENCE_TIMEOUT once and keeps waiting. Operands: die. -/
  | fenceTimeout (d : Fin 8)
  /-- KT_EXIT (R200): The thread exits; the last exit of a block frees its resources and may complete the launch. Operands:
  issue. -/
  | ktExit (i : Issue)
  /-- KT_VOTE_BALLOT (R200): Returns the mask of issuing lanes whose rs1 is non-zero. Operands: issue, rd, rs1. -/
  | ktVoteBallot (i : Issue) (rd rs1 : Fin 32)
  /-- KT_VOTE_ANY (R200): Returns 1 when any issuing lane has a non-zero rs1. Operands: issue, rd, rs1. -/
  | ktVoteAny (i : Issue) (rd rs1 : Fin 32)
  /-- KT_VOTE_ALL (R200): Returns 1 when every issuing lane has a non-zero rs1. Operands: issue, rd, rs1. -/
  | ktVoteAll (i : Issue) (rd rs1 : Fin 32)
  /-- KT_SHFL_INDEX (R200): Reads rs1 of the indexed lane. Operands: issue, rd, rs1, rs2. -/
  | ktShflIndex (i : Issue) (rd rs1 rs2 : Fin 32)
  /-- KT_SHFL_XOR (R200): Reads rs1 of lane XOR index. Operands: issue, rd, rs1, rs2. -/
  | ktShflXor (i : Issue) (rd rs1 rs2 : Fin 32)
  /-- KT_SHFL_UP (R200): Reads rs1 of lane minus index. Operands: issue, rd, rs1, rs2. -/
  | ktShflUp (i : Issue) (rd rs1 rs2 : Fin 32)
  /-- KT_SHFL_DOWN (R200): Reads rs1 of lane plus index. Operands: issue, rd, rs1, rs2. -/
  | ktShflDown (i : Issue) (rd rs1 rs2 : Fin 32)
  /-- KT_ACTIVE (R200): Returns the mask of the lanes in this issue. Operands: issue, rd. -/
  | ktActive (i : Issue) (rd : Fin 32)
  /-- TGU_WDOG_WRITE (R204): Sets the barrier watchdog limit, or is ignored with cfg_err outside 16 to 30. -/
  | tguWdogWrite (who : BusWho) (pa n value hw : Nat)
  /-- LQ_TAIL_WRITE (R235): The launch-queue doorbell announces new slots, or is ignored with lq_err. -/
  | lqTailWrite (who : BusWho) (pa n value hw : Nat)
  /-- LQ_CFG_WRITE (R234): Configures or enables a launch queue, sets head to tail on enable, or is ignored with cfg_err. -/
  | lqCfgWrite (who : BusWho) (pa n value hw : Nat)
  /-- LQ_RING_BASE_WRITE (R234): A write to LQ_BASE or LQ_CRING_BASE is applied only while the queue is disabled and the
  region lies in memory. -/
  | lqRingBaseWrite (who : BusWho) (pa n value hw : Nat)
  /-- CQ_RING_WRITE (R234): A write to a completion-ring base or configuration is applied only while the queue is empty and
  the range is legal. -/
  | cqRingWrite (who : BusWho) (pa n value hw : Nat)
  /-- LAUNCH_READ (R228): The launch unit reads the next launch descriptor of a queue, validates it and divides branch-set
  rows. Operands: partition slot, launch queue. -/
  | launchRead (slot : Fin 8) (q : Fin 16)
  /-- BLOCK_PLACE (R185): The launch unit places one block of a ready launch on a core in queue rotation, or a whole cluster
  at once. Operands: partition slot, die, core. -/
  | blockPlace (slot : Fin 8) (d : Fin 8) (c : Fin 32)
  /-- ARRAY_DESCRIPTOR_START (R84): The oldest unstarted array descriptor is validated, waits on wait_ctr, and joins or
  opens a tile. Operands: die, core, whether the queue storage it reads has an uncorrectable error. -/
  | arrayDescriptorStart (d : Fin 8) (c : Met (Fin 32))
  /-- TILE_OPEN (R89): The array opens a tile in the lower-numbered FREE plane once its first descriptor and operands are
  ready. Operands: die, core. -/
  | tileOpen (d : Fin 8) (c : Fin 32)
  /-- OPERAND_FETCH_COMPLETE (R81): A feeder fetch of stream, lo or correction operands returns, and a fault abandons the tile
  under R552. Operands: die, core, descriptor, block, operand (A, B, lo of A, lo of B). -/
  | operandFetchComplete (d : Fin 8) (c : Fin 32) (seq block : Nat) (op : Fin 4)
  /-- K_GROUP_ENTER (R80): One K group enters the array, and each cell adds its cell operation into the active plane.
  Operands: die, core, an upset of a cell (row, column, bits), whether the stager lines it takes have an uncorrectable
  error. -/
  | kGroupEnter (d : Fin 8) (c : Fin 32) (upset : Met (Option (Nat × Nat × Nat)))
  /-- SPILL (R90): A plane that has received ceil(S/g) operations, or one forced by a correction, is added into the spill
  store row by row. Operands: die, core, whether the two adders disagree. -/
  | spill (d : Fin 8) (c : Fin 32) (disagree : Bool)
  /-- SPILL_COMPLETE (R90): The spilled plane returns to FREE 262 cc after its segment's last K group, or after the store
  frees. Operands: die, core. -/
  | spillComplete (d : Fin 8) (c : Fin 32)
  /-- CHECKSUM_COMPARE (R100): Rows and columns of a segment are compared with the checksum lanes, and a mismatch starts a
  recompute or fences the core. Operands: die, core. -/
  | checksumCompare (d : Fin 8) (c : Fin 32)
  /-- TILE_RELEASE (R93): In open order, a checked tile writes its status word, completes its descriptors and increments each
  done_ctr. Operands: die, core. -/
  | tileRelease (d : Fin 8) (c : Fin 32)
  /-- ARR_CFG_WRITE (R117): Sets the resident sizes and default spill interval, or is ignored with cfg_err. -/
  | arrCfgWrite (who : BusWho) (pa n value hw : Nat)
  /-- ARR_SPARE_MAP_WRITE (R116): The CP firmware writes or locks the spare map, and software writes fault. -/
  | arrSpareMapWrite (who : BusWho) (pa n value hw : Nat)
  /-- SUMAC_PREDICTION_READ (R124): When a predict-mode descriptor joins the planning window, Sumac reads the predicted map
  and B fetch may begin. Operands: die, core. -/
  | sumacPredictionRead (d : Fin 8) (c : Fin 32)
  /-- ZMAP_ACTUAL_READ (R125): After zmap_ctr reaches zmap_val, the actual map is read, blocks are classified, misses are
  recorded and history is observed. Operands: die, core, descriptor. -/
  | zmapActualRead (d : Fin 8) (c : Fin 32) (seq : Nat)
  /-- ZMAP_VERIFY_READ (R129): With verify set, operand A of a block marked zero is read, and a non-zero block becomes a miss
  and sets zmap_false. Operands: die, core, descriptor. -/
  | zmapVerifyRead (d : Fin 8) (c : Fin 32) (seq : Nat)
  /-- SUMAC_CORRECTION (R127): A missed block is issued as 32/g correction groups after the main stream, sending ZMAP_FALSE
  for verification failures. Operands: die, core. -/
  | sumacCorrection (d : Fin 8) (c : Fin 32)
  /-- SUM_FOLD_ENTRY (R135): Folds one history entry: pushes cur into the ring and recomputes pred. -/
  | sumFoldEntry (who : BusWho) (pa n value hw : Nat)
  /-- SUM_FOLD_ALL (R135): Folds every valid history entry in ascending index order. -/
  | sumFoldAll (who : BusWho) (pa n value hw : Nat)
  /-- SUM_CTRL_WRITE (R139): Sets force, or is ignored with cfg_err for 11. -/
  | sumCtrlWrite (who : BusWho) (pa n value hw : Nat)
  /-- SUM_TBL_WRITE (R139): Sets the history table base or configuration, or is ignored while Sumac descriptors are in flight.
  -/
  | sumTblWrite (who : BusWho) (pa n value hw : Nat)
  /-- VECTOR_DESCRIPTOR_START (R217): The oldest vector descriptor is validated, waits, loads its arguments into s0 onward
  and starts its program. Operands: die, core, whether the queue storage it reads has an uncorrectable error. -/
  | vectorDescriptorStart (d : Fin 8) (c : Met (Fin 32))
  /-- VECTOR_DESCRIPTOR_COMPLETE (R144): When the last instruction retires and every store is acknowledged, the record is
  written and done_ctr incremented. Operands: die, core. -/
  | vectorDescriptorComplete (d : Fin 8) (c : Fin 32)
  /-- VADD (R152): Vector add. Operands: die, core. -/
  | vadd (d : Fin 8) (c : Fin 32)
  /-- VSUB (R152): Vector subtract. Operands: die, core. -/
  | vsub (d : Fin 8) (c : Fin 32)
  /-- VMUL (R152): Vector multiply. Operands: die, core. -/
  | vmul (d : Fin 8) (c : Fin 32)
  /-- VFMA (R152): Vector fused multiply-add, rounded once. Operands: die, core. -/
  | vfma (d : Fin 8) (c : Fin 32)
  /-- VNEG (R152): Vector negate. Operands: die, core. -/
  | vneg (d : Fin 8) (c : Fin 32)
  /-- VABS (R152): Vector absolute value. Operands: die, core. -/
  | vabs (d : Fin 8) (c : Fin 32)
  /-- VMIN (R152): Vector minimum, NaN-propagating. Operands: die, core. -/
  | vmin (d : Fin 8) (c : Fin 32)
  /-- VMAX (R152): Vector maximum, NaN-propagating. Operands: die, core. -/
  | vmax (d : Fin 8) (c : Fin 32)
  /-- VDIV (R152): Vector divide, correctly rounded. Operands: die, core. -/
  | vdiv (d : Fin 8) (c : Fin 32)
  /-- VSQRT (R152): Vector square root, correctly rounded. Operands: die, core. -/
  | vsqrt (d : Fin 8) (c : Fin 32)
  /-- VRCP (R152): Vector reciprocal within 1 ulp. Operands: die, core. -/
  | vrcp (d : Fin 8) (c : Fin 32)
  /-- VRSQRT (R152): Vector reciprocal square root within 1 ulp. Operands: die, core. -/
  | vrsqrt (d : Fin 8) (c : Fin 32)
  /-- VEXP2 (R152): Vector exp2 within 1 ulp. Operands: die, core. -/
  | vexp2 (d : Fin 8) (c : Fin 32)
  /-- VEXP (R152): Vector exp within 2 ulp. Operands: die, core. -/
  | vexp (d : Fin 8) (c : Fin 32)
  /-- VLOG2 (R152): Vector log2 within 2 ulp. Operands: die, core. -/
  | vlog2 (d : Fin 8) (c : Fin 32)
  /-- VLOG (R152): Vector natural log within 2 ulp. Operands: die, core. -/
  | vlog (d : Fin 8) (c : Fin 32)
  /-- VTANH (R152): Vector tanh within 2 ulp. Operands: die, core. -/
  | vtanh (d : Fin 8) (c : Fin 32)
  /-- VSIGM (R152): Vector sigmoid within 2 ulp. Operands: die, core. -/
  | vsigm (d : Fin 8) (c : Fin 32)
  /-- VERF (R152): Vector erf within 2 ulp. Operands: die, core. -/
  | verf (d : Fin 8) (c : Fin 32)
  /-- VCMP (R152): Vector floating compare into a lane mask. Operands: die, core. -/
  | vcmp (d : Fin 8) (c : Fin 32)
  /-- VSEL (R152): Vector select by mask. Operands: die, core. -/
  | vsel (d : Fin 8) (c : Fin 32)
  /-- VCLASS (R152): Vector class test. Operands: die, core. -/
  | vclass (d : Fin 8) (c : Fin 32)
  /-- VIADD (R152): 32-bit integer add modulo 2^32. Operands: die, core. -/
  | viadd (d : Fin 8) (c : Fin 32)
  /-- VISUB (R152): 32-bit integer subtract. Operands: die, core. -/
  | visub (d : Fin 8) (c : Fin 32)
  /-- VAND (R152): Bitwise AND. Operands: die, core. -/
  | vand (d : Fin 8) (c : Fin 32)
  /-- VOR (R152): Bitwise OR. Operands: die, core. -/
  | vor (d : Fin 8) (c : Fin 32)
  /-- VXOR (R152): Bitwise XOR. Operands: die, core. -/
  | vxor (d : Fin 8) (c : Fin 32)
  /-- VSHIFT (R152): Left, logical right or arithmetic right shift. Operands: die, core. -/
  | vshift (d : Fin 8) (c : Fin 32)
  /-- VICMP (R152): Signed integer compare into a lane mask. Operands: die, core. -/
  | vicmp (d : Fin 8) (c : Fin 32)
  /-- VRSUM (R158): Sum across lanes in a fixed binary tree. Operands: die, core. -/
  | vrsum (d : Fin 8) (c : Fin 32)
  /-- VRMAX (R152): Maximum across lanes. Operands: die, core. -/
  | vrmax (d : Fin 8) (c : Fin 32)
  /-- VRMIN (R152): Minimum across lanes. Operands: die, core. -/
  | vrmin (d : Fin 8) (c : Fin 32)
  /-- VRAMAX (R152): Largest magnitude across lanes. Operands: die, core. -/
  | vramax (d : Fin 8) (c : Fin 32)
  /-- VPERM (R152): Permute lanes by an index row. Operands: die, core. -/
  | vperm (d : Fin 8) (c : Fin 32)
  /-- VILV (R152): Interleave low or high halves of two rows. Operands: die, core. -/
  | vilv (d : Fin 8) (c : Fin 32)
  /-- VDILV (R152): Deinterleave even or odd lanes of two rows. Operands: die, core. -/
  | vdilv (d : Fin 8) (c : Fin 32)
  /-- VROT (R152): Rotate a row by n lanes. Operands: die, core. -/
  | vrot (d : Fin 8) (c : Fin 32)
  /-- VCVT (R152): Convert between binary32, binary64, BF16, binary16 and int32. Operands: die, core. -/
  | vcvt (d : Fin 8) (c : Fin 32)
  /-- VCVTS (R154): Convert to a short format against a scale entry, optionally with stochastic rounding and zero-map output,
  and update the entry at completion. Operands: die, core. -/
  | vcvts (d : Fin 8) (c : Fin 32)
  /-- VSPLIT (R77): Split binary32 into BF16 hi and lo tensors. Operands: die, core. -/
  | vsplit (d : Fin 8) (c : Fin 32)
  /-- VUNPK (R152): Unpack short-format codes to binary32 times a factor. Operands: die, core. -/
  | vunpk (d : Fin 8) (c : Fin 32)
  /-- VLD (R152): Row load from memory. Operands: die, core. -/
  | vld (d : Fin 8) (c : Fin 32)
  /-- VST (R153): Row store to memory, with wide values written unrounded. Operands: die, core. -/
  | vst (d : Fin 8) (c : Fin 32)
  /-- VLDS (R152): Strided load. Operands: die, core. -/
  | vlds (d : Fin 8) (c : Fin 32)
  /-- VSTS (R152): Strided store. Operands: die, core. -/
  | vsts (d : Fin 8) (c : Fin 32)
  /-- VSTA (R281): Accumulate store of a row by add-to-line. Operands: die, core. -/
  | vsta (d : Fin 8) (c : Fin 32)
  /-- VOLD (R145): Operand-cache row load. Operands: die, core, an error of the operand cache met (double-bit, sector). -/
  | vold (d : Fin 8) (c : Fin 32) (ecc : Option (Bool × Nat))
  /-- VOST (R146): Operand-cache row store, atomic per row. Operands: die, core. -/
  | vost (d : Fin 8) (c : Fin 32)
  /-- VACC (R148): Accumulator read of a plane or the spill store with descale, freeing the location when the free flag is
  set. Operands: die, core, whether the spill-store lines it reads have an uncorrectable error. -/
  | vacc (d : Fin 8) (c : Met (Fin 32))
  /-- ZMAPCLR (R156): Sets every zero-map accumulator bit to 1. Operands: die, core. -/
  | zmapclr (d : Fin 8) (c : Fin 32)
  /-- ZMAPWR (R156): Writes n zero-map bits to memory. Operands: die, core. -/
  | zmapwr (d : Fin 8) (c : Fin 32)
  /-- SLI (R202): Scalar load immediate. Operands: die, core. -/
  | sli (d : Fin 8) (c : Fin 32)
  /-- SADD (R202): Scalar add. Operands: die, core. -/
  | sadd (d : Fin 8) (c : Fin 32)
  /-- SMUL (R202): Scalar multiply. Operands: die, core. -/
  | smul (d : Fin 8) (c : Fin 32)
  /-- SLOOP (R203): Counted loop branch. Operands: die, core. -/
  | sloop (d : Fin 8) (c : Fin 32)
  /-- SJMP (R203): Relative jump. Operands: die, core. -/
  | sjmp (d : Fin 8) (c : Fin 32)
  /-- VEC_SR_WRITE (R168): Writes the generator key or counter, or is ignored while busy. -/
  | vecSrWrite (who : BusWho) (pa n value hw : Nat)
  /-- VEC_SCL_WRITE (R168): Writes the scale-table base or entries, or is ignored while vector descriptors run. -/
  | vecSclWrite (who : BusWho) (pa n value hw : Nat)
  /-- STEP_PEND_WRITE (R165): A pending-page store applies to the next latch, and a late for_step counts in VEC_STEP_LATE. -/
  | stepPendWrite (who : BusWho) (pa n value hw : Nat)
  /-- STEP_ACT_WRITE (R163): A write to the active page completes with an access fault. -/
  | stepActWrite (who : BusWho) (pa n value hw : Nat)
  /-- MOVER_COPY (R218): Mover op 0x0 copies lines between virtual addresses. Operands: die, core, descriptor, whether the
  queue storage it reads has an uncorrectable error. -/
  | moverCopy (d : Fin 8) (c : Fin 32) (seq : Met Nat)
  /-- MOVER_LOAD_OPERAND_CACHE (R218): Mover op 0x1 loads lines into the operand cache. Operands: die, core, descriptor,
  whether the queue storage it reads has an uncorrectable error. -/
  | moverLoadOperandCache (d : Fin 8) (c : Fin 32) (seq : Met Nat)
  /-- MOVER_STORE_OPERAND_CACHE (R218): Mover op 0x2 stores operand-cache lines to memory. Operands: die, core, descriptor,
  whether the queue storage it reads has an uncorrectable error. -/
  | moverStoreOperandCache (d : Fin 8) (c : Fin 32) (seq : Met Nat)
  /-- MOVER_FILL_A_STAGER (R218): Mover op 0x3 fills an A-stager resident region, waiting while an open tile names it.
  Operands: die, core, descriptor, whether the queue storage it reads has an uncorrectable error. -/
  | moverFillAStager (d : Fin 8) (c : Fin 32) (seq : Met Nat)
  /-- MOVER_FILL_B_STAGER (R218): Mover op 0x4 fills a B-stager resident region, waiting while an open tile names it.
  Operands: die, core, descriptor, whether the queue storage it reads has an uncorrectable error. -/
  | moverFillBStager (d : Fin 8) (c : Fin 32) (seq : Met Nat)
  /-- MOVER_PREFETCH (R221): Mover op 0x5 prefetches into the home die cache and never faults. Operands: die, core,
  descriptor, whether the queue storage it reads has an uncorrectable error. -/
  | moverPrefetch (d : Fin 8) (c : Fin 32) (seq : Met Nat)
  /-- MOVER_FILL_PATTERN (R218): Mover op 0x6 fills lines with the repeated 64-bit pattern. Operands: die, core, descriptor,
  whether the queue storage it reads has an uncorrectable error. -/
  | moverFillPattern (d : Fin 8) (c : Fin 32) (seq : Met Nat)
  /-- MOVER_ACCUMULATE_COPY (R218): Mover op 0x7 adds source lines into the destination by add-to-line. Operands: die, core,
  descriptor, whether the queue storage it reads has an uncorrectable error. -/
  | moverAccumulateCopy (d : Fin 8) (c : Fin 32) (seq : Met Nat)
  /-- MOVER_DESCRIPTOR_COMPLETE (R220): When all writes are acknowledged, the mover descriptor completes with OK or PEER_LOST
  and counts poisoned sectors. Operands: die, core, descriptor. -/
  | moverDescriptorComplete (d : Fin 8) (c : Fin 32) (seq : Nat)
  /-- ALL_REDUCE (R389): Collective op 0x0 sums vectors over all ranks by rings. Operands: die, whether the queue storage it
  reads has an uncorrectable error. -/
  | allReduce (d : Met (Fin 8))
  /-- REDUCE_SCATTER (R389): Collective op 0x1 leaves each rank its shard of the sum. Operands: die, whether the queue
  storage it reads has an uncorrectable error. -/
  | reduceScatter (d : Met (Fin 8))
  /-- ALL_GATHER (R389): Collective op 0x2 gives each rank every rank's shard. Operands: die, whether the queue storage it
  reads has an uncorrectable error. -/
  | allGather (d : Met (Fin 8))
  /-- ALL_TO_ALL_V (R392): Collective op 0x3 exchanges variable-size data per the size table. Operands: die, whether the
  queue storage it reads has an uncorrectable error. -/
  | allToAllV (d : Met (Fin 8))
  /-- EXPERT_COMBINE (R389): Collective op 0x4 sends rows that are added or placed at the indexed rows. Operands: die,
  whether the queue storage it reads has an uncorrectable error. -/
  | expertCombine (d : Met (Fin 8))
  /-- COLLECTIVE_MESSAGE_RECEIVE (R396): A collective message is applied to dst or staging, or held until its operation
  starts. Operands: die, the message. -/
  | collectiveMessageReceive (d : Fin 8) (x : ColMsg)
  /-- COLLECTIVE_END_NOTICE (R388): An end notice ends the same operation with the same status within 100 us. Operands: die,
  group, group sequence number, status. -/
  | collectiveEndNotice (d : Fin 8) (g seq status : Nat)
  /-- COLLECTIVE_DEADLINE (R401): At the deadline, a rank whose descriptor has not started becomes late, contributes zero and
  relays. Operands: die, group. -/
  | collectiveDeadline (d : Fin 8) (g : Nat)
  /-- COLLECTIVE_COMPLETE (R400): When the result is in dst and all sends and adds are done, the operation completes with its
  record. Operands: die, group. -/
  | collectiveComplete (d : Fin 8) (g : Nat)
  /-- COL_RESUME_WRITE (R407): In T16 mode, restarts a broken group's held operations with the new membership. -/
  | colResumeWrite (who : BusWho) (pa n value hw : Nat)
  /-- COL_GRP_WRITE (R410): Writes the group table base or configuration, or is ignored while operations are in progress. -/
  | colGrpWrite (who : BusWho) (pa n value hw : Nat)
  /-- SYNC_CTR_WRITE (R238): An MMIO write of SYNC_CTR.value performs SET. -/
  | syncCtrWrite (who : BusWho) (pa n value hw : Nat)
  /-- SYNC_CTR_ADD_WRITE (R238): An MMIO write performs ADD of the amount. -/
  | syncCtrAddWrite (who : BusWho) (pa n value hw : Nat)
  /-- SYNC_CTR_SUB_WRITE (R238): An MMIO write performs SUB of the amount. -/
  | syncCtrSubWrite (who : BusWho) (pa n value hw : Nat)
  /-- SYNC_CTR_ARM_WRITE (R247): Arms the counter with an expected total and clears the running total, or disarms it. -/
  | syncCtrArmWrite (who : BusWho) (pa n value hw : Nat)
  /-- SYNC_BAR_CFG_WRITE (R264): Configures a die or module slot, resetting it on enable, or is ignored with cfg_err. -/
  | syncBarCfgWrite (who : BusWho) (pa n value hw : Nat)
  /-- SYNC_BAR_WDOG_WRITE (R264): Sets the slot watchdog, or is ignored outside 16 to 30. -/
  | syncBarWdogWrite (who : BusWho) (pa n value hw : Nat)
  /-- REMOTE_ADD_RECEIVE (R252): A remote ADD is applied if its job owns the target die, otherwise it is refused with
  REMOTE_ADD_UNOWNED. Operands: source node and die, incarnation, sequence number, job, target die, counter, amount. -/
  | remoteAddReceive (node sdie inc seq job : Nat) (die : Fin 8) (ctr v : Nat)
  /-- REMOTE_REQUEST_RECEIVE (R370): A remote access is applied at the target in sequence order exactly once and acknowledged,
  or refused. Operands: source node and die, incarnation, sequence number, job, the access. -/
  | remoteRequestReceive (node sdie inc seq job : Nat) (op : RemoteOp)
  /-- REMOTE_REJECT_RECEIVE (R367): A refusal returned to the requester gives the access fault or REMOTE_ADD_REJECT and a
  record. Operands: die, target node, sequence number. -/
  | remoteRejectReceive (d : Fin 8) (node seq : Nat)
  /-- REMOTE_RESPONSE_RECEIVE (R368): An end-to-end acknowledgement or load response retires the access and may complete
  waiting fences. Operands: die, target node, sequence number, bytes returned, their poison, whether it is an access fault. -/
  | remoteResponseReceive (d : Fin 8) (node seq : Nat) (bs : List Byte) (poison fault : Bool)
  /-- REMOTE_RESEND (R368): An access without acknowledgement 100 us after transmission is resent with its sequence number.
  Operands: die, target node, sequence number. -/
  | remoteResend (d : Fin 8) (node seq : Nat)
  /-- EDGE_REQUEST_RECEIVE (R377): A request from an edge peer is admitted with edge_job, or refused when edge_en is 0.
  Operands: die, port, target node, the peer's tag, the access. -/
  | edgeRequestReceive (d : Fin 8) (p : Fin 8) (node tag : Nat) (op : RemoteOp)
  /-- DIE_CACHE_REQUEST (R270): A request reaches a die-cache slice and is served under the class, coherence, Clove and
  replacement rules. Operands: die, requester, what it asks, the page's mirrored attribute, an error that the cache's code
  meets. -/
  | dieCacheRequest (d : Fin 9) (req : Requester) (op : CacheOp) (mirror : Bool) (err : Option CacheErr)
  /-- DIE_CACHE_MISS_FILL (R287): Memory data returns and fills the line into the victim way chosen by recency and pinning.
  Operands: die, address, whether the bank's queue is full. -/
  | dieCacheMissFill (d : Fin 9) (a : Nat) (bankFull : Bool)
  /-- ACCUMULATE_WRITE_APPLY (R283): The home slice adds one accumulate write into its sector, or refuses it on poison.
  Operands: requester, address, element width in bytes, data, its poison, the mirrored attribute. -/
  | accumulateWriteApply (req : Requester) (a width : Nat) (bs : List Byte) (poison mirror : Bool)
  /-- REMOTE_LINE_SWEEP (R279): The background sweep frees remote-class lines of old epochs one set per slice per ns.
  Operands: die, set. -/
  | remoteLineSweep (d : Fin 8) (set : Fin 2048)
  /-- CLOVE_TRACKER_EXPIRE (R288): A tracker unmatched for 4 us is freed. Operands: die, slice. -/
  | cloveTrackerExpire (d : Fin 8) (slice : Fin 64)
  /-- MISS_SLOT_ISSUE (R301): A request that waited for a miss slot or the bank-group cap takes a slot and issues. Operands:
  die, core. -/
  | missSlotIssue (d : Fin 8) (c : Fin 32)
  /-- BANK_RETRY_ISSUE (R302): A retry-buffer entry issues in order when its bank's controller queue frees. Operands: die, an
  address of the bank. -/
  | bankRetryIssue (d : Fin 8) (a : Nat)
  /-- MISS_REISSUE (R302): A miss returned by a full retry buffer is reissued after 64 ns. Operands: die, address. -/
  | missReissue (d : Fin 8) (a : Nat)
  /-- DC_PIN_CMD_PIN (R291): Pin command: lines are translated and pinned in order, stopping at the first refusal. -/
  | dcPinCmdPin (who : BusWho) (pa n value hw : Nat)
  /-- DC_PIN_CMD_UNPIN (R292): Unpin command: the pinned lines of the range become ordinary. -/
  | dcPinCmdUnpin (who : BusWho) (pa n value hw : Nat)
  /-- PIN_COMMAND_COMPLETE (R291): The pin command ends, writes done, reason and DC_PIN_FAIL, and sends PIN_REFUSED when
  refused. Operands: die. -/
  | pinCommandComplete (d : Fin 8)
  /-- PIN_PRESSURE_WINDOW (R293): A window of pinned-set misses exceeding the threshold sets pin_pressure and sends
  PIN_PRESSURE. Operands: die. -/
  | pinPressureWindow (d : Fin 8)
  /-- DEAD_RANGE_DECLARE (R294): A declare write activates a dead range, or refuses it with err. -/
  | deadRangeDeclare (who : BusWho) (pa n value hw : Nat)
  /-- DEAD_RANGE_CANCEL (R298): A cancel write clears active without release, possibly followed by a declaration. -/
  | deadRangeCancel (who : BusWho) (pa n value hw : Nat)
  /-- DEAD_RANGE_INVALIDATE_DONE (R295): The range's copies are discarded without write-back, busy clears, and a waiting write
  releases the range. Operands: die, range. -/
  | deadRangeInvalidateDone (d : Fin 8) (i : Fin 64)
  /-- DC_CFG_WRITE (R307): Sets clove_mode and the stream prefetch distance, or is ignored with cfg_err. -/
  | dcCfgWrite (who : BusWho) (pa n value hw : Nat)
  /-- DC_L1_CFG_WRITE (R307): Sets L1 stride prefetch, or is ignored for distance 0. -/
  | dcL1CfgWrite (who : BusWho) (pa n value hw : Nat)
  /-- DC_PIN_QUOTA_WRITE (R290): The CP firmware sets the pin quota within range, and software writes fault. -/
  | dcPinQuotaWrite (who : BusWho) (pa n value hw : Nat)
  /-- DIE_RESET (R306): A die reset writes back and recalls lines, darkens the ports, stops blocks and returns the die's
  fields to reset values. Operands: die. -/
  | dieReset (d : Fin 8)
  /-- DIE_RESET_COMPLETE (R478): The CP firmware rewrites CP-only registers, reloads spare maps, re-arms timers and reports
  the reset complete. Operands: die. -/
  | dieResetComplete (d : Fin 8)
  /-- PORT_LIGHT_DETECT (R350): Light arriving on a lane puts the port in TRAIN. Operands: die, port, lanes with light. -/
  | portLightDetect (d : Fin 8) (p : Fin 8) (lanes : Nat)
  /-- PORT_TRAIN_COMPLETE (R350): Lanes lock clock, equaliser and FEC, and the port negotiates once FAB_NODE is valid on both
  ends. Operands: die, port, lanes trained, whether FAB_NODE is valid at the other end. -/
  | portTrainComplete (d : Fin 8) (p : Fin 8) (lanes : Nat) (peerValid : Bool)
  /-- PORT_NEGOTIATE (R350): The capability exchange checks wiring and picks a rate, leading to ACTIVE, STANDBY, WIRING or
  FAILED. Operands: die, port, what the other end says. -/
  | portNegotiate (d : Fin 8) (p : Fin 8) (x : PeerCaps)
  /-- PORT_LIGHT_LOST (R352): Loss of light on a used lane triggers a standby swap or renegotiation, or failure. Operands:
  die, port, lanes that lost their light. -/
  | portLightLost (d : Fin 8) (p : Fin 8) (lanes : Nat)
  /-- PORT_FEC_FAIL (R352): 8 uncorrectable codewords on one lane within 10 us is a lane fault. Operands: die, port, lane,
  uncorrectable codewords. -/
  | portFecFail (d : Fin 8) (p : Fin 8) (lane n : Nat)
  /-- STANDBY_SWAP (R353): A standby port of the direction takes over a failed active port's traffic within 20 ms. Operands:
  die, port. -/
  | standbySwap (d : Fin 8) (p : Fin 8)
  /-- PORT_RETRY (R349): A FAILED port retries negotiation every 1 s. Operands: die, port. -/
  | portRetry (d : Fin 8) (p : Fin 8)
  /-- FAB_PORT_CTL_WRITE (R380): The CP firmware sets port rate, disable and edge admission, and software writes fault. -/
  | fabPortCtlWrite (who : BusWho) (pa n value hw : Nat)
  /-- LINK_PACKET_RECEIVE (R351): A link packet is acknowledged, or a replay is requested on a CRC failure or a gap. Operands:
  die, port, what comes on the link. -/
  | linkPacketReceive (d : Fin 8) (p : Fin 8) (e : LinkEvent)
  /-- PACKET_FORWARD (R360): A packet is routed dimension-ordered, by detour entry or around a lost node, or discarded for a
  stale epoch or hop limit. Operands: die, the packet. -/
  | packetForward (d : Fin 8) (x : Packet)
  /-- HEARTBEAT_SEND (R355): Every 250 us each ACTIVE or STANDBY port sends a heartbeat. Operands: die, port. -/
  | heartbeatSend (d : Fin 8) (p : Fin 8)
  /-- HEARTBEAT_RECEIVE (R355): A heartbeat resets the port's missed count. Operands: die, port. -/
  | heartbeatReceive (d : Fin 8) (p : Fin 8)
  /-- HEARTBEAT_TIMEOUT (R356): Four missed heartbeat periods fail the port, and may declare the neighbour lost. Operands:
  die, port. -/
  | heartbeatTimeout (d : Fin 8) (p : Fin 8)
  /-- NODE_LOST_RECEIVE (R357): A NODE_LOST flood sets FAB_LOST, is forwarded, is reported and abandons accesses to the node.
  Operands: node. -/
  | nodeLostReceive (n : Fin 16384)
  /-- FAB_ROUTE_CTL_WRITE (R381): The CP firmware arms a route epoch switch, or the write is ignored with cfg_err. -/
  | fabRouteCtlWrite (who : BusWho) (pa n value hw : Nat)
  /-- ROUTE_EPOCH_SWITCH (R364): At the switch instant, the pending detour table and epoch become active and listed FAB_LOST
  bits clear. Operands: die. -/
  | routeEpochSwitch (d : Fin 8)
  /-- FAULT_RECORD_DELIVER (R412): The fault aggregator delivers a record to the CP, MC and fault queue, writing FQ_OVERFLOW
  or withholding when full. Operands: die. -/
  | faultRecordDeliver (d : Fin 9)
  /-- SNAP_FQ_HEAD_WRITE (R452): Advances the fault queue head, or is ignored when it would pass tail. -/
  | snapFqHeadWrite (who : BusWho) (pa n value hw : Nat)
  /-- SNAP_FQ_CFG_WRITE (R452): Configures the fault queue, or is ignored while enable is 1 unless it clears enable. -/
  | snapFqCfgWrite (who : BusWho) (pa n value hw : Nat)
  /-- SNAP_UPD_DONE_WRITE (R426): Records the step whose update is done, counting for the next boundary. -/
  | snapUpdDoneWrite (who : BusWho) (pa n value hw : Nat)
  /-- SCHEDULE_CAPTURE_COMPLETE (R428): The schedule state of the new version is captured within 2 ms of the flip. Operands:
  die. -/
  | scheduleCaptureComplete (d : Fin 8)
  /-- CHUNK_DIGEST (R429): A chunk is digested with SHA3-256, or repaired from the replica on poison, or marked poisoned.
  Operands: die, what the replica supplies, if asked. -/
  | chunkDigest (d : Fin 8) (fetched : Option (List Byte))
  /-- DRAIN_CHUNK_RECEIVE (R432): The buddy checks an inbound chunk's digest, stores it and acknowledges it, or asks again.
  Operands: source node, step, what arrives. -/
  | drainChunkReceive (node step : Nat) (x : DrainItem)
  /-- DRAIN_CHUNK_ACK (R430): An acknowledgement advances the drain, and the drain completes on the manifest's
  acknowledgement. Operands: die, the buddy's answer. -/
  | drainChunkAck (d : Fin 8) (r : DrainAnswer)
  /-- HOLD_COPY_COMPLETE (R432): After the job-wide commit, the receive area is copied to the hold area and SNAP_HOLD_STEP is
  set. -/
  | holdCopyComplete
  /-- PAGE_REBUILD (R448): The CP firmware refetches a poisoned replicated chunk, checks and rewrites it, and sends
  PAGE_REBUILT. Operands: die, address, the chunk fetched. -/
  | pageRebuild (d : Fin 8) (a : Nat) (data : List Byte)
  /-- D2D_LINK_FAULT (R417): A D2D link fails, traffic moves to the other link or other dies, and D2D_LINK is sent. Operands:
  the two dies, the link. -/
  | d2dLinkFault (a b : Fin 9) (l : Fin 2)
  /-- D2D_LINK_RESTORED (R413): A die-to-die link that had failed comes back into service, traffic and time sources may use it
  again, and a D2D_LINK record with state 00 restored is sent to the CP. Operands: the two dies, the link. -/
  | d2dLinkRestored (a b : Fin 9) (l : Fin 2)
  /-- LIVENESS_BEAT (R419): Each Orlupo die's PMU sends a 1 ms liveness beat to the CP. Operands: die. -/
  | livenessBeat (d : Fin 8)
  /-- DIE_HANG_DETECT (R419): Three missed beats declare the die hung, which withdraws the module or resets the die. Operands:
  die. -/
  | dieHangDetect (d : Fin 8)
  /-- CP_WATCHDOG_EXPIRE (R421): The SP withdraws the module and resets the CP. -/
  | cpWatchdogExpire
  /-- MC_WATCHDOG_EXPIRE (R421): The SP resets the MC, and the governor holds its caps. -/
  | mcWatchdogExpire
  /-- SP_WATCHDOG_EXPIRE (R421): The MC withdraws the module. -/
  | spWatchdogExpire
  /-- D2D_BEAT_LOST (R449): Orlupo dies that lose the Bludjan D2D beat for 1 ms darken their ports. -/
  | d2dBeatLost
  /-- PLDM_POWER_LIMIT (R454): A chassis limit announcement computes the new cap, writes PWR_CAP_PEND and arms action 0x6.
  Operands: the limit in W. -/
  | pldmPowerLimit (watts : Nat)
  /-- POWER_SAMPLE (R460): Every 1 us the PMU samples the die's compute, stack and optics rails. Operands: die, readings in
  0.125 W: compute rail (the Bludjan domain on die 8), stacks, optics. -/
  | powerSample (d : Fin 9) (compute : Nat) (stk : List Nat) (optics : Nat)
  /-- ESTIMATOR_RESCALE (R460): Every 10 us the core activity estimates are rescaled to the measured die rail. Operands: die,
  activity of the cores, uncore power. -/
  | estimatorRescale (d : Fin 8) (activity : List Nat) (uncore : Nat)
  /-- GOVERNOR_WINDOW (R461): At each 256-slot window the governor computes and spreads each unit's bubbles. Operands: die,
  unit (0 to 31 cores, 32 to 35 stacks, 36 optics, 37 Bludjan), its input. -/
  | governorWindow (d : Fin 9) (unit input : Nat)
  /-- SUPPLY_DROOP (R464): A compute supply droop beyond droop_mv inserts bubbles on every core of the die within 2 cc.
  Operands: die, the drop in mV. -/
  | supplyDroop (d : Fin 8) (drop : Nat)
  /-- BALLAST_ISSUE (R466): While engaged, ballast is issued on idle arrays to hold the floor. Operands: die, core. -/
  | ballastIssue (d : Fin 8) (c : Fin 32)
  /-- NUTMEG_TAPER_START (R467): At the first grid instant after engagement, the floor begins its linear fall over taper_ms.
  Operands: die. -/
  | nutmegTaperStart (d : Fin 8)
  /-- PWR_NUT_WRITE (R474): Software sets the Nutmeg registers, or the write is ignored with cfg_err. -/
  | pwrNutWrite (who : BusWho) (pa n value hw : Nat)
  /-- THERMAL_SAMPLE (R470): Every 10 us the sensors are read, starting or ending throttles and counting shutdown readings.
  Operands: die, readings in °C: junction (on die 8 the GDDR7), stacks, optics. -/
  | thermalSample (d : Fin 9) (tj : Nat) (stk : List Nat) (optics : Nat)
  /-- DROOP_END (R464): The die's compute supply returns within droop_mv of nominal, and the droop bubbles end droop_len times
  4 cc later. Operands: die. -/
  | droopEnd (d : Fin 8)
  /-- MBX_REQ_TAIL_WRITE (R481): The request doorbell announces requests, or is ignored with doorbell_err. -/
  | mbxReqTailWrite (who : BusWho) (pa n value hw : Nat)
  /-- MBX_RSP_HEAD_WRITE (R508): Consumes responses, or is ignored with rsp_err when it would pass the tail. -/
  | mbxRspHeadWrite (who : BusWho) (pa n value hw : Nat)
  /-- MC_RELAY_REQUEST (R481): The MC writes a chassis or management request into mailbox 31. Operands: the words of the
  request. -/
  | mcRelayRequest (ws : List Nat)
  /-- MAILBOX_REQUEST_TAKE (R482): The CP firmware takes a request, checks seq, length, permission and deadline, and starts
  the command. Operands: mailbox. -/
  | mailboxRequestTake (k : Fin 32)
  /-- OPEN (R487): Negotiates a major version and opens the mailbox. Operands: mailbox. -/
  | openMailbox (k : Fin 32)
  /-- QUERY (R490): Returns identity, partitions, power or versions. Operands: mailbox. -/
  | query (k : Fin 32)
  /-- CONFIGURE (R493): Checks a configuration structure whole, then applies, clamps, ignores or refuses each entry and writes
  a report. Operands: mailbox. -/
  | configure (k : Fin 32)
  /-- PARTITION_CREATE (R496): Takes a slot, binds a mailbox and sets translation roots and pin quotas on the named dies.
  Operands: mailbox. -/
  | partitionCreate (k : Fin 32)
  /-- PARTITION_DESTROY (R497): Aborts and resets the partition's dies and frees its slot and mailbox. Operands: mailbox. -/
  | partitionDestroy (k : Fin 32)
  /-- JOB_OPEN (R498): Checks the box and Saffron layout, writes FAB_JOB, COL_CFG and the SNAP registers, and arms timers 3 to
  7. Operands: mailbox. -/
  | jobOpen (k : Fin 32)
  /-- JOB_CLOSE (R499): Disarms the job timers and clears FAB_JOB.valid and SNAP_CFG.enable. Operands: mailbox. -/
  | jobClose (k : Fin 32)
  /-- ABORT (R501): Stops the partition's engines, discards queued work, faults its blocks and resets its counters. Operands:
  mailbox. -/
  | abort (k : Fin 32)
  /-- ABORT_COMPLETE (R501): ABORT completes when every engine is idle and no block is resident. Operands: partition slot. -/
  | abortComplete (slot : Fin 8)
  /-- ABORT_ESCALATE (R451): An ABORT incomplete after 2 ms resets every die of the partition and reports ESCALATED. Operands:
  partition slot. -/
  | abortEscalate (slot : Fin 8)
  /-- ROUTE_UPDATE (R364): Installs a pending detour table, epoch, switch instant and clear list. Operands: mailbox. -/
  | routeUpdate (k : Fin 32)
  /-- SNAP_CONFIG (R504): Sets the send-side buddy and replica and the receive-side sender and areas. Operands: mailbox. -/
  | snapConfig (k : Fin 32)
  /-- SNAP_RESTORE (R441): Restores a version in local, replacement or adopt mode after checking every chunk digest. Operands:
  mailbox, what other modules supply. -/
  | snapRestore (k : Fin 32) (feed : RestoreFeed)
  /-- MARGIN_START (R338): Starts a destructive margin sweep of the named stack and pseudo-channels. Operands: mailbox. -/
  | marginStart (k : Fin 32)
  /-- MARGIN_STATUS (R490): Returns the state and record count of a margin run. Operands: mailbox. -/
  | marginStatus (k : Fin 32)
  /-- MARGIN_CANCEL (R338): Cancels a margin run and restores the trained settings. Operands: mailbox. -/
  | marginCancel (k : Fin 32)
  /-- FUSE_STATUS (R490): Returns fenced, soft-repaired and spare-using cores and the repair-log rows of a die. Operands:
  mailbox. -/
  | fuseStatus (k : Fin 32)
  /-- FT_STATUS (R506): Returns FT_STATUS of all nine dies, FT_COUNT of CD0 and the civil offset. Operands: mailbox. -/
  | ftStatus (k : Fin 32)
  /-- COUNTER_SNAPSHOT (R506): Reads the counters of selected blocks and dies into a buffer, optionally clearing them.
  Operands: mailbox. -/
  | counterSnapshot (k : Fin 32)
  /-- DEBUG_CHALLENGE (R523): Returns a fresh 32-byte challenge and the DeviceID key digest. Operands: mailbox. -/
  | debugChallenge (k : Fin 32)
  /-- DEBUG_UNLOCK (R524): Verifies a signed token, then erases attestation keys, opens debug access and sets taint, or
  refuses. Operands: mailbox. -/
  | debugUnlock (k : Fin 32)
  /-- ATTESTATION_REPORT (R522): Request type 0 is answered with a report signed by the alias key over the nonce and
  measurements. Operands: relay, nonce, requests that the SP leaves waiting. -/
  | attestationReport (relay : Nat) (nonce : List Byte) (waiting : Nat)
  /-- ATTESTATION_CERTIFICATES (R522): Request type 1 is answered with the DeviceID, firmware and alias certificates.
  Operands: relay, requests that the SP leaves waiting. -/
  | attestationCertificates (relay waiting : Nat)
  /-- I3C_ENTDAA (R540): The I3C target accepts a dynamic address by ENTDAA. Operands: the address assigned. -/
  | i3cEntdaa (addr : Fin 128)
  /-- I3C_SETDASA (R540): The I3C target accepts a dynamic address by SETDASA from static address 0x2A. Operands: static
  address, dynamic address. -/
  | i3cSetdasa (static addr : Fin 128)
  /-- DEBUG_PORT_ACCESS (R542): Activity on DBG_TCK, DBG_TMS, DBG_TDI and DBG_TRST_N drives the IEEE 1149.1 port while debug
  access is open, and is ignored with DBG_TDO at high impedance otherwise. Operands: the levels of the pins. -/
  | debugPortAccess (tck tms tdi trst : Bool)
  deriving DecidableEq, Repr

end Sys2Proof
end

