-- ==== Sys2Proof/Machine/State.lean ====
section
/-! DEFINITION. The state of the module as plain data: every register, memory, cache, queue, buffer, counter and mode the
spec gives it, the queue of commands that wait, and the state after reset. -/

namespace Sys2Proof.Machine

/-- One copy of a register: the register, the die it is on (8 is the Bludjan die), the core of a per-core block, its
index, and a second index (a counter of a port, a stack of a per-stack block). -/
structure RegId where
  reg : Reg
  die : Nat
  core : Nat
  i : Nat
  j : Nat
  deriving DecidableEq, Repr

/-- The key of a register copy within its die's register map: a pairing of its parts, so that two copies never share a
key. -/
def RegId.key (r : RegId) : Nat :=
  Nat.pair (Nat.pair r.reg.code r.core) (Nat.pair r.i r.j)

/-! ### Fabric time (spec/02) -/

/-- A time source that a die has heard (R31): its index under FT_STATUS.`upstream`, what its last message carried, and for how many
consecutive exchanges it has held its hop count. -/
structure TimeSource where
  idx : Nat
  epoch : Nat
  hop : Nat
  gm : Nat
  civil : Option W64
  held : Nat
  deriving DecidableEq, Repr

/-- A timer action on its way to its actuator (R43): the timer, its action code and argument, the reading of the
die's counter, in ns, at which it arrives, and the PMU cycle of its firing. -/
structure TimerAct where
  timer : Nat
  action : Nat
  arg : Nat
  due : Nat
  at_ : Nat
  deriving DecidableEq, Repr

/-- The fabric-time part of a die (R27 to R31): the counter's 32-bit fraction, the rate adjustment in units of 2^-32 ns a
PMU cycle, PMU cycles since the die's reset, the link delays of the last 16 exchanges of each port or link (by its index under
FT_STATUS.`upstream`, newest first, in units of 10 ps), the sources heard, the runs of exchanges above 8 ns and at most 4 ns,
the cycle at which HOLDOVER began, whether a step to the source is due, the cycle of each port's last time message
(index n: port n), timers enabled with their target already past, and actions on their way. -/
structure DieTime where
  frac : Nat
  adj : Int
  pmu : Nat
  delays : SMap (List Int)
  sources : List TimeSource
  over8 : Nat
  under4 : Nat
  holdStart : Nat
  stepDue : Bool
  lastSend : SMap Nat
  lateArmed : Nat
  acts : List TimerAct
  deriving DecidableEq, Repr

/-- The fabric-time part of a die after its reset (R29). -/
def DieTime.init : DieTime :=
  { frac := 0, adj := 0, pmu := 0, delays := [], sources := [], over8 := 0, under4 := 0, holdStart := 0, stepDue := false,
    lastSend := [], lateArmed := 0, acts := [] }


/-- Fabric time at the level of the module (R33, R37, R553): whether the module holds the grandmaster role, the PMU cycle of
CD0 at which a time message of the current epoch last came, the TAI second of the last TREF_PPS edge with CD0's reading at
it, and the die-to-die links that are down, as (lower die, higher die, link). -/
structure ModTime where
  gm : Bool
  heardAt : Nat
  ptp : Option Nat
  ppsAt : Option Nat
  d2dDown : List (Nat × Nat × Nat)
  deriving DecidableEq, Repr

def ModTime.init : ModTime := { gm := false, heardAt := 0, ptp := none, ppsAt := none, d2dDown := [] }

/-! ### The matrix array and Sumac (spec/04, spec/05) -/

/-- One accumulator plane: its FA40 codes and its magnitude accumulators (binary32; key 0 to 127 a row, 128 to 255 a
column), both by sparse key with +0 as default; the tile that holds it (by the queue sequence number of its first
descriptor), the index of its segment and the cell operations that entered it; whether a live accumulator saturated or
became NaN in the segment, whether any cell did; whether the segment has been compared and added into the store; and
whether it was last held by a tile abandoned for poison, and which tile last held it (R94). -/
structure ArrPlane where
  cells : SMap W64
  mags : SMap W32
  owner : Nat
  seg : Nat
  n1 : Nat
  sat : Bool
  nan : Bool
  odd : Bool
  compared : Bool
  added : Bool
  poisonAb : Bool
  last : Option Nat
  deriving DecidableEq, Repr

def ArrPlane.init : ArrPlane :=
  { cells := [], mags := [], owner := 0, seg := 0, n1 := 0, sat := false, nan := false, odd := false, compared := false,
    added := false, poisonAb := false, last := none }

/-- A descriptor of a tile as the array and Sumac work on it: queue sequence number and words; whether it has been planned,
its mode then, whether its wait on `zmap_ctr` is over; its predicted and actual zero-maps (bit b: block b), whether its
blocks have been classified, the blocks still to be verified, those verification found non-zero or could not read, and those
of them that were found non-zero; the next block and group of its main stream; its misses not yet corrected; whether its map had
been read when its tile was started again, whether its tile was (R131); and the error (1 poison, 3 fault) of a fetch that its tile needs
and that failed before it started (R552). -/
structure TDesc where
  seq : Nat
  words : List Nat
  planned : Bool
  mode : Nat
  zasked : Bool
  pred : Nat
  act : Option Nat
  toVerify : Nat
  counted : Bool
  vbad : Nat
  vfalse : Nat
  pos : Nat
  grp : Nat
  miss : Nat
  redo : Bool
  again : Bool
  err : Nat
  deriving DecidableEq, Repr

/-- A tile (R85): its name (the queue sequence number of its first descriptor), its tile sequence number once opened, the
attempt, the flags of its status word, whether it still takes descriptors, the error of an abandoned tile that does, its
descriptors, whether it is open, log2 of its spill interval, the plane it
accumulates in, its segment, whether it has spilled, the group of the correction in progress, whether every group has
entered. -/
structure Tile where
  uid : Nat
  seq : Option Nat
  attempt : Nat
  chk : Bool
  sat : Bool
  nan : Bool
  corr : Bool
  skipped : Bool
  accepting : Bool
  err : Nat
  word : Nat
  descs : List TDesc
  opened : Bool
  sLog : Nat
  plane : Nat
  seg : Nat
  spilled : Bool
  cgrp : Nat
  streamed : Bool
  deriving DecidableEq, Repr

/-- What the operand feeder has fetched (R81): for a descriptor and block, the operand (0 A, 1 B, 2 A's lo tensor, 3 B's), its
codes (line × 32 + k), the k of the block at which some live line carries poison, and whether the fetch faulted. -/
structure FeedBuf where
  seq : Nat
  block : Nat
  op : Nat
  codes : List Nat
  bad : Nat
  fault : Bool
  deriving DecidableEq, Repr

/-- The matrix array of a core: stagers with the poison of their sectors, planes, spill store (binary64 codes, checksum row and
column included), the tile it holds, the one that last held it, and whether that one was abandoned for poison (R94), tiles in order, the tile
sequence counter, the feeder, the bubbles of the governor's window and the issue slots of it that have passed (R461), the descriptors that are planned and have not started (R124), the one whose wait on
`zmap_ctr` SUM_STATUS shows. -/
structure ArrSt where
  stagA : SMap Byte
  stagB : SMap Byte
  poisA : SMap Nat
  poisB : SMap Nat
  planes : List ArrPlane
  store : SMap W64
  storeOwner : Nat
  storeLast : Option Nat
  storePoisonAb : Bool
  tiles : List Tile
  tileSeq : Nat
  feed : List FeedBuf
  bubbles : Nat
  slot : Nat
  ahead : List TDesc
  waitSeq : Option Nat
  deriving DecidableEq, Repr

def ArrSt.init : ArrSt :=
  { stagA := [], stagB := [], poisA := [], poisB := [], planes := [ArrPlane.init, ArrPlane.init], store := [],
    storeOwner := 0, storeLast := none, storePoisonAb := false, tiles := [], tileSeq := 0, feed := [], bubbles := 0, slot := 0, ahead := [], waitSeq := none }

/-! ### The vector engine (spec/06) -/

/-- The vector program in execution (R141, R142): its descriptor, the index of the next instruction, the vector registers it has
written (by number, 128 lanes of 32 bits; others hold open values, drawn with `base`), s0 to s15, the zero-map accumulator
once it has been set, the sticky flags (bit 0 nv, 1 of, 2 dz), the index of the last instruction issued, and the active
step-constants page that was current at its start (R166). -/
structure VecRun where
  seq : Nat
  words : List Nat
  idx : Nat
  v : SMap (List W32)
  base : Nat
  s : List W64
  zacc : Option Nat
  flags : Nat
  last : Nat
  page : List W64
  waits : Bool
  sclWait : Option Nat
  deriving DecidableEq, Repr

/-- The vector engine of a core: its operand cache with the poison of its sectors, and the program in execution. -/
structure VecSt where
  oc : SMap Byte
  ocPois : SMap Nat
  run : Option VecRun
  deriving DecidableEq, Repr

def VecSt.init : VecSt := { oc := [], ocPois := [], run := none }
/-! ### Threads, blocks and queues (spec/07, spec/08) -/

/-- What a thread waits for before it tries its instruction again (R178): nothing more; its own writes into busy dead ranges (R297); every
earlier store to be visible (R240); its remote stores to be sent (R372); a busy dead range to be settled (R297); a request of memory to be
taken (R300 to R302, R306); a sector of another module; the remote epoch to be free (R279). -/
inductive Hold where
  | again
  | stores
  | visible
  | unsent
  | busy (pa : Nat)
  | mem (pa : Nat)
  | fetch (node : Option Nat) (addr : Nat)
  | epoch
  deriving DecidableEq, Repr

/-- What a thread waits for (R178): nothing, what it tries its instruction again for, a block barrier, a counter, a barrier slot's
generation, an arrival held back under R256, a full queue, a fence, or a memory response. A dead load (R375) is a response that never
comes. -/
inductive ThreadWait where
  | ready
  | held (why : Hold)
  | bar (id : Nat)
  | counter
  | slot (module_ : Bool) (slot gen : Nat)
  | slotStall (module_ : Bool) (slot : Nat) (wait : Bool)
  | push
  | fence (id : Nat)
  | response
  | dead
  deriving DecidableEq, Repr

/-- One thread: its pc, registers x0 to x31 and f0 to f31, fcsr, retired instructions, what it waits for, whether it has
exited, and its reservation (the address of a 32-byte sector). -/
structure Thread where
  pc : Nat
  x : List W64
  f : List W32
  fcsr : Nat
  instret : Nat
  wait : ThreadWait
  exited : Bool
  resv : Option Nat
  deriving DecidableEq, Repr

/-- A running instance of a block barrier (R192): its id, the count of its first arrival, that thread, the arrived threads,
and the core cycle of the first arrival with the watchdog limit in force then (R204). -/
structure BarInst where
  id : Nat
  count : Nat
  first : Nat
  arrived : List Nat
  start : Nat
  limit : Nat
  deriving DecidableEq, Repr

/-- A PC of a group that was passed over (R178): the PC and in how many consecutive issue slots. -/
structure PassedPc where
  group : Nat
  pc : Nat
  n : Nat
  deriving DecidableEq, Repr

/-- A resident block (R175 to R189): its place on the core, the launch that placed it (partition slot, queue, count),
its kernel and index, its threads and declared registers, its local store (bytes, size), its cluster (rank, size, first core),
the scheduler of each of its groups, the registers that each group's register cache keeps, most recent first (R182), its barriers, the PCs passed over, and whether it has ended (its local store is held
until its cluster has, R189). -/
structure Block where
  slot : Nat
  part : Nat
  lq : Nat
  launch : Nat
  kernel : Nat
  index : Nat
  nblk : Nat
  xregs : Nat
  fregs : Nat
  threads : List Thread
  ls : SMap Byte
  lsBytes : Nat
  crank : Nat
  csize : Nat
  sched : List Nat
  kept : SMap (List Nat)
  bars : List BarInst
  passed : List PassedPc
  ended : Bool
  deriving DecidableEq, Repr

/-- A thread named from outside its core: block place and thread index. -/
structure ThreadRef where
  core : Nat
  block : Nat
  thread : Nat
  deriving DecidableEq, Repr

/-- A descriptor in a queue (R206): its sequence number, its eight words, the core that pushed it, and whether it has been
validated, waits on its counter, was released, or has started. -/
structure Desc where
  seq : Nat
  words : List Nat
  core : Nat
  waiting : Bool
  released : Bool
  started : Bool
  deriving DecidableEq, Repr

/-- A mover descriptor in progress (R220): its sequence number and words, the next line, whether it has ended its work and with
which status, the poisoned sectors and the bytes it has written. -/
structure MovRun where
  seq : Nat
  words : List Nat
  line : Nat
  finished : Bool
  status : Nat
  poisoned : Nat
  bytes : Nat
  deriving DecidableEq, Repr

/-- A push that waits for a credit (R209): the thread, and whether a credit has been given to it. -/
structure StalledPush where
  who : ThreadRef
  granted : Bool
  deriving DecidableEq, Repr

/-- A launch that the launch unit has read (R226 to R230): queue and count, its words, its completion bookkeeping per kernel
(blocks placed, exited, faulted), whether its wait is satisfied, and the rows of each kernel of a branch set. -/
structure Launch where
  lq : Nat
  seq : Nat
  words : List Nat
  released : Bool
  placed : List Nat
  exited : Nat
  faulted : Nat
  rows : List (List Nat)
  deriving DecidableEq, Repr

/-! ### Sync counters and barrier slots (spec/09) -/

/-- Who waits on a counter (R242, R243): a thread (with its rd), a descriptor of a queue of a core (0 array, 1 vector,
2 mover, 3 the die's collective queue), a tile's zero-map wait, or a launch. -/
inductive Waiter where
  | thread (who : ThreadRef) (rd : Nat)
  | desc (core queue seq : Nat)
  | zmap (core seq : Nat)
  | launch (part lq seq : Nat)
  deriving DecidableEq, Repr

/-- A wait in arrival order: the counter, the threshold, whether it consumes, and who. -/
structure CtrWait where
  ctr : Nat
  n : Nat
  consume : Bool
  who : Waiter
  deriving DecidableEq, Repr

/-- A barrier slot's arrivals (R255, R256): per core for the current generation and the next, the core cycle of the current
generation's first arrival, and whether its timeout record has been sent. -/
structure SlotSt where
  cur : SMap Nat
  next : SMap Nat
  start : Option Nat
  nextStart : Option Nat
  sent : Bool
  deriving DecidableEq, Repr

def SlotSt.init : SlotSt := { cur := [], next := [], start := none, nextStart := none, sent := false }

/-! ### Memory and caches (spec/10, spec/11) -/

/-- How a resident or fetched line came to be: by a demand access, a stream prefetch, or an explicit prefetch (R299); `missed`, of a fetch alone: by a
demand access that is still to take it, and whose miss is counted already (R302). -/
inductive PfMark where
  | demand | stream | explicit | missed
  deriving DecidableEq, Repr

/-- One 128-byte line of a die cache (R266, R270): its address (a module physical address, or for a remote-class line the
offset on its node and the remote epoch it was filled under), its way, the valid, dirty and poison bits of its four
sectors, whether it is owned, pinned, mirrored, how it came, and its bytes. -/
structure Line where
  addr : Nat
  node : Option Nat
  epoch : Nat
  way : Nat
  valid : Nat
  dirty : Nat
  poison : Nat
  owned : Bool
  pinned : Bool
  mirror : Bool
  mark : PfMark
  data : List Byte
  deriving DecidableEq, Repr

/-- A miss or prefetch on its way (R299 to R302): the die whose cache it fills, the die of its requester, the line, its sectors, who asked,
how it is to be inserted, and whether it is a write's. -/
structure Fill where
  into : Nat
  by_ : Nat
  addr : Nat
  node : Option Nat
  sectors : Nat
  req : Requester
  mark : PfMark
  mirror : Bool
  stream : Bool
  keep : Bool
  write : Bool := false
  deriving DecidableEq, Repr

/-- A sector that a miss has brought and whose requester is still to take it (R302, R276): the requester and its die, the module's sector or
another node's, whether its line went in as a stream's (R289), and its bytes with their poison where they are another module's. -/
structure Grant where
  by_ : Nat
  req : Requester
  node : Option Nat
  addr : Nat
  lru : Bool
  data : Option (List Byte × Bool)
  deriving DecidableEq, Repr

/-- What a response to a remote access goes to: nothing (an add, or an access whose thread is gone); a thread whose store it is and
which does not wait; a thread's register (with the load's width in bytes, whether it is sign-extended, whether it is a
floating-point register); the lanes of a combined AMO (R190: each with its rd and operand), with its funct5 code and width; a fill
of the die cache, after which a thread may try again; an engine's descriptor (queue as in `Waiter.desc`; what the vector engine reads fills the
die cache too); the edge peer of a
local port, with its own tag and job number (R377). -/
inductive RemoteFor where
  | none_
  | store (who : ThreadRef)
  | thread (who : ThreadRef) (rd width : Nat) (signed_ float : Bool)
  | lanes (whos : List (ThreadRef × Nat × Nat)) (funct5 width : Nat)
  | fill
  | retry (who : ThreadRef)
  | engine (core queue seq : Nat)
  | edge (port tag job : Nat)
  deriving DecidableEq, Repr

/-- A Clove tracker (R288): its requester with its die, the last sector it followed, its count, and the PMU cycle of its last match. -/
structure Tracker where
  req : Nat × Requester
  sector : Nat
  count : Nat
  at_ : Nat
  deriving DecidableEq, Repr

/-- Who accesses memory through a die's cache, and how: the die whose cache serves it, the die of the requester, the requester, the keep
hint, the mirrored attribute of the page, the core whose L1 copy a store keeps, and the thread or descriptor whose write it is. -/
structure Via where
  die : Nat
  by_ : Nat
  req : Requester
  keep : Bool
  mirror : Bool
  core : Option Nat
  for_ : RemoteFor
  deriving DecidableEq, Repr

/-- A completion record that waits for the home of its ring (R306): its address and words, and the counter that is to count it, with its die
and source. -/
structure HeldRec where
  addr : Nat
  words : List Nat
  ctr : Option (Nat × Nat × Nat)
  deriving DecidableEq, Repr

/-- A write that waits for a busy dead range (R297): how it came, its address and bytes, their poison, and the element width of an
accumulate write (0: a plain write). -/
structure DeadWrite where
  via : Via
  addr : Nat
  bytes : List Byte
  poison : Bool
  width : Nat
  deriving DecidableEq, Repr

/-- The die cache of one die (the ninth is the Bludjan die's): its lines, most recent first; Clove's trackers by slice,
most recently matched first; fills in flight; bank retry buffers, oldest first; misses returned to their cores; the
running pin command (its operation, lines left, next virtual address) and the pressure window (its start, its misses,
whether it has reported); the busy dead ranges that a write or a cancel is to end when busy clears, and the writes that
wait for it; the lines the pin command has processed and why it
stopped (Table 10.4); sectors fetched that their requesters are still to take. -/
structure CacheSt where
  lines : List Line
  trackers : SMap (List Tracker)
  fills : List Fill
  retry : List Fill
  returned : List Fill
  pinOp : Nat
  pinLeft : Nat
  pinVa : Nat
  winStart : Nat
  winMisses : Nat
  winSent : Bool
  deadRelease : Nat
  deadCancel : Nat
  deadWaiting : List DeadWrite
  pinDone : Nat
  pinReason : Nat
  granted : List Grant
  deriving DecidableEq, Repr

def CacheSt.init : CacheSt :=
  { lines := [], trackers := [], fills := [], retry := [], returned := [], pinOp := 0, pinLeft := 0, pinVa := 0,
    winStart := 0, winMisses := 0, winSent := false, deadRelease := 0, deadCancel := 0, deadWaiting := [],
    pinDone := 0, pinReason := 0, granted := [] }

/-- A row of the tracker of R330: its corrected sectors within the pass, and whether it was reported as a candidate. -/
structure RowTrk where
  row : Nat
  n : Nat
  told : Bool
  deriving DecidableEq, Repr

/-- What a memory controller remembers of one pseudo-channel within a scrub pass (R326, R330): the distinct rows in which
each symbol was corrected, the symbols reported as a pin fault, the row tracker, most recently corrected first, and the next
sector of the scrub pass (R327). -/
structure PchTrk where
  symRows : SMap (List Nat)
  pinFault : Nat
  rows : List RowTrk
  pos : Nat
  deriving DecidableEq, Repr

def PchTrk.init : PchTrk := { symRows := [], pinFault := 0, rows := [], pos := 0 }

/-- A line of a core's L1 (R266, R273): its address, its valid sectors, and how it came. It never holds dirty data, and its
bytes are those of the die cache, which is inclusive of it (R272). -/
structure L1Line where
  addr : Nat
  valid : Nat
  mark : PfMark
  deriving DecidableEq, Repr

/-- An L1 stride tracker: the group and load PC that key it, the last address of the lowest lane, the stride, and how
many successive loads had it. -/
structure Stride where
  group : Nat
  pc : Nat
  last : Nat
  stride : Int
  run : Nat
  deriving DecidableEq, Repr

/-- A cached translation of a core (R317): the page's virtual base, its size and its leaf entry. -/
structure TlbEntry where
  va : Nat
  size : Nat
  pte : Nat
  deriving DecidableEq, Repr

/-- A pointer entry that a core's walker keeps (R317): the level of the table it names, the virtual base that it covers, that table. -/
structure WalkPtr where
  level : Nat
  va : Nat
  table : Nat
  deriving DecidableEq, Repr

/-! ### The fabric (spec/12) -/

/-- A remote access this die has sent and not seen acknowledged (R368): its node, sequence number and request, whom the
response serves, the PMU cycle of its last transmission, whether it is a load of Table 12.6 (it can become a dead load), and whether it
is a stream access (R288). -/
structure Unacked where
  node : Nat
  seq : Nat
  req : RemoteOp
  for_ : RemoteFor
  va : Nat
  at_ : Nat
  dead : Bool
  stream : Bool
  deriving DecidableEq, Repr

/-- A sector that an engine of a core has read from another module (R276): for which queue and descriptor, the node and
sector address, its bytes and its poison mark. -/
structure EngSector where
  queue : Nat
  seq : Nat
  node : Nat
  addr : Nat
  data : List Byte
  poison : Bool
  deriving DecidableEq, Repr

/-- A fence in progress (R372, R373): its id, the thread, the accesses of its window not yet acknowledged (node, sequence
number), the PMU cycle of its issue, whether it has timed out, and whether its window stands or it is still held (R371, R372). -/
structure FenceSt where
  id : Nat
  who : ThreadRef
  window : List (Nat × Nat)
  start : Nat
  sent : Bool
  begun : Bool
  deriving DecidableEq, Repr

/-- What a destination die remembers of one source die of a node (R368 to R370): the incarnation, the next sequence number
to apply, accesses held until earlier ones arrive (sequence number, job), and the results given (for duplicates: outcome, bytes,
poison). -/
structure SourceSt where
  inc : Nat
  next : Nat
  held : List (Nat × Nat × RemoteOp)
  results : List (Nat × Nat × List Byte × Bool)
  deriving DecidableEq, Repr

/-- A fabric port (R349 to R354): lanes with light, lanes trained, the packets in its replay buffer by link sequence number with
the count of replays of the oldest, link sequence numbers, heartbeats (the readings of the counter at the last sent and the last
received), whether light has been lost since when, when the port failed, its peer's role, the uncorrectable codewords of
the last 10 µs by lane, the rate offered by the peer, and whether its die has been reset since the port last negotiated. -/
structure PortSt where
  light : Nat
  trained : Nat
  replay : List (Nat × Packet)
  replays : Nat
  txSeq : Nat
  rxSeq : Nat
  hbSent : Nat
  hbSeen : Nat
  lightLost : Option Nat
  failedAt : Nat
  peerRole : Nat
  fec : List (Nat × Nat)
  rate : Nat
  wasReset : Bool
  deriving DecidableEq, Repr

def PortSt.init : PortSt :=
  { light := 0, trained := 0, replay := [], replays := 0, txSeq := 0, rxSeq := 0, hbSent := 0, hbSeen := 0,
    lightLost := none, failedAt := 0, peerRole := 0, fec := [], rate := 0, wasReset := false }

/-- The fabric part of a die: incarnation, next sequence number by node, accesses unacknowledged and accesses that wait for
room (R371), fences, the state kept of each source die (key: node × 16 + die), its ports, nodes for which WRITES_LOST was
sent, requests of edge peers to this module that wait (port, tag, job, request), the nodes that the next epoch switch is to clear
from FAB_LOST (R445), and whether the switch instant was past when the switch was armed (R381). -/
structure FabSt where
  inc : Nat
  seqs : SMap Nat
  unacked : List Unacked
  waiting : List Unacked
  fences : List FenceSt
  fenceId : Nat
  sources : SMap SourceSt
  ports : SMap PortSt
  writesLost : List Nat
  edgeWait : List (Nat × Nat × Nat × RemoteOp)
  clearList : List Nat
  armedLate : Bool
  deriving DecidableEq, Repr

def SourceSt.init : SourceSt := { inc := 0, next := 0, held := [], results := [] }

def FabSt.init : FabSt :=
  { inc := 0, seqs := [], unacked := [], waiting := [], fences := [], fenceId := 0, sources := [], ports := [],
    writesLost := [], edgeWait := [], clearList := [], armedLate := false }

/-! ### Collectives (spec/13) -/

/-- How far a position of the group box is with one unit of data (a stripe and half of one shard; R398): dimensions whose
rings have summed it here, the dimensions whose partial has been received, whether its partial has been sent on, and
whether the unit's result is here. -/
structure ColProg where
  level : Nat
  recv : Nat
  sent : Bool
  have_ : Bool
  deriving DecidableEq, Repr

def ColProg.init : ColProg := { level := 0, recv := 0, sent := false, have_ := false }

/-- Work for a position of the rings that this node performs (R398): a partial or a result of a piece that has come, and the rank that
sent it. -/
structure RingMsg where
  role : Nat
  piece : ColPiece
  source : Nat
  result : Bool
  data : List (Byte × Bool)
  deriving DecidableEq, Repr

/-- A record that waits in the staging region for vector code (R394): the position and piece it belongs to, the length of its data, where
in the region it stands. -/
structure ColRec where
  role : Nat
  piece : ColPiece
  len : Nat
  at_ : Nat
  deriving DecidableEq, Repr

/-- What an operation has still to do by itself (R389, R391, R394, R403, R404): write its contribution into `dst`; add the held carry;
fill the staging region of a late rank with zeros; go on with a unit at a position; read its own shard of a gather; take a partial or
a result; send rank `j` its data from row or block `k` on; take data of a rank; copy a staged result into `dst`; put the
contribution into the carry region. -/
inductive ColStep where
  | place
  | carry
  | zeros
  | unit (role : Nat) (piece : ColPiece)
  | shard (piece : ColPiece)
  | ring (x : RingMsg)
  | out (j k : Nat)
  | into (rank total k idx : Nat) (data : List (Byte × Bool))
  | stored (piece : ColPiece)
  | keep
  deriving DecidableEq, Repr

/-- An operation of the collective engine (R395 to R407): its descriptor once that has started, its words, group and sequence
number, the group entry as read (16 words of 32 bits), this rank, whether it runs with a zero contribution (late), the
units' progress by position and unit, sums held for an excluded position and results that a late rank's staging region has no room
for, the bytes and totals received from each rank, ranks counted late, units of 32 bytes received, poisoned sectors, the flags of
Table 13.5, the records staged for vector code, the partials that wait for room in the region, where the next record goes,
`vout_ctr` at the start and the records it has finished, whether the operation is held (R407), the status with which it ends early,
whether its contribution was put into the carry region (R403), what it has still to do, how far an exchange reaches into `src` and
`dst` (R390), and the lines of its prefetch window that are done (R409). -/
structure ColOp where
  desc : Option Nat
  words : List Nat
  group : Nat
  gseq : Nat
  entry : List Nat
  rank : Nat
  zero : Bool
  prog : SMap ColProg
  virt : SMap (List (Byte × Bool))
  totals : List (Nat × Nat)
  got : SMap Nat
  late : List Nat
  units : Nat
  poisoned : Nat
  carried : Bool
  missing : Bool
  recs : List ColRec
  toStage : List RingMsg
  recAt : Nat
  vbase : Nat
  vdone : Nat
  held : Bool
  sized : Bool
  status : Option Nat
  kept : Bool
  todo : List ColStep
  reach : Nat × Nat
  window : Nat
  deriving DecidableEq, Repr

/-- The collective engine of a die: operations in progress, oldest first; messages held for operations that have not started
(R396); the carries held, as group, bytes and width of an element (R404); groups whose oldest unstarted operation is late (R401,
R402); end notices, as group, sequence number and status, of operations that have not started (R388); the PMU cycles of the current
microsecond in which an operation waited for peers (R411); messages turned away for want of room, as node, group and sequence number
(R396). -/
structure ColSt where
  ops : List ColOp
  held : List ColMsg
  carries : List (Nat × Nat × Nat)
  late : List Nat
  notices : List (Nat × Nat × Nat)
  waitTicks : Nat
  turned : List (Nat × Nat × Nat)
  deriving DecidableEq, Repr

def ColSt.init : ColSt := { ops := [], held := [], carries := [], late := [], notices := [], waitTicks := 0, turned := [] }

/-! ### Fault records (spec/14) -/

/-- A fault record in an aggregator (R412, R413): its kind, flags, source die (8 for the Bludjan die), the fabric time of
its detection, its packed payload, and its destinations (the CP, the MC, partition slots). -/
structure FaultRec where
  kind : Nat
  masked : Bool
  restartable : Bool
  die : Nat
  ft : Nat
  payload : List Nat
  toCp : Bool
  toMc : Bool
  parts : List Nat
  deriving DecidableEq, Repr

/-! ### Saffron (spec/14) -/

/-- A restore in progress (R441 to R444): the mailbox, the mode, the target (1 previous), the rejoin boundary, the holders, the next
entry to check, chunks refetched. -/
structure RestoreSt where
  mailbox : Nat
  mode : Nat
  previous : Bool
  rejoin : Nat
  replica : Nat
  hold : Nat
  refetched : Nat
  deriving DecidableEq, Repr

/-- A region as its entry names it (Table 14.4): number, kind, chunks, buffers. -/
structure Region where
  num : Nat
  kind : Nat
  chunks : Nat
  buf0 : Nat
  buf1 : Nat
  deriving DecidableEq, Repr

/-- Saffron on the partition it serves (R426 to R436): the fabric time of the last flip; the schedule state as it stood in the
flip cycle; the entries digested and acknowledged; mismatches of the chunk being drained; whether the drain has failed and
with which cause; whether the boundary of the step has been applied and one that was missed waits (its timer's target);
the votes known of the current version and when they were cast; a restore in progress; whether the current version is the initial
one of a job, which has no manifest (R427); whether the drain has paused for a die that is being reset (R434); the late nodes of this
step beyond the 32 that its record lists (R435); whether what the drain is to send next has been sent and not answered (R430); the
scale entries and rings as their processing at the boundary wrote them, by address, for the capture (R428); the regions as the flip
found them. -/
structure SnapSt where
  flipFt : Nat
  sched : List Byte
  digested : Nat
  drained : Nat
  mism : Nat
  drainFail : Nat
  bad : Bool
  applied : Bool
  missed : Option Nat
  voteFt : Nat
  voteReason : Nat
  restore : Option RestoreSt
  initial : Bool
  paused : Bool
  lateMore : List Nat
  offered : Bool
  sclCap : List (Nat × List Byte)
  rgns : List Region
  deriving DecidableEq, Repr

def SnapSt.init : SnapSt :=
  { flipFt := 0, sched := [], digested := 0, drained := 0, mism := 0, drainFail := 0, bad := false, applied := true,
    missed := none, voteFt := 0, voteReason := 0, restore := none, initial := false, paused := false, lateMore := [],
    offered := false, sclCap := [], rgns := [] }

/-- A manifest as a drain hands it on (R430, R438): its entries (region, kind, chunk, digest) and its body digest. -/
structure SentManifest where
  entries : List (Nat × Nat × Nat × List Byte)
  body : List Byte
  deriving DecidableEq, Repr

def SentManifest.none_ : SentManifest := { entries := [], body := [] }

/-- The receive side on the Bludjan die (R432): where the next inbound chunk goes, its mismatches so far, the entries received
(region, kind, chunk, digest) and the manifest that completed them, the entries and the manifest of the version held, and what has come
of a newer drain while the copy to the hold area runs, as sender, step and item. -/
structure RecvSt where
  next : Nat
  mism : Nat
  entries : List (Nat × Nat × Nat × List Byte)
  manifest : SentManifest
  held : List (Nat × Nat × Nat × List Byte)
  heldManifest : SentManifest
  waiting : List (Nat × Nat × DrainItem)
  deriving DecidableEq, Repr

def RecvSt.init : RecvSt :=
  { next := 0, mism := 0, entries := [], manifest := SentManifest.none_, held := [], heldManifest := SentManifest.none_, waiting := [] }

/-! ### Power and heat (spec/15) -/

/-- A power in units of 0.125 W, exactly: `num / den` (R459, R460). -/
structure Watts where
  num : Nat
  den : Nat
  deriving DecidableEq, Repr

/-- A governed unit (R461, R463): bubbles of its window, the bubbles that it took in the window before, those of a droop among them, the
core cycles of droop bubbles on its die up to the window, the PMU cycle in which the window began, the unit's power over the window
before, the cycle since when it has exceeded its share with 255 bubbles, and whether DOMAIN_OVER has been sent. -/
structure GovSt where
  bubbles : Nat
  took : Nat
  droops : Nat
  start : Nat
  power : Watts
  since : Option Nat
  sent : Bool
  deriving DecidableEq, Repr

def GovSt.init : GovSt := { bubbles := 0, took := 0, droops := 0, start := 0, power := ⟨0, 1⟩, since := none, sent := false }

/-- How a die's activity estimates are scaled (R460): a core of activity `a` has the power `a * k / s + u / 32`, with `u` the uncore of
the die (R459). -/
structure EstSt where
  k : Nat
  s : Nat
  u : Nat
  deriving DecidableEq, Repr

def EstSt.init : EstSt := { k := 1, s := 1, u := 0 }

/-- A ramp of the Nutmeg floor (R468): its start, the floor then, its end value and its duration in ns. -/
structure RampSt where
  t0 : Nat
  from_ : Nat
  to_ : Nat
  dur : Nat
  deriving DecidableEq, Repr

/-- Nutmeg on a die while engaged (R465 to R468), powers in 0.125 W: A, the floor at engagement, the instant of engagement, the start
of the taper, a ramp. -/
structure NutSt where
  a : Nat
  f : Nat
  t0 : Nat
  taper : Option Nat
  ramp : Option RampSt
  deriving DecidableEq, Repr

/-- The power and heat part of a die, powers in 0.125 W: samples of the compute rail over 10 ms, newest first; those of the stacks' rails
together and of the optics rail over 10 µs; the scale of the core estimates; the energies of the domains in 0.125 µJ (Bludjan die); governed units (0 to 31 cores, 32 to 35 stacks, 36 optics, 37 Bludjan);
throttle bubbles by sensor (0 junction, 1 to 4 stacks, 5 optics, 6 GDDR7), sensors with one reading at a shutdown
threshold; the cap of the governor and the one pending there, if any; whether the supply droops, since which core cycle, until which its bubbles
last, and the core cycles of the droops that have ended; the floor that ballast keeps after a disengagement until a core issues real work (R469); Nutmeg. -/
structure PwrSt where
  hist : List Nat
  memory : List Nat
  optics : List Nat
  est : EstSt
  energy : SMap Nat
  gov : SMap GovSt
  therm : SMap Nat
  hot : SMap Nat
  cap : Nat
  capPend : Option Nat
  droop : Bool
  droopAt : Nat
  droopEnd : Nat
  droopSum : Nat
  ballast : Nat
  nut : Option NutSt
  deriving DecidableEq, Repr

/-- After reset: the cap is the Air rating (R24, R25) until the straps say otherwise. -/
def PwrSt.init : PwrSt :=
  { hist := [], memory := [], optics := [], est := EstSt.init, energy := [], gov := [], therm := [], hot := [], cap := 1400, capPend := none, droop := false,
    droopAt := 0, droopEnd := 0, droopSum := 0, ballast := 0, nut := none }

/-! ### Partitions (spec/16) -/

/-- A partition (PARTITION_CREATE): its slot, its dies as a mask, its mailbox, the launches its launch unit has read and not
completed, and the queue it last served. -/
structure Part where
  slot : Nat
  dieMask : Nat
  mailbox : Nat
  launches : List Launch
  lastQueue : Nat
  deriving DecidableEq, Repr

/-- The response of the last access from outside (R8, R9): data, poisoned data, an access fault, none yet, or that the request waits and is
to come again (R300, R302, R306). -/
inductive Resp where
  | none_
  | ok (value : Nat)
  | poisoned (value : Nat)
  | accessFault
  | waits
  deriving DecidableEq, Repr

/-! ### The control processor (spec/16) -/

/-- A request that the CP firmware has taken (R482, R484): mailbox, count, opcode, `seq`, `quiet`, payload words, and the Bludjan
die's fabric time at its start. -/
structure MbxCmd where
  mbx : Nat
  count : Nat
  opcode : Nat
  seq : Nat
  quiet : Bool
  words : List Nat
  start : Nat
  deriving DecidableEq, Repr

/-- An ABORT in progress (R501, R502): the partition's slot, the requests that wait for its end, the PMU cycle of the Bludjan die at
its start, descriptors discarded, blocks faulted, dies reset. -/
structure AbortSt where
  slot : Nat
  cmds : List MbxCmd
  start : Nat
  descs : Nat
  blocks : Nat
  reset : Nat
  deriving DecidableEq, Repr

/-- A margin run of a die (R338): stack, sweep, pseudo-channel mask, results address, state (Table 16.6: 1 running, 2 done,
3 cancelled), records written, instant of its end. -/
structure MarginSt where
  die : Nat
  stack : Nat
  sweep : Nat
  mask : Nat
  addr : Nat
  state : Nat
  written : Nat
  ended : Nat
  deriving DecidableEq, Repr

/-- The CP firmware's state (R476, R482, R483): the mailbox slots' bytes; next expected `seq` by mailbox; commands in progress;
requests announced and not yet taken, in doorbell order;
requests taken ahead of their turn (ABORT) and requests that an ABORT ends (R502), each by mailbox and count; ABORTs in progress; the
responses of ABORTs that software has not read, as (slot, mailbox, count) (R503); margin runs; CP-only registers as last written, by die;
dies in reset; sequence numbers of records by destination (0 to 7 a slot's queue, 8 the CP, 9 the MC); the records the CP
holds and the MC's log; the last beat by die; whether the firmware runs (R511); the hangs of the MC that it has been told of (R417); the answers
of ABORTs that wait for a response slot, as (mailbox, count, status, words) (R502). -/
structure CpSt where
  slots : SMap Byte
  expect : SMap Nat
  running : List MbxCmd
  bells : List (Nat × Nat)
  ahead : List (Nat × Nat)
  doomed : List (Nat × Nat)
  aborts : List AbortSt
  abortRead : List (Nat × Nat × Nat)
  margins : List MarginSt
  saved : SMap (SMap W64)
  resetting : Nat
  rseq : SMap Nat
  log : List (List Nat)
  mcLog : List (List Nat)
  beats : SMap Nat
  up : Bool
  mcHangs : Nat
  answers : List (Nat × Nat × Nat × List Nat)
  deriving DecidableEq, Repr

def CpSt.init : CpSt :=
  { slots := [], expect := [], running := [], bells := [], ahead := [], doomed := [], aborts := [], abortRead := [], margins := [], saved := [], resetting := 0,
    rseq := [], log := [], mcLog := [], beats := [], up := false, mcHangs := 0, answers := [] }

/-! ### What survives a cold reset (spec/17) -/

/-- A key slot of the fuses (R517, R523): its digest once programmed, whether it is revoked. -/
structure KeySlot where
  digest : Option (List Byte)
  revoked : Bool
  deriving DecidableEq, Repr

def KeySlot.init : KeySlot := { digest := none, revoked := false }

/-- The permanent store: the fused spare maps by core, the fused asymmetry calibration of each fabric port in units of 10 ps
(R30), the count of security-version fuses, the root and debug key slots, the unique device secret, the image slot of the flash,
the DeviceID certificate, the repair log, the rows under hard post-package repair (R319, R331), the serial number. -/
structure Perm where
  spare : SMap W64
  asym : SMap Int
  svn : Nat
  root : List KeySlot
  debug : List KeySlot
  uds : Nat
  image : SMap Byte
  devCert : List Byte
  repair : List RowRef
  hard : List RowRef
  serial : Nat
  deriving DecidableEq, Repr

/-- The permanent store of a module on which nothing has been programmed (the spec gives no contents). [DESIGN CHOICE, log 3] -/
def Perm.init : Perm :=
  { spare := [], asym := [], svn := 0, root := List.replicate 4 KeySlot.init, debug := List.replicate 2 KeySlot.init, uds := 0,
    image := [], devCert := [], repair := [], hard := [], serial := 0 }

/-- An attestation request that the SP has not answered (R522): the relay it came by (0 the management lane, 1 I3C), the nonce of a request
of type 0 (none: type 1), the PMU cycle of the Bludjan die at its arrival. -/
structure AttestReq where
  relay : Nat
  nonce : Option (List Byte)
  at_ : Nat
  deriving DecidableEq, Repr

/-- The security processor (R514 to R526): the digests D1 to D6 of the running image, CDI1, the seeds of the firmware and alias
keys while they exist, the certificates, the outstanding challenge and its instant, the attestation requests
that wait, oldest first, soft repairs and fences recorded by core,
whether the processor has hung, whether start-up has failed for good. -/
structure SecSt where
  meas : List (List Byte)
  cdi1 : Option (List Byte)
  fwSeed : Option (List Byte)
  aliasSeed : Option (List Byte)
  fwCert : List Byte
  aliasCert : List Byte
  challenge : Option (List Byte × Nat)
  asked : List AttestReq
  soft : SMap Nat
  stFence : SMap Nat
  hung : Bool
  stopped : Bool
  deriving DecidableEq, Repr

def SecSt.init : SecSt :=
  { meas := [], cdi1 := none, fwSeed := none, aliasSeed := none, fwCert := [], aliasCert := [], challenge := none, asked := [],
    soft := [], stFence := [], hung := false, stopped := false }

/-! ### The boundary (spec/18) -/

/-- The controller of the debug port (R542), in the states of IEEE 1149.1. -/
inductive TapState where
  | testLogicReset | runTestIdle | selectDr | captureDr | shiftDr | exit1Dr | pauseDr | exit2Dr | updateDr
  | selectIr | captureIr | shiftIr | exit1Ir | pauseIr | exit2Ir | updateIr
  deriving DecidableEq, Repr

/-- The PCIe lanes (Table 18.4). -/
inductive PcieLanes where
  | off | idle | linkUp
  deriving DecidableEq, Repr

/-- The pins and what stands behind them (R527 to R542): MOD_PRSNT_N low, since the board ties it to ground (R17), PWR_EN, the Bludjan
die's and the data plane's rails, PWR_GOOD, FAULT_N asserted, PERST_OUT_N (none: not driven), the straps as sampled, the I3C address, whether the management lane and I3C answer, reference clocks
that run, whether the data plane's dies are held in reset, the debug port, DBG_TDO (none: high impedance), the PCIe lanes, the chassis limit
in W, whether AC0 runs. -/
structure PinSt where
  prsnt : Bool
  pwrEn : Bool
  sdRail : Bool
  railsUp : Bool
  pwrGood : Bool
  fault : Bool
  perst : Option Bool
  cool : Nat
  bifurc : Nat
  i3c : Option Nat
  mcUp : Bool
  refclk : Nat
  held : Bool
  tap : TapState
  tck : Bool
  tdo : Option Bool
  pcie : PcieLanes
  chassisW : Option Nat
  acRun : Bool
  withdrawn : Bool
  deriving DecidableEq, Repr

/-- The pins when PWR_GOOD rises after a cold reset (Table 18.4, start-up before the loader), with the straps read as 00.
[DESIGN CHOICE, log 4; DEDUCED, log 105] -/
def PinSt.init : PinSt :=
  { prsnt := true, pwrEn := true, sdRail := true, railsUp := true, pwrGood := true, fault := false, perst := some true, cool := 0, bifurc := 0,
    i3c := none, mcUp := false, refclk := 1, held := true, tap := .testLogicReset, tck := false, tdo := none, pcie := .idle,
    chassisW := none, acRun := false, withdrawn := false }

/-! ### The machine -/

/-- What the module has put on one of its outputs, oldest first in `Mach.out`: tag and words (model's own record of the
wire). -/
structure OutMsg where
  tag : Nat
  words : List Nat
  deriving DecidableEq, Repr

/-- Everything of one die that is no register. `engineLost`, `engineBad`: descriptors (core, queue, sequence number) of which an access
was abandoned (R374) or refused by its target (R367); `refused`: sectors (node, address) of which a line read was refused; `pend`,
`pendFor`: the step-constants words that the current PMU cycle has overwritten, and those it wrote (R164, R165); `updWas`:
SNAP_UPD_DONE before the current PMU cycle wrote it (R426). -/
structure Die where
  time : DieTime
  cache : CacheSt
  pch : SMap PchTrk
  records : List FaultRec
  ctrWaits : List CtrWait
  slots : SMap SlotSt
  fab : FabSt
  colQ : List Desc
  colStalls : List StalledPush
  engineLost : List (Nat × Nat × Nat)
  engineBad : List (Nat × Nat × Nat)
  refused : List (Nat × Nat)
  col : ColSt
  snap : SnapSt
  pwr : PwrSt
  pend : List (Nat × W64)
  pendFor : List W64
  updWas : Option Nat
  heldRecs : List HeldRec
  deriving DecidableEq, Repr

def Die.init : Die :=
  { time := DieTime.init, cache := CacheSt.init, pch := [], records := [], ctrWaits := [], slots := [],
    fab := FabSt.init, colQ := [], colStalls := [], engineLost := [], engineBad := [], refused := [],
    col := ColSt.init, snap := SnapSt.init, pwr := PwrSt.init, pend := [], pendFor := [], updWas := none, heldRecs := [] }

/-- Everything of one core that is no register. `deadEng`: descriptors (queue, sequence number) of its engines that a dead load holds (R375). -/
structure Core where
  arr : ArrSt
  vec : VecSt
  vecBubbles : Nat
  vecSlot : Nat
  tlb : List TlbEntry
  walks : List WalkPtr
  l1 : List L1Line
  l1Fills : List L1Line
  strides : List Stride
  slotWait : List Fill
  capWaits : List Requester
  blocks : List Block
  lastGroup : List (Nat × Nat)
  queues : List (List Desc)
  stalls : List (List StalledPush)
  movs : List MovRun
  split : Nat
  zmapOk : List Nat
  engBuf : List EngSector
  deadEng : List (Nat × Nat)
  deriving DecidableEq, Repr

def Core.init : Core :=
  { arr := ArrSt.init, vec := VecSt.init, vecBubbles := 0, vecSlot := 0, tlb := [], walks := [], l1 := [], l1Fills := [], strides := [], slotWait := [], capWaits := [], blocks := [], lastGroup := [],
    queues := [[], [], []], stalls := [[], [], []], movs := [], split := 0, zmapOk := [], engBuf := [], deadEng := [] }

/-- The machine: registers by die and key; fabric time at the level of the module; memory with the error pattern of each sector and
the GDDR7 poison table; the dies and cores; partitions; what it has put out; the response of the last access from outside;
the draws of open values taken; whether it is fail-silent; whether debug access is open; the buddy's receive side; the CP
firmware; the permanent store; the security processor; the pins. -/
structure Mach where
  regs : SMap (SMap W64)
  mt : ModTime
  mem : SMap Byte
  ecc : SMap Nat
  gdPoison : List Nat
  dies : SMap Die
  cores : SMap Core
  parts : List Part
  out : List OutMsg
  resp : Resp
  freeCtr : Nat
  silent : Bool
  debugOpen : Bool
  recv : RecvSt
  cp : CpSt
  perm : Perm
  sec : SecSt
  pins : PinSt
  deriving DecidableEq, Repr

/-- The pins of a module whose PWR_EN was asserted with the straps `cool` and `bifurc` (R533, R535, R536, R539): PCIE_REFCLK
runs for the ports that the bifurcation selects. -/
def PinSt.cold (cool bifurc : Nat) (rails : Bool) : PinSt :=
  { PinSt.init with cool, bifurc, railsUp := rails, pwrGood := rails, fault := !rails, pcie := if rails then .idle else .off,
                    refclk := if !rails then 0 else if bifurc = 1 then 5 else if bifurc = 2 then 15 else 1 }

/-- Table 1.5: what PWR_CAP shows after a cold reset: the class, whether the straps read 11, the class rating.
[DEDUCED, log 89] -/
def coldCap (cool : Nat) : Nat × Nat :=
  let cls := if cool = 3 then 0 else cool
  let w := if cls = 0 then 1400 else 3000
  (cls * 2 ^ 27 + (if cool = 3 then 2 ^ 26 else 0) + w, w)

/-- The module after a cold reset (R11, R509): everything at its reset value but the permanent store, the straps as sampled, and
the cap of the cooling class on every die. [DESIGN CHOICE, log 2] -/
def Mach.cold (perm : Perm) (cool bifurc : Nat) (rails : Bool) : Mach :=
  let cap := coldCap cool
  let die : Die := { Die.init with pwr := { PwrSt.init with cap := cap.2 } }
  { regs := [(8, [(RegId.key ⟨.pwrCap, 8, 0, 0, 0⟩, BitVec.ofNat 64 cap.1)])], mt := ModTime.init, mem := [], ecc := [],
    gdPoison := [], dies := (List.range 9).foldl (fun l d => smSet Die.init l d die) [], cores := [], parts := [], out := [],
    resp := .none_, freeCtr := 0, silent := false, debugOpen := false, recv := RecvSt.init, cp := CpSt.init, perm,
    sec := SecSt.init, pins := PinSt.cold cool bifurc rails }

/-- Where the spec gives a command no effect at all. -/
inductive Fault where
  /-- Raised by SUPPLY_LOSS with an input beyond the absolute maximum of Table 18.7 (R548: the module's behaviour is not defined
  there). Safe: the machine stops. -/
  | beyondRatings
  deriving DecidableEq, Repr

/-- Why a command was turned away by the model. -/
inductive Refusal where
  /-- Raised by an arm of `exec` whose command has no meaning yet, under its mnemonic. Safe: the machine stops. -/
  | notModelled (mnemonic : String)
  deriving DecidableEq, Repr

/-- The whole state: the machine and the commands that wait, first in, first out. -/
structure State where
  m : Mach
  pending : List Instr
  deriving DecidableEq, Repr

/-- The module when PWR_GOOD rises after a cold reset with nothing programmed and the straps read as 00, no command waiting.
[DESIGN CHOICE, log 3; DESIGN CHOICE, log 4] -/
def State.reset : State := { m := Mach.cold Perm.init 0 0 true, pending := [] }

end Sys2Proof.Machine
end

