-- ==== Sys2Proof/Machine/Ops.lean ====
section
/-! DEFINITION. The named operations that every meaning is written with: registers and their fields, counters and events
(R9 to R14), dies, cores and partitions, fault records (R412, R413), free values. -/

namespace Sys2Proof.Machine

/-! ### Registers -/

/-- Table 12.1: the direction code of port p of die d (bits of the cube corner give the sign), and 7 for an edge port. -/
def portDir (d p : Nat) : Nat :=
  let x := if d.testBit 0 then 0 else 1
  let y := if d.testBit 1 then 2 else 3
  let z := if d.testBit 2 then 4 else 5
  match p with
  | 0 | 1 => x
  | 2 | 3 => y
  | 4 | 5 => z
  | 6 => if d = 0 ∨ d = 1 ∨ d = 4 ∨ d = 5 then x else z
  | _ => if d = 1 ∨ d = 3 ∨ d = 4 ∨ d = 6 then y else 7

/-- Table 12.1: the role of port p of die d: 0 active, 1 standby, 2 edge. -/
def portRole (d p : Nat) : Nat :=
  if p < 6 then 0 else if p = 7 ∧ portDir d p = 7 then 2 else 1

/-- R11: the value of a register copy after reset. -/
def resetOf (id : RegId) : Nat :=
  let base := id.reg.info.fields.foldl (fun a f => setBits a f.hi f.lo f.reset) 0
  match id.reg with
  | .cqRingCfg => if id.i = 2 then setBits base 4 0 6 else base
  | .fabPortStatus => setBits (setBits base 23 21 (portDir id.die id.i)) 20 19 (portRole id.die id.i)
  | _ => base

/-- The value of a register copy. -/
def Mach.reg (m : Mach) (id : RegId) : Nat :=
  (smGet (BitVec.ofNat 64 (resetOf id)) (smGet [] m.regs id.die) id.key).toNat

/-- Set a register copy. -/
def Mach.setReg (m : Mach) (id : RegId) (v : Nat) : Mach :=
  { m with regs := smMod [] m.regs id.die (fun r => smSet (BitVec.ofNat 64 (resetOf id)) r id.key (BitVec.ofNat 64 v)) }

/-- A register of die `d` by index `i`, core (or stack) `c` and second index `j`. -/
def Mach.rd (m : Mach) (r : Reg) (d : Nat) (i : Nat := 0) (c : Nat := 0) (j : Nat := 0) : Nat := m.reg ⟨r, d, c, i, j⟩

/-- Set a register of die `d`. -/
def Mach.wr (m : Mach) (r : Reg) (d : Nat) (v : Nat) (i : Nat := 0) (c : Nat := 0) (j : Nat := 0) : Mach :=
  m.setReg ⟨r, d, c, i, j⟩ v

/-- A field of a register of die `d`. -/
def Mach.get (m : Mach) (f : Fld) (d : Nat) (i : Nat := 0) (c : Nat := 0) (j : Nat := 0) : Nat :=
  bitsOf (m.rd f.reg d i c j) f.hi f.lo

/-- Set a field of a register of die `d`. -/
def Mach.put (m : Mach) (f : Fld) (d : Nat) (v : Nat) (i : Nat := 0) (c : Nat := 0) (j : Nat := 0) : Mach :=
  m.wr f.reg d (setBits (m.rd f.reg d i c j) f.hi f.lo v) i c j

/-- A one-bit field as a truth value. -/
def Mach.flag (m : Mach) (f : Fld) (d : Nat) (i : Nat := 0) (c : Nat := 0) (j : Nat := 0) : Bool := m.get f d i c j != 0

/-- Set a one-bit field (an event of a W1C register, a status bit). -/
def Mach.ev (m : Mach) (f : Fld) (d : Nat) (i : Nat := 0) (c : Nat := 0) (j : Nat := 0) : Mach := m.put f d 1 i c j

/-- Add to a counting field, saturating at its width (R118, R308, R342 and the like). -/
def Mach.bump (m : Mach) (f : Fld) (d : Nat) (n : Nat := 1) (i : Nat := 0) (c : Nat := 0) (j : Nat := 0) : Mach :=
  m.put f d (satN (f.hi + 1 - f.lo) (m.get f d i c j + n)) i c j

/-- Add to a counter of a counter register. -/
def Mach.cnt (m : Mach) (r : Reg) (d i : Nat) (n : Nat := 1) (c : Nat := 0) (j : Nat := 0) : Mach :=
  m.wr r d (satN 64 (m.rd r d i c j + n)) i c j

/-! ### Dies, cores, partitions -/

/-- The die number of the Bludjan die. -/
abbrev sdDie : Nat := 8

/-- Die `d`. -/
def Mach.die (m : Mach) (d : Nat) : Die := smGet Die.init m.dies d

/-- Change die `d`. -/
def Mach.modDie (m : Mach) (d : Nat) (f : Die → Die) : Mach := { m with dies := smMod Die.init m.dies d f }

/-- The key of core `c` of die `d`. -/
def coreKey (d c : Nat) : Nat := d * 32 + c

/-- Core `c` of die `d`. -/
def Mach.core (m : Mach) (d c : Nat) : Core := smGet Core.init m.cores (coreKey d c)

/-- Change core `c` of die `d`. -/
def Mach.modCore (m : Mach) (d c : Nat) (f : Core → Core) : Mach :=
  { m with cores := smMod Core.init m.cores (coreKey d c) f }

/-- The partition that holds die `d`, if any (a die belongs to at most one, R496). -/
def Mach.partOf (m : Mach) (d : Nat) : Option Part := m.parts.find? (fun p => d < 8 && p.dieMask.testBit d)

/-- The partition in slot `k`. -/
def Mach.partAt (m : Mach) (k : Nat) : Option Part := m.parts.find? (fun p => p.slot == k)

/-- The slot of the partition that holds die `d`; 0xF when it belongs to none (R413). -/
def Mach.slotOf (m : Mach) (d : Nat) : Nat := match m.partOf d with | some p => p.slot | none => 0xF

/-- The dies of a partition, ascending. -/
def Part.dies (p : Part) : List Nat := bitsSet p.dieMask 8

/-- The lowest-numbered die of a partition. -/
def Part.low (p : Part) : Nat := (lowestBit p.dieMask 8).getD 0

/-- Change the partition in slot `k`. -/
def Mach.modPart (m : Mach) (k : Nat) (f : Part → Part) : Mach :=
  { m with parts := m.parts.map (fun p => if p.slot = k then f p else p) }

/-- An ABORT of the partition is in progress: none of its queued work issues (R22, R500). -/
def Mach.aborting (m : Mach) (slot : Nat) : Bool := m.cp.aborts.any (fun a => a.slot == slot)

/-- R503: an ABORT of the partition has started and its response has not been read. -/
def Mach.abortHeld (m : Mach) (slot : Nat) : Bool := m.aborting slot || m.cp.abortRead.any (fun a => a.1 == slot)

/-! ### Time -/

/-- The integer nanoseconds of a die's fabric-time counter (FT_COUNT). -/
def Mach.ft (m : Mach) (d : Nat) : Nat := m.rd .ftCount d

/-- PMU cycles of 5 ns since the die's reset. -/
def Mach.pmu (m : Mach) (d : Nat) : Nat := (m.die d).time.pmu

/-- Core cycles since the die's reset: three in a PMU cycle (Table 1.2: 600 MHz and 200 MHz). -/
def Mach.cc (m : Mach) (d : Nat) : Nat := 3 * m.pmu d

/-! ### Start-up -/

/-- The start-up phase that BOOT_STATUS shows (R511). -/
def Mach.bootPhase (m : Mach) : Nat := m.get Fld.bootStatus_phase sdDie

/-- R513, R514: start-up has come to phase 0x07 and has not failed: the optical transmitters may be lit. -/
def Mach.lit (m : Mach) : Bool := decide (7 ≤ m.bootPhase) && !m.sec.stopped

/-! ### Power -/

/-- The power and heat part of a die. -/
def Mach.pwr (m : Mach) (d : Nat) : PwrSt := (m.die d).pwr

/-- R469: a core of a die issues real work, which ends the ballast that outlived an engagement. [DEDUCED, log 127] -/
def Mach.working (m : Mach) (d : Nat) : Mach :=
  if (m.pwr d).ballast = 0 then m else m.modDie d (fun x => { x with pwr := { x.pwr with ballast := 0 } })

/-- R464: droop bubbles are being taken on a die. -/
def Mach.drooping (m : Mach) (d : Nat) : Bool := (m.pwr d).droop || decide (3 * m.pmu d < (m.pwr d).droopEnd)

/-- R461: `b` bubbles spread evenly over a window of 256 issue slots: whether slot `i` is one. [DEDUCED, log 127] -/
def bubbleSlot (b i : Nat) : Bool := decide (i < 256) && decide (i * b / 256 < (i + 1) * b / 256)

/-! ### Fault records -/

/-- R413: pack fields (width, value) into words 2 to 7, a field that would cross a word starting the next. -/
def packFields : List (Nat × Nat) → Nat → Nat → List Nat
  | [], _, acc => [acc]
  | (w, v) :: fs, pos, acc =>
    if pos + w ≤ 64 then packFields fs (pos + w) (acc + (v % 2 ^ w) * 2 ^ pos)
    else acc :: packFields fs w (v % 2 ^ w)

/-- Give the aggregator of die `d` a record (R412). -/
def Mach.emitRec (m : Mach) (d : Nat) (kind : Nat) (masked restartable : Bool) (fields : List (Nat × Nat))
    (toCp toMc : Bool) (parts : List Nat) : Mach :=
  m.modDie d (fun x => { x with records := x.records ++
    [{ kind, masked, restartable, die := d, ft := m.ft d, payload := packFields fields 0 0, toCp, toMc, parts }] })

/-- A record to the CP only. -/
def Mach.toCp (m : Mach) (d kind : Nat) (masked restartable : Bool) (fields : List (Nat × Nat)) : Mach :=
  m.emitRec d kind masked restartable fields true false []

/-- The slots of the partition of die `d`, as a destination list: none or one. -/
def Mach.slotList (m : Mach) (d : Nat) : List Nat := match m.partOf d with | some p => [p.slot] | none => []

/-! ### Free values -/

/-- A fresh index for a free value. [DESIGN CHOICE, log 2] -/
def Mach.tickFree (m : Mach) : Mach := { m with freeCtr := m.freeCtr + 1 }

/-- Something on an output of the module. [DESIGN CHOICE, log 7; DESIGN CHOICE, log 107] -/
def Mach.send (m : Mach) (tag : Nat) (words : List Nat) : Mach := { m with out := m.out ++ [⟨tag, words⟩] }

/-! ### Register writes -/

/-- A write that has reached a register: who writes, the register's value before, the value with the written half replaced
(R9), the value that Table 0.3 gives field by field, and the bits of the register that were written. A register whose rule
does more has an operation of its own that takes this. -/
structure RegW where
  who : BusWho
  old : Nat
  raw : Nat
  new : Nat
  mask : Nat
  deriving DecidableEq, Repr

/-- Whether a write reached any bit of a field. -/
def RegW.reaches (w : RegW) (f : Fld) : Bool := bitsOf w.mask f.hi f.lo != 0

/-- The code of the register whose copy a key of a die's register map names, and the core of the copy. -/
def keyReg (k : Nat) : Nat × Nat := Nat.unpair (Nat.unpair k).1

/-- Return to reset every copy on die `d` of the registers whose code and core satisfy `p`. -/
def Mach.dropRegs (m : Mach) (d : Nat) (p : Nat → Nat → Bool) : Mach :=
  { m with regs := smMod [] m.regs d (fun r => r.filter (fun e => !p (keyReg e.1).1 (keyReg e.1).2)) }

/-- A field of a number laid out as a register. -/
def Fld.of (f : Fld) (n : Nat) : Nat := bitsOf n f.hi f.lo

/-- Replace a field of a number laid out as a register. -/
def Fld.into (f : Fld) (n v : Nat) : Nat := setBits n f.hi f.lo v

/-- The region of `n` bytes at `a` lies in memory (R549). -/
def regionOk (a n : Nat) : Bool := decide (a + n ≤ 0x20800000000)

/-- The region of `n` bytes at `a` lies in one kind of memory, from `lo` to below `hi`; an empty region lies anywhere (R549). -/
def regionIn (lo hi a n : Nat) : Bool := n == 0 || (decide (lo ≤ a) && decide (a + n ≤ hi))

/-- The dies of the module: CD0 to CD7 and the Bludjan die. -/
def nineDies : List Nat := List.range 9

end Sys2Proof.Machine
end

