-- ==== Sys2Proof/Machine/Hbm.lean ====
section
/-! DEFINITION. Memory as it is stored: bytes, the sector code of the stacked memory (R322 to R326), the poison table of the
GDDR7 (R337), the address decode (R309 to R312), retirement candidates and the mirror (R330, R333, R334). -/

namespace Sys2Proof.Machine

/-! ### Bytes -/

/-- What a byte of memory that nothing has written reads as: zero (the spec gives memory no content at reset).
[DESIGN CHOICE, log 1] -/
def memDefault : Byte := 0#8

/-- One byte of memory. [DESIGN CHOICE, log 1] -/
def Mach.byte (m : Mach) (a : Nat) : Byte := smGet memDefault m.mem a

/-- Write one byte of memory. -/
def Mach.setByte (m : Mach) (a : Nat) (b : Byte) : Mach := { m with mem := smSet memDefault m.mem a b }

/-- `n` bytes of memory from `a`, as stored. -/
def Mach.rawBytes (m : Mach) (a n : Nat) : List Byte := (List.range n).map (fun i => m.byte (a + i))

/-- Write bytes of memory from `a`. -/
def Mach.setRaw (m : Mach) (a : Nat) : List Byte → Mach
  | [] => m
  | b :: bs => (m.setByte a b).setRaw (a + 1) bs

/-! ### Addresses -/

/-- Table 0.2: stacked memory. -/
def isStacked (a : Nat) : Bool := a < 0x20000000000
/-- Table 0.2: GDDR7. -/
def isGddr (a : Nat) : Bool := 0x20000000000 ≤ a && a < 0x20800000000
/-- A populated byte of stacked memory or GDDR7 (R8). -/
def isMemory (a : Nat) : Bool := isStacked a || isGddr a
/-- The region of `n` bytes at `a` lies wholly in stacked memory or wholly in GDDR7 (R549); the two ranges are adjacent, so
together they are one range of addresses. -/
def inMemory (a n : Nat) : Bool := decide (a + n ≤ 0x20800000000)

/-- R268: the home die of a line: the die whose stacked memory holds it, the Bludjan die for GDDR7. -/
def homeDie (a : Nat) : Nat := if isStacked a then a >>> 38 else sdDie

/-- R309, Table 11.1: where in the stacks a die offset lies. -/
structure HbmAddr where
  die : Nat
  stack : Nat
  pch : Nat
  sid : Nat
  bg : Nat
  bank : Nat
  row : Nat
  col : Nat
  deriving DecidableEq, Repr

/-- R309: the decode of a stacked-memory address. -/
def hbmDecode (a : Nat) : HbmAddr :=
  let o := a % 2 ^ 38
  { die := bitsOf a 40 38, stack := bitsOf o 12 11, pch := bitsOf o 15 13 * 8 + bitsOf o 10 8, sid := bitsOf o 23 22,
    bg := bitsOf o 19 18, bank := bitsOf o 21 20, row := bitsOf o 37 24, col := bitsOf o 17 16 * 8 + bitsOf o 7 5 }

/-- The address of a place in the stacks: the inverse of `hbmDecode` on sector addresses. -/
def HbmAddr.encode (h : HbmAddr) : Nat :=
  h.die * 2 ^ 38 + h.row * 2 ^ 24 + h.sid * 2 ^ 22 + h.bank * 2 ^ 20 + h.bg * 2 ^ 18 + (h.col / 8) * 2 ^ 16 +
    (h.pch / 8) * 2 ^ 13 + h.stack * 2 ^ 11 + (h.pch % 8) * 2 ^ 8 + (h.col % 8) * 2 ^ 5

/-- R310: the bank group of an address (die, stack, channel and pseudo-channel, o[19:18]; it spans the four SIDs). -/
def bankGroup (a : Nat) : Nat :=
  let h := hbmDecode a
  ((h.die * 4 + h.stack) * 64 + h.pch) * 4 + h.bg

/-- The bank of an address: bank group, SID and bank. -/
def bankKey (a : Nat) : Nat :=
  let h := hbmDecode a
  (bankGroup a * 4 + h.sid) * 4 + h.bank

/-- R312: the module physical address of byte s' of a spread page. -/
def spreadAddr (s : Nat) : Nat := bitsOf s 13 11 * 2 ^ 38 + bitsOf s 40 14 * 2 ^ 11 + bitsOf s 10 0

/-- R333: the mirror of an address, on the die across the third axis of the cube. -/
def mirrorAddr (a : Nat) : Nat := a ^^^ 0x10000000000

/-! ### The sector code -/

/-- Multiply by α in GF(2^8) with x^8 + x^4 + x^3 + x^2 + 1. -/
def gfDouble (a : Nat) : Nat := let b := 2 * a; if b < 256 then b else b ^^^ 0x11D

/-- The product in GF(2^8), over the bits of `b` from bit `n` − 1 down. -/
def gfMulBits (a b : Nat) : Nat → Nat
  | 0 => 0
  | n + 1 => gfDouble (gfMulBits a (b / 2) n) ^^^ (if b % 2 = 1 then a else 0)

/-- The product in GF(2^8). -/
def gfMul (a b : Nat) : Nat := gfMulBits a b 8

/-- α^n. -/
def gfPow : Nat → Nat
  | 0 => 1
  | n + 1 => gfDouble (gfPow n)

/-- The inverse a^254. -/
def gfInv (a : Nat) : Nat :=
  let a2 := gfMul a a
  let a3 := gfMul a2 a
  let a6 := gfMul a3 a3
  let a12 := gfMul a6 a6
  let a15 := gfMul a12 a3
  let a30 := gfMul a15 a15
  let a60 := gfMul a30 a30
  let a120 := gfMul a60 a60
  let a126 := gfMul a120 a6
  let a127 := gfMul a126 a
  gfMul a127 a127

/-- Symbol j of an error pattern: 0 to 31 the data pins, 32 to 35 the check pins. -/
def symOf (e j : Nat) : Nat := bitsOf e (8 * j + 7) (8 * j)

/-- R322: the power of x that symbol j stands at in the codeword polynomial. -/
def symPos (j : Nat) : Nat := if j < 32 then j + 4 else j - 32

/-- Syndrome k of an error pattern: its polynomial at α^k. -/
def syndrome (e k : Nat) : Nat :=
  (List.range 36).foldl (fun acc j => acc ^^^ gfMul (symOf e j) (gfPow (symPos j * k % 255))) 0

/-- The four syndromes. -/
def syndromes (e : Nat) : List Nat := (List.range 4).map (syndrome e)

/-- R324: the pattern of a poisoned sector: 0x5A in each check symbol, nothing in the data. -/
def poisonVec : Nat := 0x5A5A5A5A * 2 ^ 256

/-- One-symbol errors that give the syndromes, if any. -/
def rsSingle (s : List Nat) : Option (Nat × Nat) :=
  let s0 := s.getD 0 0
  (List.range 36).findSome? (fun j =>
    let p := symPos j
    if s0 ≠ 0 ∧ s.getD 1 0 = gfMul s0 (gfPow (p % 255)) ∧ s.getD 2 0 = gfMul s0 (gfPow (2 * p % 255)) ∧
        s.getD 3 0 = gfMul s0 (gfPow (3 * p % 255)) then some (j, s0) else none)

/-- The value of the second of two error symbols at places i, j for the first two syndromes. -/
def rsPairValue (s0 s1 i j : Nat) : Nat :=
  gfMul (s1 ^^^ gfMul s0 (gfPow (symPos i))) (gfInv (gfPow (symPos i) ^^^ gfPow (symPos j)))

/-- Two-symbol errors that give the syndromes, if any. -/
def rsDouble (s : List Nat) : Option (Nat × Nat × Nat × Nat) :=
  let s0 := s.getD 0 0
  let s1 := s.getD 1 0
  (List.range 36).findSome? (fun i => (List.range i).findSome? (fun j =>
    let vj := rsPairValue s0 s1 i j
    let vi := s0 ^^^ vj
    let at_ (k : Nat) := gfMul vi (gfPow (symPos i * k % 255)) ^^^ gfMul vj (gfPow (symPos j * k % 255))
    if vi ≠ 0 ∧ vj ≠ 0 ∧ at_ 2 = s.getD 2 0 ∧ at_ 3 = s.getD 3 0 then some (i, vi, j, vj) else none))

/-- What the decoder makes of a codeword (R323, R324): nothing to correct, the pattern it corrects and in which symbols, a
poisoned sector, or an uncorrectable one. -/
inductive RsResult where
  | clean | corrected (fix symMask n : Nat) | poisoned | bad
  deriving DecidableEq, Repr

/-- Table 11.5: the decoder in mode `mode` on the error pattern `e`; it sees only the syndromes. -/
def rsDecode (mode e : Nat) : RsResult :=
  let s := syndromes e
  if s.all (· == 0) then .clean
  else if s = syndromes poisonVec then .poisoned
  else if mode = 2 then .bad
  else match rsSingle s with
    | some (j, v) => .corrected (v * 2 ^ (8 * j)) (2 ^ j) 1
    | none =>
      if mode = 1 then .bad
      else match rsDouble s with
        | some (i, vi, j, vj) => .corrected (vi * 2 ^ (8 * i) + vj * 2 ^ (8 * j)) (2 ^ i + 2 ^ j) 2
        | none => .bad

/-- R322: byte n of the sector as an error pattern disturbs it: its bit t is bit n/4 of symbol 8 (n % 4) + t. -/
def errByte (e n : Nat) : Nat :=
  (List.range 8).foldl (fun acc t => acc + b2n ((symOf e (8 * (n % 4) + t)).testBit (n / 4)) * 2 ^ t) 0

/-- The data of a sector with an error pattern over it. -/
def disturb (bs : List Byte) (e : Nat) : List Byte :=
  if e % 2 ^ 256 = 0 then bs else bs.mapIdx (fun n b => b ^^^ BitVec.ofNat 8 (errByte e n))

/-! ### Reads and writes of stacked memory -/

/-- What a sector read delivers: its bytes, whether they carry poison, whether the read was uncorrectable. -/
structure SectorRead where
  bytes : List Byte
  poison : Bool
  ue : Bool
  deriving DecidableEq, Repr

/-- The key of a pseudo-channel of a die. -/
def pchKey (h : HbmAddr) : Nat := h.stack * 64 + h.pch

/-- The 32-byte sectors of one pseudo-channel (R320): of 256 GiB of a die, in 4 stacks of 64. -/
def pchSectors : Nat := 2 ^ 25

/-- The key of a row within its pseudo-channel. -/
def rowKey (h : HbmAddr) : Nat := ((h.row * 4 + h.sid) * 4 + h.bg) * 4 + h.bank

/-- R330: a row becomes a retirement candidate: the event bit and a RETIRE_CANDIDATE record to the CP. -/
def Mach.retireCandidate (m : Mach) (h : HbmAddr) (ue : Bool) : Mach :=
  (m.ev Fld.hbmEvents_retire_candidate h.die (c := h.stack)).toCp h.die 0x32 (!ue) false
    [(5, 4 * h.die + h.stack), (6, h.pch), (2, h.sid), (2, h.bg), (2, h.bank), (14, h.row), (1, b2n ue)]

/-- R326: one corrected symbol: its distinct rows; at the 16th a PIN_FAULT record, and the pin counts no more. -/
def Mach.notePin (m : Mach) (h : HbmAddr) (sym : Nat) : Mach :=
  let t := smGet PchTrk.init (m.die h.die).pch (pchKey h)
  if t.pinFault.testBit sym then m
  else
    let rows := smGet [] t.symRows sym
    let rows' := if rows.contains (rowKey h) then rows else rowKey h :: rows
    let full := 16 ≤ rows'.length
    let t' := { t with symRows := smSet [] t.symRows sym rows',
                       pinFault := if full then t.pinFault + 2 ^ sym else t.pinFault }
    let m' := m.modDie h.die (fun x => { x with pch := smSet PchTrk.init x.pch (pchKey h) t' })
    if full then m'.toCp h.die 0x31 true false [(5, 4 * h.die + h.stack), (6, h.pch), (6, sym)] else m'

/-- R330: one corrected sector in a row's tracker of 64 rows (the least recently corrected row leaves it); a row that stands
at `ce_row_limit` or above becomes a candidate, once in a pass. -/
def Mach.noteRow (m : Mach) (h : HbmAddr) : Mach :=
  let t := smGet PchTrk.init (m.die h.die).pch (pchKey h)
  let old := (t.rows.find? (fun r => r.row == rowKey h)).getD { row := rowKey h, n := 0, told := false }
  let fires := !old.told && decide (m.get Fld.hbmCfg_ce_row_limit h.die (c := h.stack) ≤ old.n + 1)
  let r : RowTrk := { old with n := old.n + 1, told := old.told || fires }
  let rows := (r :: t.rows.filter (fun r => r.row != rowKey h)).take 64
  let m := m.modDie h.die (fun x => { x with pch := smSet PchTrk.init x.pch (pchKey h) { t with rows } })
  if fires then m.retireCandidate h false else m

/-- R341: the error log: an uncorrectable error always, a corrected one when nothing or a corrected one is logged. -/
def Mach.hbmLog (m : Mach) (h : HbmAddr) (ue scrub mirror : Bool) (symMask : Nat) : Mach :=
  let old := m.rd .hbmErrAddr h.die 0 h.stack
  if ue || !(bitOf old 63) || !(bitOf old 62) then
    (m.wr .hbmErrAddr h.die (2 ^ 63 + b2n ue * 2 ^ 62 + b2n scrub * 2 ^ 61 + b2n mirror * 2 ^ 60 + h.pch * 2 ^ 30 +
        h.sid * 2 ^ 28 + h.bg * 2 ^ 26 + h.bank * 2 ^ 24 + h.row * 2 ^ 10 + h.col * 2 ^ 5) 0 h.stack).wr
      .hbmErrSym h.die (if ue then 0 else symMask) 0 h.stack
  else m

/-- The corrections of a read: counters (R342), `ce`, the log, pins and rows. -/
def Mach.noteCorrection (m : Mach) (h : HbmAddr) (scrub : Bool) (symMask n : Nat) : Mach :=
  let m := m.cnt .hbmCnt h.die (if n = 1 then 2 else 3) (c := h.stack)
  let m := (m.ev Fld.hbmEvents_ce h.die (c := h.stack)).hbmLog h false scrub false symMask
  let t := smGet PchTrk.init (m.die h.die).pch (pchKey h)
  let counted := (bitsSet symMask 36).any (fun s => !t.pinFault.testBit s)
  let m := (bitsSet symMask 36).foldl (fun m s => m.notePin h s) m
  if counted then m.noteRow h else m

/-- R325, R330: an uncorrectable read: counter, log, `ue`, candidate and the MEM_UE record, masked when the mirror serves
(Tables 14.2, 14.3). [DEDUCED, log 28] -/
def Mach.noteUe (m : Mach) (h : HbmAddr) (a : Nat) (scrub mirrored : Bool) : Mach :=
  let m := m.cnt .hbmCnt h.die 4 (c := h.stack)
  let m := ((m.ev Fld.hbmEvents_ue h.die (c := h.stack)).hbmLog h true scrub mirrored 0).retireCandidate h true
  m.toCp h.die 0x30 mirrored false [(5, 4 * h.die + h.stack), (6, h.pch), (2, h.sid), (2, h.bg), (2, h.bank), (14, h.row),
    (5, h.col), (1, b2n scrub), (1, b2n mirrored), (48, a)]

/-- The decode of the sector at `a` as stored, with nothing counted: its bytes and the decoder's verdict. -/
def Mach.sectorDecode (m : Mach) (a : Nat) : List Byte × RsResult :=
  let e := smGet 0 m.ecc (a / 32)
  let h := hbmDecode a
  let r := rsDecode (m.get Fld.hbmCfg_ecc_mode h.die (c := h.stack)) e
  let fix := match r with | .corrected f _ _ => f | _ => 0
  (disturb (m.rawBytes (a / 32 * 32) 32) (e ^^^ fix), r)

/-- Store a sector in stacked memory with its check symbols (R322), poisoned or not (R324). -/
def Mach.storeSector (m : Mach) (a : Nat) (bs : List Byte) (poison : Bool) : Mach :=
  let a := a / 32 * 32
  let h := hbmDecode a
  let m := m.cnt .hbmCnt h.die 1 (c := h.stack)
  { m.setRaw a bs with ecc := smSet 0 m.ecc (a / 32) (if poison then poisonVec else 0) }

/-- The controller reads a sector (R324, R326, R342): the read is counted, and what it corrected or found poisoned is counted
and noted; of an uncorrectable sector it answers the verdict. `scrub`: patrol scrub reads. [DEDUCED, log 28] -/
def Mach.sense (m : Mach) (a : Nat) (scrub : Bool) : Mach × List Byte × RsResult :=
  let h := hbmDecode a
  let m := m.cnt .hbmCnt h.die 0 (c := h.stack)
  let (bs, r) := m.sectorDecode a
  match r with
  | .corrected _ mask n => (m.noteCorrection h scrub mask n, bs, r)
  | .poisoned => ((m.cnt .hbmCnt h.die 5 (c := h.stack)).ev Fld.hbmEvents_poison_read h.die (c := h.stack), bs, r)
  | .clean | .bad => (m, bs, r)

/-- R334: the mirror serves a read: the primary is rewritten with its bytes, counted, logged and reported to the CP. -/
def Mach.mirrorServes (m : Mach) (a : Nat) (bs : List Byte) : Mach :=
  let h := hbmDecode a
  let m := (m.noteUe h a false true).storeSector a bs false
  let m := (m.cnt .hbmCnt h.die 8 (c := h.stack)).ev Fld.hbmEvents_mirror_retry h.die (c := h.stack)
  m.toCp h.die 0x36 true false [(48, a)]

/-- R323 to R325, R334: a demand read of a sector of stacked memory; `mirror`: its line is mirrored, and an uncorrectable
primary has the mirror sector read, which is counted and noted as any sector read is. [DEDUCED, log 27] -/
def Mach.hbmRead (m : Mach) (a : Nat) (mirror : Bool) : Mach × SectorRead :=
  let a := a / 32 * 32
  let (m, bs, r) := m.sense a false
  match r with
  | .clean | .corrected _ _ _ => (m, ⟨bs, false, false⟩)
  | .poisoned => (m, ⟨bs, true, false⟩)
  | .bad =>
    let lost (m : Mach) : Mach := m.noteUe (hbmDecode a) a false false
    if mirror then
      let ma := mirrorAddr a
      let (m, bs2, r2) := m.sense ma false
      match r2 with
      | .clean | .corrected _ _ _ => (m.mirrorServes a bs2, ⟨bs2, false, false⟩)
      | .poisoned => (lost m, ⟨bs, true, true⟩)
      | .bad => ((lost m).noteUe (hbmDecode ma) ma false false, ⟨bs, true, true⟩)
    else (lost m, ⟨bs, true, true⟩)

/-! ### GDDR7 -/

/-- Ports of which only the light their peers send is left; after a die reset (`r`) each knows of it (R354). -/
def litPorts (ps : SMap PortSt) (r : Bool) : SMap PortSt :=
  (List.range 8).foldl (fun qs p => smSet PortSt.init qs p
    { PortSt.init with light := (smGet PortSt.init ps p).light, wasReset := r || (smGet PortSt.init ps p).wasReset }) []

/-- What FAB_PORT_STATUS shows of a port that goes dark: DARK, or DISABLED where it is disabled. -/
def Mach.darkPort (m : Mach) (d p : Nat) : Mach :=
  let off := m.flag Fld.fabPortCtl_disable d p
  let m := (m.put Fld.fabPortStatus_state d (if off then 6 else 0) p).put Fld.fabPortStatus_lanes_ok d 0 p
  (m.put Fld.fabPortStatus_rate d 0 p).put Fld.fabPortStatus_hb_missed d 0 p

/-- The eight ports of a die go dark: no light leaves them, and what they carried is gone; one that `disable` holds down stays
DISABLED (Table 12.2). -/
def Mach.darkPorts (m : Mach) (d : Nat) : Mach :=
  ((List.range 8).foldl (fun m p => m.darkPort d p) m).modDie d (fun x => { x with fab := { x.fab with ports := litPorts x.fab.ports false } })

/-- R420: fail-silent: the 64 optical transmitters go dark. -/
def Mach.goSilent (m : Mach) : Mach :=
  if m.silent then m
  else (List.range 8).foldl (fun m d => m.darkPorts d) ({ m with silent := true }.send 0x03 [])

/-- R420, R449, R537: the Bludjan die is lost: the module is fail-silent, FAULT_N and PERST_OUT_N are asserted, the management
lane and I3C fall silent. -/
def Mach.bludjanLost (m : Mach) : Mach :=
  let m := m.goSilent
  { m with pins := { m.pins with fault := true, perst := some true, mcUp := false, i3c := none } }

/-- R311: where in the GDDR7 an address lies: channel, the device and its 16-bit half that are the channel, the address within
the channel. -/
structure GdAddr where
  channel : Nat
  device : Nat
  half : Nat
  addr : Nat
  deriving DecidableEq, Repr

/-- R311: the decode of a GDDR7 address. -/
def gdDecode (a : Nat) : GdAddr :=
  let g := a - 0x20000000000
  let c := bitsOf g 11 8
  { channel := c, device := c / 2, half := c % 2, addr := bitsOf g 34 12 * 256 + bitsOf g 7 0 }

/-- R311: the channel of a GDDR7 address. -/
def gdChannel (a : Nat) : Nat := (gdDecode a).channel

/-- R336, R337: a GDDR7 sector read of which `fails` tries failed their EDC check and which the device reports as
corrected or uncorrectable. -/
def Mach.gdRead (m : Mach) (a fails : Nat) (devCorrected devUe : Bool) : Mach × SectorRead :=
  let a := a / 32 * 32
  let m := m.cnt .gdCnt sdDie 0
  let retries := min fails 3
  let m := if 0 < retries then (m.cnt .gdCnt sdDie 2 retries).ev Fld.gdEvents_edc_retry sdDie else m
  let m := if devCorrected then m.cnt .gdCnt sdDie 3 else m
  let listed := m.gdPoison.contains a
  let m := if listed then (m.cnt .gdCnt sdDie 5).ev Fld.gdEvents_poison_read sdDie else m
  let ue := devUe || decide (3 < fails)
  let g := a - 0x20000000000
  let m := if ue then
      (((m.cnt .gdCnt sdDie 4).ev Fld.gdEvents_ue sdDie).wr .gdErrLog sdDie
        (2 ^ 63 + gdChannel a * 2 ^ 35 + g / 32 * 32)).toCp sdDie 0x30 false false
          [(5, 0), (6, 0), (2, 0), (2, 0), (2, 0), (14, 0), (5, 0), (1, 0), (1, 0), (48, a)]
    else m
  (m, ⟨m.rawBytes a 32, listed || ue, ue⟩)

/-- R337: a write of a GDDR7 sector and the table of poisoned sectors; with the table full the fault is fatal and handled
as loss of the Bludjan die. [DESIGN CHOICE, log 123] -/
def Mach.gdWrite (m : Mach) (a : Nat) (bs : List Byte) (poison : Bool) : Mach :=
  let a := a / 32 * 32
  let m := (m.cnt .gdCnt sdDie 1).setRaw a bs
  let listed := m.gdPoison.contains a
  if poison then
    if listed then m
    else if m.gdPoison.length < 4096 then
      let l := m.gdPoison ++ [a]
      { m with gdPoison := l }.put Fld.gdStatus_poison_used sdDie l.length
    else (m.toCp sdDie 0x35 false false []).bludjanLost
  else
    let l := m.gdPoison.filter (· != a)
    { m with gdPoison := l }.put Fld.gdStatus_poison_used sdDie l.length

/-! ### Either memory -/

/-- Read a sector of either memory. -/
def Mach.memRead (m : Mach) (a : Nat) (mirror : Bool) : Mach × SectorRead :=
  if isStacked a then m.hbmRead a mirror else m.gdRead a 0 false false

/-- Write a sector of either memory; a mirrored line writes both copies (R333). -/
def Mach.memWrite (m : Mach) (a : Nat) (bs : List Byte) (poison mirror : Bool) : Mach :=
  if isStacked a then
    let m := m.storeSector a bs poison
    if mirror then m.storeSector (mirrorAddr a) bs poison else m
  else m.gdWrite a bs poison

end Sys2Proof.Machine
end

