-- ==== Sys2Proof/Machine/Cache.lean ====
section
/-! DEFINITION. The die caches and L1s (spec/10): placement, coherence with one owner or many sharers, dead ranges,
replacement and the stream detector, prefetch marks, add-to-line, pinning. Every access of a core or an engine to
coherent-class memory goes through the operations of this file. -/

namespace Sys2Proof.Machine

/-! ### Lines -/

/-- The cache of a die. -/
def Mach.cache (m : Mach) (d : Nat) : CacheSt := (m.die d).cache

/-- Change the cache of a die. -/
def Mach.modCache (m : Mach) (d : Nat) (f : CacheSt → CacheSt) : Mach := m.modDie d (fun x => { x with cache := f x.cache })

/-- A die-cache counter (Table 10.6); the Bludjan die has none. -/
def Mach.dcCnt (m : Mach) (d n : Nat) (k : Nat := 1) : Mach := if d < 8 then m.cnt .dcCnt d n k else m

/-- The line address of a byte. -/
def lineBase (a : Nat) : Nat := a / 128 * 128
/-- The sector of its line that a byte lies in. -/
def sectorIdx (a : Nat) : Nat := a / 32 % 4

/-- R267: the slice of an address. -/
def dcSlice (a : Nat) : Nat := bitsOf a 15 10 ^^^ bitsOf a 21 16 ^^^ bitsOf a 27 22 ^^^ bitsOf a 33 28
/-- R267: the set of an address. -/
def dcSet (a : Nat) : Nat := bitsOf a 23 16 * 8 + bitsOf a 9 7

/-- Two lines compete for the same ways. [DEDUCED, log 31] -/
def sameSet (a b : Nat) : Bool := dcSlice a == dcSlice b && dcSet a == dcSet b

/-- A line is the one at `a` of node `node` (none: this module's). -/
def Line.isAt (l : Line) (node : Option Nat) (a : Nat) : Bool := l.addr == lineBase a && l.node == node

/-- The line of a die's cache at an address. -/
def Mach.lineAt (m : Mach) (d : Nat) (node : Option Nat) (a : Nat) : Option Line :=
  (m.cache d).lines.find? (fun l => l.isAt node a)

/-- Change the line at an address in place. -/
def Mach.modLine (m : Mach) (d : Nat) (node : Option Nat) (a : Nat) (f : Line → Line) : Mach :=
  m.modCache d (fun c => { c with lines := c.lines.map (fun l => if l.isAt node a then f l else l) })

/-- Drop the line at an address. -/
def Mach.dropLine (m : Mach) (d : Nat) (node : Option Nat) (a : Nat) : Mach :=
  m.modCache d (fun c => { c with lines := c.lines.filter (fun l => !l.isAt node a) })

/-- Move the line at an address to the most-recent position (R287). -/
def Mach.touchLine (m : Mach) (d : Nat) (node : Option Nat) (a : Nat) : Mach :=
  m.modCache d (fun c =>
    { c with lines := c.lines.filter (fun l => l.isAt node a) ++ c.lines.filter (fun l => !l.isAt node a) })

/-- The 32 bytes of a sector of a line. -/
def Line.sector (l : Line) (s : Nat) : List Byte := (l.data.drop (32 * s)).take 32

/-- A line with the bytes of a sector replaced from offset `off` of the line. -/
def Line.splice (l : Line) (off : Nat) (bs : List Byte) : Line :=
  { l with data := l.data.take off ++ bs ++ l.data.drop (off + bs.length) }

/-- An empty line. -/
def Line.empty (node : Option Nat) (a epoch way : Nat) (mirror : Bool) (mark : PfMark) : Line :=
  { addr := lineBase a, node, epoch, way, valid := 0, dirty := 0, poison := 0, owned := false, pinned := false, mirror,
    mark, data := List.replicate 128 0#8 }

/-- Set or clear bit `i` of a mask. -/
def maskBit (mask i : Nat) (b : Bool) : Nat := setBits mask i i (b2n b)

/-! ### L1 -/

/-- R272: invalidate the L1 copies of a line in every core of die `d` but `keep`; each is counted (DC_L1_CNT(4)), and a
prefetched line that no load has used counts as unused (R299). -/
def Mach.l1Invalidate (m : Mach) (d a : Nat) (keep : Option Nat) : Mach :=
  if d < 8 then
    (List.range 32).foldl (fun m c =>
      if keep = some c then m
      else match (m.core d c).l1.find? (fun l => l.addr == lineBase a) with
        | none => m
        | some l =>
          let m := m.modCore d c (fun x => { x with l1 := x.l1.filter (fun l => l.addr != lineBase a) })
          let m := m.cnt .dcL1Cnt d 4 (c := c)
          if l.mark = .demand then m else m.cnt .dcL1Cnt d 8 (c := c)) m
  else m

/-! ### Write-back and eviction -/

/-- The active dead range of the home die that holds an address (R294): its register index. -/
def Mach.deadRange (m : Mach) (a : Nat) : Option Nat :=
  let h := homeDie a
  if h < 8 then
    (List.range 64).find? (fun i =>
      m.flag Fld.dcDeadCtl_active h i &&
        decide (m.get Fld.dcDeadAddr_base h i * 4096 ≤ a) &&
        decide (a < (m.get Fld.dcDeadAddr_base h i + m.get Fld.dcDeadCtl_len h i) * 4096))
  else none

/-- A write-back of the sectors `mask` of a line to memory, poison with it (R303, R324); none of a line in an active dead range (R295). -/
def Mach.writeBack (m : Mach) (l : Line) (mask : Nat) : Mach :=
  if (m.deadRange l.addr).isSome then m
  else (bitsSet mask 4).foldl (fun m s =>
    (m.memWrite (l.addr + 32 * s) (l.sector s) (l.poison.testBit s) l.mirror).dcCnt (homeDie l.addr) 2) m

/-- Copy the sectors `mask` of a line over another line, dirty bits included as `dirty` says. -/
def Line.mergeFrom (dst src : Line) (mask dirty : Nat) : Line :=
  (bitsSet mask 4).foldl (fun l s =>
    { l.splice (32 * s) (src.sector s) with
      valid := maskBit l.valid s true, dirty := maskBit l.dirty s (dirty.testBit s),
      poison := maskBit l.poison s (src.poison.testBit s) }) dst

/-- A prefetched line that leaves before any demand access counts as unused (R299). -/
def Mach.noteUnused (m : Mach) (d : Nat) (l : Line) : Mach :=
  match l.mark with
  | .demand | .missed => m
  | .stream => m.dcCnt d 15
  | .explicit => m.dcCnt d 19

/-- R271: a line leaves die `d`, which is not its home: its dirty sectors go to the home die cache's line, or to memory when the home
holds none; its L1 copies go with it. -/
def Mach.giveUp (m : Mach) (d a : Nat) : Mach :=
  match m.lineAt d none a with
  | none => m
  | some l =>
    let h := homeDie a
    let m := ((m.l1Invalidate d a none).dropLine d none a).noteUnused d l
    match m.lineAt h none a with
    | some _ => if l.dirty = 0 then m else m.modLine h none a (fun x => x.mergeFrom l l.dirty l.dirty)
    | none => m.writeBack l l.dirty

/-- R271: the home invalidates the copy of a line that die `d` holds (DC_CNT(3)). -/
def Mach.recallFrom (m : Mach) (d a : Nat) : Mach :=
  if (m.lineAt d none a).isSome then (m.giveUp d a).dcCnt (homeDie a) 3 else m

/-- Take a line away from every die but `keep`. -/
def Mach.recallOthers (m : Mach) (a : Nat) (keep : Nat) : Mach :=
  (List.range 9).foldl (fun m d => if d = keep then m else m.recallFrom d a) m

/-- R271, R287: evict a line of die `d`. The home recalls every copy elsewhere first; dirty sectors of a home line go to
memory, those of another die's line to the home. -/
def Mach.evict (m : Mach) (d : Nat) (l : Line) : Mach :=
  match l.node with
  | some n => (m.noteUnused d l).dropLine d (some n) l.addr
  | none =>
    if homeDie l.addr = d then
      let m := m.recallOthers l.addr d
      match m.lineAt d none l.addr with
      | none => m
      | some l => ((m.l1Invalidate d l.addr none).noteUnused d l).dropLine d none l.addr |>.writeBack l l.dirty
    else m.giveUp d l.addr

/-- How a fill is inserted (R287, R289): most recent, least recent, or not at all. -/
inductive Insert where
  | mru | lru | bypass
  deriving DecidableEq, Repr

/-- R287: make room for a line in its set and insert it empty: the lowest-numbered free way, else the least recent line that
is not pinned is evicted. A line that is there takes the fill where it is inserted most recent. The Bludjan die's cache has no stated
geometry and never evicts. [DEDUCED, log 31] -/
def Mach.allocate (m : Mach) (d : Nat) (node : Option Nat) (a : Nat) (ins : Insert) (mirror : Bool) (mark : PfMark) : Mach :=
  match m.lineAt d node a with
  | some _ => if ins = .mru then m.touchLine d node a else m
  | none =>
    let peers := (m.cache d).lines.filter (fun l => sameSet l.addr a)
    let free := (List.range 16).find? (fun w => peers.all (fun l => l.way != w))
    let victim := if d < 8 ∧ free.isNone then (peers.filter (fun l => !l.pinned)).getLast? else none
    let way := match free, victim with
      | some w, _ => w
      | none, some v => v.way
      | none, none => 16
    let m := match victim with | some v => m.evict d v | none => m
    let l := Line.empty node a (m.get Fld.dcStatus_remote_epoch d) way mirror mark
    m.modCache d (fun c => { c with lines := if ins = .lru then c.lines ++ [l] else l :: c.lines })

/-! ### Dead ranges -/

/-- R295: one sector read in an active range: counted, zeros. -/
def Mach.deadRead (m : Mach) (a : Nat) : Mach := (m.dcCnt (homeDie a) 20).ev Fld.dcEvents_dead_read (homeDie a)

/-- R296: whether a read in an active range faults instead of returning zeros. -/
def Mach.deadReadFaults (m : Mach) (a : Nat) : Bool :=
  (m.deadRange a).isSome && m.flag Fld.dcDeadCfg_read_fault (homeDie a) && m.debugOpen

/-- R297: a write at `a` meets an active range whose invalidation runs: it waits, and the range is released at its end. -/
def Mach.deadBusy (m : Mach) (a : Nat) : Bool := (m.deadRange a).any (fun i => m.flag Fld.dcDeadCtl_busy (homeDie a) i)

/-- R297: that range is released when its invalidation has ended. -/
def Mach.deadMark (m : Mach) (a : Nat) : Mach :=
  match m.deadRange a with
  | some i => m.modCache (homeDie a) (fun c => { c with deadRelease := maskBit c.deadRelease i true })
  | none => m

/-- R297: release range `i` of die `h`. [DEDUCED, log 37] -/
def Mach.deadReleaseNow (m : Mach) (h i : Nat) : Mach :=
  (((m.put Fld.dcDeadCtl_active h 0 i).ev Fld.dcDeadCtl_released h i).ev Fld.dcEvents_dead_write h).dcCnt h 21

/-! ### The stream detector -/

/-- R288: what Clove makes of an access: the new trackers of the slice, whether the access is a stream access, and whether
it is the one at which the count reaches 8. Trackers that nothing matched for 4 µs (800 PMU cycles) are freed. -/
def cloveStep (ts : List Tracker) (req : Nat × Requester) (sector now : Nat) : List Tracker × Bool × Bool :=
  let ts := ts.filter (fun t => now - t.at_ ≤ 800)
  match ts.find? (fun t => t.req == req && t.sector + 1 == sector) with
  | some t =>
    let n := t.count + 1
    (⟨req, sector, n, now⟩ :: ts.filter (fun u => u != t), decide (8 ≤ n), decide (n = 8))
  | none => ((⟨req, sector, 1, now⟩ :: ts).take 64, false, false)

/-- Where Clove follows a requester: an address of this module, or an offset on another node. -/
def cloveAddr (node : Option Nat) (a : Nat) : Nat := match node with | none => a | some n => (n + 1) * 2 ^ 48 + a

/-- Clove sees an access of the requester `req` of die `by_` at a slice of die `d` (R288): whether it is a stream access. -/
def Mach.clove (m : Mach) (d by_ : Nat) (req : Requester) (node : Option Nat) (a : Nat) : Mach × Bool :=
  if d < 8 then
    let k := dcSlice a
    let (ts, stream, first) := cloveStep (smGet [] (m.cache d).trackers k) (by_, req) (cloveAddr node a / 32) (m.pmu d)
    let m := m.modCache d (fun c => { c with trackers := smSet [] c.trackers k ts })
    (if first then m.dcCnt d 10 else m, stream)
  else (m, false)

/-- The fetches on their way into die `d`: in flight, in the bank retry buffer of a line's home, or returned to be issued again. -/
def Mach.fillsInto (m : Mach) (d : Nat) : List Fill :=
  (m.cache d).fills ++ (m.cache d).returned ++ ((List.range 8).flatMap (fun x => (m.cache x).retry)).filter (fun f => f.into == d)

/-- Whether a line is present in a die's cache or on its way there. -/
def Mach.presentOrInFlight (m : Mach) (d : Nat) (node : Option Nat) (a : Nat) : Bool :=
  (m.lineAt d node a).any (fun l => l.valid != 0) || (m.fillsInto d).any (fun f => f.addr == lineBase a && f.node == node)

/-- DC_STATUS.`retry_occ` follows the retry buffers. -/
def Mach.retryOcc (m : Mach) (d : Nat) : Mach := m.put Fld.dcStatus_retry_occ d (m.cache d).retry.length

/-- A fetch goes no further. -/
def Mach.dropFill (m : Mach) (f : Fill) : Mach :=
  let m := m.modCache f.into (fun c => { c with fills := c.fills.filter (fun g => g != f), returned := c.returned.filter (fun g => g != f) })
  if f.node.isNone then
    (m.modCache (homeDie f.addr) (fun c => { c with retry := c.retry.filter (fun g => g != f) })).retryOcc (homeDie f.addr)
  else m

/-! ### Fetched sectors that wait for their requesters -/

/-- A sector waits for a requester of die `by_`. -/
def Grant.is_ (g : Grant) (by_ : Nat) (req : Requester) (node : Option Nat) (a : Nat) : Bool :=
  g.by_ == by_ && g.req == req && g.node == node && g.addr == a / 32 * 32

/-- The sector that waits for a requester at the cache of die `d`. -/
def Mach.grantAt (m : Mach) (d by_ : Nat) (req : Requester) (node : Option Nat) (a : Nat) : Option Grant :=
  (m.cache d).granted.find? (fun g => g.is_ by_ req node a)

/-- Its requester takes it. -/
def Mach.takeGrant (m : Mach) (d by_ : Nat) (req : Requester) (node : Option Nat) (a : Nat) : Mach :=
  m.modCache d (fun c => { c with granted := c.granted.filter (fun g => !g.is_ by_ req node a) })

/-- A sector has come for a requester that is to ask again. -/
def Mach.grant (m : Mach) (d : Nat) (g : Grant) : Mach :=
  (m.takeGrant d g.by_ g.req g.node g.addr).modCache d (fun c => { c with granted := c.granted ++ [g] })

/-- The sectors that wait for requesters which are no more. -/
def Mach.dropGrants (m : Mach) (p : Grant → Bool) : Mach :=
  (List.range 9).foldl (fun m d => if (m.cache d).granted.any p then
    m.modCache d (fun c => { c with granted := c.granted.filter (fun g => !p g) }) else m) m

/-- R298, R299: whether a prefetch of a line into die `d` is not issued: present, in flight, in a dead range, or no memory. -/
def Mach.prefetchMoot (m : Mach) (d : Nat) (node : Option Nat) (a : Nat) : Bool :=
  m.presentOrInFlight d node a || (node.isNone && (!isMemory a || (m.deadRange (lineBase a)).isSome))

/-- R298, R299: issue a fetch of a line ahead of its use, unless that is moot. [DEDUCED, log 32] -/
def Mach.issuePrefetch (m : Mach) (f : Fill) : Mach :=
  let d := f.into
  if m.prefetchMoot d f.node f.addr then m
  else
    let m := m.modCache d (fun c => { c with fills := c.fills ++ [f] })
    match f.mark with
    | .stream => m.dcCnt d 12
    | .explicit => m.dcCnt d 16
    | .demand | .missed => m

/-- The prefetch of a whole line into die `into` for a requester of die `by_`. -/
def lineFill (into by_ : Nat) (node : Option Nat) (a : Nat) (req : Requester) (mark : PfMark) (mirror : Bool) : Fill :=
  { into, by_, addr := lineBase a, node, sectors := 0xF, req, mark, mirror, stream := mark == .stream, keep := false }

/-- The stream prefetch of one stream access of this module's memory (Prefetch, spec/10): `dc_pf_distance` lines ahead; 0 is off. -/
def Mach.streamPrefetch (m : Mach) (d : Nat) (v : Via) (a : Nat) : Mach :=
  let n := m.get Fld.dcCfg_dc_pf_distance d
  if n = 0 then m else m.issuePrefetch (lineFill d v.by_ none (lineBase a + 128 * n) v.req .stream v.mirror)

/-- R289: how a fill caused by an access is inserted. [DEDUCED, log 31; DEDUCED, log 74] -/
def Mach.insertFor (m : Mach) (d : Nat) (stream keep write : Bool) : Insert :=
  if stream && !keep then
    match m.get Fld.dcCfg_clove_mode d with
    | 1 => .lru
    | 2 => if write then .lru else .bypass
    | _ => .mru
  else .mru

/-! ### Coherent reads and writes -/

/-- A demand access finds the line it prefetched still on its way: late, and the fill becomes the demand's (R299). -/
def Mach.noteLate (m : Mach) (d : Nat) (node : Option Nat) (a : Nat) : Mach :=
  match (m.fillsInto d).find? (fun f => f.addr == lineBase a && f.node == node && (f.mark == .stream || f.mark == .explicit)) with
  | none => m
  | some f => (m.dropFill f).dcCnt d (if f.mark = .stream then 14 else 18)

/-- A demand hit on a prefetched line: useful, once (R299). -/
def Mach.noteUseful (m : Mach) (d : Nat) (node : Option Nat) (a : Nat) (mark : PfMark) : Mach :=
  match mark with
  | .demand | .missed => m
  | .stream => (m.dcCnt d 13).modLine d node a (fun l => { l with mark := .demand })
  | .explicit => (m.dcCnt d 17).modLine d node a (fun l => { l with mark := .demand })

/-- R293: an ordinary miss in a set that holds 12 pinned ways. -/
def Mach.notePressure (m : Mach) (d a : Nat) : Mach :=
  if 12 ≤ ((m.cache d).lines.filter (fun l => sameSet l.addr a && l.pinned)).length then
    (m.dcCnt d 23).modCache d (fun c => { c with winMisses := c.winMisses + 1 })
  else m

/-- What a demand access does at the slice of die `x` that it reaches: Clove sees it, a prefetch of its line is late or useful, a hit moves
the line to the most-recent position, a miss in a set of pinned ways is counted, a stream access prefetches ahead (R287 to R289, R293,
R299): how a fill that it causes there is inserted. [DEDUCED, log 74] -/
def Mach.demandSeen (m : Mach) (v : Via) (x a : Nat) (write : Bool) : Mach × Insert :=
  let (m, stream) := m.clove x v.by_ v.req none a
  let ins := m.insertFor x stream v.keep write
  let m := m.noteLate x none a
  let m := match m.lineAt x none a with
    | some l => if write || l.valid.testBit (sectorIdx a) then (m.noteUseful x none a l.mark).touchLine x none a else m.notePressure x a
    | none => if ins = Insert.mru then m.notePressure x a else (m.notePressure x a).dcCnt x 11
  (if stream then m.streamPrefetch x v a else m, ins)

/-- A sector of a line takes what was read. -/
def Line.fill (l : Line) (s : Nat) (r : SectorRead) : Line :=
  { l.splice (32 * s) r.bytes with valid := maskBit l.valid s true, poison := maskBit l.poison s r.poison }

/-- An owner elsewhere hands its dirty sectors to the home and keeps the line shared (R270). -/
def Mach.downgradeOwners (m : Mach) (a keep : Nat) : Mach :=
  (List.range 9).foldl (fun m x =>
    if x = keep then m
    else match m.lineAt x none a with
      | some l =>
        if l.owned then
          let m := m.modLine x none a (fun l => { l with owned := false, dirty := 0 })
          if x = homeDie a then m.modLine x none a (fun y => { y with dirty := l.dirty })
          else m.modLine (homeDie a) none a (fun y => y.mergeFrom l l.valid l.dirty)
        else m
      | none => m) m

/-- Fetch a sector of a coherent line that the die of `v` misses: from an owner by way of the home, from the home, or from memory; it is
left in the home's cache and in the die's, unless `ins` bypasses (R289: a stream read miss is delivered without allocation) and the home
has no entry of the line. -/
def Mach.fetchShared (m : Mach) (v : Via) (a : Nat) (ins : Insert) (mark : PfMark) : Mach × SectorRead :=
  let d := v.die
  let h := homeDie a
  let s := sectorIdx a
  if (m.lineAt d none a).any (·.owned) then
    let (m, r) := (if ins = .mru then m.touchLine d none a else m).memRead a v.mirror
    (m.modLine d none a (fun l => l.fill s r), r)
  else
    let (m, insH) := if d = h then (m, ins) else if mark = .demand ∨ mark = .missed then m.demandSeen v h a false else (m, .mru)
    let through := d = h ∨ ins = .bypass
    let m := if insH = .bypass ∧ through then m else m.allocate h none a (if insH = .bypass then .lru else insH) v.mirror .demand
    let m := m.downgradeOwners a d
    let (m, r) :=
      match m.lineAt h none a with
      | some l =>
        if l.valid.testBit s then (m, (⟨l.sector s, l.poison.testBit s, false⟩ : SectorRead))
        else
          let (m, r) := m.memRead a v.mirror
          (m.modLine h none a (fun l => l.fill s r), r)
      | none => m.memRead a v.mirror
    let mark := if mark = .missed then .demand else mark
    if d = h then (if mark = .demand then m else m.modLine d none a (fun l => { l with mark }), r)
    else if ins = .bypass then (m, r)
    else
      let m := m.allocate d none a ins v.mirror mark
      (m.modLine d none a (fun l => l.fill s r), r)

/-- R270, R295: a read of the sector at `a` through the cache of a die. A sector that a miss of this requester has brought is taken:
that miss has been counted and seen (R302). -/
def Mach.readSector (m : Mach) (v : Via) (a : Nat) : Mach × SectorRead :=
  match m.deadRange a with
  | some _ => (m.deadRead a, ⟨List.replicate 32 0#8, false, false⟩)
  | none =>
    let d := v.die
    let s := sectorIdx a
    let granted := (m.grantAt d v.by_ v.req none a).isSome
    let m := if granted then m.takeGrant d v.by_ v.req none a else m
    match (m.lineAt d none a).filter (fun l => l.valid.testBit s) with
    | some l =>
      let m := if granted then m else ((m.dcCnt d 0).demandSeen v d a false).1
      (m, ⟨l.sector s, l.poison.testBit s, false⟩)
    | none =>
      if granted then m.fetchShared v a .bypass .missed
      else
        let (m, ins) := (m.dcCnt d 1).demandSeen v d a false
        m.fetchShared v a ins .demand

/-- R270, R272: give the die of `v` the line of `a` owned: every other copy is invalidated, dirty sectors move to it, and every L1
copy but the storing core's is invalidated. `seen`: the home's slice has seen this access already. -/
def Mach.acquireOwn (m : Mach) (v : Via) (a : Nat) (ins : Insert) (seen : Bool) : Mach :=
  let d := v.die
  let h := homeDie a
  let m := m.l1Invalidate d a v.core
  if (m.lineAt d none a).any (·.owned) then m
  else
    let (m, insH) := if d = h ∨ seen then (m, ins) else m.demandSeen v h a true
    let m := m.allocate h none a (if insH = .bypass then .lru else insH) v.mirror .demand
    let m := (List.range 9).foldl (fun m x => if x = d ∨ x = h then m else m.recallFrom x a) m
    if d = h then m.modLine d none a (fun l => { l with owned := true })
    else
      let m := m.allocate d none a (if ins = .bypass then .lru else ins) v.mirror .demand
      let home := m.lineAt h none a
      let m := m.l1Invalidate h a none
      let m := match home with
        | some hl =>
          (m.modLine d none a (fun l => l.mergeFrom hl hl.dirty hl.dirty)).modLine h none a
            (fun l => { l with valid := 0, dirty := 0, poison := 0, owned := false })
        | none => m
      m.modLine d none a (fun l => { l with owned := true })

/-- R173: a write to a sector of coherent memory ends every reservation of it. [DEDUCED, log 48] -/
def Mach.breakResv (m : Mach) (a : Nat) : Mach :=
  let s := a / 32 * 32
  { m with cores := m.cores.map (fun e => (e.1,
      if e.2.blocks.any (fun b => b.threads.any (fun t => t.resv == some s)) then
        { e.2 with blocks := e.2.blocks.map (fun b => { b with threads := b.threads.map (fun t =>
            if t.resv = some s then { t with resv := none } else t) }) }
      else e.2)) }

/-- Write bytes that lie in one sector into a line that die `d` owns; a poisoned write marks the sector, a clean write of
all 32 bytes clears its mark, a clean partial write keeps it (R550). -/
def Mach.applyToOwned (m : Mach) (d a : Nat) (bs : List Byte) (poison : Bool) : Mach :=
  let s := sectorIdx a
  (m.breakResv a).modLine d none a (fun l =>
    { l.splice (a % 128) bs with
      valid := maskBit l.valid s true, dirty := maskBit l.dirty s true,
      poison := if poison then maskBit l.poison s true
                else if bs.length = 32 then maskBit l.poison s false else l.poison })

/-- The line of a write is owned by the die of `v` and its sector is there, or need not be (`whole`: every byte of it is written). -/
def Mach.ownSector (m : Mach) (v : Via) (a : Nat) (whole : Bool) : Mach :=
  let (m, ins, seen) := match m.grantAt v.die v.by_ v.req none a with
    | some g => (m.takeGrant v.die v.by_ v.req none a, (if g.lru then Insert.lru else .mru), true)
    | none => let (m, ins) := m.demandSeen v v.die a true; (m, ins, false)
  let m := m.acquireOwn v a ins seen
  if whole || (m.lineAt v.die none a).any (fun (l : Line) => l.valid.testBit (sectorIdx a)) then m
  else (m.fetchShared v a ins .demand).1

/-- A write to one sector with the dead-range rules already applied. -/
def Mach.writeLive (m : Mach) (v : Via) (a : Nat) (bs : List Byte) (poison : Bool) : Mach :=
  (m.ownSector v a (decide (bs.length = 32))).applyToOwned v.die a bs poison

/-- A way to the home die cache itself, for what is done there (R278, R281): the storing core's L1 keeps its copy only on the home die. -/
def Via.atHome (v : Via) (a : Nat) : Via :=
  let h := homeDie a
  { v with die := h, core := if v.by_ = h then v.core else none }

/-- R282 to R285: one accumulate write to one sector, as elements of `width` bytes from `a`, at the home die cache. -/
def Mach.accumulateLive (m : Mach) (v : Via) (a : Nat) (bs : List Byte) (poison : Bool) (width : Nat) : Mach :=
  let h := homeDie a
  let m := m.ownSector (v.atHome a) a false
  let s := sectorIdx a
  match m.lineAt h none a with
  | none => m
  | some l =>
    if l.poison.testBit s then (m.dcCnt h 9).ev Fld.dcEvents_acc_poison h
    else
      let f := if width = 8 then fmtB64 else fmtB32
      let old := (l.data.drop (a % 128)).take bs.length
      let k := bs.length / width
      let sums := (List.range k).map (fun i =>
        (f.add .rne (ofBytes ((old.drop (width * i)).take width)) (ofBytes ((bs.drop (width * i)).take width))).v)
      let odd := (sums.filter (fun x => !(f.unpack x).isFin)).length
      let m := (m.breakResv a).modLine h none a (fun l =>
        { l.splice (a % 128) (sums.flatMap (fun x => toBytes width x)) with
          dirty := maskBit l.dirty s true, poison := if poison then maskBit l.poison s true else l.poison })
      let m := m.dcCnt h 7
      if odd = 0 then m else m.dcCnt h 8 odd

/-- R297: a write of any kind that meets an active dead range: it waits while the range is busy; otherwise the whole range is
released first. `width` 0 is a plain write, else an accumulate write of elements of that many bytes. -/
def Mach.writeSector (m : Mach) (v : Via) (a : Nat) (bs : List Byte) (poison : Bool) (width : Nat := 0) : Mach :=
  let h := homeDie a
  let go (m : Mach) : Mach := if width = 0 then m.writeLive v a bs poison else m.accumulateLive v a bs poison width
  match m.deadRange a with
  | none => go m
  | some i =>
    if m.flag Fld.dcDeadCtl_busy h i then
      (m.deadMark a).modCache h (fun c => { c with deadWaiting := c.deadWaiting ++ [{ via := v, addr := a, bytes := bs, poison, width }] })
    else go (m.deadReleaseNow h i)

/-- Whether a write that satisfies `p` waits for a busy dead range (R297): it is not visible yet (R284). -/
def Mach.writesHeld (m : Mach) (p : DeadWrite → Bool) : Bool := (List.range 8).any (fun x => (m.cache x).deadWaiting.any p)

/-! ### Ranges of bytes -/

/-- The pieces of [a, a + n) that lie in one sector each: address and length. -/
def sectorPieces (a : Nat) : Nat → Nat → List (Nat × Nat)
  | 0, _ => []
  | fuel + 1, n =>
    if n = 0 then []
    else
      let k := min n (32 - a % 32)
      (a, k) :: sectorPieces (a + k) fuel (n - k)

/-- The pieces of a byte range, sector by sector, ascending. -/
def pieces (a n : Nat) : List (Nat × Nat) := sectorPieces a (n / 32 + 2) n

/-- Read `n` bytes of coherent memory through a die's cache: the bytes and, for each of them, whether its sector carried
poison. -/
def Mach.readBytes (m : Mach) (v : Via) (a n : Nat) : Mach × List (Byte × Bool) :=
  (pieces a n).foldl (fun (acc : Mach × List (Byte × Bool)) p =>
    let (m, r) := acc.1.readSector v (p.1 / 32 * 32)
    (m, acc.2 ++ ((r.bytes.drop (p.1 % 32)).take p.2).map (fun b => (b, r.poison)))) (m, [])

/-- Whether any byte read carries poison. -/
def anyPoison (bs : List (Byte × Bool)) : Bool := bs.any (·.2)

/-- The bytes without their marks. -/
def plain (bs : List (Byte × Bool)) : List Byte := bs.map (·.1)

/-- Write bytes, each with its poison mark, to coherent memory through a die's cache, sector by sector ascending. -/
def Mach.writeBytes (m : Mach) (v : Via) (a : Nat) (bs : List (Byte × Bool)) (width : Nat := 0) : Mach :=
  (pieces a bs.length).foldl (fun m p =>
    let part := (bs.drop (p.1 - a)).take p.2
    m.writeSector v p.1 (plain part) (anyPoison part) width) m

/-- The way of a requester of a die through that die's cache. -/
def viaOf (d : Nat) (req : Requester) (mirror : Bool) : Via :=
  { die := d, by_ := d, req, keep := false, mirror, core := none, for_ := .none_ }

/-- The requester of the module's own engines on a die where no core is named. -/
def Via.engine (d : Nat) : Via := viaOf d (if d = sdDie then .bludjan else .collective) false

/-- Read a little-endian number of coherent memory through a die's cache. -/
def Mach.readNum (m : Mach) (v : Via) (a n : Nat) : Mach × Nat × Bool :=
  let (m, bs) := m.readBytes v a n
  (m, ofBytes (plain bs), anyPoison bs)

/-- Write a little-endian number to coherent memory through a die's cache. -/
def Mach.writeNum (m : Mach) (v : Via) (a n x : Nat) : Mach := m.writeBytes v a ((toBytes n x).map (fun b => (b, false)))

/-- What coherent memory holds at a byte, wherever the newest copy is: an owner's or the home's dirty sector, else memory; zero in an
active dead range (R295). Nothing is counted: this is what an observer of the whole module would say the byte is. -/
def Mach.view (m : Mach) (a : Nat) : Byte :=
  if (m.deadRange a).isSome then 0#8 else
  match (List.range 9).findSome? (fun d => (m.lineAt d none a).bind (fun l =>
      if l.dirty.testBit (sectorIdx a) then some (l.data.getD (a % 128) 0#8) else none)) with
  | some b => b
  | none => ((m.sectorDecode a).1).getD (a % 32) 0#8

/-- The module's firmware reads the bytes [a, a + n): what that counts, of dead ranges (R295) and of memory where no cache holds the newest
copy (R342). The bytes are those of `view`. [DEDUCED, log 145] -/
def Mach.viewed (m : Mach) (a n : Nat) : Mach :=
  (pieces a n).foldl (fun m p =>
    if (m.deadRange p.1).isSome then m.deadRead p.1
    else if (List.range 9).any (fun d => (m.lineAt d none p.1).any (fun l => l.dirty.testBit (sectorIdx p.1))) then m
    else (m.memRead p.1 false).1) m

end Sys2Proof.Machine
end

