-- ==== Sys2Proof/Machine/Sync.lean ====
section
/-! DEFINITION. Threads as the other units see them (their registers, their release from a wait), sync counters with their
waiters (R237 to R253) and barrier slots (R254 to R259). -/

namespace Sys2Proof.Machine

/-! ### Threads and blocks -/

/-- The block at a place on a core. -/
def Mach.block (m : Mach) (d c b : Nat) : Option Block := (m.core d c).blocks.find? (fun k => k.slot == b)

/-- Change the block at a place on a core. -/
def Mach.modBlock (m : Mach) (d c b : Nat) (f : Block → Block) : Mach :=
  m.modCore d c (fun x => { x with blocks := x.blocks.map (fun k => if k.slot = b then f k else k) })

/-- The thread a reference names. -/
def Mach.thread (m : Mach) (d : Nat) (r : ThreadRef) : Option Thread :=
  (m.block d r.core r.block).bind (fun k => k.threads[r.thread]?)

/-- Change the thread a reference names. -/
def Mach.modThread (m : Mach) (d : Nat) (r : ThreadRef) (f : Thread → Thread) : Mach :=
  m.modBlock d r.core r.block (fun k => { k with threads := k.threads.modify r.thread f })

/-- Integer register i of a thread; x0 is zero. -/
def Thread.getX (t : Thread) (i : Nat) : Nat := if i = 0 then 0 else (t.x.getD i 0#64).toNat

/-- Write integer register i of a thread; a write of x0 is discarded. -/
def Thread.setX (t : Thread) (i v : Nat) : Thread := if i = 0 then t else { t with x := t.x.set i (BitVec.ofNat 64 v) }

/-- Floating-point register i of a thread. -/
def Thread.getF (t : Thread) (i : Nat) : Nat := (t.f.getD i 0#32).toNat

/-- Write floating-point register i of a thread. -/
def Thread.setF (t : Thread) (i v : Nat) : Thread := { t with f := t.f.set i (BitVec.ofNat 32 v) }

/-- An instruction of a thread completes: the next pc, one more retired, nothing waited for. -/
def Thread.retire (t : Thread) : Thread :=
  { t with pc := (t.pc + 4) % 2 ^ 48, instret := (t.instret + 1) % 2 ^ 64, wait := .ready }

/-- The core, scheduler, lane order of a thread in `source` fields: its core number with the die's. -/
def coreNum (d c : Nat) : Nat := d * 32 + c

/-- Every thread of a die, with what it waits for: (core, block, thread, wait). -/
def Mach.dieThreads (m : Mach) (d : Nat) : List (ThreadRef × Thread) :=
  (List.range 32).flatMap (fun c => (m.core d c).blocks.flatMap (fun b =>
    if b.ended then [] else b.threads.mapIdx (fun t th => (⟨c, b.slot, t⟩, th))))

/-! ### Descriptors that wait -/

/-- Change the descriptors of a queue of a core (0 array, 1 vector, 2 mover) or of the die (3 collective). -/
def Mach.modQueue (m : Mach) (d c q : Nat) (f : List Desc → List Desc) : Mach :=
  if q = 3 then m.modDie d (fun x => { x with colQ := f x.colQ })
  else m.modCore d c (fun x => { x with queues := x.queues.modify q f })

/-- The descriptors a queue holds, oldest first. -/
def Mach.queue (m : Mach) (d c q : Nat) : List Desc :=
  if q = 3 then (m.die d).colQ else (m.core d c).queues.getD q []

/-- The oldest descriptor of a queue that has not started. -/
def Mach.oldest (m : Mach) (d c q : Nat) : Option Desc := (m.queue d c q).find? (fun x => !x.started)

/-- The status bit of a queue follows whether its oldest unstarted descriptor waits under R213. -/
def Mach.showWait (m : Mach) (d c q : Nat) : Mach :=
  let w := (m.oldest d c q).any (·.waiting)
  match q with
  | 0 => m.put Fld.cqStatus_array_wait d (b2n w) (c := c)
  | 1 => m.put Fld.cqStatus_vector_wait d (b2n w) (c := c)
  | 2 => m.put Fld.cqStatus_mover_wait d (b2n w) (c := c)
  | _ => m.put Fld.cqColStatus_col_wait d (b2n w)

/-- Release a waiter of a counter of die `d` with the value it is given. -/
def Mach.wake (m : Mach) (d : Nat) (w : Waiter) (value : Nat) : Mach :=
  match w with
  | .thread r rd => m.modThread d r (fun t => (t.setX rd value).retire)
  | .desc c q seq =>
    (m.modQueue d c q (fun l => l.map (fun x => if x.seq = seq ∧ x.waiting then { x with waiting := false, released := true }
      else x))).showWait d c q
  | .zmap c seq =>
    let m := if (m.core d c).arr.waitSeq = some seq then m.put Fld.sumStatus_waiting d 0 (c := c) else m
    m.modCore d c (fun x => { x with zmapOk := x.zmapOk ++ [seq] })
  | .launch p lq seq => m.modPart p (fun x => { x with launches := x.launches.map (fun l =>
      if l.lq = lq ∧ l.seq = seq then { l with released := true } else l) })

/-! ### Counters -/

/-- A fault record of Table 9.2, to the queue of the die's partition, or to the CP when it has none (R250). -/
def Mach.syncRec (m : Mach) (d kind id lastOp source operand before total arrived missing gen : Nat) : Mach :=
  m.emitRec d kind false false
    [(3, d), (12, id), (4, lastOp), (16, source), (32, operand), (32, before), (32, total), (32, arrived), (32, missing), (16, gen)]
    (m.partOf d).isNone false (m.slotList d)

/-- R242, R244: release every observer of a counter whose threshold the value has reached. -/
def Mach.releaseObservers (m : Mach) (d n value : Nat) : Mach :=
  let go := (m.die d).ctrWaits.filter (fun w => w.ctr == n && !w.consume && decide (w.n ≤ value))
  let m := m.modDie d (fun x =>
    { x with ctrWaits := x.ctrWaits.filter (fun w => !(w.ctr == n && !w.consume && decide (w.n ≤ value))) })
  go.foldl (fun m w => (m.wake d w.who value).cnt .syncCnt d 1) m

/-- R243: serve the consumers of a counter in arrival order, stopping at the first that the value does not cover. -/
def Mach.serveConsumers (m : Mach) (d n : Nat) : Nat → Mach
  | 0 => m
  | fuel + 1 =>
    match (m.die d).ctrWaits.find? (fun w => w.ctr == n && w.consume) with
    | none => m
    | some w =>
      let v := m.get Fld.syncCtr_value d n
      if w.n ≤ v then
        let m := m.modDie d (fun x => { x with ctrWaits := x.ctrWaits.erase w })
        let m := (m.put Fld.syncCtr_value d (v - w.n) n).wake d w.who v
        (m.cnt .syncCnt d 2).serveConsumers d n fuel
      else m

/-- After a change of a counter: observers against the value it produced, then consumers (R244). -/
def Mach.ctrServe (m : Mach) (d n : Nat) : Mach :=
  let m := m.releaseObservers d n (m.get Fld.syncCtr_value d n)
  m.serveConsumers d n (m.die d).ctrWaits.length

/-- The operations that change a counter (Table 9.1). -/
inductive CtrOp where
  | add | sub | set
  deriving DecidableEq, Repr

/-- Set a flag of a counter, with its record when it was clear (R250). -/
def Mach.ctrFlag (m : Mach) (d n : Nat) (f : Fld) (kind cntIdx lastOp source v before total : Nat) : Mach :=
  let first := !m.flag f d n
  let m := (m.ev f d n).cnt .syncCnt d cntIdx
  if first then m.syncRec d kind n lastOp source v before total 0 0 0 else m

/-- Table 9.1, R247 to R250: apply an operation to counter `n` of die `d`; the old value is returned. -/
def Mach.ctrApply (m : Mach) (d n : Nat) (op : CtrOp) (v lastOp source : Nat) : Mach × Nat :=
  let v := v % 2 ^ 32
  let old := m.get Fld.syncCtr_value d n
  let m := m.cnt .syncCnt d 0
  let m := match op with
    | .add =>
      let total := satN 32 (m.get Fld.syncCtrTotal_total d n + v)
      let m := (m.put Fld.syncCtr_value d (satN 32 (old + v)) n).put Fld.syncCtrTotal_total d total n
      let m := if 2 ^ 32 ≤ old + v then m.ctrFlag d n Fld.syncCtr_ovf 0x01 3 lastOp source v old total else m
      if m.flag Fld.syncCtrArm_armed d n && decide (m.get Fld.syncCtrArm_expect d n < total) then
        m.ctrFlag d n Fld.syncCtr_drift 0x03 5 lastOp source v old total
      else m
    | .sub =>
      let m := m.put Fld.syncCtr_value d (old - v) n
      if old < v then m.ctrFlag d n Fld.syncCtr_unf 0x02 4 lastOp source v old (m.get Fld.syncCtrTotal_total d n) else m
    | .set => m.put Fld.syncCtr_value d v n
  (m.ctrServe d n, old)

/-- ADD 1 by a completion, timer, slot or the module itself, with its `source` field. -/
def Mach.ctrAdd1 (m : Mach) (d n source : Nat) : Mach := (m.ctrApply d n .add 1 0 source).1

/-- The `source` field of a timer, barrier slot or MMIO write: 11 in its top bits. -/
def srcOther : Nat := 0xC000

/-- The `source` field of a descriptor completion: core and queue. -/
def srcDone (core queue : Nat) : Nat := 0x4000 + queue * 256 + core

/-- R242 to R245: a wait arrives at a counter, after every operation applied so far. -/
def Mach.ctrWait (m : Mach) (d n threshold : Nat) (consume : Bool) (w : Waiter) : Mach :=
  let m := m.modDie d (fun x => { x with ctrWaits := x.ctrWaits ++ [⟨n, threshold, consume, w⟩] })
  m.ctrServe d n

/-- R243: waiters that stop waiting without release leave in this cycle, and the counters they left are served again. -/
def Mach.ctrLeave (m : Mach) (d : Nat) (p : Waiter → Bool) : Mach :=
  let gone := ((m.die d).ctrWaits.filter (fun w => p w.who)).map (·.ctr)
  let m := m.modDie d (fun x => { x with ctrWaits := x.ctrWaits.filter (fun w => !p w.who) })
  gone.eraseDups.foldl (fun m n => m.ctrServe d n) m

/-- R247: arm or disarm counter `n`. -/
def Mach.ctrArm (m : Mach) (d n : Nat) (arm : Bool) (expect : Nat) : Mach :=
  let m := (m.put Fld.syncCtrArm_armed d (b2n arm) n).put Fld.syncCtr_armed d (b2n arm) n
  let m := m.put Fld.syncCtrArm_expect d expect n
  if arm then m.put Fld.syncCtrTotal_total d 0 n else m

/-! ### Barrier slots -/

/-- The key of a slot among the slots of its die: die slots 0 to 63, then module slots. -/
def slotKey (md : Bool) (s : Nat) : Nat := if md then 64 + s else s

/-- The configuration register of a slot. -/
def slotCfg (m : Mach) (d : Nat) (md : Bool) (s : Nat) : Nat := if md then m.rd .syncMbarCfg d s else m.rd .syncBarCfg d s

/-- `per_core` of a configuration; 0 means 32 768. -/
def cfgPerCore (cfg : Nat) : Nat := if bitsOf cfg 29 15 = 0 then 32768 else bitsOf cfg 29 15

def Mach.slotSt (m : Mach) (d : Nat) (md : Bool) (s : Nat) : SlotSt := smGet SlotSt.init (m.die d).slots (slotKey md s)

def Mach.setSlotSt (m : Mach) (d : Nat) (md : Bool) (s : Nat) (x : SlotSt) : Mach :=
  m.modDie d (fun k => { k with slots := smSet SlotSt.init k.slots (slotKey md s) x })

/-- The status register of a slot, as Table R255 to R257 keep it. -/
def slotStatusReg (md : Bool) : Reg := if md then .syncMbarStatus else .syncBarStatus

/-- The current generation of a slot. -/
def Mach.slotGen (m : Mach) (d : Nat) (md : Bool) (s : Nat) : Nat := bitsOf (m.rd (slotStatusReg md) d s) 31 16

/-- The cores that have given their arrivals to the current generation. -/
def Mach.slotArrived (m : Mach) (d : Nat) (md : Bool) (s : Nat) : Nat :=
  let p := cfgPerCore (slotCfg m d md s)
  (List.range 32).foldl (fun a c => if p ≤ smGet 0 (m.slotSt d md s).cur c then a + 2 ^ c else a) 0

/-- The threads of a die that wait on a slot, with the generation each waits for. -/
def Mach.slotWaiters (m : Mach) (d : Nat) (md : Bool) (s : Nat) : List (ThreadRef × Nat) :=
  (m.dieThreads d).filterMap (fun (r, t) => match t.wait with
    | .slot md' s' g => if md' = md ∧ s' = s then some (r, g) else none
    | _ => none)

/-- The status register follows the slot's arrivals and waiters. -/
def Mach.slotStatus (m : Mach) (d : Nat) (md : Bool) (s : Nat) : Mach :=
  m.wr (slotStatusReg md) d
    (m.slotArrived d md s * 2 ^ 32 + m.slotGen d md s * 2 ^ 16 + satN 16 (m.slotWaiters d md s).length) s

/-- The dies of a slot's generation: its own die, or the dies of `die_mask`. -/
def Mach.slotDies (m : Mach) (d : Nat) (md : Bool) (s : Nat) : List Nat :=
  if md then bitsSet (m.get Fld.syncMbarDies_die_mask d s) 8 else [d]

/-- Whether every core of a die's `core_mask` has given its arrivals. -/
def Mach.slotDieFull (m : Mach) (d : Nat) (md : Bool) (s : Nat) : Bool :=
  let mask := bitsOf (slotCfg m d md s) 63 32
  decide (mask ≠ 0) && (m.slotArrived d md s &&& mask) == mask

/-- R255, R257: complete the generation of a slot on one of its dies: its waiters are released, `done_ctr` is incremented
when `done_en` is 1, the generation advances, and arrivals for the next one become current. -/
def Mach.slotCompleteOn (m : Mach) (d : Nat) (md : Bool) (s : Nat) : Mach :=
  let g := m.slotGen d md s
  let cfg := slotCfg m d md s
  let m := ((m.slotWaiters d md s).filter (fun w => w.2 == g)).foldl (fun m w => m.modThread d w.1 Thread.retire) m
  let st := m.slotSt d md s
  let m := m.setSlotSt d md s
    { cur := st.next, next := [], start := st.nextStart, nextStart := none, sent := false }
  let m := m.wr (slotStatusReg md) d (setBits (m.rd (slotStatusReg md) d s) 31 16 (g + 1)) s
  let m := (m.slotStatus d md s).cnt .syncCnt d (if md then 10 else 9)
  if bitOf cfg 30 then m.ctrAdd1 d (bitsOf cfg 11 0) srcOther else m

/-- Complete the generation if every arrival is given (R255, R257). -/
def Mach.slotCheck (m : Mach) (d : Nat) (md : Bool) (s : Nat) : Mach × Bool :=
  let ds := m.slotDies d md s
  if !ds.isEmpty && ds.all (fun x => m.slotDieFull x md s) then (ds.foldl (fun m x => m.slotCompleteOn x md s) m, true)
  else (m, false)

/-- R259: the first arrival of a generation, or of the one after it (`early`), starts its watchdog, on the lowest die of a module slot. -/
def Mach.slotFirst (m : Mach) (d : Nat) (md : Bool) (s : Nat) (early : Bool) : Mach :=
  let low := (m.slotDies d md s).head?.getD d
  let st := m.slotSt low md s
  m.setSlotSt low md s (if early then { st with nextStart := some (st.nextStart.getD (m.cc low)) }
    else { st with start := some (st.start.getD (m.cc low)) })

/-- R255, R256: one arrival of a thread at a slot: for the current generation, for the next, or a stall. [DEDUCED, log 79] -/
def Mach.slotArrive (m : Mach) (d : Nat) (md : Bool) (s : Nat) (r : ThreadRef) (wait : Bool) : Mach × Bool :=
  let p := cfgPerCore (slotCfg m d md s)
  let st := m.slotSt d md s
  let g := m.slotGen d md s
  let c := r.core
  let arrive (m : Mach) (gen : Nat) : Mach :=
    m.modThread d r (fun t => if wait then { t with wait := .slot md s (gen % 2 ^ 16) } else t.retire)
  if smGet 0 st.cur c < p then
    let m := (m.setSlotSt d md s { st with cur := smMod 0 st.cur c (· + 1) }).slotFirst d md s false
    ((arrive m g).slotStatus d md s, true)
  else if smGet 0 st.next c < p then
    let m := (m.setSlotSt d md s { st with next := smMod 0 st.next c (· + 1) }).slotFirst d md s true
    ((arrive m (g + 1)).slotStatus d md s, true)
  else (m.modThread d r (fun t => { t with wait := .slotStall md s wait }), false)

/-- After a completion the stalled arrivals of the slot are given, oldest core first, and may complete it again.
[DEDUCED, log 79] -/
def Mach.slotSettle (m : Mach) (d : Nat) (md : Bool) (s : Nat) : Nat → Mach
  | 0 => m
  | fuel + 1 =>
    let (m, done) := m.slotCheck d md s
    if done then
      let m := (m.slotDies d md s).foldl (fun m x =>
        ((m.dieThreads x).filterMap (fun (r, t) => match t.wait with
          | .slotStall md' s' w => if md' = md ∧ s' = s then some (r, w) else none
          | _ => none)).foldl (fun m (r, w) => (m.slotArrive x md s r w).1) m) m
      m.slotSettle d md s fuel
    else m

/-- KT.MBAR of one thread at a slot (R255 to R257). -/
def Mach.mbar (m : Mach) (d : Nat) (md : Bool) (s : Nat) (r : ThreadRef) (wait : Bool) : Mach :=
  (m.slotArrive d md s r wait).1.slotSettle d md s 4

/-- The arrived and the missing of a slot's generation: cores for a die slot, dies for a module slot (Table 9.2). -/
def Mach.slotMasks (m : Mach) (d : Nat) (md : Bool) (s : Nat) : Nat × Nat :=
  if md then
    (m.slotDies d md s).foldl (fun (a : Nat × Nat) x => if m.slotDieFull x md s then (a.1 + 2 ^ x, a.2) else (a.1, a.2 + 2 ^ x)) (0, 0)
  else
    let a := m.slotArrived d md s
    let mask := bitsOf (slotCfg m d md s) 63 32
    (a &&& mask, mask - (a &&& mask))

/-- R259: the watchdog of a slot's generation: one BAR_TIMEOUT record; the waiters keep waiting. -/
def Mach.slotTimeout (m : Mach) (d : Nat) (md : Bool) (s : Nat) : Mach :=
  let st := m.slotSt d md s
  let low := (m.slotDies d md s).head?.getD d
  match st.start with
  | none => m
  | some t0 =>
    if st.sent ∨ low ≠ d ∨ m.cc d < t0 + 2 ^ m.get Fld.syncBarWdog_wdog_log2 d then m
    else
      let (a, x) := m.slotMasks d md s
      let m := m.setSlotSt d md s { st with sent := true }
      let m := (m.ev Fld.syncDieEvents_bar_timeout d).cnt .syncCnt d 11
      m.syncRec d 0x04 (b2n md * 2048 + s) 0 srcOther 0 0 0 a x (m.slotGen d md s)

end Sys2Proof.Machine
end

