-- ==== Sys2Proof/Machine/Scale.lean ====
section
/-! DEFINITION. Scale tables (R64 to R71): entries in memory, the conversion of a value to a short format, the update of an entry
by a conversion and at the step boundary; the generator of stochastic rounding (R59, R60); the step status record's flags
(Table 14.6). -/

namespace Sys2Proof.Machine

/-! ### The step status record -/

/-- R435: the step status record of a partition's step. -/
def Mach.ssrAddr (m : Mach) (p : Part) (step : Nat) : Nat := m.get Fld.snapSsrBase_base p.low * 256 + 256 * (step % 16)

/-- Set flags of word 0x10 of the record of a partition's current step. [DESIGN CHOICE, log 132] -/
def Mach.ssrSet (m : Mach) (p : Part) (bits : Nat) : Mach :=
  if m.flag Fld.fabJob_valid p.low then
    let a := m.ssrAddr p (m.rd .snapStep p.low) + 0x10
    let (m, old, _) := m.readNum (Via.engine p.low) a 4
    m.writeNum (Via.engine p.low) a 4 (old ||| bits)
  else m

/-! ### Stochastic rounding -/

/-- One round of Philox-4×32: the four counter words and two key words. [PRESUMED, log 67] -/
def philoxRound (c : List Nat) (k0 k1 : Nat) : List Nat :=
  let c0 := c.getD 0 0
  let c1 := c.getD 1 0
  let c2 := c.getD 2 0
  let c3 := c.getD 3 0
  let p0 := 0xD2511F53 * c0
  let p1 := 0xCD9E8D57 * c2
  [(p1 >>> 32) ^^^ c1 ^^^ k0, p1 % 2 ^ 32, (p0 >>> 32) ^^^ c3 ^^^ k1, p0 % 2 ^ 32]

/-- The rounds that remain, the key advancing between them. -/
def philoxRounds : Nat → List Nat → Nat → Nat → List Nat
  | 0, c, _, _ => c
  | n + 1, c, k0, k1 => philoxRounds n (philoxRound c k0 k1) ((k0 + 0x9E3779B9) % 2 ^ 32) ((k1 + 0xBB67AE85) % 2 ^ 32)

/-- R60: one invocation: the four output words of a key and a 128-bit counter. [PRESUMED, log 67] -/
def philox (key ctr : Nat) : List Nat :=
  philoxRounds 10 ((List.range 4).map (fun i => bitsOf ctr (32 * i + 31) (32 * i))) (key % 2 ^ 32) (key >>> 32)

/-- R60: the `n` draws of an instruction from a counter on: eight per invocation, low half first, word 0 first.
[PRESUMED, log 67] -/
def draws (key ctr n : Nat) : List Nat :=
  ((List.range (ceilDiv n 8)).flatMap (fun i =>
    (philox key ((ctr + i) % 2 ^ 128)).flatMap (fun w => [w % 65536, w / 65536]))).take n

/-! ### Short formats -/

/-- Table 3.5 `format`: bits of a code. -/
def shortBits (f : Nat) : Nat := if f ≤ 1 then 4 else 8

/-- The floating-point format of a `format` code that is one. [DESIGN CHOICE, log 68] -/
def shortFmt (f : Nat) : FFmt := if f = 0 then fmtE2M1 else if f = 2 then fmtE4M3 else fmtE5M2

/-- Whether a `format` code names an integer format. -/
def shortIsInt (f : Nat) : Bool := f == 1 || f == 4

/-- Table 3.4: the scale maximum of a `format`, as a value. -/
def scaleMax (f : Nat) : Nat := match f with | 0 => 6 | 1 => 7 | 2 => 448 | 3 => 57344 | _ => 127

/-- What a conversion gives: the code, and whether it counts as a saturation or as non-finite. -/
structure ShortRes where
  code : Nat
  sat : Bool
  nonfin : Bool
  deriving DecidableEq, Repr

/-- The code of the scale maximum with a sign. -/
def shortMax (f : Nat) (neg : Bool) : Nat :=
  if shortIsInt f then wrap (shortBits f) (if neg then -(scaleMax f : Int) else scaleMax f)
  else (shortFmt f).maxCode + (shortFmt f).signBit neg

/-- A finite product rounded to a short format, nearest even or with a draw (R58, R59, R64). -/
def shortRound (f : Nat) (neg : Bool) (mag : Nat) (e : Int) (draw : Option Nat) : ShortRes :=
  if mag = 0 then ⟨if shortIsInt f then 0 else (shortFmt f).signBit neg, false, false⟩
  else if shortIsInt f then
    let n := match draw with | none => (roundShift .rne neg mag (-e)).1 | some r => stochastic mag e 0 r
    if scaleMax f < n then ⟨shortMax f neg, true, false⟩ else ⟨wrap (shortBits f) (if neg then -(n : Int) else n), false, false⟩
  else
    let fm := shortFmt f
    let q := fm.quantum mag e
    let n := match draw with | none => (roundShift .rne neg mag (q - e)).1 | some r => stochastic mag e q r
    let code := fm.codeOf n q
    if fm.maxCode < code then ⟨shortMax f neg, true, false⟩ else ⟨code + fm.signBit neg, false, false⟩

/-- R64, Table 3.4: a binary32 input converted with a scale (binary32). [DESIGN CHOICE, log 68] -/
def shortConvert (f x scale : Nat) (draw : Option Nat) : ShortRes :=
  let nan : ShortRes := ⟨if shortIsInt f || f == 0 then 0 else (shortFmt f).nanCode, false, true⟩
  match fmtB32.unpack x with
  | .nan _ => nan
  | .inf neg => ⟨if f = 3 then fmtE5M2.infCode + fmtE5M2.signBit neg else shortMax f neg, false, true⟩
  | .fin _ _ _ =>
    match fmtB32.unpack (fmtB32.mul .rne x scale).v with
    | .nan _ => nan
    | .inf neg => ⟨shortMax f neg, true, false⟩
    | .fin neg mag e => shortRound f neg mag e draw

/-- The value of a short code (Table 3.1). -/
def shortVal (f code : Nat) : FV :=
  if f = 1 then FV.ofInt (signed 4 code) else if f = 4 then FV.ofInt (signed 8 code) else (shortFmt f).unpack code

/-! ### Entries -/

/-- The entries of a die's scale table (VEC_SCL_CFG; a table has at most 4 096, R65). -/
def Mach.sclEntries (m : Mach) (d : Nat) : Nat := min (m.get Fld.vecSclCfg_entries d) 4096

/-- The address of a scale entry. -/
def Mach.sclAddr (m : Mach) (d i : Nat) : Nat := m.get Fld.vecSclBase_base d * 64 + 64 * i

/-- Read a 32-bit word of a scale entry. [DESIGN CHOICE, log 133] -/
def Mach.sclWord (m : Mach) (d i off : Nat) : Mach × Nat :=
  let (m, v, _) := m.readNum (Via.engine d) (m.sclAddr d i + off) 4
  (m, v)

/-- Write a 32-bit word of a scale entry. -/
def Mach.setSclWord (m : Mach) (d i off v : Nat) : Mach := m.writeNum (Via.engine d) (m.sclAddr d i + off) 4 v

/-- R67, R68: a conversion's amax (a binary32 code), saturations and non-finite inputs applied to its entry in one update.
[DESIGN CHOICE, log 113] -/
def Mach.sclApply (m : Mach) (d i amax sats nonfin : Nat) : Mach :=
  let (m, cur) := m.sclWord d i 0x08
  let (m, flags) := m.sclWord d i 0x0C
  let (m, sc) := m.sclWord d i 0x10
  let (m, thr) := m.sclWord d i 0x14
  let (m, miss) := m.sclWord d i 0x18
  let (m, nf) := m.sclWord d i 0x1C
  let sc' := satN 32 (sc + sats)
  let m := m.setSclWord d i 0x08 (max cur amax)
  let m := (m.setSclWord d i 0x10 sc').setSclWord d i 0x1C (satN 32 (nf + nonfin))
  if sc ≤ thr ∧ thr < sc' then
    let m := m.setSclWord d i 0x0C (setBits flags 29 29 1)
    let m := if bitOf flags 29 then m else m.setSclWord d i 0x18 (satN 32 (miss + 1))
    match m.partOf d with
    | some p => m.ssrSet p (1 + 2 * b2n (bitOf flags 28))
    | none => m
  else m

/-- R70: the boundary sets `update_pending` in every valid entry of a die's table. -/
def Mach.sclMark (m : Mach) (d : Nat) : Mach :=
  (List.range (m.sclEntries d)).foldl (fun m i =>
    let (m, f) := m.sclWord d i 0x0C
    if bitOf f 31 then m.setSclWord d i 0x0C (setBits f 30 30 1) else m) m

/-- The lowest entry of a die's table whose update is pending. -/
def Mach.sclNext (m : Mach) (d : Nat) : Nat → Nat → Mach × Option Nat
  | 0, _ => (m, none)
  | fuel + 1, i =>
    let (m, f) := m.sclWord d i 0x0C
    if bitOf f 30 then (m, some i) else m.sclNext d fuel (i + 1)

/-- R70: the new scale from the largest history value: scale_max / (m × h) rounded once to binary32, clamped to 2^-64 to 2^64. -/
def newScale (f margin h : Nat) : Nat :=
  let lo := (127 - 64) * 2 ^ 23
  let hi := (127 + 64) * 2 ^ 23
  match (fmtB32.unpack margin).mul (fmtB32.unpack h) with
  | .fin _ mh e =>
    let n := scaleMax f * 2 ^ 96
    max lo (min hi (fmtB32.round .rne false (2 * (n / mh) + b2n (decide (n % mh ≠ 0))) (-97 - e)).v)
  | _ => lo

/-- The programs of a die that wait on an entry's `update_pending` wait no more (Table 6.5, n = 5). -/
def Mach.sclResume (m : Mach) (d i : Nat) : Mach :=
  (List.range 32).foldl (fun m c =>
    match (m.core d c).vec.run with
    | some r =>
      if r.sclWait = some i then
        (m.put Fld.vecStatus_scale_wait d 0 (c := c)).modCore d c (fun x =>
          { x with vec := { x.vec with run := some { r with sclWait := none } } })
      else m
    | none => m) m

/-- R70: the scale unit processes one entry; conversions that wait for it go on. A ring that is no aligned range of memory takes and
gives no values. [DESIGN CHOICE, log 114; DESIGN CHOICE, log 133] -/
def Mach.sclProcess (m : Mach) (d i step : Nat) : Mach :=
  let (m, flags) := m.sclWord d i 0x0C
  if !bitOf flags 31 then m.setSclWord d i 0x0C (setBits flags 30 30 0)
  else
    let (m, margin) := m.sclWord d i 0x04
    let (m, amax) := m.sclWord d i 0x08
    let (m, base, _) := m.readNum (Via.engine d) (m.sclAddr d i + 0x20) 8
    let one := 127 * 2 ^ 23
    let ok := decide (one ≤ margin) && decide (margin ≤ (127 + 16) * 2 ^ 23)
    let mg := if ok then margin else one
    let len := if bitsOf flags 5 0 = 0 then 64 else bitsOf flags 5 0
    let head := bitsOf flags 11 6
    let count := bitsOf flags 18 12
    let f := bitsOf flags 26 24
    let ring := regionOk base 256
    let push := decide (0 < amax) && decide (amax < 2 ^ 31)
    let m := if push && ring then m.writeNum (Via.engine d) (base + 4 * head) 4 amax else m
    let head := if push then (head + 1) % len else head
    let count := if push && decide (count < len) then count + 1 else count
    let (m, h) := (List.range count).foldl (fun (acc : Mach × Nat) k =>
      if ring then
        let (m, v, _) := acc.1.readNum (Via.engine d) (base + 4 * k) 4
        (m, if v < 2 ^ 31 then max acc.2 v else acc.2)
      else acc) (m, 0)
    let m :=
      if h = 0 ∨ fmtB32.infCode < h then m
      else if f ≤ 4 then m.setSclWord d i 0x00 (newScale f mg h)
      else (m.setSclWord d i 0x00 (Config.freeWord m.freeCtr).toNat).tickFree
    let m := ((m.setSclWord d i 0x08 0).setSclWord d i 0x10 0).setSclWord d i 0x1C 0
    let flags := setBits (setBits (setBits flags 18 12 count) 11 6 head) 27 27 (b2n (!ok))
    let m := m.setSclWord d i 0x0C (setBits (setBits flags 29 29 0) 30 30 0)
    (m.writeNum (Via.engine d) (m.sclAddr d i + 0x28) 8 step).sclResume d i

/-- Table 14.5: while the schedule state is captured, an entry and its ring are captured as their processing has written them. -/
def Mach.sclCapture (m : Mach) (p : Part) (d i : Nat) : Mach :=
  if !m.flag Fld.snapStatus_capturing p.low then m
  else
    let bytes (a n : Nat) : Nat × List Byte := (a, (List.range n).map (fun k => m.view (a + k)))
    let entry := bytes (m.sclAddr d i) 64
    let base := ofBytes ((entry.2.drop 0x20).take 8)
    m.modDie p.low (fun x => { x with snap := { x.snap with sclCap := x.snap.sclCap ++
      (entry :: (if regionOk base 256 then [bytes base 256] else [])) } })

/-- R70: the scale unit of a die processes its next pending entry. -/
def Mach.scaleEntry (m : Mach) (d : Nat) : Mach :=
  match m.partOf d with
  | none => m
  | some p =>
    match m.sclNext d (m.sclEntries d) 0 with
    | (m, none) => m
    | (m, some i) => (m.sclProcess d i (m.rd .snapStep p.low)).sclCapture p d i

end Sys2Proof.Machine
end

