-- ==== Sys2Proof/Machine/Fabric.lean ====
section
/-! DEFINITION. The fabric as requesters and targets use it: node ids and boxes (R344 to R346), fabric records (R379), remote
accesses with sequence numbers and acknowledgements (R366 to R371), fences (R372), accesses to a lost node (R374, R375),
routing (R360 to R363). -/

namespace Sys2Proof.Machine

/-! ### Nodes and boxes -/

/-- R345: the coordinates of a node id. -/
def nodeX (n : Nat) : Nat := bitsOf n 13 9
def nodeY (n : Nat) : Nat := bitsOf n 8 4
def nodeZ (n : Nat) : Nat := bitsOf n 3 0
def nodeOf (x y z : Nat) : Nat := x * 512 + y * 16 + z

/-- This module's node id, as die `d` holds it. -/
def Mach.node (m : Mach) (d : Nat) : Nat := m.get Fld.fabNode_node d

/-- The system sizes as die `d` holds them. -/
def Mach.sizes (m : Mach) (d : Nat) : Nat × Nat × Nat :=
  (2 ^ m.get Fld.fabDims_lx d, 2 ^ m.get Fld.fabDims_ly d, 2 ^ m.get Fld.fabDims_lz d)

/-- A node id lies inside the system sizes (R345, R367). -/
def Mach.nodeInSystem (m : Mach) (d n : Nat) : Bool :=
  let (sx, sy, sz) := m.sizes d
  decide (nodeX n < sx) && decide (nodeY n < sy) && decide (nodeZ n < sz)

/-- A coordinate lies in an aligned range of 2^b from `lo`. -/
def inRange (v lo b : Nat) : Bool := decide (lo ≤ v) && decide (v < lo + 2 ^ b)

/-- The job box of die `d` holds a node (R346). -/
def Mach.boxHolds (m : Mach) (d n : Nat) : Bool :=
  m.flag Fld.fabJob_valid d && inRange (nodeX n) (m.get Fld.fabJob_x0 d) (m.get Fld.fabJob_bx d) &&
    inRange (nodeY n) (m.get Fld.fabJob_y0 d) (m.get Fld.fabJob_by d) &&
    inRange (nodeZ n) (m.get Fld.fabJob_z0 d) (m.get Fld.fabJob_bz d)

/-- A node is lost, as die `d` shows it in FAB_LOST. -/
def Mach.isLost (m : Mach) (d n : Nat) : Bool := (m.rd .fabLost d (n / 64)).testBit (n % 64)

/-- The slots of the partitions whose job box holds a node. -/
def Mach.partsWithNode (m : Mach) (n : Nat) : List Nat :=
  (m.parts.filter (fun p => m.boxHolds p.low n)).map (·.slot)

/-- R345: the neighbour of a node in a direction code of Table 12.4. -/
def neighbour (sizes : Nat × Nat × Nat) (n dir : Nat) : Nat :=
  let (sx, sy, sz) := sizes
  let (x, y, z) := (nodeX n, nodeY n, nodeZ n)
  match dir with
  | 0 => nodeOf ((x + 1) % sx) y z
  | 1 => nodeOf ((x + sx - 1) % sx) y z
  | 2 => nodeOf x ((y + 1) % sy) z
  | 3 => nodeOf x ((y + sy - 1) % sy) z
  | 4 => nodeOf x y ((z + 1) % sz)
  | _ => nodeOf x y ((z + sz - 1) % sz)

/-! ### Records -/

/-- A record of Table 12.8 with the fields of Table 12.9. -/
def Mach.fabRec (m : Mach) (d kind port node core thread addr count : Nat) (masked cp : Bool) (parts : List Nat) : Mach :=
  m.emitRec d kind masked false
    [(7, port), (14, node), (16, m.get Fld.fabRouteCtl_epoch d), (8, core), (10, thread), (48, addr), (32, count)] cp false parts

/-! ### Remote accesses -/

/-- The fabric part of a die. -/
def Mach.fab (m : Mach) (d : Nat) : FabSt := (m.die d).fab

/-- Change the fabric part of a die. -/
def Mach.modFab (m : Mach) (d : Nat) (f : FabSt → FabSt) : Mach := m.modDie d (fun x => { x with fab := f x.fab })

/-- The offset a remote access names; a counter ADD names none. -/
def opOffset : RemoteOp → Option Nat
  | .read o _ | .write o _ _ | .amo o _ _ _ | .acc o _ _ _ | .regRead o _ | .regWrite o _ _ => some o
  | .add _ _ _ | .msg _ _ _ => none

/-- R367: the offset lies in stacked memory or the compute-die register windows of its target. -/
def offsetReachable (o : Nat) : Bool := isStacked o || (decide (0x80000000000 ≤ o) && decide (o < 0x80800000000))

/-- R367: a request that fails at its requester: its node is outside the system sizes or its offset is not reachable. -/
def Mach.requestRefused (m : Mach) (d node : Nat) (op : RemoteOp) : Bool :=
  !m.nodeInSystem d node || (match opOffset op with | some o => !offsetReachable o | none => false)

/-- The thread number in its block, for records. -/
def threadNo : RemoteFor → Nat
  | .thread w _ _ _ _ | .store w | .retry w => w.thread
  | .lanes ((w, _, _) :: _) _ _ => w.thread
  | _ => 0

/-- The core a remote access serves, with its die. -/
def coreFor (d : Nat) : RemoteFor → Nat
  | .thread w _ _ _ _ | .store w | .retry w => coreNum d w.core
  | .lanes ((w, _, _) :: _) _ _ => coreNum d w.core
  | .engine c _ _ => coreNum d c
  | _ => d * 32

/-- A fence's window loses an access; a fence whose window is empty completes (R372). -/
def Mach.fencesSettle (m : Mach) (d node seq : Nat) : Mach :=
  let fs := (m.fab d).fences.map (fun f => { f with window := f.window.filter (fun w => w != (node, seq)) })
  let done := fs.filter (fun f => f.begun && f.window.isEmpty)
  let m := m.modFab d (fun x => { x with fences := fs.filter (fun f => !(f.begun && f.window.isEmpty)) })
  done.foldl (fun m f => (m.modThread d f.who Thread.retire).cnt .fabCnt d 4) m

/-- R375: a load that becomes dead: its thread or its engine's descriptor is held, DEAD_LOAD goes to the CP and the partition's queue.
[DEDUCED, log 38] -/
def Mach.deadLoad (m : Mach) (d : Nat) (u : Unacked) : Mach :=
  let m := match u.for_ with
    | .thread w _ _ _ _ | .retry w => m.modThread d w (fun t => { t with wait := .dead })
    | .lanes ws _ _ => ws.foldl (fun m (w : ThreadRef × Nat × Nat) => m.modThread d w.1 (fun t => { t with wait := .dead })) m
    | .engine c q s => m.modCore d c (fun x => { x with deadEng := x.deadEng ++ [(q, s)] })
    | _ => m
  let m := (m.cnt .fabCnt d 9).ev Fld.fabEvents_dead_load d
  m.fabRec d 0x29 0x7F u.node (coreFor d u.for_) (threadNo u.for_) u.va 0 false true (m.slotList d)

/-- REMOTE_ADD_REJECT or REMOTE_ADD_LOST (R253, Table 9.2) from the sender's die. [DEDUCED, log 71] -/
def Mach.remoteAddRec (m : Mach) (d kind die ctr v node : Nat) : Mach :=
  m.emitRec d kind false false
    [(3, die), (12, ctr), (4, 5), (16, 0x8000 + node), (32, v), (32, 0), (32, 0), (32, 0), (32, 0), (16, 0)]
    (m.partOf d).isNone false (m.slotList d)

/-- The dies of the partition of `d`; `d` alone when it is in none. -/
def Mach.partMates (m : Mach) (d : Nat) : List Nat := match m.partOf d with | some p => p.dies | none => [d]

/-- Table 12.6: an access that a lost node's WRITES_LOST counts: a store, accumulate store or register write that no descriptor
waits for as its own (a vector program's count as its core's). -/
def Unacked.isStore (u : Unacked) : Bool :=
  (match u.req with | .write _ _ _ | .acc _ _ _ _ | .regWrite _ _ _ => true | _ => false) &&
  (match u.for_ with | .engine _ q _ => q == 1 | .edge _ _ _ | .fill => false | _ => true)

/-- R374: the accesses to a node that its loss makes the partition of `d` abandon. -/
def Mach.storesTo (m : Mach) (d node : Nat) : Nat :=
  ((m.partMates d).flatMap (fun k => ((m.fab k).unacked ++ (m.fab k).waiting).filter (fun u => u.node == node && u.isStore))).length

/-- R374: a store to a lost node is abandoned; WRITES_LOST, with the count of the partition's stores, is sent once per partition and
node. -/
def Mach.loseWrite (m : Mach) (d : Nat) (u : Unacked) (count : Nat) : Mach :=
  let m := (m.cnt .fabCnt d 8).ev Fld.fabEvents_writes_lost d
  if (m.partMates d).any (fun k => (m.fab k).writesLost.contains u.node) then m
  else
    let m := m.modFab d (fun x => { x with writesLost := x.writesLost ++ [u.node] })
    m.fabRec d 0x28 0x7F u.node (coreFor d u.for_) 0 0 count false false (m.slotList d)

/-- R374, Table 12.6: what becomes of an access whose target node is lost. `count`: the accesses that a WRITES_LOST names, which
is sent once per partition and node. -/
def Mach.abandon (m : Mach) (d : Nat) (u : Unacked) (count : Nat := 1) : Mach :=
  match u.req, u.for_ with
  | .add die ctr v, _ => ((m.ev Fld.syncDieEvents_remote_lost d).cnt .syncCnt d 8).remoteAddRec d 0x06 die ctr v u.node
  | _, .edge p t _ => m.send 0x14 [8 * d + p, t, 3]
  | _, .fill => m.modCache d (fun c => { c with fills := c.fills.filter (fun f => f.node != some u.node) })
  | .msg _ _ _, .engine c q s => m.modDie d (fun x => { x with engineLost := x.engineLost ++ [(c, q, s)] })
  | .write _ _ _, .engine c q s | .acc _ _ _ _, .engine c q s =>
    if q = 1 then m.loseWrite d u count else m.modDie d (fun x => { x with engineLost := x.engineLost ++ [(c, q, s)] })
  | .read _ _, .engine c q s =>
    if q = 2 ∨ q = 3 then m.modDie d (fun x => { x with engineLost := x.engineLost ++ [(c, q, s)] })
    else m.deadLoad d u
  | .write _ _ _, _ | .acc _ _ _ _, _ | .regWrite _ _ _, _ => m.loseWrite d u count
  | _, _ => m.deadLoad d u

/-- R371: whether a die has room for one more unacknowledged access to a node. -/
def Mach.hasRoom (m : Mach) (d node : Nat) : Bool :=
  decide (((m.fab d).unacked.filter (fun u => u.node == node)).length < 1024) && decide ((m.fab d).unacked.length < 16384)

/-- The job number a request carries (R367, R377). -/
def Mach.jobFor (m : Mach) (d : Nat) : RemoteFor → Nat
  | .edge _ _ j => j
  | _ => m.get Fld.fabJob_job d

/-- R366, Table 12.5: the fabric address of an offset of a node: space 01 remote memory, 10 remote registers. -/
def fabricAddr (node o : Nat) : Nat := (if o < 0x80000000000 then 1 else 2) * 2 ^ 62 + node % 2 ^ 14 * 2 ^ 48 + o % 2 ^ 48

/-- What a packet of a remote access to a node says beside its header (R366): its kind, its fabric address or counter, its operands. -/
def reqWords (node : Nat) : RemoteOp → List Nat
  | .read o n => [0, fabricAddr node o, n]
  | .write o bs p => [1, fabricAddr node o, bs.length, b2n p, ofBytes bs]
  | .amo o f5 w vals => [2, fabricAddr node o, w, f5] ++ vals
  | .acc o w bs p => [3, fabricAddr node o, w, bs.length, b2n p, ofBytes bs]
  | .regRead o n => [4, fabricAddr node o, n]
  | .regWrite o n v => [5, fabricAddr node o, n, v]
  | .add die ctr v => [6, die, ctr, v]
  | .msg group seq len => [7, group, seq, len]

/-- Put a remote access on the links with the next sequence number of its node (R368). -/
def Mach.transmit (m : Mach) (d : Nat) (u : Unacked) : Mach :=
  let seq := smGet 0 (m.fab d).seqs u.node
  let m := m.modFab d (fun x =>
    { x with seqs := smSet 0 x.seqs u.node ((seq + 1) % 2 ^ 32), unacked := x.unacked ++ [{ u with seq, at_ := m.pmu d }] })
  (m.cnt .fabCnt d 0).send 0x12 ([d, u.node, (m.fab d).inc, seq, m.jobFor d u.for_, m.get Fld.fabRouteCtl_epoch d] ++ reqWords u.node u.req)

/-- Send a remote access (R366, R368, R371, R374), behind those to its node that still wait for room (R251, R370). -/
def Mach.remoteSend (m : Mach) (d node : Nat) (op : RemoteOp) (for_ : RemoteFor) (va : Nat) (stream : Bool := false) : Mach :=
  let u : Unacked := { node, seq := 0, req := op, for_, va, at_ := m.pmu d, dead := false, stream }
  if m.isLost d node then m.abandon d u
  else if m.hasRoom d node && (m.fab d).waiting.all (fun w => w.node != node) then m.transmit d u
  else m.modFab d (fun x => { x with waiting := x.waiting ++ [u] })

/-- R371: accesses that waited for room are sent, oldest first, as far as room goes. -/
def Mach.drainWaiting (m : Mach) (d : Nat) : Nat → Mach
  | 0 => m
  | fuel + 1 =>
    match (m.fab d).waiting.find? (fun u => m.hasRoom d u.node) with
    | none => m
    | some u =>
      ((m.modFab d (fun x => { x with waiting := x.waiting.erase u })).transmit d u).drainWaiting d fuel

/-- An access has been acknowledged, abandoned or refused: it leaves the list, fences that wait for it settle, and room is
given. -/
def Mach.dropUnacked (m : Mach) (d node seq : Nat) : Mach :=
  let m := m.modFab d (fun x => { x with unacked := x.unacked.filter (fun u => !(u.node == node && u.seq == seq)) })
  (m.fencesSettle d node seq).drainWaiting d 1

/-- R373: a fabric fence of a thread issues: its time counts from then, though it may be held before it begins. -/
def Mach.fenceIssue (m : Mach) (d : Nat) (r : ThreadRef) : Mach :=
  if (m.fab d).fences.any (fun f => f.who == r) then m
  else m.modFab d (fun x =>
    { x with fenceId := x.fenceId + 1,
             fences := x.fences ++ [{ id := x.fenceId, who := r, window := [], start := m.pmu d, sent := false, begun := false }] })

/-- A fabric fence of a thread is complete (R372). -/
def Mach.fenceDone (m : Mach) (d : Nat) (r : ThreadRef) : Mach :=
  ((m.modFab d (fun x => { x with fences := x.fences.filter (fun f => f.who != r) })).modThread d r Thread.retire).cnt .fabCnt d 4

/-- R372: a fabric fence that has issued: its window is every access the die has sent before it; empty, it completes at once. -/
def Mach.startFence (m : Mach) (d : Nat) (r : ThreadRef) (window : List (Nat × Nat)) : Mach :=
  if window.isEmpty then m.fenceDone d r
  else
    let id := (((m.fab d).fences.find? (fun f => f.who == r)).map (·.id)).getD 0
    let m := m.modFab d (fun x =>
      { x with fences := x.fences.map (fun f => if f.who = r then { f with window, begun := true } else f) })
    m.modThread d r (fun t => { t with wait := .fence id })

/-- The window of a fabric fence: every access of the die not yet acknowledged, waiting ones excepted (they are not sent).
[DEDUCED, log 38] -/
def Mach.fenceWindow (m : Mach) (d : Nat) : List (Nat × Nat) := (m.fab d).unacked.map (fun u => (u.node, u.seq))

/-- A node is declared lost on a die: FAB_LOST, the abandoned accesses, in the order they were sent. -/
def Mach.loseNode (m : Mach) (d n : Nat) : Mach :=
  let m := (m.wr .fabLost d (setBits (m.rd .fabLost d (n / 64)) (n % 64) (n % 64) 1) (n / 64)).ev Fld.fabEvents_node_lost d
  let count := m.storesTo d n
  let gone := (m.fab d).unacked.filter (fun u => u.node == n)
  let gone2 := (m.fab d).waiting.filter (fun u => u.node == n)
  let m := m.modFab d (fun x => { x with unacked := x.unacked.filter (fun u => u.node != n),
                                         waiting := x.waiting.filter (fun u => u.node != n) })
  let m := (gone ++ gone2).foldl (fun m u => m.abandon d u count) m
  (gone.foldl (fun m u => m.fencesSettle d n u.seq) m).drainWaiting d gone.length

/-! ### Routing -/

/-- Coordinate `k` of a node: 0 X, 1 Y, 2 Z. -/
def nodeCoord (n k : Nat) : Nat := match k with | 0 => nodeX n | 1 => nodeY n | _ => nodeZ n

/-- The system's size in dimension `k` as die `d` holds it. -/
def Mach.dimSize (m : Mach) (d k : Nat) : Nat := let (sx, sy, sz) := m.sizes d; match k with | 0 => sx | 1 => sy | _ => sz

/-- The size 2^b, as b, of the job box of die `d` in dimension `k`. -/
def Mach.boxBits (m : Mach) (d k : Nat) : Nat :=
  match k with | 0 => m.get Fld.fabJob_bx d | 1 => m.get Fld.fabJob_by d | _ => m.get Fld.fabJob_bz d

/-- R346, R360: a die of this module that holds the job box of a packet of job `job` whose source and destination lie in it: die
`d` itself when it does, else the lowest. [DEDUCED, log 125] -/
def Mach.packetBox (m : Mach) (d job src dest : Nat) : Option Nat :=
  (d :: List.range 8).find? (fun k => m.get Fld.fabJob_job k == job && m.boxHolds k src && m.boxHolds k dest)

/-- One coordinate's step: the direction (+ or −) the shorter way round, + when equal; inside a job box smaller than the
system in that dimension, the way that stays inside (R360). -/
def stepDir (plus minus size v dest : Nat) (inBox : Bool) : Nat :=
  if inBox then (if v < dest then plus else minus)
  else
    let up := (dest + size - v) % size
    if up ≤ size - up then plus else minus

/-- R360: the way that a packet to `dest` takes in dimension `k`; `box`: the die that holds its job box, if any. -/
def Mach.dimDir (m : Mach) (d : Nat) (box : Option Nat) (k dest : Nat) : Nat :=
  stepDir (2 * k) (2 * k + 1) (m.dimSize d k) (nodeCoord (m.node d) k) (nodeCoord dest k)
    (box.any (fun b => decide (2 ^ m.boxBits b k < m.dimSize d k)))

/-- R360: the direction of a packet's next hop from this module to `dest`; none when it has arrived. -/
def Mach.nextDir (m : Mach) (d : Nat) (box : Option Nat) (dest : Nat) : Option Nat :=
  ((List.range 3).find? (fun k => nodeCoord (m.node d) k != nodeCoord dest k)).map (fun k => m.dimDir d box k dest)

/-- R363: the lowest-numbered detour entry for a next hop and a destination. -/
def Mach.detour (m : Mach) (d hop dest : Nat) : Option Nat :=
  (List.range 64).findSome? (fun i =>
    let e := m.rd .fabDetour d i
    if bitOf e 63 ∧ bitsOf e 61 48 = hop ∧ dest ≠ hop then some e else none)

/-- R362: the way round a lost next hop in direction `dir`: one hop, as R360 takes it, in a later dimension that still needs
travel, else one in the lowest other dimension of size above 1, + unless + leaves the packet's job box. [DEDUCED, log 125] -/
def Mach.lostDetour (m : Mach) (d : Nat) (box : Option Nat) (dir dest : Nat) : Option Nat :=
  let here := m.node d
  let dim := dir / 2
  match (List.range 3).find? (fun k => decide (dim < k) && nodeCoord here k != nodeCoord dest k) with
  | some k => some (m.dimDir d box k dest)
  | none =>
    ((List.range 3).find? (fun k => k != dim && decide (1 < m.dimSize d k))).map (fun k =>
      if box.any (fun b => m.boxHolds b here && !m.boxHolds b (neighbour (m.sizes d) here (2 * k))) then 2 * k + 1 else 2 * k)

end Sys2Proof.Machine
end

