-- ==== Sys2Proof/Machine/L1.lean ====
section
/-! DEFINITION. The L1 of a core (R266, R269, R272, R273): load hits and misses, insertion, prefetches and their marks (R299). -/

namespace Sys2Proof.Machine

/-- The L1 line of core `c` at an address. -/
def Mach.l1At (m : Mach) (d c a : Nat) : Option L1Line := (m.core d c).l1.find? (fun l => l.addr == lineBase a)

/-- R266: the L1 set of an address, of 512. -/
def l1Set (a : Nat) : Nat := bitsOf a 15 7

/-- An L1 line leaves: a prefetched line that no load has used counts as unused (R299). -/
def Mach.l1Drop (m : Mach) (d c : Nat) (l : L1Line) : Mach :=
  let m := m.modCore d c (fun x => { x with l1 := x.l1.filter (fun y => y.addr != l.addr) })
  if l.mark = .demand then m else m.cnt .dcL1Cnt d 8 (c := c)

/-- Put sectors of a line into the L1 of core `c` at the most-recent position; with every way of the set taken the least recent
line of the set leaves. A core without a split has no L1. [DESIGN CHOICE, log 34] -/
def Mach.l1Insert (m : Mach) (d c a sectors : Nat) (mark : PfMark) : Mach :=
  match m.l1At d c a with
  | some l => m.modCore d c (fun x => { x with l1 := { l with valid := l.valid ||| sectors } :: x.l1.filter (fun y => y.addr != l.addr) })
  | none =>
    let ways := m.get Fld.dcL1Status_ways d (c := c)
    if ways = 0 then m
    else
      let peers := (m.core d c).l1.filter (fun l => l1Set l.addr == l1Set a)
      let m := if peers.length < ways then m else match peers.getLast? with | some v => m.l1Drop d c v | none => m
      m.modCore d c (fun x => { x with l1 := { addr := lineBase a, valid := sectors, mark } :: x.l1 })

/-- R299: a demand access finds its line in an L1 prefetch still in flight: late, and the prefetch ends as the demand's. -/
def Mach.l1Late (m : Mach) (d c a : Nat) : Mach :=
  if (m.core d c).l1Fills.any (fun l => l.addr == lineBase a) then
    (m.modCore d c (fun x => { x with l1Fills := x.l1Fills.filter (fun l => l.addr != lineBase a) })).cnt .dcL1Cnt d 7 (c := c)
  else m

/-- A core's L1 holds the sector at `a`, and its die's cache does. -/
def Mach.l1Hits (m : Mach) (d c a : Nat) : Bool :=
  (m.l1At d c a).any (fun l => l.valid.testBit (sectorIdx a)) && (m.lineAt d none a).any (fun l => l.valid.testBit (sectorIdx a))

/-- R269, R272, R273: a core thread's read of the sector at `a`: from the L1 when it holds it, else through the die's cache, after
which the L1 holds it (where the die cache does, of which it is inclusive). An instruction fetch counts its misses alone. -/
def Mach.l1Read (m : Mach) (d c a : Nat) (mirror fetch : Bool) : Mach × SectorRead :=
  let v : Via := { viaOf d (.thread c) mirror with core := some c }
  let s := sectorIdx a
  if (m.deadRange a).isSome then m.readSector v a
  else
    match (m.l1At d c a).filter (fun l => l.valid.testBit s), (m.lineAt d none a).filter (fun l => l.valid.testBit s) with
    | some l, some line =>
      let m := if fetch then m else m.cnt .dcL1Cnt d 0 (c := c)
      let m := if l.mark = .demand then m else m.cnt .dcL1Cnt d 6 (c := c)
      let m := m.modCore d c (fun x =>
        { x with l1 := { l with mark := .demand } :: x.l1.filter (fun y => y.addr != l.addr) })
      (m, ⟨line.sector s, line.poison.testBit s, false⟩)
    | _, _ =>
      let m := (m.cnt .dcL1Cnt d (if fetch then 2 else 1) (c := c)).l1Late d c a
      let (m, r) := m.readSector v a
      (if (m.lineAt d none a).any (fun x => x.valid.testBit s) then m.l1Insert d c a (2 ^ s) .demand else m, r)

/-- R272, R299: a store of core `c` is written through: a prefetch of its line is late or useful, as a load would find it. -/
def Mach.l1Store (m : Mach) (d c a : Nat) : Mach :=
  let m := (m.cnt .dcL1Cnt d 3 (c := c)).l1Late d c a
  if (m.l1At d c a).any (fun l => l.mark != .demand) then
    (m.cnt .dcL1Cnt d 6 (c := c)).modCore d c (fun x =>
      { x with l1 := x.l1.map (fun l => if l.addr = lineBase a then { l with mark := .demand } else l) })
  else m

/-- R304: the L1's copy of a line meets an uncorrectable error: it is dropped and the line comes from the die cache again. -/
def Mach.l1Error (m : Mach) (d c a : Nat) : Mach :=
  match m.l1At d c a with
  | some l => (m.l1Drop d c l).cnt .dcL1Cnt d 11 (c := c)
  | none => m

/-- The prefetches of a die's L1s for a line that its cache now holds (or has given up) end: they fill the L1. -/
def Mach.l1Settle (m : Mach) (d a : Nat) : Mach :=
  (List.range 32).foldl (fun m c =>
    if (m.core d c).l1Fills.any (fun l => l.addr == lineBase a) then
      let m := m.modCore d c (fun x => { x with l1Fills := x.l1Fills.filter (fun l => l.addr != lineBase a) })
      match m.lineAt d none a with
      | some line => if line.valid = 0 then m else m.l1Insert d c a line.valid .explicit
      | none => m
    else m) m

end Sys2Proof.Machine
end

