-- ==== Sys2Proof/Machine/Slots.lean ====
section
/-! DEFINITION. Miss slots, the bank-group cap and the bank retry buffers (R300 to R302), and what a request of a core meets before it is
served: a home die in reset (R306), no free slot, a bank whose queue is full. -/

namespace Sys2Proof.Machine

/-- The core of a requester, if it is a part of one. -/
def reqCore : Requester → Option Nat
  | .thread c | .vector c | .mover c | .feeder c => some c
  | _ => none

/-- A fetch of core `c` of die `d`; a stream prefetch is the slice's own. -/
def Fill.ofCore (f : Fill) (d c : Nat) : Bool := f.by_ == d && reqCore f.req == some c && f.mark != .stream

/-- The fetches of core `c` of die `d` that are on their way. -/
def Mach.coreFills (m : Mach) (d c : Nat) : List Fill :=
  (nineDies.flatMap (fun x => (m.cache x).fills ++ (m.cache x).retry ++ (m.cache x).returned)).filter (fun f => f.ofCore d c)

/-- Whether a remote access holds a miss slot of core `c`: a request of its threads or engines for memory (a counter ADD is none).
[DEDUCED, log 119] -/
def Unacked.ofCore (u : Unacked) (c : Nat) : Bool :=
  match u.req, u.for_ with
  | .add _ _ _, _ | .msg _ _ _, _ => false
  | _, .thread r _ _ _ _ | _, .retry r | _, .store r => r.core == c
  | _, .lanes ((r, _, _) :: _) _ _ => r.core == c
  | _, .engine k q _ => k == c && q != 3
  | _, _ => false

/-- A remote access of core `c`'s operand feeder. -/
def Unacked.ofFeeder (u : Unacked) (c : Nat) : Bool := match u.for_ with | .engine k q _ => k == c && q == 0 | _ => false

/-- The prefetches of a core's L1 that wait for another's fetch. -/
def Mach.joinedFills (m : Mach) (d c : Nat) : List L1Line :=
  let x := m.core d c
  x.l1Fills.filter (fun l => !(m.coreFills d c ++ x.slotWait).any (fun f => f.node.isNone && f.addr == l.addr))

/-- The writes of core `c` of die `d` that wait for a busy dead range: not acknowledged (R297). -/
def Mach.parkedWrites (m : Mach) (d c : Nat) : List DeadWrite :=
  (List.range 8).flatMap (fun x => (m.cache x).deadWaiting.filter (fun w => w.via.by_ == d && reqCore w.via.req == some c))

/-- R300: the requests of a core that hold a miss slot: fetches on their way for it, prefetches of its L1 that wait for another's fetch,
writes that wait for a dead range, and remote accesses that it has not seen answered. [DEDUCED, log 119] -/
def Mach.slotsBusy (m : Mach) (d c : Nat) : Nat :=
  (m.coreFills d c).length + (m.joinedFills d c).length + (m.parkedWrites d c).length +
    ((m.fab d).unacked.filter (fun u => u.ofCore c)).length

/-- The slots among them that the operand feeder holds. -/
def Mach.feederBusy (m : Mach) (d c : Nat) : Nat :=
  ((m.coreFills d c).filter (fun f => f.req == .feeder c)).length + ((m.fab d).unacked.filter (fun u => u.ofFeeder c)).length

/-- DC_L1_STATUS.`slots_busy` follows them. -/
def Mach.showSlots (m : Mach) (d c : Nat) : Mach := m.put Fld.dcL1Status_slots_busy d (min 256 (m.slotsBusy d c)) (c := c)

/-- The field after a fetch of a core has come or moved. -/
def Mach.showSlotsOf (m : Mach) (f : Fill) : Mach := match reqCore f.req with | some c => m.showSlots f.by_ c | none => m

/-- R301: the slots that a core holds for requests to the bank group of an address. -/
def Mach.bankGroupBusy (m : Mach) (d c a : Nat) : Nat :=
  (((m.coreFills d c).filter (fun f => f.node.isNone)).map (·.addr) ++ (m.joinedFills d c).map (·.addr) ++
    (m.parkedWrites d c).map (·.addr)).countP (fun x => bankGroup x == bankGroup a)

/-- R301: a core holds its 32 slots of the bank group of an address. -/
def Mach.bankCapped (m : Mach) (d c a : Nat) : Bool := isStacked a && decide (32 ≤ m.bankGroupBusy d c a)

/-- R300, R301: whether a core's request may take a slot: 256 of them, 32 kept for the feeder, 32 to one bank group.
[DEDUCED, log 119] -/
def Mach.slotFree (m : Mach) (d c : Nat) (req : Requester) (a : Nat) : Bool :=
  let busy := m.slotsBusy d c
  decide (busy < 256) && (req == .feeder c || decide (busy - m.feederBusy d c < 224)) && !m.bankCapped d c a

/-- R306: the home die of an address is not being reset. -/
def Mach.homeServes (m : Mach) (a : Nat) : Bool := !(isStacked a && m.cp.resetting.testBit (homeDie a))

/-- R302: misses to the bank of an address wait in the retry buffer of its slice, so its queue is full. -/
def Mach.bankHeld (m : Mach) (a : Nat) : Bool :=
  isStacked a && (m.cache (homeDie a)).retry.any (fun f => dcSlice f.addr == dcSlice a && bankKey f.addr == bankKey a)

/-- Whether a read of the sector at `a` by die `d` comes from memory: neither its cache nor the home's nor an owner's holds it. -/
def Mach.fromMemory (m : Mach) (d a : Nat) : Bool :=
  !(m.lineAt d none a).any (fun l => l.valid.testBit (sectorIdx a)) &&
    !(m.lineAt (homeDie a) none a).any (fun l => l.valid.testBit (sectorIdx a)) &&
    nineDies.all (fun x => !(m.lineAt x none a).any (fun l => l.owned && l.valid.testBit (sectorIdx a)))

/-- R302: a miss finds its bank's queue full: it enters the retry buffer of its slice, or goes back to its core when that is full. -/
def Mach.bankFull (m : Mach) (f : Fill) : Mach :=
  let h := homeDie f.addr
  if ((m.cache h).retry.filter (fun g => dcSlice g.addr == dcSlice f.addr)).length < 64 then
    ((m.modCache h (fun c => { c with retry := c.retry ++ [f] })).dcCnt h 22).put Fld.dcEvents_bank_hot h 1 |>.retryOcc h
  else
    let m := m.modCache f.into (fun c => { c with returned := c.returned ++ [f] })
    match reqCore f.req with
    | some c => if f.mark = .stream then m else m.cnt .dcL1Cnt f.by_ 10 (c := c)
    | none => m

/-- A miss of the requester is on its way for the sector at `a`, into its die's cache or the home's. -/
def Mach.missPending (m : Mach) (d : Nat) (req : Requester) (a : Nat) : Bool :=
  (m.fillsInto d ++ m.fillsInto (homeDie a)).any (fun f => f.mark == .missed && f.node.isNone && f.by_ == d && f.req == req && f.addr == lineBase a &&
    f.sectors.testBit (sectorIdx a))

/-- R300 to R302, R306: whether a request of die `d` for the sector at `a` may be served now. -/
def Mach.requestOpen (m : Mach) (d : Nat) (req : Requester) (a : Nat) : Bool :=
  m.homeServes a && (match reqCore req with | some c => m.slotFree d c req a | none => true) && !m.missPending d req a

/-- R301: an engine's request waits under the cap of its bank group, or no longer does (threads say so themselves). -/
def Mach.noteCap (m : Mach) (d : Nat) (req : Requester) (a : Nat) : Mach :=
  match req with
  | .vector c | .mover c | .feeder c =>
    m.modCore d c (fun x => { x with capWaits := x.capWaits.filter (fun r => r != req) ++ (if m.bankCapped d c a then [req] else []) })
  | _ => m

/-- What a request wants of a sector: its bytes, its bytes in order to change some of them, or to write all of them. -/
inductive Want where
  | read | modify | whole
  deriving DecidableEq, Repr

/-- What a write of `n` bytes wants of the sector that holds them. -/
def Want.ofWrite (n : Nat) : Want := if n = 32 then .whole else .modify

/-- A request for the sector at `a` by the way `v` is judged: served now, or it waits in its requester; a miss that must fetch from a bank
whose queue is full is counted and seen, and goes into the retry buffer (R302); its requester asks again when the sector has come.
[DESIGN CHOICE, log 120] -/
def Mach.requestGate (m : Mach) (v : Via) (a : Nat) (want : Want) : Mach × Bool :=
  let m := m.noteCap v.by_ v.req a
  if !isMemory a || (m.deadRange a).isSome || (m.grantAt v.die v.by_ v.req none a).isSome then (m, true)
  else if !m.requestOpen v.by_ v.req a then (m, false)
  else if want != .whole && m.bankHeld a && m.fromMemory v.die a then
    let write := want == .modify
    let (m, ins) := (if write then m else m.dcCnt v.die 1).demandSeen v v.die a write
    let f : Fill := { into := v.die, by_ := v.by_, addr := lineBase a, node := none, sectors := 2 ^ sectorIdx a, req := v.req,
                      mark := .missed, mirror := v.mirror, stream := ins != .mru, keep := v.keep, write }
    ((m.bankFull f).showSlotsOf f, false)
  else (m, true)

/-- The same for each sector of the bytes [a, a + n): a read, or a write of them. [DESIGN CHOICE, log 120] -/
def Mach.bytesGate (m : Mach) (v : Via) (a n : Nat) (read : Bool) : Mach × Bool :=
  (pieces a n).foldl (fun (acc : Mach × Bool) p =>
    if acc.2 then acc.1.requestGate v p.1 (if read then .read else .ofWrite p.2) else acc) (m, true)

/-- R295, R296: the sectors of [a, a + n) that lie in active dead ranges where reads fault: each is counted; none: the read may go.
[DESIGN CHOICE, log 120] -/
def Mach.deadFault (m : Mach) (a n : Nat) : Option Mach :=
  if (pieces a n).any (fun p => m.deadReadFaults p.1) then
    some ((pieces a n).foldl (fun m p => if (m.deadRange p.1).isSome then m.deadRead p.1 else m) m)
  else none

/-- R297: whether a write of [a, a + n) meets a dead range whose invalidation runs, which is then released at its end.
[DEDUCED, log 37] -/
def Mach.deadHolds (m : Mach) (a n : Nat) : Mach × Bool :=
  match (pieces a n).find? (fun p => m.deadBusy p.1) with
  | some p => (m.deadMark p.1, true)
  | none => (m, false)

/-! ### Prefetches that take a slot -/

/-- A prefetch issues; one of another module's line asks for it there. [DEDUCED, log 75] -/
def Mach.prefetchGo (m : Mach) (f : Fill) : Mach :=
  match f.node with
  | none => (m.issuePrefetch f).showSlotsOf f
  | some n =>
    if m.prefetchMoot f.into f.node f.addr then m
    else ((m.issuePrefetch f).remoteSend f.into n (.read f.addr 128) .fill f.addr).showSlotsOf f

/-- R299 to R301: a core's prefetch into a die cache takes a miss slot, or waits for one. [DEDUCED, log 75] -/
def Mach.corePrefetch (m : Mach) (d c into : Nat) (node : Option Nat) (a : Nat) (req : Requester) (mirror : Bool) : Mach :=
  let f := lineFill into d node a req .explicit mirror
  if m.prefetchMoot into node a then m
  else if m.slotFree d c req a then m.prefetchGo f
  else m.modCore d c (fun x => { x with slotWait := x.slotWait ++ [f] })

/-- R301: the oldest waiting request of a core that may, takes a slot and issues. -/
def Mach.slotIssue (m : Mach) (d c : Nat) : Mach :=
  match (m.core d c).slotWait.find? (fun f => m.slotFree d c f.req f.addr) with
  | none => m
  | some f =>
    let m := (m.modCore d c (fun x => { x with slotWait := x.slotWait.erase f })).prefetchGo f
    (if (m.fillsInto f.into).any (fun g => g.addr == f.addr && g.node == f.node) then m else m.l1Settle d f.addr).showSlots d c

/-- R298, R299: an L1 prefetch of a coherent line by core `c`, unless the L1 holds it, a prefetch of it is in flight, or it lies in
a dead range: at once from the die's cache, or by way of a fetch into it, which takes a miss slot or waits for one (R300).
[DESIGN CHOICE, log 34; DEDUCED, log 75] -/
def Mach.l1Prefetch (m : Mach) (d c a : Nat) (mirror : Bool) : Mach :=
  if (m.l1At d c a).isSome || (m.core d c).l1Fills.any (fun l => l.addr == lineBase a) || !isMemory a ||
      (m.deadRange (lineBase a)).isSome || m.get Fld.dcL1Status_ways d (c := c) = 0 then m
  else
    let m := m.cnt .dcL1Cnt d 5 (c := c)
    match (m.lineAt d none a).filter (fun l => l.valid != 0) with
    | some line => (m.touchLine d none a).l1Insert d c a line.valid .explicit
    | none =>
      let free := m.slotFree d c (.thread c) a
      let m := m.modCore d c (fun x => { x with l1Fills := x.l1Fills ++ [{ addr := lineBase a, valid := 0xF, mark := .explicit }] })
      let f := lineFill d d none a (.thread c) .demand mirror
      if free then (if m.presentOrInFlight d none a then m.showSlots d c else m.prefetchGo f)
      else m.modCore d c (fun x => { x with slotWait := x.slotWait ++ [f] })

end Sys2Proof.Machine
end

