-- ==== Sys2Proof/Machine/Xlat.lean ====
section
/-! DEFINITION. Translation of core-thread virtual addresses (R312, R314 to R318), the classes of memory (spec/10), and the
accesses of engines to virtual addresses. -/

namespace Sys2Proof.Machine

/-- What an access wants of a page (R316). -/
inductive AccKind where
  | read | write | fetch
  deriving DecidableEq, Repr

/-- Why a translation does not come (R316): an access fault, a table entry that carries poison, or a table read that waits at `a` (R302,
R306). -/
inductive XlatFail where
  | access | poison
  | wait (a : Nat)
  deriving DecidableEq, Repr

/-- Where a translated address leads: coherent memory (with its mirrored and pin-eligible attributes), a remote node's
offset, or a register window. -/
inductive Target where
  | coherent (pa : Nat) (mirror pinOk : Bool)
  | remote (node offset : Nat)
  | register (pa : Nat)
  deriving DecidableEq, Repr

/-- Table 11.2: the index of a level in a virtual address. -/
def levelIndex (level va : Nat) : Nat :=
  match level with
  | 3 => bitsOf va 47 39
  | 2 => bitsOf va 38 30
  | 1 => bitsOf va 29 21
  | _ => bitsOf va 20 16

/-- Table 11.2: the page size of a leaf at a level. -/
def leafSize (level : Nat) : Nat :=
  match level with
  | 2 => 2 ^ 30
  | 1 => 2 ^ 21
  | _ => 2 ^ 16

/-- Table 11.2: the virtual range that one entry of a level covers. -/
def entrySpan (level : Nat) : Nat := if level = 3 then 2 ^ 39 else leafSize level

/-- R316: the conditions on a leaf entry alone. -/
def leafOk (ownNode pte size : Nat) : Bool :=
  let addr := bitsOf pte 47 12 * 4096
  let cls := bitsOf pte 6 5
  let node := bitsOf pte 61 48
  let spread := bitOf pte 10
  let mirror := bitOf pte 8
  bitsOf pte 63 62 == 0 && !bitOf pte 11 && addr % size == 0 && cls != 3 && (cls == 1 || node == 0) &&
    !(cls == 1 && node == ownNode) &&
    !((spread || mirror) && !(cls == 0 && decide (addr + size ≤ 2 ^ 41))) && !(spread && mirror) &&
    !(bitOf pte 7 && bitOf pte 3) && !(spread && decide (2 ^ 41 ≤ addr))

/-- R316: a leaf permits an access of a kind. [DEDUCED, log 30] -/
def leafPermits (pte : Nat) : AccKind → Bool
  | .read => bitOf pte 2
  | .write => bitOf pte 3
  | .fetch => bitOf pte 4

/-- The target a byte of a leaf's page leads to (R312, R366): register windows are register class always. -/
def leafTarget (pte off : Nat) : Option Target :=
  let addr := bitsOf pte 47 12 * 4096
  match bitsOf pte 6 5 with
  | 0 =>
    let pa := if bitOf pte 10 then spreadAddr (addr + off) else addr + off
    if isMemory pa then some (.coherent pa (bitOf pte 8) (bitOf pte 9))
    else if 0x80000000000 ≤ pa ∧ pa < 0x80900000000 then some (.register pa) else none
  | 1 => some (.remote (bitsOf pte 61 48) (addr + off))
  | _ => some (.register (addr + off))

/-- What an engine's access gives: bytes with marks, a wait, a failed translation or access, or a
load that is dead because its node is lost. -/
inductive EngRes where
  | ok (bs : List (Byte × Bool))
  | wait
  | fault
  | poisonedTable
  | lost
  deriving DecidableEq, Repr

/-- A read of coherent memory as any requester's: it may wait (R302, R306), and fault in a dead range (R296). -/
def Mach.tableRead (m : Mach) (v : Via) (a n : Nat) : Mach × EngRes :=
  match m.deadFault a n with
  | some m => (m, .fault)
  | none =>
    match m.bytesGate v a n true with
    | (m, false) => (m, .wait)
    | (m, true) => let (m, bs) := m.readBytes v a n; (m, .ok bs)

/-- R314, R317: walk the tables from a level down; every entry is a coherent load of the die's cache, and a core (`c`) keeps the pointers
that it has read. -/
def Mach.walkFrom (m : Mach) (v : Via) (c : Option Nat) (table va : Nat) : Nat → Mach × Except XlatFail (Nat × Nat)
  | 0 => (m, .error .access)
  | fuel + 1 =>
    let level := fuel
    let at_ := table + 8 * levelIndex level va
    match m.tableRead v at_ 8 with
    | (m, .wait) => (m, .error (.wait at_))
    | (m, .ok bs) =>
    let pte := ofBytes (plain bs)
    if anyPoison bs then (m, .error .poison)
    else if !bitOf pte 0 then (m, .error .access)
    else if bitOf pte 1 then
      (if level = 3 then (m, .error .access) else (m, .ok (pte, leafSize level)))
    else if level = 0 then (m, .error .access)
    else if !isMemory (bitsOf pte 47 12 * 4096) then (m, .error .access)
    else
      let next := bitsOf pte 47 12 * 4096
      let m := match c with
        | some c => m.modCore v.die c (fun x =>
            { x with walks := ⟨level - 1, va / entrySpan level * entrySpan level, next⟩ :: x.walks })
        | none => m
      m.walkFrom v c next va fuel
    | (m, _) => (m, .error .access)

/-- A walk from the root of die `d`'s partition (CFG_XLAT_ROOT), for the die itself. [DEDUCED, log 30] -/
def Mach.walk (m : Mach) (d va : Nat) : Mach × Except XlatFail (Nat × Nat) :=
  if m.flag Fld.cfgXlatRoot_valid d ∧ isMemory (m.get Fld.cfgXlatRoot_root d * 4096) then
    m.walkFrom (Via.engine d) none (m.get Fld.cfgXlatRoot_root d * 4096) va 4
  else (m, .error .access)

/-- The pointer nearest the leaf that a core's walker keeps for an address (R317). -/
def Core.walkPtr (x : Core) (va : Nat) : Option WalkPtr :=
  (x.walks.filter (fun p => decide (p.va ≤ va) && decide (va < p.va + entrySpan (p.level + 1)))).foldl (fun best p =>
    match best with
    | none => some p
    | some b => if p.level < b.level then some p else some b) none

/-- A walk of core `c`: from the nearest pointer that it keeps, else from the root (R317). [DEDUCED, log 30] -/
def Mach.coreWalk (m : Mach) (d c va : Nat) : Mach × Except XlatFail (Nat × Nat) :=
  let v := viaOf d (.thread c) false
  match (m.core d c).walkPtr va with
  | some p => m.walkFrom v (some c) p.table va (p.level + 1)
  | none =>
    if isMemory (m.get Fld.cfgXlatRoot_root d * 4096) then m.walkFrom v (some c) (m.get Fld.cfgXlatRoot_root d * 4096) va 4
    else (m, .error .access)

/-- R316: judge a leaf for an access. -/
def Mach.judgeLeaf (m : Mach) (d va pte size : Nat) (k : AccKind) : Except XlatFail Target :=
  if leafOk (m.node d) pte size && leafPermits pte k then
    match leafTarget pte (va % size) with
    | some t => .ok t
    | none => .error .access
  else .error .access

/-- Translate for core `c` of die `d`: none while translation is not enabled (R343); a cached translation of the core when it has one
(R317), else a walk, which is then cached. -/
def Mach.translate (m : Mach) (d c va : Nat) (k : AccKind) : Mach × Except XlatFail Target :=
  if 2 ^ 48 ≤ va ∨ 0xFF0000000000 ≤ va ∨ m.flag Fld.cfgXlatRoot_valid d = false then (m, .error .access)
  else
    match (m.core d c).tlb.find? (fun e => decide (e.va ≤ va) && decide (va < e.va + e.size)) with
    | some e => (m, m.judgeLeaf d va e.pte e.size k)
    | none =>
      match m.coreWalk d c va with
      | (m, .error f) => (m, .error f)
      | (m, .ok (pte, size)) =>
        let m := m.modCore d c (fun x => { x with tlb := ⟨va / size * size, size, pte⟩ :: x.tlb })
        (m, m.judgeLeaf d va pte size k)

/-- Translate for a die's own engine (the collective engine, the pin unit): a walk each time. -/
def Mach.translateDie (m : Mach) (d va : Nat) (k : AccKind) : Mach × Except XlatFail Target :=
  if 2 ^ 48 ≤ va ∨ 0xFF0000000000 ≤ va then (m, .error .access)
  else
    match m.walk d va with
    | (m, .error f) => (m, .error f)
    | (m, .ok (pte, size)) => (m, m.judgeLeaf d va pte size k)

/-! ### Engines -/

/-- An engine of a core or the die's collective engine: the die, the core (none for the collective engine), the requester,
the keep hint, the queue and descriptor it works for, and whether it reads remote memory through the die cache's
remote-class lines (the vector engine) or always from the home module (R276). -/
structure Eng where
  die : Nat
  core : Option Nat
  req : Requester
  keep : Bool
  queue : Nat
  seq : Nat
  viaCache : Bool
  deriving DecidableEq, Repr

/-- What an engine's remote accesses serve: its descriptor. -/
def Eng.for_ (e : Eng) : RemoteFor := .engine (e.core.getD 0) e.queue e.seq

/-- R366, R551: an offset on another module is of the register class (fabric space 10), which no engine may access. -/
def registerOffset (o : Nat) : Bool := decide (0x80000000000 ≤ o)

/-- The way an engine's accesses take through the die's cache; its descriptor is not complete before its writes are visible. -/
def Eng.via (e : Eng) (mirror : Bool) : Via :=
  { viaOf e.die e.req mirror with keep := e.keep, for_ := e.for_ }

/-- Translate for an engine. -/
def Mach.engTranslate (m : Mach) (e : Eng) (va : Nat) (k : AccKind) : Mach × Except XlatFail Target :=
  match e.core with
  | some c => m.translate e.die c va k
  | none => m.translateDie e.die va k

/-- The remote-class line sector of the die's cache, when it hits (R275, R279). -/
def Mach.remoteHit (m : Mach) (d node a : Nat) : Option (List Byte × Bool) :=
  (m.lineAt d (some node) a).bind (fun l =>
    if l.epoch = m.get Fld.dcStatus_remote_epoch d ∧ l.valid.testBit (sectorIdx a) then
      some (l.sector (sectorIdx a), l.poison.testBit (sectorIdx a)) else none)

/-- R288: the slice prefetches ahead of a stream access of another module's memory. -/
def Mach.remoteAhead (m : Mach) (d : Nat) (req : Requester) (node a : Nat) (stream : Bool) : Mach :=
  let n := m.get Fld.dcCfg_dc_pf_distance d
  let ahead := lineBase a + 128 * n
  if stream && n != 0 && isStacked ahead && !m.isLost d node then m.prefetchGo (lineFill d d (some node) ahead req .stream false) else m

/-- A requester of die `d` finds the remote-class sector at `a` of a node in the die's cache, or it has come for it. -/
def Mach.remoteReady (m : Mach) (d : Nat) (req : Requester) (node a : Nat) : Bool :=
  (m.grantAt d d req (some node) a).isSome || (m.remoteHit d node a).isSome

/-- A demand read of the remote-class sector at `a` of a node by a requester of die `d` (R276, R287, R288, R293, R299): what has come for
it, what the die's cache holds, or a miss; and whether it is a stream access, which prefetches ahead. [DEDUCED, log 74] -/
def Mach.remoteDemand (m : Mach) (d : Nat) (req : Requester) (node a : Nat) : Mach × Option (List Byte × Bool) × Bool :=
  match (m.grantAt d d req (some node) a).bind (·.data) with
  | some x => (m.takeGrant d d req (some node) a, some x, false)
  | none =>
    let (m, stream) := m.clove d d req (some node) a
    let hit := m.remoteHit d node a
    let mark := ((m.lineAt d (some node) a).map (·.mark)).getD .demand
    let m := match hit with
      | some _ => ((m.dcCnt d 4).noteUseful d (some node) a mark).touchLine d (some node) a
      | none => ((m.dcCnt d 5).noteLate d (some node) a).notePressure d a
    (m.remoteAhead d req node a stream, hit, stream)

/-- A write of remote-class memory passes the slice of its die: Clove sees it, a prefetch of its line is late or useful, a stream access
prefetches ahead (R288, R299). -/
def Mach.remoteWriteSeen (m : Mach) (d : Nat) (req : Requester) (node a : Nat) : Mach :=
  let (m, stream) := m.clove d d req (some node) a
  let mark := ((m.lineAt d (some node) a).map (fun (l : Line) => l.mark)).getD .demand
  let m := match m.remoteHit d node a with
    | some _ => (m.noteUseful d (some node) a mark).touchLine d (some node) a
    | none => m.noteLate d (some node) a
  m.remoteAhead d req node a stream

/-- R277: the die's remote-class copy of a sector takes a store too. -/
def Mach.remoteUpdate (m : Mach) (d : Nat) (req : Requester) (node off : Nat) (bs : List Byte) (poison : Bool) : Mach :=
  let m := m.remoteWriteSeen d req node off
  match m.remoteHit d node off with
  | some _ => m.modLine d (some node) off (fun l =>
      let l := l.splice (off % 128) bs
      { l with poison := if poison then maskBit l.poison (sectorIdx off) true
                         else if bs.length = 32 then maskBit l.poison (sectorIdx off) false else l.poison })
  | none => m

/-- R278: the die's remote-class copy of a sector goes when an atomic or accumulate store to it is sent. -/
def Mach.remoteForget (m : Mach) (d : Nat) (req : Requester) (node off : Nat) : Mach :=
  (m.remoteWriteSeen d req node off).modLine d (some node) off (fun l => { l with valid := maskBit l.valid (sectorIdx off) false })

/-- What has come back for an engine's descriptor that does not read by way of the die's cache (R276). -/
def Mach.engBuffered (m : Mach) (e : Eng) (node a : Nat) : Option (List Byte × Bool) :=
  ((m.core e.die (e.core.getD 0)).engBuf.find? (fun s =>
    s.queue == e.queue && s.seq == e.seq && s.node == node && s.addr == a)).map (fun s => (s.data, s.poison))

/-- One sector of remote memory for an engine: there (in the die cache's remote-class lines for the vector engine, or come back for this
descriptor); otherwise the request is sent once and the engine waits. None: it is there. -/
def Mach.engRemoteAsk (m : Mach) (e : Eng) (node a va : Nat) : Mach × Option EngRes :=
  let for_ := e.for_
  let asked := ((m.fab e.die).unacked ++ (m.fab e.die).waiting).any (fun u => u.node == node && u.req == .read a 32 && u.for_ == for_)
  if if e.viaCache then m.remoteReady e.die e.req node a else (m.engBuffered e node a).isSome then (m, none)
  else if registerOffset a || m.requestRefused e.die node (.read a 32) then (m, some .fault)
  else if (m.die e.die).engineBad.contains (e.core.getD 0, e.queue, e.seq) then (m, some .fault)
  else if m.isLost e.die node then
    let u : Unacked :=
      { node, seq := 0, req := .read a 32, for_, va, at_ := 0, dead := true, stream := false }
    (m.abandon e.die u, some .lost)
  else if asked || e.core.any (fun c => !m.slotFree e.die c e.req (2 ^ 48)) then (m, some .wait)
  else
    let (m, stream) := if e.viaCache then (let (m, _, s) := m.remoteDemand e.die e.req node a; (m, s)) else (m, false)
    (m.remoteSend e.die node (.read a 32) for_ va stream, some .wait)

/-- That sector once it is there. -/
def Mach.engRemoteTake (m : Mach) (e : Eng) (node a : Nat) : Mach × List (Byte × Bool) :=
  let (m, x) := if e.viaCache then (let (m, x, _) := m.remoteDemand e.die e.req node a; (m, x)) else (m, m.engBuffered e node a)
  match x with
  | some (bs, p) => (m, bs.map (fun b => (b, p)))
  | none => (m, List.replicate 32 (0#8, true))

/-- One piece (inside one sector) of an engine's read of virtual memory is asked for: where it is, once it is there. An engine that a dead
load holds gets nothing more (R375). -/
def Mach.engAsk (m : Mach) (e : Eng) (va n : Nat) : Mach × Except EngRes Target :=
  if (m.core e.die (e.core.getD 0)).deadEng.contains (e.queue, e.seq) then (m, .error .lost)
  else match m.engTranslate e va .read with
  | (m, .error .access) => (m, .error .fault)
  | (m, .error .poison) => (m, .error .poisonedTable)
  | (m, .error (.wait _)) => (m, .error .wait)
  | (m, .ok (.register _)) => (m, .error .fault)
  | (m, .ok (.coherent pa mirror o)) =>
    (match m.deadFault pa n with
    | some m => (m, .error .fault)
    | none => match m.requestGate (e.via mirror) pa .read with
      | (m, false) => (m, .error .wait)
      | (m, true) => (m, .ok (.coherent pa mirror o)))
  | (m, .ok (.remote node off)) =>
    match m.engRemoteAsk e node (off / 32 * 32) va with
    | (m, some r) => (m, .error r)
    | (m, none) => (m, .ok (.remote node off))

/-- What the pieces asked for up to now give, with the next: a failure stands, and a piece that waits makes the read wait. -/
def joinAsks (acc : Except EngRes (List (Target × Nat))) (n : Nat) (r : Except EngRes Target) : Except EngRes (List (Target × Nat)) :=
  match acc, r with
  | .ok l, .ok t => .ok (l ++ [(t, n)])
  | .ok _, .error e => .error e
  | .error .wait, .error e => .error e
  | .error e, _ => .error e

/-- The bytes of a piece that is there. -/
def Mach.engTake (m : Mach) (e : Eng) (t : Target) (n : Nat) : Mach × List (Byte × Bool) :=
  match t with
  | .coherent pa mirror _ => m.readBytes (e.via mirror) pa n
  | .remote node off => let (m, bs) := m.engRemoteTake e node (off / 32 * 32); (m, (bs.drop (off % 32)).take n)
  | .register _ => (m, [])

/-- An engine's read of `n` bytes at a virtual address, sector by sector (R551: a register-class page is a fault): every sector is asked for
before one is taken. -/
def Mach.engRead (m : Mach) (e : Eng) (va n : Nat) : Mach × EngRes :=
  let (m, ts) := (pieces va n).foldl (fun (acc : Mach × Except EngRes (List (Target × Nat))) p =>
    match acc.2 with
    | .ok _ | .error .wait => let (m, r) := acc.1.engAsk e p.1 p.2; (m, joinAsks acc.2 p.2 r)
    | .error r => (acc.1, .error r)) (m, .ok [])
  match ts with
  | .error r => (m, r)
  | .ok ts =>
    let (m, bs) := ts.foldl (fun (acc : Mach × List (Byte × Bool)) x => let (m, bs) := acc.1.engTake e x.1 x.2; (m, acc.2 ++ bs)) (m, [])
    (m, .ok bs)

/-- Whether an engine may write a virtual range: every page translates for writing to coherent or remote memory, and its requests find
slots, banks and homes that serve (R300 to R302, R306); `acc`: by accumulate writes, which go to the home. -/
def Mach.engCanWrite (m : Mach) (e : Eng) (va n : Nat) (acc : Bool := false) : Mach × Option EngRes :=
  (pieces va n).foldl (fun (st : Mach × Option EngRes) p =>
    match st.2 with
    | some r => (st.1, some r)
    | none =>
      match st.1.engTranslate e p.1 .write with
      | (m, .error .access) => (m, some .fault)
      | (m, .error .poison) => (m, some .poisonedTable)
      | (m, .error (.wait _)) => (m, some .wait)
      | (m, .ok (.register _)) => (m, some .fault)
      | (m, .ok (.coherent pa mirror _)) =>
        (match if acc then m.requestGate ((e.via mirror).atHome pa) pa .modify else m.requestGate (e.via mirror) pa (.ofWrite p.2) with
        | (m, true) => (m, none)
        | (m, false) => (m, some .wait))
      | (m, .ok (.remote node off)) =>
        (m, if registerOffset off || m.requestRefused e.die node (.write off [] false) then some .fault
            else if e.core.any (fun c => !m.slotFree e.die c e.req (2 ^ 48)) then some .wait else none)) (m, none)

/-- One piece of an engine's write; `width` 0 a plain write, else an accumulate write of elements of that many bytes. -/
def Mach.engWritePiece (m : Mach) (e : Eng) (va : Nat) (bs : List (Byte × Bool)) (width : Nat) : Mach :=
  match m.engTranslate e va .write with
  | (m, .ok (.coherent pa mirror _)) => m.writeSector (e.via mirror) pa (plain bs) (anyPoison bs) width
  | (m, .ok (.remote node off)) =>
    let op : RemoteOp := if width = 0 then .write off (plain bs) (anyPoison bs) else .acc off width (plain bs) (anyPoison bs)
    let m := if width = 0 then m.remoteUpdate e.die e.req node off (plain bs) (anyPoison bs) else m.remoteForget e.die e.req node off
    m.remoteSend e.die node op e.for_ va
  | (m, _) => m

/-- An engine's write of bytes with marks at a virtual address (checked before with `engCanWrite`). -/
def Mach.engWrite (m : Mach) (e : Eng) (va : Nat) (bs : List (Byte × Bool)) (width : Nat := 0) : Mach :=
  (pieces va bs.length).foldl (fun m p => m.engWritePiece e p.1 ((bs.drop (p.1 - va)).take p.2) width) m

/-- Writes of a descriptor that are not visible yet: remote ones not acknowledged, and ones that wait for a dead range (R284). -/
def Mach.engOutstanding (m : Mach) (d c q seq : Nat) : Bool :=
  m.writesHeld (fun w => w.via.by_ == d && w.via.for_ == .engine c q seq) || ((m.fab d).unacked ++ (m.fab d).waiting).any (fun u => u.for_ == .engine c q seq && (match u.req with
    | .write _ _ _ | .acc _ _ _ _ | .msg _ _ _ => true
    | _ => false))

end Sys2Proof.Machine
end

