-- ==== Sys2Proof/Machine/Queues.lean ====
section
/-! DEFINITION. Queues and descriptors (spec/08): credits and stalled pushes, the common header, waits, completion records
and counters, launches and the end of a block. -/

namespace Sys2Proof.Machine

/-! ### Descriptor words -/

/-- Bits [hi:lo] of word `w` of a descriptor. -/
def wbits (ws : List Nat) (w hi lo : Nat) : Nat := bitsOf (ws.getD w 0) hi lo

/-- Table 8.2: the header fields. -/
def hTag (ws : List Nat) : Nat := wbits ws 0 63 32
def hWaitCtr (ws : List Nat) : Nat := wbits ws 0 31 20
def hDoneCtr (ws : List Nat) : Nat := wbits ws 0 19 8
def hType (ws : List Nat) : Nat := wbits ws 0 7 4
def hWaitEn (ws : List Nat) : Bool := wbits ws 0 3 3 = 1
def hWaitVal (ws : List Nat) : Nat := wbits ws 1 31 0

/-- The 64-bit words of a run of bytes. -/
def wordsOf (bs : List Byte) : Nat → List Nat
  | 0 => []
  | n + 1 => ofBytes (bs.take 8) :: wordsOf (bs.drop 8) n

/-- A check of one field (R212): the descriptor bit of its lowest bit, and whether it is within its range. -/
abbrev FieldCheck := Nat × Bool

/-- The lowest bit of the first offending field in ascending bit order (R212). -/
def firstBad (cs : List FieldCheck) : Option Nat :=
  (cs.filter (fun c => !c.2)).foldl (fun acc c => match acc with
    | none => some c.1
    | some b => some (min b c.1)) none

/-- A reserved range: every non-zero bit of it is an offending field by itself (R212). -/
def reservedChecks (ws : List Nat) (w hi lo : Nat) : List FieldCheck :=
  (List.range (hi + 1 - lo)).map (fun i => (64 * w + lo + i, !(ws.getD w 0).testBit (lo + i)))

/-- The checks of the header of Table 8.2 for a queue whose descriptors have type `ty`. -/
def headerChecks (ws : List Nat) (ty : Nat) : List FieldCheck := (4, hType ws == ty) :: reservedChecks ws 0 2 0

/-! ### Credits -/

/-- Table 8.1: the depth of a queue (0 array, 1 vector, 2 mover, 3 collective). -/
def queueDepth (q : Nat) : Nat := match q with | 0 => 32 | 1 => 32 | 2 => 64 | _ => 128

/-- The occupancy that the status registers show. -/
def Mach.showOcc (m : Mach) (d c q : Nat) : Mach :=
  let n := (m.queue d c q).length
  match q with
  | 0 => m.put Fld.cqStatus_array_occ d n (c := c)
  | 1 => m.put Fld.cqStatus_vector_occ d n (c := c)
  | 2 => m.put Fld.cqStatus_mover_occ d n (c := c)
  | _ => m.put Fld.cqColStatus_col_occ d n

/-- R210: the next sequence number of a queue. -/
def Mach.nextSeq (m : Mach) (d c q : Nat) : Nat :=
  if q = 3 then m.get Fld.cqColStatus_pushed d else m.get Fld.cqSeq_pushed d q c

/-- R207, R210: enqueue a descriptor; its sequence number is returned. -/
def Mach.enqueue (m : Mach) (d c q : Nat) (ws : List Nat) : Mach × Nat :=
  let seq := m.nextSeq d c q
  let m := m.modQueue d c q (fun l => l ++ [{ seq, words := ws, core := c, waiting := false, released := false, started := false }])
  let m := if q = 3 then m.put Fld.cqColStatus_pushed d (seq + 1)
    else (m.put Fld.cqSeq_pushed d (seq + 1) q c).cnt .cqCnt d 0 (c := c)
  (m.showOcc d c q, seq)

/-- The pushes that wait for a credit of a queue, in attempt order. -/
def Mach.stallsOf (m : Mach) (d c q : Nat) : List StalledPush :=
  if q = 3 then (m.die d).colStalls else (m.core d c).stalls.getD q []

def Mach.modStalls (m : Mach) (d c q : Nat) (f : List StalledPush → List StalledPush) : Mach :=
  if q = 3 then m.modDie d (fun x => { x with colStalls := f x.colStalls })
  else m.modCore d c (fun x => { x with stalls := x.stalls.modify q f })

/-- R207: the credits of a queue in use: descriptors, and credits given to pushes that have still to retire. -/
def Mach.creditsUsed (m : Mach) (d c q : Nat) : Nat :=
  (m.queue d c q).length + ((m.stallsOf d c q).filter (·.granted)).length

/-- R208, R209: stalled pushes take returned credits in attempt order; a push that has one tries again, and copies its descriptor when it
retires. -/
def Mach.grantCredits (m : Mach) (d c q : Nat) : Nat → Mach
  | 0 => m
  | fuel + 1 =>
    match (m.stallsOf d c q).find? (fun p => !p.granted) with
    | none => m
    | some p =>
      if m.creditsUsed d c q < queueDepth q then
        let m := m.modStalls d c q (fun l => l.map (fun x => if x = p then { x with granted := true } else x))
        (m.modThread d p.who (fun t => { t with wait := .held .again })).grantCredits d c q fuel
      else m

/-! ### Waits -/

/-- Change a descriptor of a queue by its sequence number. -/
def Mach.modDesc (m : Mach) (d c q seq : Nat) (f : Desc → Desc) : Mach :=
  m.modQueue d c q (fun l => l.map (fun x => if x.seq = seq then f x else x))

/-- R212, R213: whether the oldest descriptor, found valid, may start: no wait, or released by its counter. When its wait has not arrived
yet it arrives now; a value already reached releases it at once. What has been released is not validated again. -/
def Mach.waitDone (m : Mach) (d c q : Nat) (x : Desc) : Mach × Bool :=
  if x.released then (m, true)
  else if x.waiting then (m, false)
  else if !hWaitEn x.words then (m.modDesc d c q x.seq (fun y => { y with released := true }), true)
  else
    let m := (m.modDesc d c q x.seq (fun y => { y with waiting := true })).showWait d c q
    let m := m.ctrWait d (hWaitCtr x.words) (hWaitVal x.words) false (.desc c q x.seq)
    (m, ((m.queue d c q).find? (fun y => y.seq == x.seq)).any (·.released))

/-- Mark a descriptor as started. [DEDUCED, log 57] -/
def Mach.startDesc (m : Mach) (d c q seq : Nat) : Mach :=
  (m.modDesc d c q seq (fun y => { y with started := true })).showWait d c q

/-! ### Completion -/

/-- Table 8.11: the status codes of the data-plane queues. -/
def stOk : Nat := 0x00
def stFieldRange : Nat := 0x01
def stTileSequence : Nat := 0x02
def stPoisoned : Nat := 0x03
def stAccRead : Nat := 0x04
def stOcRange : Nat := 0x05
def stScaleEntry : Nat := 0x06
def stZmapRange : Nat := 0x07
def stIllegal : Nat := 0x08
def stMemAccess : Nat := 0x09
def stPeerLost : Nat := 0x0A
def stLaunchFaults : Nat := 0x0B

/-- Table 8.10: the words of a completion record. -/
def recordWords (tag seq status type : Nat) (bad : Option Nat) (info0 info1 ft : Nat) : List Nat :=
  [tag * 2 ^ 32 + seq % 2 ^ 32,
   status * 2 ^ 56 + type * 2 ^ 52 + (match bad with | some b => 2 ^ 51 + b * 2 ^ 41 | none => 0) + info0 % 2 ^ 32,
   info1 % 2 ^ 64, ft % 2 ^ 64]

/-- Write words to memory through a die's cache. -/
def Mach.writeWords (m : Mach) (d a : Nat) (ws : List Nat) : Mach :=
  m.writeBytes (Via.engine d) a ((ws.flatMap (toBytes 8)).map (fun b => (b, false)))

/-- The ring of a queue: base, log2 of its entries, whether it is enabled. -/
def Mach.ring (m : Mach) (d c q : Nat) : Nat × Nat × Bool :=
  if q = 3 then (m.get Fld.cqColRingBase_base d * 32, m.get Fld.cqColRingCfg_log2_entries d, m.flag Fld.cqColRingCfg_enable d)
  else (m.get Fld.cqRingBase_base d q c * 32, m.get Fld.cqRingCfg_log2_entries d q c, m.flag Fld.cqRingCfg_enable d q c)

/-- R232, R233: a descriptor of a queue completes: the record (or `ring_off`), the counters, its credit, the increment of
`done_ctr`, and the stalled push that takes the credit. -/
def Mach.complete (m : Mach) (d c q : Nat) (x : Desc) (status : Nat) (bad : Option Nat) (info0 info1 : Nat) : Mach :=
  let (base, lg, en) := m.ring d c q
  let at_ := base + 32 * (x.seq % 2 ^ lg)
  let words := recordWords (hTag x.words) x.seq status (q + 1) bad info0 info1 (m.ft d)
  let src := srcDone (coreNum d x.core) q
  let held := en && !m.homeServes at_
  let m :=
    if held then m.modDie d (fun k => { k with heldRecs := k.heldRecs ++ [{ addr := at_, words, ctr := some (d, hDoneCtr x.words, src) }] })
    else if en then m.writeWords d at_ words
    else if q = 3 then m.ev Fld.cqDieEvents_ring_off d
    else (m.ev Fld.cqEvents_ring_off d (c := c)).cnt .cqCnt d 7 (c := c)
  let m := m.modQueue d c q (fun l => l.filter (fun y => y.seq != x.seq))
  let m :=
    if q = 3 then m
    else
      let m := (m.put Fld.cqSeq_completed d (m.get Fld.cqSeq_completed d q c + 1) q c).cnt .cqCnt d 1 (c := c)
      if status = 0 then m else (m.ev Fld.cqEvents_desc_err d (c := c)).cnt .cqCnt d 2 (c := c)
  let m := (m.showWait d c q).showOcc d c q
  let m := if held then m else m.ctrAdd1 d (hDoneCtr x.words) src
  m.grantCredits d c q 1

/-- R212: an invalid descriptor completes at once with FIELD_RANGE. -/
def Mach.completeBad (m : Mach) (d c q : Nat) (x : Desc) (bit : Nat) : Mach :=
  m.complete d c q x stFieldRange (some bit) 0 0

/-! ### Launches -/

/-- Table 8.9: the fields of kernel i of a launch. -/
def kEntry (ws : List Nat) (i : Nat) : Nat := wbits ws (4 + 3 * i) 63 16
def kWeight (ws : List Nat) (i : Nat) : Nat := wbits ws (4 + 3 * i) 15 8
def kArgs (ws : List Nat) (i : Nat) : Nat := wbits ws (5 + 3 * i) 63 16
def kThreads (ws : List Nat) (i : Nat) : Nat := wbits ws (5 + 3 * i) 15 5
def kXregs (ws : List Nat) (i : Nat) : Nat := wbits ws (5 + 3 * i) 4 0
def kBlocks (ws : List Nat) (i : Nat) : Nat := wbits ws (6 + 3 * i) 63 32
def kFregs (ws : List Nat) (i : Nat) : Nat := wbits ws (6 + 3 * i) 31 26
def kLs (ws : List Nat) (i : Nat) : Nat := wbits ws (6 + 3 * i) 25 16
def lCtrDie (ws : List Nat) : Nat := wbits ws 1 63 61
def lCluster (ws : List Nat) : Nat := 2 ^ wbits ws 1 60 59
def lLsSize (ws : List Nat) : Nat := wbits ws 1 58 56
def lKernels (ws : List Nat) : Nat := wbits ws 1 55 54 + 1

/-- The blocks of all kernels of a launch. -/
def Launch.total (l : Launch) : Nat := ((List.range (lKernels l.words)).map (kBlocks l.words)).foldl (· + ·) 0

/-- A launch has placed every block of every kernel. -/
def Launch.allPlaced (l : Launch) : Bool :=
  (List.range (lKernels l.words)).all (fun i => decide (kBlocks l.words i ≤ l.placed.getD i 0))

/-- R230, R232, R233: a launch completes: its record in the queue's ring, `done` of LQ_HEAD, and the increment of `done_ctr`
on `ctr_die` when that die is in the partition (R227). -/
def Mach.launchDone (m : Mach) (p : Part) (lq seq : Nat) (ws : List Nat) (status : Nat) (bad : Option Nat) (faulted exited : Nat) :
    Mach :=
  let d := p.low
  let lg := m.get Fld.lqCfg_log2_entries d lq
  let at_ := m.get Fld.lqCringBase_base d lq * 32 + 32 * (seq % 2 ^ lg)
  let words := recordWords (hTag ws) seq status 5 bad (satN 32 faulted) exited (m.ft d)
  let ctr := if !ws.isEmpty && p.dieMask.testBit (lCtrDie ws) then some (lCtrDie ws, hDoneCtr ws, srcDone (coreNum (lCtrDie ws) 0) 4) else none
  let held := m.flag Fld.lqCfg_cring_en d lq && !m.homeServes at_
  let m :=
    if held then m.modDie d (fun k => { k with heldRecs := k.heldRecs ++ [{ addr := at_, words, ctr }] })
    else if m.flag Fld.lqCfg_cring_en d lq then m.writeWords d at_ words
    else m.ev Fld.cqDieEvents_ring_off d
  let m := m.put Fld.lqHead_done d (m.get Fld.lqHead_done d lq + 1) lq
  let m := m.modPart p.slot (fun x => { x with launches := x.launches.filter (fun l => !(l.lq == lq && l.seq == seq)) })
  match if held then none else ctr with
  | some (cd, n, src) => m.ctrAdd1 cd n src
  | none => m

/-- R306: the home of their rings serves again: the completion records that waited for it are written, and counted. -/
def Mach.recordsDrain (m : Mach) (d : Nat) : Mach :=
  let go := (m.die d).heldRecs.filter (fun r => m.homeServes r.addr)
  let m := m.modDie d (fun k => { k with heldRecs := k.heldRecs.filter (fun r => !m.homeServes r.addr) })
  go.foldl (fun m r =>
    let m := m.writeWords d r.addr r.words
    match r.ctr with
    | some (cd, n, src) => m.ctrAdd1 cd n src
    | none => m) m

/-- R230: the launch of a block that has ended; with its last block the launch completes. -/
def Mach.launchBlockEnd (m : Mach) (part lq seq : Nat) (faulted : Bool) : Mach :=
  let m := m.modPart part (fun x => { x with launches := x.launches.map (fun l =>
    if l.lq = lq ∧ l.seq = seq then (if faulted then { l with faulted := l.faulted + 1 } else { l with exited := l.exited + 1 }) else l) })
  match m.partAt part with
  | none => m
  | some p =>
    match p.launches.find? (fun l => l.lq == lq && l.seq == seq) with
    | none => m
    | some l =>
      if l.total ≤ l.exited + l.faulted then
        m.launchDone p lq seq l.words (if l.faulted = 0 then stOk else stLaunchFaults) none l.faulted l.exited
      else m

/-! ### The end of a block -/

/-- The groups of a block (R176). -/
def Block.groups (b : Block) : Nat := ceilDiv b.threads.length 64

/-- R181: the register bytes a group of a block occupies. -/
def groupRegBytes (xregs fregs : Nat) : Nat := roundUp (64 * (8 * xregs + 4 * fregs)) 2048

/-- Whether a group of a block has a live thread. -/
def Block.groupLive (b : Block) (g : Nat) : Bool :=
  !b.ended && ((b.threads.drop (64 * g)).take 64).any (fun t => !t.exited)

/-- TGU_STATUS follows the resident blocks of a core. -/
def Mach.tguStatus (m : Mach) (d c : Nat) : Mach :=
  let bs := (m.core d c).blocks.filter (fun b => !b.ended)
  let m := m.put Fld.tguStatus_blocks d bs.length (c := c)
  let m := m.put Fld.tguStatus_groups d
    ((bs.map (fun b => ((List.range b.groups).filter b.groupLive).length)).foldl (· + ·) 0) (c := c)
  m.put Fld.tguStatus_kernel d ((bs.head?.map (·.kernel)).getD 0) (c := c)

/-- The cores of a block's cluster. -/
def clusterCores (c : Nat) (b : Block) : List Nat := (List.range b.csize).map (fun r => c - b.crank + r)

/-- Two blocks are of one cluster. -/
def sameCluster (a b : Block) : Bool :=
  a.part == b.part && a.lq == b.lq && a.launch == b.launch && a.kernel == b.kernel && a.index / a.csize == b.index / b.csize

/-- R376: whom a response serves once the threads that satisfy `mine` are gone: their acknowledgements find no waiter. -/
def RemoteFor.without (mine : ThreadRef → Bool) : RemoteFor → RemoteFor
  | .thread r a b s f => if mine r then .none_ else .thread r a b s f
  | .store r => if mine r then .none_ else .store r
  | .retry r => if mine r then .fill else .retry r
  | .lanes ws f w => if ws.any (fun x => mine x.1) then .none_ else .lanes ws f w
  | x => x

/-- What is on its way for the threads that satisfy `mine` of die `d` serves them no more: remote accesses, writes that wait for a dead
range. -/
def Mach.disown (m : Mach) (d : Nat) (mine : ThreadRef → Bool) : Mach :=
  let m := m.modFab d (fun x =>
    { x with unacked := x.unacked.map (fun u => { u with for_ := u.for_.without mine }),
             waiting := x.waiting.map (fun u => { u with for_ := u.for_.without mine }) })
  if m.writesHeld (fun w => w.via.by_ == d) then
    (List.range 8).foldl (fun m h => m.modCache h (fun k => { k with deadWaiting := k.deadWaiting.map (fun w =>
      if w.via.by_ = d then { w with via := { w.via with for_ := w.via.for_.without mine } } else w) })) m
  else m

/-- R189: ended blocks leave their cores, local store and all, once every block of their cluster has ended; what is still on its way for
their threads finds none of the blocks that follow (R195). -/
def Mach.reapBlock (m : Mach) (d c : Nat) (b : Block) : Mach :=
  let alive := (clusterCores c b).any (fun k => (m.core d k).blocks.any (fun x => sameCluster x b && !x.ended))
  let m :=
    if alive then m
    else (clusterCores c b).foldl (fun m k =>
      let gone := ((m.core d k).blocks.filter (fun y => sameCluster y b)).map (·.slot)
      (m.disown d (fun r => r.core == k && gone.contains r.block)).modCore d k (fun x =>
        { x with blocks := x.blocks.filter (fun y => !sameCluster y b) })) m
  m.tguStatus d c

/-- A thread of a block waits at a barrier slot. -/
def slotOfWait : ThreadWait → Option (Bool × Nat)
  | .slot md s _ | .slotStall md s _ => some (md, s)
  | _ => none

/-- Everything a block's threads wait in, left at once (R195, R243, R264, R376): counter queues, stalled pushes, whose credits go on,
fences, responses, barrier slots. -/
def Mach.leaveWaits (m : Mach) (d c b : Nat) : Mach :=
  let mine (r : ThreadRef) : Bool := r.core == c && r.block == b
  let m := (List.range 4).foldl (fun m q =>
    if (m.stallsOf d c q).any (fun p => mine p.who) then
      (m.modStalls d c q (fun l => l.filter (fun p => !mine p.who))).grantCredits d c q 1024
    else m) m
  let m := (m.modFab d (fun x => { x with fences := x.fences.filter (fun f => !mine f.who) })).disown d mine
  let slots := (((m.block d c b).map (fun k => k.threads.filterMap (fun t => slotOfWait t.wait))).getD []).eraseDups
  let m := slots.foldl (fun m s => m.slotStatus d s.1 s.2) m
  m.ctrLeave d (fun w => match w with | .thread r _ => mine r | _ => false)

/-- What a block fault reports beside its cause (Table 7.7). -/
structure FaultInfo where
  thread : Nat
  pc : Nat
  addr : Nat
  barId : Nat
  waiting : Nat
  missing : Nat
  deriving DecidableEq, Repr

/-- R195: a block fault: every thread stops, the TGU registers and the record are written, the block counts as finished.
[DEDUCED, log 52] -/
def Mach.blockFault (m : Mach) (d c b cause : Nat) (i : FaultInfo) : Mach :=
  match m.block d c b with
  | none => m
  | some k =>
    if k.ended then m
    else
      let m := m.modBlock d c b (fun x => { x with ended := true, bars := [] })
      let m := m.leaveWaits d c b
      let m := m.wr .tguFaultPc d (cause * 2 ^ 56 + i.pc % 2 ^ 48) 0 c
      let m := m.wr .tguFaultBlk d (k.index * 2 ^ 32 + i.thread * 2 ^ 16) 0 c
      let m := (m.ev Fld.tguEvents_block_fault d (c := c)).cnt .tguCnt d 11 (c := c)
      let m := match cause with
        | 4 => m.ev Fld.tguEvents_poison d (c := c)
        | 5 => m.ev Fld.tguEvents_bar_mismatch d (c := c)
        | 6 => m.ev Fld.tguEvents_bar_timeout d (c := c)
        | _ => m
      let m := m.emitRec d 0x10 false (cause == 4 || cause == 7)
        [(8, cause), (8, coreNum d c), (32, k.index), (10, i.thread), (48, i.pc), (48, i.addr), (3, i.barId), (16, i.waiting),
         (16, i.missing)] false false [k.part]
      (m.launchBlockEnd k.part k.lq k.launch true).reapBlock d c k

/-- A fault of one thread at its own pc, with an address. -/
def Mach.threadFault (m : Mach) (d : Nat) (r : ThreadRef) (cause addr : Nat) : Mach :=
  let pc := ((m.thread d r).map (·.pc)).getD 0
  m.blockFault d r.core r.block cause ⟨r.thread, pc, addr, 0, 0, 0⟩

/-! ### Block barriers -/

/-- R192: an instance completes when arrivals and exited threads number its count (0: every thread of the block). -/
def Block.barDone (b : Block) (i : BarInst) : Bool :=
  let n := if i.count = 0 then b.threads.length else i.count
  decide (n ≤ i.arrived.length + (b.threads.filter (·.exited)).length)

/-- Complete every barrier instance of a block that is done. -/
def Mach.barSettle (m : Mach) (d c b : Nat) : Mach :=
  match m.block d c b with
  | none => m
  | some k =>
    let done := k.bars.filter k.barDone
    m.modBlock d c b (fun x =>
      { x with bars := x.bars.filter (fun i => !k.barDone i),
               threads := done.foldl (fun ts i => i.arrived.foldl (fun ts t => ts.modify t Thread.retire) ts) x.threads })

/-- R200, R192, R230: a thread exits; barrier instances may complete by it, its group's registers are freed with the last, and
with the last thread the block ends. -/
def Mach.threadExit (m : Mach) (d : Nat) (r : ThreadRef) : Mach :=
  let m := m.modThread d r (fun t => { t.retire with exited := true, resv := none })
  let m := m.barSettle d r.core r.block
  match m.block d r.core r.block with
  | none => m
  | some k =>
    if k.threads.all (·.exited) then
      let m := m.modBlock d r.core r.block (fun x => { x with ended := true })
      (m.launchBlockEnd k.part k.lq k.launch false).reapBlock d r.core k
    else m.tguStatus d r.core

end Sys2Proof.Machine
end

