-- ==== Sys2Proof/Machine/Array.lean ====
section
/-! DEFINITION. The matrix array (spec/04): descriptors and their validation, operands, the cell operation and the checksum
lanes, planes and spill store, tiles from opening to release, recompute and fence. -/

namespace Sys2Proof.Machine

/-! ### State accessors -/

/-- The array of a core. -/
def Mach.arr (m : Mach) (d c : Nat) : ArrSt := (m.core d c).arr

/-- Change the array of a core. -/
def Mach.modArr (m : Mach) (d c : Nat) (f : ArrSt → ArrSt) : Mach := m.modCore d c (fun x => { x with arr := f x.arr })

/-- Table 4.2: the states of a plane and of the spill store. -/
def plFree : Nat := 0
def plAccum : Nat := 1
def plSpill : Nat := 2
def plCheck : Nat := 3
def plReleased : Nat := 4

/-- The state of plane 0 or 1. -/
def Mach.planeState (m : Mach) (d c p : Nat) : Nat :=
  if p = 0 then m.get Fld.arrStatus_plane0_state d (c := c) else m.get Fld.arrStatus_plane1_state d (c := c)

def Mach.setPlaneState (m : Mach) (d c p s : Nat) : Mach :=
  if p = 0 then m.put Fld.arrStatus_plane0_state d s (c := c) else m.put Fld.arrStatus_plane1_state d s (c := c)

/-- The state of the spill store. -/
def Mach.storeState (m : Mach) (d c : Nat) : Nat := m.get Fld.arrStatus_store_state d (c := c)

def Mach.setStoreState (m : Mach) (d c s : Nat) : Mach := m.put Fld.arrStatus_store_state d s (c := c)

/-- Plane p of an array. -/
def ArrSt.plane (a : ArrSt) (p : Nat) : ArrPlane := a.planes.getD p ArrPlane.init

/-- Change plane p. -/
def Mach.modPlane (m : Mach) (d c p : Nat) (f : ArrPlane → ArrPlane) : Mach :=
  m.modArr d c (fun a => { a with planes := a.planes.modify p f })

/-- Change the tile of a name. -/
def Mach.modTile (m : Mach) (d c uid : Nat) (f : Tile → Tile) : Mach :=
  m.modArr d c (fun a => { a with tiles := a.tiles.map (fun t => if t.uid = uid then f t else t) })

/-- Change a descriptor of a tile, or one that is planned and has not started. -/
def Mach.modTDesc (m : Mach) (d c seq : Nat) (f : TDesc → TDesc) : Mach :=
  m.modArr d c (fun a =>
    let g (x : TDesc) : TDesc := if x.seq = seq then f x else x
    { a with tiles := a.tiles.map (fun t => { t with descs := t.descs.map g }), ahead := a.ahead.map g })

/-- The tiles that are open: opened and not released. -/
def ArrSt.openTiles (a : ArrSt) : List Tile := a.tiles.filter (fun t => t.opened)

/-- ARR_STATUS follows the tiles and the states of the locations (R88); with no tile open, `open_seq` keeps what it last showed.
[DESIGN CHOICE, log 117] -/
def Mach.arrStatus (m : Mach) (d c : Nat) : Mach :=
  let os := (m.arr d c).openTiles
  let m := m.put Fld.arrStatus_open_tiles d os.length (c := c)
  let m := match os.head?.bind (·.seq) with
    | some q => m.put Fld.arrStatus_open_seq d q (c := c)
    | none => m
  let busyLoc (s : Nat) : Bool := s == plSpill || s == plCheck
  m.put Fld.arrStatus_busy d
    (b2n (!os.isEmpty || busyLoc (m.planeState d c 0) || busyLoc (m.planeState d c 1) || busyLoc (m.storeState d c))) (c := c)

/-- Whether a core is fenced (ARR_FENCE). -/
def Mach.fenced (m : Mach) (d c : Nat) : Bool := m.flag Fld.arrFence_fenced d (c := c)

/-! ### Descriptors -/

/-- Table 8.3: the fields of an array descriptor; `b` selects operand B's. -/
def aK (ws : List Nat) : Nat := wbits ws 1 63 48 * 32
def aM (ws : List Nat) : Nat := wbits ws 1 47 40
def aN (ws : List Nat) : Nat := wbits ws 1 39 32
def aAddr (ws : List Nat) (b : Bool) : Nat := wbits ws (if b then 3 else 2) 63 16
def aFmt (ws : List Nat) (b : Bool) : Nat := wbits ws (if b then 3 else 2) 15 13
def aResident (ws : List Nat) (b : Bool) : Bool := wbits ws (if b then 3 else 2) 12 12 = 1
def aAxis (ws : List Nat) (b : Bool) : Nat := wbits ws (if b then 3 else 2) 11 11
def aSpill (ws : List Nat) : Nat := wbits ws 2 10 7
def aSplit3 (ws : List Nat) : Bool := wbits ws 2 6 6 = 1
def aFirst (ws : List Nat) : Bool := wbits ws 2 5 5 = 1
def aLast (ws : List Nat) : Bool := wbits ws 2 4 4 = 1
def aMode (ws : List Nat) : Nat := wbits ws 2 3 2
def aHist (ws : List Nat) : Nat := wbits ws 3 10 0
def aPitch (ws : List Nat) (b : Bool) : Nat := (if b then wbits ws 4 43 24 else wbits ws 4 63 44) * 32
def aLoOff (ws : List Nat) (b : Bool) : Int := signed 24 (if b then wbits ws 5 63 40 else wbits ws 4 23 0) * 32
def aScale (ws : List Nat) (b : Bool) : Nat := if b then wbits ws 5 26 14 else wbits ws 5 39 27
def aZmapCtr (ws : List Nat) : Nat := wbits ws 5 13 2
def aZmapAddr (ws : List Nat) : Nat := wbits ws 6 63 16
def aZmapBit (ws : List Nat) : Nat := wbits ws 6 15 13
def aZmapVal (ws : List Nat) : Nat := wbits ws 7 63 32
def aHistKb (ws : List Nat) : Nat := wbits ws 7 31 16
/-- The lines of an operand that the tile reads: live rows of A, live columns of B. -/
def aLines (ws : List Nat) (b : Bool) : Nat := if b then aN ws else aM ws

/-- The bits of an element of a format code of Table 8.4. -/
def elemBits (f : Nat) : Nat := if f ≤ 1 then 4 else if f ≤ 4 then 8 else 16

/-- Table 3.2: a legal operand pair. -/
def legalPair (a b : Nat) : Bool :=
  (a == 0 && b == 0) || (a == 1 && b == 1) || ((a == 2 || a == 3) && (b == 2 || b == 3)) || (a == 4 && b == 4) ||
    ((a == 5 || a == 6) && (b == 5 || b == 6))

/-- Table 3.2: the products a cell operation sums. -/
def groupSize (f : Nat) : Nat := if f ≤ 1 then 4 else if f ≤ 4 then 2 else 1

/-- The resident part of a stager in bytes (ARR_CFG). -/
def Mach.residentBytes (m : Mach) (d c : Nat) (b : Bool) : Nat :=
  65536 * (if b then m.get Fld.arrCfg_b_resident d (c := c) else m.get Fld.arrCfg_a_resident d (c := c))

/-- Where the bytes an operand reads end, past its start (Table 4.1): over all its lines at its pitch. -/
def operandSpan (ws : List Nat) (b : Bool) : Nat :=
  let bits := elemBits (aFmt ws b)
  if aAxis ws b = 0 then (aLines ws b - 1) * aPitch ws b + aK ws * bits / 8
  else (aK ws - 1) * aPitch ws b + ceilDiv (aLines ws b * bits) 8

/-- Table 4.1: the range of `addr_a` or `addr_b`. -/
def Mach.operandAddrOk (m : Mach) (d c : Nat) (ws : List Nat) (b : Bool) : Bool :=
  let a := aAddr ws b
  if aResident ws b then
    let top := m.residentBytes d c b
    let lo : Int := (a : Int) + aLoOff ws b
    a % 256 == 0 && decide (a + operandSpan ws b ≤ top) &&
      (!aSplit3 ws || (decide (0 ≤ lo) && decide (lo + operandSpan ws b ≤ top)))
  else a % 32 == 0

/-- R123, R139: the mode a descriptor is planned with: SUM_CTRL.`force` overrides it. -/
def Mach.effMode (m : Mach) (d c : Nat) (ws : List Nat) : Nat :=
  match m.get Fld.sumCtrl_force d (c := c) with
  | 1 => 0
  | 2 => if aMode ws = 2 then 1 else aMode ws
  | _ => aMode ws

/-- R139: a descriptor has been planned off, or would be now: a change of `force` is for those planned after it. -/
def Mach.plannedOff (m : Mach) (d c seq : Nat) (ws : List Nat) : Bool :=
  match (m.arr d c).ahead.find? (fun x => x.seq == seq) with
  | some x => x.mode == 0
  | none => m.effMode d c ws == 0

/-- R84, R212, R215: the checks of an array descriptor's fields. -/
def Mach.arrayChecks (m : Mach) (d c : Nat) (x : Desc) : List FieldCheck :=
  let ws := x.words
  let fa := aFmt ws false
  let fb := aFmt ws true
  let pair := legalPair fa fb
  let off := m.plannedOff d c x.seq ws
  let loOk (b : Bool) : Bool := !aSplit3 ws || !aResident ws b || aLoOff ws b % 256 == 0
  let sc (b : Bool) : Bool := decide (aScale ws b ≤ 4095) || aScale ws b == 0x1FFF
  let pitchOk (b : Bool) : Bool := decide (32 ≤ aPitch ws b) && decide (aPitch ws b ≤ 16777216)
  headerChecks ws 1 ++
  [(112, decide (32 ≤ aK ws) && decide (aK ws ≤ 1048576)), (104, decide (1 ≤ aM ws) && decide (aM ws ≤ 128)),
   (96, decide (1 ≤ aN ws) && decide (aN ws ≤ 128)), (144, m.operandAddrOk d c ws false), (141, pair),
   (135, aSpill ws == 0 || (decide (8 ≤ aSpill ws) && decide (aSpill ws ≤ 14))),
   (134, !aSplit3 ws || (fa == 5 && fb == 5)), (130, aMode ws != 3), (208, m.operandAddrOk d c ws true),
   (205, pair),
   (192, off || aHist ws == 0x7FF || decide (aHist ws < m.get Fld.sumTblCfg_entries d)),
   (300, pitchOk false), (280, pitchOk true), (256, loOk false), (360, loOk true), (347, sc false), (334, sc true)] ++
  reservedChecks ws 2 1 0 ++ reservedChecks ws 5 1 0 ++ reservedChecks ws 6 12 0 ++ reservedChecks ws 7 15 0

/-! ### Elements and the cell operation -/

/-- The value of an element code of Table 8.4. -/
def elemVal (f code : Nat) : FV :=
  match f with
  | 0 => fmtE2M1.unpack code
  | 1 => FV.ofInt (signed 4 code)
  | 2 => fmtE4M3.unpack code
  | 3 => fmtE5M2.unpack code
  | 4 => FV.ofInt (signed 8 code)
  | 5 => fmtBF16.unpack code
  | _ => fmtB16.unpack code

/-- R50: `n` elements of `bits` bits from a run of bytes, each with the poison of its bytes. -/
def elemCodes (bits : Nat) (bs : List (Byte × Bool)) (n : Nat) : List (Nat × Bool) :=
  (List.range n).map (fun i =>
    if bits = 4 then
      let b := bs.getD (i / 2) (0#8, false)
      (if i % 2 = 0 then b.1.toNat % 16 else b.1.toNat / 16, b.2)
    else
      let part := (bs.drop (i * (bits / 8))).take (bits / 8)
      (ofBytes (plain part), anyPoison part))

/-- The exact sum of some values: NaN when one is not finite. -/
def exactSum (vs : List FV) : FV :=
  if vs.all (·.isFin) then vs.foldl (fun a v => a.add .rne v) (.fin false 0 0) else .nan false

/-- R55, R62, R108: one cell operation: the exact sum of the products added into the accumulator with one rounding to FA40.
The result, whether it saturated, whether it became NaN, and how many products were skipped by gating. -/
def cellOp (acc : Nat) (ps : List (FV × FV)) : Nat × Bool × Bool × Nat :=
  let gated := (ps.filter (fun p => p.1.isFin && p.2.isFin && (p.1.isZero || p.2.isZero))).length
  let accNan := (fmtFA40.unpack acc).isNan
  if accNan then (fmtFA40.nanCode, false, false, gated)
  else if ps.any (fun p => !p.1.isFin || !p.2.isFin) then (fmtFA40.nanCode, false, true, gated)
  else if gated = ps.length then (acc, false, false, gated)
  else
    let sum := exactSum (ps.map (fun p => p.1.mul p.2))
    let r := fmtFA40.pack .rne ((fmtFA40.unpack acc).add .rne sum)
    (r.v, r.fl.ov, false, gated)

/-- R98: a checksum operand: the exact sum of the live elements rounded to nearest even into a 24-bit two's-complement
significand at the least exponent at which it fits. -/
def chkOperand (vs : List FV) : FV :=
  match exactSum vs with
  | .fin neg mag e =>
    let try_ (k : Nat) : Nat × Bool :=
      let r := (roundShift .rne neg mag k).1
      (r, decide (r < 2 ^ 23) || (neg && r == 2 ^ 23))
    let k0 := Nat.log2 mag - 22
    let k0 := if (try_ (k0 - 1)).2 && decide (0 < k0) then k0 - 1 else k0
    let k := if (try_ k0).2 then k0 else k0 + 1
    .fin neg (try_ k).1 (e + k)
  | v => v

/-- R99: m_k, the sum of the magnitudes of the live elements, rounded toward +infinity to binary32 (+infinity when one is not
finite). -/
def magOperand (vs : List FV) : FV :=
  match exactSum (vs.map (·.mag)) with
  | .fin n m e => fmtB32.unpack (fmtB32.pack .rup (.fin n m e)).v
  | _ => .inf false

/-- R99: a magnitude accumulator with |operand| × m_k added for each k of a group, rounded toward +infinity. -/
def magAdd (acc : Nat) (ps : List (FV × FV)) : Nat :=
  ps.foldl (fun a p =>
    let pr := p.1.mag.mul p.2
    if pr.isFin then (fmtB32.pack .rup ((fmtB32.unpack a).add .rup pr)).v else fmtB32.infCode) acc

/-! ### Operands -/

/-- The stager of an operand: bytes and poison. -/
def ArrSt.stagByte (a : ArrSt) (b : Bool) (off : Nat) : Byte × Bool :=
  (smGet 0#8 (if b then a.stagB else a.stagA) off, smGet 0 (if b then a.poisB else a.poisA) (off / 32) != 0)

/-- Where an operand of a descriptor starts: op 0 A, 1 B, 2 A's lo tensor, 3 B's (R84). -/
def operandBase (ws : List Nat) (op : Nat) : Int :=
  let b := op % 2 == 1
  (aAddr ws b : Int) + (if 2 ≤ op then aLoOff ws b else 0)

/-- The runs of bytes of a K block of an operand, with what each holds: (offset from the operand's start, bytes, elements). -/
def blockRuns (ws : List Nat) (b : Bool) (block : Nat) : List (Nat × Nat × Nat) :=
  let bits := elemBits (aFmt ws b)
  let lines := aLines ws b
  if aAxis ws b = 0 then (List.range lines).map (fun i => (i * aPitch ws b + block * 32 * bits / 8, 32 * bits / 8, 32))
  else (List.range 32).map (fun k => ((block * 32 + k) * aPitch ws b, ceilDiv (lines * bits) 8, lines))

/-- Arrange the elements of a block's runs as line × 32 + k (R83: either axis), with the k that carry poison. -/
def arrangeBlock (ws : List Nat) (b : Bool) (runs : List (List (Nat × Bool))) : List Nat × Nat :=
  let lines := aLines ws b
  let at_ (i k : Nat) : Nat × Bool :=
    if aAxis ws b = 0 then (runs.getD i []).getD k (0, false) else (runs.getD k []).getD i (0, false)
  ((List.range lines).flatMap (fun i => (List.range 32).map (fun k => (at_ i k).1)),
   (List.range 32).foldl (fun a k => if (List.range lines).any (fun i => (at_ i k).2) then a + 2 ^ k else a) 0)

/-- A block of a resident operand, read from its stager. -/
def ArrSt.residentBlock (a : ArrSt) (ws : List Nat) (op block : Nat) : List Nat × Nat :=
  let b := op % 2 == 1
  let base := (operandBase ws op).toNat
  arrangeBlock ws b ((blockRuns ws b block).map (fun r =>
    elemCodes (elemBits (aFmt ws b)) ((List.range r.2.1).map (fun i => a.stagByte b (base + r.1 + i))) r.2.2))

/-- The feeder's engine of a core, for a descriptor of the array queue. -/
def feedEng (d c seq : Nat) : Eng :=
  { die := d, core := some c, req := .feeder c, keep := false, queue := 0, seq, viaCache := false }

/-- A block of a stream operand, read from memory (R81). -/
def Mach.streamBlock (m : Mach) (d c seq : Nat) (ws : List Nat) (op block : Nat) : Mach × Except EngRes (List Nat × Nat) :=
  let b := op % 2 == 1
  let base := operandBase ws op
  let (m, rs) := (blockRuns ws b block).foldl (fun (acc : Mach × List EngRes) r =>
    let (m, x) := acc.1.engRead (feedEng d c seq) (wrap 64 (base + r.1)) r.2.1
    (m, acc.2 ++ [x])) (m, [])
  match rs.find? (fun x => match x with | .ok _ => false | .wait => false | _ => true) with
  | some x => (m, .error x)
  | none =>
    if rs.any (fun x => match x with | .wait => true | _ => false) then (m, .error .wait)
    else
      let els := rs.mapIdx (fun i x => match x with
        | .ok bs => elemCodes (elemBits (aFmt ws b)) bs (((blockRuns ws b block).getD i (0, 0, 0)).2.2)
        | _ => [])
      (m, .ok (arrangeBlock ws b els))

/-- What a K group finds of an operand: its codes and poison, not yet there, or a fetch that faulted. -/
inductive Operand where
  | ready (codes : List Nat) (bad : Nat)
  | absent
  | fault
  deriving DecidableEq, Repr

/-- A block of an operand of a descriptor, from the stager or from the feeder. -/
def ArrSt.operand (a : ArrSt) (t : TDesc) (op block : Nat) : Operand :=
  if aResident t.words (op % 2 == 1) then
    let (cs, bad) := a.residentBlock t.words op block
    .ready cs bad
  else
    match a.feed.find? (fun f => f.seq == t.seq && f.block == block && f.op == op) with
    | none => .absent
    | some f => if f.fault then .fault else .ready f.codes f.bad

/-! ### Tiles: what they still have to do -/

/-- The K blocks of a descriptor. -/
def TDesc.blocks (t : TDesc) : Nat := aK t.words / 32

/-- The groups of a block: 32 / g, three times over under `split3` (R87). -/
def blockGroups (ws : List Nat) : Nat := 32 / groupSize (aFmt ws false) * (if aSplit3 ws then 3 else 1)

/-- Whether a block is left out of the main stream (Table 5.2, R131). Bit b of a map is block b. -/
def Tile.skips (_ : Tile) (x : TDesc) (b : Nat) : Bool :=
  let act := (x.act.getD 0).testBit b
  if x.mode = 0 then false
  else if x.again then act && !x.vbad.testBit b
  else act || (x.mode == 2 && x.pred.testBit b)

/-- A descriptor's main stream may run: planned, and its actual map read when Sumac is on; in a tile that was started again, which makes
no correction (R103), its blocks verified too. [DESIGN CHOICE, log 136] -/
def TDesc.streamable (x : TDesc) : Bool := x.planned && (x.mode == 0 || x.act.isSome) && (!x.again || x.toVerify == 0)

/-- The next block of a descriptor's main stream at or after `b`. -/
def Tile.nextBlock (t : Tile) (x : TDesc) (b : Nat) : Option Nat :=
  ((List.range (x.blocks - b)).map (· + b)).find? (fun k => !t.skips x k)

/-- All main-stream groups of a descriptor have entered. -/
def Tile.mainDone (t : Tile) (x : TDesc) : Bool := x.streamable && (t.nextBlock x x.pos).isNone

/-- The first descriptor of a tile whose main stream is not over. -/
def Tile.current (t : Tile) : Option TDesc := t.descs.find? (fun x => !t.mainDone x)

/-- The next miss of a tile: descriptor and block (R127). -/
def Tile.nextMiss (t : Tile) : Option (TDesc × Nat) :=
  t.descs.findSome? (fun x => (lowestBit x.miss x.blocks).map (fun b => (x, b)))

/-- Every group of a tile has entered: it takes no more descriptors, every main stream is over, every block verified, and
every miss corrected. -/
def Tile.allEntered (t : Tile) : Bool :=
  !t.accepting && t.current.isNone && t.nextMiss.isNone && t.descs.all (fun x => x.toVerify == 0)

/-- ⌈S / g⌉: the cell operations a plane takes between two clears (R73, R90). -/
def Tile.spillOps (t : Tile) : Nat :=
  ceilDiv (2 ^ t.sLog) (groupSize (aFmt ((t.descs.head?.map (·.words)).getD []) false))

/-- The words of a tile's first descriptor. -/
def Tile.words0 (t : Tile) : List Nat := (t.descs.head?.map (·.words)).getD []

/-! ### The status word -/

/-- Table 4.5. -/
def statusWord (seq err loc : Nat) (skipped scl corr chk nan sat done : Bool) : Nat :=
  seq % 65536 * 65536 + err * 4096 + loc * 1024 + b2n skipped * 512 + b2n scl * 32 + b2n corr * 16 + b2n chk * 8 +
    b2n nan * 4 + b2n sat * 2 + b2n done

/-- Write a tile status word (R114). -/
def Mach.tileStatus (m : Mach) (d c w : Nat) : Mach := m.wr .arrTileStatus d w 0 c

/-- Complete a descriptor of the array queue. -/
def Mach.arrComplete (m : Mach) (d c seq status info0 : Nat) : Mach :=
  match (m.queue d c 0).find? (fun x => x.seq == seq) with
  | none => m
  | some x => m.complete d c 0 x status none info0 0

/-! ### The planning window -/

/-- A descriptor as a tile takes it. -/
def TDesc.new (seq : Nat) (ws : List Nat) : TDesc :=
  { seq, words := ws, planned := false, mode := 0, zasked := false, pred := 0, act := none, toVerify := 0, counted := false,
    vbad := 0, vfalse := 0, pos := 0, grp := 0, miss := 0, redo := false, again := false, err := 0 }

/-- A tile with its first descriptor. -/
def Tile.new (seq : Nat) (ws : List Nat) : Tile :=
  { uid := seq, seq := none, attempt := 1, chk := false, sat := false, nan := false, corr := false, skipped := false,
    accepting := !aLast ws, err := 0, word := 0, descs := [TDesc.new seq ws], opened := false, sLog := 12,
    plane := 0, seg := 0, spilled := false, cgrp := 0, streamed := false }

/-- A descriptor as the planning window holds it before it starts. -/
def ArrSt.taken (a : ArrSt) (seq : Nat) (ws : List Nat) : TDesc := (a.ahead.find? (fun x => x.seq == seq)).getD (TDesc.new seq ws)

/-- The descriptors of a core's tiles, and those planned that have not started. -/
def ArrSt.allDescs (a : ArrSt) : List TDesc := a.tiles.flatMap (·.descs) ++ a.ahead

/-- The descriptors of the array queue that have not started and can do work: valid ones, not of a tile that is abandoned (R106). -/
def Mach.heldDescs (m : Mach) (d c : Nat) : List Desc :=
  let xs := (m.queue d c 0).filter (fun x => !x.started)
  let xs := if (m.arr d c).tiles.any (fun t => t.err != 0 && t.accepting) then xs.dropWhile (fun x => !aFirst x.words) else xs
  xs.filter (fun x => x.waiting || x.released || (firstBad (m.arrayChecks d c x)).isNone)

/-- R124: the four oldest descriptors of the array queue whose main stream is not over, with their tiles; one that has not started (it
waits for `wait_ctr`, or behind others) stands in a tile of its own. -/
def Mach.window (m : Mach) (d c : Nat) : List (Tile × TDesc) :=
  let a := m.arr d c
  let begun := a.tiles.flatMap (fun t => if t.err = 0 then (t.descs.filter (fun x => !t.mainDone x)).map (fun x => (t, x)) else [])
  let held := (m.heldDescs d c).map (fun x => (Tile.new x.seq x.words, a.taken x.seq x.words))
  (begun ++ held).take 4

/-- SUM_STATUS follows the window and the misses recorded: the oldest descriptor of the window waits for its `zmap_ctr` (R124). -/
def Mach.sumStatus (m : Mach) (d c : Nat) : Mach :=
  let a := m.arr d c
  let misses := (a.allDescs.map (fun x => popcount x.miss x.blocks)).foldl (· + ·) 0
  let waits := match (m.window d c).head? with
    | some (_, x) =>
      if x.zasked && x.mode != 0 && !x.redo && x.act.isNone && !(m.core d c).zmapOk.contains x.seq then some x.seq else none
    | none => none
  ((m.put Fld.sumStatus_miss_pending d (satN 16 misses) (c := c)).put Fld.sumStatus_waiting d (b2n waits.isSome) (c := c)).modArr d c
    (fun a => { a with waitSeq := waits })

/-- Table 5.6 row 6: the whole 32-byte sectors of B that no fetched block of a descriptor needs. -/
def bytesSaved (ws : List Nat) (skipped : Nat) : Nat :=
  if aResident ws true then 0
  else
    let bits := elemBits (aFmt ws true)
    let n := aK ws / 32
    let tensors := if aSplit3 ws then 2 else 1
    let sectors :=
      if aAxis ws true = 0 then
        let perLine := (List.range (ceilDiv (aK ws * bits) 256)).filter (fun s =>
          (List.range n).all (fun b => skipped.testBit b || decide (b * 32 * bits + 32 * bits ≤ s * 256) ||
            decide (s * 256 + 256 ≤ b * 32 * bits)))
        perLine.length * aN ws
      else popcount skipped n * 32 * ceilDiv (aN ws * bits) 256
    sectors * 32 * tensors

/-- R125, R140: the blocks of a descriptor are classified and counted, once its verification is over; those of a tile that was started
again as the skips of a recompute. -/
def Mach.countBlocks (m : Mach) (d c seq : Nat) : Mach :=
  match (m.arr d c).allDescs.find? (fun x => x.seq == seq) with
  | none => m
  | some x =>
    if x.counted || x.toVerify != 0 then m
    else
      let n := x.blocks
      let act := (bitsSet (x.act.getD 0) n).filter (fun b => !x.vbad.testBit b)
      let conf := act.filter (fun b => x.pred.testBit b)
      let mask (l : List Nat) : Nat := l.foldl (fun a b => a + 2 ^ b) 0
      let m := m.modTDesc d c seq (fun y => { y with counted := true })
      if x.mode = 2 ∧ !x.again then
        ((m.cnt .sumCnt d 1 conf.length (c := c)).cnt .sumCnt d 3 (act.length - conf.length) (c := c)).cnt .sumCnt d 6
          (bytesSaved x.words (mask conf)) (c := c)
      else (m.cnt .sumCnt d 4 act.length (c := c)).cnt .sumCnt d 6 (bytesSaved x.words (mask act)) (c := c)

/-! ### Abandonment -/

/-- Clear what a tile holds of the planes and the store (R106); `poison` marks the locations for R94, those the tile was the last to
hold included. -/
def Mach.freeTile (m : Mach) (d c uid : Nat) (poison : Bool) : Mach :=
  let m := (List.range 2).foldl (fun m p =>
    if (m.planeState d c p == plAccum || m.planeState d c p == plSpill || m.planeState d c p == plCheck) &&
        ((m.arr d c).plane p).owner == uid then
      (m.modPlane d c p (fun _ => { ArrPlane.init with poisonAb := poison, last := some uid })).setPlaneState d c p plFree
    else if poison && m.planeState d c p == plFree && ((m.arr d c).plane p).last == some uid then
      m.modPlane d c p (fun x => { x with poisonAb := true })
    else m) m
  if (m.storeState d c == plAccum || m.storeState d c == plCheck) && (m.arr d c).storeOwner == uid then
    (m.modArr d c (fun a => { a with store := [], storePoisonAb := poison })).setStoreState d c plFree
  else if poison && m.storeState d c == plFree && (m.arr d c).storeLast == some uid then
    m.modArr d c (fun a => { a with storePoisonAb := true })
  else m

/-- A descriptor that is planned and has not started leaves the planning window: its wait on `zmap_ctr` ends with it, and what the feeder
holds for it goes. -/
def Mach.dropAhead (m : Mach) (d c seq : Nat) : Mach :=
  let m := m.modCore d c (fun x => { x with zmapOk := x.zmapOk.filter (fun s => s != seq),
                                            engBuf := x.engBuf.filter (fun e => !(e.queue == 0 && e.seq == seq)),
                                            arr := { x.arr with ahead := x.arr.ahead.filter (fun y => y.seq != seq),
                                                                feed := x.arr.feed.filter (fun f => f.seq != seq) } })
  m.ctrLeave d (fun k => match k with | .zmap c' s => c' == c && s == seq | _ => false)

/-- What the feeder holds for a tile's descriptors is dropped. -/
def Mach.dropFeed (m : Mach) (d c : Nat) (seqs : List Nat) : Mach :=
  m.modCore d c (fun x =>
    { x with engBuf := x.engBuf.filter (fun e => !(e.queue == 0 && seqs.contains e.seq)),
             arr := { x.arr with feed := x.arr.feed.filter (fun f => !seqs.contains f.seq) } })

/-- R85, R106, R552: abandon a tile with an error: the status word, its descriptors so far, and, while it has not had its
`tile_last`, the ghost that goes on taking its descriptors. The word carries the flags so far, and the next sequence number for a tile
that has not opened. [DESIGN CHOICE, log 116] -/
def Mach.abandonTile (m : Mach) (d c uid err status : Nat) (more : List Nat) : Mach :=
  match (m.arr d c).tiles.find? (fun t => t.uid == uid) with
  | none => m
  | some t =>
    let w := statusWord (t.seq.getD (m.arr d c).tileSeq) err 3 t.skipped false t.corr t.chk t.nan t.sat false
    let m := m.freeTile d c uid (err == 1)
    let m := m.dropFeed d c (t.descs.map (·.seq))
    let ghost := err != 2 && t.accepting
    let mark (x : Tile) : Tile := if x.uid = uid then { x with err := err, word := w, opened := false, descs := [] } else x
    let m := m.modArr d c (fun a =>
      { a with tiles := if ghost then a.tiles.map mark else a.tiles.filter (fun x => x.uid != uid) })
    let m := m.ctrLeave d (fun k => match k with | .zmap c' s => c' == c && t.descs.any (fun x => x.seq == s) | _ => false)
    let m := m.tileStatus d c w
    let m := if err = 1 then m.ev Fld.arrEvents_poison d (c := c) else m
    let m := more.foldl (fun m s => m.dropAhead d c s) m
    (((t.descs.map (·.seq) ++ more).foldl (fun m s => m.arrComplete d c s status w) m).sumStatus d c).arrStatus d c

/-! ### Planes -/

/-- R79: the logical line (128 the checksum line) of a physical row or column, with the physical lines the map skips; none for one
that is held idle. -/
def logicalLine (skips : List Nat) (p : Nat) : Option Nat :=
  let l := p - (skips.filter (fun s => s < p)).length
  if skips.contains p || decide (130 < p) || decide (128 < l) then none else some l

/-- R79, R98: the logical cell at a physical place of a core's array, by ARR_SPARE_MAP; none where the cell is held idle. -/
def Mach.logicalCell (m : Mach) (d c : Nat) (u : Nat × Nat × Nat) : Option (Nat × Nat × Nat) :=
  let rows := [m.get Fld.arrSpareMap_row_skip0 d (c := c), m.get Fld.arrSpareMap_row_skip1 d (c := c)]
  let cols := [m.get Fld.arrSpareMap_col_skip0 d (c := c), m.get Fld.arrSpareMap_col_skip1 d (c := c)]
  match logicalLine rows u.1, logicalLine cols u.2.1 with
  | some i, some j => if i = 128 ∧ j = 128 then none else some (i, j, u.2.2)
  | _, _ => none

/-- The sparse key of a cell. -/
def cellKey (i j : Nat) : Nat := i * 129 + j

/-- R80, R86, R98, R99: one cell operation of every cell of a plane for the k of one group, with an upset that flips bits of one
accumulator afterwards (none without a fault). Also the products skipped by gating. -/
def ArrPlane.op (p : ArrPlane) (ws : List Nat) (ca cb : List Nat) (ks : List Nat) (upset : Option (Nat × Nat × Nat)) :
    ArrPlane × Nat :=
  let fa := aFmt ws false
  let fb := aFmt ws true
  let rows := List.range (aM ws)
  let cols := List.range (aN ws)
  let va (i k : Nat) : FV := elemVal fa (ca.getD (i * 32 + k) 0)
  let vb (j k : Nat) : FV := elemVal fb (cb.getD (j * 32 + k) 0)
  let sa := ks.map (fun k => chkOperand (rows.map (fun i => va i k)))
  let sb := ks.map (fun k => chkOperand (cols.map (fun j => vb j k)))
  let ma := ks.map (fun k => magOperand (rows.map (fun i => va i k)))
  let mb := ks.map (fun k => magOperand (cols.map (fun j => vb j k)))
  let cell (p : ArrPlane) (i j : Nat) (ps : List (FV × FV)) (live : Bool) : ArrPlane × Nat :=
    let (v, s, n, g) := cellOp (smGet 0#64 p.cells (cellKey i j)).toNat ps
    ({ p with cells := smSet 0#64 p.cells (cellKey i j) (BitVec.ofNat 64 v), sat := p.sat || (live && s),
              nan := p.nan || (live && n), odd := p.odd || s || n }, if live then g else 0)
  let (p, g) := rows.foldl (fun (acc : ArrPlane × Nat) i =>
    cols.foldl (fun (acc : ArrPlane × Nat) j =>
      let (p, g) := cell acc.1 i j (ks.map (fun k => (va i k, vb j k))) true
      (p, acc.2 + g)) acc) (p, 0)
  let p := rows.foldl (fun p i =>
    let p := (cell p i 128 ((ks.map (va i)).zip sb) false).1
    { p with mags := smMod 0#32 p.mags i (fun x => BitVec.ofNat 32 (magAdd x.toNat ((ks.map (va i)).zip mb))) }) p
  let p := cols.foldl (fun p j =>
    let p := (cell p 128 j (sa.zip (ks.map (vb j))) false).1
    { p with mags := smMod 0#32 p.mags (128 + j) (fun x => BitVec.ofNat 32 (magAdd x.toNat ((ks.map (vb j)).zip ma))) }) p
  let p := match upset with
    | none => p
    | some (i, j, bits) =>
      { p with cells := smMod 0#64 p.cells (cellKey i j) (fun x => x ^^^ BitVec.ofNat 64 (bits % 2 ^ 40)) }
  ({ p with n1 := p.n1 + 1 }, g)

/-- The tile that holds a plane. -/
def Mach.planeTile (m : Mach) (d c p : Nat) : Option Tile :=
  (m.arr d c).tiles.find? (fun t => t.uid == ((m.arr d c).plane p).owner && t.opened)

/-- R90: a plane is held in SPILL by the first spill of its tile, which waits for the store. -/
def Mach.heldForStore (m : Mach) (d c p : Nat) : Bool :=
  m.planeState d c p == plSpill && !((m.arr d c).plane p).added && m.storeState d c != plFree &&
    (m.planeTile d c p).any (fun t => !t.spilled)

/-- R90: a tile's active plane has received its ⌈S / g⌉ operations: it enters SPILL, unless the tile is over (R91).
[DEDUCED, log 56] -/
def Mach.spillFull (m : Mach) (d c uid : Nat) : Mach :=
  match (m.arr d c).tiles.find? (fun t => t.uid == uid) with
  | none => m
  | some t =>
    if m.planeState d c t.plane = plAccum ∧ t.spillOps ≤ ((m.arr d c).plane t.plane).n1 ∧ t.allEntered = false then
      m.setPlaneState d c t.plane plSpill
    else m

/-- The plane a tile's next group goes into: the active one while it has room, else the other one, which must be FREE (R90). None when
the array must wait (R96, Table 4.8 rows 3 and 4). [DEDUCED, log 56] -/
def Mach.planeForGroup (m : Mach) (d c : Nat) (t : Tile) : Mach × Option Nat :=
  if m.planeState d c t.plane = plAccum ∧ ((m.arr d c).plane t.plane).n1 < t.spillOps then (m, some t.plane)
  else
    let q := 1 - t.plane
    let m := if m.planeState d c t.plane = plAccum then m.setPlaneState d c t.plane plSpill else m
    if m.planeState d c q = plFree then
      let m := m.setPlaneState d c q plAccum
      let m := m.modPlane d c q (fun _ => { ArrPlane.init with owner := t.uid, seg := t.seg + 1, last := some t.uid })
      (m.modTile d c t.uid (fun x => { x with plane := q, seg := t.seg + 1 }), some q)
    else (m.cnt .arrCnt d (if m.heldForStore d c q then 4 else 3) (c := c), none)

/-- The outcome of one group. -/
inductive GroupRes where
  | entered | stalled | abandoned
  deriving DecidableEq, Repr

/-- R87: the operands of group `idx` of a block: A's tensor and B's, hi or lo. -/
def passOps (ws : List Nat) (idx : Nat) : Nat × Nat :=
  let pass := if aSplit3 ws then idx % 3 else 0
  (if pass = 2 then 2 else 0, if pass = 1 then 3 else 1)

/-- R80: one K group of a block of a descriptor enters: `idx` counts the groups of the block, passes of `split3` included. An upset
names a physical cell (R79); `bad`: the stager lines taken have uncorrectable errors, which poison them (R417). -/
def Mach.enterGroup (m : Mach) (d c : Nat) (t : Tile) (x : TDesc) (block idx : Nat) (upset : Option (Nat × Nat × Nat))
    (bad : Bool := false) : Mach × GroupRes :=
  let g := groupSize (aFmt x.words false)
  let k0 := (if aSplit3 x.words then idx / 3 else idx) * g
  let a := m.arr d c
  match a.operand x (passOps x.words idx).1 block, a.operand x (passOps x.words idx).2 block with
  | .fault, _ | _, .fault => (m.abandonTile d c t.uid 3 stMemAccess [], .abandoned)
  | .absent, _ | _, .absent => (m.cnt .arrCnt d 2 (c := c), .stalled)
  | .ready ca badA, .ready cb badB =>
    let ks := (List.range g).map (· + k0)
    if bad then
      ((m.toCp d 0x34 false false [(4, 4), (8, coreNum d c), (48, 0)]).abandonTile d c t.uid 1 stPoisoned [], .abandoned)
    else if ks.any (fun k => badA.testBit k || badB.testBit k) then (m.abandonTile d c t.uid 1 stPoisoned [], .abandoned)
    else
      match m.planeForGroup d c t with
      | (m, none) => (m, .stalled)
      | (m, some p) =>
        let (pl, gated) := ((m.arr d c).plane p).op x.words ca cb ks (upset.bind (m.logicalCell d c))
        let m := m.modPlane d c p (fun _ => pl)
        let m := ((m.working d).cnt .arrCnt d 1 (c := c)).cnt .arrCnt d 15 gated (c := c)
        (m.modTile d c t.uid (fun y => { y with sat := y.sat || pl.sat, nan := y.nan || pl.nan }), .entered)

/-- R88, R91: once every group of an open tile has entered, its plane goes to CHECK (plane-resident) or to the final spill
(store-resident); the store is in CHECK once every earlier segment has been added. -/
def Mach.arrFinish (m : Mach) (d c : Nat) : Mach :=
  (m.arr d c).tiles.foldl (fun m t =>
    if t.opened && !t.streamed && t.err == 0 && t.allEntered then
      let m := m.modTile d c t.uid (fun x => { x with streamed := true })
      let held (p : Nat) : Bool := m.planeState d c p == plSpill && ((m.arr d c).plane p).owner == t.uid
      if t.spilled || (List.range 2).any held then
        let m := if m.planeState d c t.plane = plAccum then m.setPlaneState d c t.plane plSpill else m
        if t.spilled && (List.range 2).all (fun p => p == t.plane || !held p || ((m.arr d c).plane p).added) then
          m.setStoreState d c plCheck
        else m
      else m.setPlaneState d c t.plane plCheck
    else m) m

/-! ### Spill and compare -/

/-- R90, R97: add a plane into the store, live rows and the checksum row and column; the first spill converts exactly. A cell the plane does not
list holds +0: the add leaves an element as it is, and makes +0 of −0. -/
def spillInto (store : SMap W64) (p : ArrPlane) (first : Bool) : SMap W64 :=
  p.cells.foldl (fun st (k, v) =>
    let x := (fmtFA40.convert fmtB64 .rne v.toNat).v
    smSet 0#64 st k (BitVec.ofNat 64 (if first then x else (fmtB64.add .rne (smGet 0#64 st k).toNat x).v))) (if first then [] else store.filter (fun e => e.2 != 0x8000000000000000#64 || p.cells.any (fun x => x.1 == e.1)))

/-- The plane in SPILL that is to be added next: of the oldest tile and segment. -/
def Mach.spillPlane (m : Mach) (d c : Nat) : Option Nat :=
  let a := m.arr d c
  let ps := (List.range 2).filter (fun p => m.planeState d c p == plSpill && !(a.plane p).added)
  let rank (p : Nat) : Nat := (a.tiles.findIdx (fun t => t.uid == (a.plane p).owner)) * 65536 + (a.plane p).seg
  ps.foldl (fun b p => match b with
    | none => some p
    | some q => if rank p < rank q then some p else some q) none

/-- R100, R101: the comparison of a segment: none when it is skipped, else the lowest mismatching row and column (0xFF none). All 128
live rows and columns are compared; one whose cells all hold +0 has the sum and the checksum +0. -/
def compareSegment (p : ArrPlane) : Option (Nat × Nat) :=
  let f64 (k : Nat) : Nat := (fmtFA40.convert fmtB64 .rne (smGet 0#64 p.cells k).toNat).v
  let rows := (List.range 128).filter (fun i => p.cells.any (fun e => e.1 / 129 == i))
  let cols := (List.range 128).filter (fun j => p.cells.any (fun e => e.1 % 129 == j))
  if p.odd || p.mags.any (fun e => e.2.toNat == fmtB32.infCode) then none
  else
    let off (cells : List Nat) (chk mag : Nat) : Bool :=
      let sum := cells.foldl (fun a k => (fmtB64.add .rne a (f64 k)).v) 0
      let diff := (fmtB64.unpack sum).add .rne (fmtFA40.unpack (smGet 0#64 p.cells chk).toNat).negate
      match fmtB32.unpack (smGet 0#32 p.mags mag).toNat with
      | .fin _ mm e =>
        let tol := (FV.fin false (mm * (1024 + p.n1)) (e - 30)).add .rne (.fin false 1 (-120))
        !diff.isFin || diff.mag.cmp tol == 1
      | _ => true
    let r := rows.find? (fun i => off ((List.range 128).map (cellKey i)) (cellKey i 128) i)
    let q := cols.find? (fun j => off ((List.range 128).map (fun i => cellKey i j)) (cellKey 128 j) (128 + j))
    some (r.getD 0xFF, q.getD 0xFF)

/-- R82, R103, R131: start a tile again from its first descriptor. A descriptor whose map had been read is executed again; one whose map
had not keeps its first execution still to come, its wait included, but not its prediction. [DESIGN CHOICE, log 136] -/
def Tile.restart (t : Tile) (attempt : Nat) (chk : Bool) : Tile :=
  { t with attempt, chk, sat := false, nan := false, corr := false, skipped := false, opened := false,
           plane := 0, seg := 0, spilled := false, cgrp := 0, streamed := false,
           descs := t.descs.map (fun x => { x with act := if x.mode = 0 then x.act else none, pos := 0, grp := 0, miss := 0,
                                                   toVerify := 0, redo := x.redo || x.act.isSome, again := true }) }

/-- R105: everything on a core stops and its queues are discarded; its waits end together, before a counter serves another (R243); the open tiles' planes and store are cleared.
[DESIGN CHOICE, log 118] -/
def Mach.fenceCore (m : Mach) (d c cause : Nat) : Mach :=
  let m := (m.put Fld.arrFence_fenced d 1 (c := c)).put Fld.arrFence_cause d cause (c := c)
  let m := (m.put Fld.arrStatus_fenced d 1 (c := c)).ev Fld.arrEvents_fenced d (c := c)
  let tiles := (m.arr d c).tiles
  let m := tiles.foldl (fun m t => m.freeTile d c t.uid false) m
  let m := m.modArr d c (fun a => { a with tiles := [], feed := [], ahead := [] })
  let m := (List.range 3).foldl (fun m q =>
    let m := (m.modQueue d c q (fun _ => [])).showWait d c q
    let m := m.put Fld.cqSeq_completed d (m.get Fld.cqSeq_pushed d q c) q c
    (m.showOcc d c q)) m
  let m := m.ctrLeave d (fun w => match w with
    | .desc c' q _ => c' == c && decide (q < 3)
    | .zmap c' _ => c' == c
    | .thread r _ => r.core == c
    | _ => false)
  let m := m.modCore d c (fun x => { x with engBuf := [], deadEng := [], capWaits := [], zmapOk := [], movs := [], stalls := [[], [], []], vec := { x.vec with run := none } })
  let m := ((m.put Fld.vecStatus_busy d 0 (c := c)).put Fld.vecStatus_scale_wait d 0 (c := c)).sumStatus d c
  let m := ((m.core d c).blocks.map (·.slot)).foldl (fun m b =>
    let pc := ((m.thread d ⟨c, b, 0⟩).map (·.pc)).getD 0
    m.blockFault d c b 7 ⟨0, pc, 0, 0, 0, 0⟩) m
  (List.range 3).foldl (fun m q => m.grantCredits d c q 64) (m.arrStatus d c)

/-- The fields of an ARRAY_CHK record (Table 14.2). -/
def chkFields (d c seq seg row col attempt : Nat) : List (Nat × Nat) :=
  [(8, coreNum d c), (16, seq), (16, seg), (8, row), (8, col), (8, attempt)]

/-- The descriptors of a queue that a fence discards: first sequence number and count. -/
def discardFields (q : List Desc) : List (Nat × Nat) := [(32, (q.head?.map (·.seq)).getD 0), (8, q.length)]

/-- R103, R104: a mismatch of a segment of a tile: the first starts a recompute of it and of the younger open tiles, the second
fences the core. [DESIGN CHOICE, log 136] -/
def Mach.mismatch (m : Mach) (d c : Nat) (t : Tile) (seg row col : Nat) : Mach :=
  let seq := t.seq.getD 0
  let m := (m.ev Fld.arrEvents_chk_mismatch d (c := c)).cnt .arrCnt d 10 (c := c)
  let m := m.wr .arrChkLog d (seq % 65536 * 2 ^ 48 + row * 2 ^ 40 + col * 2 ^ 32 + seg % 65536 * 2 ^ 16 + t.attempt * 2 ^ 8) 0 c
  if 2 ≤ t.attempt then
    let fs := chkFields d c seq seg row col t.attempt ++
      (List.range 3).flatMap (fun q => discardFields (m.queue d c q))
    (m.emitRec d 0x12 false false fs true false (m.slotList d)).fenceCore d c 1
  else
    let m := m.toCp d 0x11 true false (chkFields d c seq seg row col t.attempt)
    let k := (m.arr d c).tiles.findIdx (fun x => x.uid == t.uid)
    let again := ((m.arr d c).tiles.drop k).filter (fun x => x.opened)
    let m := again.foldl (fun m x => (m.freeTile d c x.uid false).dropFeed d c (x.descs.map (·.seq))) m
    let m := (again.flatMap (·.descs)).foldl (fun m x => if x.act.isSome then
      (m.modTDesc d c x.seq (fun y => { y with toVerify := 0 })).countBlocks d c x.seq else m) m
    let redo (x : Tile) : Tile :=
      if x.uid = t.uid then x.restart 2 true
      else if again.any (fun y => y.uid == x.uid) then x.restart 1 false else x
    let m := m.modArr d c (fun a => { a with tiles := a.tiles.map redo })
    (m.sumStatus d c).arrStatus d c

/-- R90, R97: one spill: the plane in SPILL of the oldest segment is added into the store; the first spill of a tile needs the
store FREE (R96). `disagree`: the two adders gave different results. -/
def Mach.spill (m : Mach) (d c : Nat) (disagree : Bool) : Mach :=
  match m.spillPlane d c with
  | none => m
  | some p =>
    match m.planeTile d c p with
    | none => m
    | some t =>
      let a := m.arr d c
      if !t.spilled && m.storeState d c != plFree then m.cnt .arrCnt d 4 (c := c)
      else
        let sum := spillInto a.store (a.plane p) (!t.spilled)
        let m := m.modArr d c (fun a => { a with store := sum, storeOwner := t.uid, storeLast := some t.uid, storePoisonAb := false })
        let m := m.setStoreState d c (if t.streamed && p == t.plane then plCheck else plAccum)
        let m := (m.modPlane d c p (fun x => { x with added := true })).modTile d c t.uid (fun x => { x with spilled := true })
        let m := m.cnt .arrCnt d 7 (c := c)
        if disagree then m.mismatch d c t (a.plane p).seg 0xFF 0xFF else m.arrStatus d c

/-- R90: a spilled and compared plane returns to FREE. -/
def Mach.spillComplete (m : Mach) (d c : Nat) : Mach :=
  match (List.range 2).find? (fun p => m.planeState d c p == plSpill && ((m.arr d c).plane p).added &&
      ((m.arr d c).plane p).compared) with
  | none => m
  | some p => ((m.modPlane d c p (fun x => { ArrPlane.init with last := x.last })).setPlaneState d c p plFree).arrStatus d c

/-- R92, R99: a plane's segment awaits its comparison: at its spill or in CHECK, a final plane that is spilled once it has been added. -/
def Mach.comparable (m : Mach) (d c p : Nat) : Bool :=
  let a := m.arr d c
  (m.planeState d c p == plSpill || m.planeState d c p == plCheck) && !(a.plane p).compared &&
    !(m.planeState d c p == plSpill && !(a.plane p).added && (m.planeTile d c p).any (fun t => t.streamed && t.plane == p))

/-- R100 to R103: the comparison of the oldest segment that awaits it. -/
def Mach.checksumCompare (m : Mach) (d c : Nat) : Mach :=
  let a := m.arr d c
  let ps := (List.range 2).filter (fun p => m.comparable d c p)
  let rank (p : Nat) : Nat := (a.tiles.findIdx (fun t => t.uid == (a.plane p).owner)) * 65536 + (a.plane p).seg
  match ps.foldl (fun b p => match b with
      | none => some p
      | some q => if rank p < rank q then some p else some q) none with
  | none => m
  | some p =>
    match m.planeTile d c p with
    | none => m
    | some t =>
      match compareSegment (a.plane p) with
      | none =>
        ((m.modPlane d c p (fun x => { x with compared := true })).modTile d c t.uid (fun x => { x with skipped := true })).cnt
          .arrCnt d 9 (c := c)
      | some (r, q) =>
        let m := m.cnt .arrCnt d 8 (c := c)
        if r = 0xFF ∧ q = 0xFF then m.modPlane d c p (fun x => { x with compared := true })
        else m.mismatch d c t (a.plane p).seg r q

/-! ### Opening and release -/

/-- The operands of group `idx` of a block are there (one that faulted is, and abandons the tile as it enters). -/
def ArrSt.operandsHeld (a : ArrSt) (x : TDesc) (b idx : Nat) : Bool :=
  a.operand x (passOps x.words idx).1 b != .absent && a.operand x (passOps x.words idx).2 b != .absent

/-- R89: the first K group of a tile is ready. -/
def ArrSt.tileReady (a : ArrSt) (t : Tile) : Bool :=
  match t.current with
  | none => true
  | some x => x.streamable && (match t.nextBlock x x.pos with | none => true | some b => a.operandsHeld x b 0)

/-- R89, R103: open the oldest tile that is not open, in the lower-numbered FREE plane: fewer than two are open, every older one has streamed,
none of them is recomputed by a tile that a mismatch closed, and its first group is ready. What it waits for is counted (R96, Table 4.8 rows 2 to 4). -/
def Mach.tileOpen (m : Mach) (d c : Nat) : Mach :=
  let a := m.arr d c
  match a.tiles.find? (fun t => !t.opened && t.err == 0) with
  | none => m
  | some t =>
    let older := a.tiles.takeWhile (fun x => x.uid != t.uid)
    if m.fenced d c || older.any (fun x => !x.opened || !x.streamed || (x.attempt == 2 && t.seq.isSome)) then m
    else if !a.tileReady t then m.cnt .arrCnt d 2 (c := c)
    else match (List.range 2).find? (fun p => m.planeState d c p == plFree) with
      | none => m.cnt .arrCnt d (if (List.range 2).any (fun p => m.heldForStore d c p) then 4 else 3) (c := c)
      | some p =>
        if 2 ≤ a.openTiles.length then m else
        let seq := t.seq.getD a.tileSeq
        let m := if t.seq.isNone then m.modArr d c (fun a => { a with tileSeq := a.tileSeq + 1 }) else m
        let s := if aSpill t.words0 = 0 then m.get Fld.arrCfg_spill_log2 d (c := c) else aSpill t.words0
        let s := if t.seq.isSome then t.sLog else s
        let m := m.modTile d c t.uid (fun x =>
          { x with seq := some seq, opened := true, sLog := s, plane := p, seg := 0, spilled := false })
        let m := (m.modPlane d c p (fun _ => { ArrPlane.init with owner := t.uid, last := some t.uid })).setPlaneState d c p plAccum
        (m.arrFinish d c).arrStatus d c

/-- R71: whether the scale entry named for an operand has `scl` set; an index beyond the table's entries is read at its place all the
same. [DESIGN CHOICE, log 115] -/
def Mach.sclOf (m : Mach) (d : Nat) (idx : Nat) : Mach × Bool :=
  if idx = 0x1FFF then (m, false)
  else
    let (m, w, _) := m.readNum (Via.engine d) (m.get Fld.vecSclBase_base d * 64 + 64 * idx + 12) 4
    (m, bitOf w 29)

/-- Whether any descriptor of a tile names a scale entry that has missed (R71). -/
def Mach.tileScl (m : Mach) (d : Nat) (t : Tile) : Mach × Bool :=
  (t.descs.flatMap (fun x => [aScale x.words false, aScale x.words true])).foldl (fun (acc : Mach × Bool) i =>
    let (m, b) := acc.1.sclOf d i
    (m, acc.2 || b)) (m, false)

/-- R93, R114, R115: release the oldest tile once it has streamed and every segment is compared (and added). -/
def Mach.tileRelease (m : Mach) (d c : Nat) : Mach :=
  match (m.arr d c).tiles.head? with
  | none => m
  | some t =>
    let a := m.arr d c
    let held := (List.range 2).filter (fun p => (m.planeState d c p == plSpill || m.planeState d c p == plCheck) &&
      (a.plane p).owner == t.uid)
    let waiting := held.any (fun p => !(a.plane p).compared || (m.planeState d c p == plSpill && !(a.plane p).added))
    let store := t.spilled
    if !t.opened || !t.streamed || waiting || (store && m.storeState d c != plCheck) then m
    else
      let (m, scl) := m.tileScl d t
      let loc := if store then 2 else t.plane
      let w := statusWord (t.seq.getD 0) 0 loc t.skipped scl t.corr t.chk t.nan t.sat true
      let m := if store then m.setStoreState d c plReleased else m.setPlaneState d c t.plane plReleased
      let m := m.modArr d c (fun a => { a with tiles := a.tiles.tail })
      let m := (m.tileStatus d c w).cnt .arrCnt d 0 (c := c)
      let m := if t.sat then (m.ev Fld.arrEvents_sat_tile d (c := c)).cnt .arrCnt d 12 (c := c) else m
      let m := if t.nan then (m.ev Fld.arrEvents_nan_tile d (c := c)).cnt .arrCnt d 13 (c := c) else m
      let m := if t.attempt = 2 then (m.ev Fld.arrEvents_recompute_pass d (c := c)).cnt .arrCnt d 11 (c := c) else m
      let m := m.dropFeed d c (t.descs.map (·.seq))
      (t.descs.foldl (fun m x => m.arrComplete d c x.seq stOk w) m).arrStatus d c

/-- R82: a stager byte range is held by an open tile (or one that is to re-execute) that names it as resident. -/
def Mach.residentLocked (m : Mach) (d c : Nat) (b : Bool) (lo n : Nat) : Bool :=
  (m.arr d c).tiles.any (fun t => t.seq.isSome && t.err == 0 && t.descs.any (fun x =>
    aResident x.words b &&
      ((List.range (if aSplit3 x.words then 2 else 1)).any (fun k =>
        let base := (operandBase x.words (2 * k + b2n b)).toNat
        decide (base < lo + n) && decide (lo < base + operandSpan x.words b)))))

/-- R107: ABORT or a die reset: every tile abandoned without a status word, planes and store FREE. A location last held by a tile
abandoned for poison is so still (R94). -/
def Mach.arrAbort (m : Mach) (d c : Nat) : Mach :=
  let m := m.modArr d c (fun a => { a with planes := a.planes.map (fun p => { ArrPlane.init with poisonAb := p.poisonAb, last := p.last }),
                                           store := [], tiles := [], feed := [], ahead := [] })
  let m := m.sumStatus d c
  (((m.setPlaneState d c 0 plFree).setPlaneState d c 1 plFree).setStoreState d c plFree).arrStatus d c

/-- ARR_CFG written (R117). -/
def Mach.wrArrCfg (m : Mach) (id : RegId) (w : RegW) : Mach :=
  let d := id.die
  let c := id.core
  let s := Fld.arrCfg_spill_log2.of w.new
  let ra := Fld.arrCfg_a_resident.of w.new
  let rb := Fld.arrCfg_b_resident.of w.new
  let moved := ra ≠ Fld.arrCfg_a_resident.of w.old ∨ rb ≠ Fld.arrCfg_b_resident.of w.old
  let busy := !(m.arr d c).openTiles.isEmpty || !(m.arr d c).feed.isEmpty
  if s < 8 ∨ 14 < s ∨ 7 < ra ∨ 7 < rb ∨ (moved ∧ busy) then m.ev Fld.arrEvents_cfg_err d (c := c)
  else m.setReg id w.new

/-- R94, R95, R148: the location of a vector read: 0, 1 a plane, 2 the store. Whether it is RELEASED, and whether a refusal is
POISONED_OPERAND. -/
def Mach.locState (m : Mach) (d c loc : Nat) : Nat := if loc = 2 then m.storeState d c else m.planeState d c loc

def Mach.locPoisonAb (m : Mach) (d c loc : Nat) : Bool :=
  if loc = 2 then (m.arr d c).storePoisonAb else ((m.arr d c).plane loc).poisonAb

/-- A cell of a location as a binary64 code (the store) or an FA40 code (a plane). -/
def Mach.locCell (m : Mach) (d c loc i j : Nat) : Nat :=
  if loc = 2 then (smGet 0#64 (m.arr d c).store (cellKey i j)).toNat
  else (smGet 0#64 ((m.arr d c).plane loc).cells (cellKey i j)).toNat

/-- R95: free a RELEASED location. [DEDUCED, log 56] -/
def Mach.freeLoc (m : Mach) (d c loc : Nat) : Mach :=
  if m.locState d c loc ≠ plReleased then m
  else if loc = 2 then ((m.modArr d c (fun a => { a with store := [] })).setStoreState d c plFree).arrStatus d c
  else ((m.modPlane d c loc (fun x => { ArrPlane.init with last := x.last })).setPlaneState d c loc plFree).arrStatus d c

end Sys2Proof.Machine
end

