-- ==== Sys2Proof/Machine/Sumac.lean ====
section
/-! DEFINITION. Sumac, the zero-block predictor (spec/05), and the array's work that it steers: planning, operand fetches, the
main stream and corrections, zero-maps, history observations and folds. -/

namespace Sys2Proof.Machine

/-! ### The planning window -/

/-- R124: descriptors that have joined the window are planned: off and exact mode at once, predict mode when its prediction has
been read; with Sumac on, the wait on `zmap_ctr` begins. -/
def Mach.planWindow (m : Mach) (d c : Nat) : Mach :=
  let held := (m.heldDescs d c).map (·.seq)
  let m := m.modArr d c (fun a => { a with ahead := a.ahead.filter (fun x => held.contains x.seq) })
  let m := m.modArr d c (fun a => { a with feed := a.feed.filter (fun f => a.allDescs.any (fun x => x.seq == f.seq)) })
  let m := (m.window d c).foldl (fun m (_, x) =>
    let mode := if x.planned || x.mode != 0 then x.mode else m.effMode d c x.words
    let m := m.modArr d c (fun a =>
      if held.contains x.seq && !a.ahead.any (fun y => y.seq == x.seq) then { a with ahead := a.ahead ++ [x] } else a)
    let m := m.modTDesc d c x.seq (fun y => { y with mode := mode, planned := y.planned || mode != 2 })
    if mode ≠ 0 ∧ !x.zasked ∧ !x.redo then
      let m := m.modTDesc d c x.seq (fun y => { y with zasked := true })
      m.ctrWait d (aZmapCtr x.words) (aZmapVal x.words) false (.zmap c x.seq)
    else m) m
  m.sumStatus d c

/-! ### Fetches -/

/-- Whether a block of an operand is to be fetched now (Table 5.2), and whether it is known to be needed (R552). -/
def TDesc.wants (x : TDesc) (op block : Nat) : Bool × Bool :=
  let later := decide (x.pos ≤ block) || x.miss.testBit block
  if !x.planned || !later || decide (x.blocks ≤ block) then (false, false)
  else if x.mode = 0 then (true, true)
  else match x.act with
    | some a =>
      let need := !a.testBit block || x.vbad.testBit block
      (need, need)
    | none => (x.mode == 2 && op % 2 == 1 && !x.again && !x.pred.testBit block, false)

/-- The bytes of a stager's stream ring: what ARR_CFG leaves of 512 KiB. -/
def Mach.ringRoom (m : Mach) (d c : Nat) (b : Bool) : Nat := 524288 - m.residentBytes d c b

/-- The bytes that fetched blocks occupy in a stager's ring. -/
def ArrSt.ringUsed (a : ArrSt) (b : Bool) : Nat :=
  ((a.feed.filter (fun f => (f.op % 2 == 1) == b)).map (fun f =>
    match a.allDescs.find? (fun x => x.seq == f.seq) with
    | some x => ceilDiv (f.codes.length * elemBits (aFmt x.words b)) 8
    | none => 0)).foldl (· + ·) 0

/-- R128: the missed blocks whose operands the feeder holds. -/
def ArrSt.missesHeld (a : ArrSt) : Nat :=
  ((a.feed.filter (fun f => a.allDescs.any (fun x => x.seq == f.seq && x.miss.testBit f.block))).map
    (fun f => (f.seq, f.block))).eraseDups.length

/-- The descriptor whose operands the feeder fetches, with its tile; one of the planning window that has not started has none yet. -/
def ArrSt.fetching (a : ArrSt) (seq : Nat) : Option (Option Nat × TDesc) :=
  match a.tiles.find? (fun t => t.err == 0 && t.descs.any (fun x => x.seq == seq)) with
  | some t => (t.descs.find? (fun x => x.seq == seq)).map (fun x => (some t.uid, x))
  | none => (a.ahead.find? (fun x => x.seq == seq && x.err == 0)).map (fun x => (none, x))

/-- R106, R552: a fetch that a tile needs has failed with an error (1 poison, 3 fault): the tile is abandoned, or, where its descriptor has
not started, will be as that descriptor joins it. -/
def Mach.fetchFail (m : Mach) (d c seq : Nat) (tile : Option Nat) (err : Nat) : Mach :=
  match tile with
  | some uid => (m.abandonTile d c uid err (if err = 1 then stPoisoned else stMemAccess) []).planWindow d c
  | none => m.modTDesc d c seq (fun y => { y with err })

/-- R81, R124, R552: a feeder fetch of a block of a stream operand returns: 0 A, 1 B, 2 A's lo tensor, 3 B's. For a descriptor that has not
started B alone is fetched. -/
def Mach.operandFetch (m : Mach) (d c seq block op : Nat) : Mach :=
  let a := m.arr d c
  match a.fetching seq with
  | none => m
  | some (tile, x) =>
      let b := op % 2 == 1
      let (want, need) := x.wants op block
      let have_ := a.feed.any (fun f => f.seq == seq && f.block == block && f.op == op)
      let full := decide (m.ringRoom d c b < a.ringUsed b + ceilDiv (aLines x.words b * 32 * elemBits (aFmt x.words b)) 8) ||
        (x.miss.testBit block && decide (64 ≤ a.missesHeld) && !a.feed.any (fun f => f.seq == seq && f.block == block))
      if !want || have_ || full || aResident x.words b || (decide (2 ≤ op) && !aSplit3 x.words) || (tile.isNone && !b) then m
      else
        match m.streamBlock d c seq x.words op block with
        | (m, .ok (codes, bad)) => m.modArr d c (fun a => { a with feed := a.feed ++ [⟨seq, block, op, codes, bad, false⟩] })
        | (m, .error .fault) =>
          if need then m.fetchFail d c seq tile 3
          else m.modArr d c (fun a => { a with feed := a.feed ++ [⟨seq, block, op, [], 0, true⟩] })
        | (m, .error .poisonedTable) =>
          m.modArr d c (fun a => { a with feed := a.feed ++ [⟨seq, block, op, [], 2 ^ 32 - 1, false⟩] })
        | (m, .error _) => m

/-- Drop what the feeder holds of a block. -/
def Mach.dropBlock (m : Mach) (d c seq block : Nat) : Mach :=
  m.modArr d c (fun a => { a with feed := a.feed.filter (fun f => !(f.seq == seq && f.block == block)) })

/-! ### Starting descriptors -/

/-- R85: a descriptor breaks the framing of the tile that takes it. -/
def Tile.breach (t : Tile) (ws : List Nat) : Bool :=
  let w0 := t.words0
  aFirst ws || aFmt ws false != aFmt w0 false || aFmt ws true != aFmt w0 true || aM ws != aM w0 || aN ws != aN w0 ||
    aSpill ws != aSpill w0 || aSplit3 ws != aSplit3 w0 || decide (16 ≤ t.descs.length) ||
    decide (2 ^ 24 < (t.descs.map (fun x => aK x.words)).foldl (· + ·) 0 + aK ws)

/-- R552: a descriptor joins its tile after a fetch that the tile needs has failed for it. -/
def Mach.fetchMissed (m : Mach) (d c uid : Nat) (x : TDesc) : Mach := if x.err = 0 then m else m.fetchFail d c x.seq (some uid) x.err

/-- The descriptor is valid: its wait, then its tile. -/
def Mach.arrayGo (m : Mach) (d c : Nat) (x : Desc) : Mach :=
  match m.waitDone d c 0 x with
  | (m, false) => m
  | (m, true) =>
    let ws := x.words
    let m := m.startDesc d c 0 x.seq
    let desc := (m.arr d c).taken x.seq ws
    let m := m.modArr d c (fun a => { a with ahead := a.ahead.filter (fun y => y.seq != x.seq) })
    let open_ (m : Mach) : Mach :=
      (m.modArr d c (fun a => { a with tiles := a.tiles ++ [{ Tile.new x.seq ws with descs := [desc] }] })).fetchMissed d c x.seq desc
    let m := match (m.arr d c).tiles.find? (fun t => t.accepting) with
      | none =>
        if aFirst ws then open_ m
        else (m.dropAhead d c x.seq).arrComplete d c x.seq stTileSequence (2 * 4096 + 3 * 1024)
      | some t =>
        if t.err ≠ 0 then
          if aFirst ws then open_ (m.modArr d c (fun a => { a with tiles := a.tiles.filter (fun y => y.uid != t.uid) }))
          else
            let m := (m.dropAhead d c x.seq).arrComplete d c x.seq (if t.err = 1 then stPoisoned else stMemAccess) t.word
            if aLast ws then m.modArr d c (fun a => { a with tiles := a.tiles.filter (fun y => y.uid != t.uid) }) else m
        else if t.breach ws then m.abandonTile d c t.uid 2 stTileSequence [x.seq]
        else (m.modTile d c t.uid (fun y => { y with descs := y.descs ++ [{ desc with again := t.descs.any (·.again) }], accepting := !aLast ws })).fetchMissed
          d c t.uid desc
    ((m.planWindow d c).arrFinish d c).arrStatus d c

/-- R84, R85, R106, R212, R213: the oldest array descriptor that has not started is validated, waits, and joins its tile, opens
one, breaks the framing, or belongs to an abandoned tile. [DEDUCED, log 57] -/
def Mach.arrayStart (m : Mach) (d c : Nat) : Mach :=
  if m.fenced d c then m
  else
    match m.oldest d c 0 with
    | none => m
    | some x =>
      match firstBad (m.arrayChecks d c x) with
      | some bit =>
        if x.waiting || x.released then m.arrayGo d c x else ((m.dropAhead d c x.seq).completeBad d c 0 x bit).planWindow d c
      | none => m.arrayGo d c x
/-! ### The main stream -/

/-- The tile whose groups enter: the oldest open one that has not streamed. -/
def ArrSt.streaming (a : ArrSt) : Option Tile := a.tiles.find? (fun t => t.opened && !t.streamed && t.err == 0)

/-- R461: an issue slot of a core's array passes. -/
def Mach.arrSlot (m : Mach) (d c : Nat) : Mach := m.modArr d c (fun a => { a with slot := a.slot + 1 })

/-- R80, R109: one array cycle: a bubble, a stall, or the next K group of the main stream.
[DEDUCED, log 55; DESIGN CHOICE, log 134] -/
def Mach.kGroup (m : Mach) (d c : Nat) (upset : Option (Nat × Nat × Nat)) (bad : Bool := false) : Mach :=
  let a := m.arr d c
  let m := m.arrSlot d c
  if bubbleSlot a.bubbles a.slot then m.cnt .arrCnt d 5 (c := c)
  else
    match a.streaming with
    | none => m
    | some t =>
      match t.current with
      | none => m
      | some x =>
        if !x.streamable then m.cnt .arrCnt d 2 (c := c)
        else match t.nextBlock x x.pos with
          | none => m
          | some b =>
            let idx := if b = x.pos then x.grp else 0
            match m.enterGroup d c t x b idx upset bad with
            | (m, .stalled) => m
            | (m, .abandoned) => m.planWindow d c
            | (m, .entered) =>
              let last := idx + 1 == blockGroups x.words
              let m := m.modTDesc d c x.seq (fun y => { y with pos := if last then b + 1 else b, grp := if last then 0 else idx + 1 })
              let m := (if last then m.dropBlock d c x.seq b else m).spillFull d c t.uid
              ((m.planWindow d c).arrFinish d c).arrStatus d c

/-! ### History -/

/-- Table 5.4: a history entry as read: its address, first word, the other fields. -/
structure HistEntry where
  addr : Nat
  word0 : Nat
  nblk : Nat
  foldCount : Nat
  obsCount : Nat
  mapBase : Nat
  deriving DecidableEq, Repr

def HistEntry.valid (h : HistEntry) : Bool := bitOf h.word0 31
def HistEntry.observed (h : HistEntry) : Bool := bitOf h.word0 30
/-- R132: the length of a map. -/
def HistEntry.len (h : HistEntry) : Nat := ceilDiv (h.nblk + 1) 512 * 64
/-- R132: where ring slot i (8: `cur`, 9: `pred`) lies. -/
def HistEntry.map (h : HistEntry) (i : Nat) : Nat := h.mapBase + i * h.len

/-- Read a history entry of a die's table: the entry, and whether its first word or any word is poisoned. -/
def Mach.histEntry (m : Mach) (d idx : Nat) : Mach × HistEntry × Bool × Bool :=
  let a := m.get Fld.sumTblBase_base d * 4096 + 32 * idx
  let (m, bs) := m.readBytes (Via.engine d) a 32
  let num (o n : Nat) : Nat := ofBytes ((plain bs).drop o |>.take n)
  (m, ⟨a, num 0 4, num 4 2, num 8 4, num 12 4, num 16 8⟩, anyPoison (bs.take 4), anyPoison bs)

/-- Read a map as a number, bit b for block b, with its poison; a map outside memory reads as nothing. -/
def Mach.readMap (m : Mach) (d a n : Nat) : Mach × Nat × Bool :=
  if regionOk a n then m.readNum (Via.engine d) a n else (m, 0, false)

/-- Write a map. -/
def Mach.writeMap (m : Mach) (d a n v : Nat) : Mach := if regionOk a n then m.writeNum (Via.engine d) a n v else m

/-- R124, R130, R133, R136: the prediction of the oldest predict-mode descriptor of the window that has none yet: its blocks in
range that `pred` marks zero. [DESIGN CHOICE, log 137] -/
def Mach.predictionRead (m : Mach) (d c : Nat) : Mach :=
  match (m.window d c).find? (fun (_, x) => !x.planned && x.mode == 2) with
  | none => m
  | some (_, x) =>
    let none_ (m : Mach) : Mach := (m.modTDesc d c x.seq (fun y => { y with planned := true, pred := 0 })).sumStatus d c
    let idx := aHist x.words
    if idx = 0x7FF then none_ m
    else
      let (m, h, p0, p) := m.histEntry d idx
      if p0 || p then none_ (m.ev Fld.sumEvents_hist_poison d (c := c))
      else if !h.valid then none_ (m.ev Fld.sumEvents_hist_invalid d (c := c))
      else
        let (m, v, pm) := m.readMap d (h.map 9) h.len
        if pm then none_ (m.ev Fld.sumEvents_hist_poison d (c := c))
        else
          let pred := (List.range x.blocks).foldl (fun acc b =>
            let k := aHistKb x.words + b
            if k ≤ h.nblk ∧ v.testBit k then acc + 2 ^ b else acc) 0
          let m := m.cnt .sumCnt d 0 (popcount pred x.blocks) (c := c)
          (m.modTDesc d c x.seq (fun y => { y with planned := true, pred })).sumStatus d c

/-- R134: an observation of an actual map: the sectors of `cur` that hold its blocks are read and written. -/
def Mach.observe (m : Mach) (d c : Nat) (x : TDesc) (act : Nat) : Mach :=
  let idx := aHist x.words
  if idx = 0x7FF then m
  else
    let (m, h, p0, _) := m.histEntry d idx
    if p0 then m.ev Fld.sumEvents_hist_poison d (c := c)
    else if !h.valid then m.ev Fld.sumEvents_hist_invalid d (c := c)
    else
      let lo := aHistKb x.words
      let n := min x.blocks (h.nblk + 1 - lo)
      let off := lo / 256 * 32
      let len := if n = 0 then 0 else ((lo + n - 1) / 256 + 1) * 32 - off
      let (m, cur, pc) := if n = 0 then (m, 0, false) else m.readMap d (h.map 8 + off) len
      if pc then m.ev Fld.sumEvents_hist_poison d (c := c)
      else
        let new := (List.range n).foldl (fun acc b =>
          let k := lo + b - 8 * off
          setBits acc k k (b2n (act.testBit b && (!h.observed || acc.testBit k)))) cur
        let m := if n = 0 then m else m.writeMap d (h.map 8 + off) len new
        let m := m.writeNum (Via.engine d) h.addr 4 (setBits h.word0 30 30 1)
        m.writeNum (Via.engine d) (h.addr + 12) 4 (satN 32 (h.obsCount + 1))

/-- R135: the fold of an entry. -/
def Mach.foldEntry (m : Mach) (d idx : Nat) : Mach :=
  let (m, h, p0, p) := m.histEntry d idx
  if p0 || p then m.ev Fld.sumDieEvents_tbl_poison d
  else if !h.valid then m
  else
    let dep := if bitsOf h.word0 26 24 = 0 then 8 else bitsOf h.word0 26 24
    let v0 := if bitsOf h.word0 23 21 = 0 then 8 else bitsOf h.word0 23 21
    let v := min v0 dep
    let head := bitsOf h.word0 20 18
    let count := bitsOf h.word0 17 14
    if h.observed then
      let (m, cur, pc) := m.readMap d (h.map 8) h.len
      let count' := if count < dep then count + 1 else count
      let (m, maps, pr) := (List.range count').foldl (fun (acc : Mach × List Nat × Bool) i =>
        if i = head then (acc.1, acc.2.1 ++ [cur], acc.2.2)
        else
          let (m, x, p) := acc.1.readMap d (h.map i) h.len
          (m, acc.2.1 ++ [x], acc.2.2 || p)) (m, [], false)
      if pc || pr then m.ev Fld.sumDieEvents_tbl_poison d
      else
        let pred := (List.range (h.nblk + 1)).foldl (fun acc b =>
          let z := (maps.filter (fun x => x.testBit b)).length
          if v ≤ count' ∧ v ≤ z then acc + 2 ^ b else acc) 0
        let (m, oldPred, _) := m.readMap d (h.map 9) h.len
        let pred := pred + (oldPred >>> (h.nblk + 1)) * 2 ^ (h.nblk + 1)
        let m := (m.writeMap d (h.map head) h.len cur).writeMap d (h.map 9) h.len pred
        let w := setBits (setBits (setBits h.word0 20 18 ((head + 1) % dep)) 17 14 count') 30 30 0
        let m := (m.writeNum (Via.engine d) h.addr 4 w).writeNum (Via.engine d) (h.addr + 12) 4 0
        m.writeNum (Via.engine d) (h.addr + 8) 4 ((h.foldCount + 1) % 2 ^ 32)
    else m.writeNum (Via.engine d) (h.addr + 8) 4 ((h.foldCount + 1) % 2 ^ 32)

/-- SUM_FOLD written (R135): an entry, or every entry of the table in ascending order. -/
def Mach.wrSumFold (m : Mach) (id : RegId) (w : RegW) : Mach :=
  let d := id.die
  let n := m.get Fld.sumTblCfg_entries d
  if Fld.sumFold_all.of w.raw = 1 then (List.range n).foldl (fun m i => m.foldEntry d i) m
  else
    let e := Fld.sumFold_entry.of w.raw
    if e < n then m.foldEntry d e else m.ev Fld.sumDieEvents_fold_err d

/-! ### Actual maps -/

/-- R125, R130, R131, R134, R552: the actual map of a descriptor of the window is read once `zmap_ctr` has reached `zmap_val`. -/
def Mach.actualRead (m : Mach) (d c seq : Nat) : Mach :=
  match (m.window d c).find? (fun (_, x) => x.seq == seq) with
  | none => m
  | some (_, x) =>
    let tile := ((m.arr d c).fetching seq).bind (·.1)
    if !x.planned || x.err != 0 || x.mode == 0 || x.act.isSome || !(x.redo || (m.core d c).zmapOk.contains seq) then m
    else
      let n := x.blocks
      let e := feedEng d c seq
      match m.engRead e (aZmapAddr x.words) (ceilDiv (aZmapBit x.words + n) 8) with
      | (m, .ok bs) =>
        let bad := anyPoison bs
        let act := if bad then 0 else (ofBytes (plain bs) >>> aZmapBit x.words) % 2 ^ n
        let m := if bad then m.ev Fld.sumEvents_zmap_poison d (c := c) else m
        let m := m.modCore d c (fun k => { k with zmapOk := k.zmapOk.filter (fun s => s != seq) })
        let verify := m.flag Fld.sumTblCfg_verify d && !x.redo
        let miss := if x.mode = 2 ∧ !x.again then (bitsSet x.pred n).foldl (fun a b => if act.testBit b then a else a + 2 ^ b) 0 else 0
        let m := m.modTDesc d c seq (fun y => { y with act := some act, toVerify := if verify then act else 0, miss })
        let m := m.modArr d c (fun a => { a with feed := a.feed.filter (fun f =>
          !(f.seq == seq && act.testBit f.block && !x.vbad.testBit f.block && !verify)) })
        let m := m.cnt .sumCnt d 2 (popcount miss n) (c := c)
        let m := if x.redo then
            let skip := (bitsSet act n).filter (fun b => !x.vbad.testBit b)
            (m.cnt .sumCnt d 4 skip.length (c := c)).cnt .sumCnt d 6
              (bytesSaved x.words (skip.foldl (fun a b => a + 2 ^ b) 0)) (c := c)
          else m.countBlocks d c seq
        let m := if bad || x.redo then m else m.observe d c x act
        ((m.planWindow d c).arrFinish d c).arrStatus d c
      | (m, .fault) => m.fetchFail d c seq tile 3
      | (m, .poisonedTable) => m.fetchFail d c seq tile 1
      | (m, _) => m

/-- Operand A of a block as the verification reads it: none when it cannot be read. -/
def Mach.verifyOperand (m : Mach) (d c : Nat) (x : TDesc) (op block : Nat) : Mach × Option (List Nat × Nat) × Bool :=
  if aResident x.words false then (m, some ((m.arr d c).residentBlock x.words op block), false)
  else match m.streamBlock d c x.seq x.words op block with
    | (m, .ok r) => (m, some r, false)
    | (m, .error .wait) => (m, none, true)
    | (m, .error _) => (m, none, false)

/-- R128, R129: verification reads operand A of the next block marked zero: a non-zero (or non-finite) element makes it a miss and a
verification failure, an operand it cannot read a miss only; in a tile that was started again such a block enters with its main stream. -/
def Mach.verifyRead (m : Mach) (d c seq : Nat) : Mach :=
  match (m.arr d c).allDescs.find? (fun x => x.seq == seq && x.toVerify != 0) with
  | none => m
  | some x =>
    match lowestBit x.toVerify x.blocks with
    | none => m
    | some b =>
      let (m, hi, w0) := m.verifyOperand d c x 0 b
      let (m, lo, w1) := if aSplit3 x.words then m.verifyOperand d c x 2 b else (m, some ([], 0), false)
      if w0 || w1 then m
      else
        let fa := aFmt x.words false
        let done (m : Mach) (bad falseZero : Bool) : Mach :=
          let m := m.modTDesc d c seq (fun y =>
            { y with toVerify := setBits y.toVerify b b 0, vbad := if bad then setBits y.vbad b b 1 else y.vbad,
                     vfalse := if falseZero then setBits y.vfalse b b 1 else y.vfalse,
                     miss := if bad && !x.again then setBits y.miss b b 1 else y.miss })
          let m := if !bad || decide (64 < (m.arr d c).missesHeld) then m.dropBlock d c seq b else m
          let m := if bad && !x.again then m.cnt .sumCnt d 2 (c := c) else m
          let m := if falseZero then (m.ev Fld.sumEvents_zmap_false d (c := c)).cnt .sumCnt d 9 (c := c) else m
          (((m.countBlocks d c seq).sumStatus d c).arrFinish d c).arrStatus d c
        match hi, lo with
        | some (ch, bh), some (cl, bl) =>
          if bh ≠ 0 ∨ bl ≠ 0 then done m true false
          else
            let nz := (ch ++ cl).any (fun k => !(elemVal fa k).isZero)
            done m nz nz
        | _, _ => done m true false

/-! ### Corrections -/

/-- The index of a block within its tile (R129). -/
def Tile.blockIndex (t : Tile) (seq b : Nat) : Nat :=
  ((t.descs.takeWhile (fun x => x.seq != seq)).map (·.blocks)).foldl (· + ·) 0 + b

/-- Issue the groups of a missed block that are still to come, each a cycle; bubbles delay them (R109).
[DEDUCED, log 55; DESIGN CHOICE, log 135] -/
def Mach.correctGroups (m : Mach) (d c uid seq b : Nat) : Nat → Mach
  | 0 => m
  | fuel + 1 =>
    match (m.arr d c).tiles.find? (fun t => t.uid == uid) with
    | none => m
    | some t =>
      match t.descs.find? (fun x => x.seq == seq) with
      | none => m
      | some x =>
        if blockGroups x.words ≤ t.cgrp then m
        else if m.drooping d then m.cnt .arrCnt d 5 (c := c)
        else if bubbleSlot (m.arr d c).bubbles (m.arr d c).slot then
          ((m.arrSlot d c).cnt .arrCnt d 5 (c := c)).correctGroups d c uid seq b fuel
        else
          match (m.arrSlot d c).enterGroup d c t x b t.cgrp none with
          | (m, .stalled) => m
          | (m, .abandoned) => m
          | (m, .entered) =>
            let spilled := ((m.arr d c).tiles.find? (fun y => y.uid == uid)).any (fun y => y.seg != t.seg)
            let m := if spilled then (m.ev Fld.sumEvents_corr_spill d (c := c)).cnt .sumCnt d 7 (c := c) else m
            let m := if t.cgrp = 0 ∧ x.vfalse.testBit b then
                m.emitRec d 0x13 false false [(8, coreNum d c), (16, t.seq.getD 0), (16, t.blockIndex seq b)] false false (m.slotList d)
              else m
            let m := m.modTile d c uid (fun y => { y with cgrp := t.cgrp + 1, corr := true })
            ((m.cnt .arrCnt d 14 (c := c)).cnt .sumCnt d 5 (c := c)).correctGroups d c uid seq b fuel

/-- R127, R128: one correction pass: the next missed block of the tile in the array, once its main stream is over.
[DEDUCED, log 55] -/
def Mach.correction (m : Mach) (d c : Nat) : Mach :=
  match (m.arr d c).streaming with
  | none => m
  | some t =>
    if t.accepting || t.current.isSome || t.descs.any (fun x => x.toVerify != 0) then m
    else match t.nextMiss with
      | none => m
      | some (x, b) =>
        let m := m.correctGroups d c t.uid x.seq b (96 + (m.arr d c).bubbles)
        let finished := ((m.arr d c).tiles.find? (fun y => y.uid == t.uid)).any (fun y => decide (blockGroups x.words ≤ y.cgrp))
        let m := if finished then
            ((m.modTDesc d c x.seq (fun y => { y with miss := setBits y.miss b b 0 })).modTile d c t.uid
              (fun y => { y with cgrp := 0 })).dropBlock d c x.seq b |>.spillFull d c t.uid
          else m
        (((m.planWindow d c).arrFinish d c).sumStatus d c).arrStatus d c

/-! ### Registers -/

/-- R139: a Sumac descriptor of the die is between planning and completion. -/
def Mach.sumacBusy (m : Mach) (d : Nat) : Bool :=
  (List.range 32).any (fun c => (m.arr d c).allDescs.any (fun x => x.mode != 0))

/-- SUM_TBL_BASE or SUM_TBL_CFG written (R139, R549). [DESIGN CHOICE, log 138] -/
def Mach.wrSumTbl (m : Mach) (id : RegId) (w : RegW) : Mach :=
  let d := id.die
  let base := if id.reg = Reg.sumTblBase then Fld.sumTblBase_base.of w.new else m.get Fld.sumTblBase_base d
  let n := if id.reg = Reg.sumTblCfg then Fld.sumTblCfg_entries.of w.new else m.get Fld.sumTblCfg_entries d
  if m.sumacBusy d || !regionOk (base * 4096) (32 * n) then m.ev Fld.sumDieEvents_cfg_err d else m.setReg id w.new

/-- SUM_CTRL written (R139). -/
def Mach.wrSumCtrl (m : Mach) (id : RegId) (w : RegW) : Mach :=
  if Fld.sumCtrl_force.of w.new = 3 then m.ev Fld.sumEvents_cfg_err id.die (c := id.core) else m.setReg id w.new

end Sys2Proof.Machine
end

