-- ==== Sys2Proof/Machine/Vector.lean ====
section
/-! DEFINITION. The vector engine (spec/06, Table 7.5): descriptors, the operand cache, and the meaning of every vector
instruction on the program that runs on a core. -/

namespace Sys2Proof.Machine

/-! ### Accessors -/

/-- The vector engine of a core. -/
def Mach.vec (m : Mach) (d c : Nat) : VecSt := (m.core d c).vec

/-- Change the vector engine of a core. -/
def Mach.modVec (m : Mach) (d c : Nat) (f : VecSt → VecSt) : Mach := m.modCore d c (fun x => { x with vec := f x.vec })

/-- Change the running program. -/
def Mach.modRun (m : Mach) (d c : Nat) (f : VecRun → VecRun) : Mach :=
  m.modVec d c (fun v => { v with run := v.run.map f })

/-- The engine's accesses to memory: through the die cache, remote lines included (R276). -/
def vecEng (d c seq : Nat) : Eng :=
  { die := d, core := some c, req := .vector c, keep := false, queue := 1, seq, viaCache := true }

/-- The 128 lanes of a vector register; one that the program has not written holds open values (R142). -/
def VecRun.lanes (r : VecRun) (n : Nat) : List W32 :=
  match r.v.find? (fun p => p.1 == n) with
  | some p => p.2
  | none => (List.range 128).map (fun i => (Config.freeLane r.base (128 * n + i)).truncate 32)

/-- A row as numbers: 128 of 32 bits, or 64 of 64 bits with lanes 2i and 2i + 1 as one (wide mode). [DESIGN CHOICE, log 58] -/
def VecRun.row (r : VecRun) (wide : Bool) (n : Nat) : List Nat :=
  let ls := r.lanes n
  if wide then (List.range 64).map (fun i => (ls.getD (2 * i) 0#32).toNat + (ls.getD (2 * i + 1) 0#32).toNat * 2 ^ 32)
  else ls.map (·.toNat)

/-- Lanes of 32 bits from the numbers of a row. -/
def toLanes (wide : Bool) (xs : List Nat) : List W32 :=
  if wide then xs.flatMap (fun x => [BitVec.ofNat 32 x, BitVec.ofNat 32 (x >>> 32)]) else xs.map (BitVec.ofNat 32)

/-- Write a vector register. -/
def VecRun.setRow (r : VecRun) (wide : Bool) (n : Nat) (xs : List Nat) : VecRun :=
  { r with v := smSet [] r.v n ((toLanes wide xs ++ List.replicate 128 0#32).take 128) }

/-- Scalar register i. -/
def VecRun.sreg (r : VecRun) (i : Nat) : Nat := (r.s.getD i 0#64).toNat

/-- Write scalar register i. -/
def VecRun.setS (r : VecRun) (i : Nat) (v : Int) : VecRun := { r with s := r.s.set i (BitVec.ofInt 64 v) }

/-- The zero-map accumulator; a program that has not set it finds open bits (R142). -/
def VecRun.zmap (r : VecRun) : Nat := r.zacc.getD (Config.freeBits r.base % 2 ^ 4096)

/-! ### Instructions -/

/-- R202: the fields of a vector instruction. -/
structure VInst where
  op : Nat
  w : Bool
  rnd : Nat
  zm : Bool
  free : Bool
  vd : Nat
  va : Nat
  vb : Nat
  vc : Nat
  sa : Nat
  sb : Nat
  imm : Nat
  deriving DecidableEq, Repr

/-- R202: the layout. -/
def VInst.decode (n : Nat) : VInst :=
  { op := bitsOf n 63 56, w := bitOf n 55, rnd := bitsOf n 54 53, zm := bitOf n 52, free := bitOf n 51, vd := bitsOf n 50 46,
    va := bitsOf n 45 41, vb := bitsOf n 40 36, vc := bitsOf n 35 31, sa := bitsOf n 30 27, sb := bitsOf n 26 23,
    imm := bitsOf n 22 0 }

/-- The immediate read as signed. -/
def VInst.simm (v : VInst) : Int := signed 23 v.imm

/-- The opcodes of Table 7.5. -/
def vopDefined (op : Nat) : Bool :=
  (decide (0x01 ≤ op) && decide (op ≤ 0x16)) || (decide (0x18 ≤ op) && decide (op ≤ 0x1E)) ||
    (decide (0x20 ≤ op) && decide (op ≤ 0x23)) || (decide (0x28 ≤ op) && decide (op ≤ 0x2B)) ||
    (decide (0x30 ≤ op) && decide (op ≤ 0x33)) || (decide (0x38 ≤ op) && decide (op ≤ 0x3E)) || op == 0x40 || op == 0x48 ||
    op == 0x49 || (decide (0x60 ≤ op) && decide (op ≤ 0x64))

/-- Table 6.1: the operations that are narrow only. -/
def vopNarrow (op : Nat) : Bool :=
  (decide (0x0B ≤ op) && decide (op ≤ 0x13)) || (decide (0x18 ≤ op) && decide (op ≤ 0x1E)) || op == 0x31 || op == 0x32 || op == 0x33

/-- R202: whether an instruction's modes are permitted for its operation. -/
def VInst.legal (v : VInst) : Bool :=
  vopDefined v.op && !(v.w && vopNarrow v.op) && (v.rnd == 0 || (v.rnd == 1 && v.op == 0x31)) &&
    (!v.zm || v.op == 0x31) && (!v.free || v.op == 0x40)

/-! ### The end of a descriptor -/

/-- A vector descriptor completes: its record with the last instruction issued and the flags, and the engine is idle. An access of it that
its target refused is forgotten. -/
def Mach.vecFinish (m : Mach) (d c status : Nat) : Mach :=
  match (m.vec d c).run with
  | none => m
  | some r =>
    let m := (m.modVec d c (fun v => { v with run := none })).modDie d (fun x =>
      { x with engineBad := x.engineBad.filter (fun y => y != (c, 1, r.seq)) })
    let m := (m.put Fld.vecStatus_busy d 0 (c := c)).put Fld.vecStatus_scale_wait d 0 (c := c)
    let m := m.cnt .vecCnt d 0 (c := c)
    let m := if status = 0 then m else m.ev Fld.vecEvents_desc_err d (c := c)
    match (m.queue d c 1).find? (fun x => x.seq == r.seq) with
    | none => m
    | some x => m.complete d c 1 x status none (r.last * 65536 + (r.flags % 2) + (r.flags / 2 % 2) * 2 + (r.flags / 4 % 2) * 4) 0

/-- What an instruction does: it goes on to the next (or to the index it names), it waits and will be tried again, or it ends
the descriptor with a status. -/
inductive VOut where
  | next
  | jump (idx : Int)
  | wait
  | fail (status : Nat)
  deriving DecidableEq, Repr

/-- R161, R203: after an instruction: the index moves, a branch outside the program and a failure end the descriptor. -/
def Mach.vecAdvance (m : Mach) (d c len : Nat) : VOut → Mach
  | .next => (m.modRun d c (fun r => { r with idx := r.idx + 1 })).put Fld.vecStatus_pc_index d
      (((m.vec d c).run.map (·.idx)).getD 0 + 1) (c := c)
  | .jump k =>
    if 0 ≤ k ∧ k < len then (m.modRun d c (fun r => { r with idx := k.toNat })).put Fld.vecStatus_pc_index d k.toNat (c := c)
    else m.vecFinish d c stIllegal
  | .wait => m
  | .fail s => m.vecFinish d c s

/-- The program length and address of a vector descriptor (Table 8.5). -/
def vLen (ws : List Nat) : Nat := wbits ws 1 63 48
def vProg (ws : List Nat) : Nat := wbits ws 2 63 16

/-- The instruction a core's program has at issue: none when nothing runs, the program is over or its word is not there yet; a
status when it cannot be read. -/
inductive VFetch where
  | none_
  | word (r : VecRun) (v : VInst)
  | fault (status : Nat)
  deriving DecidableEq, Repr

/-- Fetch the instruction at issue. -/
def Mach.vecFetch (m : Mach) (d c : Nat) : Mach × VFetch :=
  match (m.vec d c).run with
  | none => (m, .none_)
  | some r =>
    if vLen r.words ≤ r.idx then (m, .none_)
    else match m.engRead (vecEng d c r.seq) (vProg r.words + 8 * r.idx) 8 with
      | (m, .ok bs) =>
        if anyPoison bs then (m, .fault stPoisoned) else (m, .word r (VInst.decode (ofBytes (plain bs))))
      | (m, .fault) => (m, .fault stMemAccess)
      | (m, .poisonedTable) => (m, .fault stPoisoned)
      | (m, _) => (m, .none_)

/-- R143: the operations of the sequencer, which take no vector issue slot. -/
def vopScalar (op : Nat) : Bool := decide (0x60 ≤ op)

/-- R461: an issue slot of a core's vector engine passes. -/
def Mach.vecSlot (m : Mach) (d c : Nat) : Mach := m.modCore d c (fun x => { x with vecSlot := x.vecSlot + 1 })

/-- The program's index at the instruction in execution is noted (R161), and that it waits for nothing. -/
def Mach.vecNoted (m : Mach) (d c op : Nat) : Mach :=
  (if vopScalar op then m else m.vecSlot d c).modRun d c (fun r => { r with last := r.idx, waits := false })

/-- R160: an issue bubble of the governor, which is taken, or of a droop detector holds a vector instruction back. -/
def Mach.vecBubbled (m : Mach) (d c op : Nat) : Bool := !vopScalar op && (m.drooping d || bubbleSlot (m.core d c).vecBubbles (m.core d c).vecSlot)

/-- An instruction of a core's program has issued: VEC_CNT(1), and real work by R469. -/
def Mach.vecIssued (m : Mach) (d c : Nat) : Mach := (m.working d).cnt .vecCnt d 1 (c := c)

/-- R141, R161: issue the instruction at the head of a core's program when it is of the given operation: `body` says what it
does. A fenced core and one with an issue bubble (R160) issue nothing; an instruction that waits on an operand is marked so (Table 6.5,
n = 3). [DESIGN CHOICE, log 134] -/
def Mach.vecIssue (m : Mach) (d c op : Nat) (body : Mach → VecRun → VInst → Mach × VOut) : Mach :=
  if m.fenced d c then m
  else match m.vecFetch d c with
    | (m, .none_) => m
    | (m, .fault s) => m.vecFinish d c s
    | (m, .word r v) =>
      if v.op ≠ op then m
      else if m.vecBubbled d c op then
        if m.drooping d then m
        else (m.vecSlot d c).cnt .vecCnt d 4 (c := c)
      else
        let m := m.vecNoted d c op
        let len := vLen r.words
        if !v.legal then (m.vecIssued d c).vecAdvance d c len (.fail stIllegal)
        else
          let (m, out) := body m { r with last := r.idx } v
          let m := match out with
            | .wait => m.modRun d c (fun x => { x with waits := x.sclWait.isNone })
            | _ => m.vecIssued d c
          m.vecAdvance d c len out

/-! ### Lane operations -/

/-- The format of a mode: binary32 or binary64. -/
def vFmt (wide : Bool) : FFmt := if wide then fmtB64 else fmtB32

/-- The sticky flags of R152 that an operation raises: bit 0 nv, bit 1 of, bit 2 dz. -/
def vFlags (f : FFlags) : Nat := b2n f.nv + 2 * b2n f.ov + 4 * b2n f.dz

/-- The union of flags. -/
def orFlags (fs : List Nat) : Nat := fs.foldl (· ||| ·) 0

/-- Raise flags: in VEC_FLAGS and in the descriptor's. -/
def Mach.vecRaise (m : Mach) (d c fl : Nat) : Mach :=
  let m := m.wr .vecFlags d (m.rd .vecFlags d 0 c ||| fl) 0 c
  m.modRun d c (fun r => { r with flags := r.flags ||| fl })

/-- Write the results of a row with their flags. -/
def Mach.vecResult (m : Mach) (d c : Nat) (v : VInst) (xs : List FR) : Mach × VOut :=
  let m := m.modRun d c (fun r => r.setRow v.w v.vd (xs.map (·.v)))
  (m.vecRaise d c (orFlags (xs.map (fun x => vFlags x.fl))), .next)

/-- Write a row that raises no flags. -/
def Mach.vecPlain (m : Mach) (d c : Nat) (v : VInst) (xs : List Nat) : Mach × VOut :=
  (m.modRun d c (fun r => r.setRow v.w v.vd xs), .next)

/-- An operation on one source row. -/
def vecUn (f : VInst → FFmt → Nat → FR) (d c : Nat) (m : Mach) (r : VecRun) (v : VInst) : Mach × VOut :=
  m.vecResult d c v ((r.row v.w v.va).map (f v (vFmt v.w)))

/-- An operation on two source rows. -/
def vecBin (f : FFmt → Nat → Nat → FR) (d c : Nat) (m : Mach) (r : VecRun) (v : VInst) : Mach × VOut :=
  m.vecResult d c v (List.zipWith (f (vFmt v.w)) (r.row v.w v.va) (r.row v.w v.vb))

/-- An operation on two rows of integers. -/
def vecInt (f : VInst → Nat → Nat → Nat) (d c : Nat) (m : Mach) (r : VecRun) (v : VInst) : Mach × VOut :=
  m.vecPlain d c v (List.zipWith (f v) (r.row false v.va) (r.row false v.vb))

/-- Minimum or maximum: NaN when either is, −0 below +0 (Table 6.1). -/
def vMinMax (max_ : Bool) (f : FFmt) (a b : Nat) : FR :=
  let x := f.unpack a
  let y := f.unpack b
  if x.isNan || y.isNan then ⟨f.nanCode, { FFlags.none with nv := x.snan || y.snan }⟩
  else
    let k := x.cmp y
    let less := k == -1 || (k == 0 && x.neg && !y.neg)
    ⟨if less == max_ then b else a, FFlags.none⟩

/-- Negate and absolute: a NaN gives the canonical NaN (R52). -/
def vSign (abs_ : Bool) (f : FFmt) (a : Nat) : FR :=
  if (f.unpack a).isNan then ⟨f.nanCode, FFlags.none⟩ else ⟨if abs_ then f.abs a else f.flip a, FFlags.none⟩

/-- The true lane of a mask: every bit set (DEDUCED: a lane mask). [DEDUCED, log 60] -/
def maskLane (wide b : Bool) : Nat := if b then (if wide then 2 ^ 64 - 1 else 2 ^ 32 - 1) else 0

/-- VCMP: the comparison `imm`[2:0] names, on values. -/
def vCompare (code : Nat) (a b : FV) : Bool :=
  let un := a.isNan || b.isNan
  let k := a.cmp b
  match code with
  | 0 => !un && k == 0
  | 1 => un || k != 0
  | 2 => !un && k == -1
  | 3 => !un && k != 1
  | 4 => !un && k == 1
  | 5 => !un && k != -1
  | _ => un

/-- VRCP: exact at the special values; otherwise an open value within 1 ulp of 1/a (R152). [DESIGN CHOICE, log 59] -/
def vRcp (pick a : Nat) : FR :=
  let near := fmtB32.div .rne (127 * 2 ^ 23) a
  match fmtB32.unpack a with
  | .fin _ m _ =>
    if m = 0 then near
    else
      let cand := fmtB32.unpack pick
      let ok := cand.isFin && (absDiff (cand.mul (fmtB32.unpack a)) (.fin false 1 0)).cmp
        ((ulpOf near.v).mul (fmtB32.unpack a).mag) != 1
      if ok && !near.fl.ov then ⟨pick, { near.fl with nv := false }⟩ else near
  | _ => near

/-- VRSQRT: exact at the special values; otherwise an open value within 1 ulp of 1/√a (R152). [DESIGN CHOICE, log 59] -/
def vRsqrt (pick a : Nat) : FR :=
  match fmtB32.unpack a with
  | .nan s => ⟨fmtB32.nanCode, { FFlags.none with nv := s }⟩
  | .inf neg => if neg then ⟨fmtB32.nanCode, { FFlags.none with nv := true }⟩ else ⟨0, FFlags.none⟩
  | .fin neg m _ =>
    if m = 0 then ⟨fmtB32.infCode + fmtB32.signBit neg, { FFlags.none with dz := true }⟩
    else if neg then ⟨fmtB32.nanCode, { FFlags.none with nv := true }⟩
    else
      let x := fmtB32.unpack a
      let near := (fmtB32.div .rne (127 * 2 ^ 23) (fmtB32.sqrt .rne a).v).v
      let cand := fmtB32.unpack pick
      let u := ulpOf near
      let lo := cand.add .rne u.negate
      let hi := cand.add .rne u
      let one : FV := .fin false 1 0
      let ok := cand.isFin && !cand.neg && (lo.neg || ((lo.mul lo).mul x).cmp one != 1) && ((hi.mul hi).mul x).cmp one != -1
      ⟨if ok then pick else near, FFlags.none⟩

/-- The functions of Table 6.1 whose values the spec bounds and does not state: special inputs are exact, every other result is an
open value within its bound (R152). `fn`: 0 exp2, 1 exp, 2 log2, 3 log, 4 tanh, 5 sigmoid, 6 erf. [DESIGN CHOICE, log 59] -/
def vFunc (fn pick a : Nat) : FR :=
  let res (v : Nat) : FR := ⟨v, FFlags.none⟩
  let one := 127 * 2 ^ 23
  match fmtB32.unpack a with
  | .nan s => ⟨fmtB32.nanCode, { FFlags.none with nv := s }⟩
  | .inf neg =>
    match fn with
    | 0 | 1 => res (if neg then 0 else fmtB32.infCode)
    | 2 | 3 => if neg then ⟨fmtB32.nanCode, { FFlags.none with nv := true }⟩ else res fmtB32.infCode
    | 5 => res (if neg then 0 else one)
    | _ => res (one + fmtB32.signBit neg)
  | .fin neg m e =>
    let code := funcPick fn pick (.fin neg m e) (funcVal fn neg m e)
    let open_ : FR := ⟨code, { FFlags.none with ov := code == fmtB32.infCode }⟩
    match fn with
    | 2 | 3 =>
      if m = 0 then ⟨fmtB32.infCode + fmtB32.signBit true, { FFlags.none with dz := true }⟩
      else if neg then ⟨fmtB32.nanCode, { FFlags.none with nv := true }⟩ else open_
    | 4 | 6 => if m = 0 then res a else open_
    | _ => open_

/-- A row of a function with open results. -/
def vecFunc (f : Nat → Nat → FR) (d c : Nat) (m : Mach) (r : VecRun) (v : VInst) : Mach × VOut :=
  m.tickFree.vecResult d c v ((r.row false v.va).mapIdx (fun i a => f ((Config.freeLane m.freeCtr i).truncate 32 : W32).toNat a))

/-- R158: the sum of a row in a binary tree: at each level lane 2i is added to lane 2i + 1. [DEDUCED, log 64] -/
def treeSum (f : FFmt) : Nat → List FR → FR
  | 0, xs => xs.headD ⟨0, FFlags.none⟩
  | n + 1, xs =>
    treeSum f n ((List.range (xs.length / 2)).map (fun i =>
      let a := xs.getD (2 * i) ⟨0, FFlags.none⟩
      let b := xs.getD (2 * i + 1) ⟨0, FFlags.none⟩
      let s := f.add .rne a.v b.v
      ⟨s.v, (a.fl.or b.fl).or s.fl⟩))

/-- A reduction: the result in lane 0, other lanes 0. -/
def Mach.vecReduce (m : Mach) (d c : Nat) (v : VInst) (x : FR) : Mach × VOut :=
  let m := m.modRun d c (fun r => r.setRow v.w v.vd (x.v :: List.replicate (if v.w then 63 else 127) 0))
  (m.vecRaise d c (vFlags x.fl), .next)

/-- A row folded by minimum or maximum. -/
def foldRow (f : FFmt) (max_ : Bool) (xs : List Nat) : FR :=
  match xs with
  | [] => ⟨0, FFlags.none⟩
  | x :: xs => xs.foldl (fun a b =>
      let s := vMinMax max_ f a.v b
      ⟨s.v, a.fl.or s.fl⟩) (vMinMax max_ f x x)

/-! ### The operand cache -/

/-- R145: an access to the operand cache: offset, bytes, alignment. -/
def ocOk (off : Int) (n align : Nat) : Bool := decide (0 ≤ off) && decide (off + n ≤ 0x80000) && off.toNat % align == 0

/-- Read the operand cache with the poison of its sectors. -/
def VecSt.ocRead (v : VecSt) (off n : Nat) : List (Byte × Bool) :=
  (List.range n).map (fun i => (smGet 0#8 v.oc (off + i), smGet 0 v.ocPois ((off + i) / 32) != 0))

/-- Write the operand cache: bytes with marks; a sector is poisoned by a poisoned byte and freed only by a clean write of all of
it (R147, R550). -/
def VecSt.ocWrite (v : VecSt) (off : Nat) (bs : List (Byte × Bool)) : VecSt :=
  let v := (pieces off bs.length).foldl (fun (v : VecSt) p =>
    let part := (bs.drop (p.1 - off)).take p.2
    let s := p.1 / 32
    { v with ocPois := if anyPoison part then smSet 0 v.ocPois s 1 else if p.2 = 32 then smSet 0 v.ocPois s 0 else v.ocPois }) v
  { v with oc := (bs.mapIdx (fun i b => (off + i, b.1))).foldl (fun oc p => smSet 0#8 oc p.1 p.2) v.oc }

/-- R147: a read met by an error of the operand cache's code: corrected, or the sector poisoned and reported. -/
def Mach.ocEcc (m : Mach) (d c sector : Nat) (double : Bool) : Mach :=
  if double then
    (m.modVec d c (fun v => { v with ocPois := smSet 0 v.ocPois sector 1 })).toCp d 0x34 false false
      [(4, 2), (8, coreNum d c), (48, sector * 32)]
  else (m.ev Fld.vecEvents_corrected d (c := c)).cnt .vecCnt d 7 (c := c)

/-! ### Memory -/

/-- The outcome of an engine's read for an instruction. -/
def vOfRes (r : EngRes) : VOut :=
  match r with
  | .fault => .fail stMemAccess
  | .poisonedTable => .fail stPoisoned
  | _ => .wait

/-- Read bytes for an instruction: clean bytes, or how it ends. -/
def Mach.vecRead (m : Mach) (d c seq va n : Nat) : Mach × Except VOut (List Byte) :=
  match m.engRead (vecEng d c seq) va n with
  | (m, .ok bs) => if anyPoison bs then (m, .error (.fail stPoisoned)) else (m, .ok (plain bs))
  | (m, r) => (m, .error (vOfRes r))

/-- R163, R166: one element of a strided load from the active step-constants page of the core's own die: read, aligned, from the
page that was current when the descriptor started. [DEDUCED, log 66] -/
def Mach.pageElem (m : Mach) (d c : Nat) (r : VecRun) (va n : Nat) : Option (List Byte) :=
  match (m.translate d c va .read).2 with
  | .ok (.register pa) =>
    let base := 0x80000000000 + d * 2 ^ 32 + 0x40040500
    if base ≤ pa ∧ pa + n ≤ base + 256 ∧ pa % n = 0 then
      some (((r.page.flatMap (fun w => toBytes 8 w.toNat)).drop (pa - base)).take n)
    else none
  | _ => none

/-- Write bytes for an instruction, checked whole before the first is written (R161). -/
def Mach.vecWrite (m : Mach) (d c seq : Nat) (parts : List (Nat × List Byte)) (width : Nat) : Mach × VOut :=
  let e := vecEng d c seq
  let (m, bad) := parts.foldl (fun (acc : Mach × Option EngRes) p =>
    match acc.2 with
    | some r => (acc.1, some r)
    | none => acc.1.engCanWrite e p.1 p.2.length (width != 0)) (m, none)
  match bad with
  | some r => (m, vOfRes r)
  | none =>
    if width ≠ 0 ∧ parts.any (fun p => p.1 % width != 0) then (m, .fail stMemAccess)
    else (parts.foldl (fun m p => m.engWrite e p.1 (p.2.map (fun b => (b, false))) width) m, .next)

/-- The bytes of a row. -/
def rowBytes (ls : List W32) : List Byte := ls.flatMap (fun w => toBytes 4 w.toNat)

/-- The lanes of 512 bytes. -/
def bytesRow (bs : List Byte) : List W32 :=
  (List.range 128).map (fun i => BitVec.ofNat 32 (ofBytes ((bs.drop (4 * i)).take 4)))

/-- Write a register from bytes. -/
def Mach.vecLoadRow (m : Mach) (d c vd : Nat) (bs : List Byte) : Mach × VOut :=
  (m.modRun d c (fun r => { r with v := smSet [] r.v vd (bytesRow bs) }), .next)

/-- An address: a scalar register and an offset. -/
def vAddr (r : VecRun) (s : Nat) (off : Int) : Nat := wrap 64 ((r.sreg s : Int) + off)

/-- Where an instruction of the VCVTS kind puts bytes: the operand cache, aligned to its elements of `size` bytes (R145: these are no
row accesses), or memory. [DEDUCED, log 66] -/
def Mach.vecPut (m : Mach) (d c : Nat) (r : VecRun) (toMem : Bool) (size : Nat) (addrs : List (Nat × List Byte)) : Mach × VOut :=
  if toMem then m.vecWrite d c r.seq addrs 0
  else if addrs.any (fun p => !ocOk p.1 p.2.length size) then (m, .fail stOcRange)
  else (addrs.foldl (fun m p => m.modVec d c (fun v => v.ocWrite p.1 (p.2.map (fun b => (b, false))))) m, .next)

/-! ### Conversions -/

/-- Fill the lanes of a row past the results with open values. [DESIGN CHOICE, log 62] -/
def Mach.openTail (m : Mach) (xs : List W32) : List W32 :=
  xs ++ (List.range (128 - xs.length)).map (fun i => ((Config.freeLane m.freeCtr i).truncate 32 : W32))

/-- Two 16-bit codes a lane. -/
def pack16 (xs : List Nat) : List W32 :=
  (List.range (xs.length / 2)).map (fun i => BitVec.ofNat 32 (xs.getD (2 * i) 0 + xs.getD (2 * i + 1) 0 * 65536))

/-- The 16-bit codes in the low 256 bytes of a row. -/
def unpack16 (ls : List W32) : List Nat := (ls.take 64).flatMap (fun w => [w.toNat % 65536, w.toNat / 65536])

/-- The integer that a binary32 code rounds to, where 32 bits hold it. -/
def int32Of (x : Nat) : Option Int :=
  match (fmtB32.unpack x).toInt .rne with
  | some (i, _) => if -(2 ^ 31) ≤ i ∧ i < 2 ^ 31 then some i else none
  | none => none

/-- VCVT (Table 7.5): results fill the row or its low 256 bytes; the rest of the row is not stated and open. A conversion to BF16 or
binary16 raises no flag (Table 3.3); one to an integer that 32 bits do not hold is invalid (R152). [DESIGN CHOICE, log 62] -/
def vecVcvt (d c : Nat) (m : Mach) (r : VecRun) (v : VInst) : Mach × VOut :=
  let src := r.lanes v.va
  let n32 := src.map (·.toNat)
  let half := if bitOf v.imm 4 then n32.drop 64 else n32.take 64
  let put (m : Mach) (ls : List W32) (fl : List FFlags) : Mach × VOut :=
    let m' := m.modRun d c (fun r => { r with v := smSet [] r.v v.vd (m.openTail ls) })
    (m'.tickFree.vecRaise d c (orFlags (fl.map vFlags)), .next)
  let conv (s t : FFmt) (xs : List Nat) : List FR := xs.map (s.convert t .rne)
  match v.imm % 16 with
  | 0 => let rs := conv fmtB32 fmtB64 half; put m (toLanes true (rs.map (·.v))) (rs.map (·.fl))
  | 1 => let rs := conv fmtB64 fmtB32 (r.row true v.va); put m (toLanes false (rs.map (·.v))) (rs.map (·.fl))
  | 2 => put m (pack16 ((conv fmtB32 fmtBF16 n32).map (·.v))) []
  | 3 => let rs := conv fmtBF16 fmtB32 (unpack16 src); put m (toLanes false (rs.map (·.v))) (rs.map (·.fl))
  | 4 => put m (pack16 ((conv fmtB32 fmtB16 n32).map (·.v))) []
  | 5 => let rs := conv fmtB16 fmtB32 (unpack16 src); put m (toLanes false (rs.map (·.v))) (rs.map (·.fl))
  | 6 => let rs := n32.map (fun x => fmtB32.pack .rne (FV.ofInt (signed 32 x))); put m (toLanes false (rs.map (·.v))) (rs.map (·.fl))
  | 7 =>
    let one (i x : Nat) : W32 := match fmtB32.unpack x with
      | .nan _ => ((Config.freeLane m.freeCtr (128 + i)).truncate 32 : W32)
      | .inf neg => if neg then 0x80000000#32 else 0x7FFFFFFF#32
      | fv => BitVec.ofInt 32 (max (-(2 ^ 31)) (min (2 ^ 31 - 1) (((fv.toInt .rne).map (·.1)).getD 0)))
    put m (n32.mapIdx one) (n32.map (fun x => { FFlags.none with nv := decide (int32Of x = none) }))
  | _ => (m, .fail stIllegal)

/-- Pack the codes of a row (R50). -/
def packShort (f : Nat) (codes : List Nat) : List Byte :=
  if shortBits f = 4 then
    (List.range (codes.length / 2)).map (fun i => BitVec.ofNat 8 (codes.getD (2 * i) 0 % 16 + codes.getD (2 * i + 1) 0 % 16 * 16))
  else codes.map (BitVec.ofNat 8)

/-- Whether a short code is ±0. -/
def shortZero (f code : Nat) : Bool := (shortVal f code).isZero

/-- The 128-bit counter of a core's generator. -/
def Mach.srCtr (m : Mach) (d c : Nat) : Nat := m.rd .vecSrCtrLo d 0 c + m.rd .vecSrCtrHi d 0 c * 2 ^ 64

/-- A program's wait on `update_pending` is over. -/
def Mach.vecUnwait (m : Mach) (d c : Nat) : Mach :=
  (m.put Fld.vecStatus_scale_wait d 0 (c := c)).modRun d c (fun x => { x with sclWait := none })

/-- VCVTS (R64, R67, R154 to R157). [DESIGN CHOICE, log 139] -/
def vecVcvts (d c : Nat) (m : Mach) (r : VecRun) (v : VInst) : Mach × VOut :=
  let entry := v.imm % 4096
  let f := bitsOf v.imm 14 12
  let blk := r.sreg v.sb
  if 4 < f then (m, .fail stIllegal)
  else if m.sclEntries d ≤ entry then (m, .fail stScaleEntry)
  else match m.deadFault (m.sclAddr d entry) 64 with
  | some m => (m, .fail stMemAccess)
  | none =>
    if !m.homeServes (m.sclAddr d entry) then (m, .wait)
    else
    let (m, fl) := m.sclWord d entry 0x0C
    if !bitOf fl 31 then (m, .fail stScaleEntry)
    else if v.zm && (blk % 4 != 0 || decide (4092 < blk)) then (m, .fail stZmapRange)
    else if bitOf fl 30 then
      ((m.put Fld.vecStatus_scale_wait d 1 (c := c)).modRun d c (fun x => { x with sclWait := some entry }), .wait)
    else
      let m := m.vecUnwait d c
      let (m, scale) := m.sclWord d entry 0x00
      let xs := r.row false v.va
      let ds := if v.rnd = 1 then draws (m.rd .vecSrKey d 0 c) (m.srCtr d c) 128 else []
      let rs := xs.mapIdx (fun i x => shortConvert f x scale ds[i]?)
      let (m', out) := m.vecPut d c r (bitOf v.imm 15) 1 [(vAddr r v.sa 0, packShort f (rs.map (·.code)))]
      match out with
      | .next =>
        let m := m'
        let m := if v.rnd = 1 then
            let n := (m.srCtr d c + 16) % 2 ^ 128
            ((m.wr .vecSrCtrLo d (n % 2 ^ 64) 0 c).wr .vecSrCtrHi d (n >>> 64) 0 c).cnt .vecCnt d 6 128 (c := c)
          else m
        let m := if v.zm then
            m.modRun d c (fun r => { r with zacc := some ((List.range 4).foldl (fun z g =>
              if ((rs.drop (32 * g)).take 32).all (fun x => shortZero f x.code) then z else setBits z (blk + g) (blk + g) 0) r.zmap) })
          else m
        let amax := xs.foldl (fun a x => if (fmtB32.unpack x).isFin then max a (fmtB32.abs x) else a) 0
        (m.sclApply d entry amax (rs.filter (·.sat)).length (rs.filter (·.nonfin)).length, .next)
      | o => (m', o)

/-- R77: the two BF16 codes of a binary32 value. -/
def split77 (x : Nat) : Nat × Nat :=
  match fmtB32.unpack x with
  | .nan _ => (fmtBF16.nanCode, 0)
  | .inf neg => (fmtBF16.infCode + fmtBF16.signBit neg, 0)
  | .fin neg m e =>
    let hi := fmtBF16.round .rne neg m e
    let h := if hi.fl.ov then fmtBF16.maxCode + fmtBF16.signBit neg else hi.v
    let rest := (FV.fin neg m e).add .rne (fmtBF16.unpack h).negate
    (h, (fmtBF16.pack .rne rest).v)

/-- VSPLIT (R77, R155). -/
def vecVsplit (d c : Nat) (m : Mach) (r : VecRun) (v : VInst) : Mach × VOut :=
  let rs := (r.row false v.va).map split77
  m.vecPut d c r (bitOf v.imm 15) 2
    [(vAddr r v.sa 0, rs.flatMap (fun p => toBytes 2 p.1)), (vAddr r v.sb 0, rs.flatMap (fun p => toBytes 2 p.2))]

/-- Read the operand cache for an instruction, aligned as the access asks (R145): a poisoned lane ends it (R147). -/
def Mach.vecOcRead (m : Mach) (d c : Nat) (off : Int) (n align : Nat) : Mach × Except VOut (List Byte) :=
  if !ocOk off n align then (m, .error (.fail stOcRange))
  else
    let bs := (m.vec d c).ocRead off.toNat n
    if anyPoison bs then (m.ev Fld.vecEvents_poison d (c := c), .error (.fail stPoisoned)) else (m, .ok (plain bs))

/-- VUNPK: codes times lane 0 of va, one rounding. -/
def vecVunpk (d c : Nat) (m : Mach) (r : VecRun) (v : VInst) : Mach × VOut :=
  let f := bitsOf v.imm 14 12
  if 4 < f then (m, .fail stIllegal)
  else
    let n := 16 * shortBits f
    let (m, res) := if bitOf v.imm 15 then m.vecRead d c r.seq (vAddr r v.sa 0) n else m.vecOcRead d c (r.sreg v.sa) n 1
    match res with
    | .error o => (m, o)
    | .ok bs =>
      let codes := (elemCodes (shortBits f) (bs.map (fun b => (b, false))) 128).map (·.1)
      let k := fmtB32.unpack ((r.row false v.va).headD 0)
      m.vecResult d c v (codes.map (fun x =>
        let a := shortVal f x
        (fmtB32.pack .rne (a.mul k)).orNv (k.snan || a.mulInvalid k)))

/-! ### Loads, stores, accumulator reads, zero-maps -/

/-- VLD. -/
def vecVld (d c : Nat) (m : Mach) (r : VecRun) (v : VInst) : Mach × VOut :=
  match m.vecRead d c r.seq (vAddr r v.sa v.simm) 512 with
  | (m, .ok bs) => m.vecLoadRow d c v.vd bs
  | (m, .error o) => (m, o)

/-- VST, and VSTA with an element width. [DEDUCED, log 66] -/
def vecVst (acc : Bool) (d c : Nat) (m : Mach) (r : VecRun) (v : VInst) : Mach × VOut :=
  m.vecWrite d c r.seq [(vAddr r v.sa v.simm, rowBytes (r.lanes v.va))] (if acc then (if v.w then 8 else 4) else 0)

/-- The elements of a strided access: address of each. -/
def vStride (r : VecRun) (v : VInst) : List Nat :=
  (List.range (if v.w then 64 else 128)).map (fun i => wrap 64 ((vAddr r v.sa v.simm : Int) + i * signed 64 (r.sreg v.sb)))

/-- VLDS. -/
def vecVlds (d c : Nat) (m : Mach) (r : VecRun) (v : VInst) : Mach × VOut :=
  let n := if v.w then 8 else 4
  let (m, res) := (vStride r v).foldl (fun (acc : Mach × Except VOut (List Byte)) a =>
    match acc.2 with
    | .error (.fail s) => (acc.1, .error (.fail s))
    | cur =>
      match acc.1.pageElem d c r a n with
      | some bs => (acc.1, cur.map (fun l => l ++ bs))
      | none =>
        match acc.1.vecRead d c r.seq a n, cur with
        | (m, .ok bs), .ok l => (m, .ok (l ++ bs))
        | (m, .ok _), e => (m, e)
        | (m, .error o), .ok _ => (m, .error o)
        | (m, .error (.fail s)), _ => (m, .error (.fail s))
        | (m, .error _), e => (m, e)) (m, .ok [])
  match res with
  | .ok bs => m.vecLoadRow d c v.vd bs
  | .error o => (m, o)

/-- VSTS. -/
def vecVsts (d c : Nat) (m : Mach) (r : VecRun) (v : VInst) : Mach × VOut :=
  let n := if v.w then 8 else 4
  let bs := rowBytes (r.lanes v.va)
  m.vecWrite d c r.seq ((vStride r v).mapIdx (fun i a => (a, (bs.drop (n * i)).take n))) 0

/-- VOLD, with an error of the operand cache met by the read (R145, R147). -/
def vecVold (ecc : Option (Bool × Nat)) (d c : Nat) (m : Mach) (r : VecRun) (v : VInst) : Mach × VOut :=
  let off : Int := (r.sreg v.sa : Int) + v.imm
  let m := match ecc with
    | some (double, k) => if ocOk off 512 64 then m.ocEcc d c (off.toNat / 32 + k % 16) double else m
    | none => m
  match m.vecOcRead d c off 512 64 with
  | (m, .ok bs) => m.vecLoadRow d c v.vd bs
  | (m, .error o) => (m, o)

/-- VOST. -/
def vecVost (d c : Nat) (m : Mach) (r : VecRun) (v : VInst) : Mach × VOut :=
  let off : Int := (r.sreg v.sa : Int) + v.imm
  if !ocOk off 512 64 then (m, .fail stOcRange)
  else (m.modVec d c (fun x => x.ocWrite off.toNat ((rowBytes (r.lanes v.va)).map (fun b => (b, false)))), .next)

/-- R148: one value of a location times d, rounded once to the destination format. -/
def accValue (loc : Nat) (wide : Bool) (cell dsc : Nat) : Nat :=
  let x := if loc = 2 then fmtB64.unpack cell else fmtFA40.unpack cell
  let f := vFmt wide
  if x.isNan then f.nanCode else (f.pack .rne (x.mul (f.unpack dsc))).v

/-- VACC (R94, R95, R148 to R150); `bad`: the spill-store lines read have uncorrectable errors, which poison them (R417).
[DESIGN CHOICE, log 139] -/
def vecVacc (bad : Bool) (d c : Nat) (m : Mach) (r : VecRun) (v : VInst) : Mach × VOut :=
  let loc := v.imm % 4
  let first := bitsOf v.imm 8 2
  let n := bitsOf v.imm 16 9
  let toOc := bitOf v.imm 17
  let regs := if v.w then 2 * n else n
  let off : Int := r.sreg v.sa
  if loc = 3 ∨ n = 0 ∨ 128 < first + n ∨ (!toOc ∧ 32 < v.vd + regs) then (m, .fail stIllegal)
  else if loc = 2 ∧ !v.w then (m, .fail stAccRead)
  else if m.locState d c loc ≠ plReleased then
    (m.ev Fld.arrEvents_read_err d (c := c), .fail (if m.locPoisonAb d c loc then stPoisoned else stAccRead))
  else if toOc && !ocOk off (512 * regs) 64 then (m, .fail stOcRange)
  else if bad && loc == 2 then (m.toCp d 0x34 false false [(4, 5), (8, coreNum d c), (48, 0)], .fail stPoisoned)
  else
    let dsc := (r.row v.w v.va).headD 0
    let lanes := (List.range n).flatMap (fun k =>
      toLanes v.w ((List.range 128).map (fun j => accValue loc v.w (m.locCell d c loc (first + k) j) dsc)))
    let m := m.cnt .vecCnt d 2 n (c := c)
    let m :=
      if toOc then m.modVec d c (fun x => x.ocWrite off.toNat ((rowBytes lanes).map (fun b => (b, false))))
      else (List.range regs).foldl (fun m k =>
        m.modRun d c (fun r => { r with v := smSet [] r.v (v.vd + k) ((lanes.drop (128 * k)).take 128) })) m
    (if v.free then m.freeLoc d c loc else m, .next)

/-- ZMAPWR (R156, R157): n bits of the accumulator written at a byte address and bit position; other bits stay. -/
def vecZmapwr (d c : Nat) (m : Mach) (r : VecRun) (v : VInst) : Mach × VOut :=
  let first := v.imm % 4096
  let pos := bitsOf v.imm 14 12
  let n := r.sreg v.sb
  if 4096 < first + n then (m, .fail stZmapRange)
  else if n = 0 then (m, .next)
  else
    let a := r.sreg v.sa
    let len := ceilDiv (pos + n) 8
    match m.engRead (vecEng d c r.seq) a len with
    | (m, .ok bs) =>
      let old := ofBytes (plain bs)
      let new := setBits old (pos + n - 1) pos (r.zmap >>> first)
      m.vecWrite d c r.seq [(a, toBytes len new)] 0
    | (m, res) => (m, vOfRes res)

/-! ### Scalars -/

/-- A scalar instruction: what s[sa] becomes. -/
def vecScalar (f : VecRun → VInst → Int) (d c : Nat) (m : Mach) (r : VecRun) (v : VInst) : Mach × VOut :=
  (m.modRun d c (fun x => x.setS v.sa (f r v)), .next)

/-- SLOOP (R203). -/
def vecSloop (d c : Nat) (m : Mach) (r : VecRun) (v : VInst) : Mach × VOut :=
  let n := wrap 64 ((r.sreg v.sa : Int) - 1)
  (m.modRun d c (fun x => x.setS v.sa n), if n = 0 then .next else .jump ((r.idx : Int) + v.simm))

/-! ### Start and completion -/

/-- R212, R216: the checks of a vector descriptor. -/
def vectorChecks (ws : List Nat) : List FieldCheck :=
  headerChecks ws 2 ++
  [(112, decide (1 ≤ vLen ws)), (108, decide (wbits ws 1 47 44 ≤ 8)), (144, vProg ws % 8 == 0),
   (208, wbits ws 1 47 44 == 0 || wbits ws 3 63 16 % 64 == 0)] ++
  reservedChecks ws 1 43 32 ++ reservedChecks ws 2 15 0 ++ reservedChecks ws 3 15 0 ++ reservedChecks ws 4 63 0 ++
  reservedChecks ws 5 63 0 ++ reservedChecks ws 6 63 0 ++ reservedChecks ws 7 63 0

/-- Start a program with its arguments. -/
def Mach.vecBegin (m : Mach) (d c : Nat) (x : Desc) (args : List Nat) : Mach :=
  let s := (args.map (BitVec.ofNat 64) ++ List.replicate 16 0#64).take 16
  let page := (List.range 32).map (fun i => BitVec.ofNat 64 (m.rd .vecStepAct d i))
  let m := m.startDesc d c 1 x.seq
  let m := m.modVec d c (fun v => { v with run := some { seq := x.seq, words := x.words, idx := 0, v := [], base := m.freeCtr,
                                                         s, zacc := none, flags := 0, last := 0, page,
                                                         waits := false, sclWait := none } })
  ((m.tickFree.put Fld.vecStatus_busy d 1 (c := c)).put Fld.vecStatus_pc_index d 0 (c := c))

/-- R141, R212, R213, R217: the oldest unstarted vector descriptor is validated and its wait begins, also while another program runs; where
none runs it starts with its arguments. [DEDUCED, log 57] -/
def Mach.vectorStart (m : Mach) (d c : Nat) : Mach :=
  if m.fenced d c then m
  else match m.oldest d c 1 with
    | none => m
    | some x =>
      match (if x.waiting || x.released then none else firstBad (vectorChecks x.words)) with
      | some bit => (m.completeBad d c 1 x bit).cnt .vecCnt d 0 (c := c)
      | none =>
        match m.waitDone d c 1 x with
        | (m, false) => m
        | (m, true) =>
          let n := wbits x.words 1 47 44
          if (m.vec d c).run.isSome then m
          else if n = 0 then m.vecBegin d c x []
          else match m.engRead (vecEng d c x.seq) (wbits x.words 3 63 16) (8 * n) with
            | (m, .ok bs) =>
              if anyPoison bs then (m.vecBegin d c x []).vecFinish d c stPoisoned
              else m.vecBegin d c x (wordsOf (plain bs) n)
            | (m, .fault) => (m.vecBegin d c x []).vecFinish d c stMemAccess
            | (m, .poisonedTable) => (m.vecBegin d c x []).vecFinish d c stPoisoned
            | (m, _) => m

/-- R144, R161, R367: the program is over and every store it issued is acknowledged, those to other modules by their homes (one that was
refused there ends it with MEM_ACCESS), or the instruction at issue is none of Table 7.5 or cannot be read. [DEDUCED, log 140] -/
def Mach.vectorComplete (m : Mach) (d c : Nat) : Mach :=
  match (m.vec d c).run with
  | none => m
  | some r =>
    if vLen r.words ≤ r.idx then
      if m.engOutstanding d c 1 r.seq then m
      else m.vecFinish d c (if (m.die d).engineBad.contains (c, 1, r.seq) then stMemAccess else stOk)
    else match m.vecFetch d c with
      | (m, .fault s) => m.vecFinish d c s
      | (m, .word _ v) =>
        if vopDefined v.op then m else (m.vecNoted d c v.op).vecFinish d c stIllegal
      | (m, .none_) => m

/-- R162: ABORT or a die reset: the program is gone, the operand cache zero and without poison. -/
def Mach.vecAbort (m : Mach) (d c : Nat) : Mach :=
  let m := m.modVec d c (fun _ => VecSt.init)
  ((m.put Fld.vecStatus_busy d 0 (c := c)).put Fld.vecStatus_scale_wait d 0 (c := c)).put Fld.vecStatus_pc_index d 0 (c := c)

/-! ### Registers -/

/-- VEC_SR_KEY, VEC_SR_CTR_LO, VEC_SR_CTR_HI written (R168). -/
def Mach.wrVecSr (m : Mach) (id : RegId) (w : RegW) : Mach :=
  if m.flag Fld.vecStatus_busy id.die (c := id.core) then m.ev Fld.vecEvents_cfg_err id.die (c := id.core) else m.setReg id w.new

/-- VEC_SCL_BASE, VEC_SCL_CFG written (R168, R549). -/
def Mach.wrVecScl (m : Mach) (id : RegId) (w : RegW) : Mach :=
  let d := id.die
  let base := if id.reg = Reg.vecSclBase then Fld.vecSclBase_base.of w.new else m.get Fld.vecSclBase_base d
  let n := if id.reg = Reg.vecSclCfg then Fld.vecSclCfg_entries.of w.new else m.get Fld.vecSclCfg_entries d
  let running := (List.range 32).any (fun c => (m.vec d c).run.isSome)
  if running || !regionOk (base * 64) (64 * min n 4096) then m.ev Fld.vecDieEvents_cfg_err d else m.setReg id w.new

/-- The pending page written (R165): a `for_step` not above the active page's `latched_step` is late. -/
def Mach.wrStepPend (m : Mach) (id : RegId) (w : RegW) : Mach :=
  let d := id.die
  let old := m.rd .vecStepPend d id.i
  let late := decide (w.new ≤ m.rd .vecStepAct d 24)
  let m := (m.setReg id w.new).modDie d (fun x => { x with
    pend := if x.pend.any (fun p => p.1 == id.i) then x.pend else x.pend ++ [(id.i, BitVec.ofNat 64 old)],
    pendFor := if id.i = 0 ∧ !late then x.pendFor ++ [BitVec.ofNat 64 w.new] else x.pendFor })
  if id.i = 0 ∧ w.new ≤ m.rd .vecStepAct d 24 then
    (m.bump Fld.vecStepLate_late d).ev Fld.vecDieEvents_late d
  else m

/-- R164: word `i` of the pending page as it stood at the start of the PMU cycle. -/
def Mach.pendAtCycle (m : Mach) (d i : Nat) : Nat :=
  match (m.die d).pend.find? (fun p => p.1 == i) with
  | some p => p.2.toNat
  | none => m.rd .vecStepPend d i

/-- R164: a die latches its page at the partition's step `step`: whether it is stale. A store of this PMU cycle is for the next latch
(R165): it is late when its `for_step` is not above the step now latched. -/
def Mach.stepLatch (m : Mach) (d step : Nat) : Mach × Bool :=
  let stale := m.pendAtCycle d 0 != step
  let late := ((m.die d).pendFor.filter (fun x => x.toNat ≤ step)).length
  let m := (List.range 24).foldl (fun m i => m.wr .vecStepAct d (m.pendAtCycle d i) i) m
  let m := if late = 0 then m else (m.bump Fld.vecStepLate_late d late).ev Fld.vecDieEvents_late d
  let m := ((m.wr .vecStepAct d step 24).wr .vecStepAct d (m.ft d) 25).wr .vecStepAct d (b2n stale) 26
  (if stale then m.ev Fld.vecDieEvents_stale d else m, stale)

end Sys2Proof.Machine
end

