-- ==== Sys2Proof/Machine/Mover.lean ====
section
/-! DEFINITION. The mover (R218 to R221): validation, start, the work of each operation line by line, completion. -/

namespace Sys2Proof.Machine

/-- Table 8.6: the fields of a mover descriptor. -/
def mvOp (ws : List Nat) : Nat := wbits ws 1 63 60
def mvKeep (ws : List Nat) : Bool := wbits ws 1 59 59 = 1
def mvAcc64 (ws : List Nat) : Bool := wbits ws 1 58 58 = 1
def mvSerial (ws : List Nat) : Bool := wbits ws 1 57 57 = 1
def mvLines (ws : List Nat) : Nat := wbits ws 1 47 32
def mvSrc (ws : List Nat) : Nat := wbits ws 2 63 16
def mvPattern (ws : List Nat) : Nat := wbits ws 2 63 0
def mvDst (ws : List Nat) : Nat := wbits ws 3 63 16
def mvBytes (ws : List Nat) : Nat := wbits ws 4 63 32
def mvSrcPitch (ws : List Nat) : Nat := wbits ws 5 63 32
def mvDstPitch (ws : List Nat) : Nat := wbits ws 5 31 0

/-- The first byte past what a side of a descriptor reaches: lines of `n` bytes from `base` at a pitch. -/
def mvReach (base pitch lines n : Nat) : Nat := base + (lines - 1) * pitch + n

/-- R212, R218, R219: the checks of a mover descriptor at validation. -/
def Mach.moverChecks (m : Mach) (d c : Nat) (ws : List Nat) : List FieldCheck :=
  let op := mvOp ws
  let n := mvBytes ws
  let srcEnd := mvReach (mvSrc ws) (mvSrcPitch ws) (mvLines ws) n
  let dstEnd := mvReach (mvDst ws) (mvDstPitch ws) (mvLines ws) n
  let srcOk := op == 6 || (mvSrc ws % 32 == 0 && (op != 2 || decide (srcEnd ≤ 0x80000)))
  let dstOk := match op with
    | 1 => mvDst ws % 32 == 0 && decide (dstEnd ≤ 0x80000)
    | 3 => mvDst ws % 256 == 0 && decide (dstEnd ≤ m.residentBytes d c false)
    | 4 => mvDst ws % 256 == 0 && decide (dstEnd ≤ m.residentBytes d c true)
    | 5 => true
    | _ => mvDst ws % 32 == 0
  headerChecks ws 3 ++
  [(124, decide (op ≤ 7)), (122, op == 7 || !mvAcc64 ws), (96, decide (1 ≤ mvLines ws)), (144, srcOk), (208, dstOk),
   (288, decide (32 ≤ n) && decide (n ≤ 16777216) && n % 32 == 0), (352, op == 6 || mvSrcPitch ws % 32 == 0),
   (320, op == 5 || (mvDstPitch ws % 32 == 0 && (decide (mvLines ws ≤ 1) || decide (n ≤ mvDstPitch ws))))] ++
  reservedChecks ws 1 56 48 ++ (if op = 6 then [] else reservedChecks ws 2 15 0) ++ reservedChecks ws 3 15 0 ++
  reservedChecks ws 4 31 0 ++ reservedChecks ws 6 63 0 ++ reservedChecks ws 7 63 0

/-- The mover's accesses to memory. -/
def moverEng (d c seq : Nat) (keep : Bool) : Eng :=
  { die := d, core := some c, req := .mover c, keep, queue := 2, seq, viaCache := false }

/-- A mover descriptor in progress. -/
def Mach.movRun (m : Mach) (d c seq : Nat) : Option MovRun := (m.core d c).movs.find? (fun r => r.seq == seq)

/-- Change a mover descriptor in progress. -/
def Mach.modMov (m : Mach) (d c seq : Nat) (f : MovRun → MovRun) : Mach :=
  m.modCore d c (fun x => { x with movs := x.movs.map (fun r => if r.seq = seq then f r else r) })

/-- R220: whether the mover may start a descriptor now: fewer than 8 in progress, none with `serial`. -/
def Mach.moverRoom (m : Mach) (d c : Nat) (ws : List Nat) : Bool :=
  let n := (m.core d c).movs.length
  if mvSerial ws then n == 0 else decide (n < 8)

/-- R212, R213, R220: the oldest unstarted mover descriptor, when it is number `seq` and of operation `op`: validated, its
wait, its start. -/
def Mach.moverStart (m : Mach) (d c seq op : Nat) : Mach :=
  match m.oldest d c 2 with
  | none => m
  | some x =>
    if x.seq ≠ seq then m
    else match (if x.waiting || x.released then none else firstBad (m.moverChecks d c x.words)) with
      | some bit => m.completeBad d c 2 x bit
      | none =>
        if mvOp x.words ≠ op then m
        else match m.waitDone d c 2 x with
          | (m, false) => m
          | (m, true) =>
            if m.moverRoom d c x.words then
              let r : MovRun := { seq, words := x.words, line := 0, finished := false, status := stOk, poisoned := 0, bytes := 0 }
              (m.startDesc d c 2 seq).modCore d c (fun k => { k with movs := k.movs ++ [r] })
            else m

/-- Whether the source of one line is there: bytes with marks, a wait, or a failure. -/
def Mach.moverRead (m : Mach) (d c : Nat) (r : MovRun) : Mach × EngRes :=
  let ws := r.words
  let n := mvBytes ws
  match mvOp ws with
  | 2 => (m, .ok ((m.vec d c).ocRead (mvSrc ws + r.line * mvSrcPitch ws) n))
  | 6 =>
    let p := toBytes 8 (mvPattern ws)
    (m, .ok ((List.range n).map (fun i => (p.getD (i % 8) 0#8, false))))
  | _ => m.engRead (moverEng d c r.seq (mvKeep ws)) (mvSrc ws + r.line * mvSrcPitch ws) n

/-- The sectors of a line that carry poison. -/
def poisonedSectors (bs : List (Byte × Bool)) : Nat := ((List.range (bs.length / 32)).filter (fun i =>
  anyPoison ((bs.drop (32 * i)).take 32))).length

/-- Write a stager's resident bytes with the marks of their sectors. -/
def ArrSt.stagWrite (a : ArrSt) (b : Bool) (off : Nat) (bs : List (Byte × Bool)) : ArrSt :=
  let bytes := (bs.mapIdx (fun i x => (off + i, x.1))).foldl (fun s p => smSet 0#8 s p.1 p.2) (if b then a.stagB else a.stagA)
  let marks := (pieces off bs.length).foldl (fun s p =>
    let part := (bs.drop (p.1 - off)).take p.2
    if anyPoison part then smSet 0 s (p.1 / 32) 1 else if p.2 = 32 then smSet 0 s (p.1 / 32) 0 else s)
    (if b then a.poisB else a.poisA)
  if b then { a with stagB := bytes, poisB := marks } else { a with stagA := bytes, poisA := marks }

/-- Write one line to its destination: whether it went, has to wait (R82), or failed. -/
def Mach.moverWrite (m : Mach) (d c : Nat) (r : MovRun) (bs : List (Byte × Bool)) : Mach × EngRes :=
  let ws := r.words
  let dst := mvDst ws + r.line * mvDstPitch ws
  let e := moverEng d c r.seq (mvKeep ws)
  let toStager (b : Bool) : Mach × EngRes :=
    if m.residentLocked d c b dst bs.length then (m, .wait)
    else (m.modArr d c (fun a => a.stagWrite b dst bs), .ok [])
  match mvOp ws with
  | 1 => (m.modVec d c (fun v => v.ocWrite dst bs), .ok [])
  | 3 => toStager false
  | 4 => toStager true
  | op =>
    match m.engCanWrite e dst bs.length (op == 7) with
    | (m, some f) => (m, f)
    | (m, none) => (m.engWrite e dst bs (if op = 7 then (if mvAcc64 ws then 8 else 4) else 0), .ok [])

/-- R221, R299, Table 10.3: prefetch the 128-byte lines of one line of a descriptor into their home die caches; a remote line
into this die's; what does not translate is skipped, register class dropped. Whether the prefetch was issued; none while its translation
waits. -/
def Mach.prefetchLine (m : Mach) (e : Eng) (va : Nat) (home : Bool) : Mach × Option Bool :=
  let go (m : Mach) (into : Nat) (node : Option Nat) (a : Nat) (mirror : Bool) : Mach × Option Bool :=
    (match e.core with
      | some c => m.corePrefetch e.die c into node a e.req mirror
      | none => m.prefetchGo (lineFill into e.die node a e.req .explicit mirror), some (!m.prefetchMoot into node a))
  match m.engTranslate e va .read with
  | (m, .error (.wait _)) => (m, none)
  | (m, .ok (.coherent pa mirror _)) => go m (if home then homeDie pa else e.die) none pa mirror
  | (m, .ok (.remote node off)) =>
    if m.requestRefused e.die node (.read (lineBase off) 128) || m.isLost e.die node then (m, some false) else go m e.die (some node) off false
  | (m, _) => (m, some false)

/-- The virtual 128-byte lines that a byte range touches. -/
def lineBases (va n : Nat) : List Nat :=
  (List.range ((va + n - 1) / 128 + 1 - va / 128)).map (fun i => (va / 128 + i) * 128)

/-- The work of one line of a descriptor in progress; true when the next line may follow. [DEDUCED, log 69] -/
def Mach.moverLine (m : Mach) (d c : Nat) (r : MovRun) : Mach × Bool :=
  let ws := r.words
  let fail (m : Mach) (st : Nat) : Mach := m.modMov d c r.seq (fun x => { x with finished := true, status := st })
  if mvOp ws = 5 then
    let e := moverEng d c r.seq (mvKeep ws)
    let (m, ok) := (lineBases (mvSrc ws + r.line * mvSrcPitch ws) (mvBytes ws)).foldl (fun (acc : Mach × Bool) va =>
      if acc.2 then (let (m, x) := acc.1.prefetchLine e va true; (m, x.isSome)) else acc) (m, true)
    if ok then (m.modMov d c r.seq (fun x => { x with line := x.line + 1 }), true) else (m, false)
  else
    match m.moverRead d c r with
    | (m, .ok bs) =>
      (match m.moverWrite d c r bs with
      | (m, .ok _) =>
        (m.modMov d c r.seq (fun x =>
          { x with line := x.line + 1, poisoned := x.poisoned + poisonedSectors bs, bytes := x.bytes + bs.length }), true)
      | (m, .wait) => (m, false)
      | (m, .lost) => (fail m stPeerLost, false)
      | (m, .poisonedTable) => (fail m stPoisoned, false)
      | (m, .fault) => (fail m stMemAccess, false))
    | (m, .wait) => (m, false)
    | (m, .lost) => (fail m stPeerLost, false)
    | (m, .poisonedTable) => (fail m stPoisoned, false)
    | (m, .fault) => (fail m stMemAccess, false)

/-- The lines that remain, in order, as far as they go. [DEDUCED, log 69] -/
def Mach.moverGo (m : Mach) (d c seq : Nat) : Nat → Mach
  | 0 => m
  | fuel + 1 =>
    match m.movRun d c seq with
    | none => m
    | some r =>
      if r.finished then m
      else if mvLines r.words ≤ r.line then m.modMov d c seq (fun x => { x with finished := true })
      else match m.moverLine d c r with
        | (m, true) => m.moverGo d c seq fuel
        | (m, false) => m

/-- One mover operation (Table 8.7) of descriptor `seq`: started when it is its turn, then worked on as far as its data and the
stagers let it. -/
def Mach.mover (m : Mach) (d c seq op : Nat) : Mach :=
  if m.fenced d c then m
  else
    let m := if (m.movRun d c seq).isNone then m.moverStart d c seq op else m
    match m.movRun d c seq with
    | none => m
    | some r => if mvOp r.words = op then m.moverGo d c seq (mvLines r.words + 2) else m

/-- R220, R221: a mover descriptor whose writes are all acknowledged completes; one whose remote target was lost completes
with PEER_LOST. [DEDUCED, log 73] -/
def Mach.moverComplete (m : Mach) (d c seq : Nat) : Mach :=
  match m.movRun d c seq with
  | none => m
  | some r =>
    let lost := (m.die d).engineLost.any (fun x => x == (c, 2, seq))
    let bad := (m.die d).engineBad.any (fun x => x == (c, 2, seq))
    if (!r.finished && !lost && !bad) || m.engOutstanding d c 2 seq then m
    else match (m.queue d c 2).find? (fun x => x.seq == seq) with
      | none => m
      | some x =>
        let m := m.modCore d c (fun k =>
          { k with movs := k.movs.filter (fun y => y.seq != seq),
                   engBuf := k.engBuf.filter (fun s => !(s.queue == 2 && s.seq == seq)) })
        let m := m.modDie d (fun k => { k with engineLost := k.engineLost.filter (fun y => y != (c, 2, seq)),
                                               engineBad := k.engineBad.filter (fun y => y != (c, 2, seq)) })
        m.complete d c 2 x (if lost then stPeerLost else if bad then stMemAccess else r.status) none (satN 32 r.poisoned) r.bytes

/-- ABORT, a fence or a die reset: the mover of a core stops. -/
def Mach.moverAbort (m : Mach) (d c : Nat) : Mach :=
  (m.modCore d c (fun k => { k with movs := [] })).modDie d (fun k =>
    { k with engineLost := k.engineLost.filter (fun y => !(y.1 == c && y.2.1 == 2)),
             engineBad := k.engineBad.filter (fun y => y.1 != c) })

end Sys2Proof.Machine
end

