-- ==== Sys2Proof/Machine/Launch.lean ====
section
/-! DEFINITION. Launch queues and the launch unit (R183 to R187, R198, R224 to R230), and the ring registers (R234, R235). -/

namespace Sys2Proof.Machine

/-! ### Reading a launch -/

/-- The rows of a partition (R198): 4 × die + row, ascending. -/
def Part.rows (p : Part) : List Nat := p.dies.flatMap (fun d => (List.range 4).map (fun r => 4 * d + r))

/-- Give `n` more rows, one at a time, to the kernels with the largest remainders (R198, step 2): `fr` are the remainders, and a
kernel that has got its row has none left. -/
def shareSpare (counts fr : List Nat) : Nat → List Nat
  | 0 => counts
  | n + 1 =>
    let best := (List.range fr.length).foldl (fun b i => if fr.getD b 0 < fr.getD i 0 then i else b) 0
    shareSpare (counts.modify best (· + 1)) (fr.set best 0) n

/-- R198, step 3: a kernel with no row takes one from the kernel that holds the most. -/
def fixEmpty (counts : List Nat) : List Nat :=
  (List.range counts.length).foldl (fun cs i =>
    if cs.getD i 0 = 0 then
      let big := (List.range cs.length).foldl (fun b k => if cs.getD b 0 < cs.getD k 0 then k else b) 0
      (cs.modify big (· - 1)).modify i (· + 1)
    else cs) counts

/-- R198, step 4: consecutive rows to each kernel. -/
def dealRows : List Nat → List Nat → List (List Nat)
  | [], _ => []
  | n :: ns, rows => rows.take n :: dealRows ns (rows.drop n)

/-- R198: how many of `r` rows each kernel of weights `ws` gets. -/
def rowCounts (r : Nat) (ws : List Nat) : List Nat :=
  let total := ws.foldl (· + ·) 0
  let base := ws.map (fun w => r * w / total)
  fixEmpty (shareSpare base (ws.map (fun w => r * w % total)) (r - base.foldl (· + ·) 0))

/-- R198: the rows of each kernel of a launch. -/
def launchRows (p : Part) (ws : List Nat) : List (List Nat) :=
  let n := lKernels ws
  if n = 1 then [p.rows] else dealRows (rowCounts p.rows.length ((List.range n).map (kWeight ws))) p.rows

/-- R212, R226, R227: the checks of a launch descriptor for a partition. -/
def launchChecks (p : Part) (ws : List Nat) : List FieldCheck :=
  let n := lKernels ws
  headerChecks ws 5 ++
  [(125, p.dieMask.testBit (lCtrDie ws)), (120, decide (1 ≤ lLsSize ws)), (118, decide (n ≤ p.rows.length))] ++
  reservedChecks ws 1 53 32 ++ reservedChecks ws 2 63 0 ++ reservedChecks ws 3 63 0 ++
  (List.range n).flatMap (fun i =>
    let b := 64 * (4 + 3 * i)
    [(b + 16, kEntry ws i % 4 == 0), (b + 8, n == 1 || decide (1 ≤ kWeight ws i)), (b + 80, kArgs ws i % 8 == 0),
     (b + 69, decide (1 ≤ kThreads ws i) && decide (kThreads ws i ≤ 1024)), (b + 64, decide (1 ≤ kXregs ws i)),
     (b + 160, decide (1 ≤ kBlocks ws i) && kBlocks ws i % lCluster ws == 0), (b + 154, decide (kFregs ws i ≤ 32)),
     (b + 144, decide (kLs ws i ≤ 896) && decide (kLs ws i * 4096 ≤ lLsSize ws * 524288))] ++
    reservedChecks ws (4 + 3 * i) 7 0 ++ reservedChecks ws (6 + 3 * i) 15 0)

/-- R224, R228: the launch unit reads the next descriptor of queue `q` of the partition in slot `k`: its slot, its validation, its
wait and its rows; none while the partition is being aborted (R22), or while the read waits (R302, R306). A descriptor in a dead range where
reads fault (R296) gives none of its fields. [DEDUCED, log 53] -/
def Mach.launchRead (m : Mach) (k q : Nat) : Mach :=
  match m.partAt k with
  | none => m
  | some p =>
    let d := p.low
    let head := m.get Fld.lqHead_head d q
    if m.aborting k || !m.flag Fld.lqCfg_enable d q || head == m.get Fld.lqTail_tail d q ||
        p.launches.any (fun l => l.lq == q && !l.allPlaced) then m
    else
      let a := m.get Fld.lqBase_base d q * 128 + 128 * (head % 2 ^ m.get Fld.lqCfg_log2_entries d q)
      match m.tableRead (Via.engine d) a 128 with
      | (m, .ok bs) =>
      let m := m.put Fld.lqHead_head d (head + 1) q
      let ws := wordsOf (plain bs) 16
      if anyPoison bs then m.launchDone p q head ws stPoisoned none 0 0
      else match firstBad (launchChecks p ws) with
        | some bit => m.launchDone p q head ws stFieldRange (some bit) 0 0
        | none =>
          let l : Launch := { lq := q, seq := head, words := ws, released := !hWaitEn ws, placed := List.replicate (lKernels ws) 0,
                              exited := 0, faulted := 0, rows := launchRows p ws }
          let m := m.modPart k (fun x => { x with launches := x.launches ++ [l] })
          if hWaitEn ws then m.ctrWait (lCtrDie ws) (hWaitCtr ws) (hWaitVal ws) false (.launch k q head) else m
      | (m, .fault) => (m.put Fld.lqHead_head d (head + 1) q).launchDone p q head [] stMemAccess none 0 0
      | (m, _) => m

/-! ### Placing blocks -/

/-- A launch has placed a block. -/
def Launch.begun (l : Launch) : Bool := l.placed.any (fun n => decide (0 < n))

/-- R229: whether a launch may place blocks beside the others of its partition: none beside a branch set that has begun; a branch set begins
when every other launch has completed, of branch sets that wait for each other the one read first. [DESIGN CHOICE, log 141] -/
def Part.mayPlace (p : Part) (l : Launch) : Bool :=
  let same (x : Launch) : Bool := x.lq == l.lq && x.seq == l.seq
  let branch (x : Launch) : Bool := decide (1 < lKernels x.words)
  let others := p.launches.filter (fun x => !same x)
  if branch l then l.begun || ((p.launches.takeWhile (fun x => !same x)).isEmpty && others.all (fun x => branch x && !x.begun))
  else !others.any (fun x => branch x && x.begun)

/-- R228: the queue to be served next, with its launch: in rotation after the one last served, the first with a launch whose
wait is over and that has blocks left. -/
def Part.nextLaunch (p : Part) : Option Launch :=
  (List.range 16).findSome? (fun i =>
    p.launches.find? (fun l => l.lq == (p.lastQueue + 1 + i) % 16 && l.released && !l.allPlaced && p.mayPlace l))

/-- The kernel whose rows hold core `c` of die `d` and that has blocks left (R199). -/
def Launch.kernelAt (l : Launch) (d c : Nat) : Option Nat :=
  (List.range (lKernels l.words)).find? (fun i =>
    (l.rows.getD i []).contains (4 * d + c / 8) && decide (l.placed.getD i 0 < kBlocks l.words i))

/-- The groups that schedulers of a core hold, as (scheduler, register bytes): those with a live thread. -/
def Mach.residentGroups (m : Mach) (d c : Nat) : List (Nat × Nat) :=
  (m.core d c).blocks.flatMap (fun b =>
    ((List.range b.groups).filter b.groupLive).map (fun g => (b.sched.getD g 0, groupRegBytes b.xregs b.fregs)))

/-- R185: the scheduler for one more group: the most free group places, then free register bytes, then the lowest.
[DEDUCED, log 54] -/
def pickSched (held : List (Nat × Nat)) (bytes : Nat) : Option Nat :=
  let room := (List.range 4).map (fun s =>
    let mine := held.filter (fun h => h.1 == s)
    (s, 16 - mine.length, 131072 - (mine.map (·.2)).foldl (· + ·) 0))
  (room.filter (fun r => decide (0 < r.2.1) && decide (bytes ≤ r.2.2))).foldl (fun best r => match best with
    | none => some r
    | some b => if b.2.1 < r.2.1 ∨ (b.2.1 = r.2.1 ∧ b.2.2 < r.2.2) then some r else best) none |>.map (·.1)

/-- R185: schedulers for `n` groups, one at a time. [DEDUCED, log 54] -/
def pickScheds (held : List (Nat × Nat)) (bytes : Nat) : Nat → Option (List Nat)
  | 0 => some []
  | n + 1 =>
    match pickSched held bytes with
    | none => none
    | some s => (pickScheds ((s, bytes) :: held) bytes n).map (s :: ·)

/-- R183: whether a core waits for its blocks of another split to leave. -/
def Mach.splitHeld (m : Mach) (d c ls : Nat) : Bool :=
  m.get Fld.tguStatus_ls_half_mib d (c := c) != ls && !(m.core d c).blocks.isEmpty

/-- R184: the blocks of kernel `i` that the register files of a core take: ⌊4 × G_s / gpb⌋. -/
def regBlocks (ws : List Nat) (i : Nat) : Nat :=
  4 * min 16 (131072 / groupRegBytes (kXregs ws i) (kFregs ws i)) / ceilDiv (kThreads ws i) 64

/-- R183, R184, R197: the schedulers a block of kernel `i` gets on a core, if the core can take it: fewer than B blocks are resident
there. [DEDUCED, log 121] -/
def Mach.roomFor (m : Mach) (d c : Nat) (ws : List Nat) (i : Nat) : Option (List Nat) :=
  let bs := (m.core d c).blocks
  let held := (bs.map (·.lsBytes)).foldl (· + ·) 0
  if m.fenced d c || m.splitHeld d c (lLsSize ws) || decide (32 ≤ bs.length) ||
      decide (regBlocks ws i ≤ (bs.filter (fun b => !b.ended)).length) ||
      decide (lLsSize ws * 524288 < held + kLs ws i * 4096) then none
  else pickScheds (m.residentGroups d c) (groupRegBytes (kXregs ws i) (kFregs ws i)) (ceilDiv (kThreads ws i) 64)

/-- R175: a thread at its block's first instruction. -/
def Thread.start (entry args : Nat) : Thread :=
  { pc := entry, x := (List.replicate 32 0#64).set 10 (BitVec.ofNat 64 args), f := List.replicate 32 0#32, fcsr := 0, instret := 0,
    wait := .ready, exited := false, resv := none }

/-- The lowest free block place of a core. -/
def freePlace (bs : List Block) : Nat := ((List.range 32).find? (fun s => bs.all (fun b => b.slot != s))).getD 32

/-- R183: a core takes the split of a launch: a new one empties the L1. -/
def Mach.takeSplit (m : Mach) (d c ls : Nat) : Mach :=
  if m.get Fld.tguStatus_ls_half_mib d (c := c) = ls then m
  else
    let gone := ((m.core d c).l1.filter (fun l => l.mark != .demand)).length
    let m := m.modCore d c (fun x => { x with l1 := [] })
    let m := if gone = 0 then m else m.cnt .dcL1Cnt d 8 gone (c := c)
    (m.put Fld.tguStatus_ls_half_mib d ls (c := c)).put Fld.dcL1Status_ways d (8 * (8 - ls)) (c := c)

/-- Place one block of kernel `i` on a core whose schedulers are chosen. -/
def Mach.placeOn (m : Mach) (k : Nat) (l : Launch) (i d c index rank : Nat) (sched : List Nat) : Mach :=
  let ws := l.words
  let m := m.takeSplit d c (lLsSize ws)
  let b : Block :=
    { slot := freePlace (m.core d c).blocks, part := k, lq := l.lq, launch := l.seq, kernel := i, index, nblk := kBlocks ws i,
      xregs := kXregs ws i, fregs := kFregs ws i, threads := List.replicate (kThreads ws i) (Thread.start (kEntry ws i) (kArgs ws i)),
      ls := [], lsBytes := kLs ws i * 4096, crank := rank, csize := lCluster ws, sched, kept := [], bars := [], passed := [], ended := false }
  let m := (m.modCore d c (fun x => { x with blocks := x.blocks ++ [b] })).cnt .tguCnt d 10 (c := c)
  m.tguStatus d c

/-- R183: a launch of the partition waits for core `c` of die `d` to take its split. -/
def Part.waitsFor (p : Part) (m : Mach) (d c : Nat) : Bool :=
  p.launches.any (fun l => l.released && !l.allPlaced && p.mayPlace l && (l.kernelAt d c).isSome &&
    m.get Fld.tguStatus_ls_half_mib d (c := c) != lLsSize l.words)

/-- R183: TGU_STATUS.`draining` follows the launches that wait: it shows a wait that blocks of another split make, until the core has
taken the split or no launch waits for it. -/
def Mach.drainSettle (m : Mach) (k : Nat) : Mach :=
  match m.partAt k with
  | none => m
  | some p => p.dies.foldl (fun m d => (List.range 32).foldl (fun m c =>
      let waits := p.waitsFor m d c && (m.flag Fld.tguStatus_draining d (c := c) || !(m.core d c).blocks.isEmpty)
      if m.flag Fld.tguStatus_draining d (c := c) = waits then m else m.put Fld.tguStatus_draining d (b2n waits) (c := c)) m) m

/-- R185, R187, R228: the launch unit of the partition in slot `k` serves the next queue: one block, or one whole cluster, on
core `c` of die `d` (a cluster: on the aligned group of cores that holds `c`). [DEDUCED, log 53] -/
def Mach.blockPlace (m : Mach) (k d c : Nat) : Mach :=
  match m.partAt k with
  | none => m
  | some p =>
    match if m.aborting k then none else p.nextLaunch with
    | none => m
    | some l =>
      match l.kernelAt d c with
      | none => m
      | some i =>
        let n := lCluster l.words
        let cores := (List.range n).map (fun r => c / n * n + r)
        let room := cores.map (fun x => m.roomFor d x l.words i)
        if room.all (·.isSome) then
          let first := l.placed.getD i 0
          let m := (cores.zip room).foldl (fun m x =>
            m.placeOn k l i d x.1 (first + x.1 % n) (x.1 % n) (x.2.getD [])) m
          (m.modPart k (fun x =>
            { x with lastQueue := l.lq,
                     launches := x.launches.map (fun y => if y.lq = l.lq ∧ y.seq = l.seq then
                       { y with placed := y.placed.modify i (· + n) } else y) })).drainSettle k
        else cores.foldl (fun m x => if m.splitHeld d x (lLsSize l.words) then m.put Fld.tguStatus_draining d 1 (c := x) else m) m

/-! ### Registers -/

/-- LQ_TAIL written (R235); what is announced between an ABORT of the partition and the reading of its response is discarded, as ABORT
discards an unread descriptor (R501, R503). -/
def Mach.wrLqTail (m : Mach) (id : RegId) (w : RegW) : Mach :=
  let d := id.die
  let tail := Fld.lqTail_tail.of w.new
  let used := (tail + 65536 - m.get Fld.lqHead_head d id.i) % 65536
  let low := (m.partOf d).any (fun p => p.low == d)
  if 2 ^ m.get Fld.lqCfg_log2_entries d id.i < used ∨ m.flag Fld.lqCfg_enable d id.i = false ∨ low = false then
    m.ev Fld.cqDieEvents_lq_err d
  else if (m.partOf d).any (fun p => m.abortHeld p.slot) then
    ((m.setReg id w.new).put Fld.lqHead_head d tail id.i).put Fld.lqHead_done d tail id.i
  else m.setReg id w.new

/-- The two rings of a launch queue lie in memory (R549). -/
def lqRegionsOk (base cring lg : Nat) : Bool := regionOk (base * 128) (128 * 2 ^ lg) && regionOk (cring * 32) (32 * 2 ^ lg)

/-- LQ_CFG written (R234, R549): while the queue is enabled only a write that clears `enable` with nothing unread or incomplete
is taken; enabling sets `head` to `tail`. -/
def Mach.wrLqCfg (m : Mach) (id : RegId) (w : RegW) : Mach :=
  let d := id.die
  let lg := Fld.lqCfg_log2_entries.of w.new
  let on := Fld.lqCfg_enable.of w.new = 1
  let was := m.flag Fld.lqCfg_enable d id.i
  let open_ := m.get Fld.lqHead_head d id.i != m.get Fld.lqTail_tail d id.i ||
    (m.partOf d).any (fun p => p.low == d && p.launches.any (fun l => l.lq == id.i))
  let bad := lg < 4 ∨ 12 < lg ∨ (was ∧ (on ∨ open_)) ∨
    !lqRegionsOk (m.get Fld.lqBase_base d id.i) (m.get Fld.lqCringBase_base d id.i) lg
  if bad then m.ev Fld.cqDieEvents_cfg_err d
  else
    let m := m.setReg id w.new
    if on ∧ !was then m.put Fld.lqHead_head d (m.get Fld.lqTail_tail d id.i) id.i else m

/-- LQ_BASE or LQ_CRING_BASE written (R234, R549). -/
def Mach.wrLqBase (m : Mach) (id : RegId) (w : RegW) : Mach :=
  let d := id.die
  let lg := m.get Fld.lqCfg_log2_entries d id.i
  let ok := if id.reg = Reg.lqBase then regionOk (Fld.lqBase_base.of w.new * 128) (128 * 2 ^ lg)
    else regionOk (Fld.lqCringBase_base.of w.new * 32) (32 * 2 ^ lg)
  if m.flag Fld.lqCfg_enable d id.i || !ok then m.ev Fld.cqDieEvents_cfg_err d else m.setReg id w.new

/-- CQ_RING_BASE, CQ_RING_CFG of a core queue or of the collective queue written (R234, R549). -/
def Mach.wrCqRing (m : Mach) (id : RegId) (w : RegW) : Mach :=
  let d := id.die
  let c := id.core
  let col := id.reg = Reg.cqColRingBase ∨ id.reg = Reg.cqColRingCfg
  let q := if col then 3 else id.i
  let isCfg := id.reg = Reg.cqRingCfg ∨ id.reg = Reg.cqColRingCfg
  let (base, lg, _) := m.ring d c q
  let lg := if isCfg then Fld.cqRingCfg_log2_entries.of w.new else lg
  let base := if isCfg then base else Fld.cqRingBase_base.of w.new * 32
  let bad := !(m.queue d c q).isEmpty || (isCfg && (decide (lg < Nat.log2 (queueDepth q)) || decide (16 < lg))) ||
    !regionOk base (32 * 2 ^ lg)
  if bad then (if col then m.ev Fld.cqDieEvents_cfg_err d else m.ev Fld.cqEvents_cfg_err d (c := c))
  else m.setReg id w.new

end Sys2Proof.Machine
end

