-- ==== Sys2Proof/Machine/Base.lean ====
section
/-! DEFINITION. The instructions of core threads (R170, R171, R200, Table 7.2): RV64I, M, A, F, Zicsr, Zba, Zbb as the RISC-V
manuals encode and define them, and Xkt; the decoder and the operations on register values. -/

namespace Sys2Proof.Machine

/-- Integer operations on two register values (the last group reads one). -/
inductive AluOp where
  | add | sub | sll | slt | sltu | xor | srl | sra | or | and
  | addw | subw | sllw | srlw | sraw
  | mul | mulh | mulhsu | mulhu | div | divu | rem | remu | mulw | divw | divuw | remw | remuw
  | addUw | sh1add | sh2add | sh3add | sh1addUw | sh2addUw | sh3addUw | slliUw
  | andn | orn | xnor | max | maxu | min | minu | rol | ror | rolw | rorw
  | clz | ctz | cpop | clzw | ctzw | cpopw | sextb | sexth | zexth | orcb | rev8
  deriving DecidableEq, Repr

/-- Floating-point operations of F beside the fused ones. -/
inductive FpOp where
  | add | sub | mul | div | sqrt | sgnj | sgnjn | sgnjx | min | max
  | toW | toWu | toL | toLu | mvToX | cls | eq | lt | le
  | ofW | ofWu | ofL | ofLu | mvToF
  deriving DecidableEq, Repr

/-- Branch conditions. -/
inductive BrOp where
  | eq | ne | lt | ge | ltu | geu
  deriving DecidableEq, Repr

/-- Xkt instructions (Table 7.2): queue and funct3 numbers as the table has them. -/
inductive KtOp where
  | qpush (q : Nat) | qcred (q : Nat)
  | ctr (f3 : Nat)
  | scwait | scwaitc | bar | mbar (wait : Bool)
  | famoadd | accst (width : Nat) | pref (l1 : Bool) | fence (f3 : Nat)
  | exit | vote (sub : Nat) | shfl (sub : Nat) | active
  deriving DecidableEq, Repr

/-- A decoded instruction of a core thread. -/
inductive RvOp where
  | lui (rd imm : Nat) | auipc (rd imm : Nat) | jal (rd : Nat) (off : Int) | jalr (rd rs1 : Nat) (off : Int)
  | branch (c : BrOp) (rs1 rs2 : Nat) (off : Int)
  | load (width : Nat) (sg : Bool) (rd rs1 : Nat) (off : Int) | flw (rd rs1 : Nat) (off : Int)
  | store (width rs1 rs2 : Nat) (off : Int) | fsw (rs1 rs2 : Nat) (off : Int)
  | alu (op : AluOp) (rd rs1 rs2 : Nat) | aluI (op : AluOp) (rd rs1 imm : Nat)
  | fence | fencei | ecall | ebreak
  | csr (f3 rd rs1 num : Nat)
  | lr (width rd rs1 : Nat) (rl : Bool) | sc (width rd rs1 rs2 : Nat) (rl : Bool) | amo (f5 width rd rs1 rs2 : Nat) (rl : Bool)
  | fmadd (k rm rd rs1 rs2 rs3 : Nat)
  | fp (op : FpOp) (rm rd rs1 rs2 : Nat)
  | kt (op : KtOp) (rd rs1 rs2 : Nat)
  | illegal
  deriving DecidableEq, Repr

/-! ### Integer operations -/

/-- A 64-bit register value as a signed number. -/
def s64 (x : Nat) : Int := signed 64 x
/-- The low 32 bits of a value as a signed number. -/
def s32 (x : Nat) : Int := signed 32 x
/-- An integer as a 64-bit register value. -/
def r64 (i : Int) : Nat := wrap 64 i
/-- The low 32 bits of a number sign-extended to a register value. -/
def sext32 (x : Nat) : Nat := r64 (s32 x)

/-- Leading zero bits of a `w`-bit value. -/
def clzN (w x : Nat) : Nat := if x = 0 then w else w - 1 - Nat.log2 x
/-- Trailing zero bits of a `w`-bit value. -/
def ctzN (w x : Nat) : Nat := (lowestBit x w).getD w

/-- Rotate a `w`-bit value left. -/
def rolN (w x n : Nat) : Nat := (x * 2 ^ (n % w) + x / 2 ^ (w - n % w)) % 2 ^ w

/-- RISC-V signed division: toward zero; by zero −1; overflow gives the dividend. -/
def divS (a b : Int) : Int := if b = 0 then -1 else Int.tdiv a b
/-- RISC-V signed remainder: the dividend where the divisor is zero. -/
def remS (a b : Int) : Int := if b = 0 then a else Int.tmod a b

/-- The integer operations. [PRESUMED, log 39] -/
def alu (op : AluOp) (a b : Nat) : Nat :=
  let lo (x : Nat) : Nat := x % 2 ^ 32
  match op with
  | .add => (a + b) % 2 ^ 64
  | .sub => (a + 2 ^ 64 - b) % 2 ^ 64
  | .sll => a * 2 ^ (b % 64) % 2 ^ 64
  | .slt => b2n (decide (s64 a < s64 b))
  | .sltu => b2n (decide (a < b))
  | .xor => a ^^^ b
  | .srl => a / 2 ^ (b % 64)
  | .sra => r64 (s64 a / (2 ^ (b % 64) : Nat))
  | .or => a ||| b
  | .and => a &&& b
  | .addw => sext32 (a + b)
  | .subw => sext32 (a + 2 ^ 64 - b)
  | .sllw => sext32 (a * 2 ^ (b % 32))
  | .srlw => sext32 (lo a / 2 ^ (b % 32))
  | .sraw => r64 (s32 a / (2 ^ (b % 32) : Nat))
  | .mul => a * b % 2 ^ 64
  | .mulh => r64 (s64 a * s64 b / (2 ^ 64 : Nat))
  | .mulhsu => r64 (s64 a * b / (2 ^ 64 : Nat))
  | .mulhu => a * b / 2 ^ 64
  | .div => r64 (divS (s64 a) (s64 b))
  | .divu => if b = 0 then 2 ^ 64 - 1 else a / b
  | .rem => r64 (remS (s64 a) (s64 b))
  | .remu => if b = 0 then a else a % b
  | .mulw => sext32 (a * b)
  | .divw => r64 (s32 (wrap 32 (divS (s32 a) (s32 b))))
  | .divuw => if lo b = 0 then 2 ^ 64 - 1 else sext32 (lo a / lo b)
  | .remw => r64 (s32 (wrap 32 (remS (s32 a) (s32 b))))
  | .remuw => if lo b = 0 then sext32 a else sext32 (lo a % lo b)
  | .addUw => (lo a + b) % 2 ^ 64
  | .sh1add => (2 * a + b) % 2 ^ 64
  | .sh2add => (4 * a + b) % 2 ^ 64
  | .sh3add => (8 * a + b) % 2 ^ 64
  | .sh1addUw => (2 * lo a + b) % 2 ^ 64
  | .sh2addUw => (4 * lo a + b) % 2 ^ 64
  | .sh3addUw => (8 * lo a + b) % 2 ^ 64
  | .slliUw => lo a * 2 ^ (b % 64) % 2 ^ 64
  | .andn => a &&& (2 ^ 64 - 1 - b)
  | .orn => a ||| (2 ^ 64 - 1 - b)
  | .xnor => 2 ^ 64 - 1 - (a ^^^ b)
  | .max => if s64 a < s64 b then b else a
  | .maxu => if a < b then b else a
  | .min => if s64 a < s64 b then a else b
  | .minu => if a < b then a else b
  | .rol => rolN 64 a (b % 64)
  | .ror => rolN 64 a (64 - b % 64)
  | .rolw => sext32 (rolN 32 (lo a) (b % 32))
  | .rorw => sext32 (rolN 32 (lo a) (32 - b % 32))
  | .clz => clzN 64 a
  | .ctz => ctzN 64 a
  | .cpop => popcount a 64
  | .clzw => clzN 32 (lo a)
  | .ctzw => ctzN 32 (lo a)
  | .cpopw => popcount (lo a) 32
  | .sextb => r64 (signed 8 a)
  | .sexth => r64 (signed 16 a)
  | .zexth => a % 2 ^ 16
  | .orcb => ofBytes ((toBytes 8 a).map (fun b => if b = 0#8 then 0#8 else 255#8))
  | .rev8 => ofBytes (toBytes 8 a).reverse

/-- Whether a branch is taken. -/
def branchTaken (c : BrOp) (a b : Nat) : Bool :=
  match c with
  | .eq => a == b
  | .ne => a != b
  | .lt => decide (s64 a < s64 b)
  | .ge => decide (s64 b ≤ s64 a)
  | .ltu => decide (a < b)
  | .geu => decide (b ≤ a)

/-! ### Floating-point operations -/

/-- The rounding mode of an instruction: its rm field, or frm where that is dynamic; none is reserved (illegal).
[DEDUCED, log 41] -/
def rmOf (rm frm : Nat) : Option RM :=
  match if rm = 7 then frm else rm with
  | 0 => some .rne
  | 1 => some .rtz
  | 2 => some .rdn
  | 3 => some .rup
  | 4 => some .rmm
  | _ => none

/-- FCVT to an integer between `lo` and `hi`: NaN gives `hi`, what lies outside saturates; both raise nv. -/
def fcvtInt (rm : RM) (lo hi : Int) (a : Nat) : Int × FFlags :=
  let bad : FFlags := { FFlags.none with nv := true }
  match fmtB32.unpack a with
  | .nan _ => (hi, bad)
  | .inf n => (if n then lo else hi, bad)
  | x => match x.toInt rm with
    | some (v, inx) => if v < lo then (lo, bad) else if hi < v then (hi, bad) else (v, { FFlags.none with nx := inx })
    | none => (hi, bad)

/-- FMIN.S and FMAX.S: the other operand where one is NaN; −0 below +0; a signalling NaN raises nv. -/
def fminmax (isMax : Bool) (a b : Nat) : FR :=
  let f := fmtB32
  let x := f.unpack a
  let y := f.unpack b
  let nv := x.snan || y.snan
  let less : Bool := match x.cmp y with
    | 0 => decide (f.signBit true ≤ a) && decide (b < f.signBit true)
    | c => decide (c < 0)
  let v :=
    if x.isNan && y.isNan then f.nanCode
    else if x.isNan then b
    else if y.isNan then a
    else if less then (if isMax then b else a) else (if isMax then a else b)
  ⟨v, { FFlags.none with nv }⟩

/-- FEQ, FLT, FLE: quiet or signalling comparison. -/
def fcompare (op : FpOp) (a b : Nat) : FR :=
  let x := fmtB32.unpack a
  let y := fmtB32.unpack b
  let nan := x.isNan || y.isNan
  let nv := if op = .eq then x.snan || y.snan else nan
  let c := x.cmp y
  let r := match op with | .eq => c == 0 | .lt => decide (c < 0) | _ => decide (c ≤ 0)
  ⟨b2n (!nan && r), { FFlags.none with nv }⟩

/-- Whether the result of an operation goes to an integer register, and whether its first operand comes from one. -/
def FpOp.toX (op : FpOp) : Bool := [FpOp.toW, .toWu, .toL, .toLu, .mvToX, .cls, .eq, .lt, .le].contains op
def FpOp.fromX (op : FpOp) : Bool := [FpOp.ofW, .ofWu, .ofL, .ofLu, .mvToF].contains op
/-- Whether an operation reads a second operand, and whether it rounds. -/
def FpOp.two (op : FpOp) : Bool := [FpOp.add, .sub, .mul, .div, .sgnj, .sgnjn, .sgnjx, .min, .max, .eq, .lt, .le].contains op
def FpOp.rounds (op : FpOp) : Bool :=
  [FpOp.add, .sub, .mul, .div, .sqrt, .toW, .toWu, .toL, .toLu, .ofW, .ofWu, .ofL, .ofLu].contains op

/-- The operations of F on two operands (an integer first operand is the register value). [PRESUMED, log 39] -/
def fpDo (op : FpOp) (rm : RM) (a b : Nat) : FR :=
  let f := fmtB32
  let int (lo hi : Int) (w : Nat) : FR :=
    let (v, fl) := fcvtInt rm lo hi a
    ⟨if w = 32 then sext32 (wrap 32 v) else r64 v, fl⟩
  match op with
  | .add => f.add rm a b
  | .sub => f.sub rm a b
  | .mul => f.mul rm a b
  | .div => f.div rm a b
  | .sqrt => f.sqrt rm a
  | .sgnj => ⟨f.abs a + f.signBit (b.testBit 31), FFlags.none⟩
  | .sgnjn => ⟨f.abs a + f.signBit (!b.testBit 31), FFlags.none⟩
  | .sgnjx => ⟨f.abs a + f.signBit (a.testBit 31 != b.testBit 31), FFlags.none⟩
  | .min => fminmax false a b
  | .max => fminmax true a b
  | .toW => int (-(2 ^ 31 : Nat)) ((2 ^ 31 : Nat) - 1) 32
  | .toWu => int 0 ((2 ^ 32 : Nat) - 1) 32
  | .toL => int (-(2 ^ 63 : Nat)) ((2 ^ 63 : Nat) - 1) 64
  | .toLu => int 0 ((2 ^ 64 : Nat) - 1) 64
  | .mvToX => ⟨sext32 a, FFlags.none⟩
  | .cls => ⟨f.classify a, FFlags.none⟩
  | .eq | .lt | .le => fcompare op a b
  | .ofW => f.pack rm (FV.ofInt (s32 a))
  | .ofWu => f.pack rm (FV.ofInt ((a % 2 ^ 32 : Nat) : Int))
  | .ofL => f.pack rm (FV.ofInt (s64 a))
  | .ofLu => f.pack rm (FV.ofInt (a : Int))
  | .mvToF => ⟨a % 2 ^ 32, FFlags.none⟩

/-- FMADD, FMSUB, FNMSUB, FNMADD (0 to 3). [PRESUMED, log 39] -/
def fmaDo (k : Nat) (rm : RM) (a b c : Nat) : FR :=
  let f := fmtB32
  match k with
  | 0 => f.fma rm a b c
  | 1 => f.fma rm a b (f.flip c)
  | 2 => f.fma rm (f.flip a) b c
  | _ => f.fma rm (f.flip a) b (f.flip c)

/-! ### Decoding -/

/-- Fields of a 32-bit instruction. -/
def iRd (w : Nat) : Nat := bitsOf w 11 7
def iF3 (w : Nat) : Nat := bitsOf w 14 12
def iRs1 (w : Nat) : Nat := bitsOf w 19 15
def iRs2 (w : Nat) : Nat := bitsOf w 24 20
def iF7 (w : Nat) : Nat := bitsOf w 31 25
/-- The immediates of the I, S, B and J formats. -/
def immI (w : Nat) : Int := signed 12 (bitsOf w 31 20)
def immS (w : Nat) : Int := signed 12 (bitsOf w 31 25 * 32 + bitsOf w 11 7)
def immB (w : Nat) : Int :=
  signed 13 (bitsOf w 31 31 * 4096 + bitsOf w 7 7 * 2048 + bitsOf w 30 25 * 32 + bitsOf w 11 8 * 2)
def immJ (w : Nat) : Int :=
  signed 21 (bitsOf w 31 31 * 1048576 + bitsOf w 19 12 * 4096 + bitsOf w 20 20 * 2048 + bitsOf w 30 21 * 2)
/-- The immediate of the U format as a register value. -/
def immU (w : Nat) : Nat := sext32 (bitsOf w 31 12 * 4096)

/-- OP (0x33): by funct7 and funct3. -/
def decOp (f7 f3 : Nat) : Option AluOp :=
  match f7, f3 with
  | 0x00, 0 => some .add | 0x00, 1 => some .sll | 0x00, 2 => some .slt | 0x00, 3 => some .sltu
  | 0x00, 4 => some .xor | 0x00, 5 => some .srl | 0x00, 6 => some .or | 0x00, 7 => some .and
  | 0x20, 0 => some .sub | 0x20, 5 => some .sra
  | 0x20, 4 => some .xnor | 0x20, 6 => some .orn | 0x20, 7 => some .andn
  | 0x01, 0 => some .mul | 0x01, 1 => some .mulh | 0x01, 2 => some .mulhsu | 0x01, 3 => some .mulhu
  | 0x01, 4 => some .div | 0x01, 5 => some .divu | 0x01, 6 => some .rem | 0x01, 7 => some .remu
  | 0x10, 2 => some .sh1add | 0x10, 4 => some .sh2add | 0x10, 6 => some .sh3add
  | 0x05, 4 => some .min | 0x05, 5 => some .minu | 0x05, 6 => some .max | 0x05, 7 => some .maxu
  | 0x30, 1 => some .rol | 0x30, 5 => some .ror
  | _, _ => none

/-- OP-32 (0x3B); ZEXT.H has rs2 = 0. -/
def decOp32 (f7 f3 rs2 : Nat) : Option AluOp :=
  match f7, f3 with
  | 0x00, 0 => some .addw | 0x20, 0 => some .subw | 0x00, 1 => some .sllw | 0x00, 5 => some .srlw | 0x20, 5 => some .sraw
  | 0x01, 0 => some .mulw | 0x01, 4 => some .divw | 0x01, 5 => some .divuw | 0x01, 6 => some .remw | 0x01, 7 => some .remuw
  | 0x04, 0 => some .addUw
  | 0x10, 2 => some .sh1addUw | 0x10, 4 => some .sh2addUw | 0x10, 6 => some .sh3addUw
  | 0x30, 1 => some .rolw | 0x30, 5 => some .rorw
  | 0x04, 4 => if rs2 = 0 then some .zexth else none
  | _, _ => none

/-- OP-IMM (0x13): the operation and its immediate. -/
def decOpImm (w : Nat) : Option (AluOp × Nat) :=
  let imm := r64 (immI w)
  let hi6 := bitsOf w 31 26
  let sh := bitsOf w 25 20
  match iF3 w with
  | 0 => some (.add, imm) | 2 => some (.slt, imm) | 3 => some (.sltu, imm) | 4 => some (.xor, imm)
  | 6 => some (.or, imm) | 7 => some (.and, imm)
  | 1 =>
    if hi6 = 0 then some (.sll, sh)
    else match bitsOf w 31 20 with
      | 0x600 => some (.clz, 0) | 0x601 => some (.ctz, 0) | 0x602 => some (.cpop, 0)
      | 0x604 => some (.sextb, 0) | 0x605 => some (.sexth, 0)
      | _ => none
  | _ =>
    if hi6 = 0 then some (.srl, sh) else if hi6 = 0x10 then some (.sra, sh) else if hi6 = 0x18 then some (.ror, sh)
    else match bitsOf w 31 20 with
      | 0x287 => some (.orcb, 0) | 0x6B8 => some (.rev8, 0)
      | _ => none

/-- OP-IMM-32 (0x1B). -/
def decOpImm32 (w : Nat) : Option (AluOp × Nat) :=
  let sh := iRs2 w
  match iF3 w with
  | 0 => some (.addw, r64 (immI w))
  | 1 =>
    if iF7 w = 0 then some (.sllw, sh)
    else if bitsOf w 31 26 = 2 then some (.slliUw, bitsOf w 25 20)
    else match bitsOf w 31 20 with
      | 0x600 => some (.clzw, 0) | 0x601 => some (.ctzw, 0) | 0x602 => some (.cpopw, 0)
      | _ => none
  | 5 =>
    if iF7 w = 0 then some (.srlw, sh) else if iF7 w = 0x20 then some (.sraw, sh) else if iF7 w = 0x30 then some (.rorw, sh)
    else none
  | _ => none

/-- OP-FP (0x53), single precision. -/
def decFp (w : Nat) : Option FpOp :=
  let f3 := iF3 w
  let rs2 := iRs2 w
  match iF7 w with
  | 0x00 => some .add | 0x04 => some .sub | 0x08 => some .mul | 0x0C => some .div
  | 0x2C => if rs2 = 0 then some .sqrt else none
  | 0x10 => if f3 = 0 then some .sgnj else if f3 = 1 then some .sgnjn else if f3 = 2 then some .sgnjx else none
  | 0x14 => if f3 = 0 then some .min else if f3 = 1 then some .max else none
  | 0x60 => if rs2 = 0 then some .toW else if rs2 = 1 then some .toWu else if rs2 = 2 then some .toL
            else if rs2 = 3 then some .toLu else none
  | 0x70 => if rs2 ≠ 0 then none else if f3 = 0 then some .mvToX else if f3 = 1 then some .cls else none
  | 0x50 => if f3 = 2 then some .eq else if f3 = 1 then some .lt else if f3 = 0 then some .le else none
  | 0x68 => if rs2 = 0 then some .ofW else if rs2 = 1 then some .ofWu else if rs2 = 2 then some .ofL
            else if rs2 = 3 then some .ofLu else none
  | 0x78 => if rs2 = 0 ∧ f3 = 0 then some .mvToF else none
  | _ => none

/-- Which of rd, rs1, rs2 an Xkt instruction uses (Table 7.2). -/
def KtOp.uses : KtOp → Bool × Bool × Bool
  | .qpush _ => (true, true, false)
  | .qcred _ => (true, false, false)
  | .ctr _ | .scwait | .scwaitc | .famoadd | .shfl _ => (true, true, true)
  | .bar | .accst _ => (false, true, true)
  | .mbar _ | .pref _ => (false, true, false)
  | .fence _ | .exit => (false, false, false)
  | .vote _ => (true, true, false)
  | .active => (true, false, false)

/-- Table 7.2: an Xkt instruction by opcode, funct3 and `sub`. -/
def ktOf (opc f3 sub : Nat) : Option KtOp :=
  match opc, sub with
  | 0x0B, 0 => if f3 < 4 then some (.qpush f3) else none
  | 0x0B, 1 => if f3 < 4 then some (.qcred f3) else none
  | 0x2B, 0 => if f3 < 4 then some (.ctr f3) else if f3 = 4 then some .scwait else if f3 = 5 then some .scwaitc
               else if f3 = 6 then some .bar else some (.mbar true)
  | 0x2B, 1 => if f3 = 7 then some (.mbar false) else none
  | 0x5B, 0 => if f3 = 2 then some .famoadd else none
  | 0x5B, 1 => if f3 = 2 then some (.accst 4) else if f3 = 3 then some (.accst 8) else none
  | 0x5B, 2 => if f3 = 0 then some (.pref true) else if f3 = 1 then some (.pref false) else none
  | 0x5B, 3 => if f3 < 7 then some (.fence f3) else none
  | 0x7B, 0 => if f3 = 0 then some .exit else if f3 = 1 then some (.vote 0) else if f3 = 2 then some (.shfl 0)
               else if f3 = 3 then some .active else none
  | 0x7B, 1 => if f3 = 1 then some (.vote 1) else if f3 = 2 then some (.shfl 1) else none
  | 0x7B, 2 => if f3 = 1 then some (.vote 2) else if f3 = 2 then some (.shfl 2) else none
  | 0x7B, 3 => if f3 = 2 then some (.shfl 3) else none
  | _, _ => none

/-- R200: an Xkt word: a field that the instruction does not use must be zero, hints included. -/
def decKt (w : Nat) : RvOp :=
  match ktOf (bitsOf w 6 0) (iF3 w) (bitsOf w 31 27) with
  | none => .illegal
  | some op =>
    let (d, a, b) := op.uses
    if (!d && iRd w != 0) || (!a && (iRs1 w != 0 || bitOf w 25)) || (!b && (iRs2 w != 0 || bitOf w 26)) then .illegal
    else .kt op (iRd w) (iRs1 w) (iRs2 w)

/-- The funct5 codes of the AMOs of R170. -/
def amoCodes : List Nat := [0, 1, 4, 8, 12, 16, 20, 24, 28]

/-- Decode a 32-bit instruction (R170, R171): whatever no rule defines is illegal. [PRESUMED, log 39] -/
def decodeRv (w : Nat) : RvOp :=
  let rd := iRd w
  let rs1 := iRs1 w
  let rs2 := iRs2 w
  let f3 := iF3 w
  let ofAlu (o : Option AluOp) : RvOp := match o with | some op => .alu op rd rs1 rs2 | none => .illegal
  let ofAluI (o : Option (AluOp × Nat)) : RvOp := match o with | some (op, i) => .aluI op rd rs1 i | none => .illegal
  match bitsOf w 6 0 with
  | 0x37 => .lui rd (immU w)
  | 0x17 => .auipc rd (immU w)
  | 0x6F => .jal rd (immJ w)
  | 0x67 => if f3 = 0 then .jalr rd rs1 (immI w) else .illegal
  | 0x63 => match f3 with
    | 0 => .branch .eq rs1 rs2 (immB w) | 1 => .branch .ne rs1 rs2 (immB w) | 4 => .branch .lt rs1 rs2 (immB w)
    | 5 => .branch .ge rs1 rs2 (immB w) | 6 => .branch .ltu rs1 rs2 (immB w) | 7 => .branch .geu rs1 rs2 (immB w)
    | _ => .illegal
  | 0x03 => if f3 = 7 then .illegal else .load (2 ^ (f3 % 4)) (decide (f3 < 4)) rd rs1 (immI w)
  | 0x23 => if 3 < f3 then .illegal else .store (2 ^ f3) rs1 rs2 (immS w)
  | 0x07 => if f3 = 2 then .flw rd rs1 (immI w) else .illegal
  | 0x27 => if f3 = 2 then .fsw rs1 rs2 (immS w) else .illegal
  | 0x13 => ofAluI (decOpImm w)
  | 0x1B => ofAluI (decOpImm32 w)
  | 0x33 => ofAlu (decOp (iF7 w) f3)
  | 0x3B => ofAlu (decOp32 (iF7 w) f3 rs2)
  | 0x0F => if f3 = 0 then .fence else if f3 = 1 then .fencei else .illegal
  | 0x73 =>
    if f3 = 0 then (if w = 0x73 then .ecall else if w = 0x100073 then .ebreak else .illegal)
    else if f3 = 4 then .illegal else .csr f3 rd rs1 (bitsOf w 31 20)
  | 0x2F =>
    if f3 = 2 ∨ f3 = 3 then
      let width := 2 ^ f3
      let rl := bitOf w 25
      match bitsOf w 31 27 with
      | 2 => if rs2 = 0 then .lr width rd rs1 rl else .illegal
      | 3 => .sc width rd rs1 rs2 rl
      | f5 => if amoCodes.contains f5 then .amo f5 width rd rs1 rs2 rl else .illegal
    else .illegal
  | 0x43 => if bitsOf w 26 25 = 0 then .fmadd 0 f3 rd rs1 rs2 (bitsOf w 31 27) else .illegal
  | 0x47 => if bitsOf w 26 25 = 0 then .fmadd 1 f3 rd rs1 rs2 (bitsOf w 31 27) else .illegal
  | 0x4B => if bitsOf w 26 25 = 0 then .fmadd 2 f3 rd rs1 rs2 (bitsOf w 31 27) else .illegal
  | 0x4F => if bitsOf w 26 25 = 0 then .fmadd 3 f3 rd rs1 rs2 (bitsOf w 31 27) else .illegal
  | 0x53 => match decFp w with | some op => .fp op f3 rd rs1 rs2 | none => .illegal
  | 0x0B | 0x2B | 0x5B | 0x7B => decKt w
  | _ => .illegal

/-- The integer and the floating-point registers that an instruction names (R181). -/
def RvOp.names : RvOp → List Nat × List Nat
  | .lui rd _ | .auipc rd _ | .jal rd _ => ([rd], [])
  | .jalr rd rs1 _ | .load _ _ rd rs1 _ | .aluI _ rd rs1 _ | .lr _ rd rs1 _ => ([rd, rs1], [])
  | .flw rd rs1 _ => ([rs1], [rd])
  | .branch _ rs1 rs2 _ | .store _ rs1 rs2 _ => ([rs1, rs2], [])
  | .fsw rs1 rs2 _ => ([rs1], [rs2])
  | .alu _ rd rs1 rs2 | .sc _ rd rs1 rs2 _ | .amo _ _ rd rs1 rs2 _ => ([rd, rs1, rs2], [])
  | .csr f3 rd rs1 _ => (if f3 < 4 then [rd, rs1] else [rd], [])
  | .fmadd _ _ rd a b c => ([], [rd, a, b, c])
  | .fp op _ rd a b =>
    ((if op.toX then [rd] else []) ++ (if op.fromX then [a] else []),
     (if op.toX then [] else [rd]) ++ (if op.fromX then [] else [a]) ++ (if op.two then [b] else []))
  | .kt op rd a b =>
    let u := op.uses
    ((if u.1 then [rd] else []) ++ (if u.2.1 then [a] else []) ++ (if u.2.2 then [b] else []), [])
  | .fence | .fencei | .ecall | .ebreak | .illegal => ([], [])

/-- The integer registers that an instruction reads, rs1 before rs2. -/
def RvOp.reads : RvOp → List Nat
  | .jalr _ a _ | .load _ _ _ a _ | .aluI _ _ a _ | .lr _ _ a _ | .flw _ a _ | .fsw a _ _ => [a]
  | .branch _ a b _ | .store _ a b _ | .alu _ _ a b | .sc _ _ a b _ | .amo _ _ _ a b _ => [a, b]
  | .csr f3 _ a _ => if f3 < 4 then [a] else []
  | .fp op _ _ a _ => if op.fromX then [a] else []
  | .kt op _ a b => (if op.uses.2.1 then [a] else []) ++ (if op.uses.2.2 then [b] else [])
  | .lui _ _ | .auipc _ _ | .jal _ _ | .fmadd _ _ _ _ _ _ | .fence | .fencei | .ecall | .ebreak | .illegal => []

/-- R200: the reuse hints of an instruction whose word has `hints` in bits 26 and 25; a base instruction has none. -/
def RvOp.hints (op : RvOp) (hints : Nat) : Nat := match op with | .kt _ _ _ _ => hints | _ => 0

/-- R181: the registers a launch has declared cover an instruction's. -/
def RvOp.inRegs (op : RvOp) (xregs fregs : Nat) : Bool :=
  op.names.1.all (fun i => decide (i ≤ xregs)) && op.names.2.all (fun i => decide (i < fregs))

end Sys2Proof.Machine
end

