-- ==== Sys2Proof/Machine/Keccak.lean ====
section
/-! DEFINITION. SHA3-256 and KMAC256, which R429 and R520 name, and the SHAKE functions that ML-DSA-44 uses (FIPS 202 and NIST SP 800-185;
PRESUMED: the spec names the functions and does not lay them out). -/

namespace Sys2Proof.Machine

/-- The 24 round constants. -/
def keccakRc : List W64 :=
  [0x0000000000000001#64, 0x0000000000008082#64, 0x800000000000808A#64, 0x8000000080008000#64, 0x000000000000808B#64,
   0x0000000080000001#64, 0x8000000080008081#64, 0x8000000000008009#64, 0x000000000000008A#64, 0x0000000000000088#64,
   0x0000000080008009#64, 0x000000008000000A#64, 0x000000008000808B#64, 0x800000000000008B#64, 0x8000000000008089#64,
   0x8000000000008003#64, 0x8000000000008002#64, 0x8000000000000080#64, 0x000000000000800A#64, 0x800000008000000A#64,
   0x8000000080008081#64, 0x8000000000008080#64, 0x0000000080000001#64, 0x8000000080008008#64]

/-- The rotation of lane x + 5 y. -/
def keccakRho : List Nat :=
  [0, 1, 62, 28, 27, 36, 44, 6, 55, 20, 3, 10, 43, 25, 39, 41, 45, 15, 21, 8, 18, 2, 61, 56, 14]

/-- One round on the 25 lanes. -/
def keccakRound (a : List W64) (rc : W64) : List W64 :=
  let at_ (l : List W64) (i : Nat) : W64 := l.getD i 0#64
  let c := (List.range 5).map (fun x => at_ a x ^^^ at_ a (x + 5) ^^^ at_ a (x + 10) ^^^ at_ a (x + 15) ^^^ at_ a (x + 20))
  let t := (List.range 25).map (fun i => at_ a i ^^^ at_ c ((i % 5 + 4) % 5) ^^^ (at_ c ((i % 5 + 1) % 5)).rotateLeft 1)
  let b := (List.range 25).map (fun i =>
    let x := i % 5
    let y := i / 5
    let s := (x + 3 * y) % 5 + 5 * x
    (at_ t s).rotateLeft (keccakRho.getD s 0))
  let e := (List.range 25).map (fun i =>
    let x := i % 5
    let y := i / 5
    at_ b i ^^^ (~~~ (at_ b ((x + 1) % 5 + 5 * y)) &&& at_ b ((x + 2) % 5 + 5 * y)))
  (at_ e 0 ^^^ rc) :: e.tail

/-- The permutation. [PRESUMED, log 86] -/
def keccakF (a : List W64) : List W64 := keccakRc.foldl keccakRound a

/-- The rate of SHA3-256 and KMAC256 in bytes. -/
def keccakRate : Nat := 136

/-- Absorb one block of a rate. -/
def keccakAbsorb (rate : Nat) (a : List W64) (block : List Byte) : List W64 :=
  keccakF (a.mapIdx (fun i l => if 8 * i < rate then l ^^^ BitVec.ofNat 64 (ofBytes ((block.drop (8 * i)).take 8)) else l))

/-- Absorb whole blocks. -/
def keccakBlocks (rate : Nat) (a : List W64) (bs : List Byte) : Nat → List W64
  | 0 => a
  | n + 1 => keccakBlocks rate (keccakAbsorb rate a (bs.take rate)) (bs.drop rate) n

/-- Squeeze blocks of a rate. -/
def keccakSqueeze (rate : Nat) (a : List W64) : Nat → List Byte
  | 0 => []
  | n + 1 => (a.flatMap (fun l => toBytes 8 l.toNat)).take rate ++ keccakSqueeze rate (keccakF a) n

/-- The sponge of a rate with a suffix byte, giving `len` bytes. -/
def keccakSponge (rate suffix : Nat) (bs : List Byte) (len : Nat) : List Byte :=
  let n := bs.length / rate + 1
  let pad := n * rate - bs.length
  let padding : List Byte := (List.range pad).map (fun i =>
    BitVec.ofNat 8 ((if i = 0 then suffix else 0) + (if i + 1 = pad then 0x80 else 0)))
  (keccakSqueeze rate (keccakBlocks rate (List.replicate 25 0#64) (bs ++ padding) n) (ceilDiv len rate)).take len

/-- The sponge of SHA3-256 and KMAC256, giving 32 bytes. -/
def keccak256 (suffix : Nat) (bs : List Byte) : List Byte := keccakSponge keccakRate suffix bs 32

/-- SHAKE128 and SHAKE256, giving `len` bytes. -/
def shake128 (bs : List Byte) (len : Nat) : List Byte := keccakSponge 168 0x1F bs len
def shake256 (bs : List Byte) (len : Nat) : List Byte := keccakSponge 136 0x1F bs len

/-- SHA3-256. [PRESUMED, log 86] -/
def sha3 (bs : List Byte) : List Byte := keccak256 0x06 bs

/-- The bytes of a number, most significant first, without leading zeros (one byte for 0). -/
def lenBytes (n : Nat) : List Byte :=
  if n < 2 ^ 8 then [BitVec.ofNat 8 n]
  else if n < 2 ^ 16 then [BitVec.ofNat 8 (n / 2 ^ 8), BitVec.ofNat 8 n]
  else if n < 2 ^ 24 then [BitVec.ofNat 8 (n / 2 ^ 16), BitVec.ofNat 8 (n / 2 ^ 8), BitVec.ofNat 8 n]
  else (toBytes 8 n).reverse

/-- left_encode and right_encode. -/
def leftEncode (n : Nat) : List Byte := BitVec.ofNat 8 (lenBytes n).length :: lenBytes n
def rightEncode (n : Nat) : List Byte := lenBytes n ++ [BitVec.ofNat 8 (lenBytes n).length]

/-- encode_string. -/
def encodeString (s : List Byte) : List Byte := leftEncode (8 * s.length) ++ s

/-- bytepad to the rate. -/
def bytepad (s : List Byte) : List Byte :=
  let t := leftEncode keccakRate ++ s
  t ++ List.replicate (roundUp t.length keccakRate - t.length) 0#8

/-- The bytes of a text of ASCII characters. -/
def asciiBytes (s : String) : List Byte := s.toList.map (fun c => BitVec.ofNat 8 c.toNat)

/-- KMAC256 with 32 bytes of output. [PRESUMED, log 86] -/
def kmac (key msg : List Byte) (custom : String) : List Byte :=
  keccak256 0x04 (bytepad (encodeString (asciiBytes "KMAC") ++ encodeString (asciiBytes custom)) ++
    bytepad (encodeString key) ++ msg ++ rightEncode 256)

end Sys2Proof.Machine
end

