-- ==== Sys2Proof/Machine/Mldsa.lean ====
section
/-! DEFINITION. ML-DSA-44, which R516, R520 to R524 name, as FIPS 204 defines it, in the pure form with an empty context string
(PRESUMED: the spec names the standard and does not lay it out). A polynomial is the list of its 256 coefficients. -/

namespace Sys2Proof.Machine

/-! ### Polynomials over the ring (FIPS 204, sections 2 and 7.6) -/

abbrev Poly := List Int

/-- The modulus. -/
def dsaQ : Int := 8380417

/-- A coefficient of a polynomial. -/
def Poly.at_ (p : Poly) (i : Nat) : Int := p.getD i 0

/-- A number modulo q. -/
def dsaMod (x : Int) : Int := x.emod dsaQ

/-- x mod± a, in (-a/2, a/2]. -/
def centred (x a : Int) : Int :=
  let r := x.emod a
  if a / 2 < r then r - a else r

def Poly.add (p r : Poly) : Poly := (List.range 256).map (fun i => dsaMod (p.at_ i + r.at_ i))
def Poly.sub (p r : Poly) : Poly := (List.range 256).map (fun i => dsaMod (p.at_ i - r.at_ i))

/-- Coefficient by coefficient, the product in the transformed ring. -/
def Poly.dot (p r : Poly) : Poly := (List.range 256).map (fun i => dsaMod (p.at_ i * r.at_ i))

/-- A power modulo q. -/
def dsaPow (x : Int) : Nat → Int
  | 0 => 1
  | n + 1 => dsaMod (dsaPow x n * x)

/-- Eight bits in reverse order. -/
def bitRev8 (i : Nat) : Nat := (List.range 8).foldl (fun a k => a + i / 2 ^ k % 2 * 2 ^ (7 - k)) 0

/-- The powers of the root of unity 1753. -/
def dsaRoots : List Int := (List.range 512).map (dsaPow 1753)

/-- The number-theoretic transform: the values at the odd powers of the root. -/
def Poly.ntt (p : Poly) : Poly :=
  let roots := dsaRoots.toArray
  (List.range 256).map (fun i =>
    let e := 2 * bitRev8 i + 1
    dsaMod ((p.mapIdx (fun j c => c * roots.getD (e * j % 512) 0)).foldl (· + ·) 0))

/-- Its inverse; 8347681 is the inverse of 256. -/
def Poly.invNtt (p : Poly) : Poly :=
  let roots := dsaRoots.toArray
  (List.range 256).map (fun j =>
    dsaMod (8347681 * dsaMod ((p.mapIdx (fun i c => c * roots.getD ((512 - (2 * bitRev8 i + 1) * j % 512) % 512) 0)).foldl (· + ·) 0)))

/-- A matrix of transformed polynomials times a vector of them. -/
def dsaMul (rows : List (List Poly)) (v : List Poly) : List Poly :=
  rows.map (fun r => (r.zip v).foldl (fun a x => a.add (x.1.dot x.2)) [])

/-- Two vectors, polynomial by polynomial. -/
def dsaZip (f : Poly → Poly → Poly) (a b : List Poly) : List Poly := (a.zip b).map (fun x => f x.1 x.2)

/-- The greatest size of a coefficient, centred. -/
def Poly.norm (p : Poly) : Nat := p.foldl (fun a c => max a (centred c dsaQ).natAbs) 0

/-! ### Packing (FIPS 204, section 7.1) -/

/-- Numbers of `w` bits each as bytes, the least significant bit first. -/
def packBits (w : Nat) (l : List Nat) : List Byte :=
  toBytes (ceilDiv (w * l.length) 8) (l.foldr (fun x a => a * 2 ^ w + x % 2 ^ w) 0)

/-- `n` numbers of `w` bits each. -/
def unpackBits (w n : Nat) (bs : List Byte) : List Nat :=
  let v := ofBytes bs
  (List.range n).map (fun i => v / 2 ^ (w * i) % 2 ^ w)

/-- SimpleBitPack with `w` bits. -/
def Poly.pack (w : Nat) (p : Poly) : List Byte := packBits w (p.map Int.toNat)

/-- BitPack of centred coefficients as `b` less each, with 18 bits. -/
def Poly.packZ (p : Poly) : List Byte := packBits 18 (p.map (fun c => ((131072 : Int) - centred c dsaQ).toNat))
def unpackZ (bs : List Byte) : Poly := (unpackBits 18 256 bs).map (fun x => dsaMod ((131072 : Int) - x))

/-- HintBitPack: the places of the hints of four polynomials, then the counts. -/
def packHints (h : List (List Bool)) : List Byte :=
  let places := h.map (fun p => (List.range 256).filter (fun j => p.getD j false))
  let all := places.flatMap id
  let counts := (List.range 4).map (fun i => ((places.take (i + 1)).flatMap id).length)
  ((all ++ List.replicate (80 - all.length) 0) ++ counts).map (BitVec.ofNat 8)

/-- Strictly rising. -/
def rising : List Nat → Bool
  | a :: b :: l => decide (a < b) && rising (b :: l)
  | _ => true

/-- HintBitUnpack; none: malformed. -/
def unpackHints (bs : List Byte) : Option (List (List Bool)) :=
  let y := bs.map BitVec.toNat
  let ends := y.drop 80
  let starts := 0 :: ends.take 3
  let ok := (starts.zip ends).all (fun x => decide (x.1 ≤ x.2) && decide (x.2 ≤ 80) && rising ((y.take x.2).drop x.1)) &&
    ((y.take 80).drop (ends.getD 3 0)).all (· == 0)
  if ok then some ((starts.zip ends).map (fun x =>
    let places := (y.take x.2).drop x.1
    (List.range 256).map (fun j => places.contains j)))
  else none

/-! ### Sampling (FIPS 204, section 7.3; what is squeezed at once is above the limits that its appendix C allows) -/

/-- RejNTTPoly: coefficients of three bytes each, those below q. -/
def rejNtt (seed : List Byte) : Poly :=
  let y := (shake128 seed 2016).map BitVec.toNat
  let c := ((List.range 672).map (fun i => y.getD (3 * i) 0 + y.getD (3 * i + 1) 0 * 2 ^ 8 + y.getD (3 * i + 2) 0 % 2 ^ 7 * 2 ^ 16)).filter
    (· < 8380417)
  (c.take 256).map Int.ofNat

/-- RejBoundedPoly: coefficients of half a byte each, from -2 to 2. -/
def rejBounded (seed : List Byte) : Poly :=
  let y := (shake256 seed 544).flatMap (fun b => [b.toNat % 16, b.toNat / 16])
  ((y.filter (· < 15)).take 256).map (fun b => (2 : Int) - (b % 5 : Nat))

/-- ExpandA: the matrix of four rows and four columns. -/
def expandA (rho : List Byte) : List (List Poly) :=
  (List.range 4).map (fun r => (List.range 4).map (fun s => rejNtt (rho ++ toBytes 1 s ++ toBytes 1 r)))

/-- ExpandMask: four polynomials of a signing attempt. -/
def expandMask (rho : List Byte) (kappa : Nat) : List Poly :=
  (List.range 4).map (fun r => unpackZ (shake256 (rho ++ toBytes 2 (kappa + r)) 576))

/-- SampleInBall: 39 coefficients of 1 or -1. -/
def sampleInBall (seed : List Byte) : Poly :=
  let y := shake256 seed 272
  let signs := ofBytes (y.take 8)
  let step (acc : Poly × List Byte) (i : Nat) : Poly × List Byte :=
    match acc.2.dropWhile (fun b => decide (217 + i < b.toNat)) with
    | [] => acc
    | j :: rest =>
      let c := acc.1.set (217 + i) (acc.1.at_ j.toNat)
      (c.set j.toNat (if signs.testBit i then -1 else 1), rest)
  ((List.range 39).foldl step (List.replicate 256 0, y.drop 8)).1

/-! ### Rounding (FIPS 204, section 7.4) -/

/-- Power2Round: the high part and the low 13 bits, centred. -/
def power2Round (x : Int) : Int × Int :=
  let r := dsaMod x
  let r0 := centred r 8192
  ((r - r0) / 8192, r0)

/-- Twice gamma2. -/
def dsaAlpha : Int := 190464

/-- Decompose: the high and the low part. -/
def decomposeQ (x : Int) : Int × Int :=
  let r := dsaMod x
  let r0 := centred r dsaAlpha
  if r - r0 = dsaQ - 1 then (0, r0 - 1) else ((r - r0) / dsaAlpha, r0)

/-- UseHint. -/
def useHint (h : Bool) (x : Int) : Int :=
  let (r1, r0) := decomposeQ x
  if !h then r1 else if 0 < r0 then (r1 + 1).emod 44 else (r1 - 1).emod 44

/-! ### Keys and signatures (FIPS 204, sections 5 and 6) -/

/-- A key pair from its seed. -/
structure DsaKey where
  rho : List Byte
  k : List Byte
  tr : List Byte
  s1 : List Poly
  s2 : List Poly
  t0 : List Poly
  pk : List Byte
  deriving DecidableEq, Repr

/-- KeyGen. -/
def mldsaKey (seed : List Byte) : DsaKey :=
  let x := shake256 (seed ++ toBytes 1 4 ++ toBytes 1 4) 128
  let rho := x.take 32
  let rho' := (x.drop 32).take 64
  let s (r : Nat) : Poly := rejBounded (rho' ++ toBytes 2 r)
  let s1 := (List.range 4).map s
  let s2 := (List.range 4).map (fun r => s (r + 4))
  let t := dsaZip Poly.add ((dsaMul (expandA rho) (s1.map Poly.ntt)).map Poly.invNtt) s2
  let pk := rho ++ t.flatMap (fun p => Poly.pack 10 (p.map (fun c => (power2Round c).1)))
  { rho, k := x.drop 96, tr := shake256 pk 64, s1, s2, t0 := t.map (fun p => p.map (fun c => (power2Round c).2)), pk }

/-- The public key of a seed. -/
def mldsaPublic (seed : List Byte) : List Byte := (mldsaKey seed).pk

/-- The representative of a message under a key. [PRESUMED, log 101] -/
def dsaMu (tr msg : List Byte) : List Byte := shake256 (tr ++ toBytes 1 0 ++ toBytes 1 0 ++ msg) 64

/-- The commitment's hash. -/
def dsaHash (mu : List Byte) (w1 : List Poly) : List Byte := shake256 (mu ++ w1.flatMap (Poly.pack 6)) 32

/-- One attempt at a signature; none: rejected. -/
def dsaAttempt (key : DsaKey) (a : List (List Poly)) (mu rho : List Byte) (kappa : Nat) : Option (List Byte) :=
  let y := expandMask rho kappa
  let w := (dsaMul a (y.map Poly.ntt)).map Poly.invNtt
  let hash := dsaHash mu (w.map (fun p => p.map (fun c => (decomposeQ c).1)))
  let c := (sampleInBall hash).ntt
  let times (v : List Poly) : List Poly := v.map (fun p => (c.dot p.ntt).invNtt)
  let z := dsaZip Poly.add y (times key.s1)
  let r := dsaZip Poly.sub w (times key.s2)
  let low := r.map (fun p => p.foldl (fun a x => max a (decomposeQ x).2.natAbs) 0)
  let ct0 := times key.t0
  let h := (r.zip ct0).map (fun x => (List.range 256).map (fun i =>
    (decomposeQ (x.1.at_ i + x.2.at_ i)).1 != (decomposeQ (x.1.at_ i)).1))
  if z.any (fun p => decide (130994 ≤ p.norm)) || low.any (fun n => decide (95154 ≤ n)) || ct0.any (fun p => decide (95232 ≤ p.norm)) ||
      decide (80 < (h.flatMap id).count true) then none
  else some (hash ++ z.flatMap Poly.packZ ++ packHints h)

/-- Attempts until one is not rejected. -/
def dsaTry (key : DsaKey) (a : List (List Poly)) (mu rho : List Byte) (kappa : Nat) : Nat → List Byte
  | 0 => []
  | n + 1 => match dsaAttempt key a mu rho kappa with
    | some s => s
    | none => dsaTry key a mu rho (kappa + 4) n

/-- A signature by the key of a seed, with its 32 random bytes. -/
def mldsaSign (seed msg rnd : List Byte) : List Byte :=
  let key := mldsaKey seed
  let mu := dsaMu key.tr msg
  dsaTry key (expandA key.rho) mu (shake256 (key.k ++ rnd ++ mu) 64) 0 814

/-- Whether a signature verifies. -/
def mldsaVerify (pk msg sig : List Byte) : Bool :=
  let rho := pk.take 32
  let t1 : List Poly := (List.range 4).map (fun i => (unpackBits 10 256 ((pk.drop (32 + 320 * i)).take 320)).map (fun x => ((x * 8192 : Nat) : Int)))
  let hash := sig.take 32
  let z := (List.range 4).map (fun i => unpackZ ((sig.drop (32 + 576 * i)).take 576))
  match unpackHints (sig.drop 2336) with
  | none => false
  | some h =>
    let c := (sampleInBall hash).ntt
    let w := dsaZip Poly.sub (dsaMul (expandA rho) (z.map Poly.ntt)) (t1.map (fun (p : Poly) => c.dot p.ntt))
    let w1 := (h.zip (w.map Poly.invNtt)).map (fun x => (List.range 256).map (fun i => useHint (x.1.getD i false) (x.2.at_ i)))
    decide (pk.length = 1312) && decide (sig.length = 2420) && z.all (fun p => decide (p.norm < 130994)) &&
      hash == dsaHash (dsaMu (shake256 pk 64) msg) w1

/-! ### Certificates -/

/-- The DER encoding of a value with a tag. -/
def der (tag : Nat) (v : List Byte) : List Byte :=
  let n := v.length
  let len : List Nat := if n < 128 then [n] else if n < 256 then [0x81, n] else if n < 65536 then [0x82, n / 256, n % 256] else [0x83, n / 65536, n / 256 % 256, n % 256]
  (tag :: len).map (BitVec.ofNat 8) ++ v

/-- The algorithm identifier of ML-DSA-44. -/
def dsaAlgorithm : List Byte := der 0x30 (der 0x06 ([0x60, 0x86, 0x48, 0x01, 0x65, 0x03, 0x04, 0x03, 0x11].map (BitVec.ofNat 8)))

/-- R520, R521: an X.509 v3 certificate (RFC 5280) of a public key and of what it carries, signed by the key of a seed: the part that is
signed, whose names, serial number and dates the spec does not give, the algorithm, the signature. [PRESUMED, log 101] -/
def certificate (issuer pk carries rnd : List Byte) : List Byte :=
  let tbs := Config.tbsCertificate (mldsaPublic issuer) pk carries
  der 0x30 (tbs ++ dsaAlgorithm ++ der 0x03 (0#8 :: mldsaSign issuer tbs rnd))

end Sys2Proof.Machine
end

