-- ==== Sys2Proof/Machine/SyncRegs.lean ====
section
/-! DEFINITION. Writes of the SYNC registers (R238, R241, R247, R264), the counters and slots under ABORT (R260), and the
applying of a remote ADD (R252, R253). -/

namespace Sys2Proof.Machine

/-- SYNC_CTR(n) written: flags are cleared as W1C, and a write that reaches `value` is a SET (Table 9.1). -/
def Mach.wrSyncCtr (m : Mach) (id : RegId) (w : RegW) : Mach :=
  let m := m.setReg id (Fld.syncCtr_value.into w.new (Fld.syncCtr_value.of w.old))
  if w.reaches Fld.syncCtr_value then (m.ctrApply id.die id.i .set (Fld.syncCtr_value.of w.new) 2 srcOther).1 else m

/-- SYNC_CTR_ADD(n) written: ADD of the amount. -/
def Mach.wrSyncAdd (m : Mach) (id : RegId) (w : RegW) : Mach :=
  (m.ctrApply id.die id.i .add (Fld.syncCtrAdd_amount.of w.raw) 0 srcOther).1

/-- SYNC_CTR_SUB(n) written: SUB of the amount. -/
def Mach.wrSyncSub (m : Mach) (id : RegId) (w : RegW) : Mach :=
  (m.ctrApply id.die id.i .sub (Fld.syncCtrSub_amount.of w.raw) 1 srcOther).1

/-- SYNC_CTR_ARM(n) written: the register acts on each write with its merged value (R247). -/
def Mach.wrSyncArm (m : Mach) (id : RegId) (w : RegW) : Mach :=
  m.ctrArm id.die id.i (Fld.syncCtrArm_armed.of w.new = 1) (Fld.syncCtrArm_expect.of w.new)

/-- R264: whether the current generation of a slot has an arrival, for a module slot on any die of its mask. -/
def Mach.slotHasArrival (m : Mach) (d : Nat) (md : Bool) (s : Nat) : Bool :=
  (d :: m.slotDies d md s).any (fun x => !(m.slotSt x md s).cur.isEmpty)

/-- SYNC_BAR_CFG, SYNC_MBAR_CFG or SYNC_MBAR_DIES written (R264). -/
def Mach.wrSyncSlot (m : Mach) (id : RegId) (w : RegW) : Mach :=
  let d := id.die
  let md := id.reg ≠ Reg.syncBarCfg
  let diesReg := id.reg = Reg.syncMbarDies
  let held := m.slotHasArrival d md id.i
  if diesReg then
    let mask := Fld.syncMbarDies_die_mask.of w.new
    let within := match m.partOf d with | some p => mask &&& p.dieMask == mask | none => false
    if held || !mask.testBit d || !within then m.ev Fld.syncDieEvents_cfg_err d else m.setReg id w.new
  else
    let on := Fld.syncBarCfg_enable.of w.new = 1
    let was := Fld.syncBarCfg_enable.of w.old = 1
    if held || (on && Fld.syncBarCfg_core_mask.of w.new == 0) then m.ev Fld.syncDieEvents_cfg_err d
    else
      let m := m.setReg id w.new
      if on && !was then (m.setSlotSt d md id.i SlotSt.init).wr (slotStatusReg md) d 0 id.i else m

/-- SYNC_BAR_WDOG written (R264). -/
def Mach.wrSyncWdog (m : Mach) (id : RegId) (w : RegW) : Mach :=
  let v := Fld.syncBarWdog_wdog_log2.of w.new
  if v < 16 ∨ 30 < v then m.ev Fld.syncDieEvents_cfg_err id.die else m.setReg id w.new

/-- TGU_WDOG written (R204). -/
def Mach.wrTguWdog (m : Mach) (id : RegId) (w : RegW) : Mach :=
  let v := Fld.tguWdog_wdog_log2.of w.new
  if v < 16 ∨ 30 < v then m.ev Fld.tguDieEvents_cfg_err id.die else m.setReg id w.new

/-- R260, R261: the slots of a die without arrivals, at generation 0. -/
def Mach.slotsClear (m : Mach) (d : Nat) : Mach :=
  (m.dropRegs d (fun r _ => r == Reg.syncBarStatus.code || r == Reg.syncMbarStatus.code)).modDie d (fun x => { x with slots := [] })

/-- R260: ABORT on a die: counters, totals, flags and arming cleared, arrivals and generations cleared, no record. -/
def Mach.syncAbort (m : Mach) (d : Nat) : Mach :=
  let armCode := Reg.syncCtrArm.code
  let m := { m with regs := smMod [] m.regs d (fun r => r.filterMap (fun (e : Nat × W64) =>
    if (keyReg e.1).1 = armCode then
      (let v := BitVec.ofNat 64 (e.2.toNat % 2 ^ 32)
       if v = 0#64 then none else some (e.1, v))
    else some e)) }
  let m := m.dropRegs d (fun r _ => r == Reg.syncCtr.code || r == Reg.syncCtrTotal.code)
  (m.slotsClear d).modDie d (fun x => { x with ctrWaits := [] })

/-- R252: a die belongs to a partition whose job is `job`. -/
def Mach.jobOwnsDie (m : Mach) (d job : Nat) : Bool :=
  (m.partOf d).isSome && m.flag Fld.fabJob_valid d && m.get Fld.fabJob_job d == job

/-- R252: a remote ADD at its target: applied when its job owns the die; otherwise refused (R253). True when it was applied. -/
def Mach.remoteAdd (m : Mach) (d ctr v node job : Nat) : Mach × Bool :=
  if m.jobOwnsDie d job then
    (((m.ctrApply d ctr .add v 5 (0x8000 + node)).1).cnt .syncCnt d 7, true)
  else
    let m := (m.ev Fld.syncDieEvents_remote_unowned d).cnt .syncCnt d 8
    (m.emitRec d 0x07 false false
      [(3, d), (12, ctr), (4, 5), (16, 0x8000 + node), (32, v), (32, m.get Fld.syncCtr_value d ctr),
       (32, m.get Fld.syncCtrTotal_total d ctr), (32, 0), (32, 0), (16, 0)] true false [], false)

end Sys2Proof.Machine
end

