-- ==== Sys2Proof/Machine/CacheRows.lean ====
section
/-! DEFINITION. The rows of the caches (spec/10): requests and fills, errors, pin commands, dead ranges, retry buffers, the
remote-line sweep and the DC registers. -/

namespace Sys2Proof.Machine

/-! ### Requests -/

/-- R303: an error of a die cache's code met at an access of a line: corrected, a poisoned sector, or a line poisoned in the cache that holds
it, whose home then invalidates every other die's copy (an owner's data is written back). -/
def Mach.dcEcc (m : Mach) (d : Nat) (node : Option Nat) (a : Nat) : CacheErr → Mach
  | .single => m.dcCnt d 25
  | .data =>
    let m := m.modLine d node a (fun l => { l with poison := maskBit l.poison (sectorIdx a) true })
    let m := (m.dcCnt d 26).put Fld.dcEvents_uncorrected d 1
    m.toCp d 0x34 false false [(4, 0), (8, d * 32), (48, a)]
  | .tag =>
    let m := m.modLine d node a (fun l => { l with valid := 0xF, poison := 0xF })
    let m := if node.isSome then m
      else nineDies.foldl (fun m x => if x = homeDie a then m else m.recallFrom x a) m
    let m := (m.dcCnt d 26).put Fld.dcEvents_uncorrected d 1
    m.toCp d 0x34 false false [(4, 1), (8, d * 32), (48, a)]

/-- R270 to R299: one request to the cache of die `d` (8: the Bludjan die's), with an error its code meets; a sector of another module that
it does not hold is asked for there. [DEDUCED, log 32] -/
def Mach.dcRequest (m : Mach) (d : Nat) (req : Requester) (op : CacheOp) (mirror : Bool) (err : Option CacheErr) : Mach :=
  let v := viaOf d req mirror
  let meet (m : Mach) (a : Nat) (node : Option Nat := none) : Mach :=
    match err with
    | some e => if (m.lineAt d node a).isSome then m.dcEcc d node a e else m
    | none => m
  let answer (m : Mach) (bs : List Byte) (poison : Bool) : Mach := { m with resp := if poison then .poisoned (ofBytes bs) else .ok (ofBytes bs) }
  match op with
  | .read a n =>
    if inMemory a n then
      match m.deadFault a n with
      | some m => { m with resp := .accessFault }
      | none =>
        match (meet m a).bytesGate v a n true with
        | (m, false) => { m with resp := .waits }
        | (m, true) =>
          let (m, bs) := m.readBytes v a n
          answer m (plain bs) (anyPoison bs)
    else { m with resp := .accessFault }
  | .write a bs poison =>
    if inMemory a bs.length then
      match (meet m a).deadHolds a bs.length with
      | (m, true) => { m with resp := .waits }
      | (m, false) =>
      match m.bytesGate v a bs.length false with
      | (m, false) => { m with resp := .waits }
      | (m, true) => { m.writeBytes v a (bs.map (fun b => (b, poison))) with resp := .ok 0 }
    else { m with resp := .accessFault }
  | .readRemote node a =>
    let a := a / 32 * 32
    if 8 ≤ d ∨ !isStacked a ∨ m.requestRefused d node (.read a 32) then { m with resp := .accessFault }
    else
      match (meet m a (some node)).remoteDemand d req node a with
      | (m, some (bs, poison), _) => answer m bs poison
      | (m, none, stream) =>
        let asked := ((m.fab d).unacked ++ (m.fab d).waiting).any (fun u => u.node == node && u.req == .read a 32 && u.for_ == .fill)
        if asked ∨ m.isLost d node ∨ !m.requestOpen d req (2 ^ 48) then { m with resp := .waits }
        else { m.remoteSend d node (.read a 32) .fill a stream with resp := .waits }
  | .prefetch a => match reqCore req with
    | some c => if d < 8 then m.corePrefetch d c d none a req mirror else m
    | none => m.issuePrefetch (lineFill d d none a req .explicit mirror)

/-- An accumulate write of elements of 4 or 8 bytes, aligned, inside one sector, in memory (R8, R281). -/
def accOk (a width : Nat) (bs : List Byte) : Bool :=
  (width == 4 || width == 8) && a % width == 0 && bs.length % width == 0 && !bs.isEmpty && decide (a % 32 + bs.length ≤ 32) && isMemory a

/-- R281 to R286: one accumulate write. -/
def Mach.accWrite (m : Mach) (v : Via) (a width : Nat) (bs : List Byte) (poison : Bool) : Mach :=
  if accOk a width bs then m.writeSector v a bs poison width else m

/-- ACCUMULATE_WRITE_APPLY: an accumulate write at its home is answered; outside memory it is an access fault (R8); it waits while the home
is being reset (R306), while a dead range's invalidation runs (R297), and for a full bank (R302). -/
def Mach.accRequest (m : Mach) (req : Requester) (a width : Nat) (bs : List Byte) (poison mirror : Bool) : Mach :=
  let v := viaOf (homeDie a) req mirror
  if !accOk a width bs then { m with resp := .accessFault }
  else match m.deadHolds a 1 with
    | (m, true) => { m with resp := .waits }
    | (m, false) => match m.requestGate v a .modify with
      | (m, false) => { m with resp := .waits }
      | (m, true) => { m.accWrite v a width bs poison with resp := .ok 0 }

/-! ### Fills, retry buffers, miss slots -/

/-- The first fill of a list for a line. -/
def findFill (l : List Fill) (a : Nat) : Option Fill := l.find? (fun f => f.addr == lineBase a && f.node.isNone)

/-- R287: the memory data of a fetch in flight returns: its sectors go into the line, inserted as R289 says (a stream prefetch, which has no
requester to be delivered to, least recent in mode 10), unless the line came meanwhile into an active dead range (R298); a demand's miss
(R302) is its requester's to take, in mode 10 without allocation. [DEDUCED, log 32; DEDUCED, log 74] -/
def Mach.fillNow (m : Mach) (d : Nat) (f : Fill) : Mach :=
  let m := m.dropFill f
  let m :=
    if (m.deadRange f.addr).isSome then m
    else
      let v : Via := { viaOf d f.req f.mirror with by_ := f.by_ }
      let ins := m.insertFor d f.stream f.keep f.write
      let missed := f.mark == .missed
      let m := if ins = .mru || missed then m else m.dcCnt d 11
      (bitsSet f.sectors 4).foldl (fun m s =>
        let a := f.addr + 32 * s
        let m := if (m.lineAt d none a).any (fun l => l.valid.testBit s) || (missed && ins == .bypass) then m
          else (m.fetchShared v a (if ins = .bypass then .lru else ins) f.mark).1
        if missed then m.grant d { by_ := f.by_, req := f.req, node := none, addr := a, lru := ins != .mru, data := none } else m) m
  (m.l1Settle d f.addr).showSlotsOf f

/-- R302: what a fetch meets: its data, or the full queue of its bank, if it must go to memory; while its home is being reset, nothing
(R306). [DESIGN CHOICE, log 120] -/
def Mach.missFill (m : Mach) (d a : Nat) (bankFull : Bool) : Mach :=
  match findFill (m.cache d).fills a with
  | none => m
  | some f =>
    if !m.homeServes a then m
    else if bankFull && isStacked a && (List.range 4).any (fun s => f.sectors.testBit s && m.fromMemory d (f.addr + 32 * s)) then
      (m.dropFill f).bankFull f
    else m.fillNow d f

/-- R302: the oldest retry entry of the bank of `a` in the slices of die `d` issues. -/
def Mach.bankRetry (m : Mach) (d a : Nat) : Mach :=
  match (m.cache d).retry.find? (fun f => dcSlice f.addr == dcSlice a && bankKey f.addr == bankKey a) with
  | none => m
  | some f => ((m.modCache d (fun c => { c with retry := c.retry.erase f })).modCache f.into (fun c =>
      { c with fills := c.fills ++ [f] })).retryOcc d

/-- R302: a miss that a full retry buffer returned is issued again. -/
def Mach.missReissue (m : Mach) (d a : Nat) : Mach :=
  match findFill (m.cache d).returned a with
  | none => m
  | some f => m.modCache d (fun c => { c with returned := c.returned.erase f, fills := c.fills ++ [f] })

/-- R279: the background sweep passes one set in every slice: remote-class lines of older epochs leave. -/
def Mach.sweep (m : Mach) (d set : Nat) : Mach :=
  let now := m.get Fld.dcStatus_remote_epoch d
  let old (l : Line) : Bool := l.node.isSome && l.epoch != now
  let gone := (m.cache d).lines.filter (fun l => old l && dcSet l.addr == set)
  let m := gone.foldl (fun m l => m.noteUnused d l) m
  let m := m.modCache d (fun c => { c with lines := c.lines.filter (fun l => !(old l && dcSet l.addr == set)) })
  m.put Fld.dcStatus_sweep_busy d (b2n ((m.cache d).lines.any old))

/-- R279: advance the remote epoch, unless a line of the value it would take is still to be swept: whether it went.
[DEDUCED, log 50] -/
def Mach.advanceEpoch (m : Mach) (d : Nat) : Mach × Bool :=
  let next := (m.get Fld.dcStatus_remote_epoch d + 1) % 65536
  if (m.cache d).lines.any (fun l => l.node.isSome && l.epoch == next) then (m, false)
  else
    let m := ((m.put Fld.dcStatus_remote_epoch d next).dcCnt d 6).modCache d (fun c =>
      { c with granted := c.granted.filter (fun g => g.node.isNone) })
    (m.put Fld.dcStatus_sweep_busy d (b2n ((m.cache d).lines.any (fun l => l.node.isSome))), true)

/-- R288: trackers of a slice that nothing has matched for 4 µs (800 PMU cycles) are freed. -/
def Mach.cloveExpire (m : Mach) (d slice : Nat) : Mach :=
  let ts := smGet [] (m.cache d).trackers slice
  m.modCache d (fun c => { c with trackers := smSet [] c.trackers slice (ts.filter (fun t => m.pmu d - t.at_ ≤ 800)) })

/-! ### Pinning -/

/-- The pinned lines in the set of an address at its home. -/
def Mach.pinnedWays (m : Mach) (h a : Nat) : Nat := ((m.cache h).lines.filter (fun l => l.pinned && sameSet l.addr a)).length

/-- Table 10.4: the reasons against pinning a line that translates: quota, ways, dead range, home outside the partition.
[DESIGN CHOICE, log 26] -/
def Mach.pinReasons (m : Mach) (p : Part) (a : Nat) : List Nat :=
  let h := homeDie a
  if h = 8 ∨ !p.dieMask.testBit h then [6]
  else
    (if m.get Fld.dcPinQuota_quota h < m.get Fld.dcPinUsed_used h + 1 then [1] else []) ++
    (if 12 ≤ m.pinnedWays h a then [2] else []) ++ (if (m.deadRange (lineBase a)).isSome then [4] else [])

/-- The sectors of a line that are to be pinned are fetched at its home, or wait (R302, R306). -/
def Mach.pinFetch (m : Mach) (h a : Nat) (mirror : Bool) : Mach × Bool :=
  let v := viaOf h .collective mirror
  let need := (List.range 4).filter (fun s =>
    !(m.lineAt h none a).any (fun l => l.valid.testBit s) && !(m.lineAt h none a).any (·.owned))
  let (m, ok) := need.foldl (fun (acc : Mach × Bool) s => let (m, ok) := acc.1.requestGate v (a + 32 * s) .read; (m, acc.2 && ok)) (m, true)
  if ok then
    (need.foldl (fun m s =>
      let m := m.takeGrant h h .collective none (a + 32 * s)
      if (m.lineAt h none a).any (fun l => l.valid.testBit s) then m else (m.fetchShared v (a + 32 * s) .mru .demand).1) m, true)
  else (m, false)

/-- Pin one line: 0 when it is pinned, else a reason of Table 10.4 (an open choice where several hold); none while it waits.
[DESIGN CHOICE, log 26; DEDUCED, log 30] -/
def Mach.pinLine (m : Mach) (d : Nat) (p : Part) (va : Nat) : Mach × Option Nat :=
  match m.translateDie d va .read with
  | (m, .error (.wait _)) => (m, none)
  | (m, .ok (.coherent pa mirror true)) =>
    let a := lineBase pa
    let h := homeDie a
    if (m.lineAt h none a).any (·.pinned) then (m, some 0)
    else match m.pinReasons p a with
      | [] =>
        (match m.pinFetch h a mirror with
        | (m, false) => (m, none)
        | (m, true) =>
          let m := (m.allocate h none a .mru mirror .demand).modLine h none a (fun l => { l with pinned := true })
          (m.put Fld.dcPinUsed_used h (m.get Fld.dcPinUsed_used h + 1), some 0))
      | r :: rs => (m.tickFree, some ((r :: rs).getD (Config.freeBits m.freeCtr % (rs.length + 1)) r))
  | (m, _) => (m, some 3)

/-- Unpin one line: a pinned line becomes ordinary, at the most-recent position (R292); whether it need not wait for its translation. -/
def Mach.unpinLine (m : Mach) (d va : Nat) : Mach × Option Nat :=
  match m.translateDie d va .read with
  | (m, .error (.wait _)) => (m, none)
  | (m, .ok (.coherent pa _ _)) =>
    let a := lineBase pa
    let h := homeDie a
    if (m.lineAt h none a).any (·.pinned) then
      let m := (m.modLine h none a (fun l => { l with pinned := false })).touchLine h none a
      (m.put Fld.dcPinUsed_used h (m.get Fld.dcPinUsed_used h - 1), some 0)
    else (m, some 0)
  | (m, _) => (m, some 0)

/-- R291: the lines of a pin command in ascending order, up to the first refusal or the first that waits. -/
def Mach.pinLines (m : Mach) (d : Nat) (p : Part) (op : Nat) : Nat → Mach
  | 0 => m
  | fuel + 1 =>
    let k := m.cache d
    if k.pinLeft = 0 then m
    else
      match if op = 1 then m.pinLine d p k.pinVa else m.unpinLine d k.pinVa with
      | (m, none) => m
      | (m, some 0) =>
        (m.modCache d (fun c => { c with pinLeft := c.pinLeft - 1, pinVa := c.pinVa + 128, pinDone := c.pinDone + 1 })).pinLines d p op fuel
      | (m, some r) => m.modCache d (fun c => { c with pinReason := r })

/-- DC_PIN_CMD written (R290 to R292): the command runs over its lines; `busy` stays until it completes. [DEDUCED, log 36] -/
def Mach.wrPinCmd (m : Mach) (id : RegId) (w : RegW) : Mach :=
  let d := id.die
  let op := bitsOf w.raw 1 0
  match (m.partOf d).filter (fun p => p.low == d) with
  | none => m.ev Fld.dcEvents_cfg_err d
  | some p =>
    if m.flag Fld.dcPinStatus_busy d then m.ev Fld.dcEvents_cfg_err d
    else if bitsOf w.mask 1 0 = 0 then m.setReg id w.new
    else if op = 0 ∨ op = 3 then m.ev Fld.dcEvents_cfg_err d
    else
      let n := Fld.dcPinCmd_lines.of w.new
      let m := (m.setReg id w.new).put Fld.dcPinStatus_busy d 1
      let m := m.modCache d (fun c =>
        { c with pinOp := op, pinLeft := n, pinVa := m.get Fld.dcPinVa_va d * 128, pinDone := 0, pinReason := 0 })
      m.pinLines d p op n

/-- R291: the pin command of die `d` ends: `busy`, `done`, `reason`, DC_PIN_FAIL, and PIN_REFUSED when it was refused. -/
def Mach.pinEnd (m : Mach) (d : Nat) : Mach :=
    let k := m.cache d
    let m := m.wr .dcPinStatus d (k.pinDone * 2 ^ 32 + k.pinReason * 16)
    let m := m.modCache d (fun c => { c with pinOp := 0, pinLeft := 0 })
    if k.pinReason = 0 then m
    else
      let m := (m.put Fld.dcPinFail_va d k.pinVa).ev Fld.dcEvents_pin_refused d
      m.emitRec d 0x14 false false [(4, k.pinReason), (48, k.pinVa), (32, k.pinDone)] false false (m.slotList d)

/-- The pin command of die `d` goes on with a line that waited, and ends when no line is left. -/
def Mach.pinComplete (m : Mach) (d : Nat) : Mach :=
  if !m.flag Fld.dcPinStatus_busy d then m
  else
    let k := m.cache d
    let m := match m.partOf d with
      | some p => if k.pinReason = 0 then m.pinLines d p k.pinOp k.pinLeft else m
      | none => m
    if (m.cache d).pinReason = 0 ∧ (m.cache d).pinLeft ≠ 0 then m else m.pinEnd d

/-- R305: ABORT on a die: a pin command ends with reason 5, its pins and its dead ranges go. -/
def Mach.cacheAbort (m : Mach) (d : Nat) : Mach :=
  let m := if m.flag Fld.dcPinStatus_busy d then
      (m.modCache d (fun c => { c with pinReason := 5 })).pinEnd d else m
  let m := m.modCache d (fun c => { c with lines := c.lines.map (fun l => { l with pinned := false }), deadRelease := 0, deadCancel := 0 })
  let m := m.put Fld.dcPinUsed_used d 0
  (List.range 64).foldl (fun m i => if m.flag Fld.dcDeadCtl_active d i then m.put Fld.dcDeadCtl_active d 0 i else m) m

/-- R293: the pressure window of a die is judged; when it is over the next begins. -/
def Mach.pinPressure (m : Mach) (d : Nat) : Mach :=
  let us := m.get Fld.dcPinPress_window_us d
  let k := m.cache d
  if us = 0 then m
  else
    let m := if !k.winSent && decide (m.get Fld.dcPinPress_threshold d < k.winMisses) then
        let m := (m.ev Fld.dcEvents_pin_pressure d).dcCnt d 24
        let m := m.modCache d (fun c => { c with winSent := true })
        m.emitRec d 0x15 false false [(32, k.winMisses)] false false (m.slotList d)
      else m
    if k.winStart + 200 * us ≤ m.pmu d then
      m.modCache d (fun c => { c with winStart := m.pmu d, winMisses := 0, winSent := false })
    else m

/-! ### Dead ranges -/

/-- R294: why a declaration of range `i` of die `d` is refused: 0 for not at all. -/
def Mach.deadRefusal (m : Mach) (d i base len : Nat) : Nat :=
  let lo := base * 4096
  let hi := lo + len * 4096
  let overlaps (j : Nat) : Bool :=
    j != i && m.flag Fld.dcDeadCtl_active d j && decide (m.get Fld.dcDeadAddr_base d j * 4096 < hi) &&
      decide (lo < (m.get Fld.dcDeadAddr_base d j + m.get Fld.dcDeadCtl_len d j) * 4096)
  if m.flag Fld.dcDeadCtl_active d i then 2
  else if len = 0 ∨ 2 ^ 26 < len then 4
  else if !(isStacked lo && isStacked (hi - 1) && homeDie lo == d && homeDie (hi - 1) == d) then 1
  else if (List.range 64).any overlaps then 2
  else if (m.cache d).lines.any (fun l => l.pinned && decide (lo ≤ l.addr) && decide (l.addr < hi)) then 3
  else 0

/-- R294, R295: a declaration with the range as it stands. -/
def Mach.deadDeclare (m : Mach) (d i : Nat) : Mach :=
  match m.deadRefusal d i (m.get Fld.dcDeadAddr_base d i) (m.get Fld.dcDeadCtl_len d i) with
  | 0 => ((m.put Fld.dcDeadCtl_active d 1 i).put Fld.dcDeadCtl_busy d 1 i).put Fld.dcDeadCtl_err d 0 i
  | e => (m.put Fld.dcDeadCtl_err d e i).ev Fld.dcEvents_dead_refused d

/-- R298: a cancel: now, or when `busy` clears. -/
def Mach.deadCancelNow (m : Mach) (d i : Nat) : Mach :=
  if !m.flag Fld.dcDeadCtl_active d i then m
  else if m.flag Fld.dcDeadCtl_busy d i then m.modCache d (fun c => { c with deadCancel := maskBit c.deadCancel i true })
  else m.put Fld.dcDeadCtl_active d 0 i

/-- DC_DEAD_CTL(i) written: `released` as W1C, `len` while the range is not active, then cancel, then declare. -/
def Mach.wrDeadCtl (m : Mach) (id : RegId) (w : RegW) : Mach :=
  let d := id.die
  let len := if m.flag Fld.dcDeadCtl_active d id.i then Fld.dcDeadCtl_len.of w.old else Fld.dcDeadCtl_len.of w.new
  let m := m.setReg id (Fld.dcDeadCtl_len.into w.new len)
  let m := if bitOf w.raw 4 then m.deadCancelNow d id.i else m
  if bitOf w.raw 0 then m.deadDeclare d id.i else m

/-- DC_DEAD_ADDR(i) written: ignored while the range is active. -/
def Mach.wrDeadAddr (m : Mach) (id : RegId) (w : RegW) : Mach :=
  if m.flag Fld.dcDeadCtl_active id.die id.i then m else m.setReg id w.new

/-- A write that waited for a dead range is applied, as it came. [DEDUCED, log 37] -/
def Mach.heldWrite (m : Mach) (x : DeadWrite) : Mach := m.writeSector x.via x.addr x.bytes x.poison x.width

/-- R295, R297, R298: the copies of range `i` have been discarded everywhere: `busy` clears, a cancel or a release that waited for
it happens, and the writes that waited are applied in their order. -/
def Mach.deadDone (m : Mach) (d i : Nat) : Mach :=
  if !m.flag Fld.dcDeadCtl_busy d i then m
  else
    let lo := m.get Fld.dcDeadAddr_base d i * 4096
    let hi := lo + m.get Fld.dcDeadCtl_len d i * 4096
    let inside (a : Nat) : Bool := decide (lo ≤ a) && decide (a < hi)
    let m := (List.range 9).foldl (fun m x =>
      let gone := (m.cache x).lines.filter (fun l => l.node.isNone && inside l.addr)
      let m := gone.foldl (fun m l => (m.noteUnused x l).l1Invalidate x l.addr none) m
      m.modCache x (fun c => { c with lines := c.lines.filter (fun l => !(l.node.isNone && inside l.addr)) })) m
    let k := m.cache d
    let m := m.put Fld.dcDeadCtl_busy d 0 i
    let m := m.modCache d (fun c =>
      { c with deadCancel := maskBit c.deadCancel i false, deadRelease := maskBit c.deadRelease i false,
               deadWaiting := c.deadWaiting.filter (fun x => !inside x.addr) })
    let m := if k.deadCancel.testBit i then m.put Fld.dcDeadCtl_active d 0 i
      else if k.deadRelease.testBit i && m.flag Fld.dcDeadCtl_active d i then m.deadReleaseNow d i else m
    (k.deadWaiting.filter (fun x => inside x.addr)).foldl (fun m x => m.heldWrite x) m

/-! ### Configuration -/

/-- DC_CFG written (R307). -/
def Mach.wrDcCfg (m : Mach) (id : RegId) (w : RegW) : Mach :=
  if Fld.dcCfg_clove_mode.of w.new = 3 ∨ 32 < Fld.dcCfg_dc_pf_distance.of w.new then m.ev Fld.dcEvents_cfg_err id.die
  else m.setReg id w.new

/-- DC_L1_CFG written (R307). [DEDUCED, log 33] -/
def Mach.wrDcL1Cfg (m : Mach) (id : RegId) (w : RegW) : Mach :=
  if Fld.dcL1Cfg_pf_distance.of w.new = 0 then m else m.setReg id w.new

/-- DC_PIN_QUOTA written by the CP firmware (R307). -/
def Mach.wrPinQuota (m : Mach) (id : RegId) (w : RegW) : Mach :=
  let q := Fld.dcPinQuota_quota.of w.new
  if 1572864 < q ∨ q < m.get Fld.dcPinUsed_used id.die then m.ev Fld.dcEvents_cfg_err id.die else m.setReg id w.new

end Sys2Proof.Machine
end

