-- ==== Sys2Proof/Machine/SnapBase.lean ====
section
/-! DEFINITION. Saffron's place in memory (R424, R438), the version that is current, and the records of its failures (R431,
R433), as the rest of the module uses them. -/

namespace Sys2Proof.Machine

/-- The bytes of a 4 MiB chunk. -/
def chunkBytes : Nat := 0x400000

/-- A little-endian number of `n` bytes as coherent memory holds it; nothing is counted. -/
def Mach.viewNum (m : Mach) (a n : Nat) : Nat := ofBytes ((List.range n).map (fun i => m.view (a + i)))

/-- Bytes as coherent memory holds them. -/
def Mach.viewBytes (m : Mach) (a n : Nat) : List Byte := (List.range n).map (fun i => m.view (a + i))

/-- Write bytes without poison through a die's cache. -/
def Mach.putBytes (m : Mach) (d a : Nat) (bs : List Byte) : Mach := m.writeBytes (Via.engine d) a (bs.map (fun b => (b, false)))

/-- Saffron's state of a die. -/
def Mach.snap (m : Mach) (d : Nat) : SnapSt := (m.die d).snap

/-- Change it. -/
def Mach.modSnap (m : Mach) (d : Nat) (f : SnapSt → SnapSt) : Mach := m.modDie d (fun x => { x with snap := f x.snap })

/-- The bytes of one slot of the work area: half of it (R438). -/
def Mach.slotBytes (m : Mach) (d : Nat) : Nat := m.get Fld.snapWork_len d / 2 * chunkBytes

/-- Slot `k` of the work area of die `d`. -/
def Mach.slotBase (m : Mach) (d k : Nat) : Nat := m.get Fld.snapWork_base d * chunkBytes + k * m.slotBytes d

/-- The manifest of the current version. -/
def Mach.manifest (m : Mach) (d : Nat) : Nat := m.slotBase d (m.get Fld.snapStatus_cur d)

/-- The step n of the current version W_n, from its manifest. -/
def Mach.versionStep (m : Mach) (d : Nat) : Nat := m.viewNum (m.manifest d + 8) 8

/-- R433: the commit of the current version failed, for a reason: to the CP and the partition's queue (the rule names no
destination; DEDUCED from R431). [DEDUCED, log 81] -/
def Mach.commitFailed (m : Mach) (d reason : Nat) : Mach :=
  let m := (m.ev Fld.snapEvents_commit_failed d).cnt .snapCnt d 3
  let m := match m.partOf d with
    | some p => m.ssrSet p (2 ^ 8)
    | none => m
  m.emitRec d 0x40 false false [(64, m.versionStep d), (4, reason)] true false (m.slotList d)

/-- R436: a boundary that a partition has missed is not caught up any more. -/
def Mach.dropBoundary (m : Mach) (p : Part) : Mach := p.dies.foldl (fun m x => m.modSnap x (fun s => { s with missed := none })) m

/-- A partition has a version to vote on (R433), or a boundary that it has not applied (R436). -/
def Mach.voteDue (m : Mach) (p : Part) : Bool :=
  !m.flag Fld.snapStatus_committed p.low || p.dies.any (fun x => !(m.snap x).applied)

/-- R436: an event timer of a die missed a step boundary, or (on the partition's lowest die) a commit point: the vote fails, and the
boundary is caught up no more. -/
def Mach.snapMissed (m : Mach) (d action target : Nat) : Mach :=
  match m.partOf d with
  | none => m
  | some p =>
    if action = 3 then m.modSnap d (fun s => { s with missed := some target, applied := false })
    else if action = 7 ∧ p.low = d then
      let fails := m.flag Fld.snapCfg_enable d && m.voteDue p
      (if fails then m.commitFailed d 4 else m).dropBoundary p
    else m

/-- R435: the module was unlocked during the current step of every partition with a job. -/
def Mach.ssrUnlocked (m : Mach) : Mach := m.parts.foldl (fun m p => m.ssrSet p (2 ^ 10)) m

end Sys2Proof.Machine
end

