-- ==== Sys2Proof/Machine/FabTime.lean ====
section
/-! DEFINITION. Fabric time (spec/02): the counters, the time sources and the lock states of Table 2.1, the grandmaster role,
and the event timers. -/

namespace Sys2Proof.Machine

/-! ### Small accessors -/

/-- Change the fabric-time part of a die. -/
def Mach.modTime (m : Mach) (d : Nat) (f : DieTime → DieTime) : Mach := m.modDie d (fun x => { x with time := f x.time })

/-- The fabric-time part of a die. -/
def Mach.time (m : Mach) (d : Nat) : DieTime := (m.die d).time

/-- The lock states of Table 2.1. -/
def ftFree : Nat := 0
def ftAcquire : Nat := 1
def ftLocked : Nat := 2
def ftHoldover : Nat := 3

/-- The state code of a die. -/
def Mach.ftState (m : Mach) (d : Nat) : Nat := m.get Fld.ftStatus_state d

/-- A die counts as locked in LOCKED and HOLDOVER (R38). -/
def Mach.dieLocked (m : Mach) (d : Nat) : Bool := decide (2 ≤ m.ftState d)

/-- R39: the module is unlocked while any of its nine dies is. -/
def Mach.moduleUnlocked (m : Mach) : Bool := nineDies.any (fun d => !m.dieLocked d)

/-- The links of a pair of dies (spec/01): two between neighbouring Orlupo dies (numbers that differ in one bit), one between
the Bludjan die and CD0 or CD4. -/
def d2dLinks (a b : Nat) : Nat :=
  if a = 8 ∨ b = 8 then (if min a b = 0 ∨ min a b = 4 then 1 else 0)
  else if a ^^^ b = 1 ∨ a ^^^ b = 2 ∨ a ^^^ b = 4 then 2 else 0

/-- Whether a pair of dies has a die-to-die link in service. -/
def Mach.d2dUp (m : Mach) (a b : Nat) : Bool :=
  (List.range (d2dLinks a b)).any (fun l => !m.mt.d2dDown.contains (min a b, max a b, l))

/-! ### Lock states -/

/-- The payload of FT_UNLOCKED (Table 14.2). -/
def Mach.unlockedFields (m : Mach) : List (Nat × Nat) :=
  [(9, nineDies.foldl (fun a d => if m.dieLocked d then a else a + 2 ^ d) 0),
   (18, nineDies.foldl (fun a d => a + m.ftState d * 2 ^ (2 * d)) 0)]

/-- R39: on entry of the module into the unlocked state every die shows it and FT_UNLOCKED goes to the CP and to the fault
queue of every partition, from the lowest-numbered unlocked Orlupo die or else from the Bludjan die. -/
def Mach.moduleLockFollow (m : Mach) (was : Bool) : Mach :=
  let now := m.moduleUnlocked
  let m := nineDies.foldl (fun m d => m.put Fld.ftStatus_module_unlocked d (b2n now)) m
  if now && !was then
    let src := (nineDies.find? (fun d => !m.dieLocked d)).getD 0
    (m.emitRec src 0x16 false false m.unlockedFields true false (m.parts.map (·.slot))).ssrUnlocked
  else m

/-- R38: a die enters a state of Table 2.1: its status, its events and the module's state follow. -/
def Mach.ftEnter (m : Mach) (d s : Nat) : Mach :=
  let old := m.ftState d
  if old = s then m
  else
    let was := m.moduleUnlocked
    let m := (m.put Fld.ftStatus_state d s).put Fld.ftStatus_die_unlocked d (b2n (decide (s < 2)))
    let m := if 2 ≤ old ∧ s < 2 then (m.ev Fld.ftEvents_lock_lost d).bump Fld.ftEvents_lock_lost_count d else m
    let m := if s = 3 then
        (m.ev Fld.ftEvents_holdover_entered d).modTime d (fun t => { t with holdStart := t.pmu })
      else m
    let m := m.modTime d (fun t =>
      { t with over8 := 0, under4 := 0, stepDue := if s = 1 then true else if s = 0 then false else t.stepDue })
    m.moduleLockFollow was

/-! ### Sources -/

/-- A die exchanges time over its own fabric ports and over its die-to-die links: between Orlupo dies, and from CD0 and CD4 to the
Bludjan die (R30 to R32). -/
def Mach.hears (m : Mach) (d src : Nat) : Bool :=
  if d = 8 then (src == 64 && m.d2dUp 0 8) || (src == 68 && m.d2dUp 4 8)
  else if src < 64 then !m.silent && src / 8 == d
  else decide (src < 72) && m.d2dUp d (src - 64)

/-- A die may follow what it hears on `src`: on the grandmaster no fabric port, and CD0 nothing (R33); the Bludjan die follows CD0,
and CD4 when that link has failed (R32): CD4 is dropped when the link to CD0 is back, before CD0 has been heard.
[DESIGN CHOICE, log 131] -/
def Mach.sourceUsable (m : Mach) (d src : Nat) : Bool :=
  m.hears d src && (if d = 8 then src == 64 || !m.d2dUp 0 8 else !(m.mt.gm && (d == 0 || decide (src < 64))))

/-- The sources a die has heard and may use. -/
def Mach.usableSources (m : Mach) (d : Nat) : List TimeSource := (m.time d).sources.filter (fun s => m.sourceUsable d s.idx)

/-- R31: the better of two sources: highest epoch, then least hop count, then lowest index. -/
def betterSource (a b : TimeSource) : TimeSource :=
  if a.epoch ≠ b.epoch then (if b.epoch < a.epoch then a else b)
  else if a.hop ≠ b.hop then (if a.hop < b.hop then a else b)
  else if a.idx ≤ b.idx then a else b

/-- The best of some sources. -/
def bestSource : List TimeSource → Option TimeSource
  | [] => none
  | s :: ss => some (ss.foldl betterSource s)

/-- What a die shows of the grandmaster it follows; a change of node or epoch sets `gm_changed`. -/
def Mach.setGm (m : Mach) (d node epoch hop : Nat) : Mach :=
  let same := m.get Fld.ftStatus_gm_node d == node && m.get Fld.ftStatus_time_epoch d == epoch
  let m := if same then m else m.ev Fld.ftEvents_gm_changed d
  ((m.put Fld.ftStatus_gm_node d node).put Fld.ftStatus_time_epoch d epoch).put Fld.ftStatus_hop_count d hop

/-- What a die shows of its source: the grandmaster, its own hop count, one more than its source's (R31), and the civil offset
received. [DESIGN CHOICE, log 110] -/
def Mach.showSource (m : Mach) (d : Nat) (s : TimeSource) : Mach :=
  let m := m.setGm d s.gm s.epoch (s.hop + 1)
  match s.civil with
  | some c => (m.wr .ftCivilOffset d c.toNat).put Fld.ftStatus_civil_valid d 1
  | none => m

/-- A die takes a source (R31, Table 2.1): FREE goes to ACQUIRE, HOLDOVER to LOCKED when the epoch is current or higher; a
change of source in ACQUIRE makes a step due (R28). The run of exchanges above 8 ns begins again with the new source, the run at
most 4 ns goes on. [DESIGN CHOICE, log 109] -/
def Mach.takeSource (m : Mach) (d : Nat) (s : TimeSource) : Mach :=
  let st := m.ftState d
  let cur := m.get Fld.ftStatus_time_epoch d
  if st = 3 ∧ s.epoch < cur then m
  else
    let m := (m.put Fld.ftStatus_upstream d s.idx).showSource d s
    let m := m.modTime d (fun t => { t with over8 := 0 })
    match st with
    | 0 => m.ftEnter d ftAcquire
    | 1 => m.modTime d (fun t => { t with stepDue := true })
    | 3 => m.ftEnter d ftLocked
    | _ => m

/-- A die has no source left: ACQUIRE goes to FREE, LOCKED to HOLDOVER; it shows no hop count until it has one again.
[DESIGN CHOICE, log 110] -/
def Mach.noSource (m : Mach) (d : Nat) : Mach :=
  let m := (m.put Fld.ftStatus_upstream d 0xFF).put Fld.ftStatus_hop_count d 0x3F
  match m.ftState d with
  | 1 => m.ftEnter d ftFree
  | 2 => m.ftEnter d ftHoldover
  | _ => m

/-- R31: choose the source of a die: keep the current one unless it is lost, a higher epoch is heard, or a lower hop count of
the same epoch has been held for 16 exchanges. -/
def Mach.selectSource (m : Mach) (d : Nat) : Mach :=
  if m.mt.gm && d == 0 then m
  else
    let ss := m.usableSources d
    let cur := m.get Fld.ftStatus_upstream d
    match ss.find? (fun s => s.idx == cur) with
    | none => match bestSource ss with
      | some s => m.takeSource d s
      | none => m.noSource d
    | some c =>
      let better := ss.filter (fun s => decide (c.epoch < s.epoch) || (s.epoch == c.epoch && decide (s.hop < c.hop) && decide (16 ≤ s.held)))
      match bestSource better with
      | some s => m.takeSource d s
      | none => m

/-- A source is lost (light, heartbeat or link): it is forgotten and the die chooses again (R31). -/
def Mach.loseSource (m : Mach) (d src : Nat) : Mach :=
  (m.modTime d (fun t => { t with sources := t.sources.filter (fun s => s.idx != src) })).selectSource d

/-! ### The grandmaster role -/

/-- R553: the module takes the grandmaster role: CD0 is the root of time, LOCKED, hop count 0, and announces its epoch plus 1, which
follows 255 with 0. [DESIGN CHOICE, log 111] -/
def Mach.gmTake (m : Mach) : Mach :=
  let m := { m with mt := { m.mt with gm := true } }
  let m := m.setGm 0 (m.node 0) ((m.get Fld.ftStatus_time_epoch 0 + 1) % 256) 0
  let m := m.put Fld.ftStatus_upstream 0 0xFF
  let m := m.ftEnter 0 ftLocked
  (List.range 7).foldl (fun m k => m.selectSource (k + 1)) m

/-- R553: the module leaves the role. When software did not write it away, FT_CTRL.role becomes 00, even while locked, and
`gm_changed` is set. CD0 goes on from LOCKED: with a source of the current or a higher epoch it follows it, without one it enters
HOLDOVER; the other dies select sources as a follower's. [DESIGN CHOICE, log 112] -/
def Mach.gmLeave (m : Mach) (bySoftware : Bool) : Mach :=
  let m := { m with mt := { m.mt with gm := false, heardAt := m.pmu 0 } }
  let m := if bySoftware then m else (m.put Fld.ftCtrl_role 0 0).ev Fld.ftEvents_gm_changed 0
  let cur := m.get Fld.ftStatus_time_epoch 0
  let m := match bestSource ((m.usableSources 0).filter (fun s => decide (cur ≤ s.epoch))) with
    | some s => m.takeSource 0 s
    | none => m.noSource 0
  (List.range 7).foldl (fun m k => m.selectSource (k + 1)) m

/-- FT_CTRL written (R15, R35, R553): `role` follows the lock; on CD0 the grandmaster role is taken with 01 and left with 00 or
11. -/
def Mach.wrFtCtrl (m : Mach) (id : RegId) (w : RegW) : Mach :=
  let m := m.setReg id w.new
  let role := Fld.ftCtrl_role.of w.new
  if id.die ≠ 0 ∨ Fld.ftCtrl_role.of w.old = role then m
  else if role = 1 ∧ !m.mt.gm then m.gmTake
  else if (role = 0 ∨ role = 3) ∧ m.mt.gm then m.gmLeave true
  else m

/-- R37: a backup grandmaster whose CD0 is LOCKED or in HOLDOVER takes the role when 1 ms (200 000 PMU cycles) has passed without a
message of the epoch. The window begins with the last such message, with the role's last loss, or with CD0's reset.
[DESIGN CHOICE, log 112] -/
def Mach.gmPromote (m : Mach) : Mach :=
  if m.get Fld.ftCtrl_role 0 = 2 ∧ !m.mt.gm ∧ m.dieLocked 0 ∧ 200000 ≤ m.pmu 0 - m.mt.heardAt then m.gmTake else m

/-! ### The counter -/

/-- R27: one PMU cycle of a die: 5 ns and the rate adjustment. [DESIGN CHOICE, log 24] -/
def Mach.tickDie (m : Mach) (d : Nat) : Mach :=
  let t := m.time d
  let v : Int := (m.ft d : Int) * 2 ^ 32 + t.frac + 5 * 2 ^ 32 + t.adj
  (m.wr .ftCount d (v / 2 ^ 32).toNat).modTime d (fun t => { t with frac := (v % 2 ^ 32).toNat, pmu := t.pmu + 1 })

/-- R28: step a die's counter by an offset in units of 10 ps; enabled timers whose target is jumped over, fraction included, are late
(R47); CD0's reading at the last TREF_PPS edge is no reading of the stepped counter (R33). -/
def Mach.stepCounter (m : Mach) (d : Nat) (off : Int) : Mach :=
  let t := m.time d
  let old := m.ft d
  let v : Int := (old : Int) * 2 ^ 32 + t.frac + off * 2 ^ 32 / 100
  let v := if v < 0 then 0 else v
  let now := (v / 2 ^ 32).toNat
  let jumped := (List.range 64).foldl (fun a n =>
    if d < 8 ∧ m.flag Fld.ftTmrCtl_enable d n ∧ old < m.rd .ftTmrTgt d n ∧ ((m.rd .ftTmrTgt d n : Int) * 2 ^ 32 < v) then setBits a n n 1 else a) t.lateArmed
  let m := if d = 0 then { m with mt := { m.mt with ppsAt := none } } else m
  ((m.wr .ftCount d now).ev Fld.ftEvents_step_applied d).modTime d (fun t =>
    { t with frac := (v % 2 ^ 32).toNat, stepDue := false, over8 := 0, lateArmed := jumped })

/-- An offset in units of 10 ps as FT_STATUS.`offset_est` shows it: 0.25 ns units, signed, saturating. [DEDUCED, log 19] -/
def offsetField (off : Int) : Nat := wrap 8 (max (-128) (min 127 (Int.tdiv off 25)))

/-- The rate adjustment moves by at most 1 ppm per exchange and stays within 200 ppm (R27, R28), in units of 2^-32 ns a PMU
cycle: 1 ppm of 5 ns is 21 474. By how much it moves is not stated. [DESIGN CHOICE, log 18] -/
def slewRate (adj want : Int) : Int :=
  let step := max (-21474) (min 21474 want)
  max (-4294967) (min 4294967 (adj + step))

/-- R28, Table 2.1: an exchange with the selected source at a filtered offset in units of 10 ps. [DESIGN CHOICE, log 18] -/
def Mach.meetOffset (m : Mach) (d : Nat) (off : Int) : Mach :=
  let big := decide (800 < off.natAbs)
  let small := decide (off.natAbs ≤ 400)
  let m := m.put Fld.ftStatus_offset_est d (offsetField off)
  let m := m.modTime d (fun t =>
    { t with over8 := if big then t.over8 + 1 else 0, under4 := if small then t.under4 + 1 else 0,
             adj := slewRate t.adj (Config.freeInt m.freeCtr) })
  let m := m.tickFree
  match m.ftState d with
  | 1 =>
    if (m.time d).stepDue ∨ 4 ≤ (m.time d).over8 then m.stepCounter d off
    else if 16 ≤ (m.time d).under4 then m.ftEnter d ftLocked else m
  | 2 =>
    if 4 ≤ (m.time d).over8 then (m.ftEnter d ftAcquire).stepCounter d off else m
  | _ => m

/-- R30: the mean of the link delays kept. [DEDUCED, log 20] -/
def meanDelay (ds : List Int) : Int := if ds.isEmpty then 0 else ds.foldl (· + ·) 0 / ds.length

/-- The link delays kept of a port or link of a die. -/
def Mach.delays (m : Mach) (d src : Nat) : List Int := smGet [] (m.time d).delays src

/-- R30: the link delay of one exchange on a port, less the port's fused asymmetry, joins those of the last 16.
[DEDUCED, log 20] -/
def Mach.hearDelay (m : Mach) (d src : Nat) (t1 t2 t3 t4 : Int) : Mach :=
  let delay := ((t4 - t1) - (t3 - t2)) / 2 - smGet 0 m.perm.asym src
  m.modTime d (fun t => { t with delays := smMod [] t.delays src (fun l => (delay :: l).take 16) })

/-- R31: what a source carries, and the run of exchanges at its hop count. -/
def Mach.hearSource (m : Mach) (d src epoch hop gm : Nat) (civil : Option W64) : Mach :=
  m.modTime d (fun t =>
    let held := match t.sources.find? (fun s => s.idx == src) with
      | some s => if s.hop = hop ∧ s.epoch = epoch then s.held + 1 else 1
      | none => 1
    { t with sources := ⟨src, epoch, hop, gm, civil, held⟩ :: t.sources.filter (fun s => s.idx != src) })

/-- What a time message says: the grandmaster's node, its epoch, the sender's hop count and civil offset. Over a die-to-die link the
sender is a die of this module, and they are what that die shows. -/
def Mach.message (m : Mach) (src gm epoch hop : Nat) (civil : Option W64) : Nat × Nat × Nat × Option W64 :=
  if src < 64 then (gm, epoch, hop, civil)
  else
    let x := src - 64
    (m.get Fld.ftStatus_gm_node x, m.get Fld.ftStatus_time_epoch x, m.get Fld.ftStatus_hop_count x,
     if m.flag Fld.ftStatus_civil_valid x then some (BitVec.ofNat 64 (m.rd .ftCivilOffset x)) else none)

/-- R36, R553: the module holds the role and a message from outside bears a higher epoch, or its own under a lower node. -/
def Mach.gmBeaten (m : Mach) (src gm epoch : Nat) : Bool :=
  let mine := m.get Fld.ftStatus_time_epoch 0
  m.mt.gm && decide (src < 64) && (decide (mine < epoch) || (epoch == mine && gm != m.node 0 && decide (gm < m.node 0)))

/-- R36, R553: the role is lost to a message that beats the module's own, whatever its hop count. -/
def Mach.yieldTo (m : Mach) (src gm epoch : Nat) : Mach := if m.gmBeaten src gm epoch then m.gmLeave false else m

/-- R37: a message from outside that bears the epoch which CD0 has, also one that it has just taken from this message, begins the window
anew. -/
def Mach.noteEpoch (m : Mach) (src epoch : Nat) : Mach :=
  if src < 64 ∧ epoch = m.get Fld.ftStatus_time_epoch 0 then { m with mt := { m.mt with heardAt := m.pmu 0 } } else m

/-- R31, R36 to R38, R553: what a message with a hop count does: it ranks its sender as a source, takes the role away where it beats
the module's own, and sets the offset of a die that follows it. The filtered offset (R28) is the exchange's own, with the filtered
delay. [DESIGN CHOICE, log 18] -/
def Mach.meetMessage (m : Mach) (d src : Nat) (t3 t4 : Int) (gm epoch hop : Nat) (civil : Option W64) : Mach :=
  let m := (m.hearSource d src epoch hop gm civil).yieldTo src gm epoch
  let m := m.selectSource d
  if m.get Fld.ftStatus_upstream d = src then
    match (m.time d).sources.find? (fun s => s.idx == src) with
    | none => m
    | some s => (m.showSource d s).meetOffset d (t3 + meanDelay (m.delays d src) - t4)
  else m

/-- R30 to R38, R553: a time message on a port or link of die `d`: send and receive stamps of the two-way exchange in units of 10 ps,
and what it says. A sender that shows no hop count (0x3F) has no grandmaster's time to give: it is no source; its epoch counts all the same.
[DESIGN CHOICE, log 18; DESIGN CHOICE, log 110] -/
def Mach.timeMessage (m : Mach) (d src : Nat) (t1 t2 t3 t4 : Int) (gm epoch hop : Nat) (civil : Option W64) : Mach :=
  if !m.hears d src then m
  else
    let (gm, epoch, hop, civil) := m.message src gm epoch hop civil
    let m := m.hearDelay d src t1 t2 t3 t4
    (if 63 ≤ hop then (m.loseSource d src).yieldTo src gm epoch else m.meetMessage d src t3 t4 gm epoch hop civil).noteEpoch src epoch

/-- Table 2.1: HOLDOVER has lasted 5 ms (1 000 000 PMU cycles). -/
def Mach.holdoverExpire (m : Mach) (d : Nat) : Mach :=
  if m.ftState d = 3 ∧ 1000000 ≤ m.pmu d - (m.time d).holdStart then m.ftEnter d ftFree else m

/-- R30: every 64 µs of local fabric time a port sends a time message: its stamp, the grandmaster, the epoch, the sender's hop
count and its civil offset. -/
def Mach.timeSend (m : Mach) (d p : Nat) : Mach :=
  let st := m.get Fld.fabPortStatus_state d p
  if m.silent ∨ !(st = 3 ∨ st = 4) ∨ m.ft d < smGet 0 (m.time d).lastSend p + 64000 then m
  else
    (m.modTime d (fun t => { t with lastSend := smSet 0 t.lastSend p (m.ft d) })).send 0x02
      [d, p, m.ft d, m.get Fld.ftStatus_gm_node d, m.get Fld.ftStatus_time_epoch d, m.get Fld.ftStatus_hop_count d,
       m.rd .ftCivilOffset d]

/-! ### Civil time -/

/-- R33, R34: the civil offset of the grandmaster: TAI nanoseconds of an edge minus CD0's reading at it. [DEDUCED, log 21] -/
def Mach.civilFollow (m : Mach) : Mach :=
  match m.mt.gm, m.mt.ptp, m.mt.ppsAt with
  | true, some sec, some at_ =>
    (m.wr .ftCivilOffset 0 (wrap 64 ((sec : Int) * 1000000000 - at_))).put Fld.ftStatus_civil_valid 0 1
  | _, _, _ => m

/-- R33: a rising edge of TREF_PPS on the grandmaster steers the rate of CD0, by slew only, and the civil offset. The edge has no reading
while CD0, whose counter then stands, is being reset. [DESIGN CHOICE, log 18; DEDUCED, log 21] -/
def Mach.ppsEdge (m : Mach) : Mach :=
  let m : Mach := { m with mt := { m.mt with ptp := m.mt.ptp.map (· + 1), ppsAt := if m.cp.resetting.testBit 0 then none else some (m.ft 0) } }
  if m.mt.gm then
    (m.modTime 0 (fun t => { t with adj := slewRate t.adj (Config.freeInt m.freeCtr) })).tickFree.civilFollow
  else m

/-- R538: IEEE 1588 time on the management lane: the TAI second of the last TREF_PPS edge. [DEDUCED, log 21] -/
def Mach.ptpReceive (m : Mach) (sec : Nat) : Mach := ({ m with mt := { m.mt with ptp := some sec } }).civilFollow

/-! ### Event timers -/

/-- Table 2.3: whether an action code is permitted on a timer. -/
def actionPermitted (n action : Nat) : Bool :=
  match action with
  | 0 | 1 | 2 | 4 => true
  | 3 | 5 | 6 | 7 | 8 | 9 => decide (n < 16)
  | _ => false

/-- The re-arm interval of a timer (R48). -/
def Mach.timerPeriod (m : Mach) (d n : Nat) : Nat :=
  m.get Fld.ftTmrCtl_period_hi d n * 2 ^ 32 + m.get Fld.ftTmrCtl_period d n

/-- R48: after firing or missing, a periodic timer's target moves by its period; a one-shot timer is disabled. -/
def Mach.timerRearm (m : Mach) (d n : Nat) : Mach :=
  let p := m.timerPeriod d n
  let m := m.modTime d (fun t => { t with lateArmed := setBits t.lateArmed n n 0 })
  if p = 0 then m.put Fld.ftTmrCtl_enable d 0 n else m.wr .ftTmrTgt d ((m.rd .ftTmrTgt d n + p) % 2 ^ 64) n

/-- R46: a system-scope timer misses: its bit, the count, and FT_MISSED to the CP and the die's partition. -/
def Mach.timerMiss (m : Mach) (d n : Nat) : Mach :=
  let tgt := m.rd .ftTmrTgt d n
  let m := (m.wr .ftTmrMissed d (setBits (m.rd .ftTmrMissed d) n n 1)).bump Fld.ftTmrMissedCount_missed d
  let m := m.emitRec d 0x17 false false [(6, n), (4, m.get Fld.ftTmrCtl_action d n), (64, tgt)] true false (m.slotList d)
  (m.snapMissed d (m.get Fld.ftTmrCtl_action d n) tgt).timerRearm d n

/-- R43, R45, R47: a timer fires: its bit (and its late bit), and its action on its way, at target + 40 ns or at once. The arrival is a
reading of the counter: where the counter steps meanwhile, it moves with the counter. [DESIGN CHOICE, log 130] -/
def Mach.timerFire (m : Mach) (d n : Nat) : Mach :=
  let tgt := m.rd .ftTmrTgt d n
  let late := (m.time d).lateArmed.testBit n
  let m := if late then m.wr .ftTmrLate d (setBits (m.rd .ftTmrLate d) n n 1) else m
  if m.flag Fld.ftTmrCtl_scope d n && m.moduleUnlocked then m.timerMiss d n
  else
    let m := m.wr .ftTmrFired d (setBits (m.rd .ftTmrFired d) n n 1)
    let a := m.get Fld.ftTmrCtl_action d n
    let m := if a = 0 then m else m.modTime d (fun t =>
      { t with acts := t.acts ++ [{ timer := n, action := a, arg := m.get Fld.ftTmrCtl_arg d n, due := max (tgt + 40) (m.ft d),
                                    at_ := t.pmu }] })
    m.timerRearm d n

/-- R43: an enabled timer whose target is reached. -/
def Mach.timerReached (m : Mach) (d n : Nat) : Bool :=
  m.flag Fld.ftTmrCtl_enable d n && decide (m.rd .ftTmrTgt d n ≤ m.ft d)

/-- R45, Table 2.3: two actions set the same actuator: an interrupt vector, a counter, a partition, a collective group, the die's ramp
or cap, or the scrub window of a stack, which two codes set. -/
def sameActuator (a b : TimerAct) : Bool :=
  match a.action, b.action with
  | 1, 1 | 2, 2 => a.arg % 4096 == b.arg % 4096
  | 3, 3 | 7, 7 => a.arg % 16 == b.arg % 16
  | 4, 4 => a.arg % 256 == b.arg % 256
  | 5, 5 | 6, 6 => true
  | x, y => (x == 8 || x == 9) && (y == 8 || y == 9) && a.arg &&& b.arg &&& 0xF != 0

/-- R43, R45: an action has reached its actuator: its instant has come, and no lower-numbered timer that fired in the same PMU cycle
has an action on its way to the same actuator. -/
def TimerAct.arrived (as_ : List TimerAct) (now : Nat) (a : TimerAct) : Bool :=
  decide (a.due ≤ now) && !as_.any (fun b => b.at_ == a.at_ && decide (b.timer < a.timer) && sameActuator a b)

/-- Of the actions of a code that have reached their actuators, the first: by instant, then firing cycle, then timer. -/
def firstAct (as_ : List TimerAct) (now code : Nat) : Option TimerAct :=
  (as_.filter (fun a => a.action == code && a.arrived as_ now)).foldl (fun b a => match b with
    | none => some a
    | some b =>
      if a.due < b.due ∨ (a.due = b.due ∧ (a.at_ < b.at_ ∨ (a.at_ = b.at_ ∧ a.timer < b.timer))) then some a else some b) none

/-- The next action of a code that has reached its actuator on die `d`, taken off its way (R43, R45). -/
def Mach.takeAct (m : Mach) (d code : Nat) : Mach × Option TimerAct :=
  match firstAct (m.time d).acts (m.ft d) code with
  | none => (m, none)
  | some a => (m.modTime d (fun t => { t with acts := t.acts.erase a }), some a)

/-- FT_TMR_TGT written (R49): ignored with `arm_err` while the timer is enabled. -/
def Mach.wrTmrTgt (m : Mach) (id : RegId) (w : RegW) : Mach :=
  if m.flag Fld.ftTmrCtl_enable id.die id.i then m.ev Fld.ftTmrCtl_arm_err id.die id.i else m.setReg id w.new

/-- FT_TMR_CTL written (R47, R49). -/
def Mach.wrTmrCtl (m : Mach) (id : RegId) (w : RegW) : Mach :=
  let d := id.die
  let n := id.i
  let wasOn := Fld.ftTmrCtl_enable.of w.old = 1
  let on := Fld.ftTmrCtl_enable.of w.new = 1
  if on && !actionPermitted n (Fld.ftTmrCtl_action.of w.new) then m.ev Fld.ftTmrCtl_arm_err d n
  else if wasOn && on then
    let same := Fld.ftTmrCtl_arm_err.into w.new 0 == Fld.ftTmrCtl_arm_err.into w.old 0
    let m := m.put Fld.ftTmrCtl_arm_err d (Fld.ftTmrCtl_arm_err.of w.new) n
    if same then m else m.ev Fld.ftTmrCtl_arm_err d n
  else
    let m := m.setReg id w.new
    let tgt := m.rd .ftTmrTgt d n
    if on && (decide (tgt < m.ft d) || (tgt == m.ft d && (m.time d).frac != 0)) then
      (m.modTime d (fun t => { t with lateArmed := setBits t.lateArmed n n 1 })).timerFire d n
    else m.modTime d (fun t => { t with lateArmed := setBits t.lateArmed n n 0 })

end Sys2Proof.Machine
end

