-- ==== Sys2Proof/Machine/MemRows.lean ====
section
/-! DEFINITION. The memory controllers' own events (spec/11): patrol scrub, read completions with their disturbances, row
retirement, invalidation of cached translations, and the writes of HBM_CFG and CFG_XLAT_INV. -/

namespace Sys2Proof.Machine

/-! ### Disturbances -/

/-- An upset of stored symbols: the error pattern of a sector of stacked memory changes by `e` (36 symbols of 8 bits). -/
def Mach.upset (m : Mach) (a e : Nat) : Mach :=
  { m with ecc := smSet 0 m.ecc (a / 32) (smGet 0 m.ecc (a / 32) ^^^ (e % 2 ^ 288)) }

/-- What an access from outside got back. -/
def Mach.answer (m : Mach) (r : SectorRead) : Mach :=
  { m with resp := if r.poison then .poisoned (ofBytes r.bytes) else .ok (ofBytes r.bytes) }

/-! ### Patrol scrub -/

/-- R327: a scrub window opens or closes on the stacks of a mask; a stack that is margined is left alone (R329). -/
def Mach.scrubWindow (m : Mach) (d code : Nat) : Mach :=
  match m.takeAct d code with
  | (m, none) => m
  | (m, some a) =>
    (bitsSet a.arg 4).foldl (fun m s =>
      if m.flag Fld.hbmStatus_margining d (c := s) then m
      else m.put Fld.hbmStatus_scrub_open d (b2n (decide (code = 8))) (c := s)) m

/-- Where sector `pos` of a pseudo-channel's pass lies: ascending internal addresses, in the order of the die offset's bits.
[DEDUCED, log 29] -/
def scrubAddr (d s pch pos : Nat) : Nat :=
  (HbmAddr.mk d s pch (bitsOf pos 10 9) (bitsOf pos 6 5) (bitsOf pos 8 7) (bitsOf pos 24 11) (bitsOf pos 4 0)).encode

/-- The state kept of a pseudo-channel. -/
def Mach.pchTrk (m : Mach) (d s pch : Nat) : PchTrk := smGet PchTrk.init (m.die d).pch (s * 64 + pch)

/-- Change it. -/
def Mach.modPch (m : Mach) (d s pch : Nat) (f : PchTrk → PchTrk) : Mach :=
  m.modDie d (fun x => { x with pch := smMod PchTrk.init x.pch (s * 64 + pch) f })

/-- Sectors in a pass of one pseudo-channel. -/
def passSectors : Nat := 2 ^ 25

/-- R328: every pseudo-channel of the stack has finished its pass: counted, and the next begins with fresh tallies (R326, R330). -/
def Mach.scrubPassEnd (m : Mach) (d s : Nat) : Mach :=
  if (List.range 64).all (fun p => decide (passSectors ≤ (m.pchTrk d s p).pos)) then
    let m := (List.range 64).foldl (fun m p => m.modPch d s p (fun t => { t with pos := 0, symRows := [], rows := [] })) m
    ((m.put Fld.hbmScrub_passes d (m.get Fld.hbmScrub_passes d (c := s) + 1) (c := s)).put Fld.hbmScrub_position d 0 (c := s)).ev
      Fld.hbmEvents_scrub_pass d (c := s)
  else m

/-- HBM_SCRUB.`position` follows the pseudo-channel that is furthest behind. -/
def Mach.showScrub (m : Mach) (d s : Nat) : Mach :=
  let least := (List.range 64).foldl (fun a p => min a (m.pchTrk d s p).pos) (passSectors - 1)
  m.put Fld.hbmScrub_position d least (c := s)

/-- What a scrub read does with the sector it has reached (R328). [DEDUCED, log 28] -/
def Mach.scrubSector (m : Mach) (a : Nat) : Mach :=
  let h := hbmDecode a
  let (m, bs, r) := (m.cnt .hbmCnt h.die 6 (c := h.stack)).sense a true
  match r with
  | .clean | .poisoned => m
  | .corrected _ _ _ => (m.storeSector a bs false).cnt .hbmCnt h.die 7 (c := h.stack)
  | .bad => m.noteUe h a true false

/-- R327 to R329: in an open window a pseudo-channel scrubs its next sector, in which `e` has been upset. [DEDUCED, log 29] -/
def Mach.scrubRead (m : Mach) (d s pch e : Nat) : Mach :=
  let pos := (m.pchTrk d s pch).pos
  if !m.flag Fld.hbmStatus_scrub_open d (c := s) || m.flag Fld.hbmStatus_margining d (c := s) ||
      m.get Fld.hbmCfg_scrub_rate d (c := s) == 0 || decide (passSectors ≤ pos) then m
  else
    let a := scrubAddr d s pch pos
    let m := (m.upset a e).scrubSector a
    let m := (m.modPch d s pch (fun t => { t with pos := t.pos + 1 })).showScrub d s
    m.scrubPassEnd d s

/-! ### Reads -/

/-- R321: refresh keeps the stored charge as it is: no byte and no register changes; a request to the bank waits (timing).
[DESIGN CHOICE, log 108] -/
def Mach.refresh (m : Mach) (_d _s _pch _bank : Nat) : Mach := m

/-- R325: a demand read of stacked memory completes on a sector in which `e` has been upset. -/
def Mach.hbmReadDone (m : Mach) (a e : Nat) (mirror : Bool) : Mach :=
  if isStacked a then
    let (m, r) := (m.upset a e).hbmRead a mirror
    m.answer r
  else m

/-- R334: after an uncorrectable read of the primary the mirror sector is read, in which `e` has been upset. [DEDUCED, log 27] -/
def Mach.mirrorRead (m : Mach) (a e : Nat) : Mach :=
  if isStacked a then
    match (m.sectorDecode a).2 with
    | .bad =>
      let (m, r) := (m.upset (mirrorAddr a) e).hbmRead a true
      m.answer r
    | _ => m
  else m

/-- R336: a GDDR7 read completes, with the tries that failed their check and what the device reported. -/
def Mach.gdReadDone (m : Mach) (a fails : Nat) (devCorrected devUe : Bool) : Mach :=
  if isGddr a then
    let (m, r) := m.gdRead a fails devCorrected devUe
    m.answer r
  else m

/-! ### Row retirement -/

/-- The address of the first of the four 64 KiB blocks that hold a row's chunks (R332): the row's die offset with o[17:16] 0. -/
def rowBlock (r : RowRef) : Nat := r.die * 2 ^ 38 + r.row * 2 ^ 24 + r.sid * 2 ^ 22 + r.bank * 2 ^ 20 + r.bg * 2 ^ 18

/-- The sectors of a row. -/
def rowSectors (r : RowRef) : List Nat :=
  (List.range 32).map (fun col => (HbmAddr.mk r.die r.stack r.pch r.sid r.bg r.bank r.row col).encode)

/-- R331: read a sector of a row for its repair and write it back; an uncorrectable one is noted (R325) and written poisoned.
[DEDUCED, log 124] -/
def Mach.rewriteSector (m : Mach) (a : Nat) : Mach :=
  let (m, bs, r) := m.sense a false
  match r with
  | .clean | .corrected _ _ _ => m.storeSector a bs false
  | .poisoned => m.storeSector a bs true
  | .bad => (m.noteUe (hbmDecode a) a false false).storeSector a bs true

/-- R331, R332: the CP firmware retires a row. `left`: the least repair resources left in any bank group of the stack after
the repair, none when the device has no resource for this row's bank group. -/
def Mach.rowRetire (m : Mach) (r : RowRef) (left : Option Nat) : Mach :=
  match left with
  | none =>
    let m := m.ev Fld.hbmEvents_retire_failed r.die (c := r.stack)
    m.emitRec r.die 0x33 false false [(48, rowBlock r)] false false (m.slotList r.die)
  | some n =>
    let m := (rowSectors r).foldl (fun m a => m.rewriteSector a) m
    let m := (m.cnt .hbmCnt r.die 9 (c := r.stack)).put Fld.hbmStatus_ppr_left r.die n (c := r.stack)
    { m with perm := { m.perm with repair := m.perm.repair ++ [r] } }

/-! ### Cached translations -/

/-- CFG_XLAT_INV written (R317, R343). -/
def Mach.wrXlatInv (m : Mach) (id : RegId) (w : RegW) : Mach :=
  let d := id.die
  let lowest := (m.partOf d).any (fun p => p.low == d)
  if !lowest || m.flag Fld.cfgXlatInv_busy d || decide (2 ≤ Fld.cfgXlatInv_scope.of w.new) then m.ev Fld.cfgXlatInv_inv_err d
  else
    let m := m.setReg id (Fld.cfgXlatInv_go.into w.new 0)
    if bitOf w.raw 0 then m.put Fld.cfgXlatInv_busy d 1 else m

/-- R317: the invalidation ends: no core of the partition holds a translation it covers any more. -/
def Mach.xlatInvDone (m : Mach) (d : Nat) : Mach :=
  if !m.flag Fld.cfgXlatInv_busy d then m
  else
    let va := m.get Fld.cfgXlatInv_va d / 65536 * 65536
    let whole := m.get Fld.cfgXlatInv_scope d == 1
    let covers (e : TlbEntry) : Bool := whole || (decide (e.va ≤ va) && decide (va < e.va + e.size))
    let onWalk (p : WalkPtr) : Bool := whole || (decide (p.va ≤ va) && decide (va < p.va + entrySpan (p.level + 1)))
    let ds := match m.partOf d with | some p => p.dies | none => [d]
    let m := ds.foldl (fun m x => (List.range 32).foldl (fun m c =>
      m.modCore x c (fun k => { k with tlb := k.tlb.filter (fun e => !covers e), walks := k.walks.filter (fun p => !onWalk p) })) m) m
    m.put Fld.cfgXlatInv_busy d 0

/-! ### Configuration -/

/-- HBM_CFG written by the CP firmware (R340). -/
def Mach.wrHbmCfg (m : Mach) (id : RegId) (w : RegW) : Mach :=
  if Fld.hbmCfg_ecc_mode.of w.new = 3 ∨ Fld.hbmCfg_ce_row_limit.of w.new = 0 then m.ev Fld.hbmEvents_cfg_err id.die (c := id.core)
  else m.setReg id w.new

end Sys2Proof.Machine
end

