-- ==== Sys2Proof/Machine/Collect.lean ====
section
/-! DEFINITION. The collective engine (spec/13): groups and ranks, the rings of R398, partials and results, all-to-all-v and
expert combine, deadlines and carry, end notices, loss of a member, completion. -/

namespace Sys2Proof.Machine

/-! ### Descriptors -/

/-- Table 8.8: the fields of a collective descriptor. -/
def cOp (ws : List Nat) : Nat := wbits ws 1 63 60
def cDtype (ws : List Nat) : Nat := wbits ws 1 59 57
def cAddMode (ws : List Nat) : Nat := wbits ws 1 56 56
def cDrop (ws : List Nat) : Bool := wbits ws 1 55 55 = 1
def cDeadlineEn (ws : List Nat) : Bool := wbits ws 1 54 54 = 1
def cGroup (ws : List Nat) : Nat := wbits ws 1 47 40
def cSrc (ws : List Nat) : Nat := wbits ws 2 63 16
def cDst (ws : List Nat) : Nat := wbits ws 3 63 16
def cTable (ws : List Nat) : Nat := wbits ws 4 63 16
def cBytes (ws : List Nat) : Nat := wbits ws 5 63 24
def cDeadline (ws : List Nat) : Nat := wbits ws 6 63 0
def cPfAddr (ws : List Nat) : Nat := wbits ws 7 63 16
def cPfLen (ws : List Nat) : Nat := wbits ws 7 15 0

/-- R212, R222, R223, R390: the field checks of a collective descriptor, by descriptor bit. -/
def colChecks (ws : List Nat) : List FieldCheck :=
  let op := cOp ws
  let table := op == 3 || op == 4
  headerChecks ws 4 ++
  [(124, decide (op ≤ 4)), (121, decide (cDtype ws ≤ 3)),
   (121, !(cDtype ws == 3 && (op == 0 || op == 1 || op == 4))), (124, !(cDtype ws == 3 && (op == 0 || op == 1 || op == 4))),
   (120, !(cAddMode ws == 0 && cDtype ws == 2)), (121, !(cAddMode ws == 0 && cDtype ws == 2)),
   (120, !(cAddMode ws == 1 && (op == 2 || op == 3))), (124, !(cAddMode ws == 1 && (op == 2 || op == 3))),
   (118, !(cDeadlineEn ws && (op == 2 || op == 3))), (124, !(cDeadlineEn ws && (op == 2 || op == 3))),
   (144, cSrc ws % 32 == 0), (208, cDst ws % 32 == 0),
   (272, cTable ws % 64 == 0 && (if table then cTable ws != 0 else cTable ws == 0)),
   (344, cBytes ws % 32 == 0 && !(cBytes ws == 0 && (op == 1 || op == 2 || op == 4)) && !(op == 4 && decide (65536 < cBytes ws))),
   (464, cPfLen ws == 0 || cPfAddr ws % 65536 == 0)] ++
  reservedChecks ws 1 53 48 ++ reservedChecks ws 1 39 32 ++ reservedChecks ws 2 15 0 ++ reservedChecks ws 3 15 0 ++
  reservedChecks ws 4 15 0 ++ reservedChecks ws 5 23 0

/-! ### Groups -/

/-- The collective part of a die. -/
def Mach.col (m : Mach) (d : Nat) : ColSt := (m.die d).col

/-- Change it. -/
def Mach.modCol (m : Mach) (d : Nat) (f : ColSt → ColSt) : Mach := m.modDie d (fun x => { x with col := f x.col })

/-- The address of a group's entry (R383). -/
def Mach.groupAddr (m : Mach) (d g : Nat) : Nat := m.get Fld.colGrpBase_base d * 4096 + 64 * g

/-- A group's entry as 16 words of 32 bits; beyond the table there is none: words of zero, not `valid`. -/
def Mach.groupEntry (m : Mach) (d g : Nat) : Mach × List Nat :=
  if m.get Fld.colGrpCfg_entries d ≤ g then (m, List.replicate 16 0)
  else
  let (m, bs) := m.readBytes (Via.engine d) (m.groupAddr d g) 64
  (m, (List.range 16).map (fun i => ofBytes (((plain bs).drop (4 * i)).take 4)))

/-- Table 13.1: the fields of an entry. -/
def gWord (e : List Nat) (i : Nat) : Nat := e.getD i 0
def gValid (e : List Nat) : Bool := bitOf (gWord e 0) 31
def gBroken (e : List Nat) : Bool := bitOf (gWord e 0) 30
def gBox (e : List Nat) : Nat := bitsOf (gWord e 0) 22 0
def gOrigin (e : List Nat) : Nat × Nat × Nat := (bitsOf (gWord e 0) 22 18, bitsOf (gWord e 0) 17 13, bitsOf (gWord e 0) 12 9)
def gBits (e : List Nat) (dim : Nat) : Nat :=
  match dim with
  | 0 => bitsOf (gWord e 0) 8 6
  | 1 => bitsOf (gWord e 0) 5 3
  | _ => bitsOf (gWord e 0) 2 0
def gGen (e : List Nat) : Nat := bitsOf (gWord e 1) 15 0
def gSeq (e : List Nat) : Nat := gWord e 2
def gVout (e : List Nat) : Nat := bitsOf (gWord e 3) 23 12
def gVin (e : List Nat) : Nat := bitsOf (gWord e 3) 11 0
def gMember (e : List Nat) (i : Nat) : Nat := gWord e (4 + i)
def gStageLen (e : List Nat) : Nat := bitsOf (gWord e 13) 31 16 * 2 ^ 20
def gStageBase (e : List Nat) : Nat := (bitsOf (gWord e 13) 15 0 * 2 ^ 12 + bitsOf (gWord e 12) 31 20) * 2 ^ 20
def gCarryLen (e : List Nat) : Nat := bitsOf (gWord e 15) 31 16 * 2 ^ 20
def gCarryBase (e : List Nat) : Nat := (bitsOf (gWord e 15) 15 0 * 2 ^ 12 + bitsOf (gWord e 14) 31 20) * 2 ^ 20

/-- The size of the group box in a dimension. -/
def gSize (e : List Nat) (dim : Nat) : Nat := 2 ^ gBits e dim

/-- The number of positions. -/
def gRanks (e : List Nat) : Nat := gSize e 0 * gSize e 1 * gSize e 2

/-- R384: the coordinate of a rank in a dimension of the box. -/
def rankCoord (e : List Nat) (r dim : Nat) : Nat :=
  match dim with
  | 0 => r / (gSize e 1 * gSize e 2)
  | 1 => r / gSize e 2 % gSize e 1
  | _ => r % gSize e 2

/-- The rank of coordinates. -/
def rankOf (e : List Nat) (x y z : Nat) : Nat := (x * gSize e 1 + y) * gSize e 2 + z

/-- A rank with one coordinate replaced. -/
def rankWith (e : List Nat) (r dim c : Nat) : Nat :=
  rankOf e (if dim = 0 then c else rankCoord e r 0) (if dim = 1 then c else rankCoord e r 1) (if dim = 2 then c else rankCoord e r 2)

/-- The node at a position. -/
def posNode (e : List Nat) (r : Nat) : Nat :=
  let (x0, y0, z0) := gOrigin e
  nodeOf (x0 + rankCoord e r 0) (y0 + rankCoord e r 1) (z0 + rankCoord e r 2)

/-- The position of a node in the box. -/
def nodePos (e : List Nat) (n : Nat) : Option Nat :=
  let (x0, y0, z0) := gOrigin e
  if inRange (nodeX n) x0 (gBits e 0) && inRange (nodeY n) y0 (gBits e 1) && inRange (nodeZ n) z0 (gBits e 2) then
    some (rankOf e (nodeX n - x0) (nodeY n - y0) (nodeZ n - z0))
  else none

/-- The valid membership words. -/
def gWords (e : List Nat) : List Nat := ((List.range 8).map (gMember e)).filter (fun w => bitOf w 31)

/-- The membership word that names a node. -/
def memberWord (e : List Nat) (n : Nat) : Option Nat := (gWords e).find? (fun w => bitsOf w 13 0 == n)

/-- R384: whether a position is excluded. -/
def posExcluded (e : List Nat) (r : Nat) : Bool := (memberWord e (posNode e r)).any (fun w => !bitOf w 30)

/-- R384: the rank of a node: its position unless it is excluded or substituted, or the position it is a spare for. -/
def rankOfNode (e : List Nat) (n : Nat) : Option Nat :=
  match (gWords e).find? (fun w => bitOf w 30 && bitsOf w 29 16 == n) with
  | some w => nodePos e (bitsOf w 13 0)
  | none =>
    match nodePos e n with
    | none => none
    | some r => if (memberWord e n).isSome then none else some r

/-- R398: the successor of a coordinate in a ring of `size`: on one of two opposite rings when the box wraps, else on the
folded ring 0, 2, 4, …, 5, 3, 1. -/
def ringNext (size half c : Nat) (wraps : Bool) : Nat :=
  if wraps then (if half = 0 then (c + 1) % size else (c + size - 1) % size)
  else if c % 2 = 0 then (if c + 2 < size then c + 2 else if size % 2 = 0 then size - 1 else size - 2)
  else if c = 1 then 0 else c - 2

/-- Whether the group box spans the whole system in a dimension, as die `d` knows the sizes. -/
def Mach.boxWraps (m : Mach) (d : Nat) (e : List Nat) (dim : Nat) : Bool :=
  let (sx, sy, sz) := m.sizes d
  gSize e dim == (match dim with | 0 => sx | 1 => sy | _ => sz)

/-- R398: the next position that is not excluded, in the ring of a dimension, from a position on; none when all of that ring is excluded.
[DEDUCED, log 142] -/
def Mach.actingFrom (m : Mach) (d : Nat) (e : List Nat) (dim : Nat) : Nat → Nat → Option Nat
  | 0, _ => none
  | fuel + 1, r =>
    if posExcluded e r then
      m.actingFrom d e dim fuel (rankWith e r dim (ringNext (gSize e dim) 0 (rankCoord e r dim) (m.boxWraps d e dim)))
    else some r

/-- The position that performs a position's duties (R386): itself, or its successor when it is excluded, in the ring of the first
dimension that has one, or else the first position that is not excluded. [DEDUCED, log 142] -/
def Mach.acting (m : Mach) (d : Nat) (e : List Nat) (r : Nat) : Nat :=
  match (List.range 3).findSome? (fun dim => m.actingFrom d e dim (gSize e dim) r) with
  | some a => a
  | none => ((List.range (gRanks e)).find? (fun a => !posExcluded e a)).getD r

/-- The node that serves a position: the spare that has it, else the node there (R384). -/
def servingNode (e : List Nat) (r : Nat) : Nat :=
  match memberWord e (posNode e r) with
  | some w => if bitOf w 30 then bitsOf w 29 16 else posNode e r
  | none => posNode e r

/-- R398: the dimensions of size above 1 in the order of a stripe. -/
def stripeDims (e : List Nat) (stripe : Nat) : List Nat :=
  ((List.range 3).map (fun i => (i + stripe) % 3)).filter (fun k => decide (1 < gSize e k))

/-- The nodes of every rank of a group. -/
def groupNodes (e : List Nat) : List Nat :=
  ((List.range (gRanks e)).filter (fun r => !posExcluded e r)).map (servingNode e)

/-- The nodes that a membership word names: its member, and the spare that takes the position (Table 13.2). -/
def wordNames (w : Nat) : List Nat := if bitOf w 30 then [bitsOf w 13 0, bitsOf w 29 16].eraseDups else [bitsOf w 13 0]

/-- Two words name one node (R385). -/
def memberTwice (ws : List Nat) : Bool :=
  let names := ws.flatMap wordNames
  names.eraseDups.length != names.length

/-- R385: an entry that makes a descriptor complete with COL_GROUP_INVALID. -/
def Mach.groupInvalid (m : Mach) (d : Nat) (e : List Nat) (addMode : Nat) : Bool :=
  let (x0, y0, z0) := gOrigin e
  let aligned := x0 % gSize e 0 == 0 && y0 % gSize e 1 == 0 && z0 % gSize e 2 == 0
  let within (lo size at_ bits : Nat) : Bool := decide (at_ ≤ lo) && decide (lo + size ≤ at_ + 2 ^ bits)
  let inside := m.flag Fld.fabJob_valid d && within x0 (gSize e 0) (m.get Fld.fabJob_x0 d) (m.get Fld.fabJob_bx d) &&
    within y0 (gSize e 1) (m.get Fld.fabJob_y0 d) (m.get Fld.fabJob_by d) && within z0 (gSize e 2) (m.get Fld.fabJob_z0 d) (m.get Fld.fabJob_bz d)
  let region (base len : Nat) : Bool := len == 0 || (isStacked base && isStacked (base + len - 1))
  !aligned || !inside || (rankOfNode e (m.node d)).isNone || (gWords e).any (fun w => (nodePos e (bitsOf w 13 0)).isNone) ||
    memberTwice (gWords e) || !region (gStageBase e) (gStageLen e) || !region (gCarryBase e) (gCarryLen e) ||
    (addMode == 1 && decide (gStageLen e < 2 * 2 ^ 20))

/-! ### Operations in progress -/

/-- Statuses of Table 13.6. -/
def stLateCarried : Nat := 0x20
def stLateDropped : Nat := 0x21
def stColPeerLost : Nat := 0x22
def stGroupInvalid : Nat := 0x23
def stGroupBroken : Nat := 0x24
def stExcluded : Nat := 0x25
def stColSize : Nat := 0x26
def stOpMismatch : Nat := 0x27

/-- The operation of a group in progress on a die. -/
def Mach.colOp (m : Mach) (d g : Nat) : Option ColOp := (m.col d).ops.find? (fun o => o.group == g)

/-- Change it. -/
def Mach.modOp (m : Mach) (d g : Nat) (f : ColOp → ColOp) : Mach :=
  m.modCol d (fun c => { c with ops := c.ops.map (fun o => if o.group = g then f o else o) })

/-- The number under which an operation's sends are known to the fabric. -/
def ColOp.id (o : ColOp) : Nat := 2 ^ 40 + o.group * 2 ^ 32 + o.gseq

/-- The engine of an operation for its descriptor's addresses. -/
def ColOp.eng (o : ColOp) (d : Nat) : Eng :=
  { die := d, core := none, req := .collective, keep := false, queue := 3, seq := o.id, viaCache := false }

/-- The width of an element of the operation. -/
def elemWidth (dtype : Nat) : Nat := match dtype with | 0 => 4 | 1 => 8 | 2 => 2 | _ => 1

/-- The bytes of shard `r`: an all-gather's shards are whole `bytes`, a reduction's vector is divided over the positions in units
of 32 bytes. [DEDUCED, log 77] -/
def shardRange (ws e : List Nat) (r : Nat) : Nat × Nat :=
  let n := gRanks e
  if cOp ws = 2 then (r * cBytes ws, cBytes ws)
  else
    let u := cBytes ws / 32
    let lo := u * r / n * 32
    (lo, u * (r + 1) / n * 32 - lo)

/-- The bytes of a piece before it is cut into chunks: a third of its shard (R398), and of it the half that takes one ring of a wrapped
dimension. [DEDUCED, log 77] -/
def halfRange (ws e : List Nat) (shard stripe half : Nat) : Nat × Nat :=
  let (off, len) := shardRange ws e shard
  let u := len / 32
  let lo := u * stripe / 3
  let hi := u * (stripe + 1) / 3
  let mid := lo + (hi - lo) / 2
  if half = 0 then (off + 32 * lo, 32 * (mid - lo)) else (off + 32 * mid, 32 * (hi - mid))

/-- The chunks of at most 1 MiB of a piece; a piece without data still makes its way round the rings (R393, R394).
[DEDUCED, log 77] -/
def chunksOf (ws e : List Nat) (shard stripe half : Nat) : Nat := max 1 (ceilDiv (halfRange ws e shard stripe half).2 (2 ^ 20))

/-- The bytes of a unit: one chunk of a piece. [DEDUCED, log 77] -/
def unitRange (ws e : List Nat) (p : ColPiece) : Nat × Nat :=
  let (off, len) := halfRange ws e p.shard p.stripe p.half
  (off + 2 ^ 20 * p.chunk, min (2 ^ 20) (len - 2 ^ 20 * p.chunk))

/-- The key of a position's progress with a unit. -/
def unitKey (role : Nat) (p : ColPiece) : Nat := (((role * 2 ^ 14 + p.shard) * 3 + p.stripe) * 2 + p.half) * 2 ^ 20 + p.chunk

/-- Every unit of an operation. -/
def unitsOf (ws e : List Nat) : List ColPiece :=
  (List.range (gRanks e)).flatMap (fun r => (List.range 3).flatMap (fun s => (List.range 2).flatMap (fun h =>
    (List.range (chunksOf ws e r s h)).map (fun c => ⟨s, h, 0, r, c⟩))))

/-- The positions this node performs: its rank and the excluded positions that fall to it. -/
def Mach.colRoles (m : Mach) (d : Nat) (o : ColOp) : List Nat :=
  o.rank :: (List.range (gRanks o.entry)).filter (fun r => r != o.rank && posExcluded o.entry r && m.acting d o.entry r == o.rank)

/-! ### What the steps of an operation share -/

/-- What a step of an operation comes to: done, with what it answers; else it waits (none), or it ends the operation with a status. -/
abbrev ColRes (α : Type) : Type := Mach × Except (Option Nat) α

/-- A step that is done goes on. -/
def colThen {α β : Type} (x : ColRes α) (f : Mach → α → ColRes β) : ColRes β :=
  match x with
  | (m, .ok a) => f m a
  | (m, .error e) => (m, .error e)

/-- What an access of the engine comes to: it waits (R302, R306, R371), faults, meets a poisoned table or a lost node. -/
def colRes (x : Mach × EngRes) : ColRes (List (Byte × Bool)) :=
  match x with
  | (m, .ok bs) => (m, .ok bs)
  | (m, .wait) => (m, .error none)
  | (m, .fault) => (m, .error (some stMemAccess))
  | (m, .poisonedTable) => (m, .error (some stPoisoned))
  | (m, .lost) => (m, .error (some stPeerLost))

/-- The way of an operation's accesses to its staging and carry regions, at module physical addresses. -/
def ColOp.via (o : ColOp) (d : Nat) : Via := (o.eng d).via false

/-- The operation may write there now (R302, R306). -/
def Mach.colGate (m : Mach) (d : Nat) (o : ColOp) (a n : Nat) : ColRes Unit :=
  match m.bytesGate (o.via d) a n false with
  | (m, true) => (m, .ok ())
  | (m, false) => (m, .error none)

/-- Write a region of the group. -/
def Mach.colStore (m : Mach) (d : Nat) (o : ColOp) (a : Nat) (bs : List (Byte × Bool)) (width : Nat := 0) : ColRes Unit :=
  colThen (m.colGate d o a bs.length) (fun m _ => (m.writeBytes (o.via d) a bs width, .ok ()))

/-- The accumulates that the die caches have refused on poisoned sectors (R285). -/
def Mach.refusedAdds (m : Mach) : Nat := ((List.range 8).map (fun d => m.rd .dcCnt d 9)).foldl (· + ·) 0

/-- Table 13.5: poisoned sectors written by an operation. -/
def Mach.notePoison (m : Mach) (d g : Nat) (bs : List (Byte × Bool)) : Mach :=
  m.modOp d g (fun o => { o with poisoned := o.poisoned + poisonedSectors bs })

/-- Write `dst`, or add to it as accumulate stores (R394): the sectors that it poisons, or leaves poisoned because their add is refused, are
counted (R285, Table 13.5). -/
def Mach.colPut (m : Mach) (d : Nat) (o : ColOp) (va : Nat) (bs : List (Byte × Bool)) (width : Nat := 0) : ColRes Unit :=
  match m.engCanWrite (o.eng d) va bs.length (decide (width ≠ 0)) with
  | (m, some r) => colThen (colRes (m, r)) (fun m _ => (m, .ok ()))
  | (m, none) =>
    let n := ((if width = 0 then m else m.cnt .colCnt d 3 (ceilDiv bs.length 32)).engWrite (o.eng d) va bs width).notePoison d o.group bs
    (n.modOp d o.group (fun x => { x with poisoned := x.poisoned + (n.refusedAdds - m.refusedAdds) }), .ok ())

/-- R394: adds or writes of the operation are not visible yet. -/
def Mach.colWriting (m : Mach) (d : Nat) (o : ColOp) : Bool :=
  m.writesHeld (fun w => w.via.by_ == d && w.via.for_ == .engine 0 3 o.id) ||
    ((m.fab d).unacked ++ (m.fab d).waiting).any (fun u => u.for_ == .engine 0 3 o.id && (match u.req with
      | .write _ _ _ | .acc _ _ _ _ => true
      | _ => false))

/-- Lane-wise sum of two runs of bytes, poisoned where either is. -/
def addBytes (width : Nat) (a b : List (Byte × Bool)) : List (Byte × Bool) :=
  let f := if width = 8 then fmtB64 else if width = 2 then fmtBF16 else fmtB32
  (List.range (a.length / width)).flatMap (fun i =>
    let x := (a.drop (width * i)).take width
    let y := (b.drop (width * i)).take width
    (toBytes width (f.add .rne (ofBytes (plain x)) (ofBytes (plain y))).v).map (fun v => (v, anyPoison x || anyPoison y)))

/-- A message of an operation to a node; it stays unacknowledged until its response (R368, R400). [DESIGN CHOICE, log 78] -/
def Mach.colSend (m : Mach) (d : Nat) (o : ColOp) (node : Nat) (kind : Nat) (words : List Nat) (bs : List (Byte × Bool)) : Mach :=
  let m := m.cnt .colCnt d 1 bs.length
  let m := m.remoteSend d node (.msg o.group o.gseq bs.length) (.engine 0 3 o.id) 0
  m.send 0x30 ([d, node, kind, m.get Fld.fabJob_job d, o.group, o.gseq, gGen o.entry, gBox o.entry, cOp o.words, cDtype o.words,
    cAddMode o.words, cBytes o.words, b2n (cDeadlineEn o.words), cDeadline o.words, b2n (anyPoison bs)] ++ words ++
    [ofBytes (plain bs), bs.length] ++ o.late)

/-- R388: the end notice of an operation to every other rank of its group that is not lost. [DESIGN CHOICE, log 78] -/
def Mach.endNotice (m : Mach) (d : Nat) (o : ColOp) (status : Nat) : Mach :=
  ((groupNodes o.entry).filter (fun n => n != m.node d && !m.isLost d n)).foldl (fun m n =>
    m.send 0x31 [d, n, m.get Fld.fabJob_job d, o.group, o.gseq, status]) m

/-- R410, R411: what an early end leaves in the event and counter registers. -/
def Mach.noteEnd (m : Mach) (d status : Nat) : Mach :=
  let m := if 0x23 ≤ status ∧ status ≤ 0x27 then m.ev Fld.colEvents_group_err d else m
  if status = stColPeerLost then m.cnt .colCnt d 9 else m

/-- An operation ends early, unless it has: its status is fixed and, unless the ranks learn it otherwise, a notice goes out (R388). -/
def Mach.colEnd (m : Mach) (d : Nat) (o : ColOp) (status : Nat) (notice : Bool) : Mach :=
  if o.status.isSome then m
  else
    let m := (m.modOp d o.group (fun o => { o with status := some status })).noteEnd d status
    if notice then m.endNotice d o status else m

/-! ### The rings -/

/-- Where a unit's sum lies at a position: in `dst`, in the staging region of a late rank, or, of an excluded position, with the
engine. -/
def Mach.readSum (m : Mach) (d : Nat) (o : ColOp) (role off len : Nat) (key : Nat) : ColRes (List (Byte × Bool)) :=
  if role ≠ o.rank then (m, .ok (smGet (List.replicate len (0#8, false)) o.virt key))
  else if o.zero then colRes (m.tableRead (o.via d) (gStageBase o.entry + off) len)
  else colRes (m.engRead (o.eng d) (cDst o.words + off) len)

/-- Add a partial to the sums of a position (R394), as accumulate stores. -/
def Mach.addSum (m : Mach) (d : Nat) (o : ColOp) (role off key : Nat) (bs : List (Byte × Bool)) : ColRes Unit :=
  let width := elemWidth (cDtype o.words)
  if role ≠ o.rank then
    let sum := addBytes width (smGet (List.replicate bs.length (0#8, false)) o.virt key) bs
    (m.modOp d o.group (fun o => { o with virt := smSet [] o.virt key sum }), .ok ())
  else if o.zero then
    colThen (m.colStore d o (gStageBase o.entry + off) bs width) (fun m _ =>
      ((m.cnt .colCnt d 3 (ceilDiv bs.length 32)).notePoison d o.group bs, .ok ()))
  else m.colPut d o (cDst o.words + off) bs width

/-- Hand a piece to a position: to this node's own work, or to the node that performs the position. -/
def Mach.ringGive (m : Mach) (d : Nat) (o : ColOp) (x : RingMsg) : Mach × List ColStep :=
  let who := m.acting d o.entry x.role
  if who = o.rank then (m, [.ring x])
  else
    (m.colSend d o (servingNode o.entry who) (b2n x.result)
      [x.role, x.piece.stripe, x.piece.half, x.piece.dim, x.piece.shard, x.piece.chunk] x.data, [])

/-- A position matches a shard's coordinates in the first `k` dimensions of an order. -/
def matchesTo (e : List Nat) (dims : List Nat) (k r shard : Nat) : Bool :=
  (dims.take k).all (fun dim => rankCoord e r dim == rankCoord e shard dim)

/-- The next position of a piece's ring. -/
def Mach.ringPos (m : Mach) (d : Nat) (e : List Nat) (dim half r : Nat) : Nat :=
  rankWith e r dim (ringNext (gSize e dim) half (rankCoord e r dim) (m.boxWraps d e dim))

/-- R398: the gather of a unit from a position that has its result: on every ring of a dimension in which it stands for the
shard, to the next position that does not have it. -/
def Mach.gatherSend (m : Mach) (d : Nat) (o : ColOp) (role : Nat) (p : ColPiece) (bs : List (Byte × Bool)) : Mach × List ColStep :=
  if cOp o.words = 1 then (m, [])
  else
    let dims := stripeDims o.entry p.stripe
    (List.range dims.length).foldl (fun (acc : Mach × List ColStep) k =>
      let dim := dims.getD k 0
      let nxt := acc.1.ringPos d o.entry dim p.half role
      if matchesTo o.entry dims k role p.shard && rankCoord o.entry nxt dim != rankCoord o.entry p.shard dim then
        let (m, more) := acc.1.ringGive d o ⟨nxt, { p with dim := k }, o.rank, true, bs⟩
        (m, acc.2 ++ more)
      else acc) (m, [])

/-- Change the progress of a position with a unit. -/
def Mach.modProg (m : Mach) (d g role : Nat) (p : ColPiece) (f : ColProg → ColProg) : Mach :=
  m.modOp d g (fun o => { o with prog := smMod ColProg.init o.prog (unitKey role p) f })

/-- A result for the rank itself: into `dst`, or, of a late rank whose descriptor has not started, into the staging region, as far as that
reaches (R403). [DEDUCED, log 126] -/
def Mach.placeResult (m : Mach) (d : Nat) (o : ColOp) (p : ColPiece) (bs : List (Byte × Bool)) : ColRes Unit :=
  let off := (unitRange o.words o.entry p).1
  if o.desc.isSome then m.colPut d o (cDst o.words + off) bs
  else
    let note (m : Mach) : ColRes Unit := (m.notePoison d o.group bs, .ok ())
    if off + bs.length ≤ gStageLen o.entry then colThen (m.colStore d o (gStageBase o.entry + off) bs) (fun m _ => note m)
    else note (m.modOp d o.group (fun o => { o with virt := smSet [] o.virt (unitKey o.rank p) bs }))

/-- A unit's result is at a position: placed there, unless it lies there already, then gathered on (R398). -/
def Mach.haveResult (m : Mach) (d : Nat) (o : ColOp) (role : Nat) (p : ColPiece) (bs : List (Byte × Bool)) (placed : Bool) :
    ColRes (List ColStep) :=
  colThen (if role ≠ o.rank ∨ placed then (m, .ok ()) else m.placeResult d o p bs) (fun m _ =>
    let (m, more) := (m.modProg d o.group role p (fun x => { x with have_ := true })).gatherSend d o role p bs
    (m, .ok more))

/-- R398: how far a position gets with a unit: it starts the ring of the next dimension when the shard begins there at it,
passes a partial on when its own earlier dimensions are summed, and holds the sum when it is the shard's own. Nothing goes on before the
adds are visible (R394). -/
def Mach.unitStep (m : Mach) (d : Nat) (o : ColOp) (role : Nat) (p : ColPiece) : ColRes (List ColStep) :=
  let e := o.entry
  let g := o.group
  let dims := stripeDims e p.stripe
  let key := unitKey role p
  let st := smGet ColProg.init o.prog key
  let (off, len) := unitRange o.words e p
  if st.sent || st.have_ then (m, .ok [])
  else if role = o.rank ∧ m.colWriting d o then (m, .error none)
  else if dims.length ≤ st.level then
    colThen (m.readSum d o role off len key) (fun m bs => m.haveResult d o role p bs (!o.zero || o.desc.isNone))
  else
    let dim := dims.getD st.level 0
    let nxt := m.ringPos d e dim p.half role
    let mine := rankCoord e role dim == rankCoord e p.shard dim
    let starts := (m.ringPos d e dim p.half (rankWith e role dim (rankCoord e p.shard dim))) == role
    if !mine && (starts || st.recv.testBit st.level) then
      colThen (m.readSum d o role off len key) (fun m bs =>
        let (m, more) := (m.modProg d g role p (fun x => { x with sent := true })).ringGive d o
          ⟨nxt, { p with dim := st.level }, o.rank, false, bs⟩
        (m, .ok more))
    else if mine && st.recv.testBit st.level then
      (m.modProg d g role p (fun x => { x with level := x.level + 1 }), .ok [.unit role p])
    else (m, .ok [])

/-- A partial of a dimension counts as added at a position. -/
def Mach.markAdded (m : Mach) (d g role : Nat) (p : ColPiece) : Mach :=
  m.modProg d g role p (fun x => { x with recv := maskBit x.recv p.dim true })

/-- Where in the staging region the next record of `len` bytes goes: on from the last, or at the beginning when it does not fit
there; none while a record that vector code has not added stands in the way (R394). -/
def ColOp.recRoom (o : ColOp) (len : Nat) : Option Nat :=
  let at_ := if gStageLen o.entry < o.recAt + 32 + len then 0 else o.recAt
  if o.recs.any (fun r => decide (r.at_ < at_ + 32 + len) && decide (at_ < r.at_ + 32 + r.len)) then none else some at_

/-- R394, `add_mode` 1: the partials that wait go to the staging region, in order and as room goes, each as a record of a 32-byte header
and its chunk, signalled on `vin_ctr`. -/
def Mach.stageNext (m : Mach) (d g : Nat) : Nat → Mach
  | 0 => m
  | fuel + 1 =>
    match m.colOp d g with
    | none => m
    | some o =>
      match o.toStage with
      | [] => m
      | x :: rest =>
        match o.recRoom x.data.length with
        | none => m
        | some at_ =>
          let off := (unitRange o.words o.entry x.piece).1
          let head := toBytes 8 off ++ toBytes 4 x.data.length ++ toBytes 4 x.source ++ List.replicate 16 0#8
          match m.colStore d o (gStageBase o.entry + at_) (head.map (fun b => (b, false)) ++ x.data) with
          | (m, .error _) => m
          | (m, .ok _) =>
            let m := (m.cnt .colCnt d 4).notePoison d g x.data
            let r : ColRec := { role := x.role, piece := x.piece, len := x.data.length, at_ }
            let m := m.modOp d g (fun o => { o with
              recs := o.recs ++ [r], recAt := roundUp (at_ + 32 + x.data.length) 32, toStage := rest })
            (m.ctrAdd1 d (gVin o.entry) srcOther).stageNext d g fuel

/-- Bound on the records that can be staged at once: the region holds no more. -/
def stageFuel (e : List Nat) : Nat := gStageLen e / 32 + 1

/-- R394: vector code has added records: `vout_ctr` has risen; their chunks go on in order. -/
def Mach.voutFollow (m : Mach) (d g : Nat) : Nat → Mach
  | 0 => m
  | fuel + 1 =>
    match m.colOp d g with
    | none => m
    | some o =>
      match o.recs with
      | [] => m
      | r :: rs =>
        if m.get Fld.syncCtr_value d (gVout o.entry) - o.vbase ≤ o.vdone then m
        else
          ((m.modOp d g (fun o => { o with recs := rs, vdone := o.vdone + 1, todo := o.todo ++ [.unit r.role r.piece] })).markAdded
            d g r.role r.piece).voutFollow d g fuel

/-- A partial or a result at a position of this node (R394, R398). -/
def Mach.ringStep (m : Mach) (d : Nat) (o : ColOp) (x : RingMsg) : ColRes (List ColStep) :=
  if x.result then m.haveResult d o x.role x.piece x.data false
  else if cAddMode o.words = 1 ∧ x.role = o.rank ∧ !o.zero then
    (m.modOp d o.group (fun o => { o with toStage := o.toStage ++ [x] }), .ok [])
  else
    colThen (m.addSum d o x.role (unitRange o.words o.entry x.piece).1 (unitKey x.role x.piece) x.data) (fun m _ =>
      (m.markAdded d o.group x.role x.piece, .ok [.unit x.role x.piece]))

/-- The rank's own shard of an all-gather, of a late rank zeros (R403), is a result (R389). [DEDUCED, log 126] -/
def Mach.shardStep (m : Mach) (d : Nat) (o : ColOp) (p : ColPiece) : ColRes (List ColStep) :=
  let (off, len) := unitRange o.words o.entry p
  colThen (if o.zero then (m, .ok (List.replicate len (0#8, false)))
      else colRes (m.engRead (o.eng d) (cSrc o.words + (off - (shardRange o.words o.entry o.rank).1)) len))
    (fun m bs => m.haveResult d o o.rank p bs false)

/-! ### Exchanges -/

/-- Table 13.4: entry j of the size table: send offset, send length, receive offset, receive length. -/
def Mach.sizeEntry (m : Mach) (d : Nat) (o : ColOp) (j : Nat) : ColRes (Nat × Nat × Nat × Nat) :=
  colThen (colRes (m.engRead (o.eng d) (cTable o.words + 16 * j) 16)) (fun m bs =>
    let w (i : Nat) : Nat := ofBytes (((plain bs).drop (4 * i)).take 4)
    if anyPoison bs then (m, .error (some stPoisoned)) else (m, .ok (w 0, w 1, w 2, w 3)))

/-- R390: an exchange reaches so far into `src` and `dst`. -/
def ColOp.reaches (o : ColOp) (src dst : Nat) : ColOp := { o with reach := (max o.reach.1 src, max o.reach.2 dst) }

/-- Data of rank j arrives for an all-to-all-v or an expert combine (R391, R392, R394): placed or added as far as it was
expected; an excess is discarded. A late rank of an expert combine is expected to send no rows (R403). [DEDUCED, log 126] -/
def Mach.intoStep (m : Mach) (d : Nat) (o : ColOp) (rank total k idx : Nat) (bs : List (Byte × Bool)) : ColRes (List ColStep) :=
  colThen (m.sizeEntry d o rank) (fun m (_, _, roff, rlen) =>
    let rows := cOp o.words == 4
    let adds := rows && cAddMode o.words == 0
    let room := if rows then (if k < rlen then bs.length else 0) else rlen * 32 - k
    let part := bs.take room
    let at_ := if !rows then roff * 32 + k else if adds then idx * cBytes o.words else (roff + k) * cBytes o.words
    let width := if adds then elemWidth (cDtype o.words) else 0
    colThen (if part.isEmpty then (m, .ok ()) else m.colPut d o (cDst o.words + at_) part width) (fun m _ =>
      (m.modOp d o.group (fun o => { (o.reaches 0 (if part.isEmpty then 0 else at_ + part.length)) with
        totals := if o.totals.any (fun t => t.1 == rank) then o.totals else (rank, total) :: o.totals,
        got := smMod 0 o.got rank (· + (if !rows then bs.length / 32 else if bs.isEmpty then 0 else 1)),
        sized := o.sized || (decide (total ≠ rlen) && !(rows && o.late.contains (servingNode o.entry rank))) }), .ok [])))

/-- R398: this rank's data for rank j goes out directly: one block, or its rows in send order from row `k` on. Of an excluded position nothing
is sent or comes, and what is expected of it is a shortfall (R386, R392). -/
def Mach.outStep (m : Mach) (d : Nat) (o : ColOp) (j k : Nat) : ColRes (List ColStep) :=
  colThen (m.sizeEntry d o j) (fun m (soff, slen, roff, rlen) =>
    let rows := cOp o.words == 4
    let len := if rows then cBytes o.words else slen * 32
    let row := if rows then cBytes o.words else 32
    let m := m.modOp d o.group (fun o => o.reaches ((soff + slen) * row) (if rows && cAddMode o.words == 0 then 0 else (roff + rlen) * row))
    if posExcluded o.entry j then (m.modOp d o.group (fun o => { o with sized := o.sized || decide (rlen ≠ 0) }), .ok [])
    else
      let give (m : Mach) (idx : Nat) (bs : List (Byte × Bool)) (more : List ColStep) : ColRes (List ColStep) :=
        if j = o.rank then (m, .ok (.into o.rank slen k idx bs :: more))
        else (m.colSend d o (servingNode o.entry j) (if rows then 3 else 2) [o.rank, slen, k, idx] bs, .ok more)
      if slen = 0 then give m 0 [] []
      else if !rows then
        colThen (colRes (m.engRead (o.eng d) (cSrc o.words + soff * 32) len)) (fun m bs => give m 0 bs [])
      else
        colThen (colRes (m.engRead (o.eng d) (cTable o.words + 16 * gRanks o.entry + 4 * (soff + k)) 4)) (fun m ix =>
          if anyPoison ix then (m, .error (some stPoisoned))
          else colThen (colRes (m.engRead (o.eng d) (cSrc o.words + (soff + k) * len) len)) (fun m bs =>
            give m (ofBytes (plain ix)) bs (if k + 1 < slen then [.out j (k + 1)] else []))))

/-- R403: a late rank sends the other ranks no data of an exchange, and says so to each. [DEDUCED, log 126] -/
def Mach.exchangeNone (m : Mach) (d g : Nat) : Mach :=
  match m.colOp d g with
  | none => m
  | some o =>
    ((List.range (gRanks o.entry)).filter (fun j => j != o.rank && !posExcluded o.entry j)).foldl (fun m j =>
      m.colSend d o (servingNode o.entry j) (if cOp o.words = 4 then 3 else 2) [o.rank, 0, 0, 0] []) m

/-! ### The rank's own contribution -/

/-- R394: this rank's contribution is written into `dst`, unless it is there. [DEDUCED, log 77] -/
def Mach.placeStep (m : Mach) (d : Nat) (o : ColOp) : ColRes (List ColStep) :=
  if cSrc o.words = cDst o.words then
    match m.engCanWrite (o.eng d) (cDst o.words) (cBytes o.words) with
    | (m, some r) => colThen (colRes (m, r)) (fun m _ => (m, .ok []))
    | (m, none) => (m, .ok [])
  else
    colThen (colRes (m.engRead (o.eng d) (cSrc o.words) (cBytes o.words))) (fun m bs =>
      colThen (m.colPut d o (cDst o.words) bs) (fun m _ => (m, .ok [])))

/-- R404: a held carry is added into `dst` by accumulate stores, and the carry region filled with zeros. [DEDUCED, log 77] -/
def Mach.carryStep (m : Mach) (d : Nat) (o : ColOp) : ColRes (List ColStep) :=
  match (m.col d).carries.find? (fun x => x.1 == o.group) with
  | none => (m, .ok [])
  | some (_, n, width) =>
    let e := o.entry
    colThen (m.colGate d o (gCarryBase e) (gCarryLen e)) (fun m _ =>
      colThen (colRes (m.tableRead (o.via d) (gCarryBase e) n)) (fun m bs =>
        colThen (m.colPut d o (cDst o.words) bs width) (fun m _ =>
          let m := m.writeBytes (o.via d) (gCarryBase e) (List.replicate (gCarryLen e) (0#8, false))
          let m := m.modCol d (fun c => { c with carries := c.carries.filter (fun x => x.1 != o.group) })
          (m.modOp d o.group (fun o => { o with carried := true }), .ok []))))

/-- R403: the contribution of a late rank is added into the carry region by accumulate stores. -/
def Mach.keepStep (m : Mach) (d : Nat) (o : ColOp) : ColRes (List ColStep) :=
  let n := cBytes o.words
  let width := elemWidth (cDtype o.words)
  colThen (m.colGate d o (gCarryBase o.entry) n) (fun m _ =>
    colThen (colRes (m.engRead (o.eng d) (cSrc o.words) n)) (fun m bs =>
      let was := ((m.col d).carries.find? (fun x => x.1 == o.group)).map (fun x => x.2.1)
      let m := m.writeBytes (o.via d) (gCarryBase o.entry) bs width
      let m := m.modCol d (fun c => { c with carries := (o.group, max n (was.getD 0), width) :: c.carries.filter (fun x => x.1 != o.group) })
      (m.modOp d o.group (fun o => { o with kept := true }), .ok [])))

/-- R403: a result that waits in the staging region, or with the engine, is copied to `dst` once the late descriptor has started. -/
def Mach.storedStep (m : Mach) (d : Nat) (o : ColOp) (p : ColPiece) : ColRes (List ColStep) :=
  let (off, len) := unitRange o.words o.entry p
  colThen (if off + len ≤ gStageLen o.entry then colRes (m.tableRead (o.via d) (gStageBase o.entry + off) len)
      else (m, .ok (smGet (List.replicate len (0#8, false)) o.virt (unitKey o.rank p))))
    (fun m bs => colThen (m.colPut d o (cDst o.words + off) bs) (fun m _ => (m, .ok [])))

/-- One step of an operation's own work: what it leaves to do, or that it waits, or the status with which it ends the operation. -/
def Mach.colStep (m : Mach) (d : Nat) (o : ColOp) (s : ColStep) : ColRes (List ColStep) :=
  match s with
  | .place => m.placeStep d o
  | .carry => m.carryStep d o
  | .zeros => colThen (m.colStore d o (gStageBase o.entry) (List.replicate (cBytes o.words) (0#8, false))) (fun m _ => (m, .ok []))
  | .unit role p => m.unitStep d o role p
  | .shard p => m.shardStep d o p
  | .ring x => m.ringStep d o x
  | .out j k => m.outStep d o j k
  | .into rank total k idx bs => m.intoStep d o rank total k idx bs
  | .stored p => m.storedStep d o p
  | .keep => m.keepStep d o

/-- The work of an operation, in its order, as far as it goes now: up to a step that waits. -/
def Mach.colWork (m : Mach) (d g : Nat) : Nat → Mach
  | 0 => m
  | fuel + 1 =>
    match m.colOp d g with
    | none => m
    | some o =>
      if o.status.isSome || o.held then m
      else match o.todo with
        | [] => m
        | s :: rest =>
          match m.colStep d o s with
          | (m, .ok more) => (m.modOp d g (fun o => { o with todo := rest ++ more })).colWork d g fuel
          | (m, .error none) => m
          | (m, .error (some status)) => m.colEnd d o status true

/-- Bound on the steps of one go: every unit of every position at most a few times. What is left goes on in the next. -/
def workFuel (o : ColOp) : Nat := o.todo.length + 64 * gRanks o.entry * (cBytes o.words / 2 ^ 20 + 1) + 64

/-- An operation goes on as far as it can: records that vector code has added (R394), its own work, partials that have room. -/
def Mach.colRun (m : Mach) (d g : Nat) : Mach :=
  match (m.voutFollow d g 4096).colOp d g with
  | none => m
  | some o => ((m.voutFollow d g 4096).colWork d g (workFuel o)).stageNext d g (stageFuel o.entry)

/-- Leave work to an operation. -/
def Mach.colPush (m : Mach) (d g : Nat) (l : List ColStep) : Mach := m.modOp d g (fun o => { o with todo := o.todo ++ l })

/-! ### Start -/

/-- R403: the late rank's descriptor starts: results already staged go to `dst`, and its contribution is carried or dropped. Of an
exchange it expects nothing from itself. -/
def Mach.lateStart (m : Mach) (d g : Nat) : Mach :=
  match m.colOp d g with
  | none => m
  | some o =>
    let e := o.entry
    let staged := ((unitsOf o.words e).filter (fun p => (smGet ColProg.init o.prog (unitKey o.rank p)).have_)).map ColStep.stored
    let mine := ColStep.into o.rank 0 0 0 [] :: ((List.range (gRanks e)).filter (posExcluded e)).map (fun j => ColStep.out j 0)
    let m := m.colPush d g (if cOp o.words ≤ 2 then staged else mine)
    let carry := !cDrop o.words && decide (cOp o.words ≤ 1)
    if carry && cAddMode o.words == 0 && decide (cBytes o.words ≤ gCarryLen e) then m.colPush d g [.keep]
    else m.modOp d g (fun o => { o with missing := carry })

/-- An operation as it begins. -/
def ColOp.fresh (desc : Option Nat) (ws e : List Nat) (g gseq rank : Nat) (zero : Bool) (vbase : Nat) : ColOp :=
  { desc, words := ws, group := g, gseq, entry := e, rank, zero, prog := [], virt := [], totals := [], got := [], late := [],
    units := 0, poisoned := 0, carried := false, missing := false, recs := [], toStage := [], recAt := 0, vbase, vdone := 0, held := false,
    sized := false, status := none, kept := false, todo := [], reach := (0, 0), window := 0 }

/-- Whether the peers' data of an operation is all here. -/
def Mach.colData (m : Mach) (d : Nat) (o : ColOp) : Bool :=
  let e := o.entry
  let st (role : Nat) (p : ColPiece) : ColProg := smGet ColProg.init o.prog (unitKey role p)
  let staged := o.recs.isEmpty && o.toStage.isEmpty
  let units := unitsOf o.words e
  match cOp o.words with
  | 0 => staged && (m.colRoles d o).all (fun r => units.all (fun p => (st r p).have_))
  | 1 => staged && (m.colRoles d o).all (fun r => units.all (fun p => (st r p).have_ || (st r p).sent))
  | 2 => (m.colRoles d o).all (fun r => units.all (fun p => (st r p).have_))
  | _ => (List.range (gRanks e)).all (fun j => posExcluded e j ||
      (match o.totals.find? (fun t => t.1 == j) with | some t => decide (t.2 ≤ smGet 0 o.got j) | none => false))

/-- Whether the data of an operation is complete at this rank. -/
def Mach.colDone (m : Mach) (d : Nat) (o : ColOp) : Bool := o.todo.isEmpty && m.colData d o

/-- An operation waits for peers' data. -/
def Mach.opWaits (m : Mach) (d : Nat) (o : ColOp) : Bool := o.status.isNone && o.todo.isEmpty && !m.colData d o

/-- An operation of the die waits for peers' data. -/
def Mach.colWaits (m : Mach) (d : Nat) : Bool := (m.col d).ops.any (m.opWaits d)

/-- R409: a line of the prefetch window of an operation that waits for its peers, in ascending order and once, into the home die cache;
a line that cannot be asked for yet is asked for again. Only lines that are fetched are counted. [DESIGN CHOICE, log 78] -/
def Mach.colPrefetch (m : Mach) (d : Nat) (o : ColOp) : Mach :=
  if m.flag Fld.colCfg_pf_en d ∧ o.desc.isSome ∧ m.opWaits d o ∧ o.window < cPfLen o.words * 512 then
    match m.prefetchLine (o.eng d) (cPfAddr o.words + 128 * o.window) true with
    | (m, none) => m
    | (m, some fetched) =>
      (if fetched then m.cnt .colCnt d 8 128 else m).modOp d o.group (fun o => { o with window := o.window + 1 })
  else m

/-- R409, R411: a PMU cycle: operations whose accesses waited go on; those that wait for peers prefetch a line each; a 200th of a microsecond
of waiting is counted. -/
def Mach.colCycle (m : Mach) (d : Nat) : Mach :=
  let m := (m.col d).ops.foldl (fun m o => m.colRun d o.group) m
  let m := (m.col d).ops.foldl (fun m o => m.colPrefetch d o) m
  if !m.colWaits d then m
  else if (m.col d).waitTicks < 199 then m.modCol d (fun c => { c with waitTicks := c.waitTicks + 1 })
  else (m.modCol d (fun c => { c with waitTicks := 0 })).cnt .colCnt d 7

/-- COL_STATUS follows the operations. -/
def Mach.colShow (m : Mach) (d : Nat) : Mach :=
  let ops := (m.col d).ops
  m.wr .colStatus d
    ((match ops with | o :: _ => o.group | [] => 0) * 2 ^ 8 + b2n (ops.any (·.zero)) * 2 ^ 5 +
      b2n (m.colWaits d) * 2 ^ 4 + min 8 ops.length)

/-- An operation has been given work: it goes on, and the register follows. -/
def Mach.colGo (m : Mach) (d g : Nat) : Mach := (m.colRun d g).colShow d

/-- The sequence number of a group's next operation is assigned (R395): the entry in memory moves on by 1, and a notice of that
operation is taken. -/
def Mach.takeSeq (m : Mach) (d g seq : Nat) : Mach :=
  (m.writeNum (Via.engine d) (m.groupAddr d g + 8) 4 ((seq + 1) % 2 ^ 32)).modCol d (fun c =>
    { c with notices := c.notices.filter (fun x => !(x.1 == g && x.2.1 == seq)) })

/-- R388: the status with which an end notice ends an operation that has not started. -/
def Mach.noticed (m : Mach) (d g seq : Nat) : Option Nat :=
  ((m.col d).notices.find? (fun x => x.1 == g && x.2.1 == seq)).map (·.2.2)

/-- The work of an operation that begins with its own contribution (R389, R391, R394, R404). -/
def Mach.colBegin (m : Mach) (d g : Nat) : Mach :=
  match m.colOp d g with
  | none => m
  | some o =>
    let units := unitsOf o.words o.entry
    let carry := if cDeadlineEn o.words && !m.flag Fld.colCfg_t16_compat d then [ColStep.carry] else []
    m.colPush d g
      (if cOp o.words ≤ 1 then .place :: carry ++ (m.colRoles d o).flatMap (fun r => units.map (.unit r))
       else if cOp o.words = 2 then (units.filter (fun p => p.shard == o.rank)).map .shard
       else carry ++ (List.range (gRanks o.entry)).map (fun j => .out j 0))

/-- R395: what a message or a descriptor says of an operation does not match the words of the one in progress. -/
def opDiffers (ws : List Nat) (op dtype addMode bytes : Nat) (deadline : Option Nat) : Bool :=
  op != cOp ws || dtype != cDtype ws || addMode != cAddMode ws || (decide (op ≤ 1) && bytes != cBytes ws) ||
    (cDeadlineEn ws && deadline.any (fun t => t != cDeadline ws))

/-- R388, R395: what a message shows to be wrong with an operation in progress: none when they match. -/
def Mach.colMismatch (m : Mach) (d : Nat) (o : ColOp) (x : ColMsg) : Option Nat :=
  if x.gen ≠ gGen o.entry ∨ x.box ≠ gBox o.entry then some stGroupInvalid
  else if opDiffers o.words x.op x.dtype x.addMode x.bytes (if m.flag Fld.colCfg_t16_compat d then none else x.deadline) then
    some stOpMismatch
  else none

/-- R398, R403: a message for an operation in progress is applied. -/
def Mach.colApply (m : Mach) (d : Nat) (x : ColMsg) : Mach :=
  match m.colOp d x.group with
  | none => m
  | some o =>
    let bs (l : List Byte) : List (Byte × Bool) := l.map (fun b => (b, x.poison))
    let n := match x.body with
      | .part _ _ l | .result _ _ l | .block _ _ _ l | .row _ _ _ _ l => l.length
    let fresh := x.late.filter (fun k => !o.late.contains k)
    let m := (m.cnt .colCnt d 2 n).cnt .colCnt d 6 fresh.length
    let m := if fresh.isEmpty then m else m.ev Fld.colEvents_late_peer d
    let m := m.modOp d x.group (fun o => { o with late := o.late ++ fresh, units := o.units + n / 32 })
    let source := (rankOfNode o.entry x.node).getD 0
    m.colPush d x.group [match x.body with
      | .part role p l => .ring ⟨role, p, source, false, bs l⟩
      | .result role p l => .ring ⟨role, p, source, true, bs l⟩
      | .block rank total off l => .into rank total off 0 (bs l)
      | .row rank total k idx l => .into rank total k idx (bs l)]

/-- R388, R395: a message for an operation in progress ends it or is applied. -/
def Mach.colTake (m : Mach) (d : Nat) (x : ColMsg) : Mach :=
  match m.colOp d x.group with
  | none => m
  | some o =>
    if o.status.isSome then m
    else match m.colMismatch d o x with
      | some s => m.colEnd d o s true
      | none => m.colApply d x

/-- Messages held in staging for an operation that has started are taken in their order (R396). -/
def Mach.takeHeld (m : Mach) (d g seq : Nat) : Mach :=
  let mine := (m.col d).held.filter (fun x => x.group == g && x.seq == seq)
  let m := m.modCol d (fun c => { c with held := c.held.filter (fun x => !(x.group == g && x.seq == seq)) })
  mine.foldl (fun m x => m.colTake d x) m

/-- R403, R405: an operation begins late: with zeros in the staging region in place of a contribution; this rank counts itself late. -/
def Mach.lateBegin (m : Mach) (d g : Nat) : Mach :=
  match m.colOp d g with
  | none => m
  | some o =>
    let m := ((m.ev Fld.colEvents_late_self d).cnt .colCnt d 5).cnt .colCnt d 6
    let m := m.modOp d g (fun o => { o with zero := true, late := [m.node d] })
    let units := unitsOf o.words o.entry
    if cOp o.words ≤ 1 then m.colPush d g (.zeros :: (m.colRoles d o).flatMap (fun r => units.map (.unit r)))
    else if cOp o.words = 2 then m.colPush d g ((units.filter (fun p => p.shard == o.rank)).map .shard)
    else m.exchangeNone d g

/-- R401: an operation's deadline, when it has one, has passed on this die, where deadlines are judged: not while the module is
unlocked nor in T16 mode (R407). -/
def Mach.colOverdue (m : Mach) (d : Nat) (ws : List Nat) : Bool :=
  !m.moduleUnlocked && !m.flag Fld.colCfg_t16_compat d && cDeadlineEn ws && decide (cDeadline ws ≤ m.ft d)

/-- R386: the group of a reduce-scatter or an all-gather excludes a position. -/
def opExcluded (ws e : List Nat) : Bool := (cOp ws == 1 || cOp ws == 2) && (gWords e).any (fun w => !bitOf w 30)

/-- Statuses with which a descriptor completes at its start, in the order R385, R386, R390, R392; or it runs, or waits for its table. -/
def Mach.colStartStatus (m : Mach) (d : Nat) (ws e : List Nat) : ColRes Unit :=
  let g := cGroup ws
  if m.get Fld.colGrpCfg_entries d ≤ g ∨ !gValid e then (m, .error (some stGroupInvalid))
  else if m.groupInvalid d e (cAddMode ws) then (m, .error (some stGroupInvalid))
  else if gBroken e then (m, .error (some stGroupBroken))
  else if opExcluded ws e then (m, .error (some stExcluded))
  else if cOp ws = 1 ∧ cBytes ws % (32 * gRanks e) ≠ 0 then (m, .error (some stColSize))
  else if cOp ws = 3 then
    let o := ColOp.fresh none ws e g (gSeq e) 0 false 0
    colThen ((List.range (gRanks e)).foldl (fun acc j =>
      colThen acc (fun m t => colThen (m.sizeEntry d o j) (fun m (_, slen, _, _) => (m, .ok (t + slen))))) ((m, .ok 0) : ColRes Nat))
      (fun m t => if t * 32 = cBytes ws then (m, .ok ()) else (m, .error (some stColSize)))
  else (m, .ok ())

/-- R383: the group's entry, for a descriptor that starts; a read that waits or faults is the descriptor's. -/
def Mach.groupFetch (m : Mach) (d g : Nat) : ColRes (List Nat) :=
  match m.tableRead (Via.engine d) (m.groupAddr d g) (if m.get Fld.colGrpCfg_entries d ≤ g then 0 else 64) with
  | (m, .ok _) => let (m, e) := m.groupEntry d g; (m, .ok e)
  | (m, r) => colThen (colRes (m, r)) (fun m _ => (m, .ok []))

/-- What the engine held of an operation's remote reads is let go. -/
def Mach.colForget (m : Mach) (d id : Nat) : Mach :=
  m.modCore d 0 (fun k => { k with engBuf := k.engBuf.filter (fun b => !(b.queue == 3 && b.seq == id)) })

/-- A descriptor that completes without running (R385 to R392, R406): it takes its sequence number, where its group has one, and its
peers learn its end unless nothing is exchanged (R385, R386). -/
def Mach.colRefuse (m : Mach) (d : Nat) (x : Desc) (e : List Nat) (seq status : Nat) (take notice : Bool) : Mach :=
  let o := ColOp.fresh (some x.seq) x.words e (cGroup x.words) seq 0 false 0
  let m := if take then m.takeSeq d o.group seq else m
  let m := if notice then m.endNotice d o status else m
  let m := ((m.noteEnd d status).startDesc d 0 3 x.seq).colForget d o.id
  (m.complete d 0 3 x status none 0 (seq * 2 ^ 32)).cnt .colCnt d 0

/-- R403: a late rank relays with at least `bytes` of staging region. -/
def stageShort (ws e : List Nat) : Bool := decide (gStageLen e < cBytes ws)

/-- A descriptor starts the operation of its group (R395, R401). -/
def Mach.colOpen (m : Mach) (d : Nat) (x : Desc) (e : List Nat) : Mach :=
  let ws := x.words
  let g := cGroup ws
  let seq := gSeq e
  let r := (rankOfNode e (m.node d)).getD 0
  let o := ColOp.fresh (some x.seq) ws e g seq r false (m.get Fld.syncCtr_value d (gVout e))
  let status := m.noticed d g seq
  let overdue := (m.col d).late.contains g || m.colOverdue d ws
  let m := ((m.takeSeq d g seq).startDesc d 0 3 x.seq).modCol d (fun c =>
    { c with ops := c.ops ++ [o], late := c.late.filter (· != g) })
  let m :=
    match status with
    | some s => m.colEnd d o s false
    | none =>
      if !overdue then m.colBegin d g
      else if stageShort ws e then (m.ev Fld.colEvents_stage_short d).colBegin d g
      else (m.lateBegin d g).lateStart d g
  (m.takeHeld d g seq).colGo d g

/-- The descriptor of an operation that is already late starts (R403), unless its end is known or its table is not. -/
def Mach.colJoin (m : Mach) (d : Nat) (x : Desc) (o : ColOp) : Mach :=
  let ws := x.words
  let g := o.group
  let join (m : Mach) : Mach := (m.startDesc d 0 3 x.seq).modOp d g (fun o => { o with desc := some x.seq, words := ws })
  if o.status.isSome then (join m).colShow d
  else if opDiffers o.words (cOp ws) (cDtype ws) (cAddMode ws) (cBytes ws) (if cDeadlineEn ws then some (cDeadline ws) else none) then
    ((join m).colEnd d o stOpMismatch true).colShow d
  else match m.colStartStatus d ws o.entry with
    | (m, .error none) => m
    | (m, .error (some s)) => ((join m).colEnd d o s true).colShow d
    | (m, .ok _) => (((join m).lateStart d g).takeHeld d g o.gseq).colGo d g

/-- R395 to R404: the oldest unstarted collective descriptor, when it asks for operation `op` and may start. -/
def Mach.collective (m : Mach) (d op : Nat) : Mach :=
  match m.oldest d 0 3 with
  | none => m
  | some x =>
    match (if x.waiting || x.released then none else firstBad (colChecks x.words)) with
    | some bit => m.completeBad d 0 3 x bit
    | none =>
      let g := cGroup x.words
      if cOp x.words ≠ op then m
      else match m.waitDone d 0 3 x with
        | (m, false) => m
        | (m, true) =>
          match m.colOp d g with
          | some o => if o.desc.isSome then m else m.colJoin d x o
          | none =>
            if 8 ≤ (m.col d).ops.length then m
            else match m.groupFetch d g with
              | (m, .error none) => m
              | (m, .error (some s)) => m.colRefuse d x [] 0 s false false
              | (m, .ok e) =>
                match m.colStartStatus d x.words e with
                | (m, .error none) => m
                | (m, .error (some s)) =>
                  if s = stGroupBroken ∧ m.flag Fld.colCfg_t16_compat d then m
                  else m.colRefuse d x e (gSeq e) s (gValid e && decide (g < m.get Fld.colGrpCfg_entries d))
                    (s != stGroupInvalid && s != stExcluded)
                | (m, .ok _) => m.colOpen d x e

/-! ### Messages and notices -/

/-- The words that stand for the descriptor of an operation known only from a message. -/
def msgWords (x : ColMsg) : List Nat :=
  [0, x.op * 2 ^ 60 + x.dtype * 2 ^ 57 + x.addMode * 2 ^ 56 + (if x.deadline.isSome then 2 ^ 54 else 0) + x.group * 2 ^ 40,
   0, 0, 0, x.bytes * 2 ^ 24, x.deadline.getD 0, 0]

/-- The groups whose oldest unstarted operation is late. -/
def Mach.markLate (m : Mach) (d g : Nat) (on : Bool) : Mach :=
  m.modCol d (fun c => { c with late := (if on then [g] else []) ++ c.late.filter (· != g) })

/-- R401 to R403: the operation of a group not yet started on this die is made late, if its staging region can relay; one that a
notice has ended, or that its start will refuse, is not; one that has no place among the eight in progress waits for one (R395).
[DEDUCED, log 126] -/
def Mach.makeLate (m : Mach) (d g : Nat) (ws : List Nat) : Mach :=
  let (m, e) := m.groupEntry d g
  if !gValid e || m.groupInvalid d e (cAddMode ws) || gBroken e || opExcluded ws e || (m.noticed d g (gSeq e)).isSome then m
  else if stageShort ws e then m.ev Fld.colEvents_stage_short d
  else if 8 ≤ (m.col d).ops.length then m.markLate d g true
  else
    let r := (rankOfNode e (m.node d)).getD 0
    let o := ColOp.fresh none ws e g (gSeq e) r true (m.get Fld.syncCtr_value d (gVout e))
    let m := (m.takeSeq d g (gSeq e)).modCol d (fun c => { c with ops := c.ops ++ [o] })
    ((m.lateBegin d g).takeHeld d g (gSeq e)).colGo d g

/-- The bytes of data of a message. -/
def bodyBytes (x : ColMsg) : Nat :=
  match x.body with
  | .part _ _ b | .result _ _ b | .block _ _ _ b | .row _ _ _ _ b => b.length

/-- The bytes of the messages held for a group. -/
def heldBytes (l : List ColMsg) (g : Nat) : Nat := ((l.filter (fun x => x.group == g)).map bodyBytes).foldl (· + ·) 0

/-- The bytes of the staging region that an operation in progress has filled: its records, or a late rank's sums and results. -/
def ColOp.staged (o : ColOp) : Nat :=
  (o.recs.map (fun r => 32 + r.len)).foldl (· + ·) 0 +
    (if o.zero then (if cOp o.words ≤ 1 then cBytes o.words else if cOp o.words = 2 then min (gStageLen o.entry) (gRanks o.entry * cBytes o.words) else 0)
     else 0)

/-- R396: a message is held in the group's staging region while there is room for it; one beyond it is not acknowledged, and its
sender waits. [DESIGN CHOICE, log 78] -/
def Mach.colHold (m : Mach) (d : Nat) (e : List Nat) (x : ColMsg) : Mach :=
  let used := heldBytes (m.col d).held x.group + ((m.colOp d x.group).map ColOp.staged).getD 0
  if used + bodyBytes x ≤ gStageLen e ∧ gStageLen e ≠ 0 then m.modCol d (fun c => { c with held := c.held ++ [x] })
  else m.modCol d (fun c => { c with turned := c.turned ++ [(x.node, x.group, x.seq)] })

/-- R396, R401: a collective message reaches die `d`: it is applied to its operation, or held until that starts; its sequence
number and what it says of its deadline may make this rank late. -/
def Mach.colMessage (m : Mach) (d : Nat) (x : ColMsg) : Mach :=
  if !m.flag Fld.fabJob_valid d ∨ x.job ≠ m.get Fld.fabJob_job d then m
  else match m.colOp d x.group with
    | some o =>
      if x.seq < o.gseq ∨ (o.gseq = x.seq ∧ o.status.isSome) then m
      else if o.gseq < x.seq ∨ o.held ∨ (o.desc.isNone ∧ 3 ≤ cOp o.words) then m.colHold d o.entry x
      else (m.colTake d x).colGo d x.group
    | none =>
      let (m, e) := m.groupEntry d x.group
      if x.seq < gSeq e then m
      else
        let m := m.colHold d e x
        if (m.col d).late.contains x.group ∧ x.seq = gSeq e then (m.markLate d x.group false).makeLate d x.group (msgWords x) else m

/-- R388: an end notice ends the same operation with the same status; one that has not started here ends when it does. -/
def Mach.colNotice (m : Mach) (d g seq status : Nat) : Mach :=
  match (m.colOp d g).filter (fun o => o.gseq == seq) with
  | some o => (m.colEnd d o status false).colShow d
  | none =>
    let (m, e) := m.groupEntry d g
    if gValid e ∧ gSeq e ≤ seq ∧ m.noticed d g seq = none then
      m.modCol d (fun c => { c with notices := c.notices ++ [(g, seq, status)] })
    else m

/-- The words of a group's oldest operation not yet started on a die: its descriptor's, or those its first message shows. -/
def Mach.unstartedWords (m : Mach) (d g : Nat) : Option (List Nat) :=
  match (m.die d).colQ.find? (fun x => !x.started && cGroup x.words == g) with
  | some x => some x.words
  | none => ((m.col d).held.find? (fun x => x.group == g)).map msgWords

/-- R401, R402: the oldest unstarted operation of a group is past its deadline: it is made late, at once, or when the operation
before it is over (operations of a group run one at a time, R394). [DEDUCED, log 126] -/
def Mach.lateNow (m : Mach) (d g : Nat) : Mach :=
  match m.colOp d g, m.unstartedWords d g with
  | none, some ws => m.makeLate d g ws
  | some o, _ => if o.desc.isNone then m else m.markLate d g true
  | none, none => m.markLate d g true

/-- R401: at its deadline an operation that has not started makes this rank late, judged by the die's own counter. -/
def Mach.colDeadline (m : Mach) (d g : Nat) : Mach :=
  match m.unstartedWords d g with
  | none => m
  | some ws => if m.colOverdue d ws then m.lateNow d g else m

/-- R402: timer action 0x4 makes the oldest unstarted operation of the group it names late, whatever its `deadline_en`. -/
def Mach.colDeadlineAct (m : Mach) (d : Nat) : Mach :=
  match m.takeAct d 4 with
  | (m, none) => m
  | (m, some a) => m.lateNow d (a.arg % 256)

/-- R395, R401: an operation is over: those that waited for their turn to be late begin. -/
def Mach.lateFollow (m : Mach) (d : Nat) : Mach :=
  (m.col d).late.foldl (fun m g =>
    if (m.colOp d g).isNone ∧ (m.unstartedWords d g).isSome then (m.markLate d g false).lateNow d g else m) m

/-! ### Completion -/

/-- R405, R435: enter the late ranks of an operation into the step status record of the die's partition, each node once, the
first 32 listed, the others remembered. -/
def Mach.ssrLate (m : Mach) (d : Nat) (late : List Nat) : Mach :=
  match m.partOf d with
  | none => m
  | some p =>
    late.foldl (fun m n =>
      let v := Via.engine p.low
      let a := m.ssrAddr p (m.rd .snapStep p.low)
      let (m, cnt, _) := m.readNum v (a + 0x14) 2
      let (m, bs) := m.readBytes v (a + 0x20) 64
      let listed := (List.range (min cnt 32)).map (fun i => ofBytes (((plain bs).drop (2 * i)).take 2))
      if listed.contains n || (m.die p.low).snap.lateMore.contains n then m
      else if cnt < 32 then (m.writeNum v (a + 0x20 + 2 * cnt) 2 n).writeNum v (a + 0x14) 2 (cnt + 1)
      else
        let m := m.modDie p.low (fun k => { k with snap := { k.snap with lateMore := k.snap.lateMore ++ [n] } })
        (m.writeNum v (a + 0x14) 2 (satN 16 (cnt + 1))).ssrSet p (2 ^ 9)) m

/-- Table 13.5, Table 13.6: the status and the fields of the completion record. -/
def ColOp.outcome (o : ColOp) (lateSelf : Bool) : Nat × Nat × Nat :=
  let status := match o.status with
    | some s => s
    | none => if o.sized then stColSize else if lateSelf then (if o.kept then stLateCarried else stLateDropped) else stOk
  (status, satN 16 o.late.length * 2 ^ 16 + satN 8 o.poisoned * 2 ^ 8 + b2n lateSelf * 2 ^ 7 + b2n o.carried * 2 ^ 6 +
    b2n o.missing * 2 ^ 5, o.gseq * 2 ^ 32 + satN 32 o.units)

/-- How far an operation reaches into `src` and `dst` (Table 13.3, Table 13.4). -/
def ColOp.extent (o : ColOp) : Nat × Nat :=
  let n := cBytes o.words
  if cOp o.words ≤ 1 then (n, n) else if cOp o.words = 2 then (n, gRanks o.entry * n) else o.reach

/-- R390: `src` and `dst` overlap, other than by being the same in an all-reduce. [DESIGN CHOICE, log 143] -/
def ColOp.overlaps (o : ColOp) : Bool :=
  let (s, t) := o.extent
  !(cOp o.words == 0 && cSrc o.words == cDst o.words) && decide (0 < s) && decide (0 < t) &&
    decide (cSrc o.words < cDst o.words + t) && decide (cDst o.words < cSrc o.words + s)

/-- R390: an overlap leaves `dst` undefined: free values. [DESIGN CHOICE, log 143] -/
def Mach.blurDst (m : Mach) (d : Nat) (o : ColOp) : ColRes Unit :=
  if !o.overlaps then (m, .ok ())
  else
    let n := m.freeCtr
    colThen (m.colPut d o (cDst o.words) ((List.range o.extent.2).map (fun i => ((Config.freeLane n i).truncate 8, false))))
      (fun m _ => (m.tickFree, .ok ()))

/-- R400, R388: a started operation that is over completes its descriptor and leaves the engine. -/
def Mach.colFinish (m : Mach) (d : Nat) (o : ColOp) (x : Desc) : Mach :=
  let g := o.group
  let (status, i0, i1) := o.outcome o.zero
  let status := if o.status.isNone ∧ (m.die d).engineBad.contains (0, 3, o.id) then stMemAccess else status
  let late := status = stOk ∨ status = stLateCarried ∨ status = stLateDropped
  let m := if o.status.isSome ∨ late then m else (m.noteEnd d status).endNotice d o status
  let m := m.modCol d (fun c => { c with ops := c.ops.filter (fun y => y.group != g),
                                         held := c.held.filter (fun y => !(y.group == g && decide (y.seq ≤ o.gseq))) })
  let m := (m.ssrLate d o.late).cnt .colCnt d 0
  let m := m.modDie d (fun k => { k with engineLost := k.engineLost.filter (fun y => y != (0, 3, o.id)),
                                         engineBad := k.engineBad.filter (fun y => y != (0, 3, o.id)) })
  (((m.colForget d o.id).complete d 0 3 x status none i0 i1).lateFollow d).colShow d

/-- R400: the operation of a group completes: its data in `dst`, its sends acknowledged, its adds visible; or it has been ended. -/
def Mach.colComplete (m : Mach) (d g : Nat) : Mach :=
  let m := m.colGo d g
  match m.colOp d g with
  | none => m
  | some o =>
    match o.desc with
    | none => m
    | some seq =>
      if o.status.isNone && (!m.colDone d o || m.engOutstanding d 0 3 o.id || o.held) then m
      else match (m.die d).colQ.find? (fun x => x.seq == seq) with
        | none => m
        | some x =>
          match m.blurDst d o with
          | (m, .error none) => m
          | (m, _) => m.colFinish d ((m.colOp d g).getD o) x

/-! ### Losing a member, resuming, aborting -/

/-- Set `broken` in a group's entry (R406). -/
def Mach.setBroken (m : Mach) (d g : Nat) : Mach :=
  let a := m.groupAddr d g
  let (m, w, _) := m.readNum (Via.engine d) a 4
  m.writeNum (Via.engine d) a 4 (setBits w 30 30 1)

/-- R406: the queued operations of a group end with COL_PEER_LOST, from a sequence number on; of an operation that has taken its number
already no further one is taken. -/
def Mach.queuedLost (m : Mach) (d : Nat) (e : List Nat) : Nat → Bool → List Desc → Mach
  | _, _, [] => m
  | seq, taken, x :: l => (m.colRefuse d x e seq stColPeerLost (!taken) true).queuedLost d e (seq + 1) false l

/-- R406: the operations of a group that has lost a member end, in progress or queued; one that runs late without its descriptor ends as
the group's first queued descriptor. -/
def Mach.groupLost (m : Mach) (d g : Nat) (e : List Nat) : Mach :=
  let queued := (m.die d).colQ.filter (fun x => !x.started && cGroup x.words == g)
  match m.colOp d g with
  | none => m.queuedLost d e (gSeq e) false queued
  | some o =>
    if o.desc.isSome ∨ queued.isEmpty then (m.colEnd d o stColPeerLost true).queuedLost d e (gSeq e) false queued
    else (m.modCol d (fun c => { c with ops := c.ops.filter (fun y => y.group != g) })).queuedLost d e o.gseq true queued

/-- R406, R407: a node has been declared lost: every group it is a member of is `broken`, and its operations end or, in T16 mode, are
held. -/
def Mach.colPeerLost (m : Mach) (d n : Nat) : Mach :=
  let m := (List.range (m.get Fld.colGrpCfg_entries d)).foldl (fun m g =>
    let (m', e) := m.groupEntry d g
    if !gValid e || !(groupNodes e).contains n then m
    else
      let m := (m'.setBroken d g).ev Fld.colEvents_peer_lost d
      if m.flag Fld.colCfg_t16_compat d then m.modOp d g (fun o => { o with held := o.status.isNone })
      else m.groupLost d g e) m
  ((m.lateFollow d).showWait d 0 3).colShow d

/-- COL_RESUME written (R407, R410): in T16 mode the held operations of a broken group restart from their beginning, with the new
membership, which is checked as at a start (R385); messages of the old generation are discarded. -/
def Mach.wrColResume (m : Mach) (id : RegId) (w : RegW) : Mach :=
  let d := id.die
  let g := bitsOf w.raw 7 0
  let (m', e) := m.groupEntry d g
  let inTable := decide (g < m.get Fld.colGrpCfg_entries d)
  if !m.flag Fld.colCfg_t16_compat d || !inTable || !gBroken e then m.ev Fld.colEvents_cfg_err d
  else
    let m := m'.modCol d (fun c => { c with held := c.held.filter (fun x => !(x.group == g && x.gen != gGen e)) })
    match m.colOp d g with
    | some o =>
      if o.held then
        let r := (rankOfNode e (m.node d)).getD 0
        let o' := ColOp.fresh o.desc o.words e g o.gseq r false (m.get Fld.syncCtr_value d (gVout e))
        let m := (m.colForget d o.id).modOp d g (fun _ => o')
        if !gValid e || m.groupInvalid d e (cAddMode o.words) then (m.colEnd d o' stGroupInvalid true).colShow d
        else ((m.colBegin d g).takeHeld d g o.gseq).colGo d g
      else m
    | none => m

/-- COL_GRP_BASE or COL_GRP_CFG written (R410, R549). -/
def Mach.wrColGrp (m : Mach) (id : RegId) (w : RegW) : Mach :=
  let d := id.die
  let base := if id.reg = .colGrpBase then Fld.colGrpBase_base.of w.new else m.get Fld.colGrpBase_base d
  let n := if id.reg = .colGrpCfg then Fld.colGrpCfg_entries.of w.new else m.get Fld.colGrpCfg_entries d
  if !(m.col d).ops.isEmpty ∨ !regionOk (base * 4096) (64 * n) ∨ 256 < n then m.ev Fld.colEvents_cfg_err d else m.setReg id w.new

/-- R408: ABORT or a reset of a die ends the engine's operations without completion and discards staged messages. -/
def Mach.colAbort (m : Mach) (d : Nat) : Mach :=
  let m := m.modDie d (fun k => { k with col := { k.col with ops := [], held := [], late := [], notices := [], turned := [] },
                                         engineLost := k.engineLost.filter (fun y => !(y.2.1 == 3)),
                                         engineBad := k.engineBad.filter (fun y => !(y.2.1 == 3)) })
  (m.modCore d 0 (fun k => { k with engBuf := k.engBuf.filter (fun b => !(b.queue == 3)) })).colShow d

end Sys2Proof.Machine
end

