-- ==== Sys2Proof/Machine/Resil.lean ====
section
/-! DEFINITION. Delivery of fault records (R412 to R416), interrupts (R507), the fail-silent module (R420), the failure of
Saffron's drain (R431). -/

namespace Sys2Proof.Machine

/-! ### Interrupts -/

/-- R507: vector v: delivered as the message that MBX_VEC(v) names, or counted. [DESIGN CHOICE, log 107] -/
def Mach.interrupt (m : Mach) (v : Nat) : Mach :=
  let ident := m.get Fld.mbxVec_identity sdDie v
  if m.flag Fld.mbxVec_enable sdDie v && ident != 0 then m.send 0x40 [v, m.get Fld.mbxVec_hart sdDie v, ident]
  else m.bump Fld.mbxVec_dropped sdDie 1 v

/-- Timer action 0x1: the interrupt that `arg` names (Table 2.3). -/
def Mach.interruptAct (m : Mach) (d : Nat) : Mach :=
  match m.takeAct d 1 with
  | (m, none) => m
  | (m, some a) => m.interrupt (a.arg % 4096)

/-- Timer action 0x2: ADD 1 on the counter that `arg` names. -/
def Mach.syncAct (m : Mach) (d : Nat) : Mach :=
  match m.takeAct d 2 with
  | (m, none) => m
  | (m, some a) => m.ctrAdd1 d (a.arg % 4096) srcOther

/-! ### Fault records -/

/-- R413: the eight words of a record in a destination. -/
def FaultRec.words (r : FaultRec) (part rseq : Nat) : List Nat :=
  let head := r.kind * 2 ^ 56 + b2n r.masked * 2 ^ 55 + b2n r.restartable * 2 ^ 54 +
    (if r.die = sdDie then 2 ^ 53 else r.die * 2 ^ 50) + part * 2 ^ 44 + rseq % 2 ^ 32
  (head :: r.ft :: r.payload ++ List.replicate 6 0).take 8

/-- Kinds that concern the module as a whole: their CP copies carry no partition (R413). -/
def wholeModule (kind : Nat) : Bool := kind == 0x16 || (decide (0x24 ≤ kind) && decide (kind ≤ 0x26))

/-- The CP firmware receives a record, and copies it into the MC's log (R412). -/
def Mach.recToCp (m : Mach) (r : FaultRec) : Mach :=
  let ws := r.words (if wholeModule r.kind then 0xF else m.slotOf r.die) (smGet 0 m.cp.rseq 8)
  { m with cp := { m.cp with rseq := smMod 0 m.cp.rseq 8 (· + 1), log := m.cp.log ++ [ws], mcLog := m.cp.mcLog ++ [ws] } }

/-- The MC receives a record. -/
def Mach.recToMc (m : Mach) (r : FaultRec) : Mach :=
  let ws := r.words (m.slotOf r.die) (smGet 0 m.cp.rseq 9)
  { m with cp := { m.cp with rseq := smMod 0 m.cp.rseq 9 (· + 1), mcLog := m.cp.mcLog ++ [ws] } }

/-- R414: write a record at the tail of the fault queue of the partition whose lowest die is `d`. -/
def Mach.queueWrite (m : Mach) (d : Nat) (ws : List Nat) : Mach :=
  let tail := m.get Fld.snapFqPtr_tail d
  let n := 2 ^ m.get Fld.snapFqCfg_log2_entries d
  let at_ := m.get Fld.snapFqBase_base d * 64 + 64 * (tail % n)
  let m := if m.homeServes at_ then m.writeWords d at_ ws
    else m.modDie d (fun k => { k with heldRecs := k.heldRecs ++ [{ addr := at_, words := ws, ctr := none }] })
  let m := (m.put Fld.snapFqPtr_tail d (tail + 1)).cnt .snapCnt d 7
  if m.flag Fld.snapFqCfg_intr_en d then m.interrupt (m.get Fld.snapFqCfg_intr d) else m

/-- R414: the free slots of a fault queue. -/
def Mach.queueFree (m : Mach) (d : Nat) : Nat :=
  2 ^ m.get Fld.snapFqCfg_log2_entries d - (m.get Fld.snapFqPtr_tail d + 2 ^ 32 - m.get Fld.snapFqPtr_head d) % 2 ^ 32

/-- R414 to R416: a record for the fault queue of slot `k`; true when the CP firmware is to have it instead. [DEDUCED, log 80] -/
def Mach.recToQueue (m : Mach) (r : FaultRec) (k : Nat) : Mach × Bool :=
  match m.partAt k with
  | none => (m, true)
  | some p =>
    let d := p.low
    if !m.flag Fld.snapFqCfg_enable d then (m, true)
    else
      let free := m.queueFree d
      let seq := m.get Fld.snapFqPtr_tail d
      if 2 ≤ free then (m.queueWrite d (r.words k seq), false)
      else
        let m := if free = 1 then
            m.queueWrite d (FaultRec.words { r with kind := 0x45, masked := false, restartable := false, die := d, payload := [] } k seq)
          else m
        (m.bump Fld.snapFqDropped_dropped d, true)

/-- R412: the aggregator of a die delivers its oldest record to every destination. [DEDUCED, log 80] -/
def Mach.deliver (m : Mach) (d : Nat) : Mach :=
  match (m.die d).records with
  | [] => m
  | r :: rest =>
    let m := m.modDie d (fun x => { x with records := rest })
    let (m, back) := r.parts.foldl (fun (acc : Mach × Bool) k =>
      let (m, b) := acc.1.recToQueue r k
      (m, acc.2 || b)) (m, false)
    let m := if r.toMc then m.recToMc r else m
    if r.toCp || back then m.recToCp r else m

/-- SNAP_FQ_BASE, SNAP_FQ_CFG and SNAP_RGN_BASE: whether the block of die `d` is the one its partition uses. -/
def Mach.snapUsed (m : Mach) (d : Nat) : Bool := match m.partOf d with | some p => p.low == d | none => true

/-- SNAP_FQ_PTR.`head` written (R452). -/
def Mach.wrFqPtr (m : Mach) (id : RegId) (w : RegW) : Mach :=
  let d := id.die
  if !m.snapUsed d then m
  else
    let head := Fld.snapFqPtr_head.of w.old
    let to_ := Fld.snapFqPtr_head.of w.new
    let held := (m.get Fld.snapFqPtr_tail d + 2 ^ 32 - head) % 2 ^ 32
    if held < (to_ + 2 ^ 32 - head) % 2 ^ 32 then m.ev Fld.snapEvents_cfg_err d else m.setReg id w.new

/-- SNAP_FQ_BASE or SNAP_FQ_CFG written (R414, R452, R549); a write that clears `enable` is taken as it is. -/
def Mach.wrFqCfg (m : Mach) (id : RegId) (w : RegW) : Mach :=
  let d := id.die
  if !m.snapUsed d then m
  else
    let isCfg := id.reg = Reg.snapFqCfg
    let clears := isCfg && Fld.snapFqCfg_enable.of w.new == 0
    let base := if isCfg then m.get Fld.snapFqBase_base d else Fld.snapFqBase_base.of w.new
    let lg := if isCfg then Fld.snapFqCfg_log2_entries.of w.new else m.get Fld.snapFqCfg_log2_entries d
    let fits := (!isCfg || (decide (6 ≤ lg) && decide (lg ≤ 16))) && regionOk (base * 64) (64 * 2 ^ lg)
    if clears then m.setReg id w.new
    else if m.flag Fld.snapFqCfg_enable d || !fits then m.ev Fld.snapEvents_cfg_err d
    else m.setReg id w.new

/-- SNAP_RGN_BASE or SNAP_SSR_BASE written (R452, R549). -/
def Mach.wrSnapBase (m : Mach) (id : RegId) (w : RegW) : Mach :=
  let d := id.die
  if !m.snapUsed d then m
  else
    let isRgn := id.reg = Reg.snapRgnBase
    let base := bitsOf w.new 47 8 * 256
    let len := if isRgn then 32 * m.get Fld.snapCfg_rgn_count d else 4096
    if (isRgn && m.flag Fld.snapCfg_enable d) || !regionOk base len then m.ev Fld.snapEvents_cfg_err d else m.setReg id w.new

/-- SNAP_UPD_DONE written; the boundary of this PMU cycle goes by what stood there before (R426). -/
def Mach.wrUpdDone (m : Mach) (id : RegId) (w : RegW) : Mach :=
  if m.snapUsed id.die then
    (m.setReg id w.new).modDie id.die (fun x => { x with updWas := some (x.updWas.getD w.old) })
  else m

/-! ### The fail-silent module -/

/-- R420: the module withdraws: fail-silent (its dies choose time sources anew, R31), and WITHDRAW to the MC, with the hung die
where the cause is one. -/
def Mach.withdraw (m : Mach) (cause die : Nat) : Mach :=
  let m := (List.range 8).foldl (fun m d => m.selectSource d) m.goSilent
  let m := { m with pins := { m.pins with withdrawn := true, fault := true } }
  m.emitRec sdDie 0x44 false false [(4, cause), (3, die)] false true []

/-! ### Saffron's drain -/

/-- The regions in use of die `d`'s table. -/
def Mach.regions (m : Mach) (d : Nat) : List Region :=
  (List.range (m.get Fld.snapCfg_rgn_count d)).filterMap (fun i =>
    let a := m.get Fld.snapRgnBase_base d * 256 + 32 * i
    let w := m.viewNum a 8
    if bitOf w 31 then some ⟨i, bitsOf w 30 29, bitsOf w 23 0, m.viewNum (a + 8) 8, m.viewNum (a + 16) 8⟩ else none)

/-- Where a region's chunks of version `cur` begin. -/
def Region.base (r : Region) (cur : Nat) : Nat := if r.kind = 2 then r.buf0 else if cur = 0 then r.buf0 else r.buf1

/-- One entry of a manifest: region (0xFF the schedule block), kind, chunk. -/
structure ChunkRef where
  region : Nat
  kind : Nat
  chunk : Nat
  deriving DecidableEq, Repr

/-- R438: the chunks of a version, in region-table order. -/
def regionChunks (rs : List Region) : List ChunkRef :=
  rs.flatMap (fun r => (List.range r.chunks).map (fun i => ⟨r.num, r.kind, i⟩))

/-- A chunk is drained (R424): unique, single, schedule block. -/
def ChunkRef.drains (c : ChunkRef) : Bool := c.region == 0xFF || c.kind == 1 || c.kind == 2

/-- The chunks of the current version: those of the regions as its flip found them (what a table has taken in since counts for the next
version, R444), and the schedule block's, as its manifest counts them. -/
def Mach.versionChunks (m : Mach) (d : Nat) : List ChunkRef :=
  regionChunks (m.snap d).rgns ++ (List.range (m.viewNum (m.manifest d + 0x24) 4)).map (fun i => ⟨0xFF, 0, i⟩)

/-- The state of the current version's manifest (Table 14.8): 0 empty, 1 building, 2 digested, 3 committed, 4 restored. -/
def Mach.manifestState (m : Mach) (d : Nat) : Nat := m.viewNum (m.manifest d + 4) 1 % 8

/-- R430, R431: a version is to be drained and its drain has not completed, also where it has failed. -/
def Mach.drainOpen (m : Mach) (d : Nat) : Bool :=
  m.flag Fld.snapCfg_enable d && !m.flag Fld.snapStatus_committed d && !m.flag Fld.snapStatus_drain_done d &&
    (m.manifestState d == 1 || m.manifestState d == 2)

/-- A version is being drained on die `d`: flipped, not yet complete, not stopped. -/
def Mach.draining (m : Mach) (d : Nat) : Bool := m.drainOpen d && (m.snap d).drainFail == 0

/-- R431: the drain fails: 1 buddy lost, 2 refused, 3 repeated mismatch. -/
def Mach.drainFail (m : Mach) (d cause : Nat) : Mach :=
  if !m.draining d then m
  else
    let n := ((m.versionChunks d).filter ChunkRef.drains).length
    let left := (n - (m.snap d).drained) * chunkBytes
    let m := (m.modSnap d (fun s => { s with drainFail := cause, offered := false })).ev Fld.snapEvents_drain_failed d
    m.emitRec d 0x42 false false [(64, m.versionStep d), (40, left), (4, cause)] true false (m.slotList d)

/-- R431: a lost node was some partition's buddy. -/
def Mach.buddyLost (m : Mach) (n : Nat) : Mach :=
  m.parts.foldl (fun m p => if m.get Fld.snapCfg_buddy p.low = n then m.drainFail p.low 1 else m) m

end Sys2Proof.Machine
end

