-- ==== Sys2Proof/Machine/Saffron.lean ====
section
/-! DEFINITION. Saffron (spec/14): step boundaries and flips, the schedule state, digests and drain, the buddy's side, commit,
and restore. The order of the items of Table 14.5 in the schedule block is the model's own. -/

namespace Sys2Proof.Machine

/-! ### The schedule state (Table 14.5) -/

/-- The registers of the schedule state that are captured in the flip cycle, in the order of the block: of each die the
counters, running totals, expected totals and armed bits, the sequence numbers of its queues, the launch queues, the
generators of its cores. -/
def schedRegs (p : Part) : List RegId :=
  p.dies.flatMap (fun d =>
    (List.range 4096).flatMap (fun n => [⟨.syncCtr, d, 0, n, 0⟩, ⟨.syncCtrTotal, d, 0, n, 0⟩, ⟨.syncCtrArm, d, 0, n, 0⟩]) ++
    (List.range 32).flatMap (fun c => (List.range 3).map (fun q => ⟨.cqSeq, d, c, q, 0⟩)) ++ [⟨.cqColStatus, d, 0, 0, 0⟩] ++
    (List.range 16).flatMap (fun q => [⟨.lqHead, d, 0, q, 0⟩, ⟨.lqTail, d, 0, q, 0⟩]) ++
    (List.range 32).flatMap (fun c => [⟨.vecSrKey, d, c, 0, 0⟩, ⟨.vecSrCtrLo, d, c, 0, 0⟩, ⟨.vecSrCtrHi, d, c, 0, 0⟩]))

/-- What the schedule state holds of a register: all of it, but no flag of a counter (R261). -/
def Mach.schedSave (m : Mach) (r : RegId) : Nat :=
  let v := m.reg r
  if r.reg = .syncCtr then Fld.syncCtr_armed.into (Fld.syncCtr_value.of v) (Fld.syncCtr_armed.of v) else v

/-- What the flip cycle captures: the step number and the registers. [DESIGN CHOICE, log 82] -/
def Mach.captureFlip (m : Mach) (p : Part) : List Byte :=
  toBytes 8 (m.rd .snapStep p.low) ++ (schedRegs p).flatMap (fun r => toBytes 8 (m.schedSave r))

/-- The tables in memory that the schedule state holds: of each die the scale table and its rings, the history table and its
maps, and the group table, as (address, bytes). -/
def Mach.schedTables (m : Mach) (p : Part) : List (Nat × Nat) :=
  let ok (l : List (Nat × Nat)) : List (Nat × Nat) := l.filter (fun r => regionOk r.1 r.2)
  p.dies.flatMap (fun d =>
    let scl := (List.range (m.sclEntries d)).flatMap (fun i =>
      (m.sclAddr d i, 64) :: (if bitOf (m.viewNum (m.sclAddr d i + 0x0C) 4) 31 then [(m.viewNum (m.sclAddr d i + 0x20) 8, 256)] else []))
    let hist := (List.range (m.get Fld.sumTblCfg_entries d)).flatMap (fun i =>
      let a := m.get Fld.sumTblBase_base d * 4096 + 32 * i
      let h : HistEntry := ⟨a, m.viewNum a 4, m.viewNum (a + 4) 2, 0, 0, m.viewNum (a + 16) 8⟩
      (a, 32) :: (if h.valid then [(h.mapBase, 10 * h.len)] else []))
    let grp := (List.range (m.get Fld.colGrpCfg_entries d)).map (fun g => (m.groupAddr d g, 64))
    ok (scl ++ hist ++ grp))

/-- The tables, each with its address and length: scale entries and rings as their processing wrote them, the others as they stand (R428).
[DESIGN CHOICE, log 82] -/
def Mach.captureTables (m : Mach) (p : Part) : List Byte :=
  (m.schedTables p).flatMap (fun r => toBytes 8 r.1 ++ toBytes 8 r.2 ++
    (match (m.snap p.low).sclCap.find? (fun x => x.1 == r.1 && x.2.length == r.2) with
    | some x => x.2
    | none => m.viewBytes r.1 r.2)) ++ toBytes 16 0

/-- Entries of the partition's scale tables are still to be processed for the boundary (R70). -/
def Mach.sclPending (m : Mach) (p : Part) : Bool :=
  p.dies.any (fun d => (List.range (m.sclEntries d)).any (fun i => bitOf (m.viewNum (m.sclAddr d i + 0x0C) 4) 30))

/-- R442, Table 14.5: the value a register takes from the schedule state. -/
def schedRestore (m : Mach) (r : RegId) (v : Nat) : Mach :=
  match r.reg with
  | .syncCtr => m.wr .syncCtr r.die (Fld.syncCtr_armed.into (Fld.syncCtr_value.into 0 (Fld.syncCtr_value.of v)) (Fld.syncCtr_armed.of v)) r.i
  | .cqSeq =>
    let s := Fld.cqSeq_pushed.of v
    m.wr .cqSeq r.die (Fld.cqSeq_completed.into (Fld.cqSeq_pushed.into 0 s) s) r.i r.core
  | .cqColStatus => m.put Fld.cqColStatus_pushed r.die (Fld.cqColStatus_pushed.of v)
  | .lqHead => m
  | .lqTail =>
    let t := Fld.lqTail_tail.of v
    ((m.put Fld.lqTail_tail r.die t r.i).put Fld.lqHead_head r.die t r.i).put Fld.lqHead_done r.die t r.i
  | _ => m.setReg r v

/-- Which table an address belongs to decides what of an entry is not exact (Table 14.5). -/
def Mach.restoreTable (m : Mach) (p : Part) (a : Nat) (bs : List Byte) : Mach :=
  let m := m.putBytes p.low a bs
  let isScl := bs.length = 64 ∧ p.dies.any (fun d => decide (m.sclAddr d 0 ≤ a) && decide (a < m.sclAddr d (m.sclEntries d)))
  let isGrp := bs.length = 64 ∧ p.dies.any (fun d =>
    decide (m.groupAddr d 0 ≤ a) && decide (a < m.groupAddr d (m.get Fld.colGrpCfg_entries d)))
  let v := Via.engine p.low
  if isScl then
    let flags := ofBytes ((bs.drop 0x0C).take 4)
    let m := (m.writeNum v (a + 0x08) 4 0).writeNum v (a + 0x10) 4 0
    (m.writeNum v (a + 0x1C) 4 0).writeNum v (a + 0x0C) 4 (setBits (setBits flags 30 30 0) 29 29 0)
  else if isGrp then m.writeNum v a 4 (setBits (ofBytes (bs.take 4)) 30 30 0)
  else m

/-- Restore the tables of a schedule block. -/
def Mach.restoreTables (m : Mach) (p : Part) (bs : List Byte) : Nat → Mach
  | 0 => m
  | fuel + 1 =>
    let a := ofBytes (bs.take 8)
    let n := ofBytes ((bs.drop 8).take 8)
    if n = 0 then m
    else (m.restoreTable p a ((bs.drop 16).take n)).restoreTables p (bs.drop (16 + n)) fuel

/-- R442: install a schedule state on a partition whose queues are empty; the captured step is returned.
[DESIGN CHOICE, log 82] -/
def Mach.installSched (m : Mach) (p : Part) (bs : List Byte) : Mach × Nat :=
  let regs := schedRegs p
  let m := p.dies.foldl (fun m d => m.slotsClear d) m
  let m := (regs.mapIdx (fun i r => (r, ofBytes ((bs.drop (8 + 8 * i)).take 8)))).foldl (fun m x => schedRestore m x.1 x.2) m
  (m.restoreTables p (bs.drop (8 + 8 * regs.length)) (bs.length / 16 + 1), ofBytes (bs.take 8))

/-! ### Step boundary and flip -/

/-- R435: begin the record of a step: its number, the instant of its boundary, nothing else set, no version committed. -/
def Mach.ssrBegin (m : Mach) (p : Part) (step : Nat) : Mach :=
  let a := m.ssrAddr p step
  (m.modSnap p.low (fun s => { s with lateMore := [] })).putBytes p.low a
    (toBytes 8 step ++ toBytes 8 (m.ft p.low) ++ toBytes 8 0 ++ toBytes 8 (2 ^ 64 - 1) ++ toBytes 224 0)

/-- R426 step 3: a flip: the other buffer becomes current and uncommitted; capture, digest and drain begin. -/
def Mach.flip (m : Mach) (p : Part) (step : Nat) : Mach :=
  let d := p.low
  let m := m.wr .snapStatus d (setBits (2 + (1 - m.get Fld.snapStatus_cur d)) 6 5 (bitsOf (m.rd .snapStatus d) 6 5))
  let a := m.manifest d
  let head := toBytes 4 0x4D414E31 ++ toBytes 4 1 ++ toBytes 8 step ++ toBytes 2 (m.node d) ++ toBytes 2 (m.get Fld.fabJob_job d) ++
    toBytes 4 0 ++ toBytes 8 (m.ft d) ++ toBytes 96 0
  let m := m.putBytes d a head
  let sched := m.captureFlip p
  let m := m.modSnap d (fun s =>
    { s with flipFt := m.ft d, sched, digested := 0, drained := 0, mism := 0, drainFail := 0, bad := false, initial := false,
             paused := false, offered := false, sclCap := [], rgns := m.regions d })
  (m.cnt .snapCnt d 0).ssrSet p (2 ^ 3)

/-- SNAP_UPD_DONE as it stood before the writes of this PMU cycle, which count for the next boundary (R426). -/
def Mach.updDone (m : Mach) (d : Nat) : Nat := (m.die d).updWas.getD (m.rd .snapUpdDone d)

/-- R426 on the partition's lowest die: the step number, the record, the flip. At the boundary that a restore has armed, the
partition runs the captured step, and no flip occurs (R442). -/
def Mach.boundaryLow (m : Mach) (p : Part) : Mach :=
  let d := p.low
  let s := m.rd .snapStep d
  let rejoin := (m.snap d).restore.isSome && !m.flag Fld.snapStatus_restoring d
  let m := if rejoin then m.modSnap d (fun x => { x with restore := none }) else m.wr .snapStep d ((s + 1) % 2 ^ 64)
  let m := m.ssrBegin p (m.rd .snapStep d)
  if !m.flag Fld.snapCfg_enable d then m
  else if !rejoin && m.updDone d == s && m.flag Fld.snapStatus_committed d then m.flip p s
  else ((m.cnt .snapCnt d 1).ev Fld.snapEvents_flip_skipped d).ssrSet p (2 ^ 4)

/-- What the boundary does on every die of the partition: the latch of R164 and the marking of R70. -/
def Mach.boundaryDie (m : Mach) (p : Part) (d : Nat) : Mach :=
  let (m, stale) := m.stepLatch d (m.rd .snapStep p.low)
  let m := if stale then m.ssrSet p (2 ^ 2) else m
  (m.sclMark d).modSnap d (fun s => { s with applied := true, missed := none })

/-- R426: timer action 0x3 on a partition with a job open: first its lowest die, then every die at which the action has come. -/
def Mach.stepBoundary (m : Mach) (k : Nat) : Mach :=
  match m.partAt k with
  | none => m
  | some p =>
    let due := p.dies.filter (fun d => ((m.takeAct d 3).2).isSome)
    let m := due.foldl (fun m d => (m.takeAct d 3).1) m
    if !m.flag Fld.fabJob_valid p.low then m
    else
      let m := if due.contains p.low then m.boundaryLow p else m
      due.foldl (fun m d => m.boundaryDie p d) m

/-- R436: a boundary that was missed is applied once the module is locked again. -/
def Mach.lateBoundary (m : Mach) (p : Part) : Mach :=
  let due := p.dies.filter (fun d => (m.snap d).missed.isSome)
  if m.moduleUnlocked ∨ due.isEmpty ∨ !m.flag Fld.fabJob_valid p.low then m
  else
    let m := if due.contains p.low then
        ((m.boundaryLow p).ssrSet p (2 ^ 5 + 2 ^ 10)).ev Fld.snapEvents_late_boundary p.low
      else m
    due.foldl (fun m d => m.boundaryDie p d) m

/-- The dies at home to a range of the work area serve it (R434). -/
def Mach.rangeServed (m : Mach) (a n : Nat) : Bool := (List.range (n / chunkBytes + 2)).all (fun k => m.homeServes (min (a + k * chunkBytes) (a + n)))

/-- R428: the schedule block of the new version is written once its scale entries are processed: what the flip cycle captured, and the
tables. It pauses while a die at home to the block is being reset (R434). [DESIGN CHOICE, log 82] -/
def Mach.captureDone (m : Mach) (d : Nat) : Mach :=
  match m.partOf d with
  | none => m
  | some p =>
    if p.low ≠ d ∨ !m.flag Fld.snapStatus_capturing d then m
    else
      let tables := m.schedTables p
      let bs := (m.snap d).sched ++ m.captureTables p
      let rs := regionChunks (m.snap d).rgns
      let a := m.manifest d
      let want := ceilDiv bs.length chunkBytes
      if m.sclPending p ∨ !m.rangeServed a (m.slotBytes d) ∨ tables.any (fun r => !m.homeServes r.1) then m else
      let m := tables.foldl (fun m r => m.viewed r.1 r.2) m
      let at_ := a + roundUp (128 + 48 * (rs.length + want)) chunkBytes
      let n := min want ((a + m.slotBytes d - at_) / chunkBytes)
      let m := m.putBytes d at_ ((bs ++ List.replicate (n * chunkBytes - bs.length) 0#8).take (n * chunkBytes))
      let m := (m.writeNum (Via.engine d) (a + 0x20) 4 (rs.length + n)).writeNum (Via.engine d) (a + 0x24) 4 n
      (m.put Fld.snapStatus_capturing d 0).modSnap d (fun s => { s with sched := [], sclCap := [] })

/-! ### Digests and drain -/

/-- Where a chunk of the version in slot `k` of the work area lies. -/
def Mach.chunkAddr (m : Mach) (d k : Nat) (c : ChunkRef) : Nat :=
  let rs := m.regions d
  if c.region = 0xFF then
    let n := m.viewNum (m.slotBase d k + 0x20) 4
    m.slotBase d k + roundUp (128 + 48 * n) chunkBytes + c.chunk * chunkBytes
  else match rs.find? (fun r => r.num == c.region) with
    | some r => r.base k + c.chunk * chunkBytes
    | none => 0

/-- The 48 bytes of a manifest entry (Table 14.9). -/
def entryBytes (c : ChunkRef) (drained poisoned : Bool) (digest : List Byte) : List Byte :=
  toBytes 4 (c.region + c.kind * 2 ^ 8 + b2n drained * 2 ^ 10 + b2n poisoned * 2 ^ 11) ++ toBytes 4 c.chunk ++ digest ++ toBytes 8 0

/-- A manifest's body digest over the entries that a drain hands on: those it drains have been acknowledged. [DEDUCED, log 83] -/
def sentBody (es : List (Nat × Nat × Nat × List Byte)) : List Byte :=
  sha3 (es.flatMap (fun e => let c : ChunkRef := ⟨e.1, e.2.1, e.2.2.1⟩; entryBytes c c.drains false e.2.2.2))

/-- The body digest of a slot's manifest over its entries as they stand. [DEDUCED, log 83] -/
def Mach.bodyDigest (m : Mach) (a : Nat) : List Byte := sha3 (m.viewBytes (a + 128) (48 * m.viewNum (a + 0x20) 4))

/-- The digest of entry `i` as the manifest at `a` holds it. -/
def Mach.entryDigest (m : Mach) (a i : Nat) : List Byte := m.viewBytes (a + 128 + 48 * i + 8) 32

/-- R430, R431, R434: the next chunk of the drain, with its digest, or the manifest, goes to the buddy, once each until it is answered; to a
lost buddy the drain fails, and for a chunk whose home die is being reset it pauses. -/
def Mach.drainOffer (m : Mach) (d : Nat) : Mach :=
  if !m.draining d then m
  else if m.isLost d (m.get Fld.snapCfg_buddy d) then m.drainFail d 1
  else if (m.snap d).offered then m
  else
    let all := m.versionChunks d
    let sent (m : Mach) : Mach := m.modSnap d (fun s => { s with offered := true })
    let s := m.snap d
    let items := (all.mapIdx (fun i c => (i, c))).filter (fun x => x.2.drains)
    let to_ := m.get Fld.snapCfg_buddy d
    match items[s.drained]? with
    | some (i, c) =>
      let a := m.chunkAddr d (m.get Fld.snapStatus_cur d) c
      if s.digested ≤ i then m
      else if !m.homeServes a then m.modSnap d (fun s => { s with paused := true })
      else sent ((m.viewed a chunkBytes).send 0x18 [d, to_, m.versionStep d, c.region, c.kind, c.chunk, a, ofBytes (m.entryDigest (m.manifest d) i)])
    | none => if m.flag Fld.snapStatus_digest_done d then sent (m.send 0x19 [d, to_, m.versionStep d, m.manifest d]) else m

/-- R434: a drain that paused goes on. [DEDUCED, log 144] -/
def Mach.drainResume (m : Mach) (d : Nat) : Mach :=
  if (m.snap d).paused then (m.modSnap d (fun s => { s with paused := false })).drainOffer d else m

/-- R429, R434: the next chunk of the current version is digested, unless its home die is being reset. `fetched`: the chunk as the
replica supplies it, when it has. -/
def Mach.chunkDigest (m : Mach) (d : Nat) (fetched : Option (List Byte)) : Mach :=
  let s := m.snap d
  let st := m.manifestState d
  if !m.flag Fld.snapCfg_enable d ∨ m.flag Fld.snapStatus_committed d ∨ st ≠ 1 ∨
      m.ft d < s.flipFt + 1000 * m.get Fld.snapTimes_drain_delay d then m
  else
    match (m.versionChunks d)[s.digested]? with
    | none => m
    | some c =>
      if c.region = 0xFF ∧ m.flag Fld.snapStatus_capturing d then m
      else
        let at_ := m.chunkAddr d (m.get Fld.snapStatus_cur d) c
        let (m', bs) := m.readBytes (Via.engine (homeDie at_)) at_ chunkBytes
        let poison := anyPoison bs
        if !m.homeServes at_ then m
        else
        let m := m'
        if !m.homeServes (m.manifest d + 128 + 48 * s.digested) then m
        else if poison ∧ c.region ≠ 0xFF ∧ c.kind = 0 ∧ (fetched.all (fun l => l.length != chunkBytes)) then m
        else
          let repair := poison && c.region != 0xFF && c.kind == 0
          let data := if repair then (fetched.getD []) else plain bs
          let who := if repair then m.get Fld.snapCfg_replica d else m.node d
          let m := if repair then (m.putBytes (homeDie at_) at_ data).cnt .snapCnt d 6 else m
          let m := if poison then
              (m.ev Fld.snapEvents_digest_mismatch d).emitRec d 0x41 repair false
                [(8, c.region), (32, c.chunk), (14, who), (1, b2n repair)] true false (if repair then [] else m.slotList d)
            else m
          let bad := poison && !repair
          let m := m.putBytes d (m.manifest d + 128 + 48 * s.digested) (entryBytes c false bad (sha3 data))
          let m := (m.modSnap d (fun s => { s with digested := s.digested + 1, bad := s.bad || bad })).cnt .snapCnt d 4
          let m :=
            if !m.flag Fld.snapStatus_capturing d && s.digested + 1 == (m.versionChunks d).length then
              let m := m.putBytes d (m.manifest d + 0x30) (m.bodyDigest (m.manifest d))
              (m.writeNum (Via.engine d) (m.manifest d + 4) 4 2).put Fld.snapStatus_digest_done d 1
            else m
          m.drainOffer d

/-- R430, R431: the buddy's answer to what was sent last. -/
def Mach.drainAck (m : Mach) (d : Nat) (r : DrainAnswer) : Mach :=
  if !m.draining d || !(m.snap d).offered then m
  else
    let m := m.modSnap d (fun s => { s with offered := false })
    let s := m.snap d
    let items := ((m.versionChunks d).mapIdx (fun i c => (i, c))).filter (fun x => x.2.drains)
    match items[s.drained]?, r with
    | _, .refuse => m.drainFail d 2
    | some (i, _), .ack =>
      if s.digested ≤ i then m
      else
        let a := m.manifest d + 128 + 48 * i
        let m := m.writeNum (Via.engine d) a 4 (setBits (m.viewNum a 4) 10 10 1)
        let m := if m.flag Fld.snapStatus_digest_done d then m.putBytes d (m.manifest d + 0x30) (m.bodyDigest (m.manifest d)) else m
        ((m.modSnap d (fun s => { s with drained := s.drained + 1, mism := 0 })).cnt .snapCnt d 5 chunkBytes).drainOffer d
    | none, .ack => if m.flag Fld.snapStatus_digest_done d then m.put Fld.snapStatus_drain_done d 1 else m
    | _, .again =>
      let m := m.modSnap d (fun s => { s with mism := s.mism + 1 })
      if 3 ≤ (m.snap d).mism then m.drainFail d 3 else m.drainOffer d

/-- An answer to a drain's sender. -/
def Mach.drainReply (m : Mach) (node code : Nat) : Mach := m.send 0x1A [node, code]

/-- R430, R432: the buddy's Bludjan die receives a chunk or a manifest of a drain. What comes while the copy to the hold area runs waits
until the copy is over. A manifest completes the version when its digest is right and it drains what has come. -/
def Mach.drainReceive (m : Mach) (node step : Nat) (x : DrainItem) : Mach :=
  if !m.flag Fld.snapRecvCfg_enable sdDie ∨ node ≠ m.get Fld.snapRecvCfg_sender sdDie then m.drainReply node 2
  else if m.flag Fld.snapRecvStatus_copying sdDie then { m with recv := { m.recv with waiting := m.recv.waiting ++ [(node, step, x)] } }
  else
    let m :=
      if m.rd .snapRecvStep sdDie = step then m
      else
        let m := (m.wr .snapRecvStep sdDie step).put Fld.snapRecvStatus_recv_complete sdDie 0
        { m.put Fld.snapRecvStatus_recv_bytes sdDie 0 with recv := { m.recv with next := 0, mism := 0, entries := [], manifest := SentManifest.none_ } }
    match x with
    | .chunk region kind chunk data digest =>
      let room := min (m.get Fld.snapRecvArea_len sdDie) (m.get Fld.snapHoldArea_len sdDie)
      if room ≤ m.recv.next then m.drainReply node 2
      else if sha3 data ≠ digest then ({ m with recv := { m.recv with mism := m.recv.mism + 1 } }).drainReply node 1
      else
        let a := m.get Fld.snapRecvArea_base sdDie * chunkBytes + m.recv.next * chunkBytes
        let m := m.putBytes sdDie a data
        let es := m.recv.entries ++ [(region, kind, chunk, digest)]
        let m := { m with recv := { m.recv with next := m.recv.next + 1, mism := 0, entries := es } }
        (m.put Fld.snapRecvStatus_recv_bytes sdDie (m.get Fld.snapRecvStatus_recv_bytes sdDie + chunkBytes)).drainReply node 0
    | .manifest entries body =>
      if sentBody entries = body ∧ entries.filter (fun e => ChunkRef.drains ⟨e.1, e.2.1, e.2.2.1⟩) = m.recv.entries then
        ({ m with recv := { m.recv with manifest := ⟨entries, body⟩ } }.put Fld.snapRecvStatus_recv_complete sdDie 1).drainReply node 0
      else m.drainReply node 1

/-- The Bludjan die copies one chunk of its memory as it reads, poison included (R432). -/
def Mach.copyChunk (m : Mach) (src dst : Nat) : Mach :=
  let (m, bs) := m.readBytes (Via.engine sdDie) src chunkBytes
  m.writeBytes (Via.engine sdDie) dst bs

/-- R432: the copy from the receive area to the hold area ends, and what waited for it is taken; it pauses while a die at home to the hold
area is being reset (R434). -/
def Mach.holdCopyDone (m : Mach) : Mach :=
  if !m.flag Fld.snapRecvStatus_copying sdDie then m
  else if !m.rangeServed (m.get Fld.snapHoldArea_base sdDie * chunkBytes) (m.recv.entries.length * chunkBytes) then m
  else
    let from_ := m.get Fld.snapRecvArea_base sdDie * chunkBytes
    let to_ := m.get Fld.snapHoldArea_base sdDie * chunkBytes
    let m := (List.range m.recv.entries.length).foldl (fun m i =>
      m.copyChunk (from_ + i * chunkBytes) (to_ + i * chunkBytes)) m
    let m := (m.wr .snapHoldStep sdDie (m.rd .snapRecvStep sdDie)).put Fld.snapRecvStatus_hold_valid sdDie 1
    let waited := m.recv.waiting
    let m : Mach := { m.put Fld.snapRecvStatus_copying sdDie 0 with
      recv := { m.recv with held := m.recv.entries, heldManifest := m.recv.manifest, waiting := [] } }
    waited.foldl (fun m x => m.drainReceive x.1 x.2.1 x.2.2) m

/-- R432: the version received is complete and not the one held already. -/
def Mach.newReceived (m : Mach) : Bool :=
  m.flag Fld.snapRecvStatus_recv_complete sdDie &&
    !(m.flag Fld.snapRecvStatus_hold_valid sdDie && m.rd .snapHoldStep sdDie == m.rd .snapRecvStep sdDie)

/-! ### Commit -/

/-- R433: why the local vote is not OK: 4 lock or boundary, 1 digest, 2 drain, 3 inbound; 0 for an OK vote. [DEDUCED, log 81] -/
def Mach.voteReason (m : Mach) (p : Part) : Nat :=
  let d := p.low
  if m.moduleUnlocked ∨ p.dies.any (fun x => !(m.snap x).applied) then 4
  else if !m.flag Fld.snapStatus_digest_done d ∨ (m.snap d).bad then 1
  else if !m.flag Fld.snapStatus_drain_done d then 2
  else if m.flag Fld.snapRecvCfg_enable sdDie ∧
      !(m.flag Fld.snapRecvStatus_recv_complete sdDie && m.rd .snapRecvStep sdDie == m.versionStep d) then 3
  else 0

/-- R433: timer action 0x7 on a die: the local vote of the partition whose slot `arg` names, when this is its lowest die. -/
def Mach.commitPoint (m : Mach) (d : Nat) : Mach :=
  match m.takeAct d 7 with
  | (m, none) => m
  | (m, some a) =>
    match m.partAt (a.arg % 16) with
    | none => m
    | some p =>
      if p.low ≠ d then m
      else if !m.flag Fld.snapCfg_enable d then m.send 0x1B [m.node d, m.get Fld.fabJob_job d, 2 ^ 64 - 1, 1]
      else
        let m := (m.lateBoundary p).dropBoundary p
        if !m.voteDue p then m
        else
          let r := m.voteReason p
          let m := (m.put Fld.snapStatus_vote_pending d 1).modSnap d (fun s => { s with voteFt := m.ft d, voteReason := r })
          m.send 0x1B [m.node d, m.get Fld.fabJob_job d, m.versionStep d, b2n (decide (r = 0))]

/-- R433: the current version is committed. -/
def Mach.commit (m : Mach) (p : Part) : Mach :=
  let d := p.low
  let step := m.versionStep d
  let a := m.manifest d
  let m := ((m.wr .snapCommit d step).put Fld.snapStatus_committed d 1).ev Fld.snapEvents_committed d
  let m := (m.writeNum (Via.engine d) (a + 4) 4 3).writeNum (Via.engine d) (a + 0x28) 8 (m.ft d)
  let m := (m.ssrSet p (2 ^ 7)).writeNum (Via.engine d) (m.ssrAddr p (m.rd .snapStep d) + 0x18) 8 step
  let m := m.cnt .snapCnt d 2
  let m := p.dies.foldl (fun m x => m.ctrAdd1 x (m.get Fld.snapCfg_commit_ctr d) srcOther) m
  if m.newReceived && m.rd .snapRecvStep sdDie == step then
    m.put Fld.snapRecvStatus_copying sdDie 1
  else m

/-- R433: the combined votes of the job box's nodes; on a module that has cast no vote of its own they commit only what it received as a
buddy (R432). -/
def Mach.voteResult (m : Mach) (d : Nat) (allOk : Bool) : Mach :=
  match m.partOf d with
  | none => m
  | some p =>
    if p.low ≠ d then m
    else if !m.flag Fld.snapCfg_enable d || !m.flag Fld.snapStatus_vote_pending d then
      if allOk && m.newReceived then m.put Fld.snapRecvStatus_copying sdDie 1 else m
    else
      let s := m.snap d
      let inTime := decide (m.ft d ≤ s.voteFt + 1000 * m.get Fld.snapTimes_vote_window d)
      let m := m.put Fld.snapStatus_vote_pending d 0
      if s.voteReason = 0 ∧ allOk ∧ inTime then m.commit p
      else m.commitFailed d (if s.voteReason ≠ 0 then s.voteReason else 5)

/-! ### Repair of a page -/

/-- R448: the CP firmware rebuilds a poisoned chunk of a replicated region from the replica's copy, which must match the current
manifest. -/
def Mach.pageRebuild (m : Mach) (d a : Nat) (data : List Byte) : Mach :=
  let k := m.get Fld.snapStatus_cur d
  let at_ := a / chunkBytes * chunkBytes
  if !m.flag Fld.snapCfg_enable d then m
  else
    let hit := ((m.versionChunks d).mapIdx (fun i c => (i, c))).find? (fun x =>
      x.2.region != 0xFF && x.2.kind == 0 && m.chunkAddr d k x.2 == at_)
    match hit with
    | none => m
    | some (i, _) =>
      if m.entryDigest (m.manifest d) i ≠ sha3 data ∨ data.length ≠ chunkBytes then m
      else
        let m := (m.putBytes (homeDie at_) at_ data).cnt .snapCnt d 6
        m.emitRec d 0x37 true false [(48, at_), (16, 1)] false false (m.parts.map (·.slot))

end Sys2Proof.Machine
end

