-- ==== Sys2Proof/Machine/FabricRows.lean ====
section
/-! DEFINITION. Fabric ports, links, heartbeats, lost nodes and routing (spec/12, R344 to R365, R377 to R381). -/

namespace Sys2Proof.Machine

/-! ### Ports -/

/-- The port states of Table 12.2. -/
def psDark : Nat := 0
def psTrain : Nat := 1
def psNegotiate : Nat := 2
def psActive : Nat := 3
def psStandby : Nat := 4
def psFailed : Nat := 5
def psDisabled : Nat := 6
def psWiring : Nat := 7

/-- What a port holds beside its registers. -/
def Mach.port (m : Mach) (d p : Nat) : PortSt := smGet PortSt.init (m.fab d).ports p

/-- Change it. -/
def Mach.modPort (m : Mach) (d p : Nat) (f : PortSt → PortSt) : Mach :=
  m.modFab d (fun x => { x with ports := smMod PortSt.init x.ports p f })

/-- The state, direction and role of a port. -/
def Mach.portState (m : Mach) (d p : Nat) : Nat := m.get Fld.fabPortStatus_state d p
def Mach.portDirNow (m : Mach) (d p : Nat) : Nat := m.get Fld.fabPortStatus_dir d p
def Mach.portRoleNow (m : Mach) (d p : Nat) : Nat := m.get Fld.fabPortStatus_role d p

/-- Every port of the module, by its global number's die and local number. -/
def allPorts : List (Nat × Nat) := (List.range 8).flatMap (fun d => (List.range 8).map (fun p => (d, p)))

/-- The torus ports of a direction. -/
def Mach.dirPorts (m : Mach) (dir : Nat) : List (Nat × Nat) :=
  allPorts.filter (fun x => m.portDirNow x.1 x.2 == dir && decide (m.portRoleNow x.1 x.2 < 2))

/-- The ACTIVE ports that carry traffic of a direction. -/
def Mach.activePorts (m : Mach) (dir : Nat) : List (Nat × Nat) := (m.dirPorts dir).filter (fun x => m.portState x.1 x.2 == psActive)

/-- R360: the least occupied ACTIVE port of a direction, the lowest-numbered among equals. -/
def Mach.pickPort (m : Mach) (dir : Nat) : Option (Nat × Nat) :=
  (m.activePorts dir).foldl (fun b x => match b with
    | none => some x
    | some y => if (m.port x.1 x.2).replay.length < (m.port y.1 y.2).replay.length then some x else some y) none

/-- R351: a packet goes out at a port: it takes the next link sequence number and waits in the replay buffer. -/
def Mach.putOnLink (m : Mach) (d p : Nat) (x : Packet) : Mach :=
  let seq := (m.port d p).txSeq
  let m := m.modPort d p (fun y => { y with txSeq := seq + 1, replay := y.replay ++ [(seq, x)] })
  let m := (m.cnt .fabPortCnt d p 1 0 4).cnt .fabPortCnt d p x.bytes 0 6
  m.send 0x0A ([8 * d + p, seq, x.src, x.dest, x.job, x.epoch, x.hops, x.bytes, b2n x.escape] ++ x.detour)

/-- R351, R353: what the replay buffer of a port holds is resent on the ACTIVE ports of its direction; with none it stays. A packet
to a lost node is sent no more (R362). -/
def Mach.resendHeld (m : Mach) (d p : Nat) : Mach :=
  let held := (m.port d p).replay
  held.foldl (fun m x =>
    if m.isLost d x.2.dest then m
    else match m.pickPort (m.portDirNow d p) with
      | none => m.modPort d p (fun y => { y with replay := y.replay ++ [x] })
      | some y => m.putOnLink y.1 y.2 x.2) (m.modPort d p (fun y => { y with replay := [] }))

/-- A port that light reaches trains (R350 step 1), unless it is held down, its axis unused, its module fail-silent or its die in
reset. -/
def Mach.portWake (m : Mach) (d p : Nat) : Mach :=
  if m.silent ∨ !m.lit ∨ m.cp.resetting.testBit d ∨ m.flag Fld.fabPortCtl_disable d p ∨ m.portRoleNow d p = 3 ∨ m.portState d p ≠ psDark ∨
      (m.port d p).light = 0 then m
  else m.put Fld.fabPortStatus_state d psTrain p

/-- A record of Table 12.8 about a port. -/
def Mach.portRec (m : Mach) (d p kind node : Nat) : Mach := m.fabRec d kind (8 * d + p) node 0 0 0 0 true true []

/-! ### Lost nodes -/

/-- R356, R357: NODE_LOST goes out on every ACTIVE port. -/
def Mach.flood (m : Mach) (n : Nat) : Mach :=
  (allPorts.filter (fun x => m.portState x.1 x.2 == psActive)).foldl (fun m x => m.send 0x05 [8 * x.1 + x.2, n]) m

/-- R357: a node is lost, on every die: FAB_LOST, the records, its accesses abandoned, collectives ended, drains stopped, the flood
sent on. -/
def Mach.nodeLost (m : Mach) (n : Nat) : Mach :=
  if m.isLost 0 n then m
  else
    let m := m.fabRec 0 0x25 0x7F n 0 0 0 0 false true (m.partsWithNode n)
    let m := (List.range 8).foldl (fun m d => (m.loseNode d n).colPeerLost d n) m
    let m := (m.parts.filter (fun p => m.boxHolds p.low n)).foldl (fun m p => m.ssrSet p (2 ^ 11)) m
    (m.buddyLost n).flood n

/-- R358: the flood names this module. -/
def Mach.selfLost (m : Mach) : Mach :=
  let m := (List.range 8).foldl (fun m d => m.ev Fld.fabEvents_self_lost d) m
  let m := m.fabRec 0 0x26 0x7F (m.node 0) 0 0 0 0 false true []
  (List.range 8).foldl (fun m d => m.selectSource d) m.goSilent

/-- R357, R358: a NODE_LOST flood arrives. -/
def Mach.nodeLostReceive (m : Mach) (n : Nat) : Mach :=
  if m.silent then m
  else if (List.range 8).any (fun d => m.flag Fld.fabNode_valid d && n == m.node d) then m.selfLost
  else m.nodeLost n

/-- R356: every port of a direction has failed, or lost its light while it trained. [DEDUCED, log 76] -/
def Mach.dirFailed (m : Mach) (dir : Nat) : Bool :=
  let ports := m.dirPorts dir
  let up (x : Nat × Nat) : Bool := let s := m.portState x.1 x.2; s == psTrain || s == psNegotiate || s == psActive || s == psStandby
  !ports.any up && ports.any (fun x => m.portState x.1 x.2 == psFailed)

/-- R356: no port of a direction has received a heartbeat for four periods of 250 µs, though one had before. [DEDUCED, log 76] -/
def Mach.dirSilent (m : Mach) (dir : Nat) : Bool :=
  let seen := (m.dirPorts dir).filter (fun x => (m.port x.1 x.2).hbSeen != 0)
  !seen.isEmpty && seen.all (fun x => decide ((m.port x.1 x.2).hbSeen + 1000000 ≤ m.ft x.1))

/-- R356: with the last port of a direction, or its last heartbeat, the neighbour is declared lost and flooded.
[DEDUCED, log 76] -/
def Mach.neighbourCheck (m : Mach) (d p : Nat) : Mach :=
  let dir := m.portDirNow d p
  let n := neighbour (m.sizes d) (m.node d) dir
  if 6 ≤ dir ∨ m.silent ∨ !m.flag Fld.fabNode_valid d ∨ !(m.dirFailed dir || m.dirSilent dir) ∨ n = m.node d ∨ m.isLost 0 n then m
  else
    let m := (List.range 8).foldl (fun m k => m.ev Fld.fabEvents_neighbour_lost k) m
    let m := m.fabRec d 0x24 (8 * d + p) n 0 0 0 0 false true (m.partsWithNode n)
    m.nodeLost n

/-! ### Failure -/

/-- A port goes out of service: its time source is gone; what its replay buffer held is resent on the direction's other ports
(R353). -/
def Mach.portDown (m : Mach) (d p state : Nat) : Mach :=
  let m := (m.put Fld.fabPortStatus_state d state p).put Fld.fabPortStatus_rate d 0 p
  let m := m.put Fld.fabPortStatus_lanes_ok d 0 p
  let m := m.modPort d p (fun x => { x with replays := 0, failedAt := m.pmu d, trained := 0, fec := [], rate := 0 })
  (m.resendHeld d p).loseSource d (8 * d + p)

/-- R352: a port fails: PORT_FAILED, unless a standby port is to take its place. -/
def Mach.portFailed (m : Mach) (d p : Nat) (swap : Bool) : Mach :=
  let m := (m.portDown d p psFailed).ev Fld.fabEvents_port_failed d
  let m := if swap then m else m.portRec d p 0x20 (m.get Fld.fabPortStatus_peer_node d p)
  m.neighbourCheck d p

/-- R350 step 3: what the module says of a port's end: its node, die, port, role, good lanes, `max_rate`, system sizes, die incarnation and route epoch. -/
def Mach.exchange (m : Mach) (d p : Nat) : Mach :=
  m.send 0x0B [8 * d + p, m.node d, d, p, m.portRoleNow d p, (m.port d p).trained, m.get Fld.fabPortCtl_max_rate d p,
    m.rd .fabDims d, (m.fab d).inc, m.get Fld.fabRouteCtl_epoch d]

/-- R352: a lane fault that leaves the lanes `left`: a standby port of the direction, or fewer lanes, or failure. -/
def Mach.laneFault (m : Mach) (d p left : Nat) : Mach :=
  let spare := (m.dirPorts (m.portDirNow d p)).any (fun x => m.portState x.1 x.2 == psStandby && x != (d, p))
  if m.portRoleNow d p = 0 ∧ spare then m.portFailed d p true
  else if left = 0 then m.portFailed d p false
  else
    let m := ((m.portDown d p psNegotiate).modPort d p (fun x => { x with trained := left })).exchange d p
    (m.ev Fld.fabEvents_degraded d).portRec d p 0x21 (m.get Fld.fabPortStatus_peer_node d p)

/-- The lanes of a port that are still good when those of `bad` are not. -/
def Mach.lanesLeft (m : Mach) (d p bad : Nat) : Nat :=
  let good := (m.port d p).light &&& (m.port d p).trained
  good - (good &&& bad)

/-- A port of the module carries traffic or heartbeats. -/
def Mach.portUp (m : Mach) (d p : Nat) : Bool := m.portState d p == psActive || m.portState d p == psStandby

/-- PORT_LIGHT_DETECT (R350): light arrives on lanes of a port. -/
def Mach.lightDetect (m : Mach) (d p lanes : Nat) : Mach :=
  (m.modPort d p (fun x => { x with light := x.light ||| (lanes % 16), lightLost := none })).portWake d p

/-- PORT_TRAIN_COMPLETE (R350): lanes have trained; the port negotiates once FAB_NODE is valid at both ends, and says what it is. -/
def Mach.trainComplete (m : Mach) (d p lanes : Nat) (peerValid : Bool) : Mach :=
  if m.portState d p ≠ psTrain then m
  else
    let m := m.modPort d p (fun x => { x with trained := lanes &&& x.light })
    if m.flag Fld.fabNode_valid d ∧ peerValid then (m.put Fld.fabPortStatus_state d psNegotiate p).exchange d p else m

/-- R350 step 4: the wiring is right. -/
def Mach.wiringOk (m : Mach) (d p : Nat) (x : PeerCaps) : Bool :=
  let dir := m.portDirNow d p
  if m.portRoleNow d p = 2 then x.edge
  else
    !x.edge && x.node == neighbour (m.sizes d) (m.node d) dir && x.die == d ^^^ (2 ^ (dir / 2)) && x.port == p &&
      x.dims == m.rd .fabDims d % 512

/-- Table 12.3: the rate code and the lanes used, from the lanes good at both ends and both ends' caps. -/
def rateOf (good cap : Nat) : Nat × Nat :=
  let lanes := bitsSet good 4
  let byLanes := if lanes.length = 4 then 3 else if 2 ≤ lanes.length then 2 else lanes.length
  let r := min byLanes cap
  (r, (lanes.take (match r with | 3 => 4 | 2 => 2 | 1 => 1 | _ => 0)).foldl (fun a l => a + 2 ^ l) 0)

/-- PORT_NEGOTIATE (R350): wiring check, rate, and the state that follows; a port whose peer has been given the standby role by a
swap, or whose die has been reset, takes that role (R354). What a port that renegotiates still held is resent (R351).
[DEDUCED, log 76] -/
def Mach.negotiate (m : Mach) (d p : Nat) (x : PeerCaps) : Mach :=
  if m.portState d p ≠ psNegotiate then m
  else if !m.wiringOk d p x then
    let m := (m.portDown d p psWiring).ev Fld.fabEvents_wiring d
    m.portRec d p 0x23 x.node
  else
    let capOf (r : Nat) : Nat := if r = 0 then 1 else r
    let (rate, lanes) := rateOf ((m.port d p).trained &&& x.lanes) (min (capOf (m.get Fld.fabPortCtl_max_rate d p)) (capOf x.maxRate))
    if rate = 0 then m.portFailed d p false
    else
      let role := m.portRoleNow d p
      let role := if role = 0 ∧ (x.role = 1 ∨ (m.port d p).wasReset) then 1 else role
      let st := m.rd .fabPortStatus d p
      let st := Fld.fabPortStatus_peer_node.into (Fld.fabPortStatus_peer_die.into (Fld.fabPortStatus_peer_port.into st x.port) x.die) x.node
      let st := Fld.fabPortStatus_lanes_ok.into (Fld.fabPortStatus_rate.into (Fld.fabPortStatus_role.into st role) rate) lanes
      let st := Fld.fabPortStatus_hb_missed.into (Fld.fabPortStatus_state.into st (if role = 1 then psStandby else psActive)) 0
      let m := m.wr .fabPortStatus d st p
      (m.modPort d p (fun y =>
        { y with replays := 0, txSeq := 0, rxSeq := 0, hbSent := m.ft d, hbSeen := m.ft d, peerRole := x.role, fec := [],
                 rate := rate, wasReset := false })).resendHeld d p

/-- PORT_LIGHT_LOST (R352): light is lost on lanes of a port. -/
def Mach.lightLost (m : Mach) (d p lanes : Nat) : Mach :=
  let used := m.get Fld.fabPortStatus_lanes_ok d p &&& lanes
  let m := m.modPort d p (fun x => { x with light := x.light - (x.light &&& lanes), lightLost := some (m.ft d) })
  if m.portUp d p then
    if used ≠ 0 then m.laneFault d p (m.lanesLeft d p lanes) else m
  else if (m.portState d p = psTrain ∨ m.portState d p = psNegotiate) ∧ (m.port d p).light = 0 then
    (m.portDown d p psDark).neighbourCheck d p
  else m

/-- PORT_FEC_FAIL (R352): codewords on a lane that FEC could not correct; eight within 10 µs (2 000 PMU cycles) are a lane
fault. -/
def Mach.fecFail (m : Mach) (d p lane n : Nat) : Mach :=
  if !m.portUp d p then m
  else
    let now := m.pmu d
    let m := m.cnt .fabPortCnt d p n 0 2
    let m := m.modPort d p (fun x =>
      { x with fec := (x.fec ++ List.replicate (min n 8) (lane, now)).filter (fun e => decide (now ≤ e.2 + 2000)) })
    if 8 ≤ ((m.port d p).fec.filter (fun e => e.1 == lane)).length then m.laneFault d p (m.lanesLeft d p (2 ^ lane)) else m

/-- STANDBY_SWAP (R353): a standby port takes the place of the lowest-numbered failed active port of its direction. -/
def Mach.standbySwap (m : Mach) (d p : Nat) : Mach :=
  if m.portState d p ≠ psStandby then m
  else match (m.dirPorts (m.portDirNow d p)).find? (fun x => m.portRoleNow x.1 x.2 == 0 && m.portState x.1 x.2 == psFailed) with
    | none => m
    | some (fd, fp) =>
      let m := m.put Fld.fabPortStatus_role fd 1 fp
      let m := (m.put Fld.fabPortStatus_role d 0 p).put Fld.fabPortStatus_state d psActive p
      let m := (m.put Fld.fabPortStatus_replaces d (8 * fd + fp) p).ev Fld.fabEvents_swap d
      (m.portRec d p 0x22 (m.get Fld.fabPortStatus_peer_node d p)).resendHeld fd fp

/-- PORT_RETRY (R349): a FAILED port tries again every second (200 000 000 PMU cycles). -/
def Mach.portRetry (m : Mach) (d p : Nat) : Mach :=
  if m.portState d p ≠ psFailed ∨ m.silent ∨ m.pmu d < (m.port d p).failedAt + 200000000 then m
  else
    let m := m.modPort d p (fun x => { x with failedAt := m.pmu d })
    if (m.port d p).light = 0 then m else m.put Fld.fabPortStatus_state d psTrain p

/-- FAB_PORT_CTL written by the CP firmware (R380): `disable` holds the port down. -/
def Mach.wrPortCtl (m : Mach) (id : RegId) (w : RegW) : Mach :=
  let d := id.die
  let p := id.i
  let m := m.setReg id w.new
  let off := Fld.fabPortCtl_disable.of w.new = 1
  if off ∧ m.portState d p ≠ psDisabled then m.portDown d p psDisabled
  else if !off ∧ m.portState d p = psDisabled then (m.put Fld.fabPortStatus_state d psDark p).portWake d p
  else m

/-- R345: the ports of an axis of size 1 are unused and dark; those of an axis that has come to be longer have their role of
Table 12.1 again. -/
def Mach.axisRoles (m : Mach) (d : Nat) : Mach :=
  if !m.flag Fld.fabNode_valid d then m
  else
    let (sx, sy, sz) := m.sizes d
    (List.range 8).foldl (fun m p =>
      let dir := m.portDirNow d p
      let one := decide (dir < 6) && (match dir / 2 with | 0 => sx == 1 | 1 => sy == 1 | _ => sz == 1)
      if one && m.portRoleNow d p != 3 then
        let m := if m.portState d p = psDisabled then m else m.portDown d p psDark
        m.put Fld.fabPortStatus_role d 3 p
      else if !one && m.portRoleNow d p == 3 then
        (m.put Fld.fabPortStatus_role d (Fld.fabPortStatus_role.of (resetOf ⟨.fabPortStatus, d, 0, p, 0⟩)) p).portWake d p
      else m) m

/-- FAB_NODE or FAB_DIMS written by the CP firmware. -/
def Mach.wrFabNode (m : Mach) (id : RegId) (w : RegW) : Mach := (m.setReg id w.new).axisRoles id.die

/-! ### Links and heartbeats -/

/-- LINK_PACKET_RECEIVE (R351, R352). -/
def Mach.linkReceive (m : Mach) (d p : Nat) (e : LinkEvent) : Mach :=
  if !m.portUp d p then m
  else
    let g := 8 * d + p
    match e with
    | .data seq crcOk bytes =>
      let want := (m.port d p).rxSeq
      if !crcOk ∨ want < seq then m.send 0x06 [g, want]
      else if seq < want then m.send 0x07 [g, seq]
      else
        let m := (m.cnt .fabPortCnt d p 1 0 5).cnt .fabPortCnt d p bytes 0 7
        (m.modPort d p (fun x => { x with rxSeq := want + 1 })).send 0x07 [g, seq]
    | .ack seq => m.modPort d p (fun x => { x with replay := x.replay.filter (fun r => decide (seq < r.1)), replays := 0 })
    | .corrected n => m.cnt .fabPortCnt d p n 0 1
    | .replay =>
      let m := (m.cnt .fabPortCnt d p 1 0 0).modPort d p (fun x => { x with replays := x.replays + 1 })
      if 16 ≤ (m.port d p).replays then m.portFailed d p false
      else m.send 0x09 (g :: (m.port d p).replay.map (·.1))

/-- HEARTBEAT_SEND (R355): every 250 µs of fabric time. -/
def Mach.heartbeatSend (m : Mach) (d p : Nat) : Mach :=
  if !m.portUp d p ∨ m.silent ∨ m.ft d < (m.port d p).hbSent + 250000 then m
  else
    (m.modPort d p (fun x => { x with hbSent := m.ft d })).send 0x08
      [8 * d + p, m.node d, m.get Fld.fabRouteCtl_epoch d, b2n m.silent]

/-- HEARTBEAT_RECEIVE (R355). -/
def Mach.heartbeatReceive (m : Mach) (d p : Nat) : Mach :=
  if !m.portUp d p then m
  else (m.modPort d p (fun x => { x with hbSeen := m.ft d })).put Fld.fabPortStatus_hb_missed d 0 p

/-- HEARTBEAT_TIMEOUT (R352, R356): periods without a heartbeat; at the fourth the port fails. At a port that carries none yet it
is only looked whether the whole direction has fallen silent. -/
def Mach.heartbeatTimeout (m : Mach) (d p : Nat) : Mach :=
  if !m.portUp d p then m.neighbourCheck d p
  else
    let missed := (m.ft d - (m.port d p).hbSeen) / 250000
    let shown := m.get Fld.fabPortStatus_hb_missed d p
    if missed ≤ shown then m
    else
      let m := (m.cnt .fabPortCnt d p (missed - shown) 0 3).put Fld.fabPortStatus_hb_missed d (min 15 missed) p
      if 4 ≤ missed then m.portFailed d p false else m

/-! ### Routing -/

/-- Which counter a routing choice counts in. -/
inductive RouteBy where
  | plain | lost | entry
  deriving DecidableEq, Repr

/-- R360, R362, R363: the direction of a packet's next hop, the hops of an entry left after it, and by what it was chosen. -/
def Mach.route (m : Mach) (d : Nat) (x : Packet) : Option (Nat × List Nat × RouteBy) :=
  match x.detour with
  | h :: rest => some (h, rest, .plain)
  | [] =>
    let box := m.packetBox d x.job x.src x.dest
    match m.nextDir d box x.dest with
    | none => none
    | some dir =>
      let hop := neighbour (m.sizes d) (m.node d) dir
      match m.detour d hop x.dest with
      | some e =>
        match [bitsOf e 47 45, bitsOf e 44 42, bitsOf e 41 39].filter (fun h => decide (h < 6)) with
        | h :: rest => some (h, rest, .entry)
        | [] => some (dir, [], .entry)
      | none =>
        if m.isLost d hop then (m.lostDetour d box dir x.dest).map (fun k => (k, [], .lost)) else some (dir, [], .plain)

/-- PACKET_FORWARD (R360 to R365): a packet at die `d` takes its next hop, is discarded, or waits for a port; one that a detour
takes stays on the escape virtual channel. -/
def Mach.forward (m : Mach) (d : Nat) (x : Packet) : Mach :=
  let cur := m.get Fld.fabRouteCtl_epoch d
  if m.silent ∨ m.isLost d x.dest ∨ x.dest = m.node d then m
  else if (x.epoch ≠ cur ∧ (x.epoch + 1) % 2 ^ 16 ≠ cur) ∨ 96 ≤ x.hops then (m.cnt .fabCnt d 3).ev Fld.fabEvents_discarded d
  else match m.route d x with
    | none => m
    | some (dir, rest, why) =>
      match m.pickPort dir with
      | none => m
      | some (pd, p) =>
        let m := match why with
          | .plain => m
          | .lost => m.cnt .fabCnt d 10
          | .entry => m.cnt .fabCnt d 11
        let m := if x.src = m.node d then m else m.cnt .fabCnt d 12
        m.putOnLink pd p { x with hops := x.hops + 1, escape := x.escape || why != .plain, detour := rest }

/-! ### Route epochs -/

/-- FAB_ROUTE_CTL written by the CP firmware (R381). -/
def Mach.wrRouteCtl (m : Mach) (id : RegId) (w : RegW) : Mach :=
  let d := id.die
  let was := Fld.fabRouteCtl_arm.of w.old = 1
  let arms := Fld.fabRouteCtl_arm.of w.new = 1
  let pend := Fld.fabRouteCtl_pend_epoch.of w.new
  if (arms && pend != (Fld.fabRouteCtl_epoch.of w.old + 1) % 2 ^ 16) || (was && pend != Fld.fabRouteCtl_pend_epoch.of w.old) then
    m.ev Fld.fabEvents_cfg_err d
  else
    let m := m.setReg id w.new
    if arms && !was then
      let late := decide (m.rd .fabRouteSwitch d < m.ft d)
      let m := m.modFab d (fun x => { x with armedLate := late })
      if late then m.put Fld.fabRouteCtl_switch_late d 1 else m
    else m

/-- FAB_ROUTE_SWITCH or FAB_DETOUR_PEND written by the CP firmware (R381). -/
def Mach.wrRoutePend (m : Mach) (id : RegId) (w : RegW) : Mach :=
  if m.flag Fld.fabRouteCtl_arm id.die ∧ w.new ≠ w.old then m.ev Fld.fabEvents_cfg_err id.die else m.setReg id w.new

/-- R359: the CP firmware clears a node's FAB_LOST bit on a die: its end-to-end state in both directions is discarded. -/
def Mach.nodeBack (m : Mach) (d n : Nat) : Mach :=
  let m := m.wr .fabLost d (setBits (m.rd .fabLost d (n / 64)) (n % 64) (n % 64) 0) (n / 64)
  m.modFab d (fun x => { x with seqs := smSet 0 x.seqs n 0, sources := x.sources.filter (fun s => s.1 / 16 != n),
                                writesLost := x.writesLost.filter (· != n) })

/-- ROUTE_EPOCH_SWITCH (R364, R381, R445): at the switch instant, by the action path of R43, or in the next cycle when it was past
as it was armed, the pending table and epoch become current and the nodes of the clear list are lost no more; a list that names
this module ends its fail-silence. -/
def Mach.epochSwitch (m : Mach) (d : Nat) : Mach :=
  let due := m.rd .fabRouteSwitch d + (if (m.fab d).armedLate then 0 else 40)
  if !m.flag Fld.fabRouteCtl_arm d ∨ m.ft d < due then m
  else
    let m := (List.range 64).foldl (fun m i => m.wr .fabDetour d (m.rd .fabDetourPend d i) i) m
    let m := (m.put Fld.fabRouteCtl_epoch d (m.get Fld.fabRouteCtl_pend_epoch d)).put Fld.fabRouteCtl_arm d 0
    let m := m.ev Fld.fabEvents_epoch_switched d
    let m := m.fabRec d 0x2B 0x7F 0 0 0 0 0 true true []
    let back := (m.fab d).clearList
    let m := back.foldl (fun m n => m.nodeBack d n) (m.modFab d (fun x => { x with clearList := [] }))
    if back.contains (m.node d) then
      let m : Mach := { m with silent := false, pins := { m.pins with withdrawn := false } }
      allPorts.foldl (fun m x => m.portWake x.1 x.2) m
    else m

/-! ### Fences -/

/-- FENCE_TIMEOUT (R373): a fence not complete 2 ms (400 000 PMU cycles) after its issue, once. -/
def Mach.fenceTimeout (m : Mach) (d : Nat) : Mach :=
  let late := (m.fab d).fences.filter (fun f => !f.sent && decide (f.start + 400000 ≤ m.pmu d))
  let m := m.modFab d (fun x => { x with fences := x.fences.map (fun f => if late.contains f then { f with sent := true } else f) })
  late.foldl (fun m f =>
    let node := ((if f.begun then f.window else m.fenceWindow d).head?.map (·.1)).getD 0
    let m := (m.ev Fld.fabEvents_fence_timeout d).cnt .fabCnt d 5
    m.fabRec d 0x27 0x7F node (coreNum d f.who.core) f.who.thread 0 0 false false (m.slotList d)) m

end Sys2Proof.Machine
end

