-- ==== Sys2Proof/Machine/Power.lean ====
section
/-! DEFINITION. Power capping, the governor, Nutmeg and the thermal limits (spec/15). Powers are in units of 0.125 W,
temperatures in units of 0.125 °C. -/

namespace Sys2Proof.Machine

/-- Change it. -/
def Mach.modPwr (m : Mach) (d : Nat) (f : PwrSt → PwrSt) : Mach := m.modDie d (fun x => { x with pwr := f x.pwr })

/-! ### The cap -/

/-- Table 1.5: the class rating in W. -/
def classRating (cool : Nat) : Nat := if cool = 0 ∨ cool = 3 then 1400 else 3000

/-- R454, R456, R47, R478: timer 2 of a die armed with action 0x6 at a target, unless it is armed; on a die that is being reset, in the
CP firmware's record of its registers, from which they return. -/
def Mach.armCap (m : Mach) (d target : Nat) : Mach :=
  let ctl := Fld.ftTmrCtl_enable.into (Fld.ftTmrCtl_action.into 0 6) 1
  let idT : RegId := ⟨.ftTmrTgt, d, 0, 2, 0⟩
  let idC : RegId := ⟨.ftTmrCtl, d, 0, 2, 0⟩
  if m.cp.resetting.testBit d then
    let saved := smGet [] m.cp.saved d
    if Fld.ftTmrCtl_enable.of (smGet 0#64 saved idC.key).toNat = 1 then m
    else
      let saved := smSet (BitVec.ofNat 64 (resetOf idT)) saved idT.key (BitVec.ofNat 64 target)
      let saved := smSet (BitVec.ofNat 64 (resetOf idC)) saved idC.key (BitVec.ofNat 64 ctl)
      { m with cp := { m.cp with saved := smSet [] m.cp.saved d saved } }
  else if m.flag Fld.ftTmrCtl_enable d 2 then m
  else (m.wr .ftTmrTgt d target 2).wrTmrCtl idC ⟨.cp, m.reg idC, ctl, ctl, 2 ^ 64 - 1⟩

/-- R454: a pending cap: copied to the governor of every die, and timer 2 armed with action 0x6 on every Orlupo die at the first
multiple of 10 ms at least 2 ms ahead of the Bludjan die's FT, one target for all; a timer already armed stays (R456). -/
def Mach.setPending (m : Mach) (cap : Nat) : Mach :=
  let m := nineDies.foldl (fun m d => m.modPwr d (fun p => { p with capPend := some cap })) m
  let target := roundUp (m.ft sdDie + 2000000) 10000000
  (List.range 8).foldl (fun m d => m.armCap d target) m

/-- PWR_CAP_PEND written by the MC. -/
def Mach.wrCapPend (m : Mach) (id : RegId) (w : RegW) : Mach :=
  let m := m.setReg id w.new
  if Fld.pwrCapPend_valid.of w.new = 1 then m.setPending (Fld.pwrCapPend_cap_w.of w.new) else m

/-- PLDM_POWER_LIMIT (R25, R454, R455): the chassis announces a power limit in W. [DEDUCED, log 89] -/
def Mach.pldmLimit (m : Mach) (watts : Nat) : Mach :=
  let m := if watts < 600 then m.toCp sdDie 0x51 false false [(16, watts)] else m
  let limit := min (max watts 600) (classRating m.pins.cool)
  let m := { m with pins := { m.pins with chassisW := some limit } }
  (m.wr .pwrCapPend sdDie (2 ^ 31 + limit)).setPending limit

/-- R457, R474: PWR_STATUS shows the die share of the cap that the die's governor applies. [DEDUCED, log 148] -/
def Mach.showShare (m : Mach) (d : Nat) : Mach := m.put Fld.pwrStatus_share_w d ((m.pwr d).cap * 54 / 100)

/-- APPLY_PENDING_CAP (R454): timer action 0x6 on a die applies the cap pending there, if any; with CD0 the Bludjan die follows and
CAP_APPLIED is sent. -/
def Mach.applyCap (m : Mach) (d : Nat) : Mach :=
  match m.takeAct d 6 with
  | (m, none) => m
  | (m, some _) =>
    match (m.pwr d).capPend with
    | none => m
    | some cap =>
    let m := (m.modPwr d (fun p => { p with cap, capPend := none })).showShare d
    let m := m.ev Fld.pwrEvents_cap_applied d
    if d ≠ 0 then m
    else
      let m := m.modPwr sdDie (fun p => { p with cap, capPend := none })
      let byChassis := match m.pins.chassisW with | some l => decide (l < classRating m.pins.cool) | none => false
      let m := (m.put Fld.pwrCap_cap_w sdDie cap).put Fld.pwrCap_chassis sdDie (b2n byChassis)
      (m.put Fld.pwrCapPend_valid sdDie 0).toCp sdDie 0x50 false false [(16, cap), (1, b2n byChassis)]

/-- PWR_CTL written by the CP firmware (R474). -/
def Mach.wrPwrCtl (m : Mach) (id : RegId) (w : RegW) : Mach :=
  if Fld.pwrCtl_gain.of w.new = 0 ∨ Fld.pwrCtl_droop_mv.of w.new < 2 then m.ev Fld.pwrEvents_cfg_err id.die else m.setReg id w.new

/-- PWR_NUT_CFG written (R474). -/
def Mach.wrNutCfg (m : Mach) (id : RegId) (w : RegW) : Mach :=
  if 100 < Fld.pwrNutCfg_floor_pct.of w.new ∨ Fld.pwrNutCfg_taper_ms.of w.new = 0 ∨ Fld.pwrNutCfg_grid_us.of w.new = 0 then
    m.ev Fld.pwrEvents_cfg_err id.die
  else m.setReg id w.new

/-! ### Measurement -/

/-- Ten thousand samples of 1 µs: the 10 ms of R465. -/
def histLen : Nat := 10000

/-- R460: a sample of a die's compute rail, its stacks and its optics. -/
def Mach.powerSample (m : Mach) (d compute : Nat) (stk : List Nat) (optics : Nat) : Mach :=
  let m := m.put Fld.pwrStatus_die_w d (satN 16 compute)
  let mem := (List.range 4).foldl (fun a s => a + satN 16 (stk.getD s 0) * 2 ^ (16 * s)) 0
  (m.wr .pwrMemW d mem).modPwr d (fun p =>
    { p with hist := (compute :: p.hist).take histLen, memory := ((stk.take 4).foldl (· + ·) 0 :: p.memory).take 10,
             optics := (optics :: p.optics).take 10 })

/-- Ten times the mean of the latest ten samples. -/
def tenOf (l : List Nat) : Nat := (l.take 10).foldl (· + ·) 0 * 10 / max 1 (l.take 10).length

/-- R460: the MC measures the Bludjan domain every 10 µs; the domains' powers over those 10 µs (0.25 W units) and their energies (µJ)
follow, of ten samples each. -/
def Mach.powerMc (m : Mach) (bludjan : Nat) : Mach :=
  let total (f : PwrSt → List Nat) : Nat := ((List.range 8).map (fun d => tenOf (f (m.pwr d)))).foldl (· + ·) 0
  let doms := [total (·.hist), total (·.memory), total (·.optics), 10 * bludjan]
  let m := m.wr .pwrDomainW sdDie ((doms.mapIdx (fun k p => satN 16 (p / 20) * 2 ^ (48 - 16 * k))).foldl (· + ·) 0)
  (doms.mapIdx (fun k p => (k, p))).foldl (fun m x =>
    let e := smGet 0 (m.pwr sdDie).energy x.1 + x.2
    (m.modPwr sdDie (fun p => { p with energy := smSet 0 p.energy x.1 e })).wr .pwrEnergy sdDie (e / 8 % 2 ^ 64) x.1) m

/-- R460: the estimators of a die's cores are rescaled, so that their estimates and the charged uncore sum to the measured
rail. [DEDUCED, log 88] -/
def Mach.rescale (m : Mach) (d : Nat) (activity : List Nat) (uncore : Nat) : Mach :=
  let sum := activity.foldl (· + ·) 0
  m.modPwr d (fun p => { p with est := { k := m.get Fld.pwrStatus_die_w d - uncore, s := max 1 sum, u := uncore } })

/-- A core's power from its activity over a window (R459, R460), exactly. [DEDUCED, log 88] -/
def Mach.corePower (m : Mach) (d activity : Nat) : Watts :=
  let e := (m.pwr d).est
  ⟨32 * activity * e.k + e.u * e.s, 32 * e.s⟩

/-! ### The governor -/

/-- R461: bubbles for a power against a share of `s / den`. -/
def bubblesFor (gain : Nat) (power : Watts) (s den : Nat) : Nat :=
  if s = 0 then (if power.num = 0 then 0 else 255)
  else min 255 (ceilDiv (256 * gain * (power.num * den - s * power.den)) (s * power.den))

/-- R464: the core cycles of droop bubbles that a die has taken. -/
def Mach.droopCycles (m : Mach) (d : Nat) : Nat :=
  let p := m.pwr d
  let now := 3 * m.pmu d
  if p.droop then p.droopSum + (now - p.droopAt) else p.droopSum - (p.droopEnd - now)

/-- Table 15.1: a unit's domain, its share as a numerator over a denominator from the cap. -/
def unitShare (unit cap : Nat) : Nat × Nat × Nat :=
  if unit < 32 then (0, cap * 54, 3200)
  else if unit < 36 then (1, cap * 7, 100)
  else if unit = 36 then (2, cap * 12, 100)
  else (3, cap * 48, 100)

/-- The thermal bubbles a unit takes (Table 15.3): key of the sensor on its die. [DEDUCED, log 87] -/
def thermKey (unit : Nat) : Nat := if unit < 32 then 0 else if unit < 36 then unit - 31 else if unit = 36 then 5 else 0

/-- What the governor holds of a unit. -/
def Mach.gov (m : Mach) (d u : Nat) : GovSt := smGet GovSt.init (m.pwr d).gov u

/-- GOVERNOR_WINDOW (R461 to R463, R471): unit 0 to 31 a core (with its activity), 32 to 35 a stack, 36 the optics, 37 the
Bludjan domain on die 8 (with their power over the previous window), with the gain of CD0.
[DEDUCED, log 127; DESIGN CHOICE, log 128; DESIGN CHOICE, log 134] -/
def Mach.governor (m : Mach) (d u input : Nat) : Mach :=
  let gain := m.get Fld.pwrCtl_gain (if d = sdDie then 0 else d)
  let cap := (m.pwr d).cap
  let (dom, s, den) := unitShare u cap
  let power := if u < 32 then m.corePower d input else ⟨input, 1⟩
  let b := bubblesFor gain power s den
  let b := if u < 32 then max b (bubblesFor gain ⟨m.get Fld.pwrStatus_die_w d, 1⟩ s 100) else b
  let total := max b (smGet 0 (m.pwr d).therm (thermKey u))
  let g := m.gov d u
  let now := m.pmu d
  let since := if total = 255 ∧ s * power.den < power.num * den then some (g.since.getD now) else none
  let exceeds := match since with | some t => decide (t + 200000 ≤ now) && !g.sent | none => false
  let sent := if total = 0 then false else g.sent || exceeds
  let new : GovSt := { bubbles := total, took := g.bubbles + (m.droopCycles d - g.droops), droops := m.droopCycles d, start := now, power, since, sent }
  let m := m.modPwr d (fun p => { p with gov := smSet GovSt.init p.gov u new })
  let m :=
    if u < 32 then
      let m := m.modCore d u (fun c => { c with vecBubbles := total, vecSlot := 0, arr := { c.arr with bubbles := total, slot := 0 } })
      let m := if b = 0 then m else (m.cnt .pwrCnt d 0).cnt .pwrCnt d 1 b
      m.put Fld.pwrStatus_bubbles d (satN 8 ((List.range 32).foldl (fun a c => max a (m.gov d c).took) 0))
    else if u < 36 then m.cnt .pwrCnt d 6 total
    else m
  if exceeds then
    let excess := (power.num * den - s * power.den) / (den * power.den)
    (if d = sdDie then m else m.ev Fld.pwrEvents_domain_over d).emitRec d 0x52 false false
      [(2, dom), (8, if u < 32 then coreNum d u else if u < 36 then d * 4 + (u - 32) else if u = 36 then d else 0), (16, satN 16 excess)]
      true false (m.slotList d)
  else m

/-- SUPPLY_DROOP (R464): the compute supply of a die is `drop` units of 10 mV below nominal. -/
def Mach.supplyDroop (m : Mach) (d drop : Nat) : Mach :=
  if drop ≤ m.get Fld.pwrCtl_droop_mv d ∨ (m.pwr d).droop then m
  else
    let m := (m.ev Fld.pwrEvents_droop d).cnt .pwrCnt d 2
    m.modPwr d (fun p => { p with droop := true, droopAt := max (3 * m.pmu d) p.droopEnd })

/-- DROOP_END (R464): the supply is back; the bubbles end `droop_len` × 4 cc later (0: 64 cc). -/
def Mach.droopEnd (m : Mach) (d : Nat) : Mach :=
  if !(m.pwr d).droop then m
  else
    let len := m.get Fld.pwrCtl_droop_len d
    let tail := if len = 0 then 64 else 4 * len
    let len := 3 * m.pmu d + tail - (m.pwr d).droopAt
    (m.cnt .pwrCnt d 3 len).modPwr d (fun p => { p with droop := false, droopEnd := 3 * m.pmu d + tail, droopSum := p.droopSum + len })

/-- R80, R464: an array cycle, which is a bubble while the die's supply droops. -/
def Mach.arrayCycle (m : Mach) (d c : Nat) (upset : Option (Nat × Nat × Nat)) (bad : Bool := false) : Mach :=
  if m.drooping d then m.cnt .arrCnt d 5 (c := c) else m.kGroup d c upset bad

/-! ### Nutmeg -/

/-- R465: the die waits at a marked point: a thread at a marked slot, or an operation of a marked group that still lacks data of its
peers. -/
def Mach.markedWait (m : Mach) (d : Nat) : Bool :=
  let slots := (m.dieThreads d).any (fun x => match x.2.wait with
    | .slot md s _ => if md then (m.rd .pwrNutMslot d).testBit s else (m.rd .pwrNutDslot d).testBit s
    | _ => false)
  let groups := (m.col d).ops.any (fun o => m.opWaits d o && (m.rd .pwrNutGrp d (o.group / 64)).testBit (o.group % 64))
  m.flag Fld.pwrNutCfg_enable d && (slots || groups)

/-- R466 to R468: the floor of a die now. -/
def Mach.floorNow (m : Mach) (d : Nat) : Nat :=
  match (m.pwr d).nut with
  | none => 0
  | some n =>
    let now := m.ft d
    match n.ramp, n.taper with
    | some r, _ =>
      if r.t0 + r.dur ≤ now ∨ r.dur = 0 then r.to_
      else
        let e : Int := (r.from_ : Int) + ((r.to_ : Int) - r.from_) * ((now - r.t0 : Nat) : Int) / r.dur
        e.toNat
    | none, some t =>
      let len := m.get Fld.pwrNutCfg_taper_ms d * 1000000
      n.f - n.f * min len (now - t) / len
    | none, none => n.f

/-- R465, R469: Nutmeg follows a die's waits: engaged with the first marked wait, disengaged when none remains; the ballast keeps its
floor until a core issues real work. [DEDUCED, log 127] -/
def Mach.nutmegFollow (m : Mach) (d : Nat) : Mach :=
  match (m.pwr d).nut, m.markedWait d with
  | none, true =>
    let h := (m.pwr d).hist
    let a := h.foldl (· + ·) 0 / max 1 h.length
    let f := m.get Fld.pwrNutCfg_floor_pct d * a / 100
    let m := m.modPwr d (fun p => { p with nut := some { a, f, t0 := m.ft d, taper := none, ramp := none }, ballast := 0 })
    ((m.put Fld.pwrStatus_nutmeg d 1).put Fld.pwrStatus_floor_w d (satN 16 f)).cnt .pwrCnt d 4
  | some _, false =>
    let kept := if m.flag Fld.pwrNutCfg_enable d then m.floorNow d else 0
    ((m.modPwr d (fun p => { p with nut := none, ballast := kept })).put Fld.pwrStatus_nutmeg d 0).put Fld.pwrStatus_floor_w d 0
  | _, _ => m

/-- PWR_STATUS shows the floor. -/
def Mach.showFloor (m : Mach) (d : Nat) : Mach :=
  if (m.pwr d).nut.isSome then m.put Fld.pwrStatus_floor_w d (satN 16 (m.floorNow d)) else m

/-- NUTMEG_TAPER_START (R467): the first multiple of `grid_us` at or after engagement has come. -/
def Mach.taperStart (m : Mach) (d : Nat) : Mach :=
  match (m.pwr d).nut with
  | none => m
  | some n =>
    let at_ := roundUp n.t0 (m.get Fld.pwrNutCfg_grid_us d * 1000)
    if n.taper.isSome ∨ m.ft d < at_ then m
    else (m.modPwr d (fun p => { p with nut := some { n with taper := some at_ } })).showFloor d

/-- NUTMEG_RAMP_START (R468): timer action 0x5. -/
def Mach.rampStart (m : Mach) (d : Nat) : Mach :=
  match m.takeAct d 5 with
  | (m, none) => m
  | (m, some a) =>
    let p := a.arg
    match (m.pwr d).nut, decide (p < 16) && m.flag Fld.pwrNutProf_valid d p with
    | some n, true =>
      let r : RampSt := { t0 := m.ft d, from_ := m.floorNow d, to_ := m.get Fld.pwrNutProf_level_pct d p * n.a / 100,
                          dur := m.get Fld.pwrNutProf_dur_us d p * 1000 }
      (m.modPwr d (fun x => { x with nut := some { n with ramp := some r } })).showFloor d
    | _, _ => m.cnt .pwrCnt d 7

/-- R110: a K group of a core's array is ready: the next of the main stream, of a correction, or of a tile that can open. -/
def Mach.groupReady (m : Mach) (d c : Nat) : Bool :=
  let a := m.arr d c
  match a.streaming with
  | some t =>
    match t.current, t.nextMiss with
    | some x, _ =>
      x.streamable && (t.nextBlock x x.pos).any (fun b => a.operandsHeld x b (if b = x.pos then x.grp else 0))
    | none, some (x, b) => !t.accepting && t.descs.all (fun x => x.toVerify == 0) && a.operandsHeld x b t.cgrp
    | none, none => false
  | none => (a.tiles.find? (fun t => !t.opened && t.err == 0)).any (fun t => a.tileReady t) &&
      (List.range 2).any (fun p => m.planeState d c p == plFree) && decide (a.openTiles.length < 2)

/-- R110: an array cycle in which no K group is ready. -/
def Mach.arrayIdle (m : Mach) (d c : Nat) : Bool := !m.groupReady d c

/-- The floor that ballast keeps: Nutmeg's while engaged, then its last one until a core issues real work (R469).
[DEDUCED, log 127] -/
def Mach.ballastFloor (m : Mach) (d : Nat) : Nat := if (m.pwr d).nut.isSome then m.floorNow d else (m.pwr d).ballast

/-- R466: a core may take ballast: it is no fenced one, its window has no bubble, of the governor, of heat or of a droop, and its power
and its die's are below their shares. -/
def Mach.ballastFree (m : Mach) (d c : Nat) : Bool :=
  let g := m.gov d c
  let cap := (m.pwr d).cap
  !m.fenced d c && g.bubbles == 0 && smGet 0 (m.pwr d).therm 0 == 0 && !m.drooping d && decide ((m.pwr d).droopEnd ≤ 3 * g.start) &&
    decide (m.get Fld.pwrStatus_die_w d * 100 < cap * 54) && decide (g.power.num * 3200 < cap * 54 * g.power.den)

/-- BALLAST_ISSUE (R466, R469, R110): one cycle of ballast on an idle array, while the die is below its floor. -/
def Mach.ballast (m : Mach) (d c : Nat) : Mach :=
  if m.ballastFree d c ∧ m.arrayIdle d c ∧ m.get Fld.pwrStatus_die_w d < m.ballastFloor d then
    (m.cnt .arrCnt d 6 (c := c)).cnt .pwrCnt d 5 |>.showFloor d
  else m

/-! ### Heat -/

/-- One sensor of Table 15.3: its key on the die, its row, its unit, its thresholds (throttle, shutdown), its reading. -/
structure Sensor where
  key : Nat
  row : Nat
  unit : Nat
  throttle : Nat
  shut : Nat
  temp : Nat
  deriving DecidableEq, Repr

/-- R471: bubbles at a reading at or above the threshold. [DEDUCED, log 87] -/
def throttleBubbles (t th : Nat) : Nat := min 255 (64 + 32 * ((t - th) / 4))

/-- R470 to R472: one sensor of a die is read. [DEDUCED, log 87] -/
def Mach.readSensor (m : Mach) (d : Nat) (s : Sensor) : Mach :=
  let old := smGet 0 (m.pwr d).therm s.key
  let b := if s.throttle ≤ s.temp then throttleBubbles s.temp s.throttle else if old ≠ 0 ∧ s.throttle ≤ s.temp + 8 then 64 else 0
  let m := m.modPwr d (fun p => { p with therm := smSet 0 p.therm s.key b })
  let rec_ (m : Mach) (start : Nat) : Mach :=
    m.emitRec d 0x53 false false [(3, s.row), (8, s.unit), (12, s.temp), (1, start)] true false (m.slotList d)
  let m := if old = 0 ∧ b ≠ 0 then (rec_ m 1).cnt .thmCnt d 8 else if old ≠ 0 ∧ b = 0 then rec_ m 0 else m
  if s.temp < s.shut then m.modPwr d (fun p => { p with hot := smSet 0 p.hot s.key 0 })
  else
    let was := smGet 0 (m.pwr d).hot s.key
    let m := (m.cnt .thmCnt d 10).modPwr d (fun p => { p with hot := smSet 0 p.hot s.key 1 })
    if was = 0 then m
    else (m.toCp d 0x54 false false [(3, s.row), (8, s.unit), (12, s.temp)]).withdraw 5 (d % 8)

/-- The sensors of a die with their readings: an Orlupo die's hottest junction, stacks and optical engine; the Bludjan die's junction and
its hottest GDDR7 device. -/
def sensorsOf (d tj : Nat) (stk : List Nat) (optics : Nat) : List Sensor :=
  if d = sdDie then [⟨0, 1, 0, 840, 920, tj⟩, ⟨6, 3, 0, 760, 840, stk.foldl max 0⟩]
  else ⟨0, 0, d, 840, 920, tj⟩ :: (List.range 4).map (fun s => ⟨1 + s, 2, d * 4 + s, 760, 840, stk.getD s 0⟩) ++
    [⟨5, 4, d, 640, 720, optics⟩]

/-- THERMAL_SAMPLE (R470): every sensor of a die is read. -/
def Mach.thermalSample (m : Mach) (d tj : Nat) (stk : List Nat) (optics : Nat) : Mach :=
  let m := (sensorsOf d tj stk optics).foldl (fun m s => m.readSensor d s) m
  let t := (m.pwr d).therm
  let mem := t.any (fun e => decide (1 ≤ e.1 ∧ e.1 ≤ 4) || e.1 == 6)
  let rest := t.any (fun e => e.1 == 0 || e.1 == 5)
  let m := if mem || rest then m.cnt .thmCnt d 9 10 else m
  let hottest := stk.foldl max 0
  let m := m.wr .thmStatus d (satN 12 tj * 2 ^ 52 + satN 12 hottest * 2 ^ 40 + (if d = sdDie then 0 else satN 12 optics * 2 ^ 28) +
    b2n (!(m.pwr d).hot.isEmpty) * 4 + b2n mem * 2 + b2n rest)
  if d = sdDie then m else m.put Fld.pwrStatus_thermal d (b2n (mem || rest))

end Sys2Proof.Machine
end

