-- ==== Sys2Proof/Machine/Reset.lean ====
section
/-! DEFINITION. Resets and aborts: a die reset (R306, R422, R478), what ABORT does to a partition's dies (R501), liveness beats
and watchdogs (R419, R421), die-to-die links (Table 14.3). -/

namespace Sys2Proof.Machine

/-! ### ABORT of a partition's dies -/

/-- The queues and engines of a core under ABORT: the descriptors discarded are counted. -/
def Mach.abortCore (m : Mach) (d c : Nat) : Mach × Nat :=
  let n := ((m.core d c).queues.map List.length).foldl (· + ·) 0
  let m := ((m.arrAbort d c).vecAbort d c).moverAbort d c
  let m := (List.range 3).foldl (fun m q =>
    let m := (m.modQueue d c q (fun _ => [])).showWait d c q
    (m.put Fld.cqSeq_completed d (m.get Fld.cqSeq_pushed d q c) q c).showOcc d c q) m
  let m := m.dropGrants (fun g => g.by_ == d && reqCore g.req == some c)
  (m.modCore d c (fun x => { x with engBuf := [], deadEng := [], capWaits := [], zmapOk := [], stalls := [[], [], []] }), n)

/-- The resident blocks of a core under ABORT: each faults with cause 0x08 (R197); they are counted. [DEDUCED, log 53] -/
def Mach.abortBlocks (m : Mach) (d c : Nat) : Mach × Nat :=
  ((m.core d c).blocks.filter (fun b => !b.ended)).foldl (fun (acc : Mach × Nat) b =>
    let pc := ((acc.1.thread d ⟨c, b.slot, 0⟩).map (·.pc)).getD 0
    (acc.1.blockFault d c b.slot 8 ⟨0, pc, 0, 0, 0, 0⟩, acc.2 + 1)) (m, 0)

/-- R501 on one die: every wait ends with no consumer served (R243), descriptors discarded, blocks faulted. -/
def Mach.abortDie (m : Mach) (d : Nat) : Mach × Nat × Nat :=
  let ncol := (m.die d).colQ.length
  let m := m.modDie d (fun x => { x with ctrWaits := [] })
  let (m, nd, nb) := (List.range 32).foldl (fun (acc : Mach × Nat × Nat) c =>
    let (m, n) := acc.1.abortCore d c
    let (m, b) := m.abortBlocks d c
    (m, acc.2.1 + n, acc.2.2 + b)) (m, ncol, 0)
  let m := m.modDie d (fun x => { x with colQ := [], colStalls := [], engineLost := [], engineBad := [] })
  let m := ((m.colAbort d).showOcc d 0 3).showWait d 0 3
  ((m.syncAbort d).cacheAbort d, nd, nb)

/-- The launch queues of a partition under ABORT: unread descriptors discarded, `head` and `done` set to the tail. -/
def Mach.abortLaunches (m : Mach) (p : Part) : Mach :=
  let m := m.modPart p.slot (fun x => { x with launches := [] })
  (List.range 16).foldl (fun m q =>
    let t := m.get Fld.lqTail_tail p.low q
    (m.put Fld.lqHead_head p.low t q).put Fld.lqHead_done p.low t q) m |>.drainSettle p.slot

/-- The launch descriptors of a partition that were announced and not read. [DEDUCED, log 92] -/
def Mach.unread (m : Mach) (p : Part) : Nat :=
  ((List.range 16).map (fun q => (m.get Fld.lqTail_tail p.low q + 65536 - m.get Fld.lqHead_head p.low q) % 65536)).foldl (· + ·) 0

/-- R501: ABORT on every die of a partition. -/
def Mach.abortPart (m : Mach) (p : Part) : Mach × Nat × Nat :=
  p.dies.foldl (fun (acc : Mach × Nat × Nat) d =>
    let (m, n, b) := acc.1.abortDie d
    (m, acc.2.1 + n, acc.2.2 + b)) (m.abortLaunches p, m.unread p, 0)

/-- Whether every engine of a partition is idle and no block is resident (R501). -/
def Mach.partIdle (m : Mach) (p : Part) : Bool :=
  p.dies.all (fun d => (m.die d).colQ.isEmpty && (m.col d).ops.isEmpty && (List.range 32).all (fun c =>
    let k := m.core d c
    k.blocks.all (·.ended) && k.queues.all List.isEmpty && k.movs.isEmpty && k.vec.run.isNone && k.arr.tiles.isEmpty))

/-! ### Die reset -/

/-- The registers of a die that the CP firmware's record holds (R476, Table 16.2): those that only it writes, the spare maps and
FAB_LOST apart, with the route registers and timers 0 to 15. FAB_LOST goes on being kept while the die is reset (R357). -/
def recordRegs (d : Nat) : List RegId :=
  let one (r : Reg) : List RegId := [⟨r, d, 0, 0, 0⟩]
  let many (r : Reg) (n : Nat) : List RegId := (List.range n).map (fun i => ⟨r, d, 0, i, 0⟩)
  one .cfgXlatRoot ++ one .dcPinQuota ++ (List.range 4).map (fun s => ⟨.hbmCfg, d, s, 0, 0⟩) ++ one .pwrCtl ++ one .fabNode ++
    one .fabDims ++ one .fabJob ++ one .fabRouteCtl ++ one .fabRouteSwitch ++ many .fabPortCtl 8 ++ many .fabDetourPend 64 ++
    many .fabDetour 64 ++ one .colCfg ++ one .snapCfg ++ one .snapTimes ++ one .snapWork ++
    many .ftTmrTgt 16 ++ many .ftTmrCtl 16

/-- R306: the die cache of `d` before its reset: home lines recalled from everywhere, dirty data written back, remote-class lines
dropped; what other dies ask of its home range waits until it serves again. -/
def Mach.flushDie (m : Mach) (d : Nat) : Mach :=
  let m := nineDies.foldl (fun m x =>
    if x = d then m
    else ((m.cache x).lines.filter (fun l => l.node.isNone && homeDie l.addr == d)).foldl (fun m l => m.recallFrom x l.addr) m) m
  let m := (m.cache d).lines.foldl (fun m l =>
    if l.node.isNone ∧ homeDie l.addr ≠ d then m.giveUp d l.addr else m.writeBack l (if l.node.isNone then l.dirty else 0)) m
  let k := m.cache d
  let m := (k.retry.filter (fun f => f.into != d)).foldl (fun m f => m.modCache f.into (fun c => { c with fills := c.fills ++ [f] })) m
  let m := nineDies.foldl (fun m x => (m.modCache x (fun c => { c with retry := c.retry.filter (fun f => f.into != d) })).retryOcc x) m
  let m := m.dropGrants (fun g => g.by_ == d)
  m.modCache d (fun _ => { CacheSt.init with deadWaiting := k.deadWaiting })

/-- R338: a margin run of a die ends; its sectors are zero, with valid check symbols and no poison. -/
def Mach.marginEnd (m : Mach) (d state written : Nat) : Mach :=
  match m.cp.margins.find? (fun x => x.die == d && x.state == 1) with
  | none => m
  | some x =>
    let swept (a : Nat) : Bool := isStacked a && (let h := hbmDecode a
      h.die == d && h.stack == x.stack && x.mask.testBit h.pch)
    let m := { m with mem := m.mem.filter (fun e => !swept e.1), ecc := m.ecc.filter (fun e => !swept (e.1 * 32)) }
    let sectors := ((List.range 64).filter (fun p => x.mask.testBit p)).length * pchSectors
    let m := (m.cnt .hbmCnt d 1 sectors (c := x.stack)).put Fld.hbmStatus_margining d 0 (c := x.stack)
    { m with cp := { m.cp with margins := m.cp.margins.map (fun y =>
      if y = x then { y with state, written, ended := m.ft sdDie } else y) } }

/-- The registers that a die reset keeps: those of the stochastic-rounding generators (R162), FAB_LOST, of which only the CP
firmware clears a bit (R357, R359), and where Saffron stands, whose work resumes after the reset (R434). [DEDUCED, log 144] -/
def keptRegs : List Nat :=
  [Reg.vecSrKey, .vecSrCtrLo, .vecSrCtrHi, .fabLost, .snapStatus, .snapStep, .snapCommit].map Reg.code

/-- DIE_RESET (R306, R354, R368, R422): caches written back, ports dark, blocks stopped without a record, every field of the die
at its reset value, the incarnation advanced. [DEDUCED, log 13; DEDUCED, log 144] -/
def Mach.dieReset (m : Mach) (d : Nat) : Mach :=
  if m.cp.resetting.testBit d ∨ 8 ≤ d then m
  else
    let was := m.moduleUnlocked
    let m := ((m.flushDie d).marginEnd d 3 0).disown d (fun _ => true)
    let keys := (recordRegs d).map RegId.key
    let saved := (smGet [] m.regs d).filter (fun e => keys.contains e.1)
    let m := { m with cp := { m.cp with saved := smSet [] m.cp.saved d saved, resetting := m.cp.resetting + 2 ^ d } }
    let m := m.dropRegs d (fun r _ => !keptRegs.contains r)
    let m := m.modDie d (fun x =>
      { Die.init with records := x.records, cache := x.cache, snap := x.snap,
                      fab := { FabSt.init with inc := (x.fab.inc + 1) % 2 ^ 16, sources := x.fab.sources, ports := litPorts x.fab.ports true },
                      pwr := { PwrSt.init with cap := x.pwr.cap, capPend := x.pwr.capPend } })
    let m := (List.range 32).foldl (fun m c => m.modCore d c (fun _ => Core.init)) m
    let m := match m.partOf d with
      | some p => if p.low = d then m.modPart p.slot (fun x => { x with launches := [] }) else m
      | none => m
    let m := if d = 0 then { m with mt := { m.mt with gm := false, heardAt := 0, ppsAt := none } } else m
    let m := nineDies.foldl (fun m x => if x = d then m else m.loseSource x (64 + d)) m
    m.moduleLockFollow was

/-- R478: the next target of a periodic timer after the reset; `now` is a reading of fabric time. -/
def nextTarget (tgt period now : Nat) : Nat := if period = 0 ∨ now ≤ tgt then tgt else tgt + roundUp (now - tgt) period

/-- The spare map of a core without spares: every skip field 0xFF. -/
def noSpare : W64 := 0xFFFFFFFF00#64

/-- R111: the spare map of a core after a die reset: from the fuses with the recorded soft repair, locked. -/
def Mach.reloadSpare (m : Mach) (d c : Nat) : Mach :=
  let fused := (smGet noSpare m.perm.spare (coreKey d c)).toNat
  let soft := smGet 0 m.sec.soft (coreKey d c)
  m.wr .arrSpareMap d (Fld.arrSpareMap_lock.into (if soft = 0 then fused else soft) 1) 0 c

/-- DIE_RESET_COMPLETE (R478, R111): the CP firmware rewrites its registers, reloads the spare maps, fences again what the
self-test fenced, and re-arms timers 2 to 7. [DEDUCED, log 13; DEDUCED, log 148] -/
def Mach.dieResetDone (m : Mach) (d : Nat) : Mach :=
  if !m.cp.resetting.testBit d then m
  else
    let saved := smGet [] m.cp.saved d
    let m := (recordRegs d).foldl (fun m id => m.setReg id (smGet (BitVec.ofNat 64 (resetOf id)) saved id.key).toNat) m
    let m := m.showShare d
    let now := m.ft sdDie
    let m := (List.range 6).foldl (fun m k =>
      let n := k + 2
      if m.flag Fld.ftTmrCtl_enable d n then
        m.wr .ftTmrTgt d (nextTarget (m.rd .ftTmrTgt d n) (m.timerPeriod d n) now) n
      else m) m
    let m := (List.range 32).foldl (fun m c =>
      let m := m.reloadSpare d c
      if smGet 0 m.sec.stFence (coreKey d c) = 1 then m.fenceCore d c 2 else m) m
    let m := (List.range 8).foldl (fun m p =>
      if m.flag Fld.fabPortCtl_disable d p then m.put Fld.fabPortStatus_state d psDisabled p else m) (m.axisRoles d)
    let held := (m.cache d).deadWaiting
    let m := held.foldl (fun m w => m.heldWrite w) (m.modCache d (fun c => { c with deadWaiting := [] }))
    let m : Mach := { m with cp := { m.cp with saved := smSet [] m.cp.saved d [], resetting := m.cp.resetting - 2 ^ d,
                                               beats := smSet 0 m.cp.beats d (m.pmu sdDie) } }
    let m := nineDies.foldl (fun m x => m.recordsDrain x) m
    let m := (List.range 8).foldl (fun m p => m.portWake d p) m
    m.parts.foldl (fun m p => m.drainResume p.low) m

/-! ### Liveness and watchdogs -/

/-- LIVENESS_BEAT (R419). -/
def Mach.beat (m : Mach) (d : Nat) : Mach := { m with cp := { m.cp with beats := smSet 0 m.cp.beats d (m.pmu sdDie) } }

/-- DIE_HANG_DETECT (R419): three beats of 1 ms (600 000 PMU cycles) are missing: the module withdraws when the die's partition runs a
job; the die is reset (Table 14.3). -/
def Mach.dieHang (m : Mach) (d : Nat) : Mach :=
  if m.cp.resetting.testBit d ∨ m.pmu sdDie < smGet 0 m.cp.beats d + 600000 then m
  else
    let m := m.beat d
    (if (m.partOf d).isSome ∧ m.flag Fld.fabJob_valid d then m.withdraw 1 d else m).dieReset d

/-- R488: a CP reset closes every mailbox; its rings read empty; the record is kept. [DEDUCED, log 93] -/
def Mach.cpReset (m : Mach) : Mach :=
  let m := { m with cp := { m.cp with expect := [], running := [], bells := [], ahead := [], doomed := [], aborts := [], abortRead := [], answers := [] } }
  (List.range 32).foldl (fun m k =>
    let m := (m.put Fld.mbxStatus_open sdDie 0 k).put Fld.mbxStatus_busy sdDie 0 k
    let m := m.put Fld.mbxStatus_major sdDie 0 k
    let m := m.put Fld.mbxReqHead_count sdDie (m.get Fld.mbxReqTail_tail sdDie k) k
    (m.put Fld.mbxRspTail_count sdDie (m.get Fld.mbxRspHead_count sdDie k) k).ev Fld.mbxEvents_closed_by_reset sdDie k) m

/-- CP_WATCHDOG_EXPIRE (R421): by the SP, once the CP firmware runs. -/
def Mach.cpWatchdog (m : Mach) : Mach := if m.sec.hung ∨ !m.cp.up then m else (m.withdraw 2 0).cpReset

/-- MC_WATCHDOG_EXPIRE (R417, R421): the SP resets the MC, once it runs; the governor holds its caps; the CP is told.
[DEDUCED, log 90] -/
def Mach.mcWatchdog (m : Mach) : Mach :=
  if m.sec.hung ∨ !m.pins.mcUp then m
  else
    let m := m.send 0x42 []
    { m with cp := { m.cp with mcHangs := m.cp.mcHangs + 1 } }

/-- SP_WATCHDOG_EXPIRE (R421, R510): the MC, once it runs, withdraws the module; the SP does nothing more until a cold reset. -/
def Mach.spWatchdog (m : Mach) : Mach :=
  if m.sec.hung ∨ !m.pins.mcUp then m
  else
    let m := m.withdraw 3 0
    { m with sec := { m.sec with hung := true } }

/-- D2D_BEAT_LOST (R421, R449, R537): the Bludjan die is lost: the Orlupo dies darken their ports, and choose their time sources
anew (R31). -/
def Mach.beatLost (m : Mach) : Mach := (List.range 8).foldl (fun m d => m.selectSource d) m.bludjanLost

/-! ### Die-to-die links -/

/-- The D2D_LINK record (Table 14.2): 0 restored, 1 one link of the pair lost, 2 both (or the only one) lost. -/
def Mach.d2dRec (m : Mach) (a b l state : Nat) : Mach :=
  m.toCp a 0x38 true false [(3, a), (4, b), (1, l), (2, state)]

/-- D2D_LINK_FAULT (R417): link `l` between dies `a` < `b` fails; a pair without a link carries no time (R31, R32). -/
def Mach.d2dFault (m : Mach) (a b l : Nat) : Mach :=
  if d2dLinks a b ≤ l ∨ b ≤ a ∨ m.mt.d2dDown.contains (a, b, l) then m
  else
    let m := { m with mt := { m.mt with d2dDown := m.mt.d2dDown ++ [(a, b, l)] } }
    let up := m.d2dUp a b
    let m := m.d2dRec a b l (if up then 1 else 2)
    if up then m else (m.loseSource a (64 + b)).loseSource b (64 + a)

/-- D2D_LINK_RESTORED. -/
def Mach.d2dRestored (m : Mach) (a b l : Nat) : Mach :=
  if !m.mt.d2dDown.contains (a, b, l) then m
  else
    let m := { m with mt := { m.mt with d2dDown := m.mt.d2dDown.erase (a, b, l) } }
    m.d2dRec a b l 0

end Sys2Proof.Machine
end

