-- ==== Sys2Proof/Machine/Mailbox.lean ====
section
/-! DEFINITION. The mailboxes (spec/16): slots, doorbells, the checks of a request, responses, ABORT as a request that is served
ahead of its turn. -/

namespace Sys2Proof.Machine

/-! ### Slots -/

/-- A word of the slot memory (R479, R484): `off` is an offset from 0x0008_0000 of the Bludjan window. -/
def Mach.slotNum (m : Mach) (off n : Nat) : Nat := ofBytes ((List.range n).map (fun i => smGet 0#8 m.cp.slots (off + i)))

/-- Write bytes of the slot memory. -/
def Mach.slotWrite (m : Mach) (off : Nat) (bs : List Byte) : Mach :=
  { m with cp := { m.cp with slots := (bs.mapIdx (fun i b => (i, b))).foldl (fun s x => smSet 0#8 s (off + x.1) x.2) m.cp.slots } }

/-- R479: where request slot of a count lies; the response slot lies 0x800 above. -/
def slotAt (k count : Nat) : Nat := 0x1000 * k + 128 * (count % 16)

/-- A request as its slot holds it (Table 16.3). -/
structure MbxReq where
  mbx : Nat
  count : Nat
  opcode : Nat
  quiet : Bool
  length : Nat
  seq : Nat
  deadline : Nat
  words : List Nat
  deriving DecidableEq, Repr

/-- The request of mailbox `k` whose count is `count`. -/
def Mach.request (m : Mach) (k count : Nat) : MbxReq :=
  let a := slotAt k count
  let w0 := m.slotNum a 8
  { mbx := k, count, opcode := bitsOf w0 63 56, quiet := bitOf w0 48, length := bitsOf w0 39 32, seq := bitsOf w0 31 0,
    deadline := m.slotNum (a + 8) 8, words := (List.range 14).map (fun p => m.slotNum (a + 16 + 8 * p) 8) }

/-- A payload word of a request. -/
def pword (ws : List Nat) (i : Nat) : Nat := ws.getD i 0

/-- A field of a payload word. -/
def pfield (ws : List Nat) (i hi lo : Nat) : Nat := bitsOf (pword ws i) hi lo

/-- The partition slot that a request names (Table 16.6). -/
def namedSlot (opcode : Nat) (ws : List Nat) : Option Nat :=
  if [0x11, 0x12, 0x13, 0x14, 0x20, 0x21].contains opcode then some (pfield ws 0 3 0)
  else if opcode = 3 ∧ pfield ws 2 3 0 < 8 then some (pfield ws 2 3 0)
  else none

/-- Table 16.6, Table 17.5: the payload length in words that a request must have. -/
def requestWords (opcode : Nat) (ws : List Nat) : Nat :=
  match opcode with
  | 0x01 => 1 | 0x02 => 1 | 0x03 => 4 | 0x10 => 2 | 0x11 => 1 | 0x12 => 10 | 0x13 => 1 | 0x14 => 1 | 0x15 => 5
  | 0x20 => 5 | 0x21 => 5 | 0x30 => 3 | 0x31 => 1 | 0x32 => 1 | 0x40 => 1 | 0x41 => 0 | 0x42 => 3
  | _ => if pfield ws 0 3 0 = 1 then 3 else 1

/-- Table 16.5: the opcodes of major version 1. -/
def opcodes : List Nat :=
  [0x01, 0x02, 0x03, 0x10, 0x11, 0x12, 0x13, 0x14, 0x15, 0x20, 0x21, 0x30, 0x31, 0x32, 0x40, 0x41, 0x42, 0x43]

/-- Table 16.5: the commands that partition mailboxes and that mailbox 31 may send; mailbox 0 may send every command. -/
def mayPartition (opcode : Nat) : Bool := [0x01, 0x02, 0x03, 0x12, 0x13, 0x14, 0x20, 0x21, 0x41, 0x42].contains opcode
def mayRelay (opcode : Nat) : Bool := [0x01, 0x02, 0x14, 0x40, 0x41, 0x42].contains opcode

/-! ### Status codes (Table 16.4) -/

abbrev mbOk : Nat := 0x00
abbrev mbClamped : Nat := 0x01
abbrev mbUnknown : Nat := 0x02
abbrev mbLength : Nat := 0x03
abbrev mbSequence : Nat := 0x04
abbrev mbNotOpen : Nat := 0x05
abbrev mbNoVersion : Nat := 0x06
abbrev mbDenied : Nat := 0x07
abbrev mbBadArg : Nat := 0x08
abbrev mbBusy : Nat := 0x09
abbrev mbNoResource : Nat := 0x0A
abbrev mbDeadline : Nat := 0x0B
abbrev mbAborted : Nat := 0x0C
abbrev mbRejected : Nat := 0x0D
abbrev mbEscalated : Nat := 0x0E
abbrev mbFailed : Nat := 0x0F
abbrev mbDebugRefused : Nat := 0x10

/-! ### Ring indices -/

/-- Requests that were announced and not taken. -/
def Mach.mbxHead (m : Mach) (k : Nat) : Nat := m.get Fld.mbxReqHead_count sdDie k
def Mach.mbxTail (m : Mach) (k : Nat) : Nat := m.get Fld.mbxReqTail_tail sdDie k

/-- MBX_REQ_TAIL written (R481): ignored when more than 16 requests would be announced; a tail that moves back takes back those behind it
that have not been taken. [DEDUCED, log 93] -/
def Mach.wrReqTail (m : Mach) (id : RegId) (w : RegW) : Mach :=
  let k := id.i
  let head := m.mbxHead k
  let old := Fld.mbxReqTail_tail.of w.old
  let new := Fld.mbxReqTail_tail.of w.new
  let ahead := (new + 2 ^ 16 - head) % 2 ^ 16
  let was := (old + 2 ^ 16 - head) % 2 ^ 16
  let kept (b : Nat × Nat) : Bool := b.1 != k || decide ((b.2 + 2 ^ 16 - head) % 2 ^ 16 < ahead)
  if 16 < ahead then m.ev Fld.mbxEvents_doorbell_err sdDie k
  else
    let m := m.setReg id w.new
    { m with cp := { m.cp with bells := m.cp.bells.filter kept ++ (List.range (ahead - was)).map (fun i => (k, (old + i) % 2 ^ 16)),
                               doomed := m.cp.doomed.filter kept } }

/-- MBX_RSP_HEAD written (R508): ignored when it would pass the tail; the ABORT responses that it passes have been read (R503). -/
def Mach.wrRspHead (m : Mach) (id : RegId) (w : RegW) : Mach :=
  let k := id.i
  let old := Fld.mbxRspHead_count.of w.old
  let moved := (Fld.mbxRspHead_count.of w.new + 2 ^ 16 - old) % 2 ^ 16
  let held := (m.get Fld.mbxRspTail_count sdDie k + 2 ^ 16 - old) % 2 ^ 16
  if held < moved then m.ev Fld.mbxEvents_rsp_err sdDie k
  else
    let read (a : Nat × Nat × Nat) : Bool := a.2.1 == k && decide ((a.2.2 + 2 ^ 16 - old) % 2 ^ 16 < moved)
    { m.setReg id w.new with cp := { m.cp with abortRead := m.cp.abortRead.filter (fun a => !read a) } }

/-- Commands of a mailbox that have been taken and not answered, ABORTs included. -/
def Mach.mbxOwed (m : Mach) (k : Nat) : Nat :=
  (m.cp.running.filter (fun c => c.mbx == k)).length + ((m.cp.aborts.flatMap (·.cmds)).filter (fun c => c.mbx == k)).length

/-- R482: a response slot is free for one more request. -/
def Mach.rspFree (m : Mach) (k : Nat) : Bool :=
  decide ((m.get Fld.mbxRspTail_count sdDie k + 2 ^ 16 - m.get Fld.mbxRspHead_count sdDie k) % 2 ^ 16 + m.mbxOwed k < 16)

/-- MBX_STATUS.`busy` follows the commands in progress. -/
def Mach.mbxBusy (m : Mach) (k : Nat) : Mach := m.put Fld.mbxStatus_busy sdDie (b2n (decide (0 < m.mbxOwed k))) k

/-- The next `seq` that a mailbox accepts (R483). -/
def Mach.expected (m : Mach) (k : Nat) : Nat := smGet 0 m.cp.expect k

def Mach.setExpected (m : Mach) (k seq : Nat) : Mach := { m with cp := { m.cp with expect := smSet 0 m.cp.expect k (seq % 2 ^ 32) } }

/-- Move the head of a request ring over one request. -/
def Mach.mbxAdvance (m : Mach) (k : Nat) : Mach :=
  let h := m.mbxHead k
  let m := m.put Fld.mbxReqHead_count sdDie ((h + 1) % 2 ^ 16) k
  { m with cp := { m.cp with bells := m.cp.bells.erase (k, h), ahead := m.cp.ahead.erase (k, h), doomed := m.cp.doomed.erase (k, h) } }

/-- R480: the head moves over requests that were taken ahead of their turn, once every earlier request has been taken; each has
used its `seq` if it was due (R483). -/
def Mach.mbxSkip (m : Mach) (k : Nat) : Nat → Mach
  | 0 => m
  | fuel + 1 =>
    let h := m.mbxHead k
    if m.cp.ahead.contains (k, h) then
      let r := m.request k h
      let m := if m.flag Fld.mbxStatus_open sdDie k && r.seq == m.expected k then m.setExpected k (r.seq + 1) else m
      (m.mbxAdvance k).mbxSkip k fuel
    else m

/-! ### Responses -/

/-- R484, R507: the response to a command, its interrupt, and what follows for its ring. -/
def Mach.respond (m : Mach) (c : MbxCmd) (status : Nat) (ws : List Nat) : Mach :=
  let k := c.mbx
  let t := m.get Fld.mbxRspTail_count sdDie k
  let w0 := c.opcode * 2 ^ 56 + status * 2 ^ 48 + 8 * ws.length * 2 ^ 32 + c.seq
  let m := m.slotWrite (slotAt k t + 0x800) ((w0 :: m.ft sdDie :: ws).flatMap (toBytes 8))
  let m := m.put Fld.mbxRspTail_count sdDie ((t + 1) % 2 ^ 16) k
  let m := { m with cp := { m.cp with running := m.cp.running.filter (fun x => x != c) } }
  let m := (m.mbxBusy k).mbxSkip k 16
  if m.flag Fld.mbxCfg_intr_en sdDie k && !c.quiet then m.interrupt (m.get Fld.mbxCfg_intr sdDie k) else m

/-- The command that a request becomes when it is taken. -/
def Mach.started (m : Mach) (r : MbxReq) : MbxCmd :=
  { mbx := r.mbx, count := r.count, opcode := r.opcode, seq := r.seq, quiet := r.quiet, words := r.words, start := m.ft sdDie }

/-- R489: the answer to an out-of-range or inconsistent field: no effect; the word and its lowest bit. -/
def Mach.badArg (m : Mach) (word bit : Nat) : Mach × Nat × List Nat := (m, mbBadArg, [word + bit * 2 ^ 8])

/-- Run the command of an opcode that is in progress on a mailbox, and answer it. [DEDUCED, log 91] -/
def Mach.mbxRun (m : Mach) (k op : Nat) (f : Mach → MbxCmd → Mach × Nat × List Nat) : Mach :=
  match m.cp.running.find? (fun c => c.mbx == k && c.opcode == op) with
  | none => m
  | some c =>
    let (m, status, ws) := f m c
    m.respond c status ws

/-! ### Taking a request -/

/-- Whether an `OPEN` may be served at all on a mailbox (R488). -/
def Mach.mbxBound (m : Mach) (k : Nat) : Bool := k == 0 || k == 31 || m.get Fld.mbxStatus_part sdDie k != 0xF

/-- R486: a mailbox may send a command. -/
def Mach.mayrequest (m : Mach) (r : MbxReq) : Bool :=
  if r.mbx = 0 then true
  else if r.mbx = 31 then mayRelay r.opcode
  else
    let own := m.get Fld.mbxStatus_part sdDie r.mbx
    let dies := match m.partAt own with | some p => p.dieMask | none => 0
    mayPartition r.opcode && m.mbxBound r.mbx && (match namedSlot r.opcode r.words with | some s => s == own | none => true) &&
      (r.opcode != 0x42 || (List.range 9).all (fun d => !bitOf (pword r.words 1) (16 + d) || dies.testBit d))

/-- R483 to R488: why a request is answered without being started, in the order: ended by an ABORT, open, sequence, opcode,
permission, length, deadline. `open_` and `expect` are the mailbox's in its ring order. [DEDUCED, log 91] -/
def Mach.verdict (m : Mach) (r : MbxReq) (open_ : Bool) (expect : Nat) : Option (Nat × List Nat) :=
  if m.cp.doomed.contains (r.mbx, r.count) then some (mbAborted, [])
  else if !open_ && r.opcode != 0x01 then some (mbNotOpen, [])
  else if r.opcode != 0x01 && r.seq != expect then some (mbSequence, [expect])
  else if !opcodes.contains r.opcode then some (mbUnknown, [])
  else if !m.mayrequest r then some (mbDenied, [])
  else if r.length != 8 * requestWords r.opcode r.words then some (mbLength, [])
  else if r.deadline != 0 && decide (r.deadline < m.ft sdDie) then some (mbDeadline, [])
  else none

/-- R482: a request waits for another command that names its partition: one in progress, an ABORT in progress, or one announced
earlier on another mailbox. -/
def Mach.partitionBusy (m : Mach) (r : MbxReq) : Bool :=
  match namedSlot r.opcode r.words with
  | none => false
  | some s =>
    m.aborting s || m.cp.running.any (fun c => namedSlot c.opcode c.words == some s) ||
      (m.cp.bells.takeWhile (fun b => b != (r.mbx, r.count))).any (fun b =>
        let q := m.request b.1 b.2
        b.1 != r.mbx && !m.cp.ahead.contains b && namedSlot q.opcode q.words == some s)

/-! ### ABORT as a request -/

/-- R487: the words of an OPEN name a range with major version 1. -/
def openAccepts (ws : List Nat) : Bool := decide (pfield ws 0 47 32 ≤ 1) && decide (1 ≤ pfield ws 0 63 48)

/-- A mailbox's `open` and expected `seq` after `n` requests of its ring from a count (R483): each that is due uses its `seq`. -/
def Mach.ringFold (m : Mach) (k start n : Nat) (st : Bool × Nat) : Bool × Nat :=
  (List.range n).foldl (fun (acc : Bool × Nat) i =>
    let r := m.request k ((start + i) % 2 ^ 16)
    if r.opcode = 0x01 then (if m.mbxBound k && openAccepts r.words then (true, (r.seq + 1) % 2 ^ 32) else acc)
    else if acc.1 && r.seq == acc.2 then (true, (acc.2 + 1) % 2 ^ 32)
    else acc) st

/-- What a mailbox's `open` and expected `seq` will be when its ring has been served up to a count, an OPEN in progress included (R483). -/
def Mach.ringState (m : Mach) (k count : Nat) : Bool × Nat :=
  let now := (m.flag Fld.mbxStatus_open sdDie k, m.expected k)
  let upTo (start : Nat) (st : Bool × Nat) : Bool × Nat := m.ringFold k start ((count + 2 ^ 16 - start) % 2 ^ 16) st
  match m.cp.running.find? (fun c => c.mbx == k && c.opcode == 0x01) with
  | some c => upTo ((c.count + 1) % 2 ^ 16) (if openAccepts c.words then (true, (c.seq + 1) % 2 ^ 32) else now)
  | none => upTo (m.mbxHead k) now

/-- The oldest ABORT request of a mailbox that has not been taken. -/
def Mach.abortRequest (m : Mach) (k : Nat) : Option MbxReq :=
  let h := m.mbxHead k
  ((List.range ((m.mbxTail k + 2 ^ 16 - h) % 2 ^ 16)).map (fun i => m.request k ((h + i) % 2 ^ 16))).find? (fun r =>
    r.opcode == 0x14 && !m.cp.ahead.contains (k, r.count))

/-- R502: commands announced that name the partition are marked to end with ABORTED. [DEDUCED, log 92] -/
def Mach.doomQueued (m : Mach) (slot : Nat) : Mach :=
  let queued := m.cp.bells.filter (fun b =>
    let q := m.request b.1 b.2
    q.opcode != 0x14 && !m.cp.ahead.contains b && namedSlot q.opcode q.words == some slot)
  { m with cp := { m.cp with doomed := m.cp.doomed ++ queued.filter (fun b => !m.cp.doomed.contains b) } }

/-- R502: commands in progress that name the partition end with ABORTED, and those announced are marked to. A restore in progress
ends with nothing installed (R439). [DEDUCED, log 92] -/
def Mach.abortOthers (m : Mach) (slot : Nat) : Mach :=
  let m := m.doomQueued slot
  let m := match m.partAt slot with
    | some p => if m.cp.running.any (fun c => c.opcode == 0x21 && namedSlot c.opcode c.words == some slot) then
        m.put Fld.snapStatus_restoring p.low 0
      else m
    | none => m
  (m.cp.running.filter (fun c => namedSlot c.opcode c.words == some slot)).foldl (fun m c => m.respond c mbAborted []) m

/-- R502: an ABORT whose answer has been settled by another of its partition. [DEDUCED, log 92] -/
def Mach.abortSettled (m : Mach) (c : MbxCmd) : Option (Nat × List Nat) :=
  (m.cp.answers.find? (fun a => a.1 == c.mbx && a.2.1 == c.count)).map (·.2.2)

/-- R500 to R502: an ABORT that passed its checks starts; a second one of the same partition waits for the first. -/
def Mach.abortBegin (m : Mach) (c : MbxCmd) : Mach :=
  let slot := pfield c.words 0 3 0
  match m.partAt slot with
  | none => m.respond c mbBadArg [0]
  | some p =>
    if m.aborting slot then
      { m with cp := { m.cp with aborts := m.cp.aborts.map (fun a => if a.slot = slot then { a with cmds := a.cmds ++ [c] } else a) } }
    else
      let m := m.abortOthers slot
      let (m, descs, blocks) := m.abortPart p
      { m with cp := { m.cp with aborts := m.cp.aborts ++ [⟨slot, [c], m.pmu sdDie, descs, blocks, 0⟩] } }

/-- R502: the answer of an ABORT of a slot, which software has then to read (R503). -/
def Mach.abortAnswer (m : Mach) (slot : Nat) (c : MbxCmd) (status : Nat) (ws : List Nat) : Mach :=
  let m := { m with cp := { m.cp with abortRead := m.cp.abortRead ++ [(slot, c.mbx, m.get Fld.mbxRspTail_count sdDie c.mbx)] } }
  m.respond c status ws

/-- An ABORT starts, or gets the answer that has been settled for it. [DEDUCED, log 92] -/
def Mach.abortStart (m : Mach) (c : MbxCmd) : Mach :=
  match m.abortSettled c with
  | none => m.abortBegin c
  | some (status, ws) =>
    let m := { m with cp := { m.cp with answers := m.cp.answers.filter (fun a => !(a.1 == c.mbx && a.2.1 == c.count)) } }
    m.abortAnswer (pfield c.words 0 3 0) c status ws

/-- ABORT: the oldest ABORT request of a mailbox is taken ahead of earlier requests and started, or answered. [DEDUCED, log 92] -/
def Mach.abortTake (m : Mach) (k : Nat) : Mach :=
  match m.abortRequest k with
  | none => m
  | some r =>
    if !m.rspFree k then m
    else
      let st := m.ringState k r.count
      let m := { m with cp := { m.cp with ahead := m.cp.ahead ++ [(k, r.count)] } }
      let c := m.started r
      let m := match m.verdict r st.1 st.2 with
        | some (status, ws) => m.respond c status ws
        | none => m.abortStart c
      (m.mbxSkip k 16).mbxBusy k

/-- The ABORT of a slot ends: every request that waited for it gets its status and counts (R502). [DEDUCED, log 92] -/
def Mach.abortEnd (m : Mach) (a : AbortSt) (status : Nat) : Mach :=
  let m := { m with cp := { m.cp with aborts := m.cp.aborts.filter (fun x => x.slot != a.slot) } }
  a.cmds.foldl (fun m c => m.abortAnswer a.slot c status [a.reset, a.descs % 2 ^ 32, a.blocks % 2 ^ 32]) m

/-- The ABORTs of a slot that are announced and have not been taken. -/
def Mach.abortDue (m : Mach) (slot : Nat) : List (Nat × Nat) :=
  m.cp.bells.filter (fun b => !m.cp.ahead.contains b && (m.request b.1 b.2).opcode == 0x14 && pfield (m.request b.1 b.2).words 0 3 0 == slot)

/-- R502: the ABORTs of a slot that were announced before the first one completes are taken, with those before them in their rings,
and share its answer. [DEDUCED, log 92] -/
def Mach.abortTwins (m : Mach) (slot : Nat) : Mach :=
  let due (b : Nat × Nat) : Bool := !m.cp.ahead.contains b && (m.request b.1 b.2).opcode == 0x14
  (m.cp.bells.filter (fun b => due b && (m.abortDue slot).any (fun t => t.1 == b.1))).foldl (fun m b => m.abortTake b.1) m

/-- The ABORT of a slot ends, with the dies it reset: its twins are answered with it, those without a free response slot once they have
one. [DEDUCED, log 92] -/
def Mach.abortFinish (m : Mach) (slot reset status : Nat) : Mach :=
  let m := m.abortTwins slot
  match m.cp.aborts.find? (fun a => a.slot == slot) with
  | some a =>
    let late := (m.abortDue slot).map (fun b => (b.1, b.2, status, [reset, a.descs % 2 ^ 32, a.blocks % 2 ^ 32]))
    ({ m with cp := { m.cp with answers := m.cp.answers ++ late } } : Mach).abortEnd { a with reset } status
  | none => m

/-- ABORT_COMPLETE (R501): every engine is idle and no block is resident. -/
def Mach.abortComplete (m : Mach) (slot : Nat) : Mach :=
  match m.partAt slot with
  | some p => if m.aborting slot && m.partIdle p then (m.abortLaunches p).abortFinish slot 0 mbOk else m
  | none => m

/-- ABORT_ESCALATE (R451, R501): 2 ms (400 000 PMU cycles) after its start the ABORT resets every die of the partition. -/
def Mach.abortEscalate (m : Mach) (slot : Nat) : Mach :=
  match m.cp.aborts.find? (fun a => a.slot == slot), m.partAt slot with
  | some a, some p =>
    if m.pmu sdDie < a.start + 400000 then m
    else (p.dies.foldl (fun m d => m.dieReset d) m).abortFinish slot p.dieMask mbEscalated
  | _, _ => m

/-- R482: a command of a mailbox is in progress, an ABORT among them. [DEDUCED, log 92] -/
def Mach.mbxRunning (m : Mach) (k : Nat) : Bool := m.cp.running.any (fun c => c.mbx == k) || m.cp.aborts.any (fun a => a.cmds.any (fun c => c.mbx == k))

/-- MAILBOX_REQUEST_TAKE (R482 to R488): the next request of a mailbox is taken, and started or answered. -/
def Mach.mbxTake (m : Mach) (k : Nat) : Mach :=
  let m := m.mbxSkip k 16
  let h := m.mbxHead k
  let r := m.request k h
  if h = m.mbxTail k ∨ m.mbxRunning k ∨ !m.rspFree k then m
  else if r.opcode = 0x14 then m.abortTake k
  else
    let open_ := m.flag Fld.mbxStatus_open sdDie k
    let v := m.verdict r open_ (m.expected k)
    if v.isNone ∧ m.partitionBusy r then m
    else
      let c := m.started r
      let m := if open_ && r.opcode != 0x01 && r.seq == m.expected k then m.setExpected k (r.seq + 1) else m
      let m := m.mbxAdvance k
      match v with
      | some (status, ws) => m.respond c status ws
      | none =>
        let m := { m with cp := { m.cp with running := m.cp.running ++ [c] } }
        let m := match m.partAt (pfield c.words 0 3 0) with
          | some p => if c.opcode = 0x21 then m.put Fld.snapStatus_restoring p.low 1 else m
          | none => m
        m.mbxBusy k

/-- MC_RELAY_REQUEST (R481): the MC writes a request into mailbox 31 and rings. -/
def Mach.mcRelay (m : Mach) (ws : List Nat) : Mach :=
  let t := m.mbxTail 31
  if 16 ≤ (t + 2 ^ 16 - m.mbxHead 31) % 2 ^ 16 then m.ev Fld.mbxEvents_doorbell_err sdDie 31
  else
    let m := m.slotWrite (slotAt 31 t) ((ws.take 16).flatMap (toBytes 8))
    m.wrReqTail ⟨.mbxReqTail, sdDie, 0, 31, 0⟩ ⟨.mc, t, (t + 1) % 2 ^ 16, (t + 1) % 2 ^ 16, 2 ^ 32 - 1⟩

end Sys2Proof.Machine
end

