-- ==== Sys2Proof/Machine/Commands.lean ====
section
/-! DEFINITION. The commands of the CP firmware (spec/16): what each does and answers (Tables 16.5 to 16.8), restore (R439 to
R444) and margining (R338, R339) apart. -/

namespace Sys2Proof.Machine

/-! ### Writes of the CP firmware -/

/-- The value of a CP-only register as the CP firmware's record has it: of a die in reset, the one to be restored.
[DEDUCED, log 13] -/
def Mach.cpReg (m : Mach) (id : RegId) : Nat :=
  if m.cp.resetting.testBit id.die then (smGet (BitVec.ofNat 64 (resetOf id)) (smGet [] m.cp.saved id.die) id.key).toNat else m.reg id

/-- The CP firmware writes one of its registers; of a die in reset it changes its record, which R478 writes back.
[DEDUCED, log 13] -/
def Mach.cpWrite (m : Mach) (id : RegId) (v : Nat) : Mach :=
  if m.cp.resetting.testBit id.die then
    { m with cp := { m.cp with saved := smMod [] m.cp.saved id.die (fun r =>
      smSet (BitVec.ofNat 64 (resetOf id)) r id.key (BitVec.ofNat 64 v)) } }
  else
    let w : RegW := ⟨.cp, m.reg id, v, v, 2 ^ 64 - 1⟩
    match id.reg with
    | .fabNode | .fabDims => m.wrFabNode id w
    | .fabPortCtl => m.wrPortCtl id w
    | .pwrCtl => m.wrPwrCtl id w
    | .hbmCfg => m.wrHbmCfg id w
    | .fabRouteCtl => m.wrRouteCtl id w
    | .fabRouteSwitch | .fabDetourPend => m.wrRoutePend id w
    | .ftTmrTgt => m.wrTmrTgt id w
    | .ftTmrCtl => m.wrTmrCtl id w
    | .dcPinQuota => m.wrPinQuota id w
    | _ => m.setReg id v

/-- The CP firmware sets one field of one of its registers. -/
def Mach.cpPut (m : Mach) (f : Fld) (d v : Nat) (i : Nat := 0) (c : Nat := 0) : Mach :=
  let id : RegId := ⟨f.reg, d, c, i, 0⟩
  m.cpWrite id (f.into (m.cpReg id) v)

/-- The eight Orlupo dies. -/
abbrev orlupo : List Nat := List.range 8

/-! ### OPEN and QUERY -/

/-- OPEN (R487). -/
def Mach.cmdOpen (m : Mach) (c : MbxCmd) : Mach × Nat × List Nat :=
  let ws := c.words
  if !openAccepts ws then (m, mbNoVersion, [])
  else
    let m := (m.put Fld.mbxStatus_open sdDie 1 c.mbx).put Fld.mbxStatus_major sdDie 1 c.mbx
    let next := (c.count + 1) % 2 ^ 16
    let passed := (m.mbxHead c.mbx + 2 ^ 16 - next) % 2 ^ 16
    let m := m.setExpected c.mbx (m.ringFold c.mbx next passed (true, (c.seq + 1) % 2 ^ 32)).2
    (m, mbOk, [2 ^ 48 + Config.mbxMinor.toNat % 2 ^ 16 * 2 ^ 32, 7, m.get Fld.bootFw_build sdDie 3])

/-- A word of QUERY item 1: the partition of a slot. -/
def Mach.partWord (m : Mach) (s : Nat) : Nat :=
  match m.partAt s with
  | none => 0
  | some p =>
    let job := m.cpReg ⟨.fabJob, p.low, 0, 0, 0⟩
    2 ^ 63 + Fld.fabJob_valid.of job * 2 ^ 62 + Fld.fabJob_job.of job * 2 ^ 32 + p.mailbox * 2 ^ 8 + p.dieMask

/-- A version as QUERY item 3 lays it out, from BOOT_FW. [DESIGN CHOICE, log 96] -/
def Mach.fwVersion (m : Mach) (t : Nat) : Nat :=
  m.get Fld.bootFw_major sdDie t * 2 ^ 48 + m.get Fld.bootFw_minor sdDie t * 2 ^ 32 + m.get Fld.bootFw_build sdDie t

/-- QUERY. [DESIGN CHOICE, log 96] -/
def Mach.cmdQuery (m : Mach) (c : MbxCmd) : Mach × Nat × List Nat :=
  let pad (l : List Nat) : List Nat := (l ++ List.replicate 14 0).take 14
  match pfield c.words 0 7 0 with
  | 0 => (m, mbOk, pad [m.get Fld.bootId_stepping sdDie, m.perm.serial % 2 ^ 64, m.perm.serial / 2 ^ 64 % 2 ^ 64,
      m.get Fld.fabNode_valid 0 * 2 ^ 14 + m.get Fld.fabNode_node 0])
  | 1 => (m, mbOk, pad ((List.range 8).map m.partWord))
  | 2 => (m, mbOk, pad [m.rd .pwrCap sdDie + (m.pins.chassisW.getD 0) % 2 ^ 16 * 2 ^ 32])
  | 3 => (m, mbOk, pad [Config.romVersion.toNat, m.fwVersion 3, m.fwVersion 2, m.fwVersion 1, m.fwVersion 4])
  | _ => m.badArg 0 0

/-! ### CONFIGURE -/

/-- Table 16.7: a field's scope (true: the module's) and range. -/
def cfgField (fid : Nat) : Option (Bool × Nat × Nat) :=
  if fid = 0x0001 then some (true, 0, 16383) else if fid = 0x0002 then some (true, 0, 0x1FF)
  else if fid = 0x0003 then some (true, 0, 1) else if fid = 0x0010 then some (true, 0, 255)
  else if fid = 0x0011 then some (true, 1, 15) else if fid = 0x0012 then some (true, 0, 2)
  else if fid = 0x0020 then some (true, 1, 15) else if fid = 0x0021 then some (true, 2, 15)
  else if fid = 0x0022 then some (true, 0, 15)
  else if 0x0100 ≤ fid ∧ fid < 0x0140 then some (true, 1, 3) else if 0x0140 ≤ fid ∧ fid < 0x0180 then some (true, 0, 1)
  else if fid = 0x0187 ∨ fid = 0x0197 ∨ fid = 0x01AF ∨ fid = 0x01BF then some (true, 0, 0x1FFFF)
  else if fid = 0x1000 then some (false, 0, 1572864) else if fid = 0x1001 then some (false, 0, 1)
  else if fid = 0x1002 then some (false, 0, 1) else if fid = 0x1003 then some (false, 1, 65535)
  else if fid = 0x1004 then some (false, 0, 65535) else if fid = 0x1005 then some (false, 1, 255)
  else none

/-- R493: the nearest legal value; each part of the system sizes is clamped on its own. -/
def cfgClamp (fid lo hi v : Nat) : Nat :=
  if fid = 0x0002 then min (bitsOf v 8 6) 5 * 64 + min (bitsOf v 5 3) 5 * 8 + min (bitsOf v 2 0) 4 else min (max v lo) hi

/-- The value that a field has, as the register it sets holds it on die `d` (of the partition's lowest die for its fields). -/
def Mach.cfgNow (m : Mach) (fid d : Nat) : Nat :=
  let g := fid % 0x40
  let of (f : Fld) (i : Nat := 0) (c : Nat := 0) : Nat := f.of (m.cpReg ⟨f.reg, d, c, i, 0⟩)
  let port (f : Fld) : Nat := f.of (m.cpReg ⟨f.reg, g / 8, 0, g % 8, 0⟩)
  if fid = 0x0001 then of Fld.fabNode_node
  else if fid = 0x0002 then of Fld.fabDims_lx * 64 + of Fld.fabDims_ly * 8 + of Fld.fabDims_lz
  else if fid = 0x0003 then of Fld.fabNode_lock
  else if fid = 0x0010 then of Fld.hbmCfg_scrub_rate else if fid = 0x0011 then of Fld.hbmCfg_ce_row_limit
  else if fid = 0x0012 then of Fld.hbmCfg_ecc_mode
  else if fid = 0x0020 then of Fld.pwrCtl_gain else if fid = 0x0021 then of Fld.pwrCtl_droop_mv
  else if fid = 0x0022 then of Fld.pwrCtl_droop_len
  else if fid < 0x0140 then port Fld.fabPortCtl_max_rate else if fid < 0x0180 then port Fld.fabPortCtl_disable
  else if fid < 0x01C0 then port Fld.fabPortCtl_edge_en * 2 ^ 16 + port Fld.fabPortCtl_edge_job
  else if fid = 0x1000 then of Fld.dcPinQuota_quota else if fid = 0x1001 then of Fld.colCfg_t16_compat
  else if fid = 0x1002 then of Fld.colCfg_pf_en else if fid = 0x1003 then of Fld.snapTimes_vote_window
  else if fid = 0x1004 then of Fld.snapTimes_drain_delay else of Fld.snapCfg_drain_rate

/-- Set a field of every stack of every die, or of every die. -/
def Mach.cfgStacks (m : Mach) (f : Fld) (v : Nat) : Mach :=
  orlupo.foldl (fun m d => (List.range 4).foldl (fun m s => m.cpPut f d v 0 s) m) m
def Mach.cfgDies (m : Mach) (f : Fld) (v : Nat) : Mach := orlupo.foldl (fun m d => m.cpPut f d v) m

/-- R495: apply a field's value; the fabric lock is set after the whole structure. -/
def Mach.cfgApply (m : Mach) (dies : List Nat) (fid v : Nat) : Mach :=
  let g := fid % 0x40
  let low := dies.headD 0
  if fid = 0x0001 then orlupo.foldl (fun m d =>
    let id : RegId := ⟨.fabNode, d, 0, 0, 0⟩
    m.cpWrite id (Fld.fabNode_valid.into (Fld.fabNode_node.into (m.cpReg id) v) 1)) m
  else if fid = 0x0002 then orlupo.foldl (fun m d => m.cpWrite ⟨.fabDims, d, 0, 0, 0⟩ v) m
  else if fid = 0x0003 then m
  else if fid = 0x0010 then m.cfgStacks Fld.hbmCfg_scrub_rate v else if fid = 0x0011 then m.cfgStacks Fld.hbmCfg_ce_row_limit v
  else if fid = 0x0012 then m.cfgStacks Fld.hbmCfg_ecc_mode v
  else if fid = 0x0020 then m.cfgDies Fld.pwrCtl_gain v else if fid = 0x0021 then m.cfgDies Fld.pwrCtl_droop_mv v
  else if fid = 0x0022 then m.cfgDies Fld.pwrCtl_droop_len v
  else if fid < 0x0140 then m.cpPut Fld.fabPortCtl_max_rate (g / 8) v (g % 8)
  else if fid < 0x0180 then m.cpPut Fld.fabPortCtl_disable (g / 8) v (g % 8)
  else if fid < 0x01C0 then
    (m.cpPut Fld.fabPortCtl_edge_en (g / 8) (v / 2 ^ 16) (g % 8)).cpPut Fld.fabPortCtl_edge_job (g / 8) v (g % 8)
  else if fid = 0x1001 then dies.foldl (fun m d => m.cpPut Fld.colCfg_t16_compat d v) m
  else if fid = 0x1002 then dies.foldl (fun m d => m.cpPut Fld.colCfg_pf_en d v) m
  else if fid = 0x1003 then m.cpPut Fld.snapTimes_vote_window low v
  else if fid = 0x1004 then m.cpPut Fld.snapTimes_drain_delay low v
  else m.cpPut Fld.snapCfg_drain_rate low v

/-- R493, Table 16.7: a field is not permitted now or from this mailbox. [DEDUCED, log 95] -/
def Mach.cfgRefused (m : Mach) (mbx low fid v : Nat) : Bool :=
  let g := fid % 0x40
  let isModule := match cfgField fid with | some (b, _, _) => b | none => false
  (isModule && mbx != 0) || ((fid == 1 || fid == 2) && Fld.fabNode_lock.of (m.cpReg ⟨.fabNode, 0, 0, 0, 0⟩) == 1) ||
    (fid == 0x1001 && Fld.fabJob_valid.of (m.cpReg ⟨.fabJob, low, 0, 0, 0⟩) == 1) ||
    (decide (0x0140 ≤ fid) && decide (fid < 0x0180) && v != 0 && m.activePorts (m.portDirNow (g / 8) (g % 8)) == [(g / 8, g % 8)])

/-- What has come of the entries taken so far: fields met, reports (field, reason, die, entry, requested, applied), counts. -/
structure CfgAcc where
  m : Mach
  seen : List Nat
  reports : List (List Nat)
  applied : Nat
  clamped : Nat
  ignored : Nat
  refused : Nat
  lock : Bool

/-- R493, R494: one entry of a structure. -/
def CfgAcc.entry (a : CfgAcc) (mbx : Nat) (slot : Option Nat) (dies : List Nat) (i fid v : Nat) : CfgAcc :=
  let low := dies.headD 0
  let seen := a.seen ++ [fid]
  let now := if (cfgField fid).isSome then a.m.cfgNow fid low else 0
  let rep (reason die got : Nat) : List Nat := [fid, reason, die, i, v, got]
  match cfgField fid with
  | none => { a with seen, reports := a.reports ++ [rep 2 0xFF now], ignored := a.ignored + 1 }
  | some (isModule, lo, hi) =>
    if isModule != slot.isNone then { a with seen, reports := a.reports ++ [rep 2 0xFF now], ignored := a.ignored + 1 }
    else if a.seen.contains fid then { a with seen, reports := a.reports ++ [rep 3 0xFF now], ignored := a.ignored + 1 }
    else if a.m.cfgRefused mbx low fid (cfgClamp fid lo hi v) then
      { a with seen, reports := a.reports ++ [rep 4 0xFF now], refused := a.refused + 1 }
    else if fid = 0x1000 then
      let each := dies.map (fun d => (d, min (max v (a.m.get Fld.dcPinUsed_used d)) hi))
      let m := each.foldl (fun m x => m.cpPut Fld.dcPinQuota_quota x.1 x.2) a.m
      let off := each.filter (fun x => x.2 != v)
      { a with m, seen, reports := a.reports ++ off.map (fun x => rep 1 x.1 x.2), applied := a.applied + 1,
               clamped := a.clamped + b2n (!off.isEmpty) }
    else
      let got := cfgClamp fid lo hi v
      { a with m := a.m.cfgApply dies fid got, seen, reports := a.reports ++ (if got = v then [] else [rep 1 0xFF got]),
               applied := a.applied + 1, clamped := a.clamped + b2n (got != v), lock := a.lock || (fid == 3 && got == 1) }

/-- The 16 bytes of a report entry (R494). -/
def reportBytes (r : List Nat) : List Byte :=
  let g (i : Nat) : Nat := r.getD i 0
  toBytes 8 (g 0 * 2 ^ 48 + g 1 * 2 ^ 40 + g 2 % 2 ^ 8 * 2 ^ 32 + g 3 % 2 ^ 16 * 2 ^ 16) ++ toBytes 8 (g 4 * 2 ^ 32 + g 5 % 2 ^ 32)

/-- CONFIGURE (R491 to R495). -/
def Mach.cmdConfigure (m : Mach) (c : MbxCmd) : Mach × Nat × List Nat :=
  let ws := c.words
  let addr := pfield ws 0 47 0
  let gen := pfield ws 1 63 32
  let len := pfield ws 1 31 0
  let scope := pfield ws 2 3 0
  let rmax := pfield ws 2 31 16
  let raddr := pfield ws 3 47 0
  if !regionOk addr len then m.badArg 0 0
  else if scope ≠ 0xF ∧ (m.partAt scope).isNone then m.badArg 2 0
  else if raddr ≠ 0 ∧ !regionOk raddr (16 * rmax) then m.badArg 3 0
  else if len < 24 then (m, mbRejected, [])
  else
    let n := m.viewNum (addr + 12) 2
    let whole := m.viewNum addr 4 == 0x43464731 && m.viewNum (addr + 8) 4 == len && len == 24 + 8 * n &&
      m.viewNum (addr + 4) 4 == gen && m.viewNum (addr + 16 + 8 * n + 4) 4 == gen
    let seen := m.viewed addr (24 + 8 * n)
    if !whole then (seen, mbRejected, [])
    else
      let slot := if scope = 0xF then none else some scope
      let dies := match m.partAt scope with | some p => p.dies | none => []
      let a := (List.range n).foldl (fun (a : CfgAcc) i =>
        let e := m.viewNum (addr + 16 + 8 * i) 8
        a.entry c.mbx slot dies i (bitsOf e 63 48) (bitsOf e 31 0)) (CfgAcc.mk seen [] [] 0 0 0 0 false)
      let m : Mach := if a.lock then orlupo.foldl (fun m d => m.cpPut Fld.fabNode_lock d 1) a.m else a.m
      let wr := if raddr = 0 then 0 else min rmax a.reports.length
      let m := m.putBytes sdDie raddr ((a.reports.take wr).flatMap reportBytes)
      (m, if a.reports.isEmpty then mbOk else mbClamped,
        [a.applied % 2 ^ 16 * 2 ^ 48 + a.clamped % 2 ^ 16 * 2 ^ 32 + a.ignored % 2 ^ 16 * 2 ^ 16 + a.refused % 2 ^ 16,
         (a.reports.length - wr) % 2 ^ 16 * 2 ^ 16 + wr])

/-! ### Partitions -/

/-- PARTITION_CREATE (R496). [DEDUCED, log 94] -/
def Mach.cmdCreate (m : Mach) (c : MbxCmd) : Mach × Nat × List Nat :=
  let ws := c.words
  let mask := pfield ws 0 7 0
  let k := pfield ws 0 12 8
  let root := pfield ws 1 47 12 * 4096
  let dies := bitsSet mask 8
  if mask = 0 then m.badArg 0 0
  else if k = 0 ∨ k = 31 then m.badArg 0 8
  else if pword ws 1 % 4096 ≠ 0 ∨ !isStacked root then m.badArg 1 (if pword ws 1 % 4096 ≠ 0 then 0 else 12)
  else if dies.any (fun d => (m.partOf d).isSome || m.cp.resetting.testBit d || m.cp.margins.any (fun x => x.die == d && x.state == 1)) ∨
      m.get Fld.mbxStatus_part sdDie k ≠ 0xF then (m, mbBusy, [])
  else match (List.range 8).find? (fun s => (m.partAt s).isNone) with
    | none => (m, mbNoResource, [])
    | some s =>
      let m : Mach := { m with parts := m.parts ++ [Part.mk s mask k [] 0] }
      let m := m.put Fld.mbxStatus_part sdDie s k
      let m := dies.foldl (fun m d =>
        let m := m.cpWrite ⟨.cfgXlatRoot, d, 0, 0, 0⟩ (Fld.cfgXlatRoot_valid.into (Fld.cfgXlatRoot_root.into 0 (root / 4096)) 1)
        (m.cpPut Fld.dcPinQuota_quota d 1048576).cpPut Fld.fabJob_valid d 0) m
      (m, mbOk, [s])

/-- The registers of the CP firmware's record that belong to a die's partition, not to the module. -/
def partitionRegs (d : Nat) : List RegId :=
  [⟨.cfgXlatRoot, d, 0, 0, 0⟩, ⟨.dcPinQuota, d, 0, 0, 0⟩, ⟨.fabJob, d, 0, 0, 0⟩, ⟨.colCfg, d, 0, 0, 0⟩, ⟨.snapCfg, d, 0, 0, 0⟩,
    ⟨.snapTimes, d, 0, 0, 0⟩, ⟨.snapWork, d, 0, 0, 0⟩] ++
  (List.range 5).flatMap (fun i => [⟨.ftTmrTgt, d, 0, i + 3, 0⟩, ⟨.ftTmrCtl, d, 0, i + 3, 0⟩])

/-- PARTITION_DESTROY (R497): the commands queued for the partition end with ABORTED as at an ABORT (R502). -/
def Mach.cmdDestroy (m : Mach) (c : MbxCmd) : Mach × Nat × List Nat :=
  match m.partAt (pfield c.words 0 3 0) with
  | none => m.badArg 0 0
  | some p =>
    if Fld.fabJob_valid.of (m.cpReg ⟨.fabJob, p.low, 0, 0, 0⟩) = 1 then (m, mbBusy, [])
    else
      let (m, _, _) := (m.doomQueued p.slot).abortPart p
      let m := p.dies.foldl (fun m d => m.dieReset d) m
      let m := p.dies.foldl (fun m d => { m with cp := { m.cp with saved := smMod [] m.cp.saved d (fun r =>
        r.filter (fun (e : Nat × W64) => !((partitionRegs d).map RegId.key).contains e.1)) } }) m
      let m := { m with parts := m.parts.filter (fun x => x.slot != p.slot),
                        cp := { m.cp with abortRead := m.cp.abortRead.filter (fun a => a.1 != p.slot) } }
      let m := (m.put Fld.mbxStatus_part sdDie 0xF p.mailbox).put Fld.mbxStatus_open sdDie 0 p.mailbox
      (m.put Fld.mbxStatus_major sdDie 0 p.mailbox, mbOk, [])

/-! ### Jobs -/

/-- Table 16.6: a field of JOB_OPEN's box, laid out as FAB_JOB [31:9]. -/
def boxField (box : Nat) (f : Fld) : Nat := bitsOf (box * 2 ^ 9) f.hi f.lo

/-- R346: the first bit of the box word that breaks the rule, or none. -/
def Mach.boxError (m : Mach) (box : Nat) : Option Nat :=
  let dims := m.cpReg ⟨.fabDims, 0, 0, 0, 0⟩
  let axis (o b : Fld) (l : Nat) : Option Nat :=
    let bv := boxField box b
    let ov := boxField box o
    if l < bv then some (b.lo - 9) else if ov % 2 ^ bv ≠ 0 ∨ 2 ^ l < ov + 2 ^ bv then some (o.lo - 9) else none
  ([axis Fld.fabJob_z0 Fld.fabJob_bz (Fld.fabDims_lz.of dims), axis Fld.fabJob_y0 Fld.fabJob_by (Fld.fabDims_ly.of dims),
    axis Fld.fabJob_x0 Fld.fabJob_bx (Fld.fabDims_lx.of dims)].filterMap id).foldl (fun (b : Option Nat) x => match b with
      | none => some x
      | some y => some (min x y)) none

/-- A box holds a node. -/
def boxContains (box n : Nat) : Bool :=
  inRange (nodeX n) (boxField box Fld.fabJob_x0) (boxField box Fld.fabJob_bx) &&
    inRange (nodeY n) (boxField box Fld.fabJob_y0) (boxField box Fld.fabJob_by) &&
    inRange (nodeZ n) (boxField box Fld.fabJob_z0) (boxField box Fld.fabJob_bz)

/-- A region's entry in a table that JOB_OPEN names: kind, chunks, buffers, for the entries in use. -/
def Mach.tableRegions (m : Mach) (base n : Nat) : List Region :=
  (List.range n).filterMap (fun i =>
    let a := base + 32 * i
    let w := m.viewNum a 8
    if bitOf w 31 then some ⟨i, bitsOf w 30 29, bitsOf w 23 0, m.viewNum (a + 8) 8, m.viewNum (a + 16) 8⟩ else none)

/-- The buffers of regions as (base, bytes). -/
def bufferSpans (rs : List Region) : List (Nat × Nat) :=
  rs.flatMap (fun r => (r.buf0, r.chunks * chunkBytes) :: (if r.kind = 2 then [] else [(r.buf1, r.chunks * chunkBytes)]))

/-- No two spans overlap. -/
def disjointSpans : List (Nat × Nat) → Bool
  | [] => true
  | s :: l => l.all (fun t => decide (s.1 + s.2 ≤ t.1) || decide (t.1 + t.2 ≤ s.1)) && disjointSpans l

/-- R424: the regions of a table. [DEDUCED, log 97] -/
def regionsOk (rs : List Region) : Bool :=
  let spans := bufferSpans rs
  rs.all (fun r => r.kind != 3 && r.chunks != 0) &&
    spans.all (fun s => s.1 % chunkBytes == 0 && decide (s.1 + s.2 ≤ 0x20000000000)) && disjointSpans spans

/-- The bytes of the schedule block as the partition's tables stand (Table 14.5). -/
def Mach.schedBytes (m : Mach) (p : Part) : Nat :=
  8 + 8 * (schedRegs p).length + ((m.schedTables p).map (fun r => 16 + r.2)).foldl (· + ·) 0 + 16

/-- R438: the work area holds, in each of its two slots, the header, an entry per chunk and the schedule block. -/
def Mach.workFits (m : Mach) (p : Part) (rs : List Region) (work : Nat) : Bool :=
  let len := Fld.snapWork_len.of work
  let n := ceilDiv (m.schedBytes p) chunkBytes
  len % 2 == 0 && decide (roundUp (128 + 48 * ((regionChunks rs).length + n)) chunkBytes + n * chunkBytes ≤ len / 2 * chunkBytes)

/-- The offending word and bit of JOB_OPEN, in word order (R498, R549). [DEDUCED, log 94; DEDUCED, log 97] -/
def Mach.jobError (m : Mach) (p : Part) (ws : List Nat) : Option (Nat × Nat) :=
  let box := pfield ws 1 22 0
  let node := Fld.fabNode_node.of (m.cpReg ⟨.fabNode, p.low, 0, 0, 0⟩)
  let period := pword ws 3
  let saffron := pfield ws 6 4 4 = 1
  let rgn := pfield ws 7 47 0
  let n := pfield ws 7 56 48
  let work := pword ws 8
  let rs := m.tableRegions rgn n
  let peer (x : Nat) : Bool := boxContains box x && x != node
  let checks : List (Bool × Nat × Nat) := [
    ((m.boxError box).isNone, 1, (m.boxError box).getD 0),
    (boxContains box node, 1, 0),
    (decide (1000000 ≤ period) && decide (period ≤ 60000000000), 3, 0),
    (decide (1000 * pfield ws 4 31 0 < period), 4, 0),
    (decide (1000 * pfield ws 4 63 32 < period), 4, 32),
    (decide (1000 * (pfield ws 5 31 0 + pfield ws 5 63 32) < period), 5, 0),
    (!saffron || peer (pfield ws 6 33 20), 6, 20),
    (!saffron || peer (pfield ws 6 47 34), 6, 34),
    (rgn % 256 == 0 && regionOk rgn (32 * n), 7, 0),
    (decide (n ≤ 256), 7, 48),
    (!saffron || regionsOk rs, 7, 0),
    (regionOk (Fld.snapWork_base.of work * chunkBytes) (Fld.snapWork_len.of work * chunkBytes), 8, 22),
    (!saffron || m.workFits p rs work, 8, 48),
    (pfield ws 9 47 0 % 256 == 0 && regionOk (pfield ws 9 47 0) 4096, 9, 0)]
  (checks.find? (fun x => !x.1)).map (fun x => x.2)

/-- Table 16.8: the timers that JOB_OPEN arms: number, control word, first target. [DEDUCED, log 23] -/
def jobTimers (slot : Nat) (ws : List Nat) : List (Nat × Nat × Nat) :=
  let b := pword ws 2
  let period := pword ws 3
  let ctl (action arg scope : Nat) : Nat :=
    period % 2 ^ 32 * 2 ^ 32 + arg * 2 ^ 16 + action * 2 ^ 12 + period / 2 ^ 32 % 2 ^ 8 * 2 ^ 4 + scope * 2 ^ 2 + 1
  let co := 1000 * pfield ws 4 31 0
  let ro := 1000 * pfield ws 4 63 32
  let so := 1000 * pfield ws 5 31 0
  let sl := 1000 * pfield ws 5 63 32
  let on (c : Bool) (x : Nat × Nat × Nat) : List (Nat × Nat × Nat) := if c then [x] else []
  [(3, ctl 3 slot 1, b)] ++ on (co != 0) (4, ctl 7 slot 1, b + co) ++ on (so != 0 && sl != 0) (5, ctl 8 0xF 0, b + so) ++
    on (so != 0 && sl != 0) (6, ctl 9 0xF 0, b + so + sl) ++ on (ro != 0) (7, ctl 5 (pfield ws 6 3 0) 1, b + ro)

/-- Arm a timer of a die anew. [DEDUCED, log 22] -/
def Mach.armTimer (m : Mach) (d n ctl target : Nat) : Mach :=
  let m := m.cpPut Fld.ftTmrCtl_enable d 0 n
  (m.cpWrite ⟨.ftTmrTgt, d, 0, n, 0⟩ (target % 2 ^ 64)).cpWrite ⟨.ftTmrCtl, d, 0, n, 0⟩ ctl

/-- JOB_OPEN (R423, R427, R498). [DEDUCED, log 94; DEDUCED, log 145] -/
def Mach.cmdJobOpen (m : Mach) (c : MbxCmd) : Mach × Nat × List Nat :=
  let ws := c.words
  match m.partAt (pfield ws 0 3 0) with
  | none => m.badArg 0 0
  | some p =>
    match m.jobError p ws with
    | some (w, b) => m.badArg w b
    | none =>
      let saffron := pfield ws 6 4 4 = 1
      let open_ (x : Part) : Bool := Fld.fabJob_valid.of (m.cpReg ⟨.fabJob, x.low, 0, 0, 0⟩) == 1
      if open_ p ∨ (saffron ∧ m.parts.any (fun x => x.slot != p.slot && Fld.snapCfg_enable.of (m.cpReg ⟨.snapCfg, x.low, 0, 0, 0⟩) == 1)) then
        (m, mbBusy, [])
      else
        let d := p.low
        let job := 2 ^ 63 + pfield ws 0 31 16 * 2 ^ 32 + pfield ws 1 22 0 * 2 ^ 9
        let m := p.dies.foldl (fun m x => (m.cpWrite ⟨.fabJob, x, 0, 0, 0⟩ job).cpWrite ⟨.colCfg, x, 0, 0, 0⟩
          (Fld.colCfg_pf_en.into (Fld.colCfg_t16_compat.into 0 (pfield ws 6 5 5)) (pfield ws 6 6 6))) m
        let cfg := m.cpReg ⟨.snapCfg, d, 0, 0, 0⟩
        let cfg := Fld.snapCfg_replica.into (Fld.snapCfg_buddy.into cfg (pfield ws 6 33 20)) (pfield ws 6 47 34)
        let cfg := Fld.snapCfg_enable.into (Fld.snapCfg_rgn_count.into cfg (pfield ws 7 56 48)) (b2n saffron)
        let m := m.cpWrite ⟨.snapCfg, d, 0, 0, 0⟩ (Fld.snapCfg_commit_ctr.into cfg (pfield ws 6 19 8))
        let m := m.cpWrite ⟨.snapWork, d, 0, 0, 0⟩ (pword ws 8 / 2 ^ 22 * 2 ^ 22)
        let m := (m.wr .snapRgnBase d (pfield ws 7 47 0)).wr .snapSsrBase d (pfield ws 9 47 0)
        let m := ((m.wr .snapStep d 0).wr .snapUpdDone d (2 ^ 64 - 1)).wr .snapCommit d (2 ^ 64 - 1)
        let m := (m.wr .snapStatus d (if saffron then 2 ^ 4 else 0)).modSnap d (fun _ => { SnapSt.init with initial := saffron })
        let m := if saffron then [0, 1].foldl (fun m k => m.putBytes d (m.slotBase d k) (toBytes 128 0)) m else m
        let m := if saffron then p.dies.foldl (fun m x => m.ctrAdd1 x (pfield ws 6 19 8) srcOther) m else m
        let m := if saffron then m.viewed (pfield ws 7 47 0) (32 * pfield ws 7 56 48) else m
        let ts := jobTimers p.slot ws
        let m := p.dies.foldl (fun m x => ts.foldl (fun m t => m.armTimer x t.1 t.2.1 t.2.2) m) m
        (m, mbOk, [(ts.map (fun t => 2 ^ t.1)).foldl (· + ·) 0])

/-- R499: a block of the partition is resident or one of its queues holds a descriptor. -/
def Mach.partBusy (m : Mach) (p : Part) : Bool :=
  p.dies.any (fun d => !(m.die d).colQ.isEmpty || (List.range 32).any (fun c =>
    (m.core d c).blocks.any (fun b => !b.ended) || (m.core d c).queues.any (fun q => !q.isEmpty))) ||
  (List.range 16).any (fun q => m.get Fld.lqHead_head p.low q != m.get Fld.lqTail_tail p.low q) || !p.launches.isEmpty

/-- JOB_CLOSE (R499). [DEDUCED, log 94] -/
def Mach.cmdJobClose (m : Mach) (c : MbxCmd) : Mach × Nat × List Nat :=
  match m.partAt (pfield c.words 0 3 0) with
  | none => m.badArg 0 0
  | some p =>
    if m.partBusy p then (m, mbBusy, [])
    else
      let m := p.dies.foldl (fun m d =>
        let m := (List.range 5).foldl (fun m i => m.cpPut Fld.ftTmrCtl_enable d 0 (i + 3)) m
        m.cpPut Fld.fabJob_valid d 0) m
      (m.cpPut Fld.snapCfg_enable p.low 0, mbOk, [])

/-! ### Routes, Saffron's configuration -/

/-- ROUTE_UPDATE (R364, R445). [DEDUCED, log 94] -/
def Mach.cmdRoute (m : Mach) (c : MbxCmd) : Mach × Nat × List Nat :=
  let ws := c.words
  let table := pfield ws 2 47 0
  let list := pfield ws 3 47 0
  let n := pfield ws 4 13 0
  let ctl := m.cpReg ⟨.fabRouteCtl, 0, 0, 0, 0⟩
  if pfield ws 0 15 0 ≠ (Fld.fabRouteCtl_epoch.of ctl + 1) % 2 ^ 16 then m.badArg 0 0
  else if !regionOk table 512 then m.badArg 2 0
  else if !regionOk list (2 * n) then m.badArg 3 0
  else if Fld.fabRouteCtl_arm.of ctl = 1 then (m, mbBusy, [])
  else
    let entries := (List.range 64).map (fun i => m.viewNum (table + 8 * i) 8)
    let nodes := (List.range n).map (fun i => bitsOf (m.viewNum (list + 2 * i) 2) 13 0)
    let m := (m.viewed table 512).viewed list (2 * n)
    let m := orlupo.foldl (fun m d =>
      let m := (entries.mapIdx (fun i e => (i, e))).foldl (fun m x => m.cpWrite ⟨.fabDetourPend, d, 0, x.1, 0⟩ x.2) m
      let m := m.cpWrite ⟨.fabRouteSwitch, d, 0, 0, 0⟩ (pword ws 1)
      let m := m.modFab d (fun x => { x with clearList := nodes })
      let id : RegId := ⟨.fabRouteCtl, d, 0, 0, 0⟩
      m.cpWrite id (Fld.fabRouteCtl_arm.into (Fld.fabRouteCtl_pend_epoch.into (m.cpReg id) (pfield ws 0 15 0)) 1)) m
    (m, mbOk, [])

/-- R432: an area of the buddy's receive side: in the kind of memory that its rule names. [DEDUCED, log 97] -/
def areaOk (w lo hi : Nat) : Bool :=
  let base := Fld.snapRecvArea_base.of w * chunkBytes
  decide (lo ≤ base) && decide (base + Fld.snapRecvArea_len.of w * chunkBytes ≤ hi)

/-- SNAP_CONFIG (R431, R504): while a drain is in progress only a new buddy after DRAIN_FAILED is taken. -/
def Mach.cmdSnapConfig (m : Mach) (c : MbxCmd) : Mach × Nat × List Nat :=
  let ws := c.words
  let recv := pfield ws 0 5 5 = 1
  let send := pfield ws 0 4 4 = 1
  match m.partAt (pfield ws 0 3 0) with
  | none => m.badArg 0 0
  | some p =>
    if recv ∧ !areaOk (pword ws 3) 0x20000000000 0x20800000000 then m.badArg 3 22
    else if recv ∧ !areaOk (pword ws 4) 0 0x20000000000 then m.badArg 4 22
    else if m.drainOpen p.low ∧
        !((m.snap p.low).drainFail ≠ 0 ∧ send ∧ pfield ws 1 13 0 ≠ Fld.snapCfg_buddy.of (m.cpReg ⟨.snapCfg, p.low, 0, 0, 0⟩)) then
      (m, mbBusy, [])
    else
      let d := p.low
      let m :=
        if send then
          let m := (m.cpPut Fld.snapCfg_buddy d (pfield ws 1 13 0)).cpPut Fld.snapCfg_replica d (pfield ws 1 29 16)
          if (m.snap d).drainFail ≠ 0 then
            (m.modSnap d (fun s => { s with drainFail := 0, drained := 0, mism := 0, offered := false })).drainOffer d
          else m
        else m
      let m :=
        if recv then
          let m := m.wr .snapRecvCfg sdDie (pfield ws 2 14 0)
          (m.wr .snapRecvArea sdDie (pword ws 3 / 2 ^ 22 * 2 ^ 22)).wr .snapHoldArea sdDie (pword ws 4 / 2 ^ 22 * 2 ^ 22)
        else m
      (m, mbOk, [])

/-! ### Status commands -/

/-- A mask of the cores of a die that satisfy a predicate. -/
def coreMask (f : Nat → Bool) : Nat := (List.range 32).foldl (fun a c => a + b2n (f c) * 2 ^ c) 0

/-- FUSE_STATUS. -/
def Mach.cmdFuse (m : Mach) (c : MbxCmd) : Mach × Nat × List Nat :=
  let d := pfield c.words 0 2 0
  (m, mbOk, [coreMask (fun k => m.fenced d k), coreMask (fun k => m.flag Fld.arrSpareMap_soft d (c := k)),
    coreMask (fun k => bitsOf (smGet noSpare m.perm.spare (coreKey d k)).toNat 39 8 != 0xFFFFFFFF),
    (m.perm.repair.filter (fun r => r.die == d)).length % 2 ^ 16])

/-- FT_STATUS (R506). -/
def Mach.cmdFtStatus (m : Mach) (_c : MbxCmd) : Mach × Nat × List Nat :=
  (m, mbOk, nineDies.map (fun d => m.rd .ftStatus d) ++ [m.ft 0, m.rd .ftCivilOffset sdDie])

/-- The counter registers of a block on a die, by instance, in the order of R506: each instance with its number. The instance of a
die's own counters beside those of its cores or ports is numbered 0xFF. [DEDUCED, log 95] -/
def blockCounters (block d : Nat) : List (Nat × List RegId) :=
  let one (r : Reg) (n : Nat) (first : Nat := 0) : List RegId := (List.range n).map (fun i => ⟨r, d, 0, i + first, 0⟩)
  let cores (r : Reg) (n : Nat) : List (Nat × List RegId) :=
    (List.range 32).map (fun c => (c, (List.range n).map (fun i => ⟨r, d, c, i, 0⟩)))
  if d = sdDie then
    (if block = 8 then [(0, one .gdCnt 6)] else if block = 13 then [(0, one .thmCnt 3 8)] else [])
  else match block with
    | 0 => cores .arrCnt 16
    | 1 => cores .sumCnt 10
    | 2 => cores .vecCnt 8
    | 3 => cores .tguCnt 12
    | 4 => cores .cqCnt 8
    | 5 => [(0, one .syncCnt 12)]
    | 6 => cores .dcL1Cnt 12 ++ [(0xFF, one .dcCnt 27)]
    | 7 => (List.range 4).map (fun s => (s, (List.range 10).map (fun i => ⟨.hbmCnt, d, s, i, 0⟩)))
    | 9 => (List.range 8).map (fun p => (p, (List.range 8).map (fun n => ⟨.fabPortCnt, d, 0, p, n⟩))) ++ [(0xFF, one .fabCnt 13)]
    | 10 => [(0, one .colCnt 10)]
    | 11 => [(0, one .snapCnt 8)]
    | 12 => [(0, one .pwrCnt 8)]
    | 13 => [(0, one .thmCnt 3 8)]
    | _ => []

/-- COUNTER_SNAPSHOT (R506). [DEDUCED, log 95] -/
def Mach.cmdCounters (m : Mach) (c : MbxCmd) : Mach × Nat × List Nat :=
  let ws := c.words
  let buf := pfield ws 0 47 0
  let len := pfield ws 2 31 0
  let parts := (bitsSet (pfield ws 1 24 16) 9).flatMap (fun d => (bitsSet (pfield ws 1 13 0) 14).flatMap (fun b =>
    (blockCounters b d).map (fun x => (d, b, x.1, x.2))))
  let total := (parts.map (fun x => 16 + 8 * x.2.2.2.length)).foldl (· + ·) 0
  if !regionOk buf len then m.badArg 0 0
  else if len < total then m.badArg 2 0
  else
    let bytes := parts.flatMap (fun x =>
      toBytes 8 (x.2.1 + x.1 * 2 ^ 8 + x.2.2.1 * 2 ^ 16 + x.2.2.2.length * 2 ^ 24) ++ toBytes 8 (m.ft x.1) ++
        x.2.2.2.flatMap (fun id => toBytes 8 (m.reg id)))
    let m := if pfield ws 1 32 32 = 1 then parts.foldl (fun m x => x.2.2.2.foldl (fun m id => m.setReg id 0) m) m else m
    (m.putBytes sdDie buf bytes, mbOk, [total])

/-! ### Margining -/

/-- MARGIN_START (R338, R505). -/
def Mach.cmdMarginStart (m : Mach) (c : MbxCmd) : Mach × Nat × List Nat :=
  let ws := c.words
  let d := pfield ws 0 2 0
  let s := pfield ws 0 4 3
  let n := popcount (pword ws 1) 64
  let addr := pfield ws 2 47 0
  if pfield ws 0 6 5 = 0 then m.badArg 0 5
  else if pword ws 1 = 0 then m.badArg 1 0
  else if addr < 0x20000000000 ∨ 0x20800000000 < addr + 576 * n then m.badArg 2 0
  else if (m.partOf d).isSome ∨ m.cp.margins.any (fun x => x.die == d && x.state == 1) then (m, mbBusy, [])
  else
    let run : MarginSt := { die := d, stack := s, sweep := pfield ws 0 6 5, mask := pword ws 1, addr, state := 1, written := 0, ended := 0 }
    let m := { m with cp := { m.cp with margins := (m.cp.margins.filter (fun (x : MarginSt) => x.die != d)) ++ [run] } }
    (m.put Fld.hbmStatus_margining d 1 (c := s), mbOk, [36 * n])

/-- MARGIN_STATUS. [DESIGN CHOICE, log 98] -/
def Mach.cmdMarginStatus (m : Mach) (c : MbxCmd) : Mach × Nat × List Nat :=
  match m.cp.margins.find? (fun x => x.die == pfield c.words 0 2 0) with
  | none => (m, mbOk, [0, 0])
  | some x => (m, mbOk, [x.state + x.written * 2 ^ 16, x.ended])

/-- MARGIN_CANCEL (R338). [DEDUCED, log 94] -/
def Mach.cmdMarginCancel (m : Mach) (c : MbxCmd) : Mach × Nat × List Nat :=
  let d := pfield c.words 0 2 0
  if m.cp.margins.any (fun x => x.die == d && x.state == 1) then (m.marginEnd d 3 0, mbOk, []) else (m, mbBusy, [])

end Sys2Proof.Machine
end

