-- ==== Sys2Proof/Machine/Restore.lean ====
section
/-! DEFINITION. SNAP_RESTORE (R439 to R444, R504) and the end of a margin run (R338, R339). -/

namespace Sys2Proof.Machine

/-- Why a restore failed, as the response's payload word 0 gives it (R504): 1 the target is not restorable, 2 the manifest's body
digest, 3 a chunk that no holder supplies, 4 the region table, 5 the hold. [DESIGN CHOICE, log 85] -/
def restoreFail (cause : Nat) : Nat × List Nat := (mbFailed, [cause])

/-- R441: a chunk of the version, checked against its digest; one that mismatches (or reads poison, or is not here) is taken from
its holder, and DIGEST_MISMATCH says so. True when it was. [DEDUCED, log 83] -/
def Mach.restoreChunk (m : Mach) (d a i : Nat) (c : ChunkRef) (digest : List Byte) (who : Nat) (here : Bool) (feed : RestoreFeed) :
    Mach × Option Bool :=
  let (m, bs) := m.readBytes (Via.engine (homeDie a)) a (if here then chunkBytes else 0)
  if here && !anyPoison bs && sha3 (plain bs) == digest then (m, some false)
  else match feed.fetched.find? (fun x => x.1 == i) with
    | none => (m, none)
    | some (_, data) =>
      if data.length ≠ chunkBytes ∨ sha3 data ≠ digest then (m, none)
      else
        let m := (m.putBytes (homeDie a) a data).cnt .snapCnt d 6
        if here then
          ((m.ev Fld.snapEvents_digest_mismatch d).emitRec d 0x41 true false
            [(8, c.region), (32, c.chunk), (14, who), (1, 1)] true false [], some true)
        else (m, some true)

/-- R441 over every entry: the chunks fetched, or none when one could not be had. -/
def Mach.restoreChunks (m : Mach) (d slot : Nat) (ws : List Nat) (here : Bool) (feed : RestoreFeed) :
    List (Nat × ChunkRef × List Byte) → Nat → Mach × Option Nat
  | [], n => (m, some n)
  | (i, c, digest) :: rest, n =>
    let who := if c.region ≠ 0xFF ∧ c.kind = 0 then pfield ws 2 13 0 else pfield ws 2 29 16
    match m.restoreChunk d (m.chunkAddr d slot c) i c digest who here feed with
    | (m, none) => (m, none)
    | (m, some f) => m.restoreChunks d slot ws here feed rest (n + b2n f)

/-- The entries of the manifest in a slot of the work area. -/
def Mach.manifestEntries (m : Mach) (d slot : Nat) : List (Nat × ChunkRef × List Byte) :=
  let a := m.slotBase d slot
  (List.range (m.viewNum (a + 0x20) 4)).map (fun i =>
    let w := m.viewNum (a + 128 + 48 * i) 4
    (i, ⟨bitsOf w 7 0, bitsOf w 9 8, m.viewNum (a + 128 + 48 * i + 4) 4⟩, m.entryDigest a i))

/-- R442: a checked version is installed; the partition rejoins at the boundary that the command names. [DEDUCED, log 84] -/
def Mach.restoreInstall (m : Mach) (p : Part) (slot : Nat) (c : MbxCmd) (refetched : Nat) : Mach × Nat × List Nat :=
  let d := p.low
  let a := m.slotBase d slot
  let sched := (m.manifestEntries d slot).filter (fun e => e.2.1.region == 0xFF)
  let bytes := sched.flatMap (fun e => m.viewBytes (m.chunkAddr d slot e.2.1) chunkBytes)
  let m := sched.foldl (fun m e => m.viewed (m.chunkAddr d slot e.2.1) chunkBytes) m
  let (m, step) := m.installSched p bytes
  let m := (m.wr .snapStatus d (2 ^ 4 + slot)).modSnap d (fun _ =>
    { SnapSt.init with rgns := m.regions d, restore := some ⟨c.mbx, pfield c.words 0 5 4, pfield c.words 0 6 6 = 1, pword c.words 1,
                                        pfield c.words 2 13 0, pfield c.words 2 29 16, refetched⟩ })
  let m := (m.wr .snapStep d step).wr .snapUpdDone d (2 ^ 64 - 1)
  let m := m.writeNum (Via.engine d) (a + 4) 4 4
  let m := m.ev Fld.snapEvents_restore_done d
  let m := m.emitRec d 0x43 false false [(64, step), (8, mbOk), (32, refetched)] true false [p.slot]
  let m := p.dies.foldl (fun m x =>
    let ctl := m.cpReg ⟨.ftTmrCtl, x, 0, 3, 0⟩
    let ctl := Fld.ftTmrCtl_arg.into (Fld.ftTmrCtl_action.into (Fld.ftTmrCtl_arm_err.into ctl 0) 3) p.slot
    m.armTimer x 3 (Fld.ftTmrCtl_scope.into (Fld.ftTmrCtl_enable.into ctl 1) 1) (pword c.words 1)) m
  (m, mbOk, [step, refetched])

/-- R440, R441: local mode; the initial version of a job has no manifest and is not restorable (R427). -/
def Mach.restoreLocal (m : Mach) (p : Part) (c : MbxCmd) (feed : RestoreFeed) : Mach × Nat × List Nat :=
  let d := p.low
  let cur := m.get Fld.snapStatus_cur d
  let previous := pfield c.words 0 6 6 = 1
  let slot := if previous then 1 - cur else cur
  let a := m.slotBase d slot
  let st := m.viewNum (a + 4) 1 % 8
  if (!previous && (m.snap d).initial) ∨ m.viewNum a 4 ≠ 0x4D414E31 ∨ !(st == 3 || st == 4 || (st == 2 && !previous)) then (m, restoreFail 1)
  else
    let n := m.viewNum (a + 0x20) 4
    let seen := m.viewed a (128 + 48 * n)
    if sha3 (m.viewBytes (a + 128) (48 * n)) ≠ m.viewBytes (a + 0x30) 32 then (seen, restoreFail 2)
    else match seen.restoreChunks d slot c.words true feed (m.manifestEntries d slot) 0 with
      | (m, none) => (m, restoreFail 3)
      | (m, some k) =>
        let m := if previous then m.writeNum (Via.engine d) (m.slotBase d cur + 4) 4 0 else m
        m.restoreInstall p slot c k

/-- R443, R441: replacement mode: the lost rank's version into buffer and slot 0, its manifest's body digest checked. -/
def Mach.restoreReplacement (m : Mach) (p : Part) (c : MbxCmd) (feed : RestoreFeed) : Mach × Nat × List Nat :=
  let d := p.low
  let a := m.slotBase d 0
  let es := feed.entries.map (fun e => ((⟨e.1, e.2.1, e.2.2.1⟩ : ChunkRef), e.2.2.2))
  let mine := regionChunks (m.regions d)
  let sched := es.filter (fun e => e.1.region == 0xFF)
  if (es.filter (fun e => e.1.region != 0xFF)).map (·.1) ≠ mine ∨ (es.drop mine.length).map (·.1) ≠ sched.map (·.1) then
    (m, restoreFail 4)
  else if sentBody feed.entries ≠ feed.body then (m, restoreFail 2)
  else
    let body := es.flatMap (fun e => entryBytes e.1 e.1.drains false e.2)
    let head := toBytes 4 0x4D414E31 ++ toBytes 4 0 ++ toBytes 8 feed.step ++ toBytes 2 (m.node d) ++ toBytes 2 (m.get Fld.fabJob_job d) ++
      toBytes 4 0 ++ toBytes 8 0 ++ toBytes 4 es.length ++ toBytes 4 sched.length ++ toBytes 8 0 ++ feed.body ++ toBytes 48 0
    let m := m.putBytes d a (head ++ body)
    match m.restoreChunks d 0 c.words false feed (m.manifestEntries d 0) 0 with
    | (m, none) => (m, restoreFail 3)
    | (m, some k) => m.restoreInstall p 0 c k

/-- R444: adopt mode: the regions of the hold, checked against the held manifest, into the buffers that the command names.
[DEDUCED, log 84] -/
def Mach.restoreAdopt (m : Mach) (p : Part) (c : MbxCmd) : Mach × Nat × List Nat :=
  let d := p.low
  let list := pfield c.words 3 47 0
  let n := pfield c.words 4 8 0
  let adopts := (List.range n).map (fun i => (m.viewNum (list + 24 * i) 8, m.viewNum (list + 24 * i + 8) 8, m.viewNum (list + 24 * i + 16) 8))
  let held := m.recv.held.mapIdx (fun i e => (m.get Fld.snapHoldArea_base sdDie * chunkBytes + i * chunkBytes, e))
  let chunksOf (r : Nat) : List (Nat × Nat × Nat × Nat × List Byte) := held.filter (fun x => x.2.1 == r)
  let news := adopts.map (fun x => (⟨bitsOf x.1 15 8, ((chunksOf (bitsOf x.1 7 0)).head?.map (fun y => y.2.2.1)).getD 3,
    (chunksOf (bitsOf x.1 7 0)).length, x.2.1, x.2.2⟩ : Region))
  if !regionOk list (24 * n) then m.badArg 3 0
  else if !regionOk (m.get Fld.snapRgnBase_base d * 256) (32 * news.foldl (fun a r => max a (r.num + 1)) (m.get Fld.snapCfg_rgn_count d)) then
    m.badArg 4 0
  else if !regionsOk (((m.regions d).filter (fun r => news.all (fun y => y.num != r.num))) ++ news) then m.badArg 3 0
  else if !m.flag Fld.snapRecvStatus_hold_valid sdDie then (m, restoreFail 5)
  else
    let bad := held.any (fun x => sha3 (m.viewBytes x.1 chunkBytes) != x.2.2.2.2)
    let m := held.foldl (fun m x => m.viewed x.1 chunkBytes) (m.viewed list (24 * n))
    if sentBody m.recv.heldManifest.entries ≠ m.recv.heldManifest.body then (m, restoreFail 2)
    else if bad then (m, restoreFail 3)
    else
      let cur := m.get Fld.snapStatus_cur d
      let m := (adopts.zip news).foldl (fun m x =>
        let m := (chunksOf (bitsOf x.1.1 7 0)).foldl (fun m y =>
          m.putBytes sdDie (x.2.base cur + y.2.2.2.1 * chunkBytes) (m.viewBytes y.1 chunkBytes)) m
        m.putBytes d (m.get Fld.snapRgnBase_base d * 256 + 32 * x.2.num)
          (toBytes 8 (2 ^ 31 + x.2.kind * 2 ^ 29 + x.2.chunks) ++ toBytes 8 x.2.buf0 ++ toBytes 8 x.2.buf1 ++ toBytes 8 0)) m
      let top := news.foldl (fun a r => max a (r.num + 1)) (m.get Fld.snapCfg_rgn_count d)
      (m.cpPut Fld.snapCfg_rgn_count d top, mbOk, [m.rd .snapHoldStep sdDie, 0])

/-- SNAP_RESTORE (R439, R504). [DEDUCED, log 84; DESIGN CHOICE, log 129] -/
def Mach.cmdRestore (m : Mach) (c : MbxCmd) (feed : RestoreFeed) : Mach × Nat × List Nat :=
  match m.partAt (pfield c.words 0 3 0) with
  | none => m.badArg 0 0
  | some p =>
    let mode := pfield c.words 0 5 4
    let m := m.put Fld.snapStatus_restoring p.low 0
    if mode = 3 then m.badArg 0 4
    else if !m.flag Fld.snapCfg_enable p.low then (m, mbBusy, [])
    else if mode = 2 then m.restoreAdopt p c
    else if m.partBusy p then (m, mbBusy, [])
    else if mode = 0 then m.restoreLocal p c feed
    else m.restoreReplacement p c feed

/-! ### The end of a margin run -/

/-- MARGIN_RUN_COMPLETE (R338, R339): the results of every pin swept, in ascending pseudo-channel and pin order, go to the results
area; the trained settings are restored and the swept sectors are zero. [DESIGN CHOICE, log 98] -/
def Mach.marginComplete (m : Mach) (d : Nat) (results : List PinMargin) : Mach :=
  match m.cp.margins.find? (fun x => x.die == d && x.state == 1) with
  | none => m
  | some x =>
    let pins := (bitsSet x.mask 64).flatMap (fun q => (List.range 36).map (fun pin => (q, pin)))
    if results.length ≠ pins.length then m
    else
      let rate := m.get Fld.hbmStatus_rate d (c := x.stack)
      let bytes := (pins.zip results).flatMap (fun y =>
        let r := y.2
        let time := x.sweep.testBit 0
        let volt := x.sweep.testBit 1
        let cell (b : Bool) (v : Nat) : Nat := if b then v else 0
        toBytes 1 y.1.2 ++ toBytes 1 y.1.1 ++ toBytes 1 (4 * d + x.stack) ++ toBytes 1 rate ++ toBytes 1 (cell time r.tLeft) ++
          toBytes 1 (cell time r.tRight) ++ toBytes 1 (cell volt r.vLow) ++ toBytes 1 (cell volt r.vHigh) ++ toBytes 4 r.errors ++
          toBytes 1 (b2n r.limit + 2 * b2n (!(time && volt))) ++ toBytes 3 0)
      (m.putBytes sdDie x.addr bytes).marginEnd d 2 pins.length

end Sys2Proof.Machine
end

