-- ==== Sys2Proof/Machine/Boot.lean ====
section
/-! DEFINITION. Start-up, the firmware image, identity and attestation, debug access (spec/17). The signatures and
certificates are of Mldsa.lean. -/

namespace Sys2Proof.Machine

/-! ### The image (R515, R516) -/

/-- A little-endian field of the image slot. -/
def Mach.imageNum (m : Mach) (off n : Nat) : Nat := ofBytes ((List.range n).map (fun i => smGet 0#8 m.perm.image (off + i)))

/-- Bytes of the image slot. -/
def Mach.imageBytes (m : Mach) (off n : Nat) : List Byte := (List.range n).map (fun i => smGet 0#8 m.perm.image (off + i))

/-- A component entry of the manifest (Table 17.3). -/
structure Component where
  type : Nat
  major : Nat
  minor : Nat
  build : Nat
  offset : Nat
  length : Nat
  digest : List Byte
  deriving DecidableEq, Repr

/-- Component entry `i`. -/
def Mach.component (m : Mach) (i : Nat) : Component :=
  let a := 0x40 + 64 * i
  { type := m.imageNum a 1, major := m.imageNum (a + 1) 1, minor := m.imageNum (a + 2) 2, build := m.imageNum (a + 4) 4,
    offset := m.imageNum (a + 8) 8, length := m.imageNum (a + 16) 8, digest := m.imageBytes (a + 0x20) 32 }

/-- The components in use. -/
def Mach.components (m : Mach) : List Component := (List.range (m.imageNum 0xC 4)).map m.component

/-- The component of a type, if the image has one. -/
def Mach.componentOf (m : Mach) (t : Nat) : Option Component := m.components.find? (fun c => c.type == t)

/-- R515: the layout of the image in the slot. [DEDUCED, log 100] -/
def Mach.imageLayoutOk (m : Mach) : Bool :=
  let n := m.imageNum 0xC 4
  let len := m.imageNum 0x10 8
  m.imageNum 0 4 == 0x4657544B && m.imageNum 4 2 == 1 && decide (m.imageNum 6 1 < 4) && decide (m.imageNum 7 1 < 2) &&
    decide (1 ≤ m.imageNum 8 4) && decide (m.imageNum 8 4 ≤ 64) && decide (1 ≤ n) && decide (n ≤ 16) && decide (len ≤ 0x4000000) &&
    m.imageNum 0x1C 36 == 0 && m.imageNum 0x12D4 (0x2000 - 0x12D4) == 0 && m.imageNum (0x40 + 64 * n) (64 * (16 - n)) == 0 &&
    (List.range n).all (fun i => m.imageNum (0x40 + 64 * i + 0x18) 8 == 0) &&
    m.components.all (fun c => c.offset % 4096 == 0 && decide (0x2000 ≤ c.offset) && decide (c.offset + c.length ≤ len)) &&
    disjointSpans ((m.components.filter (fun c => c.length != 0)).map (fun c => (c.offset, c.length))) &&
    [1, 2, 3, 4].all (fun t => m.components.any (fun c => c.type == t)) &&
    decide ((m.components.map (·.type)).Nodup)

/-- R516: why the image in the slot fails verification (Table 17.2), 0 when it passes. [DEDUCED, log 100] -/
def Mach.verifyImage (m : Mach) : Nat :=
  if !m.imageLayoutOk then 0x01
  else
    let pk := m.imageBytes 0x440 1312
    let slot := m.perm.root.getD (m.imageNum 6 1) KeySlot.init
    if slot.revoked ∨ slot.digest ≠ some (sha3 pk) then 0x02
    else if !mldsaVerify pk (m.imageBytes 0 1088) (m.imageBytes 0x960 2420) then 0x03
    else if m.imageNum 8 4 < m.perm.svn then 0x05
    else if m.components.any (fun c => sha3 (m.imageBytes c.offset c.length) != c.digest) then 0x04
    else 0

/-! ### Phases (R511, R514) -/

/-- Microseconds since PWR_GOOD, as the Bludjan die counts PMU cycles. -/
def Mach.bootUs (m : Mach) : Nat := m.pmu sdDie / 200

/-- Start-up is in a phase and may go on. -/
def Mach.inPhase (m : Mach) (k : Nat) : Bool := m.pins.pwrGood && !m.sec.stopped && m.bootPhase == k

/-- Start-up is in a phase of the SP, which has not hung (R510). -/
def Mach.inSpPhase (m : Mach) (k : Nat) : Bool := m.inPhase k && !m.sec.hung

/-- R511: a phase ends; the next begins. -/
def Mach.endPhase (m : Mach) (k next : Nat) : Mach :=
  (m.wr .bootPhaseUs sdDie (m.bootUs % 2 ^ 32) k).put Fld.bootStatus_phase sdDie next

/-- R514, R518: a phase fails with a code, the optics dark, every die and application core in reset; after phase 0x01 comes recovery, for
which the SP starts the MC from its ROM copy, after any other the next cold reset. -/
def Mach.bootFail (m : Mach) (code : Nat) : Mach :=
  let first := m.bootPhase == 1
  let m := if 7 ≤ m.bootPhase then (List.range 8).foldl (fun m d => m.darkPorts d) m else m
  let m := m.put Fld.bootStatus_fail sdDie code
  let m := { m with pins := { m.pins with fault := true, held := true, acRun := false, pcie := .idle, mcUp := m.pins.mcUp || (first && !m.sec.hung) },
                    sec := { m.sec with stopped := !first } }
  if first then m.endPhase 1 2 else m

/-- R520: the boot ROM derives the identity of a verified image. -/
def Mach.deriveIdentity (m : Mach) : Mach :=
  let uds := toBytes 32 m.perm.uds
  let dev := kmac uds [] "KTM32 DEVICEID"
  let digestOf (t : Nat) : List Byte := match m.componentOf t with | some c => c.digest | none => List.replicate 32 0#8
  let meas := (List.range 6).map (fun i => digestOf (i + 1))
  let tag := meas.getD 0 [] ++ toBytes 1 m.perm.svn
  let cdi1 := kmac uds tag "KTM32 CDI1"
  let fw := kmac cdi1 [] "KTM32 FWKEY"
  let devId := sha3 (mldsaPublic dev)
  let m := (List.range 4).foldl (fun m i => m.wr .secDevid sdDie (ofBytes ((devId.drop (8 * i)).take 8)) i) m
  let sec := { m.sec with meas, cdi1 := some cdi1, fwSeed := some fw, fwCert := certificate dev (mldsaPublic fw) tag (toBytes 32 (Config.freeBits m.freeCtr)) }
  { m.tickFree.put Fld.secStatus_uds_locked sdDie 1 with sec }

/-- What a verified image shows of itself and of the keys (R517). -/
def Mach.showImage (m : Mach) : Mach :=
  let live (l : List KeySlot) : Nat := (l.mapIdx (fun i k => b2n (k.digest.isSome && !k.revoked) * 2 ^ i)).foldl (· + ·) 0
  let m := (m.put Fld.bootStatus_svn_image sdDie (m.imageNum 8 4)).put Fld.bootStatus_svn_fused sdDie m.perm.svn
  let m := (m.put Fld.secStatus_root_slots sdDie (live m.perm.root)).put Fld.secStatus_debug_slots sdDie (live m.perm.debug)
  let m := m.put Fld.secStatus_key_slot sdDie (m.imageNum 6 1)
  (List.range 6).foldl (fun m i => match m.componentOf (i + 1) with
    | none => m
    | some c => m.wr .bootFw sdDie (Fld.bootFw_build.into (Fld.bootFw_minor.into (Fld.bootFw_major.into 0 c.major) c.minor) c.build) (i + 1)) m

/-- IMAGE_VERIFICATION: phase 0x01. -/
def Mach.imageVerification (m : Mach) : Mach :=
  if !m.inSpPhase 1 then m
  else
    let code := m.verifyImage
    if code ≠ 0 then m.bootFail code else (m.showImage.deriveIdentity).endPhase 1 3

/-- RECOVERY (R518): phase 0x02: the image that the MC has fetched, or none. [DEDUCED, log 100] -/
def Mach.recovery (m : Mach) (image : Option (List Byte)) : Mach :=
  if !m.inSpPhase 2 then m
  else
    match image with
    | none => m.bootFail 0x06
    | some bs =>
      let slot := ((bs.take 0x4000000).mapIdx (fun i b => (i, b))).filter (fun x => x.2 != 0#8)
      let m : Mach := { m with perm := { m.perm with image := slot } }
      if m.verifyImage ≠ 0 then m.bootFail 0x07
      else ((m.showImage.deriveIdentity).put Fld.bootStatus_recovery sdDie 1).endPhase 2 3

/-- RELEASE (R511, R513, R521): phase 0x03: the MC and CP firmware start, or do not; the alias key is derived; the governors of the dies show
their share (R474). -/
def Mach.release (m : Mach) (started : Bool) : Mach :=
  if !m.inSpPhase 3 then m
  else if !started then m.bootFail 0x08
  else
    let als := kmac (m.sec.cdi1.getD []) ((m.sec.meas.drop 1).flatMap id) "KTM32 ALIAS"
    let cert := certificate (m.sec.fwSeed.getD []) (mldsaPublic als) [] (toBytes 32 (Config.freeBits m.freeCtr))
    let m := { m.tickFree with sec := { m.sec with aliasSeed := some als, aliasCert := cert, fwSeed := none },
                               pins := { m.pins with mcUp := true, held := false }, cp := { m.cp with up := true } }
    let m := (List.range 8).foldl (fun m d => m.showShare d) m
    (m.put Fld.secStatus_attest_ready sdDie 1).endPhase 3 4

/-- Every core of the module. -/
def allCores : List (Nat × Nat) := (List.range 8).flatMap (fun d => (List.range 32).map (fun c => (d, c)))

/-- FUSE_LOAD (R111): phase 0x04: the spare maps from the fuses, unlocked; the fuse arrays' own check codes may fail. -/
def Mach.fuseLoad (m : Mach) (checkOk : Bool) : Mach :=
  if !m.inPhase 4 then m
  else if !checkOk then m.bootFail 0x10
  else
    let m := allCores.foldl (fun m x =>
      m.wr .arrSpareMap x.1 (Fld.arrSpareMap_lock.into (smGet noSpare m.perm.spare (coreKey x.1 x.2)).toNat 0) 0 x.2) m
    m.endPhase 4 5

/-- R320: a stack passes: on every data and check pin a timing eye of at least 0.40 UI with at least 0.15 UI on each side of
the sampling point, and a voltage eye of at least 40 mV. -/
def eyePasses (e : StackEye) : Bool :=
  decide (400 ≤ e.eye) && decide (150 ≤ e.left) && decide (150 ≤ e.right) && decide (40 ≤ e.mv)

/-- R320: all 32 stacks pass; a stack of which nothing was measured does not. -/
def stacksPass (eyes : List StackEye) : Bool :=
  (List.range 32).all (fun s => match eyes[s]? with | some e => eyePasses e | none => false)

/-- R319, R331: every logged row is reapplied by hard post-package repair; `left`: the repair resources then left in each stack
(HBM_STATUS.`ppr_left`). -/
def Mach.reapplyRepairs (m : Mach) (left : List Nat) : Mach :=
  let m := (List.range 32).foldl (fun m s => m.put Fld.hbmStatus_ppr_left (s / 4) (left.getD s 0) (c := s % 4)) m
  { m with perm := { m.perm with hard := m.perm.repair } }

/-- MEMORY_TRAINING (R320, R331, R335): phase 0x05. `eyes`: of each rate tried, 10.0, 9.6, 8.8, 8.0 Gb/s, the least eyes of each
of the 32 stacks; `gdFails`: of each of 32, 28, 24 Gb/s, the GDDR7 channels that fail; `log`: none where the repair log cannot be
read, else what `Mach.reapplyRepairs` leaves. -/
def Mach.memoryTraining (m : Mach) (eyes : List (List StackEye)) (gdFails : List Nat) (log : Option (List Nat)) : Mach :=
  if !m.inPhase 5 then m
  else match log, (List.range 4).find? (fun i => stacksPass (eyes.getD i [])), (List.range 3).find? (fun i => gdFails.getD i 1 == 0) with
    | none, _, _ => m.bootFail 0x22
    | _, none, _ => m.bootFail 0x20
    | _, _, none => m.bootFail 0x21
    | some left, some r, some g =>
      let m := (List.range 8).foldl (fun m d => (List.range 4).foldl (fun m s => m.put Fld.hbmStatus_rate d (4 - r) (c := s)) m) m
      ((m.reapplyRepairs left).put Fld.gdStatus_rate sdDie (3 - g)).endPhase 5 6

/-- R112: add a failing line to the two skip fields of its kind, kept ascending; none when no spare remains. -/
def addSkip (s0 s1 line : Nat) : Option (Nat × Nat) :=
  if line = s0 ∨ line = s1 then some (s0, s1)
  else if s0 = 0xFF then some (line, 0xFF)
  else if s1 = 0xFF then some (min s0 line, max s0 line)
  else none

/-- R112: add failing lines of one kind while a spare remains; whether one was left without. -/
def addSkips (s : Nat × Nat) (lines : List Nat) : (Nat × Nat) × Bool :=
  lines.foldl (fun (a : (Nat × Nat) × Bool) l => match addSkip a.1.1 a.1.2 l with
    | none => (a.1, true)
    | some s => (s, a.2)) (s, false)

/-- R112, R519: what a core's self-test result does: the map takes every failing line for which a spare remains, and a core with a line
that has none, or with a failing SRAM, is fenced; the CP firmware records both. -/
def Mach.selfTestCore (m : Mach) (t : SelfTestCore) : Mach :=
  let old := m.rd .arrSpareMap t.die 0 t.core
  let rows := addSkips (Fld.arrSpareMap_row_skip0.of old, Fld.arrSpareMap_row_skip1.of old) t.rows
  let cols := addSkips (Fld.arrSpareMap_col_skip0.of old, Fld.arrSpareMap_col_skip1.of old) t.cols
  let key := coreKey t.die t.core
  let v := Fld.arrSpareMap_row_skip1.into (Fld.arrSpareMap_row_skip0.into old rows.1.1) rows.1.2
  let v := Fld.arrSpareMap_col_skip1.into (Fld.arrSpareMap_col_skip0.into v cols.1.1) cols.1.2
  let m :=
    if v = old then m
    else
      let v := Fld.arrSpareMap_soft.into v 1
      { m.wr .arrSpareMap t.die v 0 t.core with sec := { m.sec with soft := smSet 0 m.sec.soft key v } }
  if rows.2 || cols.2 || t.sram then
    { m.fenceCore t.die t.core 2 with sec := { m.sec with stFence := smSet 0 m.sec.stFence key 1 } }
  else m

/-- R513: the optical transmitters light, and every port that receives light trains. -/
def Mach.lightUp (m : Mach) : Mach :=
  (List.range 8).foldl (fun m d => (List.range 8).foldl (fun m p => m.portWake d p) m) m

/-- SELF_TEST (R111, R112, R513, R519): phase 0x06. -/
def Mach.selfTest (m : Mach) (results : List SelfTestCore) : Mach :=
  if !m.inPhase 6 then m
  else
    let m := results.foldl (fun m t => m.selfTestCore t) m
    let m := allCores.foldl (fun m x => m.put Fld.arrSpareMap_lock x.1 1 0 x.2) m
    if (List.range 8).any (fun d => (List.range 32).all (fun c => m.fenced d c)) then m.bootFail 0x30 else (m.endPhase 6 7).lightUp

/-- FABRIC_BRING_UP (R512): phase 0x07: the node id and system sizes that the chassis provides, or none. -/
def Mach.fabricBringUp (m : Mach) (info : Option (Nat × Nat)) : Mach :=
  if !m.inPhase 7 then m
  else
    let m := match info with
      | none => m
      | some (node, dims) => (m.cfgApply [] 0x0002 (cfgClamp 0x0002 0 0x1FF dims)).cfgApply [] 0x0001 (node % 2 ^ 14)
    m.endPhase 7 8

/-- LOADER_ENTRY (R511, R513, R517, R536): phase 0x08: AC0 starts, and the PCIe links come up; the SP commits the image's security
version when the image asks for that. Whether the loader keeps PERST_OUT_N asserted is a free value, here and, once it runs, each time it
sets the pin. [DESIGN CHOICE, log 146] -/
def Mach.loaderEntry (m : Mach) : Mach :=
  let perst := some (Config.freeBits m.freeCtr % 2 == 1)
  if m.inPhase 0xF && m.pins.acRun && !m.pins.withdrawn then { m.tickFree with pins := { m.pins with perst } }
  else if !m.inPhase 8 then m
  else
    let svn := if m.imageNum 7 1 % 2 = 1 ∧ m.sec.hung = false then max m.perm.svn (m.imageNum 8 4) else m.perm.svn
    let m := { m.tickFree with perm := { m.perm with svn }, pins := { m.pins with acRun := true, pcie := .linkUp, perst } }
    (m.put Fld.bootStatus_svn_fused sdDie svn).endPhase 8 0xF

/-- Table 17.1: the maximum of a phase in ms. -/
def phaseMax : Nat → Option Nat
  | 1 => some 250 | 2 => some 90000 | 3 => some 1 | 4 => some 5 | 5 => some 1600 | 6 => some 50 | 8 => some 1 | _ => none

/-- Table 17.2: the codes of a phase's failures; phase 0x08 has none. -/
def phaseCodes : Nat → List Nat
  | 1 => [0x01, 0x02, 0x03, 0x04, 0x05] | 2 => [0x06, 0x07] | 3 => [0x08] | 4 => [0x10] | 5 => [0x20, 0x21, 0x22] | 6 => [0x30] | _ => []

/-- R514: the code of a phase that exceeded its maximum: one of that phase's, which one is open; of phase 0x08, to which Table 17.2 gives none,
any that shows a failure. [DESIGN CHOICE, log 99] -/
def timeoutCode (k free : Nat) : Nat := match phaseCodes k with | [] => 1 + free % 255 | l => l.getD (free % l.length) 0

/-- PHASE_TIMEOUT (R511, R514): the phase exceeds its maximum. [DESIGN CHOICE, log 99] -/
def Mach.phaseTimeout (m : Mach) : Mach :=
  let k := m.bootPhase
  let began := ((List.range 16).map (fun i => m.rd .bootPhaseUs sdDie i)).foldl max 0
  match phaseMax k with
  | none => m
  | some ms =>
    if !m.inPhase k ∨ m.bootUs ≤ began + 1000 * ms then m
    else m.tickFree.bootFail (timeoutCode k (Config.freeBits m.freeCtr))

/-! ### Attestation (R522, R526) -/

/-- R522: a request beyond four that wait behind a pending answer gets a busy reply. -/
def Mach.attestBusy (m : Mach) (relay : Nat) : Mach := (m.ev Fld.secEvents_attest_busy sdDie).send 0x50 [relay, 2]

/-- The attestation service answers: the alias key has been derived, the SP and the management side run. -/
def Mach.attests (m : Mach) : Bool := m.pins.mcUp && !m.sec.hung && m.flag Fld.secStatus_attest_ready sdDie

/-- Table 17.4: bytes 0x000 to 0x11F of the report. -/
def Mach.reportHead (m : Mach) (nonce : List Byte) : List Byte :=
  let taint := m.get Fld.secStatus_taint sdDie
  let flags := taint + 2 * m.get Fld.bootStatus_recovery sdDie + 4 * (1 - taint)
  let maps := allCores.flatMap (fun x => toBytes 8 (m.rd .arrSpareMap x.1 0 x.2))
  let log := Config.repairLog (m.perm.repair.map (fun r => [r.die, r.stack, r.pch, r.sid, r.bg, r.bank, r.row]))
  toBytes 4 0x3154414B ++ toBytes 2 1 ++ toBytes 2 flags ++ ((nonce ++ List.replicate 32 0#8).take 32) ++
    toBytes 2 (m.get Fld.fabNode_valid 0 * 2 ^ 15 + m.get Fld.fabNode_node 0) ++ toBytes 2 (m.get Fld.bootId_stepping sdDie) ++
    toBytes 1 (m.get Fld.bootStatus_svn_fused sdDie) ++ toBytes 1 (m.get Fld.bootStatus_svn_image sdDie) ++ toBytes 2 0 ++
    toBytes 8 (m.ft sdDie) ++ toBytes 8 0 ++ m.sec.meas.flatMap id ++ sha3 (maps ++ log)

/-- R522, R526: the answer of the SP to a request: the report of Table 17.4, or the certificates. -/
def Mach.attestAnswer (m : Mach) (q : AttestReq) : Mach :=
  let taint := m.flag Fld.secStatus_taint sdDie
  match q.nonce with
  | some nonce =>
    let head := m.reportHead nonce
    if taint then m.send 0x50 [q.relay, 0, ofBytes (head ++ List.replicate 2420 0#8)]
    else m.tickFree.send 0x50 [q.relay, 0, ofBytes (head ++ mldsaSign (m.sec.aliasSeed.getD []) head (toBytes 32 (Config.freeBits m.freeCtr)))]
  | none =>
    if taint then m.send 0x50 [q.relay, 1, ofBytes m.perm.devCert]
    else m.send 0x50 [q.relay, 1, ofBytes m.perm.devCert, ofBytes m.sec.fwCert, ofBytes m.sec.aliasCert]

/-- R522: the SP answers the `n` oldest requests that wait, in the order of their arrival. -/
def Mach.attestServe (m : Mach) (n : Nat) : Mach :=
  let due := m.sec.asked.take n
  due.foldl (fun m q => m.attestAnswer q) { m with sec := { m.sec with asked := m.sec.asked.drop n } }

/-- ATTESTATION_REPORT, ATTESTATION_CERTIFICATES (R522): a request arrives by the management lane (0) or I3C (1), and the SP answers requests
until `waiting` of them still wait. [DESIGN CHOICE, log 107] -/
def Mach.attestAsk (m : Mach) (relay : Nat) (nonce : Option (List Byte)) (waiting : Nat) : Mach :=
  if !m.attests then m
  else if 4 < m.sec.asked.length then m.attestBusy relay
  else
    let m : Mach := { m with sec := { m.sec with asked := m.sec.asked ++ [⟨relay, nonce, m.pmu sdDie⟩] } }
    m.attestServe (m.sec.asked.length - waiting)

/-- R522: a request is answered within 20 ms (4 000 000 PMU cycles). [DESIGN CHOICE, log 24] -/
def Mach.attestDue (m : Mach) : Mach :=
  if !m.attests then m
  else m.attestServe (m.sec.asked.filter (fun q => decide (q.at_ + 4000000 ≤ m.pmu sdDie))).length

/-! ### Debug access (R523 to R526) -/

/-- Eight refusals since the cold reset: every DEBUG_UNLOCK is refused (R524). -/
def Mach.debugShut (m : Mach) : Bool := decide (8 ≤ m.get Fld.secStatus_unlock_fails sdDie)

/-- DEBUG_CHALLENGE: sub-operation 0; a reserved sub-operation is out of range. [DESIGN CHOICE, log 102] -/
def Mach.cmdChallenge (m : Mach) (c : MbxCmd) : Mach × Nat × List Nat :=
  if pfield c.words 0 3 0 ≠ 0 then m.badArg 0 0
  else if m.debugShut then (m.ev Fld.secEvents_unlock_refused sdDie, mbDebugRefused, [])
  else
    let n := Config.freeBits m.freeCtr % 2 ^ 256
    let m := { m.tickFree with sec := { m.sec with challenge := some (toBytes 32 n, m.pmu sdDie) } }
    (m, mbOk, (List.range 4).map (fun i => n / 2 ^ (64 * i) % 2 ^ 64) ++ (List.range 4).map (fun i => m.rd .secDevid sdDie i))

/-- R524: a refusal is counted and consumes the challenge. -/
def Mach.debugRefuse (m : Mach) : Mach × Nat × List Nat :=
  let m := m.put Fld.secStatus_unlock_fails sdDie (min 8 (m.get Fld.secStatus_unlock_fails sdDie + 1))
  ({ m.ev Fld.secEvents_unlock_refused sdDie with sec := { m.sec with challenge := none } }, mbDebugRefused, [])

/-- R523, R524: whether a token opens debug access. [DESIGN CHOICE, log 102] -/
def Mach.tokenOk (m : Mach) (token : List Byte) : Bool :=
  let slot := ofBytes ((token.drop 4).take 1)
  let key := (Perm.debug m.perm).getD slot KeySlot.init
  let pk := match m.componentOf 6 with
    | some c => if 1312 * (slot + 1) ≤ c.length then m.imageBytes (c.offset + 1312 * slot) 1312 else []
    | none => []
  match m.sec.challenge with
  | none => false
  | some (ch, at_) =>
    m.parts.isEmpty && decide (m.pmu sdDie ≤ at_ + 12000000000) && ofBytes (token.take 4) == 0x4B444244 && decide (slot < 2) &&
      ofBytes ((token.drop 5).take 3) == 0 && ofBytes ((token.drop 40).take 36) == 0 && (token.drop 8).take 32 == ch &&
      !key.revoked && !pk.isEmpty && ofBytes pk != 0 && key.digest == some (sha3 pk) &&
      mldsaVerify pk (token.take 76) (token.drop 76)

/-- R524: each UNLOCK consumes the outstanding challenge. [DESIGN CHOICE, log 102] -/
def Mach.dropChallenge (m : Mach) : Mach := { m with sec := { m.sec with challenge := none } }

/-- DEBUG_UNLOCK: sub-operation 1 (R523 to R525): one that finds debug access open changes nothing; an SP that has hung erases no key, so that
debug access stays shut. [DESIGN CHOICE, log 102] -/
def Mach.cmdUnlock (m : Mach) (c : MbxCmd) : Mach × Nat × List Nat :=
  let addr := pfield c.words 1 47 0
  if m.debugOpen then (m, mbOk, [3])
  else if m.debugShut then m.debugRefuse
  else if !regionOk addr 2496 then m.dropChallenge.badArg 1 0
  else if pfield c.words 2 31 0 ≠ 2496 then m.dropChallenge.badArg 2 0
  else if !m.tokenOk (m.viewBytes addr 2496) then (m.viewed addr 2496).debugRefuse
  else if m.sec.hung then ((m.viewed addr 2496).dropChallenge, mbFailed, [0])
  else
    let m := m.viewed addr 2496
    let m := { m with sec := { m.sec with cdi1 := none, aliasSeed := none, fwSeed := none, challenge := none }, debugOpen := true }
    let m := (m.put Fld.secStatus_debug_open sdDie 1).put Fld.secStatus_taint sdDie 1
    (m.ev Fld.secEvents_debug_opened sdDie, mbOk, [3])

/-- The two rows of opcode 0x43 take the requests of their own sub-operation. -/
def Mach.debugRun (m : Mach) (k : Nat) (unlock : Bool) : Mach :=
  match m.cp.running.find? (fun c => c.mbx == k && c.opcode == 0x43) with
  | none => m
  | some c =>
    if (pfield c.words 0 3 0 == 1) != unlock then m
    else
      let (m, status, ws) := if unlock then m.cmdUnlock c else m.cmdChallenge c
      m.respond c status ws

end Sys2Proof.Machine
end

