-- ==== Sys2Proof/Machine/Boundary.lean ====
section
/-! DEFINITION. The module at its boundary (spec/18): cold reset, power, I3C addresses, the debug port. -/

namespace Sys2Proof.Machine

/-- COLD_RESET (R24, R509, R533): power is applied, or PWR_EN is asserted again. The straps are sampled; `rails`: the internal rails
come up. Only the permanent store is kept. -/
def Mach.coldReset (m : Mach) (cool bifurc : Nat) (rails : Bool) : Mach :=
  let c := { Mach.cold m.perm cool bifurc rails with freeCtr := m.freeCtr }
  if cool = 3 then c.toCp sdDie 0x55 false false [(2, 3)] else c

/-- Every rail has stopped (the Unpowered column of Table 18.4): nothing is driven. [DEDUCED, log 105] -/
def Mach.unpowered (m : Mach) : Mach :=
  { m with pins := { m.pins with sdRail := false, railsUp := false, pwrGood := false, fault := false, perst := none, i3c := none,
                                 mcUp := false, refclk := 0, pcie := .off, held := true, tap := .testLogicReset, tdo := none, acRun := false } }

/-- PWR_EN_DEASSERT (R534). -/
def Mach.pwrEnDeassert (m : Mach) : Mach :=
  let m := m.goSilent.unpowered
  { m with pins := { m.pins with pwrEn := false } }

/-- SUPPLY_OUT_OF_TOLERANCE (R530): the module withdraws and stops the rails of its data plane. -/
def Mach.supplyOut (m : Mach) : Mach :=
  let m := m.withdraw 4 0
  { m with pins := { m.pins with railsUp := false, held := true } }

/-- SUPPLY_LOSS (R530): the input below 36 V or above 63 V for 50 µs: every rail stops. Other inputs do not stop the rails. -/
def Mach.supplyLoss (m : Mach) (mv : Nat) : Mach := if mv < 36000 ∨ 63000 < mv then m.goSilent.unpowered else m

/-- I3C_ENTDAA (R540): a target without a dynamic address takes the one offered. [PRESUMED, log 104] -/
def Mach.i3cEntdaa (m : Mach) (addr : Nat) : Mach :=
  if !m.pins.mcUp ∨ m.pins.i3c.isSome then m else { m with pins := { m.pins with i3c := some (addr % 128) } }

/-- I3C_SETDASA (R540): as ENTDAA, for the static address 0x2A. [PRESUMED, log 104] -/
def Mach.i3cSetdasa (m : Mach) (static addr : Nat) : Mach := if static ≠ 0x2A then m else m.i3cEntdaa addr

/-- IEEE 1149.1: the next state of the port's controller by TMS. -/
def tapNext : TapState → Bool → TapState
  | .testLogicReset, tms => if tms then .testLogicReset else .runTestIdle
  | .runTestIdle, tms => if tms then .selectDr else .runTestIdle
  | .selectDr, tms => if tms then .selectIr else .captureDr
  | .captureDr, tms => if tms then .exit1Dr else .shiftDr
  | .shiftDr, tms => if tms then .exit1Dr else .shiftDr
  | .exit1Dr, tms => if tms then .updateDr else .pauseDr
  | .pauseDr, tms => if tms then .exit2Dr else .pauseDr
  | .exit2Dr, tms => if tms then .updateDr else .shiftDr
  | .updateDr, tms => if tms then .selectDr else .runTestIdle
  | .selectIr, tms => if tms then .testLogicReset else .captureIr
  | .captureIr, tms => if tms then .exit1Ir else .shiftIr
  | .shiftIr, tms => if tms then .exit1Ir else .shiftIr
  | .exit1Ir, tms => if tms then .updateIr else .pauseIr
  | .pauseIr, tms => if tms then .exit2Ir else .pauseIr
  | .exit2Ir, tms => if tms then .updateIr else .shiftIr
  | .updateIr, tms => if tms then .selectDr else .runTestIdle

/-- DEBUG_PORT_ACCESS (R542): the pins take these levels. Outside debug access the port ignores them and DBG_TDO floats. What shifts
out of the port's registers is not described. [DESIGN CHOICE, log 103] -/
def Mach.debugPort (m : Mach) (tck tms _tdi trst : Bool) : Mach :=
  if !m.debugOpen then { m with pins := { m.pins with tdo := none } }
  else if !trst then { m with pins := { m.pins with tap := .testLogicReset, tck, tdo := none } }
  else
    let tap := if tck && !m.pins.tck then tapNext m.pins.tap tms else m.pins.tap
    let shifts := tap == .shiftDr || tap == .shiftIr
    let out := Config.freeBits m.freeCtr % 2 == 1
    { m.tickFree with pins := { m.pins with tap, tck, tdo := if shifts then some out else none } }

end Sys2Proof.Machine
end

