-- ==== Sys2Proof/Machine/Mmio.lean ====
section
/-! DEFINITION. Accesses to the register windows (R8 to R15, R42, R116, R163, R262, R452, R477): finding the register, the checks,
the value that Table 0.3 gives, and the operation of each register whose rule does more. -/

namespace Sys2Proof.Machine

/-! ### Finding a register -/

/-- Where in a register's map an offset within its region falls: index, second index, byte within the register. -/
def RegInfo.slot (x : RegInfo) (at_ off : Nat) : Option (Nat × Nat × Nat) :=
  let wb := x.width / 8
  if off < at_ then none
  else
    let rel := off - at_
    let k := if x.stride = 0 then 0 else rel / x.stride
    let rem := if x.stride = 0 then rel else rel % x.stride
    let j := if x.stride2 = 0 then 0 else rem / x.stride2
    let rem := if x.stride2 = 0 then rem else rem % x.stride2
    if k < x.count ∧ j < x.count2 ∧ rem < wb then some (x.first + k, j, rem) else none

/-- The registers that an offset of a region of one kind reaches. -/
def findReg (p : RegInfo → Bool) (at_ : RegInfo → Nat) (off d c : Nat) : Option (RegId × Nat) :=
  Reg.all.findSome? (fun r =>
    let x := r.info
    if p x then (x.slot (at_ x) off).map (fun s => (⟨r, d, c, s.1, s.2.1⟩, s.2.2)) else none)

/-- R8: the register and the byte within it at a module physical address: windows of the compute dies (cores, die level, memory
stacks) and of the Bludjan die. -/
def regAt (pa : Nat) : Option (RegId × Nat) :=
  if pa < 0x80000000000 then none
  else if pa < 0x80800000000 then
    let d := (pa - 0x80000000000) / 2 ^ 32
    let off := pa % 2 ^ 32
    if off < 0x40000000 then
      if off / 2 ^ 24 < 32 then findReg (fun x => x.scope == .core) (·.offset) (off % 2 ^ 24) d (off / 2 ^ 24) else none
    else if 0x40100000 ≤ off ∧ off < 0x40104000 then
      findReg (fun x => x.scope == .stack) (·.offset) (0x40100000 + off % 0x1000) d (off / 0x1000 % 4)
    else findReg (fun x => x.scope == .die || x.scope == .nine) (·.offset) off d 0
  else if pa < 0x80900000000 then
    findReg (fun x => x.scope == .sd || x.scope == .nine) (·.sdOffset) (pa % 2 ^ 32) sdDie 0
  else none

/-- The module physical address of a register copy. -/
def RegId.addr (id : RegId) : Nat :=
  let x := id.reg.info
  let rel := (id.i - x.first) * x.stride + id.j * x.stride2
  if id.die = sdDie then 0x80800000000 + x.sdOffset + rel
  else 0x80000000000 + id.die * 2 ^ 32 + x.offset + rel +
    (if x.scope = Scope.core then id.core * 2 ^ 24 else if x.scope = Scope.stack then id.core * 0x1000 else 0)

/-- R9: an access of `n` bytes at byte `b` of a register of a width is legal. -/
def legalAccess (width b n : Nat) : Bool := (b == 0 && 8 * n == width) || (width == 64 && n == 4 && (b == 0 || b == 4))

/-! ### Reading -/

/-- R452: the SNAP registers of a partition's dies other than the lowest read their reset values and ignore writes. -/
def snapRegs : List Reg :=
  [.snapCfg, .snapTimes, .snapRgnBase, .snapSsrBase, .snapWork, .snapStatus, .snapStep, .snapCommit, .snapUpdDone, .snapEvents,
   .snapFqBase, .snapFqCfg, .snapFqPtr, .snapFqDropped, .snapCnt]

/-- A copy of a SNAP register that its partition does not use. -/
def Mach.unusedSnap (m : Mach) (id : RegId) : Bool := snapRegs.contains id.reg && !m.snapUsed id.die

/-- R21, Table 1.3: the registers at which the management plane meets the others: the mailbox block, the power governor, fabric
time (read only), and those of its own on the Bludjan die. Every other access of the MC is an access fault. [DEDUCED, log 16] -/
def mcMeets (writes : Bool) (id : RegId) : Bool :=
  match id.reg with
  | .mbxReqTail | .mbxRspHead | .mbxEvents => !writes || id.i == 31
  | .mbxReqHead | .mbxRspTail | .mbxCfg | .mbxStatus | .mbxVec => !writes
  | .pwrCap | .pwrCapPend | .pwrDomainW | .pwrEnergy | .pwrCtl | .pwrStatus | .pwrMemW | .pwrNutCfg | .pwrNutDslot | .pwrNutMslot
  | .pwrNutGrp | .pwrNutProf | .pwrEvents | .thmStatus | .pwrCnt | .thmCnt => true
  | .bootId | .bootStatus | .bootPhaseUs | .bootFw | .secStatus | .secEvents | .secDevid => true
  | .ftCount | .ftStatus | .ftCivilOffset => !writes
  | _ => false

/-- R21, Table 1.3: the mailbox block lies between the control plane, the CP firmware and the management plane: core code, which is the
data plane's, has no side of it. [DEDUCED, log 16] -/
def coreMeets (id : RegId) : Bool :=
  !([.mbxReqTail, .mbxReqHead, .mbxRspTail, .mbxRspHead, .mbxCfg, .mbxStatus, .mbxEvents, .mbxVec] : List Reg).contains id.reg

/-- R21: a requester meets a register. -/
def planeMeets (who : BusWho) (writes : Bool) (id : RegId) : Bool :=
  match who with
  | .mc => mcMeets writes id
  | .core => coreMeets id
  | _ => true

/-- R42: an access by software or core code to the registers of timers 0 to 15. -/
def timerDenied (who : BusWho) (id : RegId) : Bool :=
  (id.reg == .ftTmrTgt || id.reg == .ftTmrCtl) && decide (id.i < 16) && (who == .sw || who == .core)

/-- The bits of a field. -/
def FieldInfo.mask (f : FieldInfo) : Nat := 2 ^ (f.hi + 1) - 2 ^ f.lo

/-- The bits of the fields of a register map that have an access type. -/
def RegInfo.bitsOfAcc (x : RegInfo) (a : Acc) : Nat := (x.fields.filter (fun f => f.acc == a)).foldl (fun n f => n ||| f.mask) 0

/-- R12, R13: what a read of the bits `mask` returns, and the register after it: RC fields read whole are cleared; DC_L1_STATUS shows the
slots that are busy now (R307). -/
def Mach.readReg (m : Mach) (id : RegId) (mask : Nat) : Mach × Nat :=
  let x := id.reg.info
  let m := if id.reg = .dcL1Status then m.showSlots id.die id.core else m
  if m.unusedSnap id then (m, resetOf id &&& mask)
  else
    let v := m.reg id
    let gone := (x.fields.filter (fun f => f.acc == .rc && f.mask &&& mask == f.mask)).foldl (fun n f => n ||| f.mask) 0
    let v' := v &&& (2 ^ 64 - 1 - gone)
    (if v' = v then m else m.setReg id v', v &&& mask &&& (2 ^ 64 - 1 - x.bitsOfAcc .wo))

/-- The mailbox slots in the Bludjan window (R479). [DEDUCED, log 14] -/
def inSlots (pa n : Nat) : Bool :=
  decide (0x80800080000 ≤ pa) && decide (pa + n ≤ 0x808000A0000) && (n == 1 || n == 2 || n == 4 || n == 8) && pa % n == 0

/-- R21, R479, Table 1.3: whether a requester reaches the slot at an address: the MC those of mailbox 31, core code none.
[DEDUCED, log 16] -/
def slotsMeet (who : BusWho) (pa : Nat) : Bool :=
  match who with
  | .mc => decide (0x8080009F000 ≤ pa)
  | .core => false
  | _ => true

/-- Whether a requester may read a register (R21, R42). [DEDUCED, log 16] -/
def mayRead (who : BusWho) (id : RegId) : Bool := !timerDenied who id && planeMeets who false id

/-- A read of `n` bytes at a module physical address in a register window: none is an access fault (R8, R9, R21, R42). -/
def Mach.busRead (m : Mach) (who : BusWho) (pa n : Nat) : Mach × Option Nat :=
  if inSlots pa n then (m, if slotsMeet who pa then some (m.slotNum (pa - 0x80800080000) n) else none)
  else match regAt pa with
    | none => (m, none)
    | some (id, b) =>
      if !legalAccess id.reg.info.width b n || !mayRead who id then (m, none)
      else
        let (m, v) := m.readReg id ((2 ^ (8 * n) - 1) * 2 ^ (8 * b))
        (m, some (v / 2 ^ (8 * b)))

/-! ### Writing -/

/-- R15: the lock of a register's block stands. -/
def Mach.locked (m : Mach) (id : RegId) : Bool :=
  match id.reg with
  | .ftCtrl => m.flag Fld.ftCtrl_lock id.die
  | .arrSpareMap => m.flag Fld.arrSpareMap_lock id.die (c := id.core)
  | .fabNode | .fabDims => m.flag Fld.fabNode_lock id.die
  | _ => false

/-- Table 0.3: a field after a write of the bits `mask` of `val`; W1C bits that the module sets in the same cycle (`hw`) stay set
(R14). A 1 clears a W1C bit, so that a bit that reads 1 after it stands for an event since then (R263).
[DEDUCED, log 11; DESIGN CHOICE, log 12] -/
def FieldInfo.written (f : FieldInfo) (locked : Bool) (old val mask hw : Nat) : Nat :=
  let fm := f.mask
  let wm := fm &&& mask
  match f.acc with
  | .ro | .rc => old &&& fm
  | .rw => (old &&& (fm ^^^ wm)) ||| (val &&& wm)
  | .rwl => if locked then old &&& fm else (old &&& (fm ^^^ wm)) ||| (val &&& wm)
  | .w1c => ((old &&& fm) &&& (fm ^^^ (val &&& wm))) ||| (val &&& wm &&& hw)
  | .w1s => (old &&& fm) ||| (val &&& wm)
  | .wo => 0

/-- R9, R12, R15: a write of `mask` of `val` to a register as its own operation gets it. -/
def Mach.regW (m : Mach) (who : BusWho) (id : RegId) (val mask hw : Nat) : RegW :=
  let old := m.reg id
  { who, old, mask, raw := (old &&& (2 ^ 64 - 1 - mask)) ||| (val &&& mask),
    new := id.reg.info.fields.foldl (fun n f => n ||| f.written (m.locked id) old val mask hw) 0 }

/-- R262: the counter of its block's counter table that counts the event of a W1C bit, where one does; a corrected read of stacked memory is
one of one symbol or of two, as `pick` says. [DESIGN CHOICE, log 122] -/
def eventCnt (r : Reg) (bit pick : Nat) : Option (Reg × Nat) :=
  match r, bit with
  | .arrEvents, 0 => some (.arrCnt, 10)
  | .arrEvents, 1 => some (.arrCnt, 11)
  | .arrEvents, 6 => some (.arrCnt, 12)
  | .arrEvents, 7 => some (.arrCnt, 13)
  | .sumEvents, 0 => some (.sumCnt, 9)
  | .sumEvents, 4 => some (.sumCnt, 7)
  | .vecEvents, 0 => some (.vecCnt, 7)
  | .tguEvents, 0 => some (.tguCnt, 11)
  | .tguEvents, 4 => some (.tguCnt, 4)
  | .cqEvents, 0 => some (.cqCnt, 2)
  | .cqEvents, 1 => some (.cqCnt, 7)
  | .syncCtr, 36 => some (.syncCnt, 3)
  | .syncCtr, 37 => some (.syncCnt, 4)
  | .syncCtr, 38 => some (.syncCnt, 5)
  | .syncDieEvents, 1 => some (.syncCnt, 11)
  | .syncDieEvents, 2 => some (.syncCnt, 8)
  | .syncDieEvents, 3 | .syncDieEvents, 4 => some (.syncCnt, 8)
  | .dcEvents, 2 => some (.dcCnt, 24)
  | .dcEvents, 3 => some (.dcCnt, 20)
  | .dcEvents, 4 => some (.dcCnt, 21)
  | .dcEvents, 6 => some (.dcCnt, 9)
  | .dcEvents, 7 => some (.dcCnt, 22)
  | .dcEvents, 8 => some (.dcCnt, 26)
  | .dcDeadCtl, 3 => some (.dcCnt, 21)
  | .hbmEvents, 1 => some (.hbmCnt, 2 + pick % 2)
  | .hbmEvents, 2 => some (.hbmCnt, 4)
  | .hbmEvents, 3 => some (.hbmCnt, 8)
  | .hbmEvents, 7 => some (.hbmCnt, 5)
  | .gdEvents, 0 => some (.gdCnt, 2)
  | .gdEvents, 1 => some (.gdCnt, 4)
  | .gdEvents, 2 => some (.gdCnt, 5)
  | .fabEvents, 4 => some (.fabCnt, 5)
  | .fabEvents, 5 => some (.fabCnt, 8)
  | .fabEvents, 6 => some (.fabCnt, 9)
  | .fabEvents, 7 => some (.fabCnt, 7)
  | .fabEvents, 8 => some (.fabCnt, 6)
  | .fabEvents, 9 => some (.fabCnt, 3)
  | .colEvents, 1 => some (.colCnt, 5)
  | .colEvents, 2 => some (.colCnt, 6)
  | .colEvents, 3 => some (.colCnt, 9)
  | .snapEvents, 2 => some (.snapCnt, 1)
  | .snapEvents, 3 => some (.snapCnt, 2)
  | .snapEvents, 4 => some (.snapCnt, 3)
  | .pwrEvents, 2 => some (.pwrCnt, 2)
  | _, _ => none

/-- R262: every counter that counts the event of a W1C bit: a verification failure counts as a miss too (Table 5.6).
[DESIGN CHOICE, log 122] -/
def eventCnts (r : Reg) (bit pick : Nat) : List (Reg × Nat) :=
  (if r = .sumEvents ∧ bit = 0 then [(.sumCnt, 2)] else []) ++ (eventCnt r bit pick).toList

/-- R262: W1C bits that software writes 1 to in the cycle in which the module sets them: each stays set, its event is counted, and the
collision is counted and recorded. [DEDUCED, log 11] -/
def Mach.w1cCollide (m : Mach) (id : RegId) (hit : Nat) : Mach :=
  (bitsSet hit 64).foldl (fun m b =>
    let m := (m.bump Fld.syncW1cCollide_collisions id.die).wr .syncW1cLast id.die (b * 2 ^ 48 + id.addr)
    match eventCnts id.reg b (Config.freeBits m.freeCtr) with
    | [] => m
    | cs => cs.foldl (fun m x => m.cnt x.1 id.die x.2 (c := id.core)) m.tickFree) m

/-- Whether a requester may write a register (R21, R42, R116, R163, R477, R481). [DEDUCED, log 16] -/
def mayWrite (who : BusWho) (id : RegId) : Bool :=
  if id.reg = .vecStepAct ∨ timerDenied who id ∨ planeMeets who true id = false then false
  else if id.reg = .mbxReqTail ∧ id.i = 31 then who == .mc
  else match id.reg.info.who with
    | .any => true
    | .cp => who == .cp
    | .mc => who == .mc

/-- SNAP_CFG, SNAP_WORK, SNAP_RECV_AREA or SNAP_HOLD_AREA written by the CP firmware (R432, R549): ignored when the region that the
base and the length give would leave memory, the receive area GDDR7, or the hold area stacked memory; the receive side has no event
register. [DEDUCED, log 15] -/
def Mach.wrSnapArea (m : Mach) (id : RegId) (w : RegW) : Mach :=
  let base := Fld.snapWork_base.of w.new * 2 ^ 22
  let len := Fld.snapWork_len.of w.new * 2 ^ 22
  let ok := match id.reg with
    | .snapCfg => regionOk (m.get Fld.snapRgnBase_base id.die * 256) (32 * Fld.snapCfg_rgn_count.of w.new)
    | .snapRecvArea => regionIn 0x20000000000 0x20800000000 base len
    | .snapHoldArea => regionIn 0 0x20000000000 base len
    | _ => regionOk base len
  if ok then m.setReg id w.new else if id.die = sdDie then m else m.ev Fld.snapEvents_cfg_err id.die

/-- CFG_XLAT_ROOT written by the CP firmware (R549): ignored when the root table, 4 KiB (R314), would leave memory; its block has no
event register. [DEDUCED, log 15] -/
def Mach.wrXlatRoot (m : Mach) (id : RegId) (w : RegW) : Mach :=
  if regionOk (Fld.cfgXlatRoot_root.of w.new * 2 ^ 12) 0x1000 then m.setReg id w.new else m

/-- A register's own operation on a write, or the value of Table 0.3. -/
def Mach.regWrite (m : Mach) (id : RegId) (w : RegW) : Mach :=
  match id.reg with
  | .ftCtrl => m.wrFtCtrl id w
  | .ftTmrTgt => m.wrTmrTgt id w
  | .ftTmrCtl => m.wrTmrCtl id w
  | .arrCfg => m.wrArrCfg id w
  | .sumCtrl => m.wrSumCtrl id w
  | .sumTblBase | .sumTblCfg => m.wrSumTbl id w
  | .sumFold => m.wrSumFold id w
  | .vecSrKey | .vecSrCtrLo | .vecSrCtrHi => m.wrVecSr id w
  | .vecSclBase | .vecSclCfg => m.wrVecScl id w
  | .vecStepPend => m.wrStepPend id w
  | .tguWdog => m.wrTguWdog id w
  | .cqRingBase | .cqRingCfg | .cqColRingBase | .cqColRingCfg => m.wrCqRing id w
  | .lqBase | .lqCringBase => m.wrLqBase id w
  | .lqCfg => m.wrLqCfg id w
  | .lqTail => m.wrLqTail id w
  | .syncCtr => m.wrSyncCtr id w
  | .syncCtrAdd => m.wrSyncAdd id w
  | .syncCtrSub => m.wrSyncSub id w
  | .syncCtrArm => m.wrSyncArm id w
  | .syncBarCfg | .syncMbarCfg | .syncMbarDies => m.wrSyncSlot id w
  | .syncBarWdog => m.wrSyncWdog id w
  | .dcL1Cfg => m.wrDcL1Cfg id w
  | .dcCfg => m.wrDcCfg id w
  | .dcPinQuota => m.wrPinQuota id w
  | .dcPinCmd => m.wrPinCmd id w
  | .dcDeadAddr => m.wrDeadAddr id w
  | .dcDeadCtl => m.wrDeadCtl id w
  | .hbmCfg => m.wrHbmCfg id w
  | .cfgXlatInv => m.wrXlatInv id w
  | .cfgXlatRoot => m.wrXlatRoot id w
  | .fabNode | .fabDims => m.wrFabNode id w
  | .fabRouteCtl => m.wrRouteCtl id w
  | .fabRouteSwitch | .fabDetourPend => m.wrRoutePend id w
  | .fabPortCtl => m.wrPortCtl id w
  | .colGrpBase | .colGrpCfg => m.wrColGrp id w
  | .colResume => m.wrColResume id w
  | .snapRgnBase | .snapSsrBase => m.wrSnapBase id w
  | .snapCfg | .snapWork | .snapRecvArea | .snapHoldArea => m.wrSnapArea id w
  | .snapUpdDone => m.wrUpdDone id w
  | .snapFqBase | .snapFqCfg => m.wrFqCfg id w
  | .snapFqPtr => m.wrFqPtr id w
  | .pwrCapPend => m.wrCapPend id w
  | .pwrCtl => m.wrPwrCtl id w
  | .pwrNutCfg => m.wrNutCfg id w
  | .mbxReqTail => m.wrReqTail id w
  | .mbxRspHead => m.wrRspHead id w
  | _ => m.setReg id w.new

/-- Whether an access of `n` bytes at an address in a register window is one that exists and that its requester may make. -/
def busOpen (who : BusWho) (write : Bool) (pa n : Nat) : Bool :=
  if inSlots pa n then slotsMeet who pa
  else match regAt pa with
    | none => false
    | some (id, b) => legalAccess id.reg.info.width b n && (if write then mayWrite who id else mayRead who id)

/-- A write of `n` bytes at a module physical address in a register window: false is an access fault, which changes nothing
(R8, R9). `hw`: W1C bits of the register that the module sets in the same cycle. [DEDUCED, log 11] -/
def Mach.busWrite (m : Mach) (who : BusWho) (pa n value hw : Nat) : Mach × Bool :=
  if inSlots pa n then (if slotsMeet who pa then m.slotWrite (pa - 0x80800080000) (toBytes n value) else m, slotsMeet who pa)
  else match regAt pa with
    | none => (m, false)
    | some (id, b) =>
      if !legalAccess id.reg.info.width b n || !mayWrite who id then (m, false)
      else if m.unusedSnap id then (m, true)
      else
        let mask := (2 ^ (8 * n) - 1) * 2 ^ (8 * b)
        let val := value * 2 ^ (8 * b)
        let hit := id.reg.info.bitsOfAcc .w1c &&& val &&& mask &&& hw
        ((m.regWrite id (m.regW who id val mask hit)).w1cCollide id hit, true)

/-- A register that a write of a table row of its own reaches: the row acts only on its own registers. [DEDUCED, log 10] -/
def Mach.rowWrite (m : Mach) (p : RegId → RegW → Bool) (who : BusWho) (pa n value hw : Nat) : Mach :=
  let mine := match regAt pa with
    | none => false
    | some (id, b) => p id (m.regW who id (value * 2 ^ (8 * b)) ((2 ^ (8 * n) - 1) * 2 ^ (8 * b)) 0)
  if !mine then m
  else match m.busWrite who pa n value hw with
    | (m, true) => { m with resp := .ok 0 }
    | (m, false) => { m with resp := .accessFault }

end Sys2Proof.Machine
end

