-- ==== Sys2Proof/Machine/Remote.lean ====
section
/-! DEFINITION. Atomics (R190, R278) and remote accesses at their target and at their requester (R251 to R253, R366 to R377):
ordering and exactly-once application, refusals, responses, resends, requests of edge peers. -/

namespace Sys2Proof.Machine

/-! ### Atomic operations -/

/-- An AMO by its RISC-V funct5 code on operands of `width` bytes; 32 is the binary32 add of KT.FAMOADD (R190, R58). -/
def amoFn (f5 width old v : Nat) : Nat :=
  let w := 8 * width
  match f5 with
  | 0 => (old + v) % 2 ^ w
  | 1 => v % 2 ^ w
  | 4 => (old ^^^ v) % 2 ^ w
  | 8 => (old ||| v) % 2 ^ w
  | 12 => (old &&& v) % 2 ^ w
  | 16 => if signed w v < signed w old then v % 2 ^ w else old
  | 20 => if signed w old < signed w v then v % 2 ^ w else old
  | 24 => if v % 2 ^ w < old then v % 2 ^ w else old
  | 28 => if old < v % 2 ^ w then v % 2 ^ w else old
  | _ => (fmtB32.add .rne old v).v

/-- R190: the value before each operand of a sequence, and the value after the last. -/
def amoPrefix (f5 width : Nat) : Nat → List Nat → List Nat × Nat
  | old, [] => ([], old)
  | old, v :: vs =>
    let (l, last) := amoPrefix f5 width (amoFn f5 width old v) vs
    (old :: l, last)

/-- R272, R278: an atomic of `width` bytes at `a` in its home die cache: the old value; with poison in the sector nothing is
written. -/
def Mach.amoHome (m : Mach) (v : Via) (a width f5 : Nat) (vals : List Nat) : Mach × Nat × Bool :=
  let h := homeDie a
  let m := m.ownSector (v.atHome a) a false
  match m.lineAt h none a with
  | none => (m, 0, true)
  | some l =>
    if l.poison.testBit (sectorIdx a) then (m, 0, true)
    else
      let old := ofBytes ((l.data.drop (a % 128)).take width)
      (m.applyToOwned h a (toBytes width (amoPrefix f5 width old vals).2) false, old, false)

/-- R297: a write to an address other than a plain store: the range that holds it is released first, or, while it is busy, the
write waits: false. -/
def Mach.deadClear (m : Mach) (a : Nat) : Mach × Bool :=
  match m.deadRange a with
  | none => (m, true)
  | some i =>
    let h := homeDie a
    if m.flag Fld.dcDeadCtl_busy h i then (m.modCache h (fun c => { c with deadRelease := maskBit c.deadRelease i true }), false)
    else (m.deadReleaseNow h i, true)

/-! ### The target -/

/-- R367: the die that an offset belongs to: the home die of stacked memory, the die of a compute-die window. -/
def offsetDie (o : Nat) : Option Nat :=
  if isStacked o then some (homeDie o)
  else if 0x80000000000 ≤ o ∧ o < 0x80800000000 then some ((o - 0x80000000000) / 2 ^ 32) else none

/-- R367: a request refused at its target. -/
def Mach.refuseHere (m : Mach) (d node : Nat) : Mach :=
  ((m.cnt .fabCnt d 6).ev Fld.fabEvents_reject_in d).fabRec d 0x2A 0x7F node 0 0 0 0 false true []

/-- The way of another module's access through the die of its offset. -/
def remoteVia (d node : Nat) : Via := { viaOf d (.remote node) false with by_ := 0 }

/-- Whether an access of another module may be applied now: no dead range's invalidation runs where it writes (R297), its home die is not
being reset (R306), its bank's queue is not full (R302). One that waits is not answered before it is applied. -/
def Mach.accessGate (m : Mach) (node job : Nat) (op : RemoteOp) : Mach × Bool :=
  let gate (o n : Nat) (read : Bool) (v : Nat → Via) : Mach × Bool :=
    match (offsetDie o).filter (fun d => m.jobOwnsDie d job && inMemory o n) with
    | none => (m, true)
    | some d =>
      match if read then (m, false) else m.deadHolds o n with
      | (m, true) => (m, false)
      | (m, false) => if (if read then m.deadFault o n else none).isSome then (m, true) else m.bytesGate (v d) o n read
  if (opOffset op).any (fun o => !m.homeServes o) then (m, false)
  else match op with
    | .read o n => gate o n true (fun d => remoteVia d node)
    | .write o bs _ => gate o bs.length false (fun d => remoteVia d node)
    | .acc o _ bs _ => gate o bs.length false (fun d => (remoteVia d node).atHome o)
    | .amo o _ w _ => gate o w false (fun d => (remoteVia d node).atHome o)
    | _ => (m, true)

/-- What a remote access did at its target: 0 applied, 1 refused (R367, R252), 2 an access fault of a register or a dead range;
the bytes it returns and their poison. -/
abbrev RemoteRes : Type := Mach × Nat × List Byte × Bool

/-- R367, R370: apply one access of another module. [DEDUCED, log 73] -/
def Mach.remoteApply (m : Mach) (node job : Nat) (op : RemoteOp) : RemoteRes :=
  match op with
  | .add die ctr v =>
    let (m, ok) := m.remoteAdd die ctr v node job
    (m, b2n (!ok), [], false)
  | .msg _ _ _ => (m, 0, [], false)
  | _ =>
    let o := (opOffset op).getD 0
    match offsetDie o with
    | none => (m.refuseHere 0 node, 1, [], false)
    | some d =>
      if !m.jobOwnsDie d job then (m.refuseHere d node, 1, [], false)
      else
        let v := remoteVia d node
        match op with
        | .read _ n =>
          if !inMemory o n then (m, 2, [], false)
          else match m.deadFault o n with
            | some m => (m, 2, [], false)
            | none =>
              let (m, bs) := m.readBytes v o n
              (m, 0, plain bs, anyPoison bs)
        | .write _ bs poison =>
          if !inMemory o bs.length then (m, 2, [], false) else (m.writeBytes v o (bs.map (fun b => (b, poison))), 0, [], false)
        | .acc _ width bs poison =>
          if !accOk o width bs then (m, 2, [], false) else (m.accWrite v o width bs poison, 0, [], false)
        | .amo _ f5 width vals =>
          if !inMemory o width || o % width != 0 then (m, 2, [], false)
          else
            let m := match m.deadRange o with | some i => m.deadReleaseNow (homeDie o) i | none => m
            let (m, old, poison) := m.amoHome v o width f5 vals
            (m, 0, toBytes width old, poison)
        | .regRead _ n =>
          match m.busRead .sw o n with
          | (m, some x) => (m, 0, toBytes n x, false)
          | (m, none) => (m, 2, [], false)
        | .regWrite _ n x =>
          let (m, ok) := m.busWrite .sw o n x 0
          (m, if ok then 0 else 2, [], false)
        | _ => (m, 0, [], false)

/-- The answer to an access: to which node and die, for which sequence number, the outcome, poison, the value. -/
def Mach.remoteAnswer (m : Mach) (node sdie seq code : Nat) (bs : List Byte) (poison : Bool) : Mach :=
  m.send 0x13 [node, sdie, seq, code, b2n poison, ofBytes bs]

/-- The key of a source die of a node. -/
def sourceKey (node sdie : Nat) : Nat := node * 16 + sdie

/-- What this module remembers of a source die (kept by the receive logic of CD0). [DEDUCED, log 70] -/
def Mach.source (m : Mach) (k : Nat) : SourceSt := smGet SourceSt.init (m.fab 0).sources k
def Mach.setSource (m : Mach) (k : Nat) (x : SourceSt) : Mach :=
  m.modFab 0 (fun f => { f with sources := smSet SourceSt.init f.sources k x })

/-- R396: the engine of die `sdie` has turned a collective message of a node away: it is not acknowledged, and its sender waits and sends it
again. [DESIGN CHOICE, log 78] -/
def Mach.msgTurned (m : Mach) (node sdie : Nat) (op : RemoteOp) : Mach × Bool :=
  match op with
  | .msg g q _ =>
    let t := (m.die sdie).col.turned
    if t.contains (node, g, q) then (m.modDie sdie (fun x => { x with col := { x.col with turned := t.erase (node, g, q) } }), true)
    else (m, false)
  | _ => (m, false)

/-- The outcome of a message that is not acknowledged yet (R396). -/
def codeTurned : Nat := 3

/-- Apply the access that is next in order (R370), keep its result for duplicates (R369) and answer it (R368): every copy that was held, and
those that come now. A message that was turned away gets no answer. -/
def Mach.remoteTurn (m : Mach) (node sdie job : Nat) (op : RemoteOp) (come : Nat) : Mach :=
  let k := sourceKey node sdie
  let seq := (m.source k).next
  let copies := come + (m.source k).held.countP (fun h => h.1 == seq)
  let (m, code, bs, poison) :=
    match m.msgTurned node sdie op with
    | (m, true) => (m, codeTurned, [], false)
    | (m, false) => m.remoteApply node job op
  let x := m.source k
  let m := m.setSource k { x with next := (seq + 1) % 2 ^ 32, held := x.held.filter (fun h => h.1 != seq),
                                  results := x.results ++ [(seq, code, bs, poison)] }
  if code = codeTurned then m else (List.range copies).foldl (fun m _ => m.remoteAnswer node sdie seq code bs poison) m

/-- R370: held accesses whose turn has come. -/
def Mach.remoteHeld (m : Mach) (node sdie : Nat) : Nat → Mach
  | 0 => m
  | fuel + 1 =>
    let k := sourceKey node sdie
    let x := m.source k
    match x.held.find? (fun h => h.1 == x.next) with
    | none => m
    | some (_, job, op) =>
      match m.accessGate node job op with
      | (m, true) => (m.remoteTurn node sdie job op 0).remoteHeld node sdie fuel
      | (m, false) => m

/-- The accesses of every source die whose turn has come, where they waited for a dead range, a home or a bank.
[DEDUCED, log 37] -/
def Mach.remoteDrains (m : Mach) : Mach :=
  (m.fab 0).sources.foldl (fun m e => m.remoteHeld (e.1 / 16) (e.1 % 16) e.2.held.length) m

/-- The die an access is counted at. -/
def opDie (op : RemoteOp) : Nat :=
  match op with
  | .add d _ _ => d
  | _ => ((opOffset op).bind offsetDie).getD 0

/-- R369, R370: an access that cannot be applied yet is kept; a further copy of one that is held is a duplicate, to be acknowledged too. -/
def Mach.holdAccess (m : Mach) (node sdie seq job : Nat) (op : RemoteOp) : Mach :=
  let k := sourceKey node sdie
  let x := m.source k
  let m := if x.held.any (fun h => h.1 == seq) then m.cnt .fabCnt (opDie op) 2 else m
  m.setSource k { x with held := x.held ++ [(seq, job, op)] }

/-- R396: a message that was turned away comes again: it is acknowledged once the engine has taken it. [DESIGN CHOICE, log 78] -/
def Mach.remoteAgain (m : Mach) (node sdie seq : Nat) (op : RemoteOp) : Mach :=
  match m.msgTurned node sdie op with
  | (m, true) => m
  | (m, false) =>
    let k := sourceKey node sdie
    let x := m.source k
    let m := m.setSource k { x with results := x.results.map (fun r => if r.1 = seq then (seq, 0, [], false) else r) }
    m.remoteAnswer node sdie seq 0 [] false

/-- REMOTE_REQUEST_RECEIVE (R367 to R370): an access of die `sdie` of node `node` arrives, perhaps again, perhaps early.
[DEDUCED, log 70] -/
def Mach.remoteReceive (m : Mach) (node sdie inc seq job : Nat) (op : RemoteOp) : Mach :=
  if m.silent then m
  else
    let k := sourceKey node sdie
    let m := if (m.source k).inc < inc then m.setSource k { SourceSt.init with inc } else m
    let x := m.source k
    if inc < x.inc then m
    else
      let ahead := (seq + 2 ^ 32 - x.next) % 2 ^ 32
      if ahead = 0 then
        match m.accessGate node job op with
        | (m, true) => (m.remoteTurn node sdie job op 1).remoteHeld node sdie x.held.length
        | (m, false) => m.holdAccess node sdie seq job op
      else if ahead < 2 ^ 31 then m.holdAccess node sdie seq job op
      else
        let m := m.cnt .fabCnt (opDie op) 2
        match x.results.find? (fun r => r.1 == seq) with
        | some (_, code, bs, p) =>
          if code = codeTurned then m.remoteAgain node sdie seq op else m.remoteAnswer node sdie seq code bs p
        | none => m.remoteAnswer node sdie seq 0 [] false

/-- REMOTE_ADD_RECEIVE (R251, R252): a remote ADD arrives. -/
def Mach.remoteAddReceive (m : Mach) (node sdie inc seq job die ctr v : Nat) : Mach :=
  m.remoteReceive node sdie inc seq job (.add die ctr v)

/-! ### The requester -/

/-- An access of die `d` that waits for its acknowledgement. -/
def Mach.unackedAt (m : Mach) (d node seq : Nat) : Option Unacked :=
  (m.fab d).unacked.find? (fun u => u.node == node && u.seq == seq)

/-- A value of `width` bytes as a register takes it. -/
def extendTo64 (width : Nat) (signed_ : Bool) (v : Nat) : Nat :=
  if signed_ then wrap 64 (signed (8 * width) v) else v % 2 ^ (8 * width)

/-- A thread that waits for a response gets it. -/
def Mach.loadDone (m : Mach) (d : Nat) (r : ThreadRef) (rd width : Nat) (signed_ float : Bool) (v : Nat) : Mach :=
  m.modThread d r (fun t =>
    (if float then t.setF rd v else t.setX rd (extendTo64 width signed_ v)).retire)

/-- R275, R279, R289: a sector of another module fills a remote-class line of a die's cache, under the epoch of the fill; what a stream
access has asked for is inserted as R289 says. [DEDUCED, log 74] -/
def Mach.remoteFill (m : Mach) (d node a : Nat) (bs : List Byte) (poison : Bool) (mark : PfMark) (stream : Bool) : Mach :=
  let now := m.get Fld.dcStatus_remote_epoch d
  let s := sectorIdx a
  let m := match m.lineAt d (some node) a with
    | some l => if l.epoch = now then m else (m.noteUnused d l).dropLine d (some node) a
    | none => m
  let ins := m.insertFor d stream false false
  let here := (m.lineAt d (some node) a).isSome
  let m := if here || ins = Insert.mru then m else m.dcCnt d 11
  let m := if ins = .bypass ∧ (mark = .demand ∨ here) then m else m.allocate d (some node) a (if ins = .bypass then .lru else ins) false mark
  m.modLine d (some node) a (fun l =>
    { l.splice (32 * s) bs with valid := maskBit l.valid s true, poison := maskBit l.poison s poison })

/-- R275, R299: the bytes that a read of whole sectors has brought fill the die's cache, sector by sector. -/
def Mach.remoteFills (m : Mach) (d node a : Nat) (bs : List Byte) (poison : Bool) (mark : PfMark) (stream : Bool) : Mach :=
  (List.range (bs.length / 32)).foldl (fun m i => m.remoteFill d node (a + 32 * i) ((bs.drop (32 * i)).take 32) poison mark stream) m

/-- The same for a requester that is to ask again: each sector waits for it, even where its line is not kept (R276, R289). -/
def Mach.remoteDeliver (m : Mach) (d : Nat) (req : Requester) (node a : Nat) (bs : List Byte) (poison stream : Bool) : Mach :=
  (List.range (bs.length / 32)).foldl (fun m i =>
    m.grant d { by_ := d, req, node := some node, addr := a + 32 * i, lru := stream, data := some ((bs.drop (32 * i)).take 32, poison) })
    (m.remoteFills d node a bs poison .demand stream)

/-- A combined AMO's old value returns: each lane gets the value that its turn would have read (R190). -/
def Mach.lanesDone (m : Mach) (d : Nat) (ws : List (ThreadRef × Nat × Nat)) (f5 width old : Nat) : Mach :=
  let olds := (amoPrefix f5 width old (ws.map (fun w => w.2.2))).1
  (ws.zip olds).foldl (fun m (x : (ThreadRef × Nat × Nat) × Nat) =>
    m.loadDone d x.1.1 x.1.2.1 width (f5 != 32) false x.2) m

/-- An access that ended in an access fault: the thread's block, the descriptor or the line read takes it (R367).
[DEDUCED, log 52] -/
def Mach.accessFaulted (m : Mach) (d : Nat) (u : Unacked) : Mach :=
  match u.for_ with
  | .thread r _ _ _ _ | .store r | .retry r => m.threadFault d r 0x03 u.va
  | .lanes ((r, _, _) :: _) _ _ => m.threadFault d r 0x03 u.va
  | .engine c q s => m.modDie d (fun x => { x with engineBad := x.engineBad ++ [(c, q, s)] })
  | .fill => match u.req with
    | .read a _ => m.modDie d (fun x => { x with refused := x.refused ++ [(u.node, a)] })
    | _ => m
  | .edge p t _ => m.send 0x14 [8 * d + p, t, 2]
  | _ => m

/-- REMOTE_RESPONSE_RECEIVE (R368, R371, R372): the acknowledgement of an access, with the bytes it returns and their poison, or
with an access fault. [DEDUCED, log 73] -/
def Mach.remoteResponse (m : Mach) (d node seq : Nat) (bs : List Byte) (poison fault : Bool) : Mach :=
  match m.unackedAt d node seq with
  | none => m
  | some u =>
    let m := m.dropUnacked d node seq
    if fault then m.accessFaulted d u
    else match u.req, u.for_ with
      | .read a _, .thread r rd width sg fl =>
        let m := m.remoteFill d node a bs poison .demand u.stream
        if poison then m.threadFault d r 0x04 u.va
        else m.loadDone d r rd width sg fl (ofBytes ((bs.drop (u.va % 32)).take width))
      | _, .thread r rd width sg fl =>
        if poison then m.threadFault d r 0x04 u.va else m.loadDone d r rd width sg fl (ofBytes bs)
      | _, .lanes ws f5 width =>
        if poison then (match ws with | (r, _, _) :: _ => m.threadFault d r 0x04 u.va | [] => m)
        else m.lanesDone d ws f5 width (ofBytes bs)
      | .read a _, .retry r =>
        (m.remoteDeliver d (.thread r.core) node a bs poison u.stream).modThread d r (fun t =>
          if t.wait = .response then { t with wait := .held .again } else t)
      | .read a _, .fill =>
        let early := (m.cache d).fills.find? (fun f => f.node == some node && f.addr == lineBase a)
        let m := m.modCache d (fun c => { c with fills := c.fills.filter (fun f => !(f.node == some node && f.addr == lineBase a)) })
        let m := m.remoteFills d node a bs poison (match early with | some f => f.mark | none => .demand)
          (match early with | some f => f.stream | none => u.stream)
        if bs.length = 128 then m else { m with resp := if poison then .poisoned (ofBytes bs) else .ok (ofBytes bs) }
      | .read a _, .engine c 1 s =>
        if (m.vec d c).run.any (fun r => r.seq == s) then m.remoteDeliver d (.vector c) node a bs poison u.stream
        else m.remoteFills d node a bs poison .demand u.stream
      | .read a _, .engine c q s =>
        m.modCore d c (fun x => { x with engBuf := x.engBuf ++
          [{ queue := q, seq := s, node, addr := a, data := bs, poison }] })
      | _, .edge p t _ => m.send 0x14 [8 * d + p, t, 0, b2n poison, ofBytes bs]
      | _, _ => m

/-- REMOTE_REJECT_RECEIVE (R253, R367): a target has refused an access of die `d`. [DEDUCED, log 71] -/
def Mach.remoteReject (m : Mach) (d node seq : Nat) : Mach :=
  match m.unackedAt d node seq with
  | none => m
  | some u =>
    let m := m.dropUnacked d node seq
    let m := (m.cnt .fabCnt d 7).ev Fld.fabEvents_reject_out d
    match u.req with
    | .add die ctr v => ((m.ev Fld.syncDieEvents_remote_reject d).cnt .syncCnt d 8).remoteAddRec d 0x05 die ctr v node
    | _ =>
      let m := m.fabRec d 0x2A 0x7F node (coreFor d u.for_) 0 u.va 0 false false (m.slotList d)
      m.accessFaulted d u

/-- REMOTE_RESEND (R368): 100 µs (20 000 PMU cycles) without an acknowledgement: sent again, with its sequence number and the
current route epoch. -/
def Mach.remoteResend (m : Mach) (d node seq : Nat) : Mach :=
  match m.unackedAt d node seq with
  | none => m
  | some u =>
    if m.pmu d < u.at_ + 20000 then m
    else
      let m := m.modFab d (fun x => { x with unacked := x.unacked.map (fun y =>
        if y.node = node ∧ y.seq = seq then { y with at_ := m.pmu d } else y) })
      (m.cnt .fabCnt d 1).send 0x12
        ([d, node, (m.fab d).inc, seq, m.jobFor d u.for_, m.get Fld.fabRouteCtl_epoch d] ++ reqWords u.node u.req)

/-! ### Edge peers -/

/-- R377: a request of an edge peer to this module is applied and answered. -/
def Mach.edgeApply (m : Mach) (d p tag job : Nat) (op : RemoteOp) : Mach :=
  let (m, code, bs, poison) := m.remoteApply (m.node d) job op
  m.send 0x14 [8 * d + p, tag, code, b2n poison, ofBytes bs]

/-- The requests of a die's edge peers that waited are applied, in order, up to the first that waits still. [DEDUCED, log 37] -/
def Mach.edgeDrain (m : Mach) (d : Nat) : Nat → Mach
  | 0 => m
  | fuel + 1 =>
    match (m.fab d).edgeWait with
    | [] => m
    | (p, tag, job, op) :: rest =>
      match m.accessGate (m.node d) job op with
      | (m, true) => ((m.modFab d (fun x => { x with edgeWait := rest })).edgeApply d p tag job op).edgeDrain d fuel
      | (m, false) => m

/-- The waiting requests of other modules and of every edge peer. -/
def Mach.waitersDrain (m : Mach) : Mach := (List.range 8).foldl (fun m d => m.edgeDrain d (m.fab d).edgeWait.length) m.remoteDrains

/-- EDGE_REQUEST_RECEIVE (R377): a request of the edge peer of port `p`, with the peer's own tag: refused while `edge_en` is 0 or
where R367 lets no request go; else sent as the module's own traffic under `edge_job`, or applied here when it names this
module. [DEDUCED, log 72] -/
def Mach.edgeRequest (m : Mach) (d p node tag : Nat) (op : RemoteOp) : Mach :=
  if m.get Fld.fabPortStatus_role d p ≠ 2 ∨ m.get Fld.fabPortStatus_state d p ≠ 3 ∨ m.silent then m
  else if !m.flag Fld.fabPortCtl_edge_en d p || (opOffset op).isNone || m.requestRefused d node op then
    m.send 0x14 [8 * d + p, tag, 1]
  else
    let job := m.get Fld.fabPortCtl_edge_job d p
    if node = m.node d then
      (m.modFab d (fun x => { x with edgeWait := x.edgeWait ++ [(p, tag, job, op)] })).edgeDrain d ((m.fab d).edgeWait.length + 1)
    else m.remoteSend d node op (.edge p tag job) 0

end Sys2Proof.Machine
end

