-- ==== Sys2Proof/Machine/ThreadMem.lean ====
section
/-! DEFINITION. Memory accesses of core threads (R172, R173, R186 to R191, R269 to R281): where an address leads, loads, stores,
atomics, reservations, accumulate stores, prefetches, the stride prefetcher. -/

namespace Sys2Proof.Machine

/-- What a thread's access is, as R172, R173, R316, Table 7.3 and Table 10.3 tell them apart. -/
inductive MemKind where
  | load | store | amo | lr | sc | acc | desc
  deriving DecidableEq, Repr

/-- Where a thread's access goes: a local store (core, block place, offset), coherent memory, a remote node, a register window. -/
inductive Place where
  | ls (core block off : Nat)
  | coherent (pa : Nat) (mirror : Bool)
  | remote (node off : Nat)
  | register (pa : Nat)
  deriving DecidableEq, Repr

/-- The block of thread `r` is resident and has not ended. -/
def Mach.live (m : Mach) (d : Nat) (r : ThreadRef) : Bool := (m.block d r.core r.block).any (fun k => !k.ended)

/-- The virtual address that register rs1 of a thread gives, with an offset. -/
def Mach.laneVa (m : Mach) (d : Nat) (r : ThreadRef) (rs1 : Nat) (off : Int) : Nat :=
  match m.thread d r with
  | some t => wrap 64 (t.getX rs1 + off)
  | none => 0

/-- Integer and floating-point registers of a thread. -/
def Mach.tx (m : Mach) (d : Nat) (r : ThreadRef) (i : Nat) : Nat := match m.thread d r with | some t => t.getX i | none => 0
def Mach.tf (m : Mach) (d : Nat) (r : ThreadRef) (i : Nat) : Nat := match m.thread d r with | some t => t.getF i | none => 0

/-- An instruction of a thread completes with an integer result. -/
def Mach.doneX (m : Mach) (d : Nat) (r : ThreadRef) (rd v : Nat) : Mach := m.modThread d r (fun t => (t.setX rd v).retire)

/-- Table 7.3: the local store that an address of the untranslated range reaches, for thread `r` of block `k`. -/
def Mach.lsPlace (m : Mach) (d : Nat) (r : ThreadRef) (k : Block) (kind : MemKind) (va : Nat) : Option Place :=
  let own := [MemKind.load, .store, .amo, .lr, .sc].contains kind
  let near := [MemKind.load, .store, .amo].contains kind
  if va < 0xFF1000000000 then
    let o := va - 0xFF0000000000
    if own && decide (o < k.lsBytes) then some (.ls r.core k.slot o) else none
  else
    let o := va - 0xFF1000000000
    let rank := o / 0x400000
    if near && decide (rank < k.csize) && decide (o % 0x400000 < k.lsBytes) then
      let c := r.core - k.crank + rank
      ((m.core d c).blocks.find? (fun b => sameCluster b k && b.crank == rank)).map (fun b => .ls c b.slot (o % 0x400000))
    else none

/-- Whether an access only reads. -/
def MemKind.reads (k : MemKind) : Bool := [MemKind.load, .lr, .desc].contains k

/-- Why an access does not go: a block fault, with its cause (Table 7.6), or its translation waits for the table entry at `a`. -/
inductive Denied where
  | fault (cause : Nat)
  | wait (a : Nat)
  deriving DecidableEq, Repr

/-- The translated place of an access, judged under R316 and Table 10.3 (an AMO is a write); else why not. -/
def Mach.xlatPlace (m : Mach) (d : Nat) (r : ThreadRef) (kind : MemKind) (va width : Nat) : Mach × Except Denied Place :=
  match m.translate d r.core va (if kind.reads then .read else .write) with
  | (m, .error .access) => (m, .error (.fault 0x03))
  | (m, .error .poison) => (m, .error (.fault 0x04))
  | (m, .error (.wait a)) => (m, .error (.wait a))
  | (m, .ok (.coherent pa mirror _)) =>
    match if kind.reads then m.deadFault pa width else none with
    | some m => (m, .error (.fault 0x03))
    | none => (m, .ok (.coherent pa mirror))
  | (m, .ok (.remote node off)) =>
    let refused := m.requestRefused d node (.read off width) || kind == .lr || kind == .sc ||
      (!isStacked off && !(kind == .load || kind == .store))
    (m, if refused then .error (.fault 0x03) else .ok (.remote node off))
  | (m, .ok (.register pa)) =>
    (m, if (kind == .load || kind == .store) && busOpen .core (kind == .store) pa width then .ok (.register pa) else .error (.fault 0x03))

/-- Where one lane's access goes: alignment first (R172, R208), then the windows, then translation. [DEDUCED, log 49] -/
def Mach.placeFor (m : Mach) (d : Nat) (r : ThreadRef) (kind : MemKind) (va width : Nat) : Mach × Except Denied Place :=
  if va % width ≠ 0 then (m, .error (.fault 0x02))
  else if 0xFF0000000000 ≤ va then
    match (m.block d r.core r.block).bind (fun k => m.lsPlace d r k kind va) with
    | some p => (m, .ok p)
    | none => (m, .error (.fault 0x03))
  else m.xlatPlace d r kind va width

/-- The places of the accesses of an issue, or the first denied in ascending lane order: the thread, its address, why. -/
def Mach.placeAll (m : Mach) (d : Nat) (kind : MemKind) (width : Nat) :
    List (ThreadRef × Nat) → Mach × Except (ThreadRef × Nat × Denied) (List (ThreadRef × Nat × Place))
  | [] => (m, .ok [])
  | (r, va) :: rest =>
    match m.placeFor d r kind va width with
    | (m, .error why) => (m, .error (r, va, why))
    | (m, .ok p) =>
      match m.placeAll d kind width rest with
      | (m, .error e) => (m, .error e)
      | (m, .ok ps) => (m, .ok ((r, va, p) :: ps))

/-- The way of a core thread through its die's cache. -/
def viaThread (d : Nat) (r : ThreadRef) (mirror : Bool) : Via :=
  { viaOf d (.thread r.core) mirror with core := some r.core, for_ := .store r }

/-- A thread's instruction waits, and is tried again when what it waits for has come (R178). -/
def Mach.hold (m : Mach) (d : Nat) (r : ThreadRef) (h : Hold) : Mach := m.modThread d r (fun t => { t with wait := .held h })

/-- An issue whose lane `r` is denied: its block faults, or every thread of it waits for the translation. -/
def Mach.denied (m : Mach) (d : Nat) (refs : List ThreadRef) (r : ThreadRef) (va : Nat) : Denied → Mach
  | .fault cause => m.threadFault d r cause va
  | .wait a => refs.foldl (fun m x => m.hold d x (.mem a)) m

/-- R300 to R302, R306: whether a lane's access may be served now, or waits in its thread: a hit in the L1 goes to no die cache, a hit in
the die's copy of remote memory to no other module. -/
def Mach.laneGate (m : Mach) (d : Nat) (r : ThreadRef) (kind : MemKind) (p : Place) : Mach × Bool :=
  match p with
  | .ls _ _ _ | .register _ => (m, true)
  | .coherent pa mirror =>
    let v := viaThread d r mirror
    (if kind = .desc then [pa, pa + 32] else [pa]).foldl (fun (acc : Mach × Bool) a =>
      if !acc.2 || (kind.reads && acc.1.l1Hits d r.core a) then acc
      else match acc.1.requestGate (if kind == .amo || kind == .acc then v.atHome a else v) a (if kind.reads then .read else .modify) with
        | (m, true) => (m, true)
        | (m, false) => (m.hold d r (.mem a), false)) (m, true)
  | .remote node off =>
    if (kind.reads && m.remoteReady d (.thread r.core) node off) || m.isLost d node || m.slotFree d r.core (.thread r.core) (2 ^ 48) then (m, true)
    else (m.hold d r (.mem (2 ^ 48)), false)

/-- An issue of an access: every lane's address is judged before any lane acts (R195: a faulting instruction has no effect);
then each lane acts, in ascending order, while its block lives, or waits for its turn in the memory (R300). -/
def Mach.memRun (m : Mach) (d : Nat) (refs : List ThreadRef) (kind : MemKind) (width rs1 : Nat) (off : Int)
    (act : Mach → ThreadRef → Nat → Place → Mach) : Mach :=
  match m.placeAll d kind width (refs.map (fun r => (r, m.laneVa d r rs1 off))) with
  | (m, .error (r, va, why)) => m.denied d refs r va why
  | (m, .ok ps) => ps.foldl (fun m (x : ThreadRef × Nat × Place) =>
      if m.live d x.1 then
        match m.laneGate d x.1 kind x.2.2 with
        | (m, true) => act m x.1 x.2.1 x.2.2
        | (m, false) => m
      else m) m

/-! ### Local store -/

/-- The key of a local-store sector among the reservations of the threads of its block. -/
def lsResv (o : Nat) : Nat := 2 ^ 48 + o / 32 * 32

/-- Bytes of a block's local store. -/
def Mach.lsRead (m : Mach) (d c b o n : Nat) : List Byte :=
  match m.block d c b with
  | some k => (List.range n).map (fun i => smGet 0#8 k.ls (o + i))
  | none => List.replicate n 0#8

/-- Write bytes to a block's local store; reservations of the sector end. -/
def Mach.lsWrite (m : Mach) (d c b o : Nat) (bs : List Byte) : Mach :=
  m.modBlock d c b (fun k =>
    { k with ls := (List.range bs.length).foldl (fun s i => smSet 0#8 s (o + i) (bs.getD i 0#8)) k.ls,
             threads := k.threads.map (fun t => if t.resv = some (lsResv o) then { t with resv := none } else t) })

/-- TGU_CNT(8): an access of thread `r` to another block's local store. -/
def Mach.lsCount (m : Mach) (d : Nat) (r : ThreadRef) (c b : Nat) : Mach :=
  if c = r.core ∧ b = r.block then m else m.cnt .tguCnt d 8 (c := r.core)

/-! ### Loads -/

/-- A thread waits for a response to what is sent for it (a dead load waits for ever, R375). -/
def Mach.sendWaiting (m : Mach) (d node : Nat) (r : ThreadRef) (op : RemoteOp) (for_ : RemoteFor) (va : Nat)
    (stream : Bool := false) : Mach :=
  (m.modThread d r (fun t => { t with wait := .response })).remoteSend d node op for_ va stream

/-- R275, R276: a load of remote memory hits in the die's cache or asks the home module for the sector; a register of another
module is read there. -/
def Mach.remoteLoad (m : Mach) (d : Nat) (r : ThreadRef) (va node off width rd : Nat) (sg fl : Bool) : Mach :=
  if !isStacked off then m.sendWaiting d node r (.regRead off width) (.thread r rd width sg fl) va
  else
    match m.remoteDemand d (.thread r.core) node off with
    | (m, some (bs, poison), _) =>
      if poison then m.threadFault d r 0x04 va
      else m.loadDone d r rd width sg fl (ofBytes ((bs.drop (off % 32)).take width))
    | (m, none, stream) => m.sendWaiting d node r (.read (off / 32 * 32) 32) (.thread r rd width sg fl) va stream

/-- One lane of a load. -/
def Mach.loadLane (m : Mach) (d width : Nat) (sg fl : Bool) (rd : Nat) (l1Bad : Bool) (r : ThreadRef) (va : Nat) (p : Place) : Mach :=
  match p with
  | .ls c b o =>
    if l1Bad then ((m.lsCount d r c b).toCp d 0x34 false false [(4, 6), (8, coreNum d c), (48, va)]).threadFault d r 0x04 va
    else (m.lsCount d r c b).loadDone d r rd width sg fl (ofBytes (m.lsRead d c b o width))
  | .coherent pa mirror =>
    let m := if l1Bad then m.l1Error d r.core pa else m
    let (m, s) := m.l1Read d r.core pa mirror false
    if s.poison then m.threadFault d r 0x04 va
    else m.loadDone d r rd width sg fl (ofBytes ((s.bytes.drop (pa % 32)).take width))
  | .remote node off => m.remoteLoad d r va node off width rd sg fl
  | .register pa =>
    match m.busRead .core pa width with
    | (m, some v) => m.loadDone d r rd width sg fl v
    | (m, none) => m.threadFault d r 0x03 va

/-- The stride tracker of a load (Prefetch, spec/10): 32 of them, keyed by group and pc; a new one takes the place of the one
least recently used. [DESIGN CHOICE, log 35] -/
def strideStep (l : List Stride) (group pc va : Nat) : List Stride × Stride :=
  let s : Stride := match l.find? (fun s => s.group == group && s.pc == pc) with
    | some s =>
      let k : Int := (va : Int) - s.last
      { s with last := va, stride := k, run := if k = s.stride then s.run + 1 else 1 }
    | none => { group, pc, last := va, stride := 0, run := 0 }
  ((s :: l.filter (fun s => !(s.group == group && s.pc == pc))).take 32, s)

/-- The stride prefetch of one load of a group: after three successive loads with one stride of 32 bytes to 4 KiB either way, the
line `pf_distance` strides ahead, coherent class only. [DESIGN CHOICE, log 35] -/
def Mach.stridePrefetch (m : Mach) (d : Nat) (r : ThreadRef) (va : Nat) : Mach :=
  if !m.flag Fld.dcL1Cfg_pf_en d (c := r.core) then m
  else
    let pc := ((m.thread d r).map (·.pc)).getD 0
    let (l, s) := strideStep (m.core d r.core).strides (r.block * 16 + r.thread / 64) pc va
    let m := m.modCore d r.core (fun x => { x with strides := l })
    if 3 ≤ s.run ∧ 32 ≤ s.stride.natAbs ∧ s.stride.natAbs ≤ 4096 then
      match m.translate d r.core (wrap 64 (va + m.get Fld.dcL1Cfg_pf_distance d (c := r.core) * s.stride)) .read with
      | (m, .ok (.coherent pa mirror _)) => m.l1Prefetch d r.core pa mirror
      | (m, _) => m
    else m

/-- CORE_LOAD: a load of `width` bytes by every lane of an issue; `l1Bad`: the L1 copies or local-store lines it meets have
uncorrectable errors. A load that is tried again trains no prefetch again. -/
def Mach.opLoad (m : Mach) (d : Nat) (refs : List ThreadRef) (width : Nat) (sg fl : Bool) (rd rs1 : Nat) (off : Int) (l1Bad : Bool) :
    Mach :=
  let first := refs.head?.map (fun r => (r, m.laneVa d r rs1 off))
  let run (m : Mach) : Mach := m.memRun d refs .load width rs1 off (fun m r va p => m.loadLane d width sg fl rd l1Bad r va p)
  match first with
  | some (r, va) => run (if (m.thread d r).any (fun t => t.wait == .ready) then m.stridePrefetch d r va else m)
  | none => m

/-! ### Stores -/

/-- A store of bytes by one lane, after which the thread goes on with `after`. -/
def Mach.storeLane (m : Mach) (d : Nat) (bs : List Byte) (after : Thread → Thread) (r : ThreadRef) (va : Nat) (p : Place) : Mach :=
  match p with
  | .ls c b o => ((m.lsCount d r c b).lsWrite d c b o bs).modThread d r after
  | .coherent pa mirror =>
    ((m.l1Store d r.core pa).writeSector (viaThread d r mirror) pa bs false).modThread d r after
  | .remote node off =>
    let op : RemoteOp := if isStacked off then .write off bs false else .regWrite off bs.length (ofBytes bs)
    let m := if isStacked off then m.remoteUpdate d (.thread r.core) node off bs false else m
    (m.modThread d r after).remoteSend d node op (.store r) va
  | .register pa =>
    match m.busWrite .core pa bs.length (ofBytes bs) 0 with
    | (m, true) => m.modThread d r after
    | (m, false) => m.threadFault d r 0x03 va

/-- CORE_STORE: a store of `width` bytes of rs2 (of f register rs2) by every lane. -/
def Mach.opStore (m : Mach) (d : Nat) (refs : List ThreadRef) (width rs1 rs2 : Nat) (off : Int) (fl : Bool) : Mach :=
  m.memRun d refs .store width rs1 off (fun m r va p =>
    m.storeLane d (toBytes width (if fl then m.tf d r rs2 else m.tx d r rs2)) Thread.retire r va p)

/-- Whether a store of a thread still waits for a busy dead range (R297): it is visible to nobody yet. [DEDUCED, log 47] -/
def Mach.storesHeld (m : Mach) (d : Nat) (r : ThreadRef) : Bool :=
  m.writesHeld (fun w => w.via.by_ == d && w.via.for_ == .store r)

/-! ### Atomics -/

/-- A lane of an atomic: the thread, its address, its place, its operand. -/
structure AmoLane where
  who : ThreadRef
  va : Nat
  at_ : Place
  val : Nat
  deriving DecidableEq, Repr

/-- R190: the lanes by address, each set in ascending lane order, the sets by their lowest lane. -/
def amoSets : Nat → List AmoLane → List (List AmoLane)
  | 0, _ => []
  | _, [] => []
  | fuel + 1, x :: rest =>
    (x :: rest.filter (fun y => y.at_ == x.at_)) :: amoSets fuel (rest.filter (fun y => y.at_ != x.at_))

/-- The lanes of a combined atomic take the values that their turns read. -/
def Mach.amoGive (m : Mach) (d f5 width rd old : Nat) (ls : List AmoLane) : Mach :=
  m.lanesDone d (ls.map (fun x => (x.who, rd, x.val))) f5 width old

/-- The threads of an atomic wait. -/
def Mach.holdLanes (m : Mach) (d : Nat) (ls : List AmoLane) (h : Hold) : Mach := ls.foldl (fun m y => m.hold d y.who h) m

/-- TGU_CNT(7): a combined operation is performed for its threads (R190). -/
def Mach.amoMerged (m : Mach) (d : Nat) (ls : List AmoLane) : Mach :=
  match ls with
  | [] => m
  | x :: rest => m.cnt .tguCnt d 7 rest.length (c := x.who.core)

/-- One combined operation of an atomic (R190, R278, R297), whose operands have been found without poison. -/
def Mach.amoSet (m : Mach) (d f5 width rd : Nat) (ls : List AmoLane) : Mach :=
  match ls with
  | [] => m
  | x :: _ =>
    let vals := ls.map (·.val)
    match x.at_ with
    | .ls c b o =>
      let old := ofBytes (m.lsRead d c b o width)
      let m := ls.foldl (fun m y => m.lsCount d y.who c b) (m.amoMerged d ls)
      (m.lsWrite d c b o (toBytes width (amoPrefix f5 width old vals).2)).amoGive d f5 width rd old ls
    | .coherent pa mirror =>
      match m.deadClear pa with
      | (m, false) => m.holdLanes d ls (.busy pa)
      | (m, true) =>
        let (m, old, poison) := (m.amoMerged d ls).amoHome (viaThread d x.who mirror) pa width f5 vals
        if poison then m.threadFault d x.who 0x04 x.va else m.amoGive d f5 width rd old ls
    | .remote node off =>
      let m := (m.amoMerged d ls).remoteForget d (.thread x.who.core) node off
      let m := ls.foldl (fun m y => m.modThread d y.who (fun t => { t with wait := .response })) m
      m.remoteSend d node (.amo off f5 width vals) (.lanes (ls.map (fun y => (y.who, rd, y.val))) f5 width) x.va
    | .register _ => m.threadFault d x.who 0x03 x.va

/-- The poisoned operand that a combined operation of coherent memory would read, with the machine after that read (R195). -/
def Mach.amoPoison (m : Mach) (d f5 width : Nat) (ls : List AmoLane) : Option Mach :=
  match ls with
  | [] => none
  | x :: _ =>
    match x.at_ with
    | .coherent pa mirror =>
      if (m.deadRange pa).isSome then none
      else match m.amoHome (viaThread d x.who mirror) pa width f5 (ls.map (·.val)) with
        | (m, _, true) => some (m.threadFault d x.who 0x04 x.va)
        | _ => none
    | _ => none

/-- One set of an atomic takes its turn: a release waits for its threads' earlier stores (R191), then the access for its slot (R300).
[DEDUCED, log 37] -/
def Mach.amoTurn (m : Mach) (d f5 width rd : Nat) (rl : Bool) (ls : List AmoLane) : Mach :=
  match ls with
  | [] => m
  | x :: _ =>
    if !m.live d x.who then m
    else if rl && ls.any (fun y => m.storesHeld d y.who) then m.holdLanes d ls .stores
    else match m.laneGate d x.who .amo x.at_ with
      | (m, true) => m.amoSet d f5 width rd ls
      | (m, false) =>
        m.holdLanes d ls (match x.at_ with | .coherent pa _ => .mem pa | _ => .mem (2 ^ 48))

/-- CORE_AMO and KT.FAMOADD (`f5` 32): every lane's address is judged, then every coherent operand (R195), then each address takes one
combined operation. [DEDUCED, log 49] -/
def Mach.opAmo (m : Mach) (d : Nat) (refs : List ThreadRef) (f5 width rd rs1 rs2 : Nat) (rl : Bool := false) : Mach :=
  match m.placeAll d .amo width (refs.map (fun r => (r, m.laneVa d r rs1 0))) with
  | (m, .error (r, va, why)) => m.denied d refs r va why
  | (m, .ok ps) =>
    let ls := ps.map (fun (x : ThreadRef × Nat × Place) =>
      ({ who := x.1, va := x.2.1, at_ := x.2.2, val := m.tx d x.1 rs2 % 2 ^ (8 * width) } : AmoLane))
    let sets := amoSets ls.length ls
    match sets.findSome? (fun s => m.amoPoison d f5 width s) with
    | some m => m
    | none => sets.foldl (fun m s => m.amoTurn d f5 width rd rl s) m

/-- CORE_LR (R173): one sector is reserved; with rl it waits for the thread's earlier stores. [DEDUCED, log 48] -/
def Mach.opLr (m : Mach) (d : Nat) (refs : List ThreadRef) (width rd rs1 : Nat) (rl : Bool := false) : Mach :=
  m.memRun d refs .lr width rs1 0 (fun m r va p =>
    if rl && m.storesHeld d r then m.hold d r .stores
    else match p with
    | .ls c b o =>
      (m.loadDone d r rd width true false (ofBytes (m.lsRead d c b o width))).modThread d r
        (fun t => { t with resv := some (lsResv o) })
    | .coherent pa mirror =>
      let (m, s) := m.l1Read d r.core pa mirror false
      if s.poison then m.threadFault d r 0x04 va
      else (m.loadDone d r rd width true false (ofBytes ((s.bytes.drop (pa % 32)).take width))).modThread d r
        (fun t => { t with resv := some (pa / 32 * 32) })
    | _ => m.threadFault d r 0x03 va)

/-- CORE_SC (R173, R297): the store happens on the thread's own reservation of its sector and gives 0; else 1. A store that meets a
busy dead range waits, and with rl it waits for the thread's earlier stores. [DEDUCED, log 48] -/
def Mach.opSc (m : Mach) (d : Nat) (refs : List ThreadRef) (width rd rs1 rs2 : Nat) (rl : Bool := false) : Mach :=
  m.memRun d refs .sc width rs1 0 (fun m r va p =>
    let key := match p with | .ls _ _ o => lsResv o | .coherent pa _ => pa / 32 * 32 | _ => 0
    let held := (m.thread d r).any (fun t => t.resv == some key)
    let after (v : Nat) (t : Thread) : Thread := { (t.setX rd v).retire with resv := none }
    if !held then m.modThread d r (after 1)
    else if rl && m.storesHeld d r then m.hold d r .stores
    else
      let bs := toBytes width (m.tx d r rs2)
      match p with
      | .ls _ _ _ => m.storeLane d bs (after 0) r va p
      | .coherent pa _ =>
        match m.deadClear pa with
        | (m, true) => m.storeLane d bs (after 0) r va p
        | (m, false) => m.hold d r (.busy pa)
      | _ => m.threadFault d r 0x03 va)

/-- KT_ACCST_W, KT_ACCST_D (R281 to R285): one element added at the home die cache. -/
def Mach.opAccst (m : Mach) (d : Nat) (refs : List ThreadRef) (width rs1 rs2 : Nat) : Mach :=
  m.memRun d refs .acc width rs1 0 (fun m r va p =>
    let bs := toBytes width (m.tx d r rs2)
    match p with
    | .coherent pa mirror => (m.accWrite (viaThread d r mirror) pa width bs false).modThread d r Thread.retire
    | .remote node off =>
      ((m.remoteForget d (.thread r.core) node off).modThread d r Thread.retire).remoteSend d node (.acc off width bs false) (.store r) va
    | _ => m.threadFault d r 0x03 va)

/-- KT_PREF (R299, Table 10.3): each lane's line, into the L1 or the die's cache; it never faults; remote lines go into the die's
cache, other classes are dropped. [DEDUCED, log 75] -/
def Mach.opPref (m : Mach) (d : Nat) (refs : List ThreadRef) (l1 : Bool) (rs1 : Nat) : Mach :=
  refs.foldl (fun m r =>
    let (m, t) := m.translate d r.core (m.laneVa d r rs1 0) .read
    match t with
    | .error (.wait a) => m.hold d r (.mem a)
    | t =>
    let m := match t with
      | .ok (.coherent pa mirror _) =>
        if l1 then m.l1Prefetch d r.core pa mirror else m.corePrefetch d r.core d none pa (.thread r.core) mirror
      | .ok (.remote node off) =>
        if isStacked off && !m.requestRefused d node (.read (lineBase off) 128) && !m.isLost d node then
          m.corePrefetch d r.core d (some node) off (.thread r.core) false
        else m
      | _ => m
    m.modThread d r Thread.retire) m

/-! ### Visibility -/

/-- R240: whether every earlier store of a thread is visible to every requester of the module: none of its remote stores is still
on its way, and no write waits on a busy dead range. [DEDUCED, log 47] -/
def Mach.earlierVisible (m : Mach) (d : Nat) (r : ThreadRef) : Bool :=
  ((m.fab d).unacked ++ (m.fab d).waiting).all (fun u => u.for_ != .store r) && !m.storesHeld d r

/-- R284, R372: whether an earlier store of a thread has not left its die yet, or waits for a busy dead range. -/
def Mach.unsent (m : Mach) (d : Nat) (r : ThreadRef) : Bool :=
  (m.fab d).waiting.any (fun u => u.for_ == .store r) || m.storesHeld d r

/-- Bytes of two sectors of a line of remote memory as a thread reads them: from the die's cache, or both are asked for and the thread
tries again when they have come. -/
def Mach.remotePair (m : Mach) (d : Nat) (r : ThreadRef) (va node off : Nat) : Mach × Option (List Byte × Bool) :=
  let req : Requester := .thread r.core
  if m.remoteReady d req node off && m.remoteReady d req node (off + 32) then
    match m.remoteDemand d req node off with
    | (m, x, _) => match x, m.remoteDemand d req node (off + 32) with
      | some (a, p), (m, some (b, q), _) => (m, some (a ++ b, p || q))
      | _, (m, _, _) => (m, none)
  else
    let (m, stream) := [off, off + 32].foldl (fun (acc : Mach × Bool) o =>
      if acc.1.remoteReady d req node o then acc
      else let (m, _, s) := acc.1.remoteDemand d req node o; (m, acc.2 || s)) (m, false)
    (m.sendWaiting d node r (.read off 64) (.retry r) va stream, none)

end Sys2Proof.Machine
end

