-- ==== Sys2Proof/Machine/Threads.lean ====
section
/-! DEFINITION. Core threads (spec/07, spec/08, spec/09): the instructions of the base and of Xkt over the lanes of an issue, block
barriers, fences, and the issue of the schedulers. -/

namespace Sys2Proof.Machine

/-! ### Base instructions -/

/-- A jump or taken branch completes at its target; one that is not 4-byte aligned is a misaligned fetch. [DEDUCED, log 42] -/
def Mach.jumpTo (m : Mach) (d : Nat) (r : ThreadRef) (target : Nat) (link : Thread → Thread) : Mach :=
  if target % 4 ≠ 0 then m.threadFault d r 0x02 target
  else m.modThread d r (fun t => { (link t).retire with pc := target })

/-- Accumulate floating-point flags in a thread's fcsr (R171). -/
def Thread.flags (t : Thread) (f : FFlags) : Thread :=
  { t with fcsr := t.fcsr ||| (16 * b2n f.nv + 8 * b2n f.dz + 4 * b2n f.ov + 2 * b2n f.uf + b2n f.nx) }

/-- A floating-point result of a thread. -/
def Mach.doneF (m : Mach) (d : Nat) (r : ThreadRef) (toX : Bool) (rd : Nat) (v : FR) : Mach :=
  m.modThread d r (fun t => ((if toX then t.setX rd v.v else t.setF rd v.v).flags v.fl).retire)

/-- The rounding mode that an instruction of a thread has, if it is a legal one. [DEDUCED, log 41] -/
def Mach.rmFor (m : Mach) (d : Nat) (r : ThreadRef) (rm : Nat) : Option RM :=
  rmOf rm (bitsOf (((m.thread d r).map (·.fcsr)).getD 0) 7 5)

/-- Table 7.1: the value of a CSR for a thread; none has no such CSR. -/
def Mach.csrValue (m : Mach) (d : Nat) (r : ThreadRef) (num : Nat) : Option Nat :=
  match m.thread d r, m.block d r.core r.block with
  | some t, some k =>
    match num with
    | 0x001 => some (bitsOf t.fcsr 4 0)
    | 0x002 => some (bitsOf t.fcsr 7 5)
    | 0x003 => some (bitsOf t.fcsr 7 0)
    | 0xC00 => some (m.cc d % 2 ^ 64)
    | 0xC01 => some (m.ft d)
    | 0xC02 => some t.instret
    | 0xCC0 => some r.thread
    | 0xCC1 => some k.index
    | 0xCC2 => some k.nblk
    | 0xCC3 => some k.crank
    | 0xCC4 => some k.csize
    | 0xCC5 => some (coreNum d r.core)
    | 0xCC6 => some (m.node d)
    | 0xCC7 => some k.kernel
    | _ => none
  | _, _ => none

/-- A write of a CSR that may be written: fflags, frm, fcsr. -/
def Thread.setCsr (t : Thread) (num v : Nat) : Thread :=
  match num with
  | 0x001 => { t with fcsr := setBits t.fcsr 4 0 v }
  | 0x002 => { t with fcsr := setBits t.fcsr 7 5 v }
  | _ => { t with fcsr := bitsOf v 7 0 }

/-- CSR_ACCESS (R174): CSRRW, CSRRS, CSRRC (funct3 1 to 3) and their immediate forms (5 to 7) of one thread. -/
def Mach.csrLane (m : Mach) (d : Nat) (r : ThreadRef) (f3 rd rs1 num : Nat) : Mach :=
  let op := f3 % 4
  let src := if f3 < 4 then m.tx d r rs1 else rs1
  let writes := op == 1 || rs1 != 0
  match m.csrValue d r num with
  | none => m.threadFault d r 0x01 0
  | some old =>
    if writes && decide (3 < num) then m.threadFault d r 0x01 0
    else
      let v := if op = 1 then src else if op = 2 then old ||| src else old &&& (2 ^ 64 - 1 - src)
      m.modThread d r (fun t => ((if writes then t.setCsr num v else t).setX rd old).retire)

/-- R170: one lane of an instruction that works on the thread's registers alone. [DEDUCED, log 40] -/
def Mach.regLane (m : Mach) (d : Nat) (op : RvOp) (r : ThreadRef) : Mach :=
  let pc := ((m.thread d r).map (·.pc)).getD 0
  let next := (pc + 4) % 2 ^ 48
  match op with
  | .lui rd imm => m.doneX d r rd imm
  | .auipc rd imm => m.doneX d r rd ((pc + imm) % 2 ^ 64)
  | .jal rd off => m.jumpTo d r (wrap 64 (pc + off)) (fun t => t.setX rd next)
  | .jalr rd rs1 off => m.jumpTo d r (wrap 64 (m.tx d r rs1 + off) / 2 * 2) (fun t => t.setX rd next)
  | .branch c a b off =>
    if branchTaken c (m.tx d r a) (m.tx d r b) then m.jumpTo d r (wrap 64 (pc + off)) id else m.modThread d r Thread.retire
  | .alu f rd a b => m.doneX d r rd (alu f (m.tx d r a) (m.tx d r b))
  | .aluI f rd a imm => m.doneX d r rd (alu f (m.tx d r a) imm)
  | .csr f3 rd rs1 num => m.csrLane d r f3 rd rs1 num
  | .fmadd k rm rd a b c =>
    (match m.rmFor d r rm with
    | some x => m.doneF d r false rd (fmaDo k x (m.tf d r a) (m.tf d r b) (m.tf d r c))
    | none => m.threadFault d r 0x01 0)
  | .fp f rm rd a b =>
    (match if f.rounds then m.rmFor d r rm else some .rne with
    | some x => m.doneF d r f.toX rd (fpDo f x (if f.fromX then m.tx d r a else m.tf d r a) (m.tf d r b))
    | none => m.threadFault d r 0x01 0)
  | .fence => if m.storesHeld d r then m.hold d r .stores else m.modThread d r Thread.retire
  | .ebreak => if m.debugOpen then m.modThread d r Thread.retire else m.threadFault d r 0x01 0
  | _ => m.threadFault d r 0x01 0

/-- Every thread of an issue in ascending lane order, while its block lives. [DEDUCED, log 44] -/
def Mach.lanesRun (m : Mach) (d : Nat) (refs : List ThreadRef) (act : Mach → ThreadRef → Mach) : Mach :=
  refs.foldl (fun m r => if m.live d r then act m r else m) m

/-! ### Queues -/

/-- R207, R209: a push is attempted: it takes a credit of its queue, or the thread stalls behind the pushes attempted before it; a thread
that has been given a credit keeps it. True: the thread holds one. -/
def Mach.takeCredit (m : Mach) (d q : Nat) (r : ThreadRef) : Mach × Bool :=
  let c := r.core
  match (m.stallsOf d c q).find? (fun p => p.who == r) with
  | some p => (m, p.granted)
  | none =>
    let free := decide (m.creditsUsed d c q < queueDepth q) && (m.stallsOf d c q).all (·.granted)
    let m := m.modStalls d c q (fun l => l ++ [{ who := r, granted := free }])
    if free then (m, true)
    else ((m.modThread d r (fun t => { t with wait := .push })).ev Fld.cqEvents_push_stall d (c := c), false)

/-- KT.QPUSH of a thread that holds a credit, with the descriptor's words read: the credit becomes the place of the descriptor (R207,
R208). -/
def Mach.pushWords (m : Mach) (d q rd : Nat) (r : ThreadRef) (ws : List Nat) : Mach :=
  let (m, seq) := (m.modStalls d r.core q (fun l => l.filter (fun p => p.who != r))).enqueue d r.core q ws
  (if q = 0 then m.planWindow d r.core else m).doneX d r rd seq

/-- The descriptor of a push (R208, R551) at a place that one lane's access has: its 64 bytes and whether any carries poison; none while
they come from another module. -/
def Mach.readDesc (m : Mach) (d : Nat) (r : ThreadRef) (va : Nat) (p : Place) : Mach × Option (List Byte × Bool) :=
  match p with
  | .coherent pa mirror =>
    let (m, a) := m.l1Read d r.core pa mirror false
    let (m, b) := m.l1Read d r.core (pa + 32) mirror false
    (m, some (a.bytes ++ b.bytes, a.poison || b.poison))
  | .remote node off => m.remotePair d r va node off
  | _ => (m, some ([], true))

/-- A push whose descriptor is at hand faults on its poison (R208). -/
def Mach.descPoison (m : Mach) (d : Nat) (x : ThreadRef × Nat × Place) : Option Mach :=
  match m.readDesc d x.1 x.2.1 x.2.2 with
  | (m, some (_, true)) => some (m.threadFault d x.1 0x04 x.2.1)
  | _ => none

/-- KT_QPUSH (R208, R209): the lanes' addresses are judged, then each lane in ascending order takes a credit or stalls, then the
descriptors of those with credits are read, none enqueued where one of them faults, and each is enqueued. -/
def Mach.opPush (m : Mach) (d : Nat) (refs : List ThreadRef) (q rd rs1 : Nat) : Mach :=
  match m.placeAll d .desc 64 (refs.map (fun r => (r, m.laneVa d r rs1 0))) with
  | (m, .error (r, va, why)) => m.denied d refs r va why
  | (m, .ok ps) =>
    let (m, go) := ps.foldl (fun (acc : Mach × List (ThreadRef × Nat × Place)) x =>
      if acc.1.live d x.1 then
        let (m, ok) := acc.1.takeCredit d q x.1
        (m, if ok then acc.2 ++ [x] else acc.2)
      else acc) (m, [])
    match go.findSome? (fun x => m.descPoison d x) with
    | some m => m
    | none => go.foldl (fun m x =>
        match m.laneGate d x.1 .desc x.2.2 with
        | (m, false) => m
        | (m, true) =>
          match m.readDesc d x.1 x.2.1 x.2.2 with
          | (m, some (bs, false)) => m.pushWords d q rd x.1 (wordsOf bs 8)
          | (m, some (_, true)) => m.threadFault d x.1 0x04 x.2.1
          | (m, none) => m) m

/-! ### Counters and barriers -/

/-- R201, Table 7.4: whether a counter handle keeps its restrictions; `wait`: a wait, which must name the thread's own die.
[DEDUCED, log 51] -/
def Mach.handleOk (m : Mach) (d : Nat) (r : ThreadRef) (h : Nat) (add wait : Bool) : Bool :=
  let die := bitsOf h 14 12
  let mine := ((m.block d r.core r.block).bind (fun k => m.partAt k.part)).any (fun p => p.dieMask.testBit die)
  decide (h < 2 ^ 30) &&
    (if bitOf h 15 then add else bitsOf h 29 16 == 0 && mine && (!wait || die == d))

/-- Table 9.2: the `source` field of a core thread. -/
def Mach.srcThread (m : Mach) (d : Nat) (r : ThreadRef) : Nat :=
  let s := ((m.block d r.core r.block).map (fun k => k.sched.getD (r.thread / 64) 0)).getD 0
  s * 256 + coreNum d r.core

/-- R201, Table 7.4: the counter instruction of funct3 `f3` of one thread raises the access fault. -/
def Mach.ctrBad (m : Mach) (d f3 rs1 rs2 : Nat) (r : ThreadRef) : Bool :=
  let h := m.tx d r rs1
  !m.handleOk d r h (f3 == 0) (decide (4 ≤ f3)) ||
    (bitOf h 15 && m.requestRefused d (bitsOf h 29 16) (.add (bitsOf h 14 12) (bitsOf h 11 0) (m.tx d r rs2 % 2 ^ 32)))

/-- R195: the lanes of an issue act in ascending order, unless one of them faults: the first that does has no effect, nor has any other. -/
def Mach.lanesJudged (m : Mach) (d : Nat) (refs : List ThreadRef) (bad : Mach → ThreadRef → Bool) (act : Mach → ThreadRef → Mach) : Mach :=
  match refs.find? (bad m) with
  | some r => m.threadFault d r 0x03 0
  | none => m.lanesRun d refs act

/-- KT_SCADD, KT_SCSUB, KT_SCSET, KT_SCRD (`f3` 0 to 3) of one thread whose handle is good (R201, R238, R240, R251).
[DEDUCED, log 47; DEDUCED, log 51] -/
def Mach.ctrLane (m : Mach) (d f3 rd rs1 rs2 : Nat) (r : ThreadRef) : Mach :=
  let h := m.tx d r rs1
  let v := m.tx d r rs2 % 2 ^ 32
  let die := bitsOf h 14 12
  let n := bitsOf h 11 0
  if bitOf h 15 then ((m.doneX d r rd 0).cnt .syncCnt d 6).remoteSend d (bitsOf h 29 16) (.add die n v) (.store r) 0
  else if f3 = 3 then m.doneX d r rd (m.get Fld.syncCtr_value die n)
  else if !m.earlierVisible d r then m.hold d r .visible
  else
    let op : CtrOp := match f3 with | 0 => .add | 1 => .sub | _ => .set
    let old := m.get Fld.syncCtr_value die n
    ((m.doneX d r rd old).ctrApply die n op v f3 (m.srcThread d r)).1

/-- KT_SCWAIT, KT_SCWAITC of one thread whose handle is good (R242, R243). -/
def Mach.waitLane (m : Mach) (d rd rs1 rs2 : Nat) (consume : Bool) (r : ThreadRef) : Mach :=
  (m.modThread d r (fun t => { t with wait := .counter })).ctrWait d (bitsOf (m.tx d r rs1) 11 0) (m.tx d r rs2 % 2 ^ 32) consume
    (.thread r rd)

/-- KT_BAR of one thread (R192, R193): its count must be that of the instance's first arrival. [DEDUCED, log 46] -/
def Mach.barLane (m : Mach) (d rs1 rs2 : Nat) (r : ThreadRef) : Mach :=
  match m.block d r.core r.block with
  | none => m
  | some k =>
    let id := m.tx d r rs1 % 8
    let n := if m.tx d r rs2 = 0 then k.threads.length else m.tx d r rs2
    let pc := ((m.thread d r).map (·.pc)).getD 0
    match k.bars.find? (fun b => b.id == id) with
    | some b =>
      if b.count ≠ n then m.blockFault d r.core r.block 0x05 ⟨b.first, pc, 0, id, 0, 0⟩
      else
        let m := m.modBlock d r.core r.block (fun x =>
          { x with bars := x.bars.map (fun y => if y.id = id then { y with arrived := y.arrived ++ [r.thread] } else y) })
        (m.modThread d r (fun t => { t with wait := .bar id })).barSettle d r.core r.block
    | none =>
      let b : BarInst := { id, count := n, first := r.thread, arrived := [r.thread], start := m.cc d,
                           limit := 2 ^ m.get Fld.tguWdog_wdog_log2 d }
      let m := m.modBlock d r.core r.block (fun x => { x with bars := x.bars ++ [b] })
      (m.modThread d r (fun t => { t with wait := .bar id })).barSettle d r.core r.block

/-- The groups of a block with a thread that satisfies `p`, as a mask. -/
def Block.groupMask (k : Block) (p : Nat → Thread → Bool) : Nat :=
  (List.range k.groups).foldl (fun a g =>
    if (List.range 64).any (fun i => match k.threads[64 * g + i]? with | some t => p (64 * g + i) t | none => false) then a + 2 ^ g
    else a) 0

/-- BARRIER_TIMEOUT (R194, R204): an instance of a block has not completed in the time that its watchdog gave it. -/
def Mach.barTimeout (m : Mach) (d c b : Nat) : Mach :=
  match m.block d c b with
  | none => m
  | some k =>
    match k.bars.find? (fun x => decide (x.start + x.limit ≤ m.cc d)) with
    | none => m
    | some x =>
      let late (i : Nat) (t : Thread) : Bool := !t.exited && !x.arrived.contains i
      let pcs := (k.threads.mapIdx (fun i t => (late i t, t.pc))).filterMap (fun y => if y.1 then some y.2 else none)
      let low := pcs.foldl (fun acc pc => match acc with | none => some pc | some a => some (min a pc)) (none : Option Nat)
      m.blockFault d c b 0x06
        ⟨x.first, low.getD 0, 0, x.id, k.groupMask (fun i _ => x.arrived.contains i), k.groupMask late⟩

/-- Table 9.3, R254: the handle of a slot that one thread names raises the access fault. -/
def Mach.mbarBad (m : Mach) (d rs1 : Nat) (r : ThreadRef) : Bool :=
  let h := m.tx d r rs1
  let md := bitOf h 15
  let s := bitsOf h 5 0
  let cfg := slotCfg m d md s
  let shape := decide (h < 65536) && bitsOf h 11 6 == 0 &&
    (if md then bitsOf h 14 12 == 0 && decide (s < 16) else bitsOf h 14 12 == d)
  let open_ := bitOf cfg 31 && (bitsOf cfg 63 32).testBit r.core &&
    (!md || (m.get Fld.syncMbarDies_die_mask d s).testBit d)
  !(shape && open_)

/-- KT_MBAR_ARRIVE_WAIT, KT_MBAR_ARRIVE of one thread whose handle is good (R255 to R257). -/
def Mach.mbarLane (m : Mach) (d rs1 : Nat) (wait : Bool) (r : ThreadRef) : Mach :=
  let h := m.tx d r rs1
  m.mbar d (bitOf h 15) (bitsOf h 5 0) r wait

/-! ### Fences -/

/-- KT_FENCE of one thread (R200, R279, R372): block, cluster, die and module scope (0 to 3), fabric release, acquire, full (4 to
6). [DEDUCED, log 47; DEDUCED, log 50] -/
def Mach.fenceLane (m : Mach) (d f3 : Nat) (r : ThreadRef) : Mach :=
  match f3 with
  | 0 | 1 | 2 => if m.storesHeld d r then m.hold d r .stores else m.modThread d r Thread.retire
  | 3 => if m.earlierVisible d r then m.modThread d r Thread.retire else m.hold d r .visible
  | 4 =>
    let m := m.fenceIssue d r
    if m.unsent d r then m.hold d r .unsent else m.startFence d r (m.fenceWindow d)
  | 5 =>
    let m := m.fenceIssue d r
    if !m.earlierVisible d r then m.hold d r .visible
    else match m.advanceEpoch d with
    | (m, true) => m.fenceDone d r
    | (m, false) => m.hold d r .epoch
  | _ =>
    let m := m.fenceIssue d r
    if m.unsent d r then m.hold d r .unsent
    else match m.advanceEpoch d with
      | (m, true) => m.startFence d r (m.fenceWindow d)
      | (m, false) => m.hold d r .epoch

/-- KT_FENCE over an issue: a fence of each thread; an acquire advances the epoch for each. -/
def Mach.opFence (m : Mach) (d : Nat) (refs : List ThreadRef) (f3 : Nat) : Mach := m.lanesRun d refs (fun m r => m.fenceLane d f3 r)

/-! ### Votes and shuffles -/

/-- The lanes of an issue as a mask. -/
def laneMask (refs : List ThreadRef) : Nat := refs.foldl (fun a r => a ||| 2 ^ (r.thread % 64)) 0

/-- KT_VOTE (sub 0 ballot, 1 any, 2 all). -/
def Mach.opVote (m : Mach) (d : Nat) (refs : List ThreadRef) (sub rd rs1 : Nat) : Mach :=
  let yes := refs.filter (fun r => m.tx d r rs1 != 0)
  let v := match sub with
    | 0 => laneMask yes
    | 1 => b2n (!yes.isEmpty)
    | _ => b2n (yes.length == refs.length)
  refs.foldl (fun m r => m.doneX d r rd v) m

/-- KT_SHFL (sub 0 index, 1 xor, 2 up, 3 down): values as they were before the instruction. -/
def Mach.opShfl (m : Mach) (d : Nat) (refs : List ThreadRef) (sub rd rs1 rs2 : Nat) : Mach :=
  let own (r : ThreadRef) : Nat := m.tx d r rs1
  let pick (r : ThreadRef) : Nat :=
    let k := m.tx d r rs2 % 64
    let lane : Int := (r.thread % 64 : Nat)
    let src : Int := match sub with
      | 0 => k
      | 1 => ((r.thread % 64) ^^^ k : Nat)
      | 2 => lane - k
      | _ => lane + k
    match refs.find? (fun x => ((x.thread % 64 : Nat) : Int) == src) with
    | some x => own x
    | none => own r
  let vals := refs.map (fun r => (r, pick r))
  vals.foldl (fun m (x : ThreadRef × Nat) => m.doneX d x.1 rd x.2) m

/-! ### One instruction of an issue -/

/-- How many of the threads of an issue begin their instruction with it: the others try it again (R178, R205). -/
def Mach.freshCount (m : Mach) (d : Nat) (refs : List ThreadRef) : Nat :=
  (refs.filter (fun r => (m.thread d r).any (fun t =>
    match t.wait with | .ready | .held (.fetch _ _) => true | _ => false))).length

/-- An instruction at `a` of another module's memory has been asked for. -/
def Mach.fetchAsked (m : Mach) (d node a : Nat) : Bool :=
  ((m.fab d).unacked ++ (m.fab d).waiting).any (fun u =>
    u.node == node && u.req == .read a 32 && (match u.for_ with | .retry _ => true | _ => false))

/-- R182: one operand read of a group against the registers that its scheduler keeps for it, most recent first: a read with its reuse hint
keeps the register for the next read, a read without gives its entry up; where all four are taken, `pick` is the one replaced.
[DESIGN CHOICE, log 45] -/
def keepRead (kept : List Nat) (reg : Nat) (hint : Bool) (pick : Nat) : List Nat :=
  let rest := kept.filter (fun x => x != reg)
  if hint then reg :: (if rest.length < 4 then rest else rest.eraseIdx (pick % rest.length)) else rest

/-- R182: one operand read of an instruction of thread `r`'s group hits or misses the register cache; which entry a fifth register
replaces is the module's own choice. [DESIGN CHOICE, log 45] -/
def Mach.regRead (m : Mach) (d : Nat) (r : ThreadRef) (reg : Nat) (hint : Bool) : Mach :=
  let g := r.thread / 64
  let kept := ((m.block d r.core r.block).map (fun k => smGet [] k.kept g)).getD []
  let pick := Config.freeBits m.freeCtr
  let m := m.tickFree.modBlock d r.core r.block (fun k => { k with kept := smSet [] k.kept g (keepRead kept reg hint pick) })
  m.cnt .tguCnt d (if kept.contains reg then 5 else 6) (c := r.core)

/-- R182: the operand reads of an instruction over an issue, each with its bit of `hints`; one that is tried again has read its operands.
[DESIGN CHOICE, log 45] -/
def Mach.regCache (m : Mach) (d : Nat) (refs : List ThreadRef) (op : RvOp) (hints : Nat) : Mach :=
  match refs with
  | [] => m
  | r :: _ =>
    if m.freshCount d refs = 0 then m
    else op.reads.zipIdx.foldl (fun m x => m.regRead d r x.1 ((op.hints hints).testBit x.2)) m

/-- Table 7.2. -/
def Mach.execKt (m : Mach) (d : Nat) (refs : List ThreadRef) (op : KtOp) (rd a b : Nat) : Mach :=
  match op with
  | .qpush q => m.opPush d refs q rd a
  | .qcred q => m.lanesRun d refs (fun m r => m.doneX d r rd (queueDepth q - m.creditsUsed d r.core q))
  | .ctr f3 => m.lanesJudged d refs (fun m r => m.ctrBad d f3 a b r) (fun m r => m.ctrLane d f3 rd a b r)
  | .scwait => m.lanesJudged d refs (fun m r => m.ctrBad d 4 a b r) (fun m r => m.waitLane d rd a b false r)
  | .scwaitc => m.lanesJudged d refs (fun m r => m.ctrBad d 4 a b r) (fun m r => m.waitLane d rd a b true r)
  | .bar => m.lanesRun d refs (fun m r => m.barLane d a b r)
  | .mbar wait => m.lanesJudged d refs (fun m r => m.mbarBad d a r) (fun m r => m.mbarLane d a wait r)
  | .famoadd => m.opAmo d refs 32 4 rd a b
  | .accst width => m.opAccst d refs width a b
  | .pref l1 => m.opPref d refs l1 a
  | .fence f3 => m.opFence d refs f3
  | .exit => m.lanesRun d refs (fun m r => m.threadExit d r)
  | .vote sub => m.opVote d refs sub rd a
  | .shfl sub => m.opShfl d refs sub rd a b
  | .active => m.lanesRun d refs (fun m r => m.doneX d r rd (laneMask refs))

/-- What an issue meets beside its instruction: uncorrectable errors in the L1 copies of a load (R304), a double-bit error in a register that
it reads (Table 7.6), the reuse hints of an Xkt instruction (R200). -/
structure Meets where
  l1Bad : Bool := false
  regBad : Bool := false
  hints : Nat := 0
  deriving DecidableEq, Repr

/-- R195: a double-bit register-file error faults the block and is reported (Table 14.3, SRAM_UE of unit 3). -/
def Mach.regFileError (m : Mach) (d : Nat) (r : ThreadRef) : Mach :=
  (m.toCp d 0x34 false false [(4, 3), (8, coreNum d r.core), (48, 0)]).threadFault d r 0x04 0

/-- R170, R171, R181, R200: one instruction over the threads of an issue (of one block, ascending lanes): a register that the
launch has not declared makes it illegal. -/
def Mach.execOp (m : Mach) (d : Nat) (refs : List ThreadRef) (op : RvOp) (x : Meets := {}) : Mach :=
  match refs with
  | [] => m
  | r :: _ =>
    match m.block d r.core r.block with
    | none => m
    | some k =>
      if !op.inRegs k.xregs k.fregs then m.threadFault d r 0x01 0
      else if x.regBad && op.names != ([], []) then m.regFileError d r
      else
        let m := m.regCache d refs op x.hints
        match op with
        | .load width sg rd rs1 off => m.opLoad d refs width sg false rd rs1 off x.l1Bad
        | .flw rd rs1 off => m.opLoad d refs 4 false true rd rs1 off x.l1Bad
        | .store width rs1 rs2 off => m.opStore d refs width rs1 rs2 off false
        | .fsw rs1 rs2 off => m.opStore d refs 4 rs1 rs2 off true
        | .lr width rd rs1 rl => m.opLr d refs width rd rs1 rl
        | .sc width rd rs1 rs2 rl => m.opSc d refs width rd rs1 rs2 rl
        | .amo f5 width rd rs1 rs2 rl => m.opAmo d refs f5 width rd rs1 rs2 rl
        | .kt y rd a b => m.execKt d refs y rd a b
        | _ => m.lanesRun d refs (fun m r => m.regLane d op r)

/-! ### Issue -/

/-- Whether what a thread tries its instruction again for has come (R178). [DEDUCED, log 47] -/
def Mach.holdClear (m : Mach) (d : Nat) (r : ThreadRef) : Hold → Bool
  | .again => true
  | .stores => !m.storesHeld d r
  | .visible => m.earlierVisible d r
  | .unsent => !m.unsent d r
  | .busy pa => !m.deadBusy pa
  | .mem pa => m.requestOpen d (.thread r.core) pa
  | .fetch none a => m.requestOpen d (.thread r.core) a
  | .fetch (some node) a => !m.fetchAsked d node a
  | .epoch => (m.advanceEpoch d).2

/-- The threads of a group that could issue: ready, not exited. -/
def Mach.readyAt (m : Mach) (d c : Nat) (k : Block) (g : Nat) : List (Nat × Thread) :=
  if k.ended then []
  else (((k.threads.mapIdx (fun i t => (i, t))).drop (64 * g)).take 64).filter (fun x => !x.2.exited &&
    (match x.2.wait with | .ready => true | .held h => m.holdClear d ⟨c, k.slot, x.1⟩ h | _ => false))

/-- The live threads of a group. -/
def Block.liveAt (k : Block) (g : Nat) : List Thread := ((k.threads.drop (64 * g)).take 64).filter (fun t => !t.exited)

/-- R178, R205: a group instruction starts over `n` threads; none: it is only tried again. -/
def Mach.issueCount (m : Mach) (d c : Nat) (k : Block) (g n : Nat) : Mach :=
  if n = 0 then m
  else
    let m := (m.cnt .tguCnt d 0 (c := c)).cnt .tguCnt d 1 n (c := c)
    if n < (k.liveAt g).length then m.cnt .tguCnt d 3 (c := c) else m

/-- The threads of an issue that a command names: those lanes of a group of a resident block that are ready and share the pc of the
lowest of them (R178, R179). [DEDUCED, log 44] -/
def Mach.issueSet (m : Mach) (d c b g lanes : Nat) : List ThreadRef :=
  match m.block d c b with
  | none => []
  | some k =>
    let ready := (m.readyAt d c k g).filter (fun x => lanes.testBit (x.1 % 64))
    match ready with
    | [] => []
    | x :: _ => (ready.filter (fun y => y.2.pc == x.2.pc)).map (fun y => ⟨c, b, y.1⟩)

/-- An instruction issues to those of the named lanes that can take it. [DEDUCED, log 43] -/
def Mach.issueRun (m : Mach) (d c b g lanes : Nat) (op : RvOp) (x : Meets := {}) : Mach :=
  let refs := m.issueSet d c b g lanes
  match m.block d c b with
  | none => m
  | some k => if refs.isEmpty then m else (m.issueCount d c k g (m.freshCount d refs)).execOp d refs op x

/-- The distinct pcs of ready threads, ascending, with how many threads hold each. -/
def pcCounts (ready : List (Nat × Thread)) : List (Nat × Nat) :=
  ((ready.map (fun x => x.2.pc)).eraseDups.map (fun pc => (pc, (ready.filter (fun x => x.2.pc == pc)).length))).mergeSort
    (fun a b => decide (a.1 ≤ b.1))

/-- R178: the pc that a group issues, and whether it is a priority pc. -/
def choosePc (ready : List (Nat × Thread)) (passed : List PassedPc) (g : Nat) : Option (Nat × Bool) :=
  let pcs := pcCounts ready
  let over64 (pc : Nat) : Nat := ((passed.find? (fun p => p.group == g && p.pc == pc)).map (·.n)).getD 0
  let best (f : Nat × Nat → Nat) (l : List (Nat × Nat)) : Option (Nat × Nat) :=
    l.foldl (fun acc x => match acc with | none => some x | some y => if f y < f x then some x else some y) none
  match best (fun x => over64 x.1) (pcs.filter (fun x => decide (64 ≤ over64 x.1))) with
  | some x => some (x.1, true)
  | none => (best (fun x => x.2) pcs).map (fun x => (x.1, false))

/-- R178: after an issue of a group every other pc of its ready threads has been passed over once more. -/
def passOver (ready : List (Nat × Thread)) (passed : List PassedPc) (g pc : Nat) : List PassedPc :=
  let mine := ((pcCounts ready).filter (fun x => x.1 != pc)).map (fun x =>
    ({ group := g, pc := x.1, n := ((passed.find? (fun p => p.group == g && p.pc == x.1)).map (·.n)).getD 0 + 1 } : PassedPc))
  passed.filter (fun p => p.group != g) ++ mine

/-- R178: the groups of a scheduler with a ready thread, as block place × 16 + group, in rotation after the one last issued. -/
def Mach.nextGroup (m : Mach) (d c s : Nat) : Option (Block × Nat) :=
  let x := m.core d c
  let all := x.blocks.flatMap (fun k => ((List.range k.groups).filter (fun g => k.sched.getD g 0 == s && !(m.readyAt d c k g).isEmpty)).map
    (fun g => (k, g)))
  let key (y : Block × Nat) : Nat := y.1.slot * 16 + y.2
  let last := match x.lastGroup.find? (fun y => y.1 == s) with | some y => y.2 + 1 | none => 0
  let low (l : List (Block × Nat)) : Option (Block × Nat) :=
    l.foldl (fun acc y => match acc with | none => some y | some z => if key y < key z then some y else some z) none
  match low (all.filter (fun y => decide (last ≤ key y))) with
  | some y => some y
  | none => low all

/-- What fetching an instruction gives: the word, a fault cause, or a wait. -/
inductive FetchRes where
  | word (w : Nat) | fault (cause : Nat) | wait (why : Hold)
  deriving DecidableEq, Repr

/-- R269, R316: the instruction at a pc, for the thread `r`. [DEDUCED, log 42] -/
def Mach.fetch (m : Mach) (d : Nat) (r : ThreadRef) (pc : Nat) : Mach × FetchRes :=
  if pc % 4 ≠ 0 then (m, .fault 0x02)
  else
    match m.translate d r.core pc .fetch with
    | (m, .error .poison) => (m, .fault 0x04)
    | (m, .error (.wait a)) => (m, .wait (.fetch none a))
    | (m, .ok (.coherent pa mirror _)) =>
      if m.deadReadFaults pa then (m.deadRead pa, .fault 0x03)
      else match if m.l1Hits d r.core pa then (m, true) else m.requestGate (viaThread d r mirror) pa .read with
        | (m, false) => (m, .wait (.fetch none pa))
        | (m, true) =>
          let (m, s) := m.l1Read d r.core pa mirror true
          (m, if s.poison then .fault 0x04 else .word (ofBytes ((s.bytes.drop (pa % 32)).take 4)))
    | (m, .ok (.remote node off)) =>
      let a := off / 32 * 32
      if !isStacked off || m.requestRefused d node (.read a 32) then (m, .fault 0x03)
      else if m.fetchAsked d node a then (m, .wait (.fetch (some node) a))
      else if !m.remoteReady d (.thread r.core) node off && !m.isLost d node && !m.slotFree d r.core (.thread r.core) (2 ^ 48) then
        (m, .wait (.fetch none (2 ^ 48)))
      else match m.remoteDemand d (.thread r.core) node off with
        | (m, some (bs, poison), _) => (m, if poison then .fault 0x04 else .word (ofBytes ((bs.drop (off % 32)).take 4)))
        | (m, none, stream) => (m.remoteSend d node (.read a 32) (.retry r) pc stream, .wait (.fetch (some node) a))
    | (m, _) => (m, .fault 0x03)

/-- The threads of a group wait for their instruction; a thread that waits for what cannot come (R375) waits for ever. -/
def Mach.holdFetch (m : Mach) (d : Nat) (refs : List ThreadRef) (h : Hold) : Mach :=
  refs.foldl (fun m r => m.modThread d r (fun t => if t.wait = .dead then t else { t with wait := .held h })) m

/-- ISSUE_SLOT (R177 to R180): one issue slot of scheduler `s` of a core: the next group in rotation, its pc by priority or by
number of threads, the instruction there. A slot in which nothing issues anew is counted (R205). [DEDUCED, log 43] -/
def Mach.issueSlot (m : Mach) (d c s : Nat) (regBad : Bool) : Mach :=
  match m.nextGroup d c s with
  | none => m.cnt .tguCnt d 2 (c := c)
  | some (k, g) =>
    let ready := m.readyAt d c k g
    match choosePc ready k.passed g with
    | none => m
    | some (pc, priority) =>
      let m := m.modCore d c (fun x => { x with lastGroup := x.lastGroup.filter (fun y => y.1 != s) ++ [(s, k.slot * 16 + g)] })
      let m := m.modBlock d c k.slot (fun x => { x with passed := passOver ready x.passed g pc })
      let m := if priority then (m.cnt .tguCnt d 4 (c := c)).ev Fld.tguEvents_starve_grant d (c := c) else m
      let refs := (ready.filter (fun x => x.2.pc == pc)).map (fun x => (⟨c, k.slot, x.1⟩ : ThreadRef))
      match refs with
      | [] => m
      | r :: _ =>
        let fresh := m.freshCount d refs
        match m.fetch d r pc with
        | (m, .word w) =>
          let m := if fresh = 0 then m.cnt .tguCnt d 2 (c := c) else m
          (m.issueCount d c k g fresh).execOp d refs (decodeRv w) { regBad, hints := bitsOf w 26 25 }
        | (m, .fault cause) => (m.cnt .tguCnt d 2 (c := c)).threadFault d r cause pc
        | (m, .wait h) => (m.cnt .tguCnt d 2 (c := c)).holdFetch d refs h

end Sys2Proof.Machine
end

