-- ==== Sys2Proof/Machine/Flags.lean ====
section
/-! DEFINITION. What follows the state of the module at every PMU cycle: the counters of waiting (Tables 5.6, 7.8, 8.12, 10.5), and
the conditions under which parts of the module run (Table 18.4, R511). -/

namespace Sys2Proof.Machine

/-! ### What runs -/

/-- The Bludjan die has its supply. [DESIGN CHOICE, log 6] -/
def Mach.powered (m : Mach) : Bool := m.pins.sdRail

/-- The dies of the data plane run: supplied, released from reset by the firmware (R511), rails up (R530).
[DESIGN CHOICE, log 6] -/
def Mach.dataPlane (m : Mach) : Bool := m.pins.sdRail && m.pins.railsUp && !m.pins.held

/-- A compute die runs: the data plane does, and the die is not being reset (R422). [DESIGN CHOICE, log 6] -/
def Mach.dieRuns (m : Mach) (d : Nat) : Bool := m.dataPlane && !m.cp.resetting.testBit d

/-- One of nine dies runs. -/
def Mach.nineRuns (m : Mach) (d : Nat) : Bool := if d = sdDie then m.powered else m.dieRuns d

/-! ### What a core's state shows -/

/-- TGU_CNT(9): a group of the core waits at a block barrier. -/
def Core.atBarrier (x : Core) : Bool :=
  x.blocks.any (fun k => !k.ended && k.threads.any (fun t => match t.wait with | .bar _ => true | _ => false))

/-- CQ_CNT(3): a thread of the core is stalled on a full queue. -/
def Core.atQueue (x : Core) : Bool := x.blocks.any (fun k => !k.ended && k.threads.any (fun t => t.wait == .push))

/-- DC_L1_CNT(9): a request of the core, of a prefetch, a thread or an engine, waits for a miss slot of its bank group (R301). -/
def Mach.atBankCap (m : Mach) (d c : Nat) : Bool :=
  let x := m.core d c
  x.slotWait.any (fun f => f.node.isNone && m.bankCapped d c f.addr) || !x.capWaits.isEmpty ||
    x.blocks.any (fun k => !k.ended && k.threads.any (fun t =>
      match t.wait with | .held (.mem a) | .held (.fetch none a) => m.bankCapped d c a | _ => false))

/-- Add core cycles to a counter while a condition holds. -/
def Mach.cntIf (m : Mach) (r : Reg) (d c i : Nat) (on : Bool) : Mach := if on then m.cnt r d i 3 (c := c) else m

/-- One PMU cycle, three core cycles, of a core's counters of waiting, and of the bubbles of a droop (R160, R464).
[DESIGN CHOICE, log 24; DEDUCED, log 25] -/
def Mach.coreCycle (m : Mach) (d c : Nat) : Mach :=
  let x := m.core d c
  let m := (m.cntIf .tguCnt d c 9 x.atBarrier).cntIf .cqCnt d c 3 x.atQueue
  let m := (m.cntIf .vecCnt d c 3 (x.vec.run.any (·.waits))).cntIf .vecCnt d c 5 (m.flag Fld.vecStatus_scale_wait d (c := c))
  let m := m.cntIf .vecCnt d c 4 (m.drooping d && x.vec.run.isSome)
  let m := m.cntIf .cqCnt d c 4 (m.flag Fld.cqStatus_array_wait d (c := c))
  let m := m.cntIf .cqCnt d c 5 (m.flag Fld.cqStatus_vector_wait d (c := c))
  let m := m.cntIf .cqCnt d c 6 (m.flag Fld.cqStatus_mover_wait d (c := c))
  (m.cntIf .dcL1Cnt d c 9 (m.atBankCap d c)).cntIf .sumCnt d c 8 (m.flag Fld.sumStatus_waiting d (c := c))

end Sys2Proof.Machine
end

