-- ==== Sys2Proof/Machine/VecOps.lean ====
section
/-! DEFINITION. The bodies of the vector instructions of Table 7.5 that compare, select, classify, shift, reduce and permute. -/

namespace Sys2Proof.Machine

/-- VFMA: va × vb + vc, rounded once. -/
def vecFma (d c : Nat) (m : Mach) (r : VecRun) (v : VInst) : Mach × VOut :=
  let cs := r.row v.w v.vc
  m.vecResult d c v ((List.zip (r.row v.w v.va) (r.row v.w v.vb)).mapIdx (fun i p => (vFmt v.w).fma .rne p.1 p.2 (cs.getD i 0)))

/-- The invalid flag of a comparison (IEEE 754): of an ordered predicate on any NaN, of the others on a signalling NaN.
[DEDUCED, log 65] -/
def cmpInvalid (code : Nat) (a b : FV) : Bool :=
  if 2 ≤ code ∧ code ≤ 5 then a.isNan || b.isNan else a.snan || b.snan

/-- VCMP: a mask of lanes; code 7 names no comparison. [DEDUCED, log 65] -/
def vecCmp (d c : Nat) (m : Mach) (r : VecRun) (v : VInst) : Mach × VOut :=
  let f := vFmt v.w
  let code := v.imm % 8
  if code = 7 then (m, .fail stIllegal)
  else m.vecResult d c v (List.zipWith (fun a b =>
    (⟨maskLane v.w (vCompare code (f.unpack a) (f.unpack b)), { FFlags.none with nv := cmpInvalid code (f.unpack a) (f.unpack b) }⟩ : FR))
    (r.row v.w v.va) (r.row v.w v.vb))

/-- VSEL: vc ≠ 0 ? va : vb. -/
def vecSel (d c : Nat) (m : Mach) (r : VecRun) (v : VInst) : Mach × VOut :=
  let cs := r.row v.w v.vc
  m.vecPlain d c v ((List.zip (r.row v.w v.va) (r.row v.w v.vb)).mapIdx (fun i p => if cs.getD i 0 = 0 then p.2 else p.1))

/-- VCLASS: the class of each lane, one bit of ten. [PRESUMED, log 61] -/
def vecClass (d c : Nat) (m : Mach) (r : VecRun) (v : VInst) : Mach × VOut :=
  m.vecPlain d c v ((r.row v.w v.va).map (vFmt v.w).classify)

/-- VSHIFT: left, logical right or arithmetic right by `imm`[4:0]; the fourth code names no shift. [DEDUCED, log 65] -/
def vecShift (d c : Nat) (m : Mach) (r : VecRun) (v : VInst) : Mach × VOut :=
  let n := v.imm % 32
  let one (x : Nat) : Nat := match bitsOf v.imm 6 5 with
    | 0 => x * 2 ^ n % 2 ^ 32
    | 1 => x / 2 ^ n
    | _ => wrap 32 (signed 32 x / (2 ^ n : Nat))
  if bitsOf v.imm 6 5 = 3 then (m, .fail stIllegal) else m.vecPlain d c v ((r.row false v.va).map one)

/-- VICMP: as VCMP on signed integers, which are never unordered. [DEDUCED, log 65] -/
def vecIcmp (d c : Nat) (m : Mach) (r : VecRun) (v : VInst) : Mach × VOut :=
  let hit (a b : Int) : Bool := match v.imm % 8 with
    | 0 => a == b
    | 1 => a != b
    | 2 => decide (a < b)
    | 3 => decide (a ≤ b)
    | 4 => decide (b < a)
    | 5 => decide (b ≤ a)
    | _ => false
  if v.imm % 8 = 7 then (m, .fail stIllegal)
  else m.vecPlain d c v (List.zipWith (fun a b => maskLane false (hit (signed 32 a) (signed 32 b))) (r.row false v.va) (r.row false v.vb))

/-- VRSUM (R158): narrow, a tree over 128 lanes; wide, the binary32 row widened exactly and summed in binary64.
[DEDUCED, log 64] -/
def vecSum (d c : Nat) (m : Mach) (r : VecRun) (v : VInst) : Mach × VOut :=
  let xs := r.row false v.va
  let ys : List FR := if v.w then xs.map (fmtB32.convert fmtB64 .rne) else xs.map (fun x => ⟨x, FFlags.none⟩)
  m.vecReduce d c v (treeSum (vFmt v.w) 7 ys)

/-- VRMAX, VRMIN, and VRAMAX over the absolute values. -/
def vecExtreme (max_ abs_ : Bool) (d c : Nat) (m : Mach) (r : VecRun) (v : VInst) : Mach × VOut :=
  let f := vFmt v.w
  m.vecReduce d c v (foldRow f max_ ((r.row v.w v.va).map (fun x => if abs_ then f.abs x else x)))

/-- VPERM: vd ← va[vb]; the result of an index past the row is not stated and open. [DESIGN CHOICE, log 62] -/
def vecPerm (d c : Nat) (m : Mach) (r : VecRun) (v : VInst) : Mach × VOut :=
  let xs := r.row v.w v.va
  let pick (i k : Nat) : Nat := match xs[k]? with
    | some x => x
    | none => (Config.freeLane m.freeCtr i).toNat % 2 ^ (if v.w then 64 else 32)
  m.tickFree.vecPlain d c v ((r.row v.w v.vb).mapIdx pick)

/-- VILV: the low or the high halves of two rows, interleaved. -/
def vecIlv (d c : Nat) (m : Mach) (r : VecRun) (v : VInst) : Mach × VOut :=
  let n := if v.w then 32 else 64
  let half (k : Nat) : List Nat := ((r.row v.w k).drop (n * (v.imm % 2))).take n
  m.vecPlain d c v ((List.zip (half v.va) (half v.vb)).flatMap (fun p => [p.1, p.2]))

/-- VDILV: the even or the odd lanes of two rows, one after the other. -/
def vecDilv (d c : Nat) (m : Mach) (r : VecRun) (v : VInst) : Mach × VOut :=
  let n := if v.w then 32 else 64
  let take_ (k : Nat) : List Nat := (List.range n).map (fun i => (r.row v.w k).getD (2 * i + v.imm % 2) 0)
  m.vecPlain d c v (take_ v.va ++ take_ v.vb)

/-- VROT: by `imm`[6:0] lanes; which way is not stated. [DESIGN CHOICE, log 63] -/
def vecRot (d c : Nat) (m : Mach) (r : VecRun) (v : VInst) : Mach × VOut :=
  let xs := r.row v.w v.va
  let n := v.imm % 128 % xs.length
  m.vecPlain d c v (if Config.rotUp then xs.drop (xs.length - n) ++ xs.take (xs.length - n) else xs.drop n ++ xs.take n)

/-- ZMAPCLR (R156): every bit of the zero-map accumulator 1. -/
def vecZmapclr (d c : Nat) (m : Mach) (_r : VecRun) (_v : VInst) : Mach × VOut :=
  (m.modRun d c (fun r => { r with zacc := some (2 ^ 4096 - 1) }), .next)

/-- SJMP (R203). -/
def vecSjmp (_d _c : Nat) (m : Mach) (r : VecRun) (v : VInst) : Mach × VOut := (m, .jump ((r.idx : Int) + v.simm))

end Sys2Proof.Machine
end

