-- ==== Sys2Proof/Machine/Operands.lean ====
section
/-! DEFINITION. How a command meets the state: its condition of power and reset, the register it addresses, the instruction it
issues; and the PMU cycle. -/

namespace Sys2Proof.Machine

/-! ### Conditions: a command that cannot happen in a state leaves it as it is -/

/-- A command's effect on the machine, whatever its supplies are. -/
def State.always (s : State) (f : Mach → Mach) : Host.Outcome State Fault Refusal := .next { s with m := f s.m }

/-- A command of the Bludjan die or the module: it needs the Bludjan die's supply. [DESIGN CHOICE, log 6] -/
def State.onModule (s : State) (f : Mach → Mach) : Host.Outcome State Fault Refusal :=
  if s.m.powered then .next { s with m := f s.m } else .next s

/-- A command of the CP firmware, which runs from phase 0x03 on (R511). [DESIGN CHOICE, log 6] -/
def State.onCp (s : State) (f : Mach → Mach) : Host.Outcome State Fault Refusal := s.onModule (fun m => if m.cp.up then f m else m)

/-- A command of the data plane as a whole. [DESIGN CHOICE, log 6] -/
def State.onData (s : State) (f : Mach → Mach) : Host.Outcome State Fault Refusal :=
  if s.m.dataPlane then .next { s with m := f s.m } else .next s

/-- R417, Table 14.3: the oldest descriptor that queue `q` has not read yet meets an uncorrectable error of the queue storage: SRAM_UE of
unit 7 goes to CP, and the descriptor completes with POISONED_OPERAND. Its record is named by its own header.
[DESIGN CHOICE, log 147] -/
def Mach.queueUe (m : Mach) (d c q : Nat) (x : Desc) : Mach :=
  let m := m.toCp d 0x34 false false [(4, 7), (8, coreNum d c), (48, 0)]
  if q = 0 then ((m.dropAhead d c x.seq).complete d c q x stPoisoned none 0 0).planWindow d c
  else
    let m := m.complete d c q x stPoisoned none 0 0
    if q = 1 then m.cnt .vecCnt d 0 (c := c) else m

/-- A row that reads the oldest entry of a queue: with an error of the queue storage under an entry read for the first time, `queueUe`; else
what the row does. `seq`: the entry the row names, if it names one. [DESIGN CHOICE, log 147] -/
def Mach.readEntry (m : Mach) (d c q : Nat) (seq : Option Nat) (bad : Bool) (f : Mach → Mach) : Mach :=
  if bad then
    match m.oldest d c q with
    | some x =>
      if x.waiting || x.released || seq.any (· != x.seq) || (q != 3 && m.fenced d c) then f m else m.queueUe d c q x
    | none => f m
  else f m

/-- A command of one compute die: a die that is being reset does nothing. [DESIGN CHOICE, log 6] -/
def State.onDie (s : State) (d : Fin 8) (f : Mach → Mach) : Host.Outcome State Fault Refusal :=
  if s.m.dieRuns d then .next { s with m := f s.m } else .next s

/-- R465, R469: Nutmeg on every die that runs follows the waits that an event has begun or ended. [DESIGN CHOICE, log 24] -/
def Mach.nutmegAll (m : Mach) : Mach := (List.range 8).foldl (fun m d => if m.dieRuns d then m.nutmegFollow d else m) m

/-- A command of one compute die that may begin or end a marked wait (R465, R469). -/
def State.onWaits (s : State) (d : Fin 8) (f : Mach → Mach) : Host.Outcome State Fault Refusal := s.onDie d (fun m => (f m).nutmegAll)

/-- A command of one of the nine dies. [DESIGN CHOICE, log 6] -/
def State.onNine (s : State) (d : Fin 9) (f : Mach → Mach) : Host.Outcome State Fault Refusal :=
  if s.m.nineRuns d then .next { s with m := f s.m } else .next s

/-- A write to the registers that a row names by `p`. -/
def State.onRegs (s : State) (p : RegId → RegW → Bool) (who : BusWho) (pa n value hw : Nat) : Host.Outcome State Fault Refusal :=
  s.onModule (fun m => m.rowWrite p who pa n value hw)

/-- An instruction issues on a die that runs. -/
def State.onIssue (s : State) (i : Issue) (op : RvOp) (l1Bad : Bool := false) : Host.Outcome State Fault Refusal :=
  s.onDie i.die (fun m => m.issueRun i.die i.core i.block i.group i.lanes op { l1Bad, regBad := i.regBad, hints := i.hints })

/-! ### Register accesses -/

/-- R9: a write to a register window, with its response. [DEDUCED, log 10] -/
def Mach.storeReg (m : Mach) (who : BusWho) (pa n value hw : Nat) : Mach :=
  match m.busWrite who pa n value hw with
  | (m, true) => { m with resp := .ok 0 }
  | (m, false) => { m with resp := .accessFault }

/-- R9, R13: a read of a register window, with its response. [DEDUCED, log 10] -/
def Mach.loadReg (m : Mach) (who : BusWho) (pa n : Nat) : Mach :=
  match m.busRead who pa n with
  | (m, some v) => { m with resp := .ok v }
  | (m, none) => { m with resp := .accessFault }

/-! ### Instructions by their parts (R170): what no encoding has is illegal -/

/-- A load: LB, LH, LW, LD, LBU, LHU, LWU, FLW. -/
def loadOp (width : Nat) (sg fl : Bool) (rd rs1 : Nat) (off : Int) : RvOp :=
  if fl then (if width = 4 then .flw rd rs1 off else .illegal)
  else if width = 1 ∨ width = 2 ∨ width = 4 ∨ (width = 8 ∧ sg = true) then .load width sg rd rs1 off
  else .illegal

/-- A store: SB, SH, SW, SD, FSW. -/
def storeOp (width : Nat) (fl : Bool) (rs1 rs2 : Nat) (off : Int) : RvOp :=
  if fl then (if width = 4 then .fsw rs1 rs2 off else .illegal)
  else if width = 1 ∨ width = 2 ∨ width = 4 ∨ width = 8 then .store width rs1 rs2 off
  else .illegal

/-- An AMO of the A extension. -/
def amoOp (f5 width rd rs1 rs2 : Nat) (rl : Bool) : RvOp :=
  if (width = 4 ∨ width = 8) ∧ amoCodes.contains f5 then .amo f5 width rd rs1 rs2 rl else .illegal

/-- LR.W, LR.D. -/
def lrOp (width rd rs1 : Nat) (rl : Bool) : RvOp := if width = 4 ∨ width = 8 then .lr width rd rs1 rl else .illegal

/-- SC.W, SC.D. -/
def scOp (width rd rs1 rs2 : Nat) (rl : Bool) : RvOp := if width = 4 ∨ width = 8 then .sc width rd rs1 rs2 rl else .illegal

/-- CSRRW, CSRRS, CSRRC and their immediate forms. -/
def csrOp (f3 rd rs1 num : Nat) : RvOp := if f3 % 4 = 0 then .illegal else .csr f3 rd rs1 num

/-! ### The PMU cycle -/

/-- R43: a timer fires once its target is reached. -/
def Mach.timerFireRow (m : Mach) (d n : Nat) : Mach := if m.timerReached d n then m.timerFire d n else m

/-- R460: a power sample of a compute die, or of the Bludjan domain. -/
def Mach.powerRow (m : Mach) (d compute : Nat) (stk : List Nat) (optics : Nat) : Mach :=
  if d = sdDie then m.powerMc compute else m.powerSample d compute stk optics

/-- One PMU cycle of a compute die: its time, its cores' counters of waiting, its power floor; in a module that has gone
fail-silent the die chooses its time source anew (R31). [DESIGN CHOICE, log 24; DESIGN CHOICE, log 123] -/
def Mach.dieCycle (m : Mach) (d : Nat) : Mach :=
  let m := if m.silent then m.selectSource d else m
  let m := (m.tickDie d).modDie d (fun x => { x with pend := [], pendFor := [], updWas := none })
  let m := ((m.cores.map (·.1)).filter (fun k => k / 32 == d)).foldl (fun m k => m.coreCycle d (k % 32)) m
  ((m.colCycle d).nutmegFollow d).showFloor d

/-- FT_COUNTER_TICK (R27): one PMU cycle of every die that runs; boundaries that were missed are applied once the module is locked
(R436); attestation requests whose 20 ms are over are answered (R522). [DESIGN CHOICE, log 24] -/
def Mach.tickAll (m : Mach) : Mach :=
  let m := m.tickDie sdDie
  let m := (bitsSet (2 ^ 8 - 1) 8).foldl (fun m d => if m.dieRuns d then m.dieCycle d else m) m
  (m.parts.foldl (fun m p => m.lateBoundary p) m).attestDue

end Sys2Proof.Machine
end

