-- ==== Sys2Proof/Machine/ArrayRows.lean ====
section
/-! DEFINITION. The matrix array and Sumac (spec/04, spec/05): the meaning of each command of the family. -/

namespace Sys2Proof.Machine

/-- ARRAY_DESCRIPTOR_START (R84, R54, R85, R106, R114, R122, R123, R212): the oldest unstarted array descriptor is validated,
waits on wait_ctr, and joins or opens a tile. -/
def execArrayDescriptorStart (d : Fin 8) (c : Met (Fin 32)) (s : State) : Host.Outcome State Fault Refusal :=
  s.onDie d (fun m => m.readEntry d c.val 0 none c.bad (fun m => m.arrayStart d c.val))

/-- TILE_OPEN (R89, R88, R96): the array opens a tile in the lower-numbered FREE plane once its first descriptor and operands
are ready. -/
def execTileOpen (d : Fin 8) (c : Fin 32) (s : State) : Host.Outcome State Fault Refusal :=
  s.onDie d (fun m => m.tileOpen d c)

/-- OPERAND_FETCH_COMPLETE (R81, R106, R114, R128, R551, R552): A feeder fetch of stream, lo or correction operands returns,
and a fault abandons the tile under R552. -/
def execOperandFetchComplete (d : Fin 8) (c : Fin 32) (seq block : Nat) (op : Fin 4) (s : State) : Host.Outcome State Fault Refusal :=
  s.onDie d (fun m => m.operandFetch d c seq block op)

/-- K_GROUP_ENTER (R80, R50, R51, R52, R55, R56, R57, R58): one K group enters the array, and each cell adds its cell
operation into the active plane. -/
def execKGroupEnter (d : Fin 8) (c : Fin 32) (upset : Met (Option (Nat × Nat × Nat))) (s : State) : Host.Outcome State Fault Refusal :=
  s.onDie d (fun m => m.arrayCycle d c upset.val upset.bad)

/-- SPILL (R90, R53, R57, R62, R73, R88, R96, R97): A plane that has received ceil(S/g) operations, or one forced by a
correction, is added into the spill store row by row. -/
def execSpill (d : Fin 8) (c : Fin 32) (disagree : Bool) (s : State) : Host.Outcome State Fault Refusal :=
  s.onDie d (fun m => m.spill d c disagree)

/-- SPILL_COMPLETE (R90, R63, R88): the spilled plane returns to FREE 262 cc after its segment's last K group, or after the
store frees. -/
def execSpillComplete (d : Fin 8) (c : Fin 32) (s : State) : Host.Outcome State Fault Refusal :=
  s.onDie d (fun m => m.spillComplete d c)

/-- CHECKSUM_COMPARE (R100, R87, R91, R92, R99, R101, R102, R103): rows and columns of a segment are compared with the
checksum lanes, and a mismatch starts a recompute or fences the core. -/
def execChecksumCompare (d : Fin 8) (c : Fin 32) (s : State) : Host.Outcome State Fault Refusal :=
  s.onDie d (fun m => m.checksumCompare d c)

/-- TILE_RELEASE (R93, R71, R82, R88, R91, R92, R114, R115, R124): in open order, a checked tile writes its status word, completes
its descriptors and increments each done_ctr. -/
def execTileRelease (d : Fin 8) (c : Fin 32) (s : State) : Host.Outcome State Fault Refusal :=
  s.onDie d (fun m => (m.tileRelease d c).planWindow d c)

/-- ARR_CFG_WRITE (R117): sets the resident sizes and default spill interval, or is ignored with cfg_err. -/
def execArrCfgWrite (who : BusWho) (pa n value hw : Nat) (s : State) : Host.Outcome State Fault Refusal :=
  s.onRegs (fun id _ => id.reg == .arrCfg) who pa n value hw

/-- ARR_SPARE_MAP_WRITE (R116, R15, R79): the CP firmware writes or locks the spare map, and software writes fault. -/
def execArrSpareMapWrite (who : BusWho) (pa n value hw : Nat) (s : State) : Host.Outcome State Fault Refusal :=
  s.onRegs (fun id _ => id.reg == .arrSpareMap) who pa n value hw

/-- SUMAC_PREDICTION_READ (R124, R130, R133, R136): when a predict-mode descriptor joins the planning window, Sumac reads the
predicted map and B fetch may begin. -/
def execSumacPredictionRead (d : Fin 8) (c : Fin 32) (s : State) : Host.Outcome State Fault Refusal :=
  s.onDie d (fun m => m.predictionRead d c)

/-- ZMAP_ACTUAL_READ (R125, R120, R124, R130, R133, R134, R136, R140): after zmap_ctr reaches zmap_val, the actual map is
read, blocks are classified, misses are recorded and history is observed. -/
def execZmapActualRead (d : Fin 8) (c : Fin 32) (seq : Nat) (s : State) : Host.Outcome State Fault Refusal :=
  s.onDie d (fun m => m.actualRead d c seq)

/-- ZMAP_VERIFY_READ (R129): with verify set, operand A of a block marked zero is read, and a non-zero block becomes a miss
and sets zmap_false. -/
def execZmapVerifyRead (d : Fin 8) (c : Fin 32) (seq : Nat) (s : State) : Host.Outcome State Fault Refusal :=
  s.onDie d (fun m => m.verifyRead d c seq)

/-- SUMAC_CORRECTION (R127, R73, R128, R129, R140): A missed block is issued as 32/g correction groups after the main stream,
sending ZMAP_FALSE for verification failures. -/
def execSumacCorrection (d : Fin 8) (c : Fin 32) (s : State) : Host.Outcome State Fault Refusal :=
  s.onDie d (fun m => m.correction d c)

/-- SUM_FOLD_ENTRY (R135, R136): folds one history entry: pushes cur into the ring and recomputes pred. -/
def execSumFoldEntry (who : BusWho) (pa n value hw : Nat) (s : State) : Host.Outcome State Fault Refusal :=
  s.onRegs (fun id w => id.reg == .sumFold && Fld.sumFold_all.of w.raw == 0) who pa n value hw

/-- SUM_FOLD_ALL (R135): folds every valid history entry in ascending index order. -/
def execSumFoldAll (who : BusWho) (pa n value hw : Nat) (s : State) : Host.Outcome State Fault Refusal :=
  s.onRegs (fun id w => id.reg == .sumFold && Fld.sumFold_all.of w.raw == 1) who pa n value hw

/-- SUM_CTRL_WRITE (R139): sets force, or is ignored with cfg_err for 11. -/
def execSumCtrlWrite (who : BusWho) (pa n value hw : Nat) (s : State) : Host.Outcome State Fault Refusal :=
  s.onRegs (fun id _ => id.reg == .sumCtrl) who pa n value hw

/-- SUM_TBL_WRITE (R139, R549): sets the history table base or configuration, or is ignored while Sumac descriptors are in
flight. -/
def execSumTblWrite (who : BusWho) (pa n value hw : Nat) (s : State) : Host.Outcome State Fault Refusal :=
  s.onRegs (fun id _ => id.reg == .sumTblBase || id.reg == .sumTblCfg) who pa n value hw

end Sys2Proof.Machine
end

