-- ==== Sys2Proof/Machine/BootRows.lean ====
section
/-! DEFINITION. The boundary, boot and start-up (spec/17, spec/18): the meaning of each command of the family. -/

namespace Sys2Proof.Machine

/-- COLD_RESET (R509, R11, R24, R25, R29, R347, R473, R513): power-on or assertion of PWR_EN after deassertion restarts every
processor, clears all state except fuses, flash and the repair log, and samples the straps. -/
def execColdReset (cool bifurc : Fin 4) (rails : Bool) (s : State) : Host.Outcome State Fault Refusal :=
  s.always (fun m => m.coldReset cool bifurc rails)

/-- PWR_EN_DEASSERT (R534): deassertion of PWR_EN makes the module fail-silent, asserts PERST_OUT_N and stops every rail
within 20 ms. -/
def execPwrEnDeassert (s : State) : Host.Outcome State Fault Refusal :=
  s.always (fun m => m.pwrEnDeassert)

/-- SUPPLY_OUT_OF_TOLERANCE (R530, R417, R420): P54V outside 44 to 63 V, or an excursion longer than 10 ms, withdraws the
module while the Bludjan die keeps running. -/
def execSupplyOutOfTolerance (s : State) : Host.Outcome State Fault Refusal :=
  s.onModule (fun m => m.supplyOut)

/-- SUPPLY_LOSS (R530): P54V below 36 V or above 63 V for 50 us stops every rail and deasserts PWR_GOOD. [DEDUCED, log 106] -/
def execSupplyLoss (mv : Nat) (s : State) : Host.Outcome State Fault Refusal :=
  if 65000 < mv then .fault .beyondRatings else s.onModule (fun m => m.supplyLoss mv)

/-- IMAGE_VERIFICATION (R516, R511, R514, R515, R520): the boot ROM checks image layout, key, signature, svn and component
digests, and derives the boot identity. -/
def execImageVerification (s : State) : Host.Outcome State Fault Refusal :=
  s.onModule (fun m => m.imageVerification)

/-- RECOVERY (R518, R514, R516): after a failed verification, the MC fetches an image by DHCP and TFTP, writes it to the slot
and phase 0x01 runs again. -/
def execRecovery (image : Option (List Byte)) (s : State) : Host.Outcome State Fault Refusal :=
  s.onModule (fun m => m.recovery image)

/-- RELEASE (R511, R513, R521, R538): the SP loads and starts the MC and CP firmware, and the MC brings up the management lane
and I3C. -/
def execRelease (started : Bool) (s : State) : Host.Outcome State Fault Refusal :=
  s.onModule (fun m => m.release started)

/-- FUSE_LOAD (R111, R511, R514): the CP firmware loads ARR_SPARE_MAP of every core from the fuses and reads the repair log.
-/
def execFuseLoad (checkOk : Bool) (s : State) : Host.Outcome State Fault Refusal :=
  s.onModule (fun m => m.fuseLoad checkOk)

/-- MEMORY_TRAINING (R320, R319, R331, R335, R511, R514): the CP firmware trains all stacks at the highest common passing
rate, reapplies logged rows, and trains the GDDR7. -/
def execMemoryTraining (eyes : List (List StackEye)) (gdFails : List Nat) (log : Option (List Nat)) (s : State) :
    Host.Outcome State Fault Refusal :=
  s.onModule (fun m => m.memoryTraining eyes gdFails log)

/-- SELF_TEST (R519, R111, R112, R511, R514): every core runs the array and SRAM self-test; failing lines are soft-repaired or
the core is fenced, then every spare map is locked. -/
def execSelfTest (results : List SelfTestCore) (s : State) : Host.Outcome State Fault Refusal :=
  s.onModule (fun m => m.selfTest results)

/-- FABRIC_BRING_UP (R512, R511, R513): the CP firmware obtains the node id and system sizes over PLDM and writes FAB_DIMS and
FAB_NODE, so that the ports may negotiate. -/
def execFabricBringUp (info : Option (Nat × Nat)) (s : State) : Host.Outcome State Fault Refusal :=
  s.onModule (fun m => m.fabricBringUp info)

/-- LOADER_ENTRY (R511, R517): the CP firmware starts AC0 at the loader entry point, and the SP commits the svn fuses when
requested; in the running module, the loader or software sets PERST_OUT_N (R513, R536). -/
def execLoaderEntry (s : State) : Host.Outcome State Fault Refusal :=
  s.onModule (fun m => m.loaderEntry)

/-- PHASE_TIMEOUT (R511, R514, R537): A start-up phase that exceeds its maximum fails, which sets BOOT_STATUS.fail and asserts
FAULT_N. -/
def execPhaseTimeout (s : State) : Host.Outcome State Fault Refusal :=
  s.onModule (fun m => m.phaseTimeout)

end Sys2Proof.Machine
end

