-- ==== Sys2Proof/Machine/CollectiveRows.lean ====
section
/-! DEFINITION. The collective engine (spec/13): the meaning of each command of the family. -/

namespace Sys2Proof.Machine

/-- ALL_REDUCE (R389, R212, R213, R222, R223, R383, R384, R385): collective op 0x0 sums vectors over all ranks by rings. -/
def execAllReduce (d : Met (Fin 8)) (s : State) : Host.Outcome State Fault Refusal :=
  s.onWaits d.val (fun m => m.readEntry d.val 0 3 none d.bad (fun m => m.collective d.val 0))

/-- REDUCE_SCATTER (R389, R222, R223, R383, R384, R385, R386, R390): collective op 0x1 leaves each rank its shard of the sum.
-/
def execReduceScatter (d : Met (Fin 8)) (s : State) : Host.Outcome State Fault Refusal :=
  s.onWaits d.val (fun m => m.readEntry d.val 0 3 none d.bad (fun m => m.collective d.val 1))

/-- ALL_GATHER (R389, R222, R223, R383, R384, R385, R386, R390): collective op 0x2 gives each rank every rank's shard. -/
def execAllGather (d : Met (Fin 8)) (s : State) : Host.Outcome State Fault Refusal :=
  s.onWaits d.val (fun m => m.readEntry d.val 0 3 none d.bad (fun m => m.collective d.val 2))

/-- ALL_TO_ALL_V (R392, R222, R223, R383, R384, R385, R386, R389): collective op 0x3 exchanges variable-size data per the size
table. -/
def execAllToAllV (d : Met (Fin 8)) (s : State) : Host.Outcome State Fault Refusal :=
  s.onWaits d.val (fun m => m.readEntry d.val 0 3 none d.bad (fun m => m.collective d.val 3))

/-- EXPERT_COMBINE (R389, R222, R223, R383, R384, R385, R386, R390): collective op 0x4 sends rows that are added or placed at
the indexed rows. -/
def execExpertCombine (d : Met (Fin 8)) (s : State) : Host.Outcome State Fault Refusal :=
  s.onWaits d.val (fun m => m.readEntry d.val 0 3 none d.bad (fun m => m.collective d.val 4))

/-- COLLECTIVE_MESSAGE_RECEIVE (R396, R388, R392, R394, R395, R401, R465): A collective message is applied to dst or staging,
or held until its operation starts. -/
def execCollectiveMessageReceive (d : Fin 8) (x : ColMsg) (s : State) : Host.Outcome State Fault Refusal :=
  s.onWaits d (fun m => m.colMessage d x)

/-- COLLECTIVE_END_NOTICE (R388): an end notice ends the same operation with the same status within 100 us. -/
def execCollectiveEndNotice (d : Fin 8) (g seq status : Nat) (s : State) : Host.Outcome State Fault Refusal :=
  s.onWaits d (fun m => m.colNotice d g seq status)

/-- COLLECTIVE_DEADLINE (R401, R7, R44, R403): at the deadline, a rank whose descriptor has not started becomes late,
contributes zero and relays. -/
def execCollectiveDeadline (d : Fin 8) (g : Nat) (s : State) : Host.Outcome State Fault Refusal :=
  s.onWaits d (fun m => m.colDeadline d g)

/-- COLLECTIVE_COMPLETE (R400, R207, R209, R232, R233, R392, R405, R409): when the result is in dst and all sends and adds are
done, the operation completes with its record. -/
def execCollectiveComplete (d : Fin 8) (g : Nat) (s : State) : Host.Outcome State Fault Refusal :=
  s.onWaits d (fun m => m.colComplete d g)

/-- COL_RESUME_WRITE (R407, R410): in T16 mode, restarts a broken group's held operations with the new membership. -/
def execColResumeWrite (who : BusWho) (pa n value hw : Nat) (s : State) : Host.Outcome State Fault Refusal :=
  s.onModule (fun m => (m.rowWrite (fun id _ => id.reg == .colResume) who pa n value hw).nutmegAll)

/-- COL_GRP_WRITE (R410, R549): writes the group table base or configuration, or is ignored while operations are in progress.
-/
def execColGrpWrite (who : BusWho) (pa n value hw : Nat) (s : State) : Host.Outcome State Fault Refusal :=
  s.onRegs (fun id _ => id.reg == .colGrpBase || id.reg == .colGrpCfg) who pa n value hw

end Sys2Proof.Machine
end

