-- ==== Sys2Proof/Machine/DieCacheRows.lean ====
section
/-! DEFINITION. The die caches (spec/10): the meaning of each command of the family. -/

namespace Sys2Proof.Machine

/-- DIE_CACHE_REQUEST (R270, R8, R19, R266, R267, R271, R274, R287): A request reaches a die-cache slice and is served under
the class, coherence, Clove and replacement rules. -/
def execDieCacheRequest (d : Fin 9) (req : Requester) (op : CacheOp) (mirror : Bool) (err : Option CacheErr) (s : State) : Host.Outcome State Fault Refusal :=
  s.onNine d (fun m => m.dcRequest d req op mirror err)

/-- DIE_CACHE_MISS_FILL (R287, R266, R271, R289, R318): memory data returns and fills the line into the victim way chosen by
recency and pinning. -/
def execDieCacheMissFill (d : Fin 9) (a : Nat) (bankFull : Bool) (s : State) : Host.Outcome State Fault Refusal :=
  s.onNine d (fun m => (m.missFill d a bankFull).waitersDrain)

/-- ACCUMULATE_WRITE_APPLY (R283, R281, R282, R285, R550): the home slice adds one accumulate write into its sector, or
refuses it on poison. -/
def execAccumulateWriteApply (req : Requester) (a width : Nat) (bs : List Byte) (poison mirror : Bool) (s : State) : Host.Outcome State Fault Refusal :=
  s.onData (fun m => m.accRequest req a width bs poison mirror)

/-- REMOTE_LINE_SWEEP (R279): the background sweep frees remote-class lines of old epochs one set per slice per ns. -/
def execRemoteLineSweep (d : Fin 8) (set : Fin 2048) (s : State) : Host.Outcome State Fault Refusal :=
  s.onDie d (fun m => m.sweep d set)

/-- CLOVE_TRACKER_EXPIRE (R288): A tracker unmatched for 4 us is freed. -/
def execCloveTrackerExpire (d : Fin 8) (slice : Fin 64) (s : State) : Host.Outcome State Fault Refusal :=
  s.onDie d (fun m => m.cloveExpire d slice)

/-- MISS_SLOT_ISSUE (R301, R300): A request that waited for a miss slot or the bank-group cap takes a slot and issues. -/
def execMissSlotIssue (d : Fin 8) (c : Fin 32) (s : State) : Host.Outcome State Fault Refusal :=
  s.onDie d (fun m => m.slotIssue d c)

/-- BANK_RETRY_ISSUE (R302): A retry-buffer entry issues in order when its bank's controller queue frees. -/
def execBankRetryIssue (d : Fin 8) (a : Nat) (s : State) : Host.Outcome State Fault Refusal :=
  s.onDie d (fun m => m.bankRetry d a)

/-- MISS_REISSUE (R302): A miss returned by a full retry buffer is reissued after 64 ns. -/
def execMissReissue (d : Fin 8) (a : Nat) (s : State) : Host.Outcome State Fault Refusal :=
  s.onDie d (fun m => m.missReissue d a)

/-- DC_PIN_CMD_PIN (R291, R290): pin command: lines are translated and pinned in order, stopping at the first refusal. -/
def execDcPinCmdPin (who : BusWho) (pa n value hw : Nat) (s : State) : Host.Outcome State Fault Refusal :=
  s.onRegs (fun id w => id.reg == .dcPinCmd && Fld.dcPinCmd_op.of w.raw == 1) who pa n value hw

/-- DC_PIN_CMD_UNPIN (R292): unpin command: the pinned lines of the range become ordinary. -/
def execDcPinCmdUnpin (who : BusWho) (pa n value hw : Nat) (s : State) : Host.Outcome State Fault Refusal :=
  s.onRegs (fun id w => id.reg == .dcPinCmd && Fld.dcPinCmd_op.of w.raw == 2) who pa n value hw

/-- PIN_COMMAND_COMPLETE (R291): the pin command ends, writes done, reason and DC_PIN_FAIL, and sends PIN_REFUSED when
refused. -/
def execPinCommandComplete (d : Fin 8) (s : State) : Host.Outcome State Fault Refusal :=
  s.onDie d (fun m => m.pinComplete d)

/-- PIN_PRESSURE_WINDOW (R293): A window of pinned-set misses exceeding the threshold sets pin_pressure and sends
PIN_PRESSURE. -/
def execPinPressureWindow (d : Fin 8) (s : State) : Host.Outcome State Fault Refusal :=
  s.onDie d (fun m => m.pinPressure d)

/-- DEAD_RANGE_DECLARE (R294, R295): A declare write activates a dead range, or refuses it with err. -/
def execDeadRangeDeclare (who : BusWho) (pa n value hw : Nat) (s : State) : Host.Outcome State Fault Refusal :=
  s.onRegs (fun id w => id.reg == .dcDeadCtl && Fld.dcDeadCtl_declare.of w.raw == 1 && Fld.dcDeadCtl_cancel.of w.raw == 0) who pa n value hw

/-- DEAD_RANGE_CANCEL (R298): A cancel write clears active without release, possibly followed by a declaration. -/
def execDeadRangeCancel (who : BusWho) (pa n value hw : Nat) (s : State) : Host.Outcome State Fault Refusal :=
  s.onRegs (fun id w => id.reg == .dcDeadCtl && Fld.dcDeadCtl_cancel.of w.raw == 1) who pa n value hw

/-- DEAD_RANGE_INVALIDATE_DONE (R295, R297, R298): the range's copies are discarded without write-back, busy clears, and a
waiting write releases the range. -/
def execDeadRangeInvalidateDone (d : Fin 8) (i : Fin 64) (s : State) : Host.Outcome State Fault Refusal :=
  s.onDie d (fun m => (m.deadDone d i).waitersDrain)

/-- DC_CFG_WRITE (R307): sets clove_mode and the stream prefetch distance, or is ignored with cfg_err. -/
def execDcCfgWrite (who : BusWho) (pa n value hw : Nat) (s : State) : Host.Outcome State Fault Refusal :=
  s.onRegs (fun id _ => id.reg == .dcCfg) who pa n value hw

/-- DC_L1_CFG_WRITE (R307): sets L1 stride prefetch, or is ignored for distance 0. -/
def execDcL1CfgWrite (who : BusWho) (pa n value hw : Nat) (s : State) : Host.Outcome State Fault Refusal :=
  s.onRegs (fun id _ => id.reg == .dcL1Cfg) who pa n value hw

/-- DC_PIN_QUOTA_WRITE (R290, R307): the CP firmware sets the pin quota within range, and software writes fault. -/
def execDcPinQuotaWrite (who : BusWho) (pa n value hw : Nat) (s : State) : Host.Outcome State Fault Refusal :=
  s.onRegs (fun id _ => id.reg == .dcPinQuota) who pa n value hw

end Sys2Proof.Machine
end

