-- ==== Sys2Proof/Machine/DieRows.lean ====
section
/-! DEFINITION. Die reset, links between dies, watchdogs, fault records (spec/14): the meaning of each command of the family. -/

namespace Sys2Proof.Machine

/-- DIE_RESET (R306, R11, R29, R39, R107, R131, R162, R197): A die reset writes back and recalls lines, darkens the ports,
stops blocks and returns the die's fields to reset values. -/
def execDieReset (d : Fin 8) (s : State) : Host.Outcome State Fault Refusal :=
  s.onData (fun m => m.dieReset d)

/-- DIE_RESET_COMPLETE (R478, R105, R111, R422, R434): the CP firmware rewrites CP-only registers, reloads spare maps, re-arms
timers and reports the reset complete. -/
def execDieResetComplete (d : Fin 8) (s : State) : Host.Outcome State Fault Refusal :=
  s.onData (fun m => (m.dieResetDone d).waitersDrain)

/-- FAULT_RECORD_DELIVER (R412, R413, R414, R415, R416, R507): the fault aggregator delivers a record to the CP, MC and fault
queue, writing FQ_OVERFLOW or withholding when full. -/
def execFaultRecordDeliver (d : Fin 9) (s : State) : Host.Outcome State Fault Refusal :=
  s.onNine d (fun m => m.deliver d)

/-- D2D_LINK_FAULT (R417, R31, R32, R38, R39, R413): A D2D link fails, traffic moves to the other link or other dies, and
D2D_LINK is sent. -/
def execD2dLinkFault (a b : Fin 9) (l : Fin 2) (s : State) : Host.Outcome State Fault Refusal :=
  s.onData (fun m => m.d2dFault a b l)

/-- D2D_LINK_RESTORED (R413): A die-to-die link that had failed comes back into service, traffic and time sources may use it
again, and a D2D_LINK record with state 00 restored is sent to the CP. -/
def execD2dLinkRestored (a b : Fin 9) (l : Fin 2) (s : State) : Host.Outcome State Fault Refusal :=
  s.onData (fun m => m.d2dRestored a b l)

/-- LIVENESS_BEAT (R419): each Orlupo die's PMU sends a 1 ms liveness beat to the CP. -/
def execLivenessBeat (d : Fin 8) (s : State) : Host.Outcome State Fault Refusal :=
  s.onDie d (fun m => m.beat d)

/-- DIE_HANG_DETECT (R419, R417, R420, R537): three missed beats declare the die hung, which withdraws the module or resets
the die. -/
def execDieHangDetect (d : Fin 8) (s : State) : Host.Outcome State Fault Refusal :=
  s.onData (fun m => m.dieHang d)

/-- CP_WATCHDOG_EXPIRE (R421, R417, R420, R476, R488, R510): the SP withdraws the module and resets the CP. -/
def execCpWatchdogExpire (s : State) : Host.Outcome State Fault Refusal :=
  s.onModule (fun m => m.cpWatchdog)

/-- MC_WATCHDOG_EXPIRE (R421, R417, R510): the SP resets the MC, and the governor holds its caps. -/
def execMcWatchdogExpire (s : State) : Host.Outcome State Fault Refusal :=
  s.onModule (fun m => m.mcWatchdog)

/-- SP_WATCHDOG_EXPIRE (R421, R417, R420): the MC withdraws the module. -/
def execSpWatchdogExpire (s : State) : Host.Outcome State Fault Refusal :=
  s.onModule (fun m => m.spWatchdog)

/-- D2D_BEAT_LOST (R449, R421, R537): orlupo dies that lose the Bludjan D2D beat for 1 ms darken their ports. -/
def execD2dBeatLost (s : State) : Host.Outcome State Fault Refusal :=
  s.onData (fun m => m.beatLost)

end Sys2Proof.Machine
end

