-- ==== Sys2Proof/Machine/LaunchRows.lean ====
section
/-! DEFINITION. Launch queues (spec/08): the meaning of each command of the family. -/

namespace Sys2Proof.Machine

/-- LQ_TAIL_WRITE (R235, R206, R224): the launch-queue doorbell announces new slots, or is ignored with lq_err. -/
def execLqTailWrite (who : BusWho) (pa n value hw : Nat) (s : State) : Host.Outcome State Fault Refusal :=
  s.onRegs (fun id _ => id.reg == .lqTail) who pa n value hw

/-- LQ_CFG_WRITE (R234): configures or enables a launch queue, sets head to tail on enable, or is ignored with cfg_err. -/
def execLqCfgWrite (who : BusWho) (pa n value hw : Nat) (s : State) : Host.Outcome State Fault Refusal :=
  s.onRegs (fun id _ => id.reg == .lqCfg) who pa n value hw

/-- LQ_RING_BASE_WRITE (R234, R549): A write to LQ_BASE or LQ_CRING_BASE is applied only while the queue is disabled and the
region lies in memory. -/
def execLqRingBaseWrite (who : BusWho) (pa n value hw : Nat) (s : State) : Host.Outcome State Fault Refusal :=
  s.onRegs (fun id _ => id.reg == .lqBase || id.reg == .lqCringBase) who pa n value hw

/-- CQ_RING_WRITE (R234, R549): A write to a completion-ring base or configuration is applied only while the queue is empty
and the range is legal. -/
def execCqRingWrite (who : BusWho) (pa n value hw : Nat) (s : State) : Host.Outcome State Fault Refusal :=
  s.onRegs (fun id _ => id.reg == .cqRingBase || id.reg == .cqRingCfg || id.reg == .cqColRingBase || id.reg == .cqColRingCfg) who pa n value hw

/-- LAUNCH_READ (R228, R184, R187, R198, R207, R212, R213, R224): the launch unit reads the next launch descriptor of a queue,
validates it and divides branch-set rows. -/
def execLaunchRead (slot : Fin 8) (q : Fin 16) (s : State) : Host.Outcome State Fault Refusal :=
  s.onData (fun m => m.launchRead slot q)

/-- BLOCK_PLACE (R185, R175, R176, R181, R183, R184, R186, R187): the launch unit places one block of a ready launch on a core
in queue rotation, or a whole cluster at once. -/
def execBlockPlace (slot : Fin 8) (d : Fin 8) (c : Fin 32) (s : State) : Host.Outcome State Fault Refusal :=
  s.onDie d (fun m => m.blockPlace slot d c)

end Sys2Proof.Machine
end

