-- ==== Sys2Proof/Machine/MailboxRows.lean ====
section
/-! DEFINITION. The mailbox, I3C and the debug port (spec/16, spec/17, spec/18): the meaning of each command of the family. -/

namespace Sys2Proof.Machine

/-- MBX_REQ_TAIL_WRITE (R481, R480): the request doorbell announces requests, or is ignored with doorbell_err. -/
def execMbxReqTailWrite (who : BusWho) (pa n value hw : Nat) (s : State) : Host.Outcome State Fault Refusal :=
  s.onRegs (fun id _ => id.reg == .mbxReqTail) who pa n value hw

/-- MBX_RSP_HEAD_WRITE (R508): consumes responses, or is ignored with rsp_err when it would pass the tail. -/
def execMbxRspHeadWrite (who : BusWho) (pa n value hw : Nat) (s : State) : Host.Outcome State Fault Refusal :=
  s.onRegs (fun id _ => id.reg == .mbxRspHead) who pa n value hw

/-- MC_RELAY_REQUEST (R481): the MC writes a chassis or management request into mailbox 31. -/
def execMcRelayRequest (ws : List Nat) (s : State) : Host.Outcome State Fault Refusal :=
  s.onModule (fun m => if m.pins.mcUp then m.mcRelay ws else m)

/-- MAILBOX_REQUEST_TAKE (R482, R7, R480, R483, R485, R486, R487, R489): the CP firmware takes a request, checks seq, length,
permission and deadline, and starts the command. -/
def execMailboxRequestTake (k : Fin 32) (s : State) : Host.Outcome State Fault Refusal :=
  s.onCp (fun m => m.mbxTake k)

/-- OPEN (R487, R488, R490): negotiates a major version and opens the mailbox. -/
def execOpenMailbox (k : Fin 32) (s : State) : Host.Outcome State Fault Refusal :=
  s.onModule (fun m => m.mbxRun k 0x01 (fun m c => m.cmdOpen c))

/-- QUERY (R490): returns identity, partitions, power or versions. -/
def execQuery (k : Fin 32) (s : State) : Host.Outcome State Fault Refusal :=
  s.onModule (fun m => m.mbxRun k 0x02 (fun m c => m.cmdQuery c))

/-- CONFIGURE (R493, R489, R490, R491, R492, R494, R495, R512): checks a configuration structure whole, then applies, clamps,
ignores or refuses each entry and writes a report. -/
def execConfigure (k : Fin 32) (s : State) : Host.Outcome State Fault Refusal :=
  s.onModule (fun m => m.mbxRun k 0x03 (fun m c => m.cmdConfigure c))

/-- PARTITION_CREATE (R496, R490): takes a slot, binds a mailbox and sets translation roots and pin quotas on the named dies.
-/
def execPartitionCreate (k : Fin 32) (s : State) : Host.Outcome State Fault Refusal :=
  s.onModule (fun m => m.mbxRun k 0x10 (fun m c => m.cmdCreate c))

/-- PARTITION_DESTROY (R497): aborts and resets the partition's dies and frees its slot and mailbox. -/
def execPartitionDestroy (k : Fin 32) (s : State) : Host.Outcome State Fault Refusal :=
  s.onModule (fun m => m.mbxRun k 0x11 (fun m c => m.cmdDestroy c))

/-- JOB_OPEN (R498, R346, R423, R424, R427, R438, R490, R549): checks the box and Saffron layout, writes FAB_JOB, COL_CFG and
the SNAP registers, and arms timers 3 to 7. -/
def execJobOpen (k : Fin 32) (s : State) : Host.Outcome State Fault Refusal :=
  s.onModule (fun m => m.mbxRun k 0x12 (fun m c => m.cmdJobOpen c))

/-- JOB_CLOSE (R499): disarms the job timers and clears FAB_JOB.valid and SNAP_CFG.enable. -/
def execJobClose (k : Fin 32) (s : State) : Host.Outcome State Fault Refusal :=
  s.onModule (fun m => m.mbxRun k 0x13 (fun m c => m.cmdJobClose c))

/-- ABORT (R501, R22, R107, R131, R162, R197, R243, R260): stops the partition's engines, discards queued work, faults its
blocks and resets its counters. -/
def execAbort (k : Fin 32) (s : State) : Host.Outcome State Fault Refusal :=
  s.onCp (fun m => m.abortTake k)

/-- ABORT_COMPLETE (R501): ABORT completes when every engine is idle and no block is resident. -/
def execAbortComplete (slot : Fin 8) (s : State) : Host.Outcome State Fault Refusal :=
  s.onCp (fun m => m.abortComplete slot)

/-- ABORT_ESCALATE (R451, R501): an ABORT incomplete after 2 ms resets every die of the partition and reports ESCALATED. -/
def execAbortEscalate (slot : Fin 8) (s : State) : Host.Outcome State Fault Refusal :=
  s.onCp (fun m => m.abortEscalate slot)

/-- ROUTE_UPDATE (R364, R445, R490): installs a pending detour table, epoch, switch instant and clear list. -/
def execRouteUpdate (k : Fin 32) (s : State) : Host.Outcome State Fault Refusal :=
  s.onModule (fun m => m.mbxRun k 0x15 (fun m c => m.cmdRoute c))

/-- SNAP_CONFIG (R504, R431, R490): sets the send-side buddy and replica and the receive-side sender and areas. -/
def execSnapConfig (k : Fin 32) (s : State) : Host.Outcome State Fault Refusal :=
  s.onModule (fun m => m.mbxRun k 0x20 (fun m c => m.cmdSnapConfig c))

/-- SNAP_RESTORE (R441, R61, R137, R261, R439, R440, R442, R443): restores a version in local, replacement or adopt mode after
checking every chunk digest. -/
def execSnapRestore (k : Fin 32) (feed : RestoreFeed) (s : State) : Host.Outcome State Fault Refusal :=
  s.onModule (fun m => m.mbxRun k 0x21 (fun m c => m.cmdRestore c feed))

/-- MARGIN_START (R338, R490, R505, R549): starts a destructive margin sweep of the named stack and pseudo-channels. -/
def execMarginStart (k : Fin 32) (s : State) : Host.Outcome State Fault Refusal :=
  s.onModule (fun m => m.mbxRun k 0x30 (fun m c => m.cmdMarginStart c))

/-- MARGIN_STATUS (R490): returns the state and record count of a margin run. -/
def execMarginStatus (k : Fin 32) (s : State) : Host.Outcome State Fault Refusal :=
  s.onModule (fun m => m.mbxRun k 0x31 (fun m c => m.cmdMarginStatus c))

/-- MARGIN_CANCEL (R338): cancels a margin run and restores the trained settings. -/
def execMarginCancel (k : Fin 32) (s : State) : Host.Outcome State Fault Refusal :=
  s.onModule (fun m => m.mbxRun k 0x32 (fun m c => m.cmdMarginCancel c))

/-- FUSE_STATUS (R490): returns fenced, soft-repaired and spare-using cores and the repair-log rows of a die. -/
def execFuseStatus (k : Fin 32) (s : State) : Host.Outcome State Fault Refusal :=
  s.onModule (fun m => m.mbxRun k 0x40 (fun m c => m.cmdFuse c))

/-- FT_STATUS (R506, R490): returns FT_STATUS of all nine dies, FT_COUNT of CD0 and the civil offset. -/
def execFtStatus (k : Fin 32) (s : State) : Host.Outcome State Fault Refusal :=
  s.onModule (fun m => m.mbxRun k 0x41 (fun m c => m.cmdFtStatus c))

/-- COUNTER_SNAPSHOT (R506, R13, R490): reads the counters of selected blocks and dies into a buffer, optionally clearing
them. -/
def execCounterSnapshot (k : Fin 32) (s : State) : Host.Outcome State Fault Refusal :=
  s.onModule (fun m => m.mbxRun k 0x42 (fun m c => m.cmdCounters c))

/-- DEBUG_CHALLENGE (R523): returns a fresh 32-byte challenge and the DeviceID key digest. -/
def execDebugChallenge (k : Fin 32) (s : State) : Host.Outcome State Fault Refusal :=
  s.onModule (fun m => m.debugRun k false)

/-- DEBUG_UNLOCK (R524, R523, R525, R542): verifies a signed token, then erases attestation keys, opens debug access and sets
taint, or refuses. -/
def execDebugUnlock (k : Fin 32) (s : State) : Host.Outcome State Fault Refusal :=
  s.onModule (fun m => m.debugRun k true)

/-- ATTESTATION_REPORT (R522, R526, R540): request type 0 is answered with a report signed by the alias key over the nonce and
measurements. -/
def execAttestationReport (relay : Nat) (nonce : List Byte) (waiting : Nat) (s : State) : Host.Outcome State Fault Refusal :=
  s.onModule (fun m => m.attestAsk relay (some nonce) waiting)

/-- ATTESTATION_CERTIFICATES (R522, R526): request type 1 is answered with the DeviceID, firmware and alias certificates. -/
def execAttestationCertificates (relay waiting : Nat) (s : State) : Host.Outcome State Fault Refusal :=
  s.onModule (fun m => m.attestAsk relay none waiting)

/-- I3C_ENTDAA (R540): the I3C target accepts a dynamic address by ENTDAA. -/
def execI3cEntdaa (addr : Fin 128) (s : State) : Host.Outcome State Fault Refusal :=
  s.onModule (fun m => m.i3cEntdaa addr)

/-- I3C_SETDASA (R540): the I3C target accepts a dynamic address by SETDASA from static address 0x2A. -/
def execI3cSetdasa (static addr : Fin 128) (s : State) : Host.Outcome State Fault Refusal :=
  s.onModule (fun m => m.i3cSetdasa static addr)

/-- DEBUG_PORT_ACCESS (R542): activity on DBG_TCK, DBG_TMS, DBG_TDI and DBG_TRST_N drives the IEEE 1149.1 port while debug
access is open, and is ignored with DBG_TDO at high impedance otherwise. -/
def execDebugPortAccess (tck tms tdi trst : Bool) (s : State) : Host.Outcome State Fault Refusal :=
  s.onModule (fun m => m.debugPort tck tms tdi trst)

end Sys2Proof.Machine
end

