-- ==== Sys2Proof/Machine/MemoryRows.lean ====
section
/-! DEFINITION. Memory and translation (spec/11, spec/18): the meaning of each command of the family. -/

namespace Sys2Proof.Machine

/-- SCRUB_READ (R328, R326, R327, R329, R330): in an open window, a pseudo-channel reads its next sector at scrub_rate and
writes back corrections or reports errors. -/
def execScrubRead (d : Fin 8) (stack : Fin 4) (pch : Fin 64) (upset : Nat) (s : State) : Host.Outcome State Fault Refusal :=
  s.onDie d (fun m => m.scrubRead d stack pch upset)

/-- HBM_REFRESH (R321, R319): the controller refreshes each bank within the standard's interval, and requests to that bank
wait. -/
def execHbmRefresh (d : Fin 8) (stack : Fin 4) (pch : Fin 64) (bank : Nat) (s : State) : Host.Outcome State Fault Refusal :=
  s.onDie d (fun m => m.refresh d stack pch bank)

/-- HBM_READ_COMPLETE (R325, R322, R323, R324, R326, R330, R341, R417): A stacked-memory read decodes the RS codeword,
corrects, delivers poison or reports an uncorrectable error. -/
def execHbmReadComplete (a upset : Nat) (mirror : Bool) (s : State) : Host.Outcome State Fault Refusal :=
  s.onData (fun m => m.hbmReadDone a upset mirror)

/-- ROW_RETIRE (R331, R324, R332): the CP firmware holds the bank, rewrites the row through soft post-package repair and logs
it, or requests page offlining. -/
def execRowRetire (r : RowRef) (left : Option Nat) (s : State) : Host.Outcome State Fault Refusal :=
  s.onData (fun m => m.rowRetire r left)

/-- MIRROR_READ (R334, R325, R330): after an uncorrectable primary read, the mirror sector is read and either repairs the
primary or the read is delivered poisoned. -/
def execMirrorRead (a upset : Nat) (s : State) : Host.Outcome State Fault Refusal :=
  s.onData (fun m => m.mirrorRead a upset)

/-- GDDR7_READ_COMPLETE (R336, R337): A GDDR7 read retries EDC failures up to three times and delivers poison for
uncorrectable or listed sectors. -/
def execGddr7ReadComplete (a fails : Nat) (devCorrected devUe : Bool) (s : State) : Host.Outcome State Fault Refusal :=
  s.onData (fun m => m.gdReadDone a fails devCorrected devUe)

/-- HBM_CFG_WRITE (R340): A CP write sets scrub rate, row limit and ECC mode, is ignored on illegal values, and faults from
software. -/
def execHbmCfgWrite (who : BusWho) (pa n value hw : Nat) (s : State) : Host.Outcome State Fault Refusal :=
  s.onRegs (fun id _ => id.reg == .hbmCfg) who pa n value hw

/-- MARGIN_RUN_COMPLETE (R338, R339): A margin run ends, the trained settings are restored, the swept sectors are zeroed and
the results are written. -/
def execMarginRunComplete (d : Fin 8) (results : List PinMargin) (s : State) : Host.Outcome State Fault Refusal :=
  s.onDie d (fun m => m.marginComplete d results)

/-- XLAT_INV_PAGE (R343, R317): CFG_XLAT_INV with scope 00 and go invalidates the cached translations of the page holding va.
-/
def execXlatInvPage (who : BusWho) (pa n value hw : Nat) (s : State) : Host.Outcome State Fault Refusal :=
  s.onRegs (fun id w => id.reg == .cfgXlatInv && Fld.cfgXlatInv_go.of w.raw == 1 && Fld.cfgXlatInv_scope.of w.raw == 0) who pa n value hw

/-- XLAT_INV_PARTITION (R343, R317): CFG_XLAT_INV with scope 01 and go invalidates every cached translation of the partition.
-/
def execXlatInvPartition (who : BusWho) (pa n value hw : Nat) (s : State) : Host.Outcome State Fault Refusal :=
  s.onRegs (fun id w => id.reg == .cfgXlatInv && Fld.cfgXlatInv_go.of w.raw == 1 && Fld.cfgXlatInv_scope.of w.raw == 1) who pa n value hw

/-- XLAT_INV_COMPLETE (R317): the invalidation finishes and busy clears within 5 us. -/
def execXlatInvComplete (d : Fin 8) (s : State) : Host.Outcome State Fault Refusal :=
  s.onDie d (fun m => m.xlatInvDone d)

end Sys2Proof.Machine
end

