-- ==== Sys2Proof/Machine/MoverRows.lean ====
section
/-! DEFINITION. The mover (spec/08): the meaning of each command of the family. -/

namespace Sys2Proof.Machine

/-- MOVER_COPY (R218, R212, R213, R214, R219, R220, R221, R276): mover op 0x0 copies lines between virtual addresses. -/
def execMoverCopy (d : Fin 8) (c : Fin 32) (seq : Met Nat) (s : State) : Host.Outcome State Fault Refusal :=
  s.onDie d (fun m => m.readEntry d c 2 (some seq.val) seq.bad (fun m => m.mover d c seq.val 0))

/-- MOVER_LOAD_OPERAND_CACHE (R218, R146, R219): mover op 0x1 loads lines into the operand cache. -/
def execMoverLoadOperandCache (d : Fin 8) (c : Fin 32) (seq : Met Nat) (s : State) : Host.Outcome State Fault Refusal :=
  s.onDie d (fun m => m.readEntry d c 2 (some seq.val) seq.bad (fun m => m.mover d c seq.val 1))

/-- MOVER_STORE_OPERAND_CACHE (R218): mover op 0x2 stores operand-cache lines to memory. -/
def execMoverStoreOperandCache (d : Fin 8) (c : Fin 32) (seq : Met Nat) (s : State) : Host.Outcome State Fault Refusal :=
  s.onDie d (fun m => m.readEntry d c 2 (some seq.val) seq.bad (fun m => m.mover d c seq.val 2))

/-- MOVER_FILL_A_STAGER (R218, R82, R219): mover op 0x3 fills an A-stager resident region, waiting while an open tile names
it. -/
def execMoverFillAStager (d : Fin 8) (c : Fin 32) (seq : Met Nat) (s : State) : Host.Outcome State Fault Refusal :=
  s.onDie d (fun m => m.readEntry d c 2 (some seq.val) seq.bad (fun m => m.mover d c seq.val 3))

/-- MOVER_FILL_B_STAGER (R218, R82, R219): mover op 0x4 fills a B-stager resident region, waiting while an open tile names it.
-/
def execMoverFillBStager (d : Fin 8) (c : Fin 32) (seq : Met Nat) (s : State) : Host.Outcome State Fault Refusal :=
  s.onDie d (fun m => m.readEntry d c 2 (some seq.val) seq.bad (fun m => m.mover d c seq.val 4))

/-- MOVER_PREFETCH (R221, R219, R299): mover op 0x5 prefetches into the home die cache and never faults. -/
def execMoverPrefetch (d : Fin 8) (c : Fin 32) (seq : Met Nat) (s : State) : Host.Outcome State Fault Refusal :=
  s.onDie d (fun m => m.readEntry d c 2 (some seq.val) seq.bad (fun m => m.mover d c seq.val 5))

/-- MOVER_FILL_PATTERN (R218, R219): mover op 0x6 fills lines with the repeated 64-bit pattern. -/
def execMoverFillPattern (d : Fin 8) (c : Fin 32) (seq : Met Nat) (s : State) : Host.Outcome State Fault Refusal :=
  s.onDie d (fun m => m.readEntry d c 2 (some seq.val) seq.bad (fun m => m.mover d c seq.val 6))

/-- MOVER_ACCUMULATE_COPY (R218, R281): mover op 0x7 adds source lines into the destination by add-to-line. -/
def execMoverAccumulateCopy (d : Fin 8) (c : Fin 32) (seq : Met Nat) (s : State) : Host.Outcome State Fault Refusal :=
  s.onDie d (fun m => m.readEntry d c 2 (some seq.val) seq.bad (fun m => m.mover d c seq.val 7))

/-- MOVER_DESCRIPTOR_COMPLETE (R220, R207, R209, R214, R221, R232, R233): when all writes are acknowledged, the mover
descriptor completes with OK or PEER_LOST and counts poisoned sectors. -/
def execMoverDescriptorComplete (d : Fin 8) (c : Fin 32) (seq : Nat) (s : State) : Host.Outcome State Fault Refusal :=
  s.onDie d (fun m => m.moverComplete d c seq)

end Sys2Proof.Machine
end

