-- ==== Sys2Proof/Machine/PortRows.lean ====
section
/-! DEFINITION. Fabric ports and routes (spec/12): the meaning of each command of the family. -/

namespace Sys2Proof.Machine

/-- PORT_LIGHT_DETECT (R350, R349): light arriving on a lane puts the port in TRAIN. -/
def execPortLightDetect (d : Fin 8) (p : Fin 8) (lanes : Nat) (s : State) : Host.Outcome State Fault Refusal :=
  s.onDie d (fun m => m.lightDetect d p lanes)

/-- PORT_TRAIN_COMPLETE (R350): lanes lock clock, equaliser and FEC, and the port negotiates once FAB_NODE is valid on both
ends. -/
def execPortTrainComplete (d : Fin 8) (p : Fin 8) (lanes : Nat) (peerValid : Bool) (s : State) : Host.Outcome State Fault Refusal :=
  s.onDie d (fun m => m.trainComplete d p lanes peerValid)

/-- PORT_NEGOTIATE (R350, R345, R348, R349, R353, R354, R379): the capability exchange checks wiring and picks a rate, leading
to ACTIVE, STANDBY, WIRING or FAILED. -/
def execPortNegotiate (d : Fin 8) (p : Fin 8) (x : PeerCaps) (s : State) : Host.Outcome State Fault Refusal :=
  s.onDie d (fun m => m.negotiate d p x)

/-- PORT_LIGHT_LOST (R352, R31, R38, R39, R353, R356, R379, R417): loss of light on a used lane triggers a standby swap or
renegotiation, or failure. -/
def execPortLightLost (d : Fin 8) (p : Fin 8) (lanes : Nat) (s : State) : Host.Outcome State Fault Refusal :=
  s.onDie d (fun m => m.lightLost d p lanes)

/-- PORT_FEC_FAIL (R352, R356): 8 uncorrectable codewords on one lane within 10 us is a lane fault. -/
def execPortFecFail (d : Fin 8) (p : Fin 8) (lane n : Nat) (s : State) : Host.Outcome State Fault Refusal :=
  s.onDie d (fun m => m.fecFail d p lane n)

/-- STANDBY_SWAP (R353, R379): A standby port of the direction takes over a failed active port's traffic within 20 ms. -/
def execStandbySwap (d : Fin 8) (p : Fin 8) (s : State) : Host.Outcome State Fault Refusal :=
  s.onDie d (fun m => m.standbySwap d p)

/-- PORT_RETRY (R349): A FAILED port retries negotiation every 1 s. -/
def execPortRetry (d : Fin 8) (p : Fin 8) (s : State) : Host.Outcome State Fault Refusal :=
  s.onDie d (fun m => m.portRetry d p)

/-- FAB_PORT_CTL_WRITE (R380, R349): the CP firmware sets port rate, disable and edge admission, and software writes fault. -/
def execFabPortCtlWrite (who : BusWho) (pa n value hw : Nat) (s : State) : Host.Outcome State Fault Refusal :=
  s.onRegs (fun id _ => id.reg == .fabPortCtl) who pa n value hw

/-- LINK_PACKET_RECEIVE (R351, R352): A link packet is acknowledged, or a replay is requested on a CRC failure or a gap. -/
def execLinkPacketReceive (d : Fin 8) (p : Fin 8) (e : LinkEvent) (s : State) : Host.Outcome State Fault Refusal :=
  s.onDie d (fun m => m.linkReceive d p e)

/-- PACKET_FORWARD (R360, R361, R362, R363, R365): A packet is routed dimension-ordered, by detour entry or around a lost
node, or discarded for a stale epoch or hop limit. -/
def execPacketForward (d : Fin 8) (x : Packet) (s : State) : Host.Outcome State Fault Refusal :=
  s.onDie d (fun m => m.forward d x)

/-- HEARTBEAT_SEND (R355): every 250 us each ACTIVE or STANDBY port sends a heartbeat. -/
def execHeartbeatSend (d : Fin 8) (p : Fin 8) (s : State) : Host.Outcome State Fault Refusal :=
  s.onDie d (fun m => m.heartbeatSend d p)

/-- HEARTBEAT_RECEIVE (R355): A heartbeat resets the port's missed count. -/
def execHeartbeatReceive (d : Fin 8) (p : Fin 8) (s : State) : Host.Outcome State Fault Refusal :=
  s.onDie d (fun m => m.heartbeatReceive d p)

/-- HEARTBEAT_TIMEOUT (R356, R31, R38, R39, R352): four missed heartbeat periods fail the port, and may declare the neighbour
lost. -/
def execHeartbeatTimeout (d : Fin 8) (p : Fin 8) (s : State) : Host.Outcome State Fault Refusal :=
  s.onDie d (fun m => m.heartbeatTimeout d p)

/-- NODE_LOST_RECEIVE (R357, R221, R253, R358, R362, R374, R375, R379): A NODE_LOST flood sets FAB_LOST, is forwarded, is
reported and abandons accesses to the node. -/
def execNodeLostReceive (n : Fin 16384) (s : State) : Host.Outcome State Fault Refusal :=
  s.onData (fun m => m.nodeLostReceive n)

/-- FAB_ROUTE_CTL_WRITE (R381, R380): the CP firmware arms a route epoch switch, or the write is ignored with cfg_err. -/
def execFabRouteCtlWrite (who : BusWho) (pa n value hw : Nat) (s : State) : Host.Outcome State Fault Refusal :=
  s.onRegs (fun id _ => id.reg == .fabRouteCtl) who pa n value hw

/-- ROUTE_EPOCH_SWITCH (R364, R359, R379, R420, R445): at the switch instant, the pending detour table and epoch become active
and listed FAB_LOST bits clear. -/
def execRouteEpochSwitch (d : Fin 8) (s : State) : Host.Outcome State Fault Refusal :=
  s.onDie d (fun m => m.epochSwitch d)

end Sys2Proof.Machine
end

