-- ==== Sys2Proof/Machine/PowerRows.lean ====
section
/-! DEFINITION. Power and temperature (spec/15): the meaning of each command of the family. -/

namespace Sys2Proof.Machine

/-- PLDM_POWER_LIMIT (R454, R25, R455, R456, R473, R540): A chassis limit announcement computes the new cap, writes
PWR_CAP_PEND and arms action 0x6. -/
def execPldmPowerLimit (watts : Nat) (s : State) : Host.Outcome State Fault Refusal :=
  s.onModule (fun m => m.pldmLimit watts)

/-- POWER_SAMPLE (R460): every 1 us the PMU samples the die's compute, stack and optics rails. -/
def execPowerSample (d : Fin 9) (compute : Nat) (stk : List Nat) (optics : Nat) (s : State) : Host.Outcome State Fault Refusal :=
  s.onNine d (fun m => m.powerRow d compute stk optics)

/-- ESTIMATOR_RESCALE (R460): every 10 us the core activity estimates are rescaled to the measured die rail. -/
def execEstimatorRescale (d : Fin 8) (activity : List Nat) (uncore : Nat) (s : State) : Host.Outcome State Fault Refusal :=
  s.onDie d (fun m => m.rescale d activity uncore)

/-- GOVERNOR_WINDOW (R461, R44, R109, R160, R457, R458, R459, R462): at each 256-slot window the governor computes and spreads
each unit's bubbles. -/
def execGovernorWindow (d : Fin 9) (unit input : Nat) (s : State) : Host.Outcome State Fault Refusal :=
  s.onNine d (fun m => m.governor d unit input)

/-- SUPPLY_DROOP (R464, R109, R160): A compute supply droop beyond droop_mv inserts bubbles on every core of the die within 2
cc. -/
def execSupplyDroop (d : Fin 8) (drop : Nat) (s : State) : Host.Outcome State Fault Refusal :=
  s.onDie d (fun m => m.supplyDroop d drop)

/-- BALLAST_ISSUE (R466, R110): while engaged, ballast is issued on idle arrays to hold the floor. -/
def execBallastIssue (d : Fin 8) (c : Fin 32) (s : State) : Host.Outcome State Fault Refusal :=
  s.onDie d (fun m => m.ballast d c)

/-- NUTMEG_TAPER_START (R467): at the first grid instant after engagement, the floor begins its linear fall over taper_ms. -/
def execNutmegTaperStart (d : Fin 8) (s : State) : Host.Outcome State Fault Refusal :=
  s.onDie d (fun m => m.taperStart d)

/-- PWR_NUT_WRITE (R474): software sets the Nutmeg registers, or the write is ignored with cfg_err. -/
def execPwrNutWrite (who : BusWho) (pa n value hw : Nat) (s : State) : Host.Outcome State Fault Refusal :=
  s.onModule (fun m =>
    (m.rowWrite (fun id _ => [Reg.pwrNutCfg, .pwrNutDslot, .pwrNutMslot, .pwrNutGrp, .pwrNutProf].contains id.reg) who pa n value hw).nutmegAll)

/-- THERMAL_SAMPLE (R470, R319, R417, R420, R471, R472, R473): every 10 us the sensors are read, starting or ending throttles
and counting shutdown readings. -/
def execThermalSample (d : Fin 9) (tj : Nat) (stk : List Nat) (optics : Nat) (s : State) : Host.Outcome State Fault Refusal :=
  s.onNine d (fun m => m.thermalSample d tj stk optics)

/-- DROOP_END (R464): the die's compute supply returns within droop_mv of nominal, and the droop bubbles end droop_len times 4
cc later. -/
def execDroopEnd (d : Fin 8) (s : State) : Host.Outcome State Fault Refusal :=
  s.onDie d (fun m => m.droopEnd d)

end Sys2Proof.Machine
end

