-- ==== Sys2Proof/Machine/RegisterRows.lean ====
section
/-! DEFINITION. Register accesses (spec/00): the meaning of each command of the family. -/

namespace Sys2Proof.Machine

/-- REGISTER_WRITE (R9, R8, R10, R12, R14, R15, R42, R262): A write to a register that has no row of its own is checked for
width, alignment, access type, lock and reserved bits, then applied or faulted. -/
def execRegisterWrite (who : BusWho) (pa n value hw : Nat) (s : State) : Host.Outcome State Fault Refusal :=
  s.onModule (fun m => m.storeReg who pa n value hw)

/-- RC_COUNTER_READ (R13, R12, R118, R140, R169, R205, R236, R265): A read that returns every bit of an RC field returns it
and clears it, keeping any event of the same cycle. -/
def execRcCounterRead (who : BusWho) (pa n : Nat) (s : State) : Host.Outcome State Fault Refusal :=
  s.onModule (fun m => m.loadReg who pa n)

end Sys2Proof.Machine
end

