-- ==== Sys2Proof/Machine/RemoteRows.lean ====
section
/-! DEFINITION. Remote accesses (spec/12): the meaning of each command of the family. -/

namespace Sys2Proof.Machine

/-- REMOTE_ADD_RECEIVE (R252, R239, R248, R250, R253): A remote ADD is applied if its job owns the target die, otherwise it is
refused with REMOTE_ADD_UNOWNED. -/
def execRemoteAddReceive (node sdie inc seq job : Nat) (die : Fin 8) (ctr v : Nat) (s : State) : Host.Outcome State Fault Refusal :=
  s.onData (fun m => m.remoteAddReceive node sdie inc seq job die ctr v)

/-- REMOTE_REQUEST_RECEIVE (R370, R367, R368, R369): A remote access is applied at the target in sequence order exactly once
and acknowledged, or refused. -/
def execRemoteRequestReceive (node sdie inc seq job : Nat) (op : RemoteOp) (s : State) : Host.Outcome State Fault Refusal :=
  s.onData (fun m => m.remoteReceive node sdie inc seq job op)

/-- REMOTE_REJECT_RECEIVE (R367, R253, R379): A refusal returned to the requester gives the access fault or REMOTE_ADD_REJECT
and a record. -/
def execRemoteRejectReceive (d : Fin 8) (node seq : Nat) (s : State) : Host.Outcome State Fault Refusal :=
  s.onDie d (fun m => m.remoteReject d node seq)

/-- REMOTE_RESPONSE_RECEIVE (R368, R371, R372): an end-to-end acknowledgement or load response retires the access and may
complete waiting fences. -/
def execRemoteResponseReceive (d : Fin 8) (node seq : Nat) (bs : List Byte) (poison fault : Bool) (s : State) : Host.Outcome State Fault Refusal :=
  s.onDie d (fun m => m.remoteResponse d node seq bs poison fault)

/-- REMOTE_RESEND (R368): an access without acknowledgement 100 us after transmission is resent with its sequence number. -/
def execRemoteResend (d : Fin 8) (node seq : Nat) (s : State) : Host.Outcome State Fault Refusal :=
  s.onDie d (fun m => m.remoteResend d node seq)

/-- EDGE_REQUEST_RECEIVE (R377): A request from an edge peer is admitted with edge_job, or refused when edge_en is 0. -/
def execEdgeRequestReceive (d : Fin 8) (p : Fin 8) (node tag : Nat) (op : RemoteOp) (s : State) : Host.Outcome State Fault Refusal :=
  s.onDie d (fun m => m.edgeRequest d p node tag op)

end Sys2Proof.Machine
end

