-- ==== Sys2Proof/Machine/SnapshotRows.lean ====
section
/-! DEFINITION. Snapshots, drains and restores (spec/14): the meaning of each command of the family. -/

namespace Sys2Proof.Machine

/-- SNAP_FQ_HEAD_WRITE (R452, R414): advances the fault queue head, or is ignored when it would pass tail. -/
def execSnapFqHeadWrite (who : BusWho) (pa n value hw : Nat) (s : State) : Host.Outcome State Fault Refusal :=
  s.onRegs (fun id _ => id.reg == .snapFqPtr) who pa n value hw

/-- SNAP_FQ_CFG_WRITE (R452, R549): configures the fault queue, or is ignored while enable is 1 unless it clears enable. -/
def execSnapFqCfgWrite (who : BusWho) (pa n value hw : Nat) (s : State) : Host.Outcome State Fault Refusal :=
  s.onRegs (fun id _ => id.reg == .snapFqCfg || id.reg == .snapFqBase) who pa n value hw

/-- SNAP_UPD_DONE_WRITE (R426): records the step whose update is done, counting for the next boundary. -/
def execSnapUpdDoneWrite (who : BusWho) (pa n value hw : Nat) (s : State) : Host.Outcome State Fault Refusal :=
  s.onRegs (fun id _ => id.reg == .snapUpdDone) who pa n value hw

/-- SCHEDULE_CAPTURE_COMPLETE (R428, R61, R137, R210, R261): the schedule state of the new version is captured within 2 ms of
the flip. -/
def execScheduleCaptureComplete (d : Fin 8) (s : State) : Host.Outcome State Fault Refusal :=
  s.onDie d (fun m => m.captureDone d)

/-- CHUNK_DIGEST (R429, R438): A chunk is digested with SHA3-256, or repaired from the replica on poison, or marked poisoned.
-/
def execChunkDigest (d : Fin 8) (fetched : Option (List Byte)) (s : State) : Host.Outcome State Fault Refusal :=
  s.onDie d (fun m => m.chunkDigest d fetched)

/-- DRAIN_CHUNK_RECEIVE (R432, R430): the buddy checks an inbound chunk's digest, stores it and acknowledges it, or asks
again. -/
def execDrainChunkReceive (node step : Nat) (x : DrainItem) (s : State) : Host.Outcome State Fault Refusal :=
  s.onModule (fun m => m.drainReceive node step x)

/-- DRAIN_CHUNK_ACK (R430, R431): an acknowledgement advances the drain, and the drain completes on the manifest's
acknowledgement. -/
def execDrainChunkAck (d : Fin 8) (r : DrainAnswer) (s : State) : Host.Outcome State Fault Refusal :=
  s.onDie d (fun m => m.drainAck d r)

/-- HOLD_COPY_COMPLETE (R432): after the job-wide commit, the receive area is copied to the hold area and SNAP_HOLD_STEP is
set. -/
def execHoldCopyComplete (s : State) : Host.Outcome State Fault Refusal :=
  s.onModule (fun m => m.holdCopyDone)

/-- PAGE_REBUILD (R448): the CP firmware refetches a poisoned replicated chunk, checks and rewrites it, and sends
PAGE_REBUILT. -/
def execPageRebuild (d : Fin 8) (a : Nat) (data : List Byte) (s : State) : Host.Outcome State Fault Refusal :=
  s.onDie d (fun m => m.pageRebuild d a data)

end Sys2Proof.Machine
end

