-- ==== Sys2Proof/Machine/SyncRows.lean ====
section
/-! DEFINITION. Sync counters and barrier slots (spec/09): the meaning of each command of the family. -/

namespace Sys2Proof.Machine

/-- SYNC_CTR_WRITE (R238, R241): an MMIO write of SYNC_CTR.value performs SET. -/
def execSyncCtrWrite (who : BusWho) (pa n value hw : Nat) (s : State) : Host.Outcome State Fault Refusal :=
  s.onRegs (fun id _ => id.reg == .syncCtr) who pa n value hw

/-- SYNC_CTR_ADD_WRITE (R238, R239, R241, R242, R244, R246): an MMIO write performs ADD of the amount. -/
def execSyncCtrAddWrite (who : BusWho) (pa n value hw : Nat) (s : State) : Host.Outcome State Fault Refusal :=
  s.onRegs (fun id _ => id.reg == .syncCtrAdd) who pa n value hw

/-- SYNC_CTR_SUB_WRITE (R238, R241, R249, R250): an MMIO write performs SUB of the amount. -/
def execSyncCtrSubWrite (who : BusWho) (pa n value hw : Nat) (s : State) : Host.Outcome State Fault Refusal :=
  s.onRegs (fun id _ => id.reg == .syncCtrSub) who pa n value hw

/-- SYNC_CTR_ARM_WRITE (R247): arms the counter with an expected total and clears the running total, or disarms it. -/
def execSyncCtrArmWrite (who : BusWho) (pa n value hw : Nat) (s : State) : Host.Outcome State Fault Refusal :=
  s.onRegs (fun id _ => id.reg == .syncCtrArm) who pa n value hw

/-- SYNC_BAR_CFG_WRITE (R264): configures a die or module slot, resetting it on enable, or is ignored with cfg_err. -/
def execSyncBarCfgWrite (who : BusWho) (pa n value hw : Nat) (s : State) : Host.Outcome State Fault Refusal :=
  s.onRegs (fun id _ => id.reg == .syncBarCfg || id.reg == .syncMbarCfg || id.reg == .syncMbarDies) who pa n value hw

/-- SYNC_BAR_WDOG_WRITE (R264): sets the slot watchdog, or is ignored outside 16 to 30. -/
def execSyncBarWdogWrite (who : BusWho) (pa n value hw : Nat) (s : State) : Host.Outcome State Fault Refusal :=
  s.onRegs (fun id _ => id.reg == .syncBarWdog) who pa n value hw

end Sys2Proof.Machine
end

