-- ==== Sys2Proof/Machine/ThreadRows.lean ====
section
/-! DEFINITION. Core threads (spec/07): the meaning of each command of the family. -/

namespace Sys2Proof.Machine

/-- CORE_LOAD (R173, R8, R19, R172, R186, R188, R195, R269): A core-thread load reads through L1 and die cache under the class
rules, or takes a translation, misaligned or dead-load fault. -/
def execCoreLoad (i : Issue) (width : Nat) (sg fl : Bool) (rd rs1 : Fin 32) (off : Int) (l1Bad : Bool) (s : State) : Host.Outcome State Fault Refusal :=
  s.onIssue i (loadOp width sg fl rd rs1 off) l1Bad

/-- CORE_STORE (R272, R8, R172, R186, R188, R195, R270, R273): A core-thread store writes through to the die cache, after
other L1 copies are invalidated, or goes to the remote home. -/
def execCoreStore (i : Issue) (width : Nat) (fl : Bool) (rs1 rs2 : Fin 32) (off : Int) (s : State) : Host.Outcome State Fault Refusal :=
  s.onIssue i (storeOp width fl rs1 rs2 off)

/-- CORE_AMO (R190, R172, R188, R191, R272, R278, R280): an AMO is performed at the home die cache, with same-address lanes
combined in ascending lane order. -/
def execCoreAmo (i : Issue) (f5 width : Nat) (rd rs1 rs2 : Fin 32) (s : State) : Host.Outcome State Fault Refusal :=
  s.onIssue i (amoOp f5 width rd rs1 rs2 i.rl)

/-- CORE_LR (R173, R280): LR reserves one sector on coherent memory or local store, and faults elsewhere. -/
def execCoreLr (i : Issue) (width : Nat) (rd rs1 : Fin 32) (s : State) : Host.Outcome State Fault Refusal :=
  s.onIssue i (lrOp width rd rs1 i.rl)

/-- CORE_SC (R173, R280): SC conditionally stores on its reservation, and faults outside coherent memory or own local store.
-/
def execCoreSc (i : Issue) (width : Nat) (rd rs1 rs2 : Fin 32) (s : State) : Host.Outcome State Fault Refusal :=
  s.onIssue i (scOp width rd rs1 rs2 i.rl)

/-- CSR_ACCESS (R174): A core thread reads or writes a CSR of Table 7.1, and any other access raises illegal instruction. -/
def execCsrAccess (i : Issue) (f3 : Fin 8) (rd rs1 : Fin 32) (num : Fin 4096) (s : State) : Host.Outcome State Fault Refusal :=
  s.onIssue i (csrOp f3 rd rs1 num)

/-- ECALL (R171): ECALL raises the illegal-instruction block fault. -/
def execEcall (i : Issue) (s : State) : Host.Outcome State Fault Refusal :=
  s.onIssue i .ecall

/-- EBREAK (R171): EBREAK raises illegal instruction unless debug access is open. -/
def execEbreak (i : Issue) (s : State) : Host.Outcome State Fault Refusal :=
  s.onIssue i .ebreak

/-- FENCE_I (R171): FENCE.I raises the illegal-instruction block fault. -/
def execFenceI (i : Issue) (s : State) : Host.Outcome State Fault Refusal :=
  s.onIssue i .fencei

/-- BASE_INSTRUCTION (R170, R171, R181, R195): any other RV64IMAF, Zicsr, Zba or Zbb instruction executes per lane as the
RISC-V specification defines. -/
def execBaseInstruction (i : Issue) (word : W32) (s : State) : Host.Outcome State Fault Refusal :=
  s.onIssue { i with hints := bitsOf word.toNat 26 25 } (decodeRv word.toNat)

/-- ISSUE_SLOT (R178, R177, R179, R182): every 4 cc each scheduler picks a group in rotation and a PC, with starvation
priority, and issues its ready threads. -/
def execIssueSlot (d : Fin 8) (c : Fin 32) (q : SlotIssue) (s : State) : Host.Outcome State Fault Refusal :=
  s.onWaits d (fun m => m.issueSlot d c q.sched q.regBad)

/-- KT_QPUSH (R208, R195, R200, R206, R207, R209, R210, R551): copies a 64-byte descriptor into the named queue and returns
its sequence number, or stalls when the queue is full. -/
def execKtQpush (i : Issue) (q : Fin 4) (rd rs1 : Fin 32) (s : State) : Host.Outcome State Fault Refusal :=
  s.onIssue i (.kt (.qpush q) rd rs1 0)

/-- KT_QCRED (R207): returns the free credits of the named queue. -/
def execKtQcred (i : Issue) (q : Fin 4) (rd : Fin 32) (s : State) : Host.Outcome State Fault Refusal :=
  s.onIssue i (.kt (.qcred q) rd 0 0)

/-- KT_SCADD (R238, R200, R201, R213, R239, R240, R242, R243): local ADD to a sync counter, applied after the thread's earlier
accesses are visible. -/
def execKtScadd (i : Issue) (rd rs1 rs2 : Fin 32) (s : State) : Host.Outcome State Fault Refusal :=
  s.onIssue i (.kt (.ctr 0) rd rs1 rs2)

/-- KT_SCADD_REMOTE (R251, R201): sends an ADD to a counter on another node, ordered as a store to that node, and returns 0.
-/
def execKtScaddRemote (i : Issue) (rd rs1 rs2 : Fin 32) (s : State) : Host.Outcome State Fault Refusal :=
  s.onIssue i (.kt (.ctr 0) rd rs1 rs2)

/-- KT_SCSUB (R238, R201, R239, R240, R249, R250): SUB from a sync counter, saturating at 0 and setting UNF. -/
def execKtScsub (i : Issue) (rd rs1 rs2 : Fin 32) (s : State) : Host.Outcome State Fault Refusal :=
  s.onIssue i (.kt (.ctr 1) rd rs1 rs2)

/-- KT_SCSET (R238, R201, R239, R240): SET of a sync counter value. -/
def execKtScset (i : Issue) (rd rs1 rs2 : Fin 32) (s : State) : Host.Outcome State Fault Refusal :=
  s.onIssue i (.kt (.ctr 2) rd rs1 rs2)

/-- KT_SCRD (R238, R201): READ of a sync counter value. -/
def execKtScrd (i : Issue) (rd rs1 rs2 : Fin 32) (s : State) : Host.Outcome State Fault Refusal :=
  s.onIssue i (.kt (.ctr 3) rd rs1 rs2)

/-- KT_SCWAIT (R242, R201, R238, R240, R245): observer wait until the counter reaches N. -/
def execKtScwait (i : Issue) (rd rs1 rs2 : Fin 32) (s : State) : Host.Outcome State Fault Refusal :=
  s.onIssue i (.kt .scwait rd rs1 rs2)

/-- KT_SCWAITC (R243, R201, R238, R240, R245): consumer wait, served in arrival order, that subtracts N at release. -/
def execKtScwaitc (i : Issue) (rd rs1 rs2 : Fin 32) (s : State) : Host.Outcome State Fault Refusal :=
  s.onIssue i (.kt .scwaitc rd rs1 rs2)

/-- KT_BAR (R192, R193, R195): arrives at a block barrier, which completes when arrivals plus exited threads reach the count,
or faults on a count mismatch. -/
def execKtBar (i : Issue) (rs1 rs2 : Fin 32) (s : State) : Host.Outcome State Fault Refusal :=
  s.onIssue i (.kt .bar 0 rs1 rs2)

/-- BARRIER_TIMEOUT (R194, R195, R230): A block barrier instance not complete within 2^wdog_log2 cc of its first arrival
faults the block. -/
def execBarrierTimeout (d : Fin 8) (c b : Fin 32) (s : State) : Host.Outcome State Fault Refusal :=
  s.onDie d (fun m => m.barTimeout d c b)

/-- KT_MBAR_ARRIVE_WAIT (R255, R254, R256, R257, R258, R465): arrives at a die or module barrier slot and waits for the
generation to complete. -/
def execKtMbarArriveWait (i : Issue) (rs1 : Fin 32) (s : State) : Host.Outcome State Fault Refusal :=
  s.onWaits i.die (fun m => m.issueRun i.die i.core i.block i.group i.lanes (.kt (.mbar true) 0 rs1 0) { regBad := i.regBad, hints := i.hints })

/-- KT_MBAR_ARRIVE (R255, R254, R256, R257, R258, R469): arrives at a barrier slot and continues without waiting. -/
def execKtMbarArrive (i : Issue) (rs1 : Fin 32) (s : State) : Host.Outcome State Fault Refusal :=
  s.onWaits i.die (fun m => m.issueRun i.die i.core i.block i.group i.lanes (.kt (.mbar false) 0 rs1 0) { regBad := i.regBad, hints := i.hints })

/-- BAR_SLOT_TIMEOUT (R259): A slot generation not complete within the watchdog sends BAR_TIMEOUT and sets bar_timeout. -/
def execBarSlotTimeout (d : Fin 8) (md : Bool) (slot : Fin 64) (s : State) : Host.Outcome State Fault Refusal :=
  s.onDie d (fun m => m.slotTimeout d md slot)

/-- KT_FAMOADD (R190): binary32 atomic add at the home die cache, combined across lanes as an ordered prefix sum. -/
def execKtFamoadd (i : Issue) (rd rs1 rs2 : Fin 32) (s : State) : Host.Outcome State Fault Refusal :=
  s.onIssue i (.kt .famoadd rd rs1 rs2)

/-- KT_ACCST_W (R281, R272, R278, R280, R284): accumulate store of a binary32 element by add-to-line at the home die cache. -/
def execKtAccstW (i : Issue) (rs1 rs2 : Fin 32) (s : State) : Host.Outcome State Fault Refusal :=
  s.onIssue i (.kt (.accst 4) 0 rs1 rs2)

/-- KT_ACCST_D (R281): accumulate store of a binary64 element by add-to-line at the home die cache. -/
def execKtAccstD (i : Issue) (rs1 rs2 : Fin 32) (s : State) : Host.Outcome State Fault Refusal :=
  s.onIssue i (.kt (.accst 8) 0 rs1 rs2)

/-- KT_PREF_L1 (R299, R280): prefetches a 128-byte line into the L1 and never faults. -/
def execKtPrefL1 (i : Issue) (rs1 : Fin 32) (s : State) : Host.Outcome State Fault Refusal :=
  s.onIssue i (.kt (.pref true) 0 rs1 0)

/-- KT_PREF_DIE_CACHE (R299, R298): prefetches a 128-byte line into the die cache and never faults. -/
def execKtPrefDieCache (i : Issue) (rs1 : Fin 32) (s : State) : Host.Outcome State Fault Refusal :=
  s.onIssue i (.kt (.pref false) 0 rs1 0)

/-- KT_FENCE_BLOCK (R200): orders the thread's accesses for every observer in its block. -/
def execKtFenceBlock (i : Issue) (s : State) : Host.Outcome State Fault Refusal :=
  s.onIssue i (.kt (.fence 0) 0 0 0)

/-- KT_FENCE_CLUSTER (R189): orders the thread's accesses for every block of its cluster. -/
def execKtFenceCluster (i : Issue) (s : State) : Host.Outcome State Fault Refusal :=
  s.onIssue i (.kt (.fence 1) 0 0 0)

/-- KT_FENCE_DIE (R200): orders the thread's accesses for every thread of its die. -/
def execKtFenceDie (i : Issue) (s : State) : Host.Outcome State Fault Refusal :=
  s.onIssue i (.kt (.fence 2) 0 0 0)

/-- KT_FENCE_MODULE (R200): orders the thread's accesses for every thread of the module. -/
def execKtFenceModule (i : Issue) (s : State) : Host.Outcome State Fault Refusal :=
  s.onIssue i (.kt (.fence 3) 0 0 0)

/-- KT_FENCE_RELEASE (R372, R284): fabric release fence that completes when every remote access in its window is acknowledged
or abandoned. -/
def execKtFenceRelease (i : Issue) (s : State) : Host.Outcome State Fault Refusal :=
  s.onIssue i (.kt (.fence 4) 0 0 0)

/-- KT_FENCE_ACQUIRE (R279, R372): fabric acquire fence that advances the remote epoch and waits for the thread's earlier
remote loads. -/
def execKtFenceAcquire (i : Issue) (s : State) : Host.Outcome State Fault Refusal :=
  s.onIssue i (.kt (.fence 5) 0 0 0)

/-- KT_FENCE_FULL (R372, R279): fabric fence that acts as both release and acquire. -/
def execKtFenceFull (i : Issue) (s : State) : Host.Outcome State Fault Refusal :=
  s.onIssue i (.kt (.fence 6) 0 0 0)

/-- FENCE_TIMEOUT (R373, R379): A fence incomplete after 2 ms sends FENCE_TIMEOUT once and keeps waiting. -/
def execFenceTimeout (d : Fin 8) (s : State) : Host.Outcome State Fault Refusal :=
  s.onDie d (fun m => m.fenceTimeout d)

/-- KT_EXIT (R200, R183, R185, R189, R192, R230, R232, R233): the thread exits; the last exit of a block frees its resources
and may complete the launch. -/
def execKtExit (i : Issue) (s : State) : Host.Outcome State Fault Refusal :=
  s.onIssue i (.kt .exit 0 0 0)

/-- KT_VOTE_BALLOT (R200): returns the mask of issuing lanes whose rs1 is non-zero. -/
def execKtVoteBallot (i : Issue) (rd rs1 : Fin 32) (s : State) : Host.Outcome State Fault Refusal :=
  s.onIssue i (.kt (.vote 0) rd rs1 0)

/-- KT_VOTE_ANY (R200): returns 1 when any issuing lane has a non-zero rs1. -/
def execKtVoteAny (i : Issue) (rd rs1 : Fin 32) (s : State) : Host.Outcome State Fault Refusal :=
  s.onIssue i (.kt (.vote 1) rd rs1 0)

/-- KT_VOTE_ALL (R200): returns 1 when every issuing lane has a non-zero rs1. -/
def execKtVoteAll (i : Issue) (rd rs1 : Fin 32) (s : State) : Host.Outcome State Fault Refusal :=
  s.onIssue i (.kt (.vote 2) rd rs1 0)

/-- KT_SHFL_INDEX (R200): reads rs1 of the indexed lane. -/
def execKtShflIndex (i : Issue) (rd rs1 rs2 : Fin 32) (s : State) : Host.Outcome State Fault Refusal :=
  s.onIssue i (.kt (.shfl 0) rd rs1 rs2)

/-- KT_SHFL_XOR (R200): reads rs1 of lane XOR index. -/
def execKtShflXor (i : Issue) (rd rs1 rs2 : Fin 32) (s : State) : Host.Outcome State Fault Refusal :=
  s.onIssue i (.kt (.shfl 1) rd rs1 rs2)

/-- KT_SHFL_UP (R200): reads rs1 of lane minus index. -/
def execKtShflUp (i : Issue) (rd rs1 rs2 : Fin 32) (s : State) : Host.Outcome State Fault Refusal :=
  s.onIssue i (.kt (.shfl 2) rd rs1 rs2)

/-- KT_SHFL_DOWN (R200): reads rs1 of lane plus index. -/
def execKtShflDown (i : Issue) (rd rs1 rs2 : Fin 32) (s : State) : Host.Outcome State Fault Refusal :=
  s.onIssue i (.kt (.shfl 3) rd rs1 rs2)

/-- KT_ACTIVE (R200): returns the mask of the lanes in this issue. -/
def execKtActive (i : Issue) (rd : Fin 32) (s : State) : Host.Outcome State Fault Refusal :=
  s.onIssue i (.kt .active rd 0 0)

/-- TGU_WDOG_WRITE (R204): sets the barrier watchdog limit, or is ignored with cfg_err outside 16 to 30. -/
def execTguWdogWrite (who : BusWho) (pa n value hw : Nat) (s : State) : Host.Outcome State Fault Refusal :=
  s.onRegs (fun id _ => id.reg == .tguWdog) who pa n value hw

end Sys2Proof.Machine
end

