-- ==== Sys2Proof/Machine/TimeRows.lean ====
section
/-! DEFINITION. Fabric time, timers and their actions (spec/02, spec/14): the meaning of each command of the family. -/

namespace Sys2Proof.Machine

/-- FT_COUNTER_TICK (R27, R28): on each PMU cycle, each die adds its rate-adjusted increment to its fabric-time counter. -/
def execFtCounterTick (s : State) : Host.Outcome State Fault Refusal :=
  s.onModule (fun m => m.tickAll)

/-- TIME_MESSAGE_SEND (R30): every 64 us each fabric port sends a time message carrying its timestamps, grandmaster id, epoch,
hop count and civil offset. -/
def execTimeMessageSend (d : Fin 8) (p : Fin 8) (s : State) : Host.Outcome State Fault Refusal :=
  s.onDie d (fun m => m.timeSend d p)

/-- TIME_MESSAGE_RECEIVE (R31, R28, R30, R32, R36, R38, R39, R40): A received time message updates the filtered link delay and
offset, source selection, rate slew or step, and the lock state. -/
def execTimeMessageReceive (d : Fin 9) (src : Nat) (t1 t2 t3 t4 : Int) (gm epoch hop : Nat) (valid : Bool) (civil : W64) (s : State) :
    Host.Outcome State Fault Refusal :=
  s.onNine d (fun m => m.timeMessage d src t1 t2 t3 t4 gm epoch hop (if valid then some civil else none))

/-- HOLDOVER_EXPIRE (R38, R39): A die that has been in HOLDOVER for 5 ms enters FREE. -/
def execHoldoverExpire (d : Fin 9) (s : State) : Host.Outcome State Fault Refusal :=
  s.onNine d (fun m => m.holdoverExpire d)

/-- GM_PROMOTE (R37, R38, R553): A backup grandmaster with no message of the current epoch for 1 ms promotes itself and
announces the epoch plus 1. -/
def execGmPromote (s : State) : Host.Outcome State Fault Refusal :=
  s.onData (fun m => m.gmPromote)

/-- FT_CTRL_WRITE (R553, R15, R33, R35, R38): A write to FT_CTRL sets or locks the role on CD0, and taking or leaving the
grandmaster role takes effect. -/
def execFtCtrlWrite (who : BusWho) (pa n value hw : Nat) (s : State) : Host.Outcome State Fault Refusal :=
  s.onRegs (fun id _ => id.reg == .ftCtrl) who pa n value hw

/-- TREF_PPS_EDGE (R33, R34, R541): on the grandmaster, a TREF_PPS rising edge steers the rate of CD0 and the civil offset. -/
def execTrefPpsEdge (s : State) : Host.Outcome State Fault Refusal :=
  s.onData (fun m => m.ppsEdge)

/-- PTP_TIME_RECEIVE (R538, R33, R34): IEEE 1588 time received on the management lane supplies the civil seconds for the civil
offset. -/
def execPtpTimeReceive (sec : Nat) (s : State) : Host.Outcome State Fault Refusal :=
  s.onModule (fun m => m.ptpReceive sec)

/-- FT_TMR_TGT_WRITE (R49, R7, R42): A target write is applied while the timer is disabled, and is ignored with arm_err set
while it is enabled. -/
def execFtTmrTgtWrite (who : BusWho) (pa n value hw : Nat) (s : State) : Host.Outcome State Fault Refusal :=
  s.onRegs (fun id _ => id.reg == .ftTmrTgt) who pa n value hw

/-- FT_TMR_CTL_WRITE (R49, R42, R46, R47): A timer control write enables, disables or refuses per R49, and a timer enabled
with a past target fires or misses at once. -/
def execFtTmrCtlWrite (who : BusWho) (pa n value hw : Nat) (s : State) : Host.Outcome State Fault Refusal :=
  s.onRegs (fun id _ => id.reg == .ftTmrCtl) who pa n value hw

/-- TIMER_FIRE (R43, R44, R45, R46, R47, R48): an enabled timer whose target is reached fires, or misses if it is system-scope
while the module is unlocked, and re-arms or disables itself. -/
def execTimerFire (d : Fin 8) (n : Fin 64) (s : State) : Host.Outcome State Fault Refusal :=
  s.onDie d (fun m => m.timerFireRow d n)

/-- TIMER_ACTION_INTERRUPT (R507): timer action 0x1 raises its interrupt vector at the application cores. -/
def execTimerActionInterrupt (d : Fin 8) (s : State) : Host.Outcome State Fault Refusal :=
  s.onDie d (fun m => m.interruptAct d)

/-- TIMER_ACTION_SYNC_ADD (R238, R239): timer action 0x2 performs ADD 1 on the named sync counter. -/
def execTimerActionSyncAdd (d : Fin 8) (s : State) : Host.Outcome State Fault Refusal :=
  s.onDie d (fun m => m.syncAct d)

/-- STEP_BOUNDARY (R426, R70, R164, R166, R167, R428, R430, R435): timer action 0x3 advances the step number, clears the step
status record, latches the step-constants page, marks scale entries pending and flips the Saffron version if ready. -/
def execStepBoundary (slot : Fin 8) (s : State) : Host.Outcome State Fault Refusal :=
  s.onData (fun m => m.stepBoundary slot)

/-- SCALE_ENTRY_PROCESS (R70, R66, R69): once its earlier conversions have completed, the scale unit processes an entry: it
pushes amax, recomputes scale and clears the step counts. -/
def execScaleEntryProcess (d : Fin 8) (s : State) : Host.Outcome State Fault Refusal :=
  s.onDie d (fun m => m.scaleEntry d)

/-- COLLECTIVE_DEADLINE_ACTION (R402, R403): timer action 0x4 makes the oldest unstarted operation of the named group late. -/
def execCollectiveDeadlineAction (d : Fin 8) (s : State) : Host.Outcome State Fault Refusal :=
  s.onWaits d (fun m => m.colDeadlineAct d)

/-- NUTMEG_RAMP_START (R468): timer action 0x5 starts the named ramp profile on an engaged die, or only counts. -/
def execNutmegRampStart (d : Fin 8) (s : State) : Host.Outcome State Fault Refusal :=
  s.onDie d (fun m => m.rampStart d)

/-- APPLY_PENDING_CAP (R454, R457, R473): timer action 0x6 applies the pending power cap on every die and sends CAP_APPLIED.
-/
def execApplyPendingCap (d : Fin 8) (s : State) : Host.Outcome State Fault Refusal :=
  s.onDie d (fun m => m.applyCap d)

/-- COMMIT_POINT (R433, R436): timer action 0x7 casts the module's local commit vote for an uncommitted current version. -/
def execCommitPoint (d : Fin 8) (s : State) : Host.Outcome State Fault Refusal :=
  s.onDie d (fun m => m.commitPoint d)

/-- COMMIT_VOTE_RESULT (R433, R432): the combined votes commit the version on every voting module and signal commit_ctr, or
COMMIT_FAILED is sent. -/
def execCommitVoteResult (d : Fin 8) (allOk : Bool) (s : State) : Host.Outcome State Fault Refusal :=
  s.onDie d (fun m => m.voteResult d allOk)

/-- SCRUB_WINDOW_OPEN (R327, R329): timer action 0x8 opens patrol scrub on the stacks named in the mask. -/
def execScrubWindowOpen (d : Fin 8) (s : State) : Host.Outcome State Fault Refusal :=
  s.onDie d (fun m => m.scrubWindow d 8)

/-- SCRUB_WINDOW_CLOSE (R327): timer action 0x9 closes patrol scrub on the named stacks and keeps the scrub position. -/
def execScrubWindowClose (d : Fin 8) (s : State) : Host.Outcome State Fault Refusal :=
  s.onDie d (fun m => m.scrubWindow d 9)

end Sys2Proof.Machine
end

