-- ==== Sys2Proof/Machine/VectorRows.lean ====
section
/-! DEFINITION. The vector engine (spec/06): the meaning of each command of the family. -/

namespace Sys2Proof.Machine

/-- VECTOR_DESCRIPTOR_START (R217, R141, R142, R161, R166, R202, R212, R213): the oldest vector descriptor is validated,
waits, loads its arguments into s0 onward and starts its program. -/
def execVectorDescriptorStart (d : Fin 8) (c : Met (Fin 32)) (s : State) : Host.Outcome State Fault Refusal :=
  s.onDie d (fun m => m.readEntry d c.val 1 none c.bad (fun m => m.vectorStart d c.val))

/-- VECTOR_DESCRIPTOR_COMPLETE (R144, R203, R207, R209, R232, R233): when the last instruction retires and every store is
acknowledged, the record is written and done_ctr incremented. -/
def execVectorDescriptorComplete (d : Fin 8) (c : Fin 32) (s : State) : Host.Outcome State Fault Refusal :=
  s.onDie d (fun m => m.vectorComplete d c)

/-- VADD (R152, R51, R52, R58, R143): vector add. -/
def execVadd (d : Fin 8) (c : Fin 32) (s : State) : Host.Outcome State Fault Refusal :=
  s.onDie d (fun m => m.vecIssue d c 0x01 (vecBin (fun f a b => f.add .rne a b) d c))

/-- VSUB (R152): vector subtract. -/
def execVsub (d : Fin 8) (c : Fin 32) (s : State) : Host.Outcome State Fault Refusal :=
  s.onDie d (fun m => m.vecIssue d c 0x02 (vecBin (fun f a b => f.sub .rne a b) d c))

/-- VMUL (R152): vector multiply. -/
def execVmul (d : Fin 8) (c : Fin 32) (s : State) : Host.Outcome State Fault Refusal :=
  s.onDie d (fun m => m.vecIssue d c 0x03 (vecBin (fun f a b => f.mul .rne a b) d c))

/-- VFMA (R152, R58): vector fused multiply-add, rounded once. -/
def execVfma (d : Fin 8) (c : Fin 32) (s : State) : Host.Outcome State Fault Refusal :=
  s.onDie d (fun m => m.vecIssue d c 0x04 (vecFma d c))

/-- VNEG (R152): vector negate. -/
def execVneg (d : Fin 8) (c : Fin 32) (s : State) : Host.Outcome State Fault Refusal :=
  s.onDie d (fun m => m.vecIssue d c 0x05 (vecUn (fun _ => vSign false) d c))

/-- VABS (R152): vector absolute value. -/
def execVabs (d : Fin 8) (c : Fin 32) (s : State) : Host.Outcome State Fault Refusal :=
  s.onDie d (fun m => m.vecIssue d c 0x06 (vecUn (fun _ => vSign true) d c))

/-- VMIN (R152): vector minimum, NaN-propagating. -/
def execVmin (d : Fin 8) (c : Fin 32) (s : State) : Host.Outcome State Fault Refusal :=
  s.onDie d (fun m => m.vecIssue d c 0x07 (vecBin (vMinMax false) d c))

/-- VMAX (R152): vector maximum, NaN-propagating. -/
def execVmax (d : Fin 8) (c : Fin 32) (s : State) : Host.Outcome State Fault Refusal :=
  s.onDie d (fun m => m.vecIssue d c 0x08 (vecBin (vMinMax true) d c))

/-- VDIV (R152): vector divide, correctly rounded. -/
def execVdiv (d : Fin 8) (c : Fin 32) (s : State) : Host.Outcome State Fault Refusal :=
  s.onDie d (fun m => m.vecIssue d c 0x09 (vecBin (fun f a b => f.div .rne a b) d c))

/-- VSQRT (R152): vector square root, correctly rounded. -/
def execVsqrt (d : Fin 8) (c : Fin 32) (s : State) : Host.Outcome State Fault Refusal :=
  s.onDie d (fun m => m.vecIssue d c 0x0A (vecUn (fun _ f a => f.sqrt .rne a) d c))

/-- VRCP (R152): vector reciprocal within 1 ulp. -/
def execVrcp (d : Fin 8) (c : Fin 32) (s : State) : Host.Outcome State Fault Refusal :=
  s.onDie d (fun m => m.vecIssue d c 0x0B (vecFunc vRcp d c))

/-- VRSQRT (R152): vector reciprocal square root within 1 ulp. -/
def execVrsqrt (d : Fin 8) (c : Fin 32) (s : State) : Host.Outcome State Fault Refusal :=
  s.onDie d (fun m => m.vecIssue d c 0x0C (vecFunc vRsqrt d c))

/-- VEXP2 (R152): vector exp2 within 1 ulp. -/
def execVexp2 (d : Fin 8) (c : Fin 32) (s : State) : Host.Outcome State Fault Refusal :=
  s.onDie d (fun m => m.vecIssue d c 0x0D (vecFunc (vFunc 0) d c))

/-- VEXP (R152): vector exp within 2 ulp. -/
def execVexp (d : Fin 8) (c : Fin 32) (s : State) : Host.Outcome State Fault Refusal :=
  s.onDie d (fun m => m.vecIssue d c 0x0E (vecFunc (vFunc 1) d c))

/-- VLOG2 (R152): vector log2 within 2 ulp. -/
def execVlog2 (d : Fin 8) (c : Fin 32) (s : State) : Host.Outcome State Fault Refusal :=
  s.onDie d (fun m => m.vecIssue d c 0x0F (vecFunc (vFunc 2) d c))

/-- VLOG (R152): vector natural log within 2 ulp. -/
def execVlog (d : Fin 8) (c : Fin 32) (s : State) : Host.Outcome State Fault Refusal :=
  s.onDie d (fun m => m.vecIssue d c 0x10 (vecFunc (vFunc 3) d c))

/-- VTANH (R152): vector tanh within 2 ulp. -/
def execVtanh (d : Fin 8) (c : Fin 32) (s : State) : Host.Outcome State Fault Refusal :=
  s.onDie d (fun m => m.vecIssue d c 0x11 (vecFunc (vFunc 4) d c))

/-- VSIGM (R152): vector sigmoid within 2 ulp. -/
def execVsigm (d : Fin 8) (c : Fin 32) (s : State) : Host.Outcome State Fault Refusal :=
  s.onDie d (fun m => m.vecIssue d c 0x12 (vecFunc (vFunc 5) d c))

/-- VERF (R152): vector erf within 2 ulp. -/
def execVerf (d : Fin 8) (c : Fin 32) (s : State) : Host.Outcome State Fault Refusal :=
  s.onDie d (fun m => m.vecIssue d c 0x13 (vecFunc (vFunc 6) d c))

/-- VCMP (R152): vector floating compare into a lane mask. -/
def execVcmp (d : Fin 8) (c : Fin 32) (s : State) : Host.Outcome State Fault Refusal :=
  s.onDie d (fun m => m.vecIssue d c 0x14 (vecCmp d c))

/-- VSEL (R152): vector select by mask. -/
def execVsel (d : Fin 8) (c : Fin 32) (s : State) : Host.Outcome State Fault Refusal :=
  s.onDie d (fun m => m.vecIssue d c 0x15 (vecSel d c))

/-- VCLASS (R152): vector class test. -/
def execVclass (d : Fin 8) (c : Fin 32) (s : State) : Host.Outcome State Fault Refusal :=
  s.onDie d (fun m => m.vecIssue d c 0x16 (vecClass d c))

/-- VIADD (R152): 32-bit integer add modulo 2^32. -/
def execViadd (d : Fin 8) (c : Fin 32) (s : State) : Host.Outcome State Fault Refusal :=
  s.onDie d (fun m => m.vecIssue d c 0x18 (vecInt (fun _ a b => (a + b) % 2 ^ 32) d c))

/-- VISUB (R152): 32-bit integer subtract. -/
def execVisub (d : Fin 8) (c : Fin 32) (s : State) : Host.Outcome State Fault Refusal :=
  s.onDie d (fun m => m.vecIssue d c 0x19 (vecInt (fun _ a b => (a + 2 ^ 32 - b) % 2 ^ 32) d c))

/-- VAND (R152): bitwise AND. -/
def execVand (d : Fin 8) (c : Fin 32) (s : State) : Host.Outcome State Fault Refusal :=
  s.onDie d (fun m => m.vecIssue d c 0x1A (vecInt (fun _ a b => a &&& b) d c))

/-- VOR (R152): bitwise OR. -/
def execVor (d : Fin 8) (c : Fin 32) (s : State) : Host.Outcome State Fault Refusal :=
  s.onDie d (fun m => m.vecIssue d c 0x1B (vecInt (fun _ a b => a ||| b) d c))

/-- VXOR (R152): bitwise XOR. -/
def execVxor (d : Fin 8) (c : Fin 32) (s : State) : Host.Outcome State Fault Refusal :=
  s.onDie d (fun m => m.vecIssue d c 0x1C (vecInt (fun _ a b => a ^^^ b) d c))

/-- VSHIFT (R152): left, logical right or arithmetic right shift. -/
def execVshift (d : Fin 8) (c : Fin 32) (s : State) : Host.Outcome State Fault Refusal :=
  s.onDie d (fun m => m.vecIssue d c 0x1D (vecShift d c))

/-- VICMP (R152): signed integer compare into a lane mask. -/
def execVicmp (d : Fin 8) (c : Fin 32) (s : State) : Host.Outcome State Fault Refusal :=
  s.onDie d (fun m => m.vecIssue d c 0x1E (vecIcmp d c))

/-- VRSUM (R158): sum across lanes in a fixed binary tree. -/
def execVrsum (d : Fin 8) (c : Fin 32) (s : State) : Host.Outcome State Fault Refusal :=
  s.onDie d (fun m => m.vecIssue d c 0x20 (vecSum d c))

/-- VRMAX (R152): maximum across lanes. -/
def execVrmax (d : Fin 8) (c : Fin 32) (s : State) : Host.Outcome State Fault Refusal :=
  s.onDie d (fun m => m.vecIssue d c 0x21 (vecExtreme true false d c))

/-- VRMIN (R152): minimum across lanes. -/
def execVrmin (d : Fin 8) (c : Fin 32) (s : State) : Host.Outcome State Fault Refusal :=
  s.onDie d (fun m => m.vecIssue d c 0x22 (vecExtreme false false d c))

/-- VRAMAX (R152): largest magnitude across lanes. -/
def execVramax (d : Fin 8) (c : Fin 32) (s : State) : Host.Outcome State Fault Refusal :=
  s.onDie d (fun m => m.vecIssue d c 0x23 (vecExtreme true true d c))

/-- VPERM (R152): permute lanes by an index row. -/
def execVperm (d : Fin 8) (c : Fin 32) (s : State) : Host.Outcome State Fault Refusal :=
  s.onDie d (fun m => m.vecIssue d c 0x28 (vecPerm d c))

/-- VILV (R152): interleave low or high halves of two rows. -/
def execVilv (d : Fin 8) (c : Fin 32) (s : State) : Host.Outcome State Fault Refusal :=
  s.onDie d (fun m => m.vecIssue d c 0x29 (vecIlv d c))

/-- VDILV (R152): deinterleave even or odd lanes of two rows. -/
def execVdilv (d : Fin 8) (c : Fin 32) (s : State) : Host.Outcome State Fault Refusal :=
  s.onDie d (fun m => m.vecIssue d c 0x2A (vecDilv d c))

/-- VROT (R152): rotate a row by n lanes. -/
def execVrot (d : Fin 8) (c : Fin 32) (s : State) : Host.Outcome State Fault Refusal :=
  s.onDie d (fun m => m.vecIssue d c 0x2B (vecRot d c))

/-- VCVT (R152, R51, R58, R143): convert between binary32, binary64, BF16, binary16 and int32. -/
def execVcvt (d : Fin 8) (c : Fin 32) (s : State) : Host.Outcome State Fault Refusal :=
  s.onDie d (fun m => m.vecIssue d c 0x30 (vecVcvt d c))

/-- VCVTS (R154, R50, R51, R52, R58, R59, R60, R62): convert to a short format against a scale entry, optionally with
stochastic rounding and zero-map output, and update the entry at completion. -/
def execVcvts (d : Fin 8) (c : Fin 32) (s : State) : Host.Outcome State Fault Refusal :=
  s.onDie d (fun m => m.vecIssue d c 0x31 (vecVcvts d c))

/-- VSPLIT (R77): split binary32 into BF16 hi and lo tensors. -/
def execVsplit (d : Fin 8) (c : Fin 32) (s : State) : Host.Outcome State Fault Refusal :=
  s.onDie d (fun m => m.vecIssue d c 0x32 (vecVsplit d c))

/-- VUNPK (R152): unpack short-format codes to binary32 times a factor. -/
def execVunpk (d : Fin 8) (c : Fin 32) (s : State) : Host.Outcome State Fault Refusal :=
  s.onDie d (fun m => m.vecIssue d c 0x33 (vecVunpk d c))

/-- VLD (R152, R551): row load from memory. -/
def execVld (d : Fin 8) (c : Fin 32) (s : State) : Host.Outcome State Fault Refusal :=
  s.onDie d (fun m => m.vecIssue d c 0x38 (vecVld d c))

/-- VST (R153): row store to memory, with wide values written unrounded. -/
def execVst (d : Fin 8) (c : Fin 32) (s : State) : Host.Outcome State Fault Refusal :=
  s.onDie d (fun m => m.vecIssue d c 0x39 (vecVst false d c))

/-- VLDS (R152): strided load. -/
def execVlds (d : Fin 8) (c : Fin 32) (s : State) : Host.Outcome State Fault Refusal :=
  s.onDie d (fun m => m.vecIssue d c 0x3A (vecVlds d c))

/-- VSTS (R152): strided store. -/
def execVsts (d : Fin 8) (c : Fin 32) (s : State) : Host.Outcome State Fault Refusal :=
  s.onDie d (fun m => m.vecIssue d c 0x3B (vecVsts d c))

/-- VSTA (R281): accumulate store of a row by add-to-line. -/
def execVsta (d : Fin 8) (c : Fin 32) (s : State) : Host.Outcome State Fault Refusal :=
  s.onDie d (fun m => m.vecIssue d c 0x3C (vecVst true d c))

/-- VOLD (R145, R146, R147, R161): operand-cache row load. -/
def execVold (d : Fin 8) (c : Fin 32) (ecc : Option (Bool × Nat)) (s : State) : Host.Outcome State Fault Refusal :=
  s.onDie d (fun m => m.vecIssue d c 0x3D (vecVold ecc d c))

/-- VOST (R146, R145, R153): operand-cache row store, atomic per row. -/
def execVost (d : Fin 8) (c : Fin 32) (s : State) : Host.Outcome State Fault Refusal :=
  s.onDie d (fun m => m.vecIssue d c 0x3E (vecVost d c))

/-- VACC (R148, R53, R57, R62, R88, R90, R94, R95): accumulator read of a plane or the spill store with descale, freeing the
location when the free flag is set. -/
def execVacc (d : Fin 8) (c : Met (Fin 32)) (s : State) : Host.Outcome State Fault Refusal :=
  s.onDie d (fun m => m.vecIssue d c.val 0x40 (vecVacc c.bad d c.val))

/-- ZMAPCLR (R156): sets every zero-map accumulator bit to 1. -/
def execZmapclr (d : Fin 8) (c : Fin 32) (s : State) : Host.Outcome State Fault Refusal :=
  s.onDie d (fun m => m.vecIssue d c 0x48 (vecZmapclr d c))

/-- ZMAPWR (R156, R157): writes n zero-map bits to memory. -/
def execZmapwr (d : Fin 8) (c : Fin 32) (s : State) : Host.Outcome State Fault Refusal :=
  s.onDie d (fun m => m.vecIssue d c 0x49 (vecZmapwr d c))

/-- SLI (R202): scalar load immediate. -/
def execSli (d : Fin 8) (c : Fin 32) (s : State) : Host.Outcome State Fault Refusal :=
  s.onDie d (fun m => m.vecIssue d c 0x60 (vecScalar (fun _ v => v.simm) d c))

/-- SADD (R202): scalar add. -/
def execSadd (d : Fin 8) (c : Fin 32) (s : State) : Host.Outcome State Fault Refusal :=
  s.onDie d (fun m => m.vecIssue d c 0x61 (vecScalar (fun r v => (r.sreg v.sa : Int) + r.sreg v.sb + v.simm) d c))

/-- SMUL (R202): scalar multiply. -/
def execSmul (d : Fin 8) (c : Fin 32) (s : State) : Host.Outcome State Fault Refusal :=
  s.onDie d (fun m => m.vecIssue d c 0x62 (vecScalar (fun r v => (r.sreg v.sa : Int) * r.sreg v.sb) d c))

/-- SLOOP (R203): counted loop branch. -/
def execSloop (d : Fin 8) (c : Fin 32) (s : State) : Host.Outcome State Fault Refusal :=
  s.onDie d (fun m => m.vecIssue d c 0x63 (vecSloop d c))

/-- SJMP (R203): relative jump. -/
def execSjmp (d : Fin 8) (c : Fin 32) (s : State) : Host.Outcome State Fault Refusal :=
  s.onDie d (fun m => m.vecIssue d c 0x64 (vecSjmp d c))

/-- VEC_SR_WRITE (R168): writes the generator key or counter, or is ignored while busy. -/
def execVecSrWrite (who : BusWho) (pa n value hw : Nat) (s : State) : Host.Outcome State Fault Refusal :=
  s.onRegs (fun id _ => id.reg == .vecSrKey || id.reg == .vecSrCtrLo || id.reg == .vecSrCtrHi) who pa n value hw

/-- VEC_SCL_WRITE (R168, R549): writes the scale-table base or entries, or is ignored while vector descriptors run. -/
def execVecSclWrite (who : BusWho) (pa n value hw : Nat) (s : State) : Host.Outcome State Fault Refusal :=
  s.onRegs (fun id _ => id.reg == .vecSclBase || id.reg == .vecSclCfg) who pa n value hw

/-- STEP_PEND_WRITE (R165): A pending-page store applies to the next latch, and a late for_step counts in VEC_STEP_LATE. -/
def execStepPendWrite (who : BusWho) (pa n value hw : Nat) (s : State) : Host.Outcome State Fault Refusal :=
  s.onRegs (fun id _ => id.reg == .vecStepPend) who pa n value hw

/-- STEP_ACT_WRITE (R163): A write to the active page completes with an access fault. -/
def execStepActWrite (who : BusWho) (pa n value hw : Nat) (s : State) : Host.Outcome State Fault Refusal :=
  s.onRegs (fun id _ => id.reg == .vecStepAct) who pa n value hw

end Sys2Proof.Machine
end

