-- ==== Sys2Proof/Machine/Dispatch.lean ====
section
/-! DEFINITION. One arm for each command. -/

namespace Sys2Proof.Machine

/-- The effect of a command on everything but the queue. -/
def exec (i : Instr) (s : State) : Host.Outcome State Fault Refusal :=
  match i with
  | .registerWrite who pa n value hw => Sys2Proof.Machine.execRegisterWrite who pa n value hw s
  | .rcCounterRead who pa n => Sys2Proof.Machine.execRcCounterRead who pa n s
  | .coldReset cool bifurc rails => Sys2Proof.Machine.execColdReset cool bifurc rails s
  | .pwrEnDeassert => Sys2Proof.Machine.execPwrEnDeassert s
  | .supplyOutOfTolerance => Sys2Proof.Machine.execSupplyOutOfTolerance s
  | .supplyLoss mv => Sys2Proof.Machine.execSupplyLoss mv s
  | .imageVerification => Sys2Proof.Machine.execImageVerification s
  | .recovery image => Sys2Proof.Machine.execRecovery image s
  | .release started => Sys2Proof.Machine.execRelease started s
  | .fuseLoad checkOk => Sys2Proof.Machine.execFuseLoad checkOk s
  | .memoryTraining eyes gdFails log => Sys2Proof.Machine.execMemoryTraining eyes gdFails log s
  | .selfTest results => Sys2Proof.Machine.execSelfTest results s
  | .fabricBringUp info => Sys2Proof.Machine.execFabricBringUp info s
  | .loaderEntry => Sys2Proof.Machine.execLoaderEntry s
  | .phaseTimeout => Sys2Proof.Machine.execPhaseTimeout s
  | .ftCounterTick => Sys2Proof.Machine.execFtCounterTick s
  | .timeMessageSend d p => Sys2Proof.Machine.execTimeMessageSend d p s
  | .timeMessageReceive d src t1 t2 t3 t4 gm epoch hop valid civil => Sys2Proof.Machine.execTimeMessageReceive d src t1 t2 t3 t4 gm epoch hop valid civil s
  | .holdoverExpire d => Sys2Proof.Machine.execHoldoverExpire d s
  | .gmPromote => Sys2Proof.Machine.execGmPromote s
  | .ftCtrlWrite who pa n value hw => Sys2Proof.Machine.execFtCtrlWrite who pa n value hw s
  | .trefPpsEdge => Sys2Proof.Machine.execTrefPpsEdge s
  | .ptpTimeReceive sec => Sys2Proof.Machine.execPtpTimeReceive sec s
  | .ftTmrTgtWrite who pa n value hw => Sys2Proof.Machine.execFtTmrTgtWrite who pa n value hw s
  | .ftTmrCtlWrite who pa n value hw => Sys2Proof.Machine.execFtTmrCtlWrite who pa n value hw s
  | .timerFire d n => Sys2Proof.Machine.execTimerFire d n s
  | .timerActionInterrupt d => Sys2Proof.Machine.execTimerActionInterrupt d s
  | .timerActionSyncAdd d => Sys2Proof.Machine.execTimerActionSyncAdd d s
  | .stepBoundary slot => Sys2Proof.Machine.execStepBoundary slot s
  | .scaleEntryProcess d => Sys2Proof.Machine.execScaleEntryProcess d s
  | .collectiveDeadlineAction d => Sys2Proof.Machine.execCollectiveDeadlineAction d s
  | .nutmegRampStart d => Sys2Proof.Machine.execNutmegRampStart d s
  | .applyPendingCap d => Sys2Proof.Machine.execApplyPendingCap d s
  | .commitPoint d => Sys2Proof.Machine.execCommitPoint d s
  | .commitVoteResult d allOk => Sys2Proof.Machine.execCommitVoteResult d allOk s
  | .scrubWindowOpen d => Sys2Proof.Machine.execScrubWindowOpen d s
  | .scrubWindowClose d => Sys2Proof.Machine.execScrubWindowClose d s
  | .scrubRead d stack pch upset => Sys2Proof.Machine.execScrubRead d stack pch upset s
  | .hbmRefresh d stack pch bank => Sys2Proof.Machine.execHbmRefresh d stack pch bank s
  | .hbmReadComplete a upset mirror => Sys2Proof.Machine.execHbmReadComplete a upset mirror s
  | .rowRetire r left => Sys2Proof.Machine.execRowRetire r left s
  | .mirrorRead a upset => Sys2Proof.Machine.execMirrorRead a upset s
  | .gddr7ReadComplete a fails devCorrected devUe => Sys2Proof.Machine.execGddr7ReadComplete a fails devCorrected devUe s
  | .hbmCfgWrite who pa n value hw => Sys2Proof.Machine.execHbmCfgWrite who pa n value hw s
  | .marginRunComplete d results => Sys2Proof.Machine.execMarginRunComplete d results s
  | .xlatInvPage who pa n value hw => Sys2Proof.Machine.execXlatInvPage who pa n value hw s
  | .xlatInvPartition who pa n value hw => Sys2Proof.Machine.execXlatInvPartition who pa n value hw s
  | .xlatInvComplete d => Sys2Proof.Machine.execXlatInvComplete d s
  | .coreLoad issue width sg fl rd rs1 off l1Bad => Sys2Proof.Machine.execCoreLoad issue width sg fl rd rs1 off l1Bad s
  | .coreStore issue width fl rs1 rs2 off => Sys2Proof.Machine.execCoreStore issue width fl rs1 rs2 off s
  | .coreAmo issue f5 width rd rs1 rs2 => Sys2Proof.Machine.execCoreAmo issue f5 width rd rs1 rs2 s
  | .coreLr issue width rd rs1 => Sys2Proof.Machine.execCoreLr issue width rd rs1 s
  | .coreSc issue width rd rs1 rs2 => Sys2Proof.Machine.execCoreSc issue width rd rs1 rs2 s
  | .csrAccess issue f3 rd rs1 num => Sys2Proof.Machine.execCsrAccess issue f3 rd rs1 num s
  | .ecall issue => Sys2Proof.Machine.execEcall issue s
  | .ebreak issue => Sys2Proof.Machine.execEbreak issue s
  | .fenceI issue => Sys2Proof.Machine.execFenceI issue s
  | .baseInstruction issue word => Sys2Proof.Machine.execBaseInstruction issue word s
  | .issueSlot d c q => Sys2Proof.Machine.execIssueSlot d c q s
  | .ktQpush issue q rd rs1 => Sys2Proof.Machine.execKtQpush issue q rd rs1 s
  | .ktQcred issue q rd => Sys2Proof.Machine.execKtQcred issue q rd s
  | .ktScadd issue rd rs1 rs2 => Sys2Proof.Machine.execKtScadd issue rd rs1 rs2 s
  | .ktScaddRemote issue rd rs1 rs2 => Sys2Proof.Machine.execKtScaddRemote issue rd rs1 rs2 s
  | .ktScsub issue rd rs1 rs2 => Sys2Proof.Machine.execKtScsub issue rd rs1 rs2 s
  | .ktScset issue rd rs1 rs2 => Sys2Proof.Machine.execKtScset issue rd rs1 rs2 s
  | .ktScrd issue rd rs1 rs2 => Sys2Proof.Machine.execKtScrd issue rd rs1 rs2 s
  | .ktScwait issue rd rs1 rs2 => Sys2Proof.Machine.execKtScwait issue rd rs1 rs2 s
  | .ktScwaitc issue rd rs1 rs2 => Sys2Proof.Machine.execKtScwaitc issue rd rs1 rs2 s
  | .ktBar issue rs1 rs2 => Sys2Proof.Machine.execKtBar issue rs1 rs2 s
  | .barrierTimeout d c b => Sys2Proof.Machine.execBarrierTimeout d c b s
  | .ktMbarArriveWait issue rs1 => Sys2Proof.Machine.execKtMbarArriveWait issue rs1 s
  | .ktMbarArrive issue rs1 => Sys2Proof.Machine.execKtMbarArrive issue rs1 s
  | .barSlotTimeout d md slot => Sys2Proof.Machine.execBarSlotTimeout d md slot s
  | .ktFamoadd issue rd rs1 rs2 => Sys2Proof.Machine.execKtFamoadd issue rd rs1 rs2 s
  | .ktAccstW issue rs1 rs2 => Sys2Proof.Machine.execKtAccstW issue rs1 rs2 s
  | .ktAccstD issue rs1 rs2 => Sys2Proof.Machine.execKtAccstD issue rs1 rs2 s
  | .ktPrefL1 issue rs1 => Sys2Proof.Machine.execKtPrefL1 issue rs1 s
  | .ktPrefDieCache issue rs1 => Sys2Proof.Machine.execKtPrefDieCache issue rs1 s
  | .ktFenceBlock issue => Sys2Proof.Machine.execKtFenceBlock issue s
  | .ktFenceCluster issue => Sys2Proof.Machine.execKtFenceCluster issue s
  | .ktFenceDie issue => Sys2Proof.Machine.execKtFenceDie issue s
  | .ktFenceModule issue => Sys2Proof.Machine.execKtFenceModule issue s
  | .ktFenceRelease issue => Sys2Proof.Machine.execKtFenceRelease issue s
  | .ktFenceAcquire issue => Sys2Proof.Machine.execKtFenceAcquire issue s
  | .ktFenceFull issue => Sys2Proof.Machine.execKtFenceFull issue s
  | .fenceTimeout d => Sys2Proof.Machine.execFenceTimeout d s
  | .ktExit issue => Sys2Proof.Machine.execKtExit issue s
  | .ktVoteBallot issue rd rs1 => Sys2Proof.Machine.execKtVoteBallot issue rd rs1 s
  | .ktVoteAny issue rd rs1 => Sys2Proof.Machine.execKtVoteAny issue rd rs1 s
  | .ktVoteAll issue rd rs1 => Sys2Proof.Machine.execKtVoteAll issue rd rs1 s
  | .ktShflIndex issue rd rs1 rs2 => Sys2Proof.Machine.execKtShflIndex issue rd rs1 rs2 s
  | .ktShflXor issue rd rs1 rs2 => Sys2Proof.Machine.execKtShflXor issue rd rs1 rs2 s
  | .ktShflUp issue rd rs1 rs2 => Sys2Proof.Machine.execKtShflUp issue rd rs1 rs2 s
  | .ktShflDown issue rd rs1 rs2 => Sys2Proof.Machine.execKtShflDown issue rd rs1 rs2 s
  | .ktActive issue rd => Sys2Proof.Machine.execKtActive issue rd s
  | .tguWdogWrite who pa n value hw => Sys2Proof.Machine.execTguWdogWrite who pa n value hw s
  | .lqTailWrite who pa n value hw => Sys2Proof.Machine.execLqTailWrite who pa n value hw s
  | .lqCfgWrite who pa n value hw => Sys2Proof.Machine.execLqCfgWrite who pa n value hw s
  | .lqRingBaseWrite who pa n value hw => Sys2Proof.Machine.execLqRingBaseWrite who pa n value hw s
  | .cqRingWrite who pa n value hw => Sys2Proof.Machine.execCqRingWrite who pa n value hw s
  | .launchRead slot q => Sys2Proof.Machine.execLaunchRead slot q s
  | .blockPlace slot d c => Sys2Proof.Machine.execBlockPlace slot d c s
  | .arrayDescriptorStart d c => Sys2Proof.Machine.execArrayDescriptorStart d c s
  | .tileOpen d c => Sys2Proof.Machine.execTileOpen d c s
  | .operandFetchComplete d c seq block op => Sys2Proof.Machine.execOperandFetchComplete d c seq block op s
  | .kGroupEnter d c upset => Sys2Proof.Machine.execKGroupEnter d c upset s
  | .spill d c disagree => Sys2Proof.Machine.execSpill d c disagree s
  | .spillComplete d c => Sys2Proof.Machine.execSpillComplete d c s
  | .checksumCompare d c => Sys2Proof.Machine.execChecksumCompare d c s
  | .tileRelease d c => Sys2Proof.Machine.execTileRelease d c s
  | .arrCfgWrite who pa n value hw => Sys2Proof.Machine.execArrCfgWrite who pa n value hw s
  | .arrSpareMapWrite who pa n value hw => Sys2Proof.Machine.execArrSpareMapWrite who pa n value hw s
  | .sumacPredictionRead d c => Sys2Proof.Machine.execSumacPredictionRead d c s
  | .zmapActualRead d c seq => Sys2Proof.Machine.execZmapActualRead d c seq s
  | .zmapVerifyRead d c seq => Sys2Proof.Machine.execZmapVerifyRead d c seq s
  | .sumacCorrection d c => Sys2Proof.Machine.execSumacCorrection d c s
  | .sumFoldEntry who pa n value hw => Sys2Proof.Machine.execSumFoldEntry who pa n value hw s
  | .sumFoldAll who pa n value hw => Sys2Proof.Machine.execSumFoldAll who pa n value hw s
  | .sumCtrlWrite who pa n value hw => Sys2Proof.Machine.execSumCtrlWrite who pa n value hw s
  | .sumTblWrite who pa n value hw => Sys2Proof.Machine.execSumTblWrite who pa n value hw s
  | .vectorDescriptorStart d c => Sys2Proof.Machine.execVectorDescriptorStart d c s
  | .vectorDescriptorComplete d c => Sys2Proof.Machine.execVectorDescriptorComplete d c s
  | .vadd d c => Sys2Proof.Machine.execVadd d c s
  | .vsub d c => Sys2Proof.Machine.execVsub d c s
  | .vmul d c => Sys2Proof.Machine.execVmul d c s
  | .vfma d c => Sys2Proof.Machine.execVfma d c s
  | .vneg d c => Sys2Proof.Machine.execVneg d c s
  | .vabs d c => Sys2Proof.Machine.execVabs d c s
  | .vmin d c => Sys2Proof.Machine.execVmin d c s
  | .vmax d c => Sys2Proof.Machine.execVmax d c s
  | .vdiv d c => Sys2Proof.Machine.execVdiv d c s
  | .vsqrt d c => Sys2Proof.Machine.execVsqrt d c s
  | .vrcp d c => Sys2Proof.Machine.execVrcp d c s
  | .vrsqrt d c => Sys2Proof.Machine.execVrsqrt d c s
  | .vexp2 d c => Sys2Proof.Machine.execVexp2 d c s
  | .vexp d c => Sys2Proof.Machine.execVexp d c s
  | .vlog2 d c => Sys2Proof.Machine.execVlog2 d c s
  | .vlog d c => Sys2Proof.Machine.execVlog d c s
  | .vtanh d c => Sys2Proof.Machine.execVtanh d c s
  | .vsigm d c => Sys2Proof.Machine.execVsigm d c s
  | .verf d c => Sys2Proof.Machine.execVerf d c s
  | .vcmp d c => Sys2Proof.Machine.execVcmp d c s
  | .vsel d c => Sys2Proof.Machine.execVsel d c s
  | .vclass d c => Sys2Proof.Machine.execVclass d c s
  | .viadd d c => Sys2Proof.Machine.execViadd d c s
  | .visub d c => Sys2Proof.Machine.execVisub d c s
  | .vand d c => Sys2Proof.Machine.execVand d c s
  | .vor d c => Sys2Proof.Machine.execVor d c s
  | .vxor d c => Sys2Proof.Machine.execVxor d c s
  | .vshift d c => Sys2Proof.Machine.execVshift d c s
  | .vicmp d c => Sys2Proof.Machine.execVicmp d c s
  | .vrsum d c => Sys2Proof.Machine.execVrsum d c s
  | .vrmax d c => Sys2Proof.Machine.execVrmax d c s
  | .vrmin d c => Sys2Proof.Machine.execVrmin d c s
  | .vramax d c => Sys2Proof.Machine.execVramax d c s
  | .vperm d c => Sys2Proof.Machine.execVperm d c s
  | .vilv d c => Sys2Proof.Machine.execVilv d c s
  | .vdilv d c => Sys2Proof.Machine.execVdilv d c s
  | .vrot d c => Sys2Proof.Machine.execVrot d c s
  | .vcvt d c => Sys2Proof.Machine.execVcvt d c s
  | .vcvts d c => Sys2Proof.Machine.execVcvts d c s
  | .vsplit d c => Sys2Proof.Machine.execVsplit d c s
  | .vunpk d c => Sys2Proof.Machine.execVunpk d c s
  | .vld d c => Sys2Proof.Machine.execVld d c s
  | .vst d c => Sys2Proof.Machine.execVst d c s
  | .vlds d c => Sys2Proof.Machine.execVlds d c s
  | .vsts d c => Sys2Proof.Machine.execVsts d c s
  | .vsta d c => Sys2Proof.Machine.execVsta d c s
  | .vold d c ecc => Sys2Proof.Machine.execVold d c ecc s
  | .vost d c => Sys2Proof.Machine.execVost d c s
  | .vacc d c => Sys2Proof.Machine.execVacc d c s
  | .zmapclr d c => Sys2Proof.Machine.execZmapclr d c s
  | .zmapwr d c => Sys2Proof.Machine.execZmapwr d c s
  | .sli d c => Sys2Proof.Machine.execSli d c s
  | .sadd d c => Sys2Proof.Machine.execSadd d c s
  | .smul d c => Sys2Proof.Machine.execSmul d c s
  | .sloop d c => Sys2Proof.Machine.execSloop d c s
  | .sjmp d c => Sys2Proof.Machine.execSjmp d c s
  | .vecSrWrite who pa n value hw => Sys2Proof.Machine.execVecSrWrite who pa n value hw s
  | .vecSclWrite who pa n value hw => Sys2Proof.Machine.execVecSclWrite who pa n value hw s
  | .stepPendWrite who pa n value hw => Sys2Proof.Machine.execStepPendWrite who pa n value hw s
  | .stepActWrite who pa n value hw => Sys2Proof.Machine.execStepActWrite who pa n value hw s
  | .moverCopy d c seq => Sys2Proof.Machine.execMoverCopy d c seq s
  | .moverLoadOperandCache d c seq => Sys2Proof.Machine.execMoverLoadOperandCache d c seq s
  | .moverStoreOperandCache d c seq => Sys2Proof.Machine.execMoverStoreOperandCache d c seq s
  | .moverFillAStager d c seq => Sys2Proof.Machine.execMoverFillAStager d c seq s
  | .moverFillBStager d c seq => Sys2Proof.Machine.execMoverFillBStager d c seq s
  | .moverPrefetch d c seq => Sys2Proof.Machine.execMoverPrefetch d c seq s
  | .moverFillPattern d c seq => Sys2Proof.Machine.execMoverFillPattern d c seq s
  | .moverAccumulateCopy d c seq => Sys2Proof.Machine.execMoverAccumulateCopy d c seq s
  | .moverDescriptorComplete d c seq => Sys2Proof.Machine.execMoverDescriptorComplete d c seq s
  | .allReduce d => Sys2Proof.Machine.execAllReduce d s
  | .reduceScatter d => Sys2Proof.Machine.execReduceScatter d s
  | .allGather d => Sys2Proof.Machine.execAllGather d s
  | .allToAllV d => Sys2Proof.Machine.execAllToAllV d s
  | .expertCombine d => Sys2Proof.Machine.execExpertCombine d s
  | .collectiveMessageReceive d x => Sys2Proof.Machine.execCollectiveMessageReceive d x s
  | .collectiveEndNotice d g seq status => Sys2Proof.Machine.execCollectiveEndNotice d g seq status s
  | .collectiveDeadline d g => Sys2Proof.Machine.execCollectiveDeadline d g s
  | .collectiveComplete d g => Sys2Proof.Machine.execCollectiveComplete d g s
  | .colResumeWrite who pa n value hw => Sys2Proof.Machine.execColResumeWrite who pa n value hw s
  | .colGrpWrite who pa n value hw => Sys2Proof.Machine.execColGrpWrite who pa n value hw s
  | .syncCtrWrite who pa n value hw => Sys2Proof.Machine.execSyncCtrWrite who pa n value hw s
  | .syncCtrAddWrite who pa n value hw => Sys2Proof.Machine.execSyncCtrAddWrite who pa n value hw s
  | .syncCtrSubWrite who pa n value hw => Sys2Proof.Machine.execSyncCtrSubWrite who pa n value hw s
  | .syncCtrArmWrite who pa n value hw => Sys2Proof.Machine.execSyncCtrArmWrite who pa n value hw s
  | .syncBarCfgWrite who pa n value hw => Sys2Proof.Machine.execSyncBarCfgWrite who pa n value hw s
  | .syncBarWdogWrite who pa n value hw => Sys2Proof.Machine.execSyncBarWdogWrite who pa n value hw s
  | .remoteAddReceive node sdie inc seq job die ctr v => Sys2Proof.Machine.execRemoteAddReceive node sdie inc seq job die ctr v s
  | .remoteRequestReceive node sdie inc seq job op => Sys2Proof.Machine.execRemoteRequestReceive node sdie inc seq job op s
  | .remoteRejectReceive d node seq => Sys2Proof.Machine.execRemoteRejectReceive d node seq s
  | .remoteResponseReceive d node seq bs poison fault => Sys2Proof.Machine.execRemoteResponseReceive d node seq bs poison fault s
  | .remoteResend d node seq => Sys2Proof.Machine.execRemoteResend d node seq s
  | .edgeRequestReceive d p node tag op => Sys2Proof.Machine.execEdgeRequestReceive d p node tag op s
  | .dieCacheRequest d req op mirror err => Sys2Proof.Machine.execDieCacheRequest d req op mirror err s
  | .dieCacheMissFill d a bankFull => Sys2Proof.Machine.execDieCacheMissFill d a bankFull s
  | .accumulateWriteApply req a width bs poison mirror => Sys2Proof.Machine.execAccumulateWriteApply req a width bs poison mirror s
  | .remoteLineSweep d set => Sys2Proof.Machine.execRemoteLineSweep d set s
  | .cloveTrackerExpire d slice => Sys2Proof.Machine.execCloveTrackerExpire d slice s
  | .missSlotIssue d c => Sys2Proof.Machine.execMissSlotIssue d c s
  | .bankRetryIssue d a => Sys2Proof.Machine.execBankRetryIssue d a s
  | .missReissue d a => Sys2Proof.Machine.execMissReissue d a s
  | .dcPinCmdPin who pa n value hw => Sys2Proof.Machine.execDcPinCmdPin who pa n value hw s
  | .dcPinCmdUnpin who pa n value hw => Sys2Proof.Machine.execDcPinCmdUnpin who pa n value hw s
  | .pinCommandComplete d => Sys2Proof.Machine.execPinCommandComplete d s
  | .pinPressureWindow d => Sys2Proof.Machine.execPinPressureWindow d s
  | .deadRangeDeclare who pa n value hw => Sys2Proof.Machine.execDeadRangeDeclare who pa n value hw s
  | .deadRangeCancel who pa n value hw => Sys2Proof.Machine.execDeadRangeCancel who pa n value hw s
  | .deadRangeInvalidateDone d idx => Sys2Proof.Machine.execDeadRangeInvalidateDone d idx s
  | .dcCfgWrite who pa n value hw => Sys2Proof.Machine.execDcCfgWrite who pa n value hw s
  | .dcL1CfgWrite who pa n value hw => Sys2Proof.Machine.execDcL1CfgWrite who pa n value hw s
  | .dcPinQuotaWrite who pa n value hw => Sys2Proof.Machine.execDcPinQuotaWrite who pa n value hw s
  | .dieReset d => Sys2Proof.Machine.execDieReset d s
  | .dieResetComplete d => Sys2Proof.Machine.execDieResetComplete d s
  | .portLightDetect d p lanes => Sys2Proof.Machine.execPortLightDetect d p lanes s
  | .portTrainComplete d p lanes peerValid => Sys2Proof.Machine.execPortTrainComplete d p lanes peerValid s
  | .portNegotiate d p x => Sys2Proof.Machine.execPortNegotiate d p x s
  | .portLightLost d p lanes => Sys2Proof.Machine.execPortLightLost d p lanes s
  | .portFecFail d p lane n => Sys2Proof.Machine.execPortFecFail d p lane n s
  | .standbySwap d p => Sys2Proof.Machine.execStandbySwap d p s
  | .portRetry d p => Sys2Proof.Machine.execPortRetry d p s
  | .fabPortCtlWrite who pa n value hw => Sys2Proof.Machine.execFabPortCtlWrite who pa n value hw s
  | .linkPacketReceive d p e => Sys2Proof.Machine.execLinkPacketReceive d p e s
  | .packetForward d x => Sys2Proof.Machine.execPacketForward d x s
  | .heartbeatSend d p => Sys2Proof.Machine.execHeartbeatSend d p s
  | .heartbeatReceive d p => Sys2Proof.Machine.execHeartbeatReceive d p s
  | .heartbeatTimeout d p => Sys2Proof.Machine.execHeartbeatTimeout d p s
  | .nodeLostReceive n => Sys2Proof.Machine.execNodeLostReceive n s
  | .fabRouteCtlWrite who pa n value hw => Sys2Proof.Machine.execFabRouteCtlWrite who pa n value hw s
  | .routeEpochSwitch d => Sys2Proof.Machine.execRouteEpochSwitch d s
  | .faultRecordDeliver d => Sys2Proof.Machine.execFaultRecordDeliver d s
  | .snapFqHeadWrite who pa n value hw => Sys2Proof.Machine.execSnapFqHeadWrite who pa n value hw s
  | .snapFqCfgWrite who pa n value hw => Sys2Proof.Machine.execSnapFqCfgWrite who pa n value hw s
  | .snapUpdDoneWrite who pa n value hw => Sys2Proof.Machine.execSnapUpdDoneWrite who pa n value hw s
  | .scheduleCaptureComplete d => Sys2Proof.Machine.execScheduleCaptureComplete d s
  | .chunkDigest d fetched => Sys2Proof.Machine.execChunkDigest d fetched s
  | .drainChunkReceive node step x => Sys2Proof.Machine.execDrainChunkReceive node step x s
  | .drainChunkAck d r => Sys2Proof.Machine.execDrainChunkAck d r s
  | .holdCopyComplete => Sys2Proof.Machine.execHoldCopyComplete s
  | .pageRebuild d a data => Sys2Proof.Machine.execPageRebuild d a data s
  | .d2dLinkFault a b l => Sys2Proof.Machine.execD2dLinkFault a b l s
  | .d2dLinkRestored a b l => Sys2Proof.Machine.execD2dLinkRestored a b l s
  | .livenessBeat d => Sys2Proof.Machine.execLivenessBeat d s
  | .dieHangDetect d => Sys2Proof.Machine.execDieHangDetect d s
  | .cpWatchdogExpire => Sys2Proof.Machine.execCpWatchdogExpire s
  | .mcWatchdogExpire => Sys2Proof.Machine.execMcWatchdogExpire s
  | .spWatchdogExpire => Sys2Proof.Machine.execSpWatchdogExpire s
  | .d2dBeatLost => Sys2Proof.Machine.execD2dBeatLost s
  | .pldmPowerLimit watts => Sys2Proof.Machine.execPldmPowerLimit watts s
  | .powerSample d compute stk optics => Sys2Proof.Machine.execPowerSample d compute stk optics s
  | .estimatorRescale d activity uncore => Sys2Proof.Machine.execEstimatorRescale d activity uncore s
  | .governorWindow d unit input => Sys2Proof.Machine.execGovernorWindow d unit input s
  | .supplyDroop d drop => Sys2Proof.Machine.execSupplyDroop d drop s
  | .ballastIssue d c => Sys2Proof.Machine.execBallastIssue d c s
  | .nutmegTaperStart d => Sys2Proof.Machine.execNutmegTaperStart d s
  | .pwrNutWrite who pa n value hw => Sys2Proof.Machine.execPwrNutWrite who pa n value hw s
  | .thermalSample d tj stk optics => Sys2Proof.Machine.execThermalSample d tj stk optics s
  | .droopEnd d => Sys2Proof.Machine.execDroopEnd d s
  | .mbxReqTailWrite who pa n value hw => Sys2Proof.Machine.execMbxReqTailWrite who pa n value hw s
  | .mbxRspHeadWrite who pa n value hw => Sys2Proof.Machine.execMbxRspHeadWrite who pa n value hw s
  | .mcRelayRequest ws => Sys2Proof.Machine.execMcRelayRequest ws s
  | .mailboxRequestTake k => Sys2Proof.Machine.execMailboxRequestTake k s
  | .openMailbox k => Sys2Proof.Machine.execOpenMailbox k s
  | .query k => Sys2Proof.Machine.execQuery k s
  | .configure k => Sys2Proof.Machine.execConfigure k s
  | .partitionCreate k => Sys2Proof.Machine.execPartitionCreate k s
  | .partitionDestroy k => Sys2Proof.Machine.execPartitionDestroy k s
  | .jobOpen k => Sys2Proof.Machine.execJobOpen k s
  | .jobClose k => Sys2Proof.Machine.execJobClose k s
  | .abort k => Sys2Proof.Machine.execAbort k s
  | .abortComplete slot => Sys2Proof.Machine.execAbortComplete slot s
  | .abortEscalate slot => Sys2Proof.Machine.execAbortEscalate slot s
  | .routeUpdate k => Sys2Proof.Machine.execRouteUpdate k s
  | .snapConfig k => Sys2Proof.Machine.execSnapConfig k s
  | .snapRestore k feed => Sys2Proof.Machine.execSnapRestore k feed s
  | .marginStart k => Sys2Proof.Machine.execMarginStart k s
  | .marginStatus k => Sys2Proof.Machine.execMarginStatus k s
  | .marginCancel k => Sys2Proof.Machine.execMarginCancel k s
  | .fuseStatus k => Sys2Proof.Machine.execFuseStatus k s
  | .ftStatus k => Sys2Proof.Machine.execFtStatus k s
  | .counterSnapshot k => Sys2Proof.Machine.execCounterSnapshot k s
  | .debugChallenge k => Sys2Proof.Machine.execDebugChallenge k s
  | .debugUnlock k => Sys2Proof.Machine.execDebugUnlock k s
  | .attestationReport relay nonce waiting => Sys2Proof.Machine.execAttestationReport relay nonce waiting s
  | .attestationCertificates relay waiting => Sys2Proof.Machine.execAttestationCertificates relay waiting s
  | .i3cEntdaa addr => Sys2Proof.Machine.execI3cEntdaa addr s
  | .i3cSetdasa static addr => Sys2Proof.Machine.execI3cSetdasa static addr s
  | .debugPortAccess tck tms tdi trst => Sys2Proof.Machine.execDebugPortAccess tck tms tdi trst s

end Sys2Proof.Machine
end

