-- ==== Sys2Proof/Safety.lean ====
section
/-! DEFINITION. The terms in which claims are made: the canonical forms of stored data, what a register write needs and leaves, and
the states of power and reset in which parts of the module do nothing. -/

namespace Sys2Proof.Machine

/-- The same state with the machine `m`: the queue is as it was. -/
def State.setM (s : State) (m : Mach) : State := { s with m }

/-! ### Canonical forms -/

/-- The canonical form of memory: addresses strictly rising, no byte listed that reads as an unlisted one does. -/
abbrev Memory.wf (l : SMap Byte) : Bool := smWf memDefault l

/-- Keys strictly rising. -/
def smSorted {α : Type} : SMap α → Bool
  | [] => true
  | (k, _) :: m => smAbove k m && smSorted m

/-- The registers of each die are sorted by key. -/
def Mach.regsSorted (m : Mach) : Prop := smSorted m.regs = true ∧ ∀ d, smSorted (smGet [] m.regs d) = true

/-- Every map of the module that a command can write is in its canonical form: memory, its stored check-symbol differences, the
registers of each die, the dies, the cores. -/
def Mach.canonical (m : Mach) : Bool :=
  Memory.wf m.mem && smWf 0 m.ecc && smWf [] m.regs && m.regs.all (fun e => smSorted e.2) && smWf Die.init m.dies && smWf Core.init m.cores

/-! ### Register writes -/

/-- The bits of a register that a write of `n` bytes at its byte `b` reaches. -/
def accMask (b n : Nat) : Nat := (2 ^ (8 * n) - 1) * 2 ^ (8 * b)

/-- The W1C bits that a write clears in the cycle in which the module sets them (R14). -/
def w1cHit (id : RegId) (b n value hw : Nat) : Nat := id.reg.info.bitsOfAcc .w1c &&& (value * 2 ^ (8 * b)) &&& accMask b n &&& hw

/-- A write of `n` bytes at `pa` by `who` reaches byte `b` of the register copy `id`, in a form that R8, R9 and R42 allow, and the
copy is in use (R452). -/
def State.writes (s : State) (who : BusWho) (pa n : Nat) (id : RegId) (b : Nat) : Prop :=
  s.m.powered = true ∧ inSlots pa n = false ∧ regAt pa = some (id, b) ∧ legalAccess id.reg.info.width b n = true ∧
    mayWrite who id = true ∧ s.m.unusedSnap id = false

/-- The registers whose rule does more than store what Table 0.3 gives, or refuses some values. -/
def ownRules : List Reg :=
  [.ftCtrl, .ftTmrTgt, .ftTmrCtl, .arrCfg, .sumCtrl, .sumTblBase, .sumTblCfg, .sumFold, .vecSrKey, .vecSrCtrLo, .vecSrCtrHi,
   .vecSclBase, .vecSclCfg, .vecStepPend, .tguWdog, .cqRingBase, .cqRingCfg, .cqColRingBase, .cqColRingCfg, .lqBase,
   .lqCringBase, .lqCfg, .lqTail, .syncCtr, .syncCtrAdd, .syncCtrSub, .syncCtrArm, .syncBarCfg, .syncMbarCfg, .syncMbarDies,
   .syncBarWdog, .dcL1Cfg, .dcCfg, .dcPinQuota, .dcPinCmd, .dcDeadAddr, .dcDeadCtl, .hbmCfg, .cfgXlatInv, .cfgXlatRoot, .fabNode, .fabDims,
   .fabRouteCtl, .fabRouteSwitch, .fabDetourPend, .fabPortCtl, .colGrpBase, .colGrpCfg, .colResume, .snapRgnBase,
   .snapSsrBase, .snapCfg, .snapWork, .snapRecvArea, .snapHoldArea, .snapUpdDone, .snapFqBase, .snapFqCfg, .snapFqPtr,
   .pwrCapPend, .pwrCtl, .pwrNutCfg, .mbxReqTail, .mbxRspHead]

/-- What a write brings to the register copy `id` (R9, R12, Table 0.3). -/
def Mach.wordAt (m : Mach) (who : BusWho) (id : RegId) (b n value hw : Nat) : RegW :=
  m.regW who id (value * 2 ^ (8 * b)) (accMask b n) (w1cHit id b n value hw)

/-- A write was accepted: its collisions are counted (R262) and it is answered. -/
def Mach.answered (m : Mach) (id : RegId) (hit : Nat) : Mach := { m.w1cCollide id hit with resp := .ok 0 }

/-! ### Reports -/

/-- The write changes nothing but an event bit of its block, and is answered. -/
def Mach.turnedAway (m : Mach) (id : RegId) (hit : Nat) (f : Fld) (i c : Nat) : Mach := (m.ev f id.die i c).answered id hit

/-! ### Instructions of core threads -/

/-- An instruction issues to the threads `r :: rs`, in ascending lane order (R178): its die runs, its block `k` is resident, these of the
named lanes can issue, the launch of the block declared every register that `op` names (R181), and none of those has an error. -/
def State.issues (s : State) (i : Issue) (op : RvOp) (r : ThreadRef) (rs : List ThreadRef) (k : Block) : Prop :=
  s.m.dieRuns i.die = true ∧ s.m.issueSet i.die i.core i.block i.group i.lanes = r :: rs ∧
    s.m.block i.die i.core i.block = some k ∧ op.inRegs k.xregs k.fregs = true ∧ i.regBad = false

/-- The machine once the issue of an instruction to the threads `rs` of block `k` is counted (R205): those that try it again are not. -/
def State.issued (s : State) (i : Issue) (k : Block) (rs : List ThreadRef) : Mach :=
  s.m.issueCount i.die i.core k i.group (s.m.freshCount i.die rs)

/-- That machine once the instruction has read its operands (R182). -/
def State.reading (s : State) (i : Issue) (k : Block) (rs : List ThreadRef) (op : RvOp) : Mach :=
  (s.issued i k rs).regCache i.die rs op i.hints

/-- What the issue of a command meets beside its instruction, no register error being met. -/
def issueMeets (i : Issue) (l1Bad : Bool) : Meets := { l1Bad, hints := i.hints }

/-- An access of a thread is well placed, and its turn has come: no alignment, window or translation fault, the thread's block still runs,
and no full slot, bank or home makes it wait; `m'` is the machine after its translation. -/
def Mach.placed (m : Mach) (d : Nat) (r : ThreadRef) (kind : MemKind) (va width : Nat) (m' : Mach) (p : Place) : Prop :=
  ∃ m1, m.placeFor d r kind va width = (m1, .ok p) ∧ m1.live d r = true ∧ m1.laneGate d r kind p = (m', true)

/-! ### Vector instructions -/

/-- The vector engine of a core is at the legal instruction `v`, of opcode `op`, of the running program `r`: its die runs, the core is
not fenced, and no bubble holds the instruction back; `m` is the machine after the fetch. -/
def State.vecAt (s : State) (d c op : Nat) (m : Mach) (r : VecRun) (v : VInst) : Prop :=
  s.m.dieRuns d = true ∧ s.m.fenced d c = false ∧ s.m.vecFetch d c = (m, .word r v) ∧ v.op = op ∧ m.vecBubbled d c op = false ∧
    v.legal = true

/-- A vector instruction of the program `r` has the outcome `x`: it is counted, and the program goes on (R161, R203). -/
def Mach.vecThen (d c : Nat) (r : VecRun) (x : Mach × VOut) : Mach :=
  (match x.2 with | .wait => x.1.modRun d c (fun y => { y with waits := y.sclWait.isNone }) | _ => x.1.vecIssued d c).vecAdvance d c (vLen r.words) x.2

/-! ### Mailbox commands -/

/-- Command `c`, of the opcode `op`, is the one in progress on mailbox `k`. -/
def State.serving (s : State) (k op : Nat) (c : MbxCmd) : Prop :=
  s.m.powered = true ∧ s.m.cp.running.find? (fun x => x.mbx == k && x.opcode == op) = some c

/-- The state in which command `c` has been answered (R484) by a machine `m` that did its work, with a status of Table 16.4 and the
response's payload words. -/
def State.replied (s : State) (m : Mach) (c : MbxCmd) (status : Nat) (ws : List Nat) : State := s.setM (m.respond c status ws)

/-! ### Power -/

/-- The module without supply: nothing is driven, no link is lit, and the boundary shows the Unpowered column of Table 18.4. -/
def Mach.dark (m : Mach) : Bool :=
  m.silent && !m.pins.sdRail && !m.pins.railsUp && !m.pins.pwrGood && !m.pins.fault && m.pins.perst.isNone && m.pins.i3c.isNone &&
    !m.pins.mcUp && m.pins.refclk == 0 && m.pins.held && m.pins.tap == .testLogicReset && m.pins.tdo.isNone && !m.pins.acRun &&
    m.pins.pcie == .off

/-! ### What a command needs -/

/-- What must run for a command to happen: nothing, the Bludjan die, the whole data plane, one compute die, one of the nine dies.
[DESIGN CHOICE, log 6] -/
inductive Needs where
  | nothing | bludjan | data | die (d : Fin 8) | nine (d : Fin 9)
  deriving DecidableEq, Repr

/-- Whether what a command needs runs. -/
def Needs.met (m : Mach) : Needs → Bool
  | .nothing => true
  | .bludjan => m.powered
  | .data => m.dataPlane
  | .die d => m.dieRuns d
  | .nine d => m.nineRuns d

/-- What each command needs. SUPPLY_LOSS is listed as needing nothing: beyond the ratings it stops in every state (R548). -/
def needs : Instr → Needs
  | .registerWrite _ _ _ _ _ => .bludjan
  | .rcCounterRead _ _ _ => .bludjan
  | .coldReset _ _ _ => .nothing
  | .pwrEnDeassert => .nothing
  | .supplyOutOfTolerance => .bludjan
  | .supplyLoss _ => .nothing
  | .imageVerification => .bludjan
  | .recovery _ => .bludjan
  | .release _ => .bludjan
  | .fuseLoad _ => .bludjan
  | .memoryTraining _ _ _ => .bludjan
  | .selfTest _ => .bludjan
  | .fabricBringUp _ => .bludjan
  | .loaderEntry => .bludjan
  | .phaseTimeout => .bludjan
  | .ftCounterTick => .bludjan
  | .timeMessageSend d _ => .die d
  | .timeMessageReceive d _ _ _ _ _ _ _ _ _ _ => .nine d
  | .holdoverExpire d => .nine d
  | .gmPromote => .data
  | .ftCtrlWrite _ _ _ _ _ => .bludjan
  | .trefPpsEdge => .data
  | .ptpTimeReceive _ => .bludjan
  | .ftTmrTgtWrite _ _ _ _ _ => .bludjan
  | .ftTmrCtlWrite _ _ _ _ _ => .bludjan
  | .timerFire d _ => .die d
  | .timerActionInterrupt d => .die d
  | .timerActionSyncAdd d => .die d
  | .stepBoundary _ => .data
  | .scaleEntryProcess d => .die d
  | .collectiveDeadlineAction d => .die d
  | .nutmegRampStart d => .die d
  | .applyPendingCap d => .die d
  | .commitPoint d => .die d
  | .commitVoteResult d _ => .die d
  | .scrubWindowOpen d => .die d
  | .scrubWindowClose d => .die d
  | .scrubRead d _ _ _ => .die d
  | .hbmRefresh d _ _ _ => .die d
  | .hbmReadComplete _ _ _ => .data
  | .rowRetire _ _ => .data
  | .mirrorRead _ _ => .data
  | .gddr7ReadComplete _ _ _ _ => .data
  | .hbmCfgWrite _ _ _ _ _ => .bludjan
  | .marginRunComplete d _ => .die d
  | .xlatInvPage _ _ _ _ _ => .bludjan
  | .xlatInvPartition _ _ _ _ _ => .bludjan
  | .xlatInvComplete d => .die d
  | .coreLoad i _ _ _ _ _ _ _ => .die i.die
  | .coreStore i _ _ _ _ _ => .die i.die
  | .coreAmo i _ _ _ _ _ => .die i.die
  | .coreLr i _ _ _ => .die i.die
  | .coreSc i _ _ _ _ => .die i.die
  | .csrAccess i _ _ _ _ => .die i.die
  | .ecall i => .die i.die
  | .ebreak i => .die i.die
  | .fenceI i => .die i.die
  | .baseInstruction i _ => .die i.die
  | .issueSlot d _ _ => .die d
  | .ktQpush i _ _ _ => .die i.die
  | .ktQcred i _ _ => .die i.die
  | .ktScadd i _ _ _ => .die i.die
  | .ktScaddRemote i _ _ _ => .die i.die
  | .ktScsub i _ _ _ => .die i.die
  | .ktScset i _ _ _ => .die i.die
  | .ktScrd i _ _ _ => .die i.die
  | .ktScwait i _ _ _ => .die i.die
  | .ktScwaitc i _ _ _ => .die i.die
  | .ktBar i _ _ => .die i.die
  | .barrierTimeout d _ _ => .die d
  | .ktMbarArriveWait i _ => .die i.die
  | .ktMbarArrive i _ => .die i.die
  | .barSlotTimeout d _ _ => .die d
  | .ktFamoadd i _ _ _ => .die i.die
  | .ktAccstW i _ _ => .die i.die
  | .ktAccstD i _ _ => .die i.die
  | .ktPrefL1 i _ => .die i.die
  | .ktPrefDieCache i _ => .die i.die
  | .ktFenceBlock i => .die i.die
  | .ktFenceCluster i => .die i.die
  | .ktFenceDie i => .die i.die
  | .ktFenceModule i => .die i.die
  | .ktFenceRelease i => .die i.die
  | .ktFenceAcquire i => .die i.die
  | .ktFenceFull i => .die i.die
  | .fenceTimeout d => .die d
  | .ktExit i => .die i.die
  | .ktVoteBallot i _ _ => .die i.die
  | .ktVoteAny i _ _ => .die i.die
  | .ktVoteAll i _ _ => .die i.die
  | .ktShflIndex i _ _ _ => .die i.die
  | .ktShflXor i _ _ _ => .die i.die
  | .ktShflUp i _ _ _ => .die i.die
  | .ktShflDown i _ _ _ => .die i.die
  | .ktActive i _ => .die i.die
  | .tguWdogWrite _ _ _ _ _ => .bludjan
  | .lqTailWrite _ _ _ _ _ => .bludjan
  | .lqCfgWrite _ _ _ _ _ => .bludjan
  | .lqRingBaseWrite _ _ _ _ _ => .bludjan
  | .cqRingWrite _ _ _ _ _ => .bludjan
  | .launchRead _ _ => .data
  | .blockPlace _ d _ => .die d
  | .arrayDescriptorStart d _ => .die d
  | .tileOpen d _ => .die d
  | .operandFetchComplete d _ _ _ _ => .die d
  | .kGroupEnter d _ _ => .die d
  | .spill d _ _ => .die d
  | .spillComplete d _ => .die d
  | .checksumCompare d _ => .die d
  | .tileRelease d _ => .die d
  | .arrCfgWrite _ _ _ _ _ => .bludjan
  | .arrSpareMapWrite _ _ _ _ _ => .bludjan
  | .sumacPredictionRead d _ => .die d
  | .zmapActualRead d _ _ => .die d
  | .zmapVerifyRead d _ _ => .die d
  | .sumacCorrection d _ => .die d
  | .sumFoldEntry _ _ _ _ _ => .bludjan
  | .sumFoldAll _ _ _ _ _ => .bludjan
  | .sumCtrlWrite _ _ _ _ _ => .bludjan
  | .sumTblWrite _ _ _ _ _ => .bludjan
  | .vectorDescriptorStart d _ => .die d
  | .vectorDescriptorComplete d _ => .die d
  | .vadd d _ => .die d
  | .vsub d _ => .die d
  | .vmul d _ => .die d
  | .vfma d _ => .die d
  | .vneg d _ => .die d
  | .vabs d _ => .die d
  | .vmin d _ => .die d
  | .vmax d _ => .die d
  | .vdiv d _ => .die d
  | .vsqrt d _ => .die d
  | .vrcp d _ => .die d
  | .vrsqrt d _ => .die d
  | .vexp2 d _ => .die d
  | .vexp d _ => .die d
  | .vlog2 d _ => .die d
  | .vlog d _ => .die d
  | .vtanh d _ => .die d
  | .vsigm d _ => .die d
  | .verf d _ => .die d
  | .vcmp d _ => .die d
  | .vsel d _ => .die d
  | .vclass d _ => .die d
  | .viadd d _ => .die d
  | .visub d _ => .die d
  | .vand d _ => .die d
  | .vor d _ => .die d
  | .vxor d _ => .die d
  | .vshift d _ => .die d
  | .vicmp d _ => .die d
  | .vrsum d _ => .die d
  | .vrmax d _ => .die d
  | .vrmin d _ => .die d
  | .vramax d _ => .die d
  | .vperm d _ => .die d
  | .vilv d _ => .die d
  | .vdilv d _ => .die d
  | .vrot d _ => .die d
  | .vcvt d _ => .die d
  | .vcvts d _ => .die d
  | .vsplit d _ => .die d
  | .vunpk d _ => .die d
  | .vld d _ => .die d
  | .vst d _ => .die d
  | .vlds d _ => .die d
  | .vsts d _ => .die d
  | .vsta d _ => .die d
  | .vold d _ _ => .die d
  | .vost d _ => .die d
  | .vacc d _ => .die d
  | .zmapclr d _ => .die d
  | .zmapwr d _ => .die d
  | .sli d _ => .die d
  | .sadd d _ => .die d
  | .smul d _ => .die d
  | .sloop d _ => .die d
  | .sjmp d _ => .die d
  | .vecSrWrite _ _ _ _ _ => .bludjan
  | .vecSclWrite _ _ _ _ _ => .bludjan
  | .stepPendWrite _ _ _ _ _ => .bludjan
  | .stepActWrite _ _ _ _ _ => .bludjan
  | .moverCopy d _ _ => .die d
  | .moverLoadOperandCache d _ _ => .die d
  | .moverStoreOperandCache d _ _ => .die d
  | .moverFillAStager d _ _ => .die d
  | .moverFillBStager d _ _ => .die d
  | .moverPrefetch d _ _ => .die d
  | .moverFillPattern d _ _ => .die d
  | .moverAccumulateCopy d _ _ => .die d
  | .moverDescriptorComplete d _ _ => .die d
  | .allReduce d => .die d.val
  | .reduceScatter d => .die d.val
  | .allGather d => .die d.val
  | .allToAllV d => .die d.val
  | .expertCombine d => .die d.val
  | .collectiveMessageReceive d _ => .die d
  | .collectiveEndNotice d _ _ _ => .die d
  | .collectiveDeadline d _ => .die d
  | .collectiveComplete d _ => .die d
  | .colResumeWrite _ _ _ _ _ => .bludjan
  | .colGrpWrite _ _ _ _ _ => .bludjan
  | .syncCtrWrite _ _ _ _ _ => .bludjan
  | .syncCtrAddWrite _ _ _ _ _ => .bludjan
  | .syncCtrSubWrite _ _ _ _ _ => .bludjan
  | .syncCtrArmWrite _ _ _ _ _ => .bludjan
  | .syncBarCfgWrite _ _ _ _ _ => .bludjan
  | .syncBarWdogWrite _ _ _ _ _ => .bludjan
  | .remoteAddReceive _ _ _ _ _ _ _ _ => .data
  | .remoteRequestReceive _ _ _ _ _ _ => .data
  | .remoteRejectReceive d _ _ => .die d
  | .remoteResponseReceive d _ _ _ _ _ => .die d
  | .remoteResend d _ _ => .die d
  | .edgeRequestReceive d _ _ _ _ => .die d
  | .dieCacheRequest d _ _ _ _ => .nine d
  | .dieCacheMissFill d _ _ => .nine d
  | .accumulateWriteApply _ _ _ _ _ _ => .data
  | .remoteLineSweep d _ => .die d
  | .cloveTrackerExpire d _ => .die d
  | .missSlotIssue d _ => .die d
  | .bankRetryIssue d _ => .die d
  | .missReissue d _ => .die d
  | .dcPinCmdPin _ _ _ _ _ => .bludjan
  | .dcPinCmdUnpin _ _ _ _ _ => .bludjan
  | .pinCommandComplete d => .die d
  | .pinPressureWindow d => .die d
  | .deadRangeDeclare _ _ _ _ _ => .bludjan
  | .deadRangeCancel _ _ _ _ _ => .bludjan
  | .deadRangeInvalidateDone d _ => .die d
  | .dcCfgWrite _ _ _ _ _ => .bludjan
  | .dcL1CfgWrite _ _ _ _ _ => .bludjan
  | .dcPinQuotaWrite _ _ _ _ _ => .bludjan
  | .dieReset _ => .data
  | .dieResetComplete _ => .data
  | .portLightDetect d _ _ => .die d
  | .portTrainComplete d _ _ _ => .die d
  | .portNegotiate d _ _ => .die d
  | .portLightLost d _ _ => .die d
  | .portFecFail d _ _ _ => .die d
  | .standbySwap d _ => .die d
  | .portRetry d _ => .die d
  | .fabPortCtlWrite _ _ _ _ _ => .bludjan
  | .linkPacketReceive d _ _ => .die d
  | .packetForward d _ => .die d
  | .heartbeatSend d _ => .die d
  | .heartbeatReceive d _ => .die d
  | .heartbeatTimeout d _ => .die d
  | .nodeLostReceive _ => .data
  | .fabRouteCtlWrite _ _ _ _ _ => .bludjan
  | .routeEpochSwitch d => .die d
  | .faultRecordDeliver d => .nine d
  | .snapFqHeadWrite _ _ _ _ _ => .bludjan
  | .snapFqCfgWrite _ _ _ _ _ => .bludjan
  | .snapUpdDoneWrite _ _ _ _ _ => .bludjan
  | .scheduleCaptureComplete d => .die d
  | .chunkDigest d _ => .die d
  | .drainChunkReceive _ _ _ => .bludjan
  | .drainChunkAck d _ => .die d
  | .holdCopyComplete => .bludjan
  | .pageRebuild d _ _ => .die d
  | .d2dLinkFault _ _ _ => .data
  | .d2dLinkRestored _ _ _ => .data
  | .livenessBeat d => .die d
  | .dieHangDetect _ => .data
  | .cpWatchdogExpire => .bludjan
  | .mcWatchdogExpire => .bludjan
  | .spWatchdogExpire => .bludjan
  | .d2dBeatLost => .data
  | .pldmPowerLimit _ => .bludjan
  | .powerSample d _ _ _ => .nine d
  | .estimatorRescale d _ _ => .die d
  | .governorWindow d _ _ => .nine d
  | .supplyDroop d _ => .die d
  | .ballastIssue d _ => .die d
  | .nutmegTaperStart d => .die d
  | .pwrNutWrite _ _ _ _ _ => .bludjan
  | .thermalSample d _ _ _ => .nine d
  | .droopEnd d => .die d
  | .mbxReqTailWrite _ _ _ _ _ => .bludjan
  | .mbxRspHeadWrite _ _ _ _ _ => .bludjan
  | .mcRelayRequest _ => .bludjan
  | .mailboxRequestTake _ => .bludjan
  | .openMailbox _ => .bludjan
  | .query _ => .bludjan
  | .configure _ => .bludjan
  | .partitionCreate _ => .bludjan
  | .partitionDestroy _ => .bludjan
  | .jobOpen _ => .bludjan
  | .jobClose _ => .bludjan
  | .abort _ => .bludjan
  | .abortComplete _ => .bludjan
  | .abortEscalate _ => .bludjan
  | .routeUpdate _ => .bludjan
  | .snapConfig _ => .bludjan
  | .snapRestore _ _ => .bludjan
  | .marginStart _ => .bludjan
  | .marginStatus _ => .bludjan
  | .marginCancel _ => .bludjan
  | .fuseStatus _ => .bludjan
  | .ftStatus _ => .bludjan
  | .counterSnapshot _ => .bludjan
  | .debugChallenge _ => .bludjan
  | .debugUnlock _ => .bludjan
  | .attestationReport _ _ _ => .bludjan
  | .attestationCertificates _ _ => .bludjan
  | .i3cEntdaa _ => .bludjan
  | .i3cSetdasa _ _ => .bludjan
  | .debugPortAccess _ _ _ _ => .bludjan

end Sys2Proof.Machine
end

