-- ==== Sys2Proof/Certificates/Slice0/Obligations.lean ====
section
/-! DEFINITION. The statements for the provers. -/

open Sys2Proof Sys2Proof.Machine

/-! ### The queue, power and reset -/

/-- One step takes the command at the front of the queue: it is `exec` of that command on the state with the rest of the queue. With no
command waiting the block idles. This is the model's own choice (log 5); no rule states it. Readings and choices of the model that it
rests on: log 5, 9. -/
def Obligations.StepTakesTheFront : Prop :=
  (∀ (s : State) (i : Instr) (rest : List Instr), step { s with pending := i :: rest } = exec i { s with pending := rest }) ∧
  (∀ s : State, s.pending = [] → step s = .next s)

/-- R11, R509: after reset no command waits, no byte and no core is listed, no partition exists, every stored form is canonical, and
every register copy holds the value that the fields of its register map give, PWR_CAP of the Bludjan die apart, which holds the class
rating of the straps (R25). That no byte is listed stands for memory that reads as zero, which is the model's choice (log 1), and so is
the empty permanent store (log 3). R11: the reset value of a register copy gives every field of its map the field's own reset value,
for every register and copy (the low bits of CQ_RING_CFG of the mover's ring and the wiring bits of FAB_PORT_STATUS come from their
rows). -/
def Obligations.ResetLeavesTheFieldsValues : Prop :=
  (State.reset.pending = [] ∧ State.reset.m.mem = [] ∧ State.reset.m.ecc = [] ∧ State.reset.m.parts = [] ∧
     State.reset.m.cores = [] ∧ State.reset.m.canonical = true ∧ State.reset.m.dark = false ∧ State.reset.m.regsSorted ∧
     (∀ id : RegId, id.die ≠ 8 ∨ id.key ≠ RegId.key ⟨.pwrCap, 8, 0, 0, 0⟩ → State.reset.m.reg id = resetOf id % 2 ^ 64) ∧
     State.reset.m.get Fld.pwrCap_cap_w 8 = 1400 ∧ (∀ d, d < 9 → State.reset.m.ft d = 0 ∧ State.reset.m.ftState d = 0)) ∧
  (∀ (id : RegId) (f : FieldInfo), f ∈ id.reg.info.fields → id.reg ≠ .cqRingCfg → id.reg ≠ .fabPortStatus →
     bitsOf (resetOf id) f.hi f.lo = f.reset)

/-- Every command of the block answers a next state, whatever the state, and takes nothing from the queue and adds nothing to it;
SUPPLY_LOSS with an input beyond the absolute maximum of Table 18.7 is the one exception (R548). R548: an input beyond the absolute
maximum of Table 18.7 stops SUPPLY_LOSS in every state, by name. Readings and choices of the model that it rests on: log 6, 106. -/
def Obligations.EveryCommandAnswers : Prop :=
  (∀ (i : Instr) (s : State), (∀ mv, i = .supplyLoss mv → mv ≤ 65000) → ∃ m' : Mach, exec i s = .next (s.setM m')) ∧
  (∀ (s : State) (mv : Nat), 65000 < mv → exec (.supplyLoss mv) s = .fault .beyondRatings)

/-- What a command needs does not run: nothing changes. A die in reset does nothing (R422), the data plane does nothing before it is
released (R511), and an unpowered module answers nothing (R17). What each command needs is the model's reading (log 6). -/
def Obligations.NothingHappensUnlessItRuns : Prop :=
  ∀ (i : Instr) (s : State), (needs i).met s.m = false → exec i s = .next s

/-- R17, R536: without supply nothing happens but a cold reset: the module's outputs keep the Unpowered column of Table 18.4, no
register, memory, queue or core changes, whatever command comes first, until COLD_RESET. Readings and choices of the model that it
rests on: log 6, 7, 105. -/
def Obligations.DarkUntilColdReset : Prop :=
  ∀ (s t : State), s.m.dark = true → (∀ cool bifurc rails rest, s.pending ≠ .coldReset cool bifurc rails :: rest) → step s = .next t →
    t.m.dark = true ∧ t.m = { s.m with pins := { s.m.pins with pwrEn := t.m.pins.pwrEn } } ∧ t.pending = s.pending.tail

/-- R534, R530: PWR_EN_DEASSERT completes in every state: the module goes fail-silent, every rail stops and PWR_EN is low. It and an
input below 36 V or above 63 V (within the ratings) leave the module dark; the memory and the registers outside the ports' are as they
were. An input between 36 and 63 V changes nothing. R24, R509, R533: COLD_RESET completes in every state: it samples the straps and
keeps the permanent store alone: everything else is as after reset, and the straps 11 are reported (STRAP_INVALID). Readings and
choices of the model that it rests on: log 4, 7, 105, 106. -/
def Obligations.SupplyLossAndColdReset : Prop :=
  ((∀ s : State, exec .pwrEnDeassert s = .next (s.setM (
     let m := s.m.goSilent.unpowered
     { m with pins := { m.pins with pwrEn := false } }))) ∧
   (∀ s : State, ∃ t : State, exec .pwrEnDeassert s = .next t ∧ t.m.dark = true ∧ t.m.pins.pwrEn = false ∧ t.pending = s.pending ∧
     t.m.mem = s.m.mem ∧ t.m.perm = s.m.perm) ∧
   (∀ (s : State) (mv : Nat), s.m.powered = true → (mv < 36000 ∨ (63000 < mv ∧ mv ≤ 65000)) →
     ∃ t : State, exec (.supplyLoss mv) s = .next t ∧ t.m.dark = true ∧ t.pending = s.pending ∧ t.m.mem = s.m.mem ∧
       t.m.perm = s.m.perm) ∧
   (∀ (s : State) (mv : Nat), 36000 ≤ mv → mv ≤ 63000 → exec (.supplyLoss mv) s = .next s)) ∧
  ((∀ (s : State) (cool bifurc : Fin 4) (rails : Bool), exec (.coldReset cool bifurc rails) s = .next (s.setM (
     let c : Mach := { Mach.cold s.m.perm cool bifurc rails with freeCtr := s.m.freeCtr }
     if cool = 3 then c.toCp sdDie 0x55 false false [(2, 3)] else c))) ∧
   ∀ (s : State) (cool bifurc : Fin 4) (rails : Bool), ∃ t : State, exec (.coldReset cool bifurc rails) s = .next t ∧
     t.pending = s.pending ∧ t.m.perm = s.m.perm ∧ t.m.freeCtr = s.m.freeCtr ∧
     (cool ≠ 3 → t.m = { Mach.cold s.m.perm cool bifurc rails with freeCtr := s.m.freeCtr }) ∧
     (cool = 3 → (t.m.die 8).records.map (·.kind) = [0x55]))

/-! ### Registers (spec/00) -/

/-- Table 0.3 with R12, R14 and R15, bit by bit: what a field of each access type holds after a write, for every old value, written
value, reached bits and bits that the module sets in the same cycle. RO and RC ignore the write; RW takes the reached bits; RWL does so
until the lock; W1C clears the bits written as 1, but keeps those that the module sets at the same time; W1S sets them; WO stores
nothing (log 12). Readings and choices of the model that it rests on: log 11. -/
def Obligations.FieldsFollowTable03 : Prop :=
  ∀ (f : FieldInfo) (locked : Bool) (old val mask hw i : Nat), f.lo ≤ f.hi →
    (f.written locked old val mask hw).testBit i =
      (decide (f.lo ≤ i ∧ i ≤ f.hi) &&
        match f.acc with
        | .ro | .rc => old.testBit i
        | .rw => if mask.testBit i then val.testBit i else old.testBit i
        | .rwl => if !locked && mask.testBit i then val.testBit i else old.testBit i
        | .w1c => if mask.testBit i && val.testBit i then hw.testBit i else old.testBit i
        | .w1s => old.testBit i || (mask.testBit i && val.testBit i)
        | .wo => false)

/-- R9, R12: an allowed REGISTER_WRITE is answered; a register that has no rule of its own holds the value that Table 0.3 gives field
by field, the other half of a 64-bit register and every other register, memory and queue stay as they are. A register with a rule of
its own follows it (log 10). R9: a 32-bit write to one half of a 64-bit register leaves every bit of the other half as it stands, in
every field that is not write-only. -/
def Obligations.RegisterWriteStores : Prop :=
  (∀ (s : State) (who : BusWho) (pa n v hw b : Nat) (id : RegId), s.writes who pa n id b → s.m.regsSorted →
     exec (.registerWrite who pa n v hw) s =
       .next (s.setM ((s.m.regWrite id (s.m.wordAt who id b n v hw)).answered id (w1cHit id b n v hw))) ∧
     (id.reg ∉ ownRules → w1cHit id b n v hw = 0 → ∃ t : State, exec (.registerWrite who pa n v hw) s = .next t ∧
       t.m.reg id = (s.m.wordAt who id b n v hw).new % 2 ^ 64 ∧ (∀ id' : RegId, id' ≠ id → t.m.reg id' = s.m.reg id') ∧
       t = s.setM { s.m with regs := t.m.regs, resp := .ok 0 })) ∧
  (∀ (m : Mach) (who : BusWho) (id : RegId) (b v hw : Nat) (f : FieldInfo) (i : Nat), b = 0 ∨ b = 4 → f ∈ id.reg.info.fields →
     f.acc ≠ .wo → f.lo ≤ i → i ≤ f.hi → i < 64 → (i < 8 * b ∨ 8 * b + 32 ≤ i) →
     (m.wordAt who id b 4 v hw).new.testBit i = (m.reg id).testBit i)

/-- R8, R9: an access to no register, or of an illegal width or alignment, to a register window completes with an access fault and
changes nothing else, for reads and for writes; so does one to the mailbox slots by an agent that does not meet them: core code, and
the MC outside the slots of mailbox 31. Readings and choices of the model that it rests on: log 10, 14, 16. -/
def Obligations.IllegalAccessFaults : Prop :=
  (∀ (s : State) (who : BusWho) (pa n v hw : Nat), s.m.powered = true → inSlots pa n = true →
    who = .core ∨ (who = .mc ∧ pa < 0x8080009F000) →
    exec (.registerWrite who pa n v hw) s = .next (s.setM { s.m with resp := .accessFault }) ∧
      exec (.rcCounterRead who pa n) s = .next (s.setM { s.m with resp := .accessFault })) ∧
  ∀ (s : State) (who : BusWho) (pa n v hw : Nat), s.m.powered = true → inSlots pa n = false →
    (∀ id b, regAt pa = some (id, b) → legalAccess id.reg.info.width b n = false) →
    exec (.registerWrite who pa n v hw) s = .next (s.setM { s.m with resp := .accessFault }) ∧
      exec (.rcCounterRead who pa n) s = .next (s.setM { s.m with resp := .accessFault })

/-- R42. A software access to the registers of timers 0 to 15 completes with an access fault: reads and writes, of every width, by
software or by core code, through REGISTER_WRITE, RC_COUNTER_READ and the rows of the two timer registers. -/
def Obligations.SystemTimersAreNotSoftwares : Prop :=
  ∀ (s : State) (who : BusWho) (pa n v hw b : Nat) (id : RegId), s.m.powered = true → inSlots pa n = false →
    regAt pa = some (id, b) → id.i < 16 → who = .sw ∨ who = .core →
    let t : State := s.setM { s.m with resp := .accessFault }
    (id.reg = .ftTmrTgt ∨ id.reg = .ftTmrCtl →
      exec (.registerWrite who pa n v hw) s = .next t ∧ exec (.rcCounterRead who pa n) s = .next t) ∧
    (id.reg = .ftTmrTgt → exec (.ftTmrTgtWrite who pa n v hw) s = .next t) ∧
    (id.reg = .ftTmrCtl → exec (.ftTmrCtlWrite who pa n v hw) s = .next t)

/-- R380. Only the CP firmware writes the node, size, job, route and port control registers: a write by anyone else is an access fault
and changes nothing; FAB_DIMS locks with FAB_NODE.`lock`: its fields then keep their values. -/
def Obligations.OnlyTheCpWritesTheFabricsRegisters : Prop :=
  ∀ (s : State) (who : BusWho) (pa n v hw b : Nat) (id : RegId), s.m.powered = true → inSlots pa n = false → regAt pa = some (id, b) →
    (id.reg ∈ [Reg.fabNode, .fabDims, .fabJob, .fabRouteCtl, .fabRouteSwitch, .fabDetourPend, .fabPortCtl] → who ≠ .cp →
      exec (.registerWrite who pa n v hw) s = .next (s.setM { s.m with resp := .accessFault })) ∧
    (id.reg = .fabPortCtl → who ≠ .cp →
      exec (.fabPortCtlWrite who pa n v hw) s = .next (s.setM { s.m with resp := .accessFault })) ∧
    (id.reg = .fabRouteCtl → who ≠ .cp →
      exec (.fabRouteCtlWrite who pa n v hw) s = .next (s.setM { s.m with resp := .accessFault })) ∧
    (id.reg = .fabDims → s.m.flag Fld.fabNode_lock id.die = true → ∀ f ∈ id.reg.info.fields, ∀ i, f.lo ≤ i → i ≤ f.hi →
      (s.m.wordAt who id b n v hw).new.testBit i = (s.m.reg id).testBit i)

/-- R116. ARR_SPARE_MAP accepts writes only from the CP firmware; any other write to it is an access fault that changes nothing; no
write changes ARR_FENCE. -/
def Obligations.SpareMapAndFence : Prop :=
  ∀ (s : State) (who : BusWho) (pa n v hw b : Nat) (id : RegId), s.m.powered = true → inSlots pa n = false → regAt pa = some (id, b) →
    (id.reg = .arrSpareMap → who ≠ .cp →
      exec (.arrSpareMapWrite who pa n v hw) s = .next (s.setM { s.m with resp := .accessFault }) ∧
      exec (.registerWrite who pa n v hw) s = .next (s.setM { s.m with resp := .accessFault })) ∧
    (id.reg = .arrSpareMap → who = .cp → legalAccess 64 b n = true →
      exec (.arrSpareMapWrite who pa n v hw) s =
        .next (s.setM ((s.m.setReg id (s.m.wordAt who id b n v hw).new).answered id (w1cHit id b n v hw)))) ∧
    (id.reg = .arrFence → ∀ f ∈ id.reg.info.fields, ∀ i, f.lo ≤ i → i ≤ f.hi →
      (s.m.wordAt who id b n v hw).new.testBit i = (s.m.reg id).testBit i)

/-- R12, R13: an allowed read is answered with the bits read, write-only fields reading as zero; a field of type RC that the read
returns whole is cleared, and nothing else changes: not an RC field that is read in part, no other field, no other register. R14, R262:
a W1C bit that is written with 1 in the cycle in which the module sets it stays set, the collision is counted and recorded on the die
of the register, and an event that its block counts is counted there: for every register without a rule of its own, and any one bit.
Readings and choices of the model that it rests on: log 10, 11, 122. -/
def Obligations.ReadsReturnAndClear : Prop :=
  (∀ (s : State) (who : BusWho) (pa n b : Nat) (id : RegId), s.m.powered = true → inSlots pa n = false → regAt pa = some (id, b) →
     legalAccess id.reg.info.width b n = true → mayRead who id = true → s.m.unusedSnap id = false → s.m.regsSorted →
     ∃ t : State, exec (.rcCounterRead who pa n) s = .next t ∧
       t.m.resp = .ok ((s.m.reg id &&& accMask b n &&& (2 ^ 64 - 1 - id.reg.info.bitsOfAcc .wo)) / 2 ^ (8 * b)) ∧
       (∀ i, i < 64 → (t.m.reg id).testBit i = ((s.m.reg id).testBit i &&
         !id.reg.info.fields.any (fun f => f.acc == .rc && f.mask &&& accMask b n == f.mask && decide (f.lo ≤ i) && decide (i ≤ f.hi)))) ∧
       (∀ id' : RegId, id' ≠ id → t.m.reg id' = s.m.reg id') ∧
       t = s.setM { s.m with regs := t.m.regs, resp := t.m.resp }) ∧
  (∀ (s : State) (who : BusWho) (pa n v hw b k : Nat) (id : RegId), s.writes who pa n id b → s.m.regsSorted → id.reg ∉ ownRules →
     id.reg ≠ .syncW1cCollide → id.reg ≠ .syncW1cLast → k < 64 → w1cHit id b n v hw = 2 ^ k →
     ∃ t : State, exec (.registerWrite who pa n v hw) s = .next t ∧ (t.m.reg id).testBit k = true ∧
       t.m.get Fld.syncW1cCollide_collisions id.die =
         satN (Fld.syncW1cCollide_collisions.hi + 1 - Fld.syncW1cCollide_collisions.lo) (s.m.get Fld.syncW1cCollide_collisions id.die + 1) ∧
       t.m.rd .syncW1cLast id.die = (k * 2 ^ 48 + id.addr) % 2 ^ 64 ∧
       (∀ r j, (r, j) ∈ eventCnts id.reg k (Config.freeBits s.m.freeCtr) →
         t.m.rd r id.die j id.core = satN 64 (s.m.rd r id.die j id.core + 1)) ∧ t.pending = s.pending)

/-! ### The register rows -/

/-- The rows that store a configuration: under the conditions that each register's rule names, the register copy takes the written
value, the write is answered, and nothing else changes (R49, R79, R117, R123, R168, R212, R219, R224, R266, R308, R340, R383, R414).
Readings and choices of the model that it rests on: log 10, 138. -/
def Obligations.ConfigurationRowsStore : Prop :=
  ∀ (s : State) (who : BusWho) (pa n v hw b : Nat) (id : RegId), s.writes who pa n id b →
    let w := s.m.wordAt who id b n v hw
    let d := id.die
    let t : State := s.setM ((s.m.setReg id w.new).answered id (w1cHit id b n v hw))
    (id.reg = .ftTmrTgt → s.m.flag Fld.ftTmrCtl_enable d id.i = false → exec (.ftTmrTgtWrite who pa n v hw) s = .next t) ∧
    (id.reg = .hbmCfg → Fld.hbmCfg_ecc_mode.of w.new ≠ 3 → Fld.hbmCfg_ce_row_limit.of w.new ≠ 0 →
      exec (.hbmCfgWrite who pa n v hw) s = .next t) ∧
    (id.reg = .tguWdog → 16 ≤ Fld.tguWdog_wdog_log2.of w.new → Fld.tguWdog_wdog_log2.of w.new ≤ 30 →
      exec (.tguWdogWrite who pa n v hw) s = .next t) ∧
    (id.reg = .syncBarWdog → 16 ≤ Fld.syncBarWdog_wdog_log2.of w.new → Fld.syncBarWdog_wdog_log2.of w.new ≤ 30 →
      exec (.syncBarWdogWrite who pa n v hw) s = .next t) ∧
    (id.reg = .lqBase → s.m.flag Fld.lqCfg_enable d id.i = false →
      regionOk (Fld.lqBase_base.of w.new * 128) (128 * 2 ^ s.m.get Fld.lqCfg_log2_entries d id.i) = true →
      exec (.lqRingBaseWrite who pa n v hw) s = .next t) ∧
    (id.reg = .lqCringBase → s.m.flag Fld.lqCfg_enable d id.i = false →
      regionOk (Fld.lqCringBase_base.of w.new * 32) (32 * 2 ^ s.m.get Fld.lqCfg_log2_entries d id.i) = true →
      exec (.lqRingBaseWrite who pa n v hw) s = .next t) ∧
    (id.reg = .lqTail → (Fld.lqTail_tail.of w.new + 65536 - s.m.get Fld.lqHead_head d id.i) % 65536 ≤ 2 ^ s.m.get Fld.lqCfg_log2_entries d id.i →
      s.m.flag Fld.lqCfg_enable d id.i = true → (s.m.partOf d).any (fun p => p.low == d) = true →
      (s.m.partOf d).any (fun p => s.m.abortHeld p.slot) = false → exec (.lqTailWrite who pa n v hw) s = .next t) ∧
    (id.reg = .cqRingBase → (s.m.queue d id.core id.i).isEmpty = true → id.i < 3 →
      regionOk (Fld.cqRingBase_base.of w.new * 32) (32 * 2 ^ s.m.get Fld.cqRingCfg_log2_entries d id.i id.core) = true →
      exec (.cqRingWrite who pa n v hw) s = .next t) ∧
    (id.reg = .cqRingCfg → (s.m.queue d id.core id.i).isEmpty = true → id.i < 3 →
      Nat.log2 (queueDepth id.i) ≤ Fld.cqRingCfg_log2_entries.of w.new → Fld.cqRingCfg_log2_entries.of w.new ≤ 16 →
      regionOk (s.m.get Fld.cqRingBase_base d id.i id.core * 32) (32 * 2 ^ Fld.cqRingCfg_log2_entries.of w.new) = true →
      exec (.cqRingWrite who pa n v hw) s = .next t) ∧
    (id.reg = .cqColRingBase → (s.m.die d).colQ = [] →
      regionOk (Fld.cqRingBase_base.of w.new * 32) (32 * 2 ^ s.m.get Fld.cqColRingCfg_log2_entries d) = true →
      exec (.cqRingWrite who pa n v hw) s = .next t) ∧
    (id.reg = .cqColRingCfg → (s.m.die d).colQ = [] →
      Nat.log2 (queueDepth 3) ≤ Fld.cqRingCfg_log2_entries.of w.new → Fld.cqRingCfg_log2_entries.of w.new ≤ 16 →
      regionOk (s.m.get Fld.cqColRingBase_base d * 32) (32 * 2 ^ Fld.cqRingCfg_log2_entries.of w.new) = true →
      exec (.cqRingWrite who pa n v hw) s = .next t) ∧
    (id.reg = .arrCfg → 8 ≤ Fld.arrCfg_spill_log2.of w.new → Fld.arrCfg_spill_log2.of w.new ≤ 14 →
      Fld.arrCfg_a_resident.of w.new ≤ 7 → Fld.arrCfg_b_resident.of w.new ≤ 7 →
      (Fld.arrCfg_a_resident.of w.new = Fld.arrCfg_a_resident.of w.old ∧ Fld.arrCfg_b_resident.of w.new = Fld.arrCfg_b_resident.of w.old) ∨
        ((s.m.arr d id.core).openTiles = [] ∧ (s.m.arr d id.core).feed = []) →
      exec (.arrCfgWrite who pa n v hw) s = .next t) ∧
    (id.reg = .arrSpareMap → exec (.arrSpareMapWrite who pa n v hw) s = .next t) ∧
    (id.reg = .sumCtrl → Fld.sumCtrl_force.of w.new ≠ 3 → exec (.sumCtrlWrite who pa n v hw) s = .next t) ∧
    (id.reg = .sumTblBase → s.m.sumacBusy d = false →
      regionOk (Fld.sumTblBase_base.of w.new * 4096) (32 * s.m.get Fld.sumTblCfg_entries d) = true →
      exec (.sumTblWrite who pa n v hw) s = .next t) ∧
    (id.reg = .sumTblCfg → s.m.sumacBusy d = false →
      regionOk (s.m.get Fld.sumTblBase_base d * 4096) (32 * Fld.sumTblCfg_entries.of w.new) = true →
      exec (.sumTblWrite who pa n v hw) s = .next t) ∧
    (id.reg = .vecSrKey ∨ id.reg = .vecSrCtrLo ∨ id.reg = .vecSrCtrHi → s.m.flag Fld.vecStatus_busy d (c := id.core) = false →
      exec (.vecSrWrite who pa n v hw) s = .next t) ∧
    (id.reg = .vecSclBase → (List.range 32).any (fun c => (s.m.vec d c).run.isSome) = false →
      regionOk (Fld.vecSclBase_base.of w.new * 64) (64 * min (s.m.get Fld.vecSclCfg_entries d) 4096) = true →
      exec (.vecSclWrite who pa n v hw) s = .next t) ∧
    (id.reg = .vecSclCfg → (List.range 32).any (fun c => (s.m.vec d c).run.isSome) = false →
      regionOk (s.m.get Fld.vecSclBase_base d * 64) (64 * min (Fld.vecSclCfg_entries.of w.new) 4096) = true →
      exec (.vecSclWrite who pa n v hw) s = .next t) ∧
    (id.reg = .colGrpBase → (s.m.col d).ops = [] → s.m.get Fld.colGrpCfg_entries d ≤ 256 →
      regionOk (Fld.colGrpBase_base.of w.new * 4096) (64 * s.m.get Fld.colGrpCfg_entries d) = true →
      exec (.colGrpWrite who pa n v hw) s = .next t) ∧
    (id.reg = .colGrpCfg → (s.m.col d).ops = [] → Fld.colGrpCfg_entries.of w.new ≤ 256 →
      regionOk (s.m.get Fld.colGrpBase_base d * 4096) (64 * Fld.colGrpCfg_entries.of w.new) = true →
      exec (.colGrpWrite who pa n v hw) s = .next t) ∧
    (id.reg = .dcCfg → Fld.dcCfg_clove_mode.of w.new ≠ 3 → Fld.dcCfg_dc_pf_distance.of w.new ≤ 32 →
      exec (.dcCfgWrite who pa n v hw) s = .next t) ∧
    (id.reg = .dcL1Cfg → Fld.dcL1Cfg_pf_distance.of w.new ≠ 0 → exec (.dcL1CfgWrite who pa n v hw) s = .next t) ∧
    (id.reg = .dcPinQuota → Fld.dcPinQuota_quota.of w.new ≤ 1572864 → s.m.get Fld.dcPinUsed_used d ≤ Fld.dcPinQuota_quota.of w.new →
      exec (.dcPinQuotaWrite who pa n v hw) s = .next t) ∧
    (id.reg = .snapFqPtr → (Fld.snapFqPtr_head.of w.new + 2 ^ 32 - Fld.snapFqPtr_head.of w.old) % 2 ^ 32 ≤
        (s.m.get Fld.snapFqPtr_tail d + 2 ^ 32 - Fld.snapFqPtr_head.of w.old) % 2 ^ 32 →
      exec (.snapFqHeadWrite who pa n v hw) s = .next t) ∧
    (id.reg = .snapFqCfg → s.m.flag Fld.snapFqCfg_enable d = false ∨ Fld.snapFqCfg_enable.of w.new = 0 → 6 ≤ Fld.snapFqCfg_log2_entries.of w.new →
      Fld.snapFqCfg_log2_entries.of w.new ≤ 16 →
      regionOk (s.m.get Fld.snapFqBase_base d * 64) (64 * 2 ^ Fld.snapFqCfg_log2_entries.of w.new) = true →
      exec (.snapFqCfgWrite who pa n v hw) s = .next t) ∧
    (id.reg = .snapFqCfg → Fld.snapFqCfg_enable.of w.new = 0 → exec (.snapFqCfgWrite who pa n v hw) s = .next t) ∧
    (id.reg = .snapFqBase → s.m.flag Fld.snapFqCfg_enable d = false → 6 ≤ s.m.get Fld.snapFqCfg_log2_entries d →
      s.m.get Fld.snapFqCfg_log2_entries d ≤ 16 →
      regionOk (Fld.snapFqBase_base.of w.new * 64) (64 * 2 ^ s.m.get Fld.snapFqCfg_log2_entries d) = true →
      exec (.snapFqCfgWrite who pa n v hw) s = .next t) ∧
    (id.reg = .pwrNutCfg → Fld.pwrNutCfg_floor_pct.of w.new ≤ 100 → Fld.pwrNutCfg_taper_ms.of w.new ≠ 0 →
      Fld.pwrNutCfg_grid_us.of w.new ≠ 0 → exec (.pwrNutWrite who pa n v hw) s = .next { t with m := t.m.nutmegAll }) ∧
    (id.reg ∈ [Reg.pwrNutDslot, .pwrNutMslot, .pwrNutGrp, .pwrNutProf] → exec (.pwrNutWrite who pa n v hw) s =
      .next { t with m := t.m.nutmegAll })

/-- The rows whose write does something more than store: under the conditions that each register's rule names, what the write starts,
applies or stores (R33, R35, R47, R49, R135, R163, R165, R216, R238, R241, R304, R305, R317, R352, R366, R407, R427, R481, R503, R508).
Readings and choices of the model that it rests on: log 10, 36, 78, 93. -/
def Obligations.ActingRegisterRows : Prop :=
  ∀ (s : State) (who : BusWho) (pa n v hw b : Nat) (id : RegId), s.writes who pa n id b →
    let w := s.m.wordAt who id b n v hw
    let d := id.die
    let t (m : Mach) : State := s.setM (m.answered id (w1cHit id b n v hw))
    (id.reg = .ftCtrl → d ≠ 0 ∨ Fld.ftCtrl_role.of w.old = Fld.ftCtrl_role.of w.new →
      exec (.ftCtrlWrite who pa n v hw) s = .next (t (s.m.setReg id w.new))) ∧
    (id.reg = .ftCtrl → d = 0 → Fld.ftCtrl_role.of w.old ≠ 1 → Fld.ftCtrl_role.of w.new = 1 → s.m.mt.gm = false →
      exec (.ftCtrlWrite who pa n v hw) s = .next (t (s.m.setReg id w.new).gmTake)) ∧
    (id.reg = .ftCtrl → d = 0 → Fld.ftCtrl_role.of w.old ≠ Fld.ftCtrl_role.of w.new →
      Fld.ftCtrl_role.of w.new = 0 ∨ Fld.ftCtrl_role.of w.new = 3 → s.m.mt.gm = true →
      exec (.ftCtrlWrite who pa n v hw) s = .next (t ((s.m.setReg id w.new).gmLeave true))) ∧
    (id.reg = .ftTmrCtl → Fld.ftTmrCtl_enable.of w.new ≠ 1 → exec (.ftTmrCtlWrite who pa n v hw) s =
      .next (t ((s.m.setReg id w.new).modTime d (fun x => { x with lateArmed := setBits x.lateArmed id.i id.i 0 })))) ∧
    (id.reg = .ftTmrCtl → Fld.ftTmrCtl_enable.of w.new = 1 → Fld.ftTmrCtl_enable.of w.old ≠ 1 →
      actionPermitted id.i (Fld.ftTmrCtl_action.of w.new) = true → exec (.ftTmrCtlWrite who pa n v hw) s =
      .next (t (let m := s.m.setReg id w.new
        if m.rd .ftTmrTgt d id.i < m.ft d ∨ (m.rd .ftTmrTgt d id.i = m.ft d ∧ (m.time d).frac ≠ 0) then
          (m.modTime d (fun x => { x with lateArmed := setBits x.lateArmed id.i id.i 1 })).timerFire d id.i
        else m.modTime d (fun x => { x with lateArmed := setBits x.lateArmed id.i id.i 0 })))) ∧
    (id.reg = .cfgXlatInv → Fld.cfgXlatInv_go.of w.raw = 1 → (s.m.partOf d).any (fun p => p.low == d) = true →
      s.m.flag Fld.cfgXlatInv_busy d = false → Fld.cfgXlatInv_scope.of w.raw = Fld.cfgXlatInv_scope.of w.new →
      (Fld.cfgXlatInv_scope.of w.raw = 0 → exec (.xlatInvPage who pa n v hw) s =
        .next (t ((s.m.setReg id (Fld.cfgXlatInv_go.into w.new 0)).put Fld.cfgXlatInv_busy d 1))) ∧
      (Fld.cfgXlatInv_scope.of w.raw = 1 → exec (.xlatInvPartition who pa n v hw) s =
        .next (t ((s.m.setReg id (Fld.cfgXlatInv_go.into w.new 0)).put Fld.cfgXlatInv_busy d 1)))) ∧
    (id.reg = .lqCfg → 4 ≤ Fld.lqCfg_log2_entries.of w.new → Fld.lqCfg_log2_entries.of w.new ≤ 12 → s.m.flag Fld.lqCfg_enable d id.i = false →
      lqRegionsOk (s.m.get Fld.lqBase_base d id.i) (s.m.get Fld.lqCringBase_base d id.i) (Fld.lqCfg_log2_entries.of w.new) = true →
      exec (.lqCfgWrite who pa n v hw) s = .next (t (let m := s.m.setReg id w.new
        if Fld.lqCfg_enable.of w.new = 1 then m.put Fld.lqHead_head d (m.get Fld.lqTail_tail d id.i) id.i else m))) ∧
    (id.reg = .sumFold → Fld.sumFold_all.of w.raw = 0 → Fld.sumFold_entry.of w.raw < s.m.get Fld.sumTblCfg_entries d →
      exec (.sumFoldEntry who pa n v hw) s = .next (t (s.m.foldEntry d (Fld.sumFold_entry.of w.raw)))) ∧
    (id.reg = .sumFold → Fld.sumFold_all.of w.raw = 1 → exec (.sumFoldAll who pa n v hw) s =
      .next (t ((List.range (s.m.get Fld.sumTblCfg_entries d)).foldl (fun m i => m.foldEntry d i) s.m))) ∧
    (id.reg = .vecStepPend → exec (.stepPendWrite who pa n v hw) s = .next (t (let m := (s.m.setReg id w.new).modDie d (fun x => { x with
        pend := if x.pend.any (fun p => p.1 == id.i) then x.pend else x.pend ++ [(id.i, BitVec.ofNat 64 (s.m.rd .vecStepPend d id.i))],
        pendFor := if id.i = 0 ∧ s.m.rd .vecStepAct d 24 < w.new then x.pendFor ++ [BitVec.ofNat 64 w.new] else x.pendFor })
      if id.i = 0 ∧ w.new ≤ m.rd .vecStepAct d 24 then (m.bump Fld.vecStepLate_late d).ev Fld.vecDieEvents_late d else m))) ∧
    (id.reg = .snapUpdDone → exec (.snapUpdDoneWrite who pa n v hw) s =
      .next (t ((s.m.setReg id w.new).modDie d (fun x => { x with updWas := some (x.updWas.getD w.old) })))) ∧
    (id.reg = .lqTail → (Fld.lqTail_tail.of w.new + 65536 - s.m.get Fld.lqHead_head d id.i) % 65536 ≤ 2 ^ s.m.get Fld.lqCfg_log2_entries d id.i →
      s.m.flag Fld.lqCfg_enable d id.i = true → (s.m.partOf d).any (fun p => p.low == d) = true →
      (s.m.partOf d).any (fun p => s.m.abortHeld p.slot) = true → exec (.lqTailWrite who pa n v hw) s =
      .next (t (((s.m.setReg id w.new).put Fld.lqHead_head d (Fld.lqTail_tail.of w.new) id.i).put Fld.lqHead_done d (Fld.lqTail_tail.of w.new) id.i))) ∧
    (id.reg = .mbxRspHead → (Fld.mbxRspHead_count.of w.new + 2 ^ 16 - Fld.mbxRspHead_count.of w.old) % 2 ^ 16 ≤
        (s.m.get Fld.mbxRspTail_count sdDie id.i + 2 ^ 16 - Fld.mbxRspHead_count.of w.old) % 2 ^ 16 →
      exec (.mbxRspHeadWrite who pa n v hw) s = .next (t (
        let moved := (Fld.mbxRspHead_count.of w.new + 2 ^ 16 - Fld.mbxRspHead_count.of w.old) % 2 ^ 16
        let read (a : Nat × Nat × Nat) : Bool := a.2.1 == id.i && decide ((a.2.2 + 2 ^ 16 - Fld.mbxRspHead_count.of w.old) % 2 ^ 16 < moved)
        { s.m.setReg id w.new with cp := { s.m.cp with abortRead := s.m.cp.abortRead.filter (fun a => !read a) } }))) ∧
    (id.reg = .colResume → s.m.flag Fld.colCfg_t16_compat d = true → bitsOf w.raw 7 0 < s.m.get Fld.colGrpCfg_entries d →
      gBroken (s.m.groupEntry d (bitsOf w.raw 7 0)).2 = true → (s.m.groupEntry d (bitsOf w.raw 7 0)).1.colOp d (bitsOf w.raw 7 0) = none →
      exec (.colResumeWrite who pa n v hw) s = .next (s.setM (
        let x := s.m.groupEntry d (bitsOf w.raw 7 0)
        ((x.1.modCol d (fun c => { c with held := c.held.filter (fun y => !(y.group == bitsOf w.raw 7 0 && y.gen != gGen x.2)) })).answered id
          (w1cHit id b n v hw)).nutmegAll))) ∧
    (id.reg = .syncCtr → w.reaches Fld.syncCtr_value = true → exec (.syncCtrWrite who pa n v hw) s =
      .next (t ((s.m.setReg id (Fld.syncCtr_value.into w.new (Fld.syncCtr_value.of w.old))).ctrApply d id.i .set
        (Fld.syncCtr_value.of w.new) 2 srcOther).1)) ∧
    (id.reg = .syncCtrAdd → exec (.syncCtrAddWrite who pa n v hw) s =
      .next (t (s.m.ctrApply d id.i .add (Fld.syncCtrAdd_amount.of w.raw) 0 srcOther).1)) ∧
    (id.reg = .syncCtrSub → exec (.syncCtrSubWrite who pa n v hw) s =
      .next (t (s.m.ctrApply d id.i .sub (Fld.syncCtrSub_amount.of w.raw) 1 srcOther).1)) ∧
    (id.reg = .syncCtrArm → exec (.syncCtrArmWrite who pa n v hw) s =
      .next (t (s.m.ctrArm d id.i (Fld.syncCtrArm_armed.of w.new = 1) (Fld.syncCtrArm_expect.of w.new)))) ∧
    (id.reg = .syncBarCfg ∨ id.reg = .syncMbarCfg → s.m.slotHasArrival d (decide (id.reg = .syncMbarCfg)) id.i = false →
      Fld.syncBarCfg_core_mask.of w.new ≠ 0 → exec (.syncBarCfgWrite who pa n v hw) s = .next (t (
        let m := s.m.setReg id w.new
        if Fld.syncBarCfg_enable.of w.new = 1 ∧ Fld.syncBarCfg_enable.of w.old ≠ 1 then
          (m.setSlotSt d (decide (id.reg = .syncMbarCfg)) id.i SlotSt.init).wr (slotStatusReg (decide (id.reg = .syncMbarCfg))) d 0 id.i
        else m))) ∧
    (∀ p, id.reg = .dcPinCmd → s.m.partOf d = some p → p.low = d → s.m.flag Fld.dcPinStatus_busy d = false → bitsOf w.mask 1 0 ≠ 0 →
      let go (op : Nat) : Mach := (((s.m.setReg id w.new).put Fld.dcPinStatus_busy d 1).modCache d (fun c =>
        { c with pinOp := op, pinLeft := Fld.dcPinCmd_lines.of w.new,
                 pinVa := ((s.m.setReg id w.new).put Fld.dcPinStatus_busy d 1).get Fld.dcPinVa_va d * 128,
                 pinDone := 0, pinReason := 0 })).pinLines d p op (Fld.dcPinCmd_lines.of w.new)
      (Fld.dcPinCmd_op.of w.raw = 1 → exec (.dcPinCmdPin who pa n v hw) s = .next (t (go 1))) ∧
      (Fld.dcPinCmd_op.of w.raw = 2 → exec (.dcPinCmdUnpin who pa n v hw) s = .next (t (go 2)))) ∧
    (id.reg = .dcDeadCtl → Fld.dcDeadCtl_declare.of w.raw = 1 → Fld.dcDeadCtl_cancel.of w.raw = 0 →
      s.m.flag Fld.dcDeadCtl_active d id.i = false →
      exec (.deadRangeDeclare who pa n v hw) s = .next (t ((s.m.setReg id (Fld.dcDeadCtl_len.into w.new (Fld.dcDeadCtl_len.of w.new))).deadDeclare d id.i))) ∧
    (id.reg = .dcDeadCtl → Fld.dcDeadCtl_declare.of w.raw = 0 → Fld.dcDeadCtl_cancel.of w.raw = 1 →
      s.m.flag Fld.dcDeadCtl_active d id.i = true →
      exec (.deadRangeCancel who pa n v hw) s = .next (t ((s.m.setReg id (Fld.dcDeadCtl_len.into w.new (Fld.dcDeadCtl_len.of w.old))).deadCancelNow d id.i))) ∧
    (id.reg = .fabPortCtl → Fld.fabPortCtl_disable.of w.new = 1 → (s.m.setReg id w.new).portState d id.i ≠ psDisabled →
      exec (.fabPortCtlWrite who pa n v hw) s = .next (t ((s.m.setReg id w.new).portDown d id.i psDisabled))) ∧
    (id.reg = .fabPortCtl → Fld.fabPortCtl_disable.of w.new = 0 → (s.m.setReg id w.new).portState d id.i = psDisabled →
      exec (.fabPortCtlWrite who pa n v hw) s = .next (t (((s.m.setReg id w.new).put Fld.fabPortStatus_state d psDark id.i).portWake d id.i))) ∧
    (id.reg = .fabRouteCtl → Fld.fabRouteCtl_arm.of w.old ≠ 1 → Fld.fabRouteCtl_arm.of w.new = 1 →
      Fld.fabRouteCtl_pend_epoch.of w.new = (Fld.fabRouteCtl_epoch.of w.old + 1) % 2 ^ 16 →
      exec (.fabRouteCtlWrite who pa n v hw) s = .next (t (let m := s.m.setReg id w.new
        let late := decide (m.rd .fabRouteSwitch d < m.ft d)
        let m := m.modFab d (fun x => { x with armedLate := late })
        if late then m.put Fld.fabRouteCtl_switch_late d 1 else m))) ∧
    (id.reg = .mbxReqTail → (Fld.mbxReqTail_tail.of w.new + 2 ^ 16 - s.m.mbxHead id.i) % 2 ^ 16 ≤ 16 →
      exec (.mbxReqTailWrite who pa n v hw) s = .next (t (let m := s.m.setReg id w.new
        let old := Fld.mbxReqTail_tail.of w.old
        let ahead := (Fld.mbxReqTail_tail.of w.new + 2 ^ 16 - s.m.mbxHead id.i) % 2 ^ 16
        let kept (b : Nat × Nat) : Bool := b.1 != id.i || decide ((b.2 + 2 ^ 16 - s.m.mbxHead id.i) % 2 ^ 16 < ahead)
        let new := (List.range (ahead - (old + 2 ^ 16 - s.m.mbxHead id.i) % 2 ^ 16)).map (fun i => (id.i, (old + i) % 2 ^ 16))
        { m with cp := { m.cp with bells := m.cp.bells.filter kept ++ new, doomed := m.cp.doomed.filter kept } })))

/-- A write that a register's rule turns away leaves the register as it is and sets the event bit that the rule names, and nothing else
changes (R117, R123, R168, R194, R224, R266, R302, R340, R381, R416, R481, R508). R163: a write to the active page completes with an
access fault and changes nothing, whoever writes and in whatever form: that fault is STEP_ACT_WRITE's effect. Readings and choices of
the model that it rests on: log 10, 15, 93, 122. -/
def Obligations.TurnedAwayWritesSetTheirEvent : Prop :=
  (∀ (s : State) (who : BusWho) (pa n v hw b : Nat) (id : RegId), s.writes who pa n id b →
     let w := s.m.wordAt who id b n v hw
     let d := id.die
     let t (f : Fld) (i c : Nat) : State := s.setM (s.m.turnedAway id (w1cHit id b n v hw) f i c)
     (id.reg = .ftTmrTgt → s.m.flag Fld.ftTmrCtl_enable d id.i = true → exec (.ftTmrTgtWrite who pa n v hw) s = .next (t Fld.ftTmrCtl_arm_err id.i 0)) ∧
     (id.reg = .ftTmrCtl → Fld.ftTmrCtl_enable.of w.new = 1 → actionPermitted id.i (Fld.ftTmrCtl_action.of w.new) = false →
       exec (.ftTmrCtlWrite who pa n v hw) s = .next (t Fld.ftTmrCtl_arm_err id.i 0)) ∧
     (id.reg = .arrCfg → Fld.arrCfg_spill_log2.of w.new < 8 ∨ 14 < Fld.arrCfg_spill_log2.of w.new →
       exec (.arrCfgWrite who pa n v hw) s = .next (t Fld.arrEvents_cfg_err 0 id.core)) ∧
     (id.reg = .sumCtrl → Fld.sumCtrl_force.of w.new = 3 → exec (.sumCtrlWrite who pa n v hw) s = .next (t Fld.sumEvents_cfg_err 0 id.core)) ∧
     (id.reg = .sumFold → Fld.sumFold_all.of w.raw = 0 → s.m.get Fld.sumTblCfg_entries d ≤ Fld.sumFold_entry.of w.raw →
       exec (.sumFoldEntry who pa n v hw) s = .next (t Fld.sumDieEvents_fold_err 0 0)) ∧
     (id.reg = .tguWdog → Fld.tguWdog_wdog_log2.of w.new < 16 ∨ 30 < Fld.tguWdog_wdog_log2.of w.new →
       exec (.tguWdogWrite who pa n v hw) s = .next (t Fld.tguDieEvents_cfg_err 0 0)) ∧
     (id.reg = .lqTail → s.m.flag Fld.lqCfg_enable d id.i = false → exec (.lqTailWrite who pa n v hw) s = .next (t Fld.cqDieEvents_lq_err 0 0)) ∧
     (id.reg = .dcCfg → Fld.dcCfg_clove_mode.of w.new = 3 → exec (.dcCfgWrite who pa n v hw) s = .next (t Fld.dcEvents_cfg_err 0 0)) ∧
     (id.reg = .hbmCfg → Fld.hbmCfg_ecc_mode.of w.new = 3 → exec (.hbmCfgWrite who pa n v hw) s = .next (t Fld.hbmEvents_cfg_err 0 id.core)) ∧
     (id.reg = .fabRouteCtl → Fld.fabRouteCtl_arm.of w.new = 1 →
       Fld.fabRouteCtl_pend_epoch.of w.new ≠ (Fld.fabRouteCtl_epoch.of w.old + 1) % 2 ^ 16 →
       exec (.fabRouteCtlWrite who pa n v hw) s = .next (t Fld.fabEvents_cfg_err 0 0))) ∧
  (∀ (s : State) (who : BusWho) (pa n v hw b : Nat) (id : RegId), s.m.powered = true → inSlots pa n = false → regAt pa = some (id, b) →
     id.reg = .vecStepAct →
     exec (.stepActWrite who pa n v hw) s = .next (s.setM { s.m with resp := .accessFault }) ∧
       exec (.registerWrite who pa n v hw) s = .next (s.setM { s.m with resp := .accessFault }))

/-- R168. A write to the generator's key or counter while the vector engine is busy, and a write to the scale table's base or size
while a vector descriptor of the die runs, is ignored and sets `cfg_err` of the core or of the die. -/
def Obligations.VectorRegistersWhileBusy : Prop :=
  ∀ (s : State) (who : BusWho) (pa n v hw b : Nat) (id : RegId), s.writes who pa n id b →
    let d := id.die
    (id.reg = .vecSrKey ∨ id.reg = .vecSrCtrLo ∨ id.reg = .vecSrCtrHi → s.m.flag Fld.vecStatus_busy d (c := id.core) = true →
      exec (.vecSrWrite who pa n v hw) s = .next (s.setM (s.m.turnedAway id (w1cHit id b n v hw) Fld.vecEvents_cfg_err 0 id.core))) ∧
    (id.reg = .vecSclBase ∨ id.reg = .vecSclCfg → (∃ c, c < 32 ∧ (s.m.vec d c).run.isSome = true) →
      exec (.vecSclWrite who pa n v hw) s = .next (s.setM (s.m.turnedAway id (w1cHit id b n v hw) Fld.vecDieEvents_cfg_err 0 0)))

/-- R481. A write to MBX_REQ_TAIL that would put more than 16 requests in the ring is ignored and sets `doorbell_err`; on mailbox 31 a
write by anyone but the MC is an access fault. R508. A write to MBX_RSP_HEAD that would pass MBX_RSP_TAIL is ignored and sets
`rsp_err`. Readings and choices of the model that it rests on: log 93. -/
def Obligations.MailboxLimits : Prop :=
  ((∀ (s : State) (who : BusWho) (pa n v hw b : Nat) (id : RegId), s.writes who pa n id b → id.reg = .mbxReqTail → id.die = sdDie →
     16 < (Fld.mbxReqTail_tail.of (s.m.wordAt who id b n v hw).new + 2 ^ 16 - s.m.mbxHead id.i) % 2 ^ 16 →
     exec (.mbxReqTailWrite who pa n v hw) s =
       .next (s.setM (s.m.turnedAway id (w1cHit id b n v hw) Fld.mbxEvents_doorbell_err id.i 0))) ∧
   (∀ (s : State) (who : BusWho) (pa n v hw b : Nat) (id : RegId), s.m.powered = true → inSlots pa n = false → regAt pa = some (id, b) →
     id.reg = .mbxReqTail → id.i = 31 → who ≠ .mc →
     exec (.mbxReqTailWrite who pa n v hw) s = .next (s.setM { s.m with resp := .accessFault }))) ∧
  (∀ (s : State) (who : BusWho) (pa n v hw b : Nat) (id : RegId), s.writes who pa n id b → id.reg = .mbxRspHead → id.die = sdDie →
     let w := s.m.wordAt who id b n v hw
     (s.m.get Fld.mbxRspTail_count sdDie id.i + 2 ^ 16 - Fld.mbxRspHead_count.of w.old) % 2 ^ 16 <
       (Fld.mbxRspHead_count.of w.new + 2 ^ 16 - Fld.mbxRspHead_count.of w.old) % 2 ^ 16 →
     exec (.mbxRspHeadWrite who pa n v hw) s = .next (s.setM (s.m.turnedAway id (w1cHit id b n v hw) Fld.mbxEvents_rsp_err id.i 0)))

/-! ### Start-up and the boundary (spec/17, spec/18) -/

/-- R511, R514 to R521, R111, R112, R320: each start-up phase, when the module is in it: what it does when it passes, and the failure
that Table 17.2 gives when it does not. R514: a phase that fails writes its code, asserts FAULT_N and holds the dies; outside phase
0x01 start-up stops where it is, and in phase 0x01 recovery follows (R518). Readings and choices of the model that it rests on: log 6,
8, 99, 100, 101, 146. -/
def Obligations.StartUpPhases : Prop :=
  (∀ s : State, s.m.powered = true →
     (s.m.inPhase 1 = true → s.m.sec.hung = false → exec .imageVerification s = .next (s.setM (
       if s.m.verifyImage = 0 then (s.m.showImage.deriveIdentity).endPhase 1 3 else s.m.bootFail s.m.verifyImage))) ∧
     (s.m.inPhase 2 = true → s.m.sec.hung = false → exec (.recovery none) s = .next (s.setM (s.m.bootFail 0x06))) ∧
     (∀ bs : List Byte, s.m.inPhase 2 = true → s.m.sec.hung = false → exec (.recovery (some bs)) s = .next (s.setM (
       let slot := ((bs.take 0x4000000).mapIdx (fun i b => (i, b))).filter (fun x => x.2 != 0#8)
       let m : Mach := { s.m with perm := { s.m.perm with image := slot } }
       if m.verifyImage = 0 then ((m.showImage.deriveIdentity).put Fld.bootStatus_recovery sdDie 1).endPhase 2 3 else m.bootFail 0x07))) ∧
     (s.m.inPhase 3 = true → s.m.sec.hung = false → exec (.release true) s = .next (s.setM (
       let als := kmac (s.m.sec.cdi1.getD []) ((s.m.sec.meas.drop 1).flatMap id) "KTM32 ALIAS"
       let cert := certificate (s.m.sec.fwSeed.getD []) (mldsaPublic als) [] (toBytes 32 (Config.freeBits s.m.freeCtr))
       let m : Mach := { s.m.tickFree with sec := { s.m.sec with aliasSeed := some als, aliasCert := cert, fwSeed := none },
                                           pins := { s.m.pins with mcUp := true, held := false }, cp := { s.m.cp with up := true } }
       let m := (List.range 8).foldl (fun m d => m.showShare d) m
       (m.put Fld.secStatus_attest_ready sdDie 1).endPhase 3 4))) ∧
     (s.m.inPhase 3 = true → s.m.sec.hung = false → exec (.release false) s = .next (s.setM (s.m.bootFail 0x08))) ∧
     (s.m.inPhase 4 = true → exec (.fuseLoad true) s = .next (s.setM (
       (allCores.foldl (fun m x => m.wr .arrSpareMap x.1
         (Fld.arrSpareMap_lock.into (smGet noSpare m.perm.spare (coreKey x.1 x.2)).toNat 0) 0 x.2) s.m).endPhase 4 5))) ∧
     (s.m.inPhase 4 = true → exec (.fuseLoad false) s = .next (s.setM (s.m.bootFail 0x10))) ∧
     (∀ (eyes : List (List StackEye)) (gd left : List Nat) (r g : Nat), s.m.inPhase 5 = true →
       (List.range 4).find? (fun i => stacksPass (eyes.getD i [])) = some r → (List.range 3).find? (fun i => gd.getD i 1 == 0) = some g →
       exec (.memoryTraining eyes gd (some left)) s = .next (s.setM (
       ((((List.range 8).foldl (fun m d => (List.range 4).foldl (fun m k => m.put Fld.hbmStatus_rate d (4 - r) (c := k)) m) s.m).reapplyRepairs left).put
         Fld.gdStatus_rate sdDie (3 - g)).endPhase 5 6))) ∧
     (∀ (eyes : List (List StackEye)) (gd left : List Nat), s.m.inPhase 5 = true →
       exec (.memoryTraining eyes gd none) s = .next (s.setM (s.m.bootFail 0x22)) ∧
       ((∀ i, i < 4 → stacksPass (eyes.getD i []) = false) → exec (.memoryTraining eyes gd (some left)) s = .next (s.setM (s.m.bootFail 0x20))) ∧
       ((∃ i, i < 4 ∧ stacksPass (eyes.getD i []) = true) → (∀ i, i < 3 → gd.getD i 1 ≠ 0) →
         exec (.memoryTraining eyes gd (some left)) s = .next (s.setM (s.m.bootFail 0x21)))) ∧
     (∀ rs : List SelfTestCore, s.m.inPhase 6 = true → exec (.selfTest rs) s = .next (s.setM (
       let m := allCores.foldl (fun m x => m.put Fld.arrSpareMap_lock x.1 1 0 x.2) (rs.foldl (fun m t => m.selfTestCore t) s.m)
       if (List.range 8).any (fun d => (List.range 32).all (fun c => m.fenced d c)) then m.bootFail 0x30 else (m.endPhase 6 7).lightUp))) ∧
     (s.m.inPhase 7 = true → exec (.fabricBringUp none) s = .next (s.setM (s.m.endPhase 7 8))) ∧
     (∀ node dims : Nat, s.m.inPhase 7 = true → exec (.fabricBringUp (some (node, dims))) s = .next (s.setM (
       ((s.m.cfgApply [] 0x0002 (cfgClamp 0x0002 0 0x1FF dims)).cfgApply [] 0x0001 (node % 2 ^ 14)).endPhase 7 8))) ∧
     (let perst := some (Config.freeBits s.m.freeCtr % 2 == 1)
      (s.m.inPhase 8 = true → exec .loaderEntry s = .next (s.setM (
       let svn := if s.m.imageNum 7 1 % 2 = 1 ∧ s.m.sec.hung = false then max s.m.perm.svn (s.m.imageNum 8 4) else s.m.perm.svn
       let m : Mach :=
         { s.m.tickFree with perm := { s.m.perm with svn }, pins := { s.m.pins with acRun := true, pcie := .linkUp, perst } }
       (m.put Fld.bootStatus_svn_fused sdDie svn).endPhase 8 0xF))) ∧
      (s.m.inPhase 0xF = true → s.m.pins.acRun = true → s.m.pins.withdrawn = false → exec .loaderEntry s =
       .next (s.setM { s.m.tickFree with pins := { s.m.pins with perst } }))) ∧
     (∀ k ms, s.m.bootPhase = k → phaseMax k = some ms → s.m.inPhase k = true →
       ((List.range 16).map (fun i => s.m.rd .bootPhaseUs sdDie i)).foldl max 0 + 1000 * ms < s.m.bootUs →
       exec .phaseTimeout s = .next (s.setM (s.m.tickFree.bootFail (timeoutCode k (Config.freeBits s.m.freeCtr)))))) ∧
  (∀ (m : Mach) (code : Nat), m.regsSorted → code < 256 →
     (m.bootFail code).pins.fault = true ∧ (m.bootFail code).pins.held = true ∧ (m.bootFail code).dataPlane = false ∧
       (m.bootFail code).get Fld.bootStatus_fail sdDie = code ∧
       (m.bootPhase ≠ 1 → (m.bootFail code).sec.stopped = true ∧ (m.bootFail code).bootPhase = m.bootPhase) ∧
       (m.bootFail code).pins.acRun = false ∧ (m.bootFail code).pins.pcie = .idle ∧ (m.pins.mcUp = true → (m.bootFail code).pins.mcUp = true) ∧
       (m.bootPhase = 1 → (m.bootFail code).sec.stopped = false ∧ (m.bootFail code).bootPhase = 2 ∧
         (m.sec.hung = false → (m.bootFail code).pins.mcUp = true)))

/-- The rows of the boundary and of attestation: the rails of an input out of tolerance, I3C addresses, the debug port, reports and
certificates (R522, R526, R530, R540, R542). Readings and choices of the model that it rests on: log 6, 7, 24, 90, 101, 103, 104. -/
def Obligations.BoundaryRows : Prop :=
  ∀ s : State, s.m.powered = true →
    (exec .supplyOutOfTolerance s = .next (s.setM (
      let m := s.m.withdraw 4 0
      { m with pins := { m.pins with railsUp := false, held := true } }))) ∧
    (∀ mv, mv < 36000 ∨ (63000 < mv ∧ mv ≤ 65000) → exec (.supplyLoss mv) s = .next (s.setM s.m.goSilent.unpowered)) ∧
    (∀ a : Fin 128, s.m.pins.mcUp = true → s.m.pins.i3c = none → exec (.i3cEntdaa a) s =
      .next (s.setM { s.m with pins := { s.m.pins with i3c := some a.val } })) ∧
    (∀ a : Fin 128, s.m.pins.mcUp = true → s.m.pins.i3c = none → exec (.i3cSetdasa 0x2A a) s =
      .next (s.setM { s.m with pins := { s.m.pins with i3c := some a.val } })) ∧
    (∀ st a : Fin 128, st ≠ 0x2A → exec (.i3cSetdasa st a) s = .next s) ∧
    (∀ tck tms tdi trst, s.m.debugOpen = false → exec (.debugPortAccess tck tms tdi trst) s =
      .next (s.setM { s.m with pins := { s.m.pins with tdo := none } })) ∧
    (∀ tck tms tdi, s.m.debugOpen = true → exec (.debugPortAccess tck tms tdi false) s =
      .next (s.setM { s.m with pins := { s.m.pins with tap := .testLogicReset, tck, tdo := none } })) ∧
    (∀ tms tdi, s.m.debugOpen = true → s.m.pins.tck = false → ∃ t : State, exec (.debugPortAccess true tms tdi true) s = .next t ∧
      t.m.pins.tap = tapNext s.m.pins.tap tms ∧ t.m.pins.tck = true ∧
      (t.m.pins.tdo.isSome = true ↔ t.m.pins.tap = .shiftDr ∨ t.m.pins.tap = .shiftIr) ∧ t.m.regs = s.m.regs) ∧
    (∀ relay nonce, s.m.attests = true → s.m.sec.asked = [] →
      (s.m.flag Fld.secStatus_taint sdDie = false → exec (.attestationReport relay nonce 0) s = .next (s.setM (
        let head := s.m.reportHead nonce
        let sig := mldsaSign (s.m.sec.aliasSeed.getD []) head (toBytes 32 (Config.freeBits s.m.freeCtr))
        s.m.tickFree.send 0x50 [relay, 0, ofBytes (head ++ sig)]))) ∧
      (s.m.flag Fld.secStatus_taint sdDie = true → exec (.attestationReport relay nonce 0) s = .next (s.setM (
        s.m.send 0x50 [relay, 0, ofBytes (s.m.reportHead nonce ++ List.replicate 2420 0#8)])))) ∧
    (∀ relay, s.m.attests = true → s.m.sec.asked = [] → exec (.attestationCertificates relay 0) s = .next (s.setM (
      if s.m.flag Fld.secStatus_taint sdDie then s.m.send 0x50 [relay, 1, ofBytes s.m.perm.devCert]
      else s.m.send 0x50 [relay, 1, ofBytes s.m.perm.devCert, ofBytes s.m.sec.fwCert, ofBytes s.m.sec.aliasCert]))) ∧
    (∀ relay nonce waiting, s.m.attests = true → s.m.sec.asked.length ≤ 4 →
      (let m : Mach := { s.m with sec := { s.m.sec with asked := s.m.sec.asked ++ [⟨relay, some nonce, s.m.pmu sdDie⟩] } }
       exec (.attestationReport relay nonce waiting) s = .next (s.setM (m.attestServe (s.m.sec.asked.length + 1 - waiting)))) ∧
      (let m : Mach := { s.m with sec := { s.m.sec with asked := s.m.sec.asked ++ [⟨relay, none, s.m.pmu sdDie⟩] } }
       exec (.attestationCertificates relay waiting) s = .next (s.setM (m.attestServe (s.m.sec.asked.length + 1 - waiting))))) ∧
    (∀ relay nonce waiting, s.m.attests = true → 4 < s.m.sec.asked.length →
      exec (.attestationReport relay nonce waiting) s = .next (s.setM (s.m.attestBusy relay)) ∧
      exec (.attestationCertificates relay waiting) s = .next (s.setM (s.m.attestBusy relay)))

/-! ### Fabric time (spec/02) -/

/-- The rows of fabric time and of the timers, each when it is due (R27, R30, R31, R33, R37, R38, R43, R46, R538). R37, R553: a backup
grandmaster that has heard no message of the current epoch for 1 ms takes the role, announces the epoch plus 1 at hop count 0 under its
own node, is LOCKED, and continues its own count without a step; then the other dies choose their sources. Readings and choices of the
model that it rests on: log 6, 7, 8, 18, 19, 20, 21, 22, 109, 110, 111, 112, 131. -/
def Obligations.TimeRows : Prop :=
  ((∀ s : State, s.m.powered = true → exec .ftCounterTick s = .next (s.setM (
     let m := (bitsSet (2 ^ 8 - 1) 8).foldl (fun m d => if m.dieRuns d then m.dieCycle d else m) (s.m.tickDie sdDie)
     (m.parts.foldl (fun m p => m.lateBoundary p) m).attestDue))) ∧
   (∀ (s : State) (d p : Fin 8), s.m.dieRuns d = true → s.m.silent = false →
     s.m.get Fld.fabPortStatus_state d p = 3 ∨ s.m.get Fld.fabPortStatus_state d p = 4 →
     smGet 0 (s.m.time d).lastSend p + 64000 ≤ s.m.ft d → exec (.timeMessageSend d p) s = .next (s.setM (
       (s.m.modTime d (fun t => { t with lastSend := smSet 0 t.lastSend p (s.m.ft d) })).send 0x02
         [d, p, s.m.ft d, s.m.get Fld.ftStatus_gm_node d, s.m.get Fld.ftStatus_time_epoch d, s.m.get Fld.ftStatus_hop_count d,
          s.m.rd .ftCivilOffset d]))) ∧
   (∀ (s : State) (d : Fin 9) (src : Nat) (t1 t2 t3 t4 : Int) (gm epoch hop : Nat) (valid : Bool) (off : W64), s.m.nineRuns d = true →
     let civil := if valid then some off else none
     (s.m.hears d src = false → exec (.timeMessageReceive d src t1 t2 t3 t4 gm epoch hop valid off) s = .next s) ∧
     (∀ g e h c, s.m.hears d src = true → s.m.message src gm epoch hop civil = (g, e, h, c) →
       let heard (m : Mach) : Mach := if src < 64 ∧ e = m.get Fld.ftStatus_time_epoch 0 then { m with mt := { m.mt with heardAt := m.pmu 0 } } else m
       let yields (m : Mach) : Mach := if m.gmBeaten src g e then m.gmLeave false else m
       (63 ≤ h → exec (.timeMessageReceive d src t1 t2 t3 t4 gm epoch hop valid off) s =
         .next (s.setM (heard (yields ((s.m.hearDelay d src t1 t2 t3 t4).loseSource d src))))) ∧
       (h < 63 → exec (.timeMessageReceive d src t1 t2 t3 t4 gm epoch hop valid off) s = .next (s.setM (
         let n := (yields ((s.m.hearDelay d src t1 t2 t3 t4).hearSource d src e h g c)).selectSource d
         heard (if n.get Fld.ftStatus_upstream d = src then
           match (n.time d).sources.find? (fun x => x.idx == src) with
           | none => n
           | some x => (n.showSource d x).meetOffset d (t3 + meanDelay (n.delays d src) - t4)
         else n)))))) ∧
   (∀ (s : State) (d : Fin 9), s.m.nineRuns d = true → s.m.ftState d = ftHoldover → 1000000 ≤ s.m.pmu d - (s.m.time d).holdStart →
     exec (.holdoverExpire d) s = .next (s.setM (s.m.ftEnter d ftFree))) ∧
   (∀ s : State, s.m.dataPlane = true → s.m.get Fld.ftCtrl_role 0 = 2 → s.m.mt.gm = false → s.m.dieLocked 0 = true →
     200000 ≤ s.m.pmu 0 - s.m.mt.heardAt → exec .gmPromote s = .next (s.setM s.m.gmTake)) ∧
   (∀ s : State, s.m.dataPlane = true → s.m.mt.gm = true → exec .trefPpsEdge s = .next (s.setM (
     let ppsAt := if s.m.cp.resetting.testBit 0 then none else some (s.m.ft 0)
     let m : Mach := { s.m with mt := { s.m.mt with ptp := s.m.mt.ptp.map (· + 1), ppsAt } }
     (m.modTime 0 (fun t => { t with adj := slewRate t.adj (Config.freeInt s.m.freeCtr) })).tickFree.civilFollow))) ∧
   (∀ s : State, s.m.dataPlane = true → s.m.mt.gm = false → exec .trefPpsEdge s = .next (s.setM (
     let ppsAt := if s.m.cp.resetting.testBit 0 then none else some (s.m.ft 0)
     { s.m with mt := { s.m.mt with ptp := s.m.mt.ptp.map (· + 1), ppsAt } }))) ∧
   (∀ (s : State) (sec : Nat), s.m.powered = true →
     exec (.ptpTimeReceive sec) s = .next (s.setM (({ s.m with mt := { s.m.mt with ptp := some sec } } : Mach).civilFollow))) ∧
   (∀ (s : State) (d : Fin 8) (n : Fin 64), s.m.dieRuns d = true → s.m.timerReached d n = true →
     exec (.timerFire d n) s = .next (s.setM (s.m.timerFire d n))) ∧
   (∀ (s : State) (d : Fin 8) (n : Fin 64), s.m.dieRuns d = true → s.m.timerReached d n = false →
     exec (.timerFire d n) s = .next s)) ∧
  (∀ s : State, s.m.dataPlane = true → s.m.regsSorted → s.m.get Fld.ftCtrl_role 0 = 2 → s.m.mt.gm = false → s.m.dieLocked 0 = true →
     200000 ≤ s.m.pmu 0 - s.m.mt.heardAt → ∃ m : Mach,
       exec .gmPromote s = .next (s.setM ((List.range 7).foldl (fun m k => m.selectSource (k + 1)) m)) ∧ m.mt.gm = true ∧
       m.ft 0 = s.m.ft 0 ∧ m.get Fld.ftStatus_time_epoch 0 = (s.m.get Fld.ftStatus_time_epoch 0 + 1) % 256 ∧
       m.get Fld.ftStatus_hop_count 0 = 0 ∧ m.get Fld.ftStatus_gm_node 0 = s.m.node 0 ∧ m.ftState 0 = ftLocked ∧ m.mem = s.m.mem)

/-- R27: on a PMU cycle the fabric-time counter of a die, its 64 bits and its 32 bits of fraction, moves by 5 ns and the die's rate
adjustment, and the die's PMU cycle count by one; no other die's counter, no memory and no other register moves. R28, R27: the rate
adjustment stays within 200 ppm and moves by at most 1 ppm at an exchange, whatever the open correction is. Readings and choices of the
model that it rests on: log 18, 24. -/
def Obligations.CounterAddsItsBoundedIncrement : Prop :=
  (∀ (m : Mach) (d : Nat), m.regsSorted → smSorted m.dies = true → (m.time d).frac < 2 ^ 32 → -(5 * 2 ^ 32) ≤ (m.time d).adj →
     (m.ft d : Int) * 2 ^ 32 + (m.time d).frac + 5 * 2 ^ 32 + (m.time d).adj < 2 ^ 96 →
     ((m.tickDie d).ft d : Int) * 2 ^ 32 + ((m.tickDie d).time d).frac =
         (m.ft d : Int) * 2 ^ 32 + (m.time d).frac + 5 * 2 ^ 32 + (m.time d).adj ∧
       ((m.tickDie d).time d).frac < 2 ^ 32 ∧ (m.tickDie d).pmu d = m.pmu d + 1 ∧ ((m.tickDie d).time d).adj = (m.time d).adj ∧
       (∀ id : RegId, id ≠ ⟨.ftCount, d, 0, 0, 0⟩ → (m.tickDie d).reg id = m.reg id) ∧
       (∀ d', d' ≠ d → (m.tickDie d).die d' = m.die d') ∧ (m.tickDie d).mem = m.mem ∧ (m.tickDie d).cores = m.cores) ∧
  (∀ adj want : Int, -4294967 ≤ adj → adj ≤ 4294967 →
     -4294967 ≤ slewRate adj want ∧ slewRate adj want ≤ 4294967 ∧ (slewRate adj want - adj).natAbs ≤ 21474)

/-- R43, R47, R48: a timer that is reached and may fire sets its bit of FT_TMR_FIRED (and of FT_TMR_LATE when it was jumped over), puts
its action on its way to arrive 40 ns after the target, or at once when that has passed, and moves its target by its period or disables
itself; the other timers and FT_TMR_MISSED are as before. R46: a system-scope timer that is reached while the module is unlocked does
not issue its action: its bit of FT_TMR_MISSED is set, the count of misses goes up, FT_MISSED is given to the CP and to the die's
partition, and FT_TMR_FIRED and the actions on their way are unchanged. (A missed commit point also fails the version, R433, and is
left out here.) Readings and choices of the model that it rests on: log 130. -/
def Obligations.TimersFireMissAndRearm : Prop :=
  (∀ (s : State) (d : Fin 8) (n : Fin 64), s.m.dieRuns d = true → s.m.regsSorted → smSorted s.m.dies = true → s.m.timerReached d n = true →
     (s.m.flag Fld.ftTmrCtl_scope d n && s.m.moduleUnlocked) = false → ∃ t : State, exec (.timerFire d n) s = .next t ∧
       (t.m.rd .ftTmrFired d).testBit n = true ∧ (∀ i, i ≠ n.val → (t.m.rd .ftTmrFired d).testBit i = (s.m.rd .ftTmrFired d).testBit i) ∧
       ((s.m.time d).lateArmed.testBit n = true → (t.m.rd .ftTmrLate d).testBit n = true) ∧
       ((s.m.time d).lateArmed.testBit n = false → t.m.rd .ftTmrLate d = s.m.rd .ftTmrLate d) ∧
       (s.m.timerPeriod d n = 0 → t.m.flag Fld.ftTmrCtl_enable d n = false ∧ t.m.rd .ftTmrTgt d n = s.m.rd .ftTmrTgt d n) ∧
       (s.m.timerPeriod d n ≠ 0 → t.m.flag Fld.ftTmrCtl_enable d n = true ∧
         t.m.rd .ftTmrTgt d n = (s.m.rd .ftTmrTgt d n + s.m.timerPeriod d n) % 2 ^ 64) ∧
       (s.m.get Fld.ftTmrCtl_action d n = 0 → (t.m.time d).acts = (s.m.time d).acts) ∧
       (s.m.get Fld.ftTmrCtl_action d n ≠ 0 → (t.m.time d).acts = (s.m.time d).acts ++
         [{ timer := n, action := s.m.get Fld.ftTmrCtl_action d n, arg := s.m.get Fld.ftTmrCtl_arg d n,
            due := max (s.m.rd .ftTmrTgt d n + 40) (s.m.ft d), at_ := s.m.pmu d }]) ∧
       (∀ i, i ≠ n.val → t.m.rd .ftTmrTgt d i = s.m.rd .ftTmrTgt d i ∧ t.m.rd .ftTmrCtl d i = s.m.rd .ftTmrCtl d i) ∧
       t.m.rd .ftTmrMissed d = s.m.rd .ftTmrMissed d ∧ t.m.mem = s.m.mem ∧ t.m.cores = s.m.cores ∧ t.pending = s.pending) ∧
  (∀ (s : State) (d : Fin 8) (n : Fin 64), s.m.dieRuns d = true → s.m.regsSorted → smSorted s.m.dies = true → s.m.timerReached d n = true →
     s.m.flag Fld.ftTmrCtl_scope d n = true → s.m.moduleUnlocked = true →
     s.m.get Fld.ftTmrCtl_action d n ≠ 7 → ∃ t : State, exec (.timerFire d n) s = .next t ∧
       (t.m.rd .ftTmrMissed d).testBit n = true ∧ t.m.rd .ftTmrFired d = s.m.rd .ftTmrFired d ∧ (t.m.time d).acts = (s.m.time d).acts ∧
       t.m.get Fld.ftTmrMissedCount_missed d =
         satN (Fld.ftTmrMissedCount_missed.hi + 1 - Fld.ftTmrMissedCount_missed.lo) (s.m.get Fld.ftTmrMissedCount_missed d + 1) ∧
       (∃ r ∈ (t.m.die d).records, r.kind = 0x17 ∧ r.toCp = true ∧ r.parts = s.m.slotList d))

/-- The actions of the timers, each when one has reached its actuator (R43, R45, R507, R402, R465, R466, R25, R456, R433, R327, Table
2.3): it is taken off its way and applied. Timer action 0x3 of a partition (R70, R164, R436): the actions due at the dies of the slot's
partition are taken, the lowest die takes the boundary for the partition while its job is open, and each die with a due action applies
it. Readings and choices of the model that it rests on: log 6, 23, 126, 130, 132, 133, 144. -/
def Obligations.TimerActionsAndStepBoundary : Prop :=
  (∀ (s : State) (d : Fin 8) (m : Mach) (a : TimerAct), s.m.dieRuns d = true →
     (s.m.takeAct d 1 = (m, some a) → exec (.timerActionInterrupt d) s = .next (s.setM (m.interrupt (a.arg % 4096)))) ∧
     (s.m.takeAct d 2 = (m, some a) → exec (.timerActionSyncAdd d) s = .next (s.setM (m.ctrAdd1 d (a.arg % 4096) srcOther))) ∧
     (s.m.takeAct d 4 = (m, some a) → m.colOp d (a.arg % 256) = none → exec (.collectiveDeadlineAction d) s = .next (s.setM (Mach.nutmegAll (
       match m.unstartedWords d (a.arg % 256) with
       | some ws => m.makeLate d (a.arg % 256) ws
       | none => m.modCol d (fun c => { c with late := a.arg % 256 :: c.late.filter (· != a.arg % 256) }))))) ∧
     (∀ o, s.m.takeAct d 4 = (m, some a) → m.colOp d (a.arg % 256) = some o → exec (.collectiveDeadlineAction d) s = .next (s.setM (Mach.nutmegAll (
       if o.desc = none then m else m.modCol d (fun c => { c with late := a.arg % 256 :: c.late.filter (· != a.arg % 256) }))))) ∧
     (∀ x, s.m.takeAct d 5 = (m, some a) → (m.pwr d).nut = some x → a.arg < 16 → m.flag Fld.pwrNutProf_valid d a.arg = true →
       exec (.nutmegRampStart d) s = .next (s.setM (
         let r : RampSt := { t0 := m.ft d, from_ := m.floorNow d, to_ := m.get Fld.pwrNutProf_level_pct d a.arg * x.a / 100,
                             dur := m.get Fld.pwrNutProf_dur_us d a.arg * 1000 }
         (m.modPwr d (fun y => { y with nut := some { x with ramp := some r } })).showFloor d))) ∧
     (s.m.takeAct d 5 = (m, some a) → (m.pwr d).nut = none ∨ 16 ≤ a.arg ∨ m.flag Fld.pwrNutProf_valid d a.arg = false →
       exec (.nutmegRampStart d) s = .next (s.setM (m.cnt .pwrCnt d 7))) ∧
     (s.m.takeAct d 6 = (m, some a) → (m.pwr d).capPend = none → exec (.applyPendingCap d) s = .next (s.setM m)) ∧
     (∀ cap, s.m.takeAct d 6 = (m, some a) → (m.pwr d).capPend = some cap → d ≠ 0 → exec (.applyPendingCap d) s = .next (s.setM (
       ((m.modPwr d (fun p => { p with cap, capPend := none })).showShare d).ev Fld.pwrEvents_cap_applied d))) ∧
     (∀ cap, s.m.takeAct d 6 = (m, some a) → (m.pwr 0).capPend = some cap → d = 0 → exec (.applyPendingCap d) s = .next (s.setM (
       let m := ((m.modPwr 0 (fun p => { p with cap, capPend := none })).showShare 0).ev Fld.pwrEvents_cap_applied 0
       let m := m.modPwr sdDie (fun p => { p with cap, capPend := none })
       let byChassis := match m.pins.chassisW with | some l => decide (l < classRating m.pins.cool) | none => false
       ((((m.put Fld.pwrCap_cap_w sdDie cap).put Fld.pwrCap_chassis sdDie (b2n byChassis)).put Fld.pwrCapPend_valid sdDie 0)).toCp
         sdDie 0x50 false false [(16, cap), (1, b2n byChassis)]))) ∧
     (∀ p, s.m.takeAct d 7 = (m, some a) → m.partAt (a.arg % 16) = some p → p.low = d → m.flag Fld.snapCfg_enable d = true →
       ((m.lateBoundary p).dropBoundary p).voteDue p = false → exec (.commitPoint d) s = .next (s.setM ((m.lateBoundary p).dropBoundary p))) ∧
     (∀ p, s.m.takeAct d 7 = (m, some a) → m.partAt (a.arg % 16) = some p → p.low = d → m.flag Fld.snapCfg_enable d = true →
       ((m.lateBoundary p).dropBoundary p).voteDue p = true → exec (.commitPoint d) s = .next (s.setM (
         let m := (m.lateBoundary p).dropBoundary p
         let r := m.voteReason p
         let m := (m.put Fld.snapStatus_vote_pending d 1).modSnap d (fun x => { x with voteFt := m.ft d, voteReason := r })
         m.send 0x1B [m.node d, m.get Fld.fabJob_job d, m.versionStep d, b2n (decide (r = 0))]))) ∧
     (s.m.takeAct d 8 = (m, some a) → exec (.scrubWindowOpen d) s = .next (s.setM ((bitsSet a.arg 4).foldl (fun m k =>
       if m.flag Fld.hbmStatus_margining d (c := k) then m else m.put Fld.hbmStatus_scrub_open d 1 (c := k)) m))) ∧
     (s.m.takeAct d 9 = (m, some a) → exec (.scrubWindowClose d) s = .next (s.setM ((bitsSet a.arg 4).foldl (fun m k =>
       if m.flag Fld.hbmStatus_margining d (c := k) then m else m.put Fld.hbmStatus_scrub_open d 0 (c := k)) m))) ∧
     (∀ p, s.m.partOf d = some p → p.low = d → s.m.flag Fld.snapCfg_enable d = true → s.m.flag Fld.snapStatus_vote_pending d = true → ∀ allOk,
       exec (.commitVoteResult d allOk) s = .next (s.setM (
         let v := s.m.snap d
         let n := s.m.put Fld.snapStatus_vote_pending d 0
         if v.voteReason = 0 ∧ allOk = true ∧ s.m.ft d ≤ v.voteFt + 1000 * s.m.get Fld.snapTimes_vote_window d then n.commit p
         else n.commitFailed d (if v.voteReason ≠ 0 then v.voteReason else 5)))) ∧
     (∀ p, s.m.partOf d = some p → p.low = d → s.m.flag Fld.snapCfg_enable d = false ∨ s.m.flag Fld.snapStatus_vote_pending d = false → ∀ allOk : Bool,
       exec (.commitVoteResult d allOk) s = .next (s.setM (
         if allOk = true ∧ s.m.newReceived = true then s.m.put Fld.snapRecvStatus_copying sdDie 1 else s.m))) ∧
     (∀ p k, s.m.partOf d = some p → s.m.sclNext d (s.m.sclEntries d) 0 = (m, some k) →
       exec (.scaleEntryProcess d) s = .next (s.setM ((m.sclProcess d k (m.rd .snapStep p.low)).sclCapture p d k)))) ∧
  (∀ (s : State) (slot : Fin 8) (p : Part), s.m.dataPlane = true → s.m.partAt slot = some p → s.m.flag Fld.fabJob_valid p.low = true →
     exec (.stepBoundary slot) s = .next (s.setM (
       let due := p.dies.filter (fun d => ((s.m.takeAct d 3).2).isSome)
       let m := due.foldl (fun m d => (m.takeAct d 3).1) s.m
       let m := if p.low ∈ due then m.boundaryLow p else m
       due.foldl (fun m d => m.boundaryDie p d) m)))

/-! ### Memory (spec/11) -/

/-- R309, Table 11.1: every sector address of stacked memory names one place in the stacks (die, stack, pseudo-channel, SID, bank
group, bank, row, column), within the sizes of the table, and the place gives the address back. R333: the mirror of an address of
stacked memory lies at the same offset of the die whose number differs in bit 2, and is mirrored back by the same rule. -/
def Obligations.MemoryPlacesAreUnique : Prop :=
  ((∀ a, a < 2 ^ 41 → (hbmDecode a).encode = a / 32 * 32 ∧ (hbmDecode a).die < 8 ∧ (hbmDecode a).stack < 4 ∧ (hbmDecode a).pch < 64 ∧
     (hbmDecode a).sid < 4 ∧ (hbmDecode a).bg < 4 ∧ (hbmDecode a).bank < 4 ∧ (hbmDecode a).row < 2 ^ 14 ∧ (hbmDecode a).col < 32) ∧
   (∀ h : HbmAddr, h.die < 8 → h.stack < 4 → h.pch < 64 → h.sid < 4 → h.bg < 4 → h.bank < 4 → h.row < 2 ^ 14 → h.col < 32 →
     hbmDecode h.encode = h ∧ h.encode < 2 ^ 41)) ∧
  (∀ a, a < 2 ^ 41 → mirrorAddr a < 2 ^ 41 ∧ mirrorAddr (mirrorAddr a) = a ∧ mirrorAddr a % 2 ^ 38 = a % 2 ^ 38 ∧
     (hbmDecode (mirrorAddr a)).die = (hbmDecode a).die ^^^ 4)

/-- R322, R324: storing a sector of stacked memory: each of its 32 bytes reads as stored, every other byte of memory and the check
symbols of every other sector stay as they are, the forms stay canonical, and the decoder finds the sector clean, or poisoned when it
was stored poisoned, in every ECC mode. R323: reading a sector whose check symbols agree returns its 32 bytes, and changes no byte, no
check symbol and no poison; the read is counted (HBM_CNT(0)), and HBM_READ_COMPLETE answers it. Readings and choices of the model that
it rests on: log 28. -/
def Obligations.StoredSectorReadsBack : Prop :=
  (∀ (m : Mach) (a : Nat) (bs : List Byte) (poison : Bool), Memory.wf m.mem = true → smWf 0 m.ecc = true → bs.length = 32 →
     let t := m.storeSector a bs poison
     (∀ i, i < 32 → t.byte (a / 32 * 32 + i) = bs.getD i 0#8) ∧ (∀ x, x / 32 ≠ a / 32 → t.byte x = m.byte x) ∧
       (∀ k, k ≠ a / 32 → smGet 0 t.ecc k = smGet 0 m.ecc k) ∧ Memory.wf t.mem = true ∧ smWf 0 t.ecc = true ∧
       t.sectorDecode a = (bs, if poison then .poisoned else .clean)) ∧
  (∀ (s : State) (a : Nat) (mirror : Bool), s.m.dataPlane = true → isStacked a = true → smWf 0 s.m.ecc = true → smGet 0 s.m.ecc (a / 32) = 0 →
     ∃ t : State, exec (.hbmReadComplete a 0 mirror) s = .next t ∧ t.m.resp = .ok (ofBytes (s.m.rawBytes (a / 32 * 32) 32)) ∧
       t.m.mem = s.m.mem ∧ t.m.ecc = s.m.ecc ∧
       t.m.regs = (s.m.cnt .hbmCnt (hbmDecode a).die 0 (c := (hbmDecode a).stack)).regs ∧ t.m.cores = s.m.cores ∧ t.m.dies = s.m.dies)

/-- The rows of the memory controllers and of translation, each when it is due (R317, R321, R323 to R328, R331, R334, R336, R338).
Readings and choices of the model that it rests on: log 6, 7, 8, 27, 28, 29, 30, 98, 123, 124. -/
def Obligations.MemoryRows : Prop :=
  (∀ (s : State) (d : Fin 8) (k : Fin 4) (pch : Fin 64) (e : Nat), s.m.dieRuns d = true →
    s.m.flag Fld.hbmStatus_scrub_open d (c := k) = true → s.m.flag Fld.hbmStatus_margining d (c := k) = false →
    s.m.get Fld.hbmCfg_scrub_rate d (c := k) ≠ 0 → (s.m.pchTrk d k pch).pos < passSectors →
    exec (.scrubRead d k pch e) s = .next (s.setM (
      let a := scrubAddr d k pch (s.m.pchTrk d k pch).pos
      let m := (s.m.upset a e).scrubSector a
      ((m.modPch d k pch (fun t => { t with pos := t.pos + 1 })).showScrub d k).scrubPassEnd d k))) ∧
  (∀ (s : State) (d : Fin 8) (k : Fin 4) (pch : Fin 64) (bank : Nat), exec (.hbmRefresh d k pch bank) s = .next s) ∧
  (∀ (s : State) (a e : Nat) (mirror : Bool), s.m.dataPlane = true → isStacked a = true →
    exec (.hbmReadComplete a e mirror) s =
      .next (s.setM (((s.m.upset a e).hbmRead a mirror).1.answer ((s.m.upset a e).hbmRead a mirror).2))) ∧
  (∀ (s : State) (r : RowRef) (n : Nat), s.m.dataPlane = true → exec (.rowRetire r (some n)) s = .next (s.setM (
    let m := (rowSectors r).foldl (fun m a => m.rewriteSector a) s.m
    let m := (m.cnt .hbmCnt r.die 9 (c := r.stack)).put Fld.hbmStatus_ppr_left r.die n (c := r.stack)
    { m with perm := { m.perm with repair := m.perm.repair ++ [r] } }))) ∧
  (∀ (s : State) (r : RowRef), s.m.dataPlane = true → exec (.rowRetire r none) s = .next (s.setM (
    let m := s.m.ev Fld.hbmEvents_retire_failed r.die (c := r.stack)
    m.emitRec r.die 0x33 false false [(48, rowBlock r)] false false (m.slotList r.die)))) ∧
  (∀ (s : State) (a e : Nat), s.m.dataPlane = true → isStacked a = true → (s.m.sectorDecode a).2 = .bad →
    exec (.mirrorRead a e) s = .next (s.setM (
      ((s.m.upset (mirrorAddr a) e).hbmRead a true).1.answer ((s.m.upset (mirrorAddr a) e).hbmRead a true).2))) ∧
  (∀ (s : State) (a fails : Nat) (dc du : Bool), s.m.dataPlane = true → isGddr a = true →
    exec (.gddr7ReadComplete a fails dc du) s = .next (s.setM ((s.m.gdRead a fails dc du).1.answer (s.m.gdRead a fails dc du).2))) ∧
  (∀ (s : State) (d : Fin 8) (results : List PinMargin) (x : MarginSt), s.m.dieRuns d = true →
    s.m.cp.margins.find? (fun y => y.die == d.val && y.state == 1) = some x →
    results.length = ((bitsSet x.mask 64).flatMap (fun q => (List.range 36).map (fun pin => (q, pin)))).length →
    ∃ bytes : List Byte, bytes.length = 16 * results.length ∧
      exec (.marginRunComplete d results) s = .next (s.setM ((s.m.putBytes sdDie x.addr bytes).marginEnd d 2 results.length))) ∧
  (∀ (s : State) (d : Fin 8) (p : Part), s.m.dieRuns d = true → s.m.flag Fld.cfgXlatInv_busy d = true → s.m.partOf d = some p →
    exec (.xlatInvComplete d) s = .next (s.setM (
      let va := s.m.get Fld.cfgXlatInv_va d / 65536 * 65536
      let whole := s.m.get Fld.cfgXlatInv_scope d == 1
      let covers (e : TlbEntry) : Bool := whole || (decide (e.va ≤ va) && decide (va < e.va + e.size))
      let onWalk (w : WalkPtr) : Bool := whole || (decide (w.va ≤ va) && decide (va < w.va + entrySpan (w.level + 1)))
      let m := p.dies.foldl (fun m x => (List.range 32).foldl (fun m c =>
        m.modCore x c (fun k => { k with tlb := k.tlb.filter (fun e => !covers e), walks := k.walks.filter (fun w => !onWalk w) })) m) s.m
      m.put Fld.cfgXlatInv_busy d 0)))

/-! ### Core threads (spec/07) -/

/-- R170, R171, R174, R182: an instruction that works on registers alone reads its operands and does so in each thread of its issue, in
ascending lane order, while the block lives: every base instruction that accesses no memory, the CSR accesses, and ECALL, EBREAK and
FENCE.I. R181, R195: an instruction that names a register which the launch of its block did not declare is an illegal instruction of
the first thread of its issue, whatever else it is; one that names registers and meets a double-bit error of its register file faults
its block with cause 04H, and the error is reported. Readings and choices of the model that it rests on: log 39, 43, 44, 45. -/
def Obligations.RegisterInstructionsRunTheirLanes : Prop :=
  (∀ (s : State) (i : Issue) (r : ThreadRef) (rs : List ThreadRef) (k : Block),
     let run (op : RvOp) : State := s.setM (
       (s.reading i k (r :: rs) op).lanesRun i.die (r :: rs) (fun m x => m.regLane i.die op x))
     (∀ w : W32, s.issues i (decodeRv w.toNat) r rs k →
       (∀ width sg rd a off, decodeRv w.toNat ≠ .load width sg rd a off) → (∀ rd a off, decodeRv w.toNat ≠ .flw rd a off) →
       (∀ width a b off, decodeRv w.toNat ≠ .store width a b off) → (∀ a b off, decodeRv w.toNat ≠ .fsw a b off) →
       (∀ width rd a rl, decodeRv w.toNat ≠ .lr width rd a rl) → (∀ width rd a b rl, decodeRv w.toNat ≠ .sc width rd a b rl) →
       (∀ f width rd a b rl, decodeRv w.toNat ≠ .amo f width rd a b rl) → (∀ x rd a b, decodeRv w.toNat ≠ .kt x rd a b) →
       exec (.baseInstruction i w) s = .next (run (decodeRv w.toNat))) ∧
     (∀ (f3 : Fin 8) (rd rs1 : Fin 32) (num : Fin 4096), f3.val % 4 ≠ 0 → s.issues i (.csr f3 rd rs1 num) r rs k →
       exec (.csrAccess i f3 rd rs1 num) s = .next (run (.csr f3 rd rs1 num))) ∧
     (s.issues i .ecall r rs k → exec (.ecall i) s = .next (run .ecall)) ∧
     (s.issues i .ebreak r rs k → exec (.ebreak i) s = .next (run .ebreak)) ∧
     (s.issues i .fencei r rs k → exec (.fenceI i) s = .next (run .fencei))) ∧
  (∀ (s : State) (i : Issue) (r : ThreadRef) (rs : List ThreadRef) (k : Block) (w : W32), s.m.dieRuns i.die = true →
     s.m.issueSet i.die i.core i.block i.group i.lanes = r :: rs → s.m.block i.die i.core i.block = some k →
     ((decodeRv w.toNat).inRegs k.xregs k.fregs = false →
       exec (.baseInstruction i w) s = .next (s.setM ((s.issued i k (r :: rs)).threadFault i.die r 0x01 0))) ∧
     ((decodeRv w.toNat).inRegs k.xregs k.fregs = true → (decodeRv w.toNat).names ≠ ([], []) → i.regBad = true →
       exec (.baseInstruction i w) s = .next (s.setM (((s.issued i k (r :: rs)).toCp i.die 0x34 false false
         [(4, 3), (8, coreNum i.die r.core), (48, 0)]).threadFault i.die r 0x04 0))))

/-- R170, R171, R174: what an instruction does with the one thread of its issue: an integer or floating-point result, a jump, a branch,
a CSR that may be written, a FENCE that waits while a store of its thread does, and the illegal-instruction fault of ECALL and FENCE.I,
of EBREAK while debug access is closed, and of a word that encodes no instruction. The pc moves by 4 where no jump is taken, and the
retired-instruction count by one. Readings and choices of the model that it rests on: log 39, 40, 41, 42, 43, 44, 45. -/
def Obligations.OneThreadsInstruction : Prop :=
  ∀ (s : State) (i : Issue) (r : ThreadRef) (k : Block) (t : Thread) (w : W32), smSorted s.m.cores = true →
    s.issues i (decodeRv w.toNat) r [] k → s.m.thread i.die r = some t →
    let m := s.reading i k [r] (decodeRv w.toNat)
    let d := i.die.val
    let thread (f : Thread → Thread) : Host.Outcome State Fault Refusal := .next (s.setM (m.modThread d r f))
    let x := t.getX
    (∀ rd imm, decodeRv w.toNat = .lui rd imm → exec (.baseInstruction i w) s = thread (fun y => (y.setX rd imm).retire)) ∧
    (∀ rd imm, decodeRv w.toNat = .auipc rd imm →
      exec (.baseInstruction i w) s = thread (fun y => (y.setX rd ((t.pc + imm) % 2 ^ 64)).retire)) ∧
    (∀ f rd a b, decodeRv w.toNat = .alu f rd a b →
      exec (.baseInstruction i w) s = thread (fun y => (y.setX rd (alu f (x a) (x b))).retire)) ∧
    (∀ f rd a imm, decodeRv w.toNat = .aluI f rd a imm →
      exec (.baseInstruction i w) s = thread (fun y => (y.setX rd (alu f (x a) imm)).retire)) ∧
    (∀ rd off, decodeRv w.toNat = .jal rd off → wrap 64 (t.pc + off) % 4 = 0 → exec (.baseInstruction i w) s =
      thread (fun y => { (y.setX rd ((t.pc + 4) % 2 ^ 48)).retire with pc := wrap 64 (t.pc + off) })) ∧
    (∀ rd a off, decodeRv w.toNat = .jalr rd a off → (wrap 64 (x a + off) / 2 * 2) % 4 = 0 → exec (.baseInstruction i w) s =
      thread (fun y => { (y.setX rd ((t.pc + 4) % 2 ^ 48)).retire with pc := wrap 64 (x a + off) / 2 * 2 })) ∧
    (∀ c a b off, decodeRv w.toNat = .branch c a b off → branchTaken c (x a) (x b) = false →
      exec (.baseInstruction i w) s = thread Thread.retire) ∧
    (∀ c a b off, decodeRv w.toNat = .branch c a b off → branchTaken c (x a) (x b) = true → wrap 64 (t.pc + off) % 4 = 0 →
      exec (.baseInstruction i w) s = thread (fun y => { y.retire with pc := wrap 64 (t.pc + off) })) ∧
    (∀ f rm rd a b z, decodeRv w.toNat = .fp f rm rd a b → (if f.rounds then rmOf rm (bitsOf t.fcsr 7 5) else some .rne) = some z →
      let v := fpDo f z (if f.fromX then x a else t.getF a) (t.getF b)
      exec (.baseInstruction i w) s = thread (fun y => ((if f.toX then y.setX rd v.v else y.setF rd v.v).flags v.fl).retire)) ∧
    (∀ j rm rd a b c z, decodeRv w.toNat = .fmadd j rm rd a b c → rmOf rm (bitsOf t.fcsr 7 5) = some z → exec (.baseInstruction i w) s =
      thread (fun y => ((y.setF rd (fmaDo j z (t.getF a) (t.getF b) (t.getF c)).v).flags
        (fmaDo j z (t.getF a) (t.getF b) (t.getF c)).fl).retire)) ∧
    (decodeRv w.toNat = .fence → exec (.baseInstruction i w) s =
      thread (if m.storesHeld d r then fun y => { y with wait := .held .stores } else Thread.retire)) ∧
    (decodeRv w.toNat = .illegal → exec (.baseInstruction i w) s = .next (s.setM (m.threadFault d r 0x01 0))) ∧
    (∀ (f3 : Fin 8) (rd a : Fin 32) (n : Fin 4096) (old : Nat), f3.val % 4 ≠ 0 → (RvOp.csr f3 rd a n).inRegs k.xregs k.fregs = true →
      let m := s.reading i k [r] (.csr f3 rd a n)
      let thread (f : Thread → Thread) : Host.Outcome State Fault Refusal := .next (s.setM (m.modThread d r f))
      m.csrValue d r n = some old →
      let src := if f3.val < 4 then x a else a.val
      (f3.val % 4 = 1 → n.val ≤ 3 → exec (.csrAccess i f3 rd a n) s = thread (fun y => ((y.setCsr n src).setX rd old).retire)) ∧
      (f3.val % 4 ≠ 1 → a.val = 0 → exec (.csrAccess i f3 rd a n) s = thread (fun y => (y.setX rd old).retire)) ∧
      (f3.val % 4 = 2 → a.val ≠ 0 → n.val ≤ 3 →
        exec (.csrAccess i f3 rd a n) s = thread (fun y => ((y.setCsr n (old ||| src)).setX rd old).retire)) ∧
      (f3.val % 4 = 3 → a.val ≠ 0 → n.val ≤ 3 →
        exec (.csrAccess i f3 rd a n) s = thread (fun y => ((y.setCsr n (old &&& (2 ^ 64 - 1 - src))).setX rd old).retire)) ∧
      (f3.val % 4 = 1 ∨ a.val ≠ 0 → 3 < n.val → exec (.csrAccess i f3 rd a n) s = .next (s.setM (m.threadFault d r 0x01 0)))) ∧
    let m := s.issued i k [r]
    exec (.ecall i) s = .next (s.setM (m.threadFault d r 0x01 0)) ∧
    exec (.fenceI i) s = .next (s.setM (m.threadFault d r 0x01 0)) ∧
    (s.m.debugOpen = true → exec (.ebreak i) s = .next (s.setM (m.modThread d r Thread.retire))) ∧
    (s.m.debugOpen = false → exec (.ebreak i) s = .next (s.setM (m.threadFault d r 0x01 0)))

/-- R172, R195: a memory access of an issue is judged for every thread first, in ascending lane order. Where one lane's access is
misaligned or not allowed, the first such thread faults and no lane has acted; nor has any where an atomic would read a poisoned
operand of coherent memory. Else each lane acts, while the block lives, or waits for its slot, its bank or its home. Readings and
choices of the model that it rests on: log 43, 44, 49. -/
def Obligations.MemoryAccessesAreJudgedFirst : Prop :=
  ∀ (s : State) (i : Issue) (r : ThreadRef) (rs : List ThreadRef) (k : Block),
    let d := i.die.val
    let vas (m : Mach) (a : Nat) (off : Int) := (r :: rs).map (fun x => (x, m.laneVa d x a off))
    let m0 (m : Mach) (a : Nat) (off : Int) : Mach :=
      if (m.thread d r).any (fun t => t.wait == .ready) then m.stridePrefetch d r (m.laneVa d r a off) else m
    let each (kind : MemKind) (m : Mach) (ps : List (ThreadRef × Nat × Place)) (act : Mach → ThreadRef → Nat → Place → Mach) : Mach :=
      ps.foldl (fun m x => if m.live d x.1 then
        match m.laneGate d x.1 kind x.2.2 with | (m, true) => act m x.1 x.2.1 x.2.2 | (m, false) => m else m) m
    (∀ (width : Nat) (sg fl bad : Bool) (rd a : Fin 32) (off : Int) (m' : Mach) (res : Except (ThreadRef × Nat × Denied) (List (ThreadRef × Nat × Place))),
      (fl = true ∧ width = 4) ∨ (fl = false ∧ (width = 1 ∨ width = 2 ∨ width = 4 ∨ (width = 8 ∧ sg = true))) →
      s.issues i (loadOp width sg fl rd a off) r rs k → let m := m0 (s.reading i k (r :: rs) (loadOp width sg fl rd a off)) a off
      m.placeAll d .load width (vas m a off) = (m', res) →
      exec (.coreLoad i width sg fl rd a off bad) s = .next (s.setM (match res with
        | .error e => m'.denied d (r :: rs) e.1 e.2.1 e.2.2
        | .ok ps => each .load m' ps (fun m x va p => m.loadLane d width (sg && !fl) fl rd bad x va p)))) ∧
    (∀ (width : Nat) (fl : Bool) (a b : Fin 32) (off : Int) (m' : Mach) (res : Except (ThreadRef × Nat × Denied) (List (ThreadRef × Nat × Place))),
      (fl = true ∧ width = 4) ∨ (fl = false ∧ (width = 1 ∨ width = 2 ∨ width = 4 ∨ width = 8)) →
      s.issues i (storeOp width fl a b off) r rs k → let m := s.reading i k (r :: rs) (storeOp width fl a b off)
      m.placeAll d .store width (vas m a off) = (m', res) →
      exec (.coreStore i width fl a b off) s = .next (s.setM (match res with
        | .error e => m'.denied d (r :: rs) e.1 e.2.1 e.2.2
        | .ok ps => each .store m' ps (fun m x va p =>
            m.storeLane d (toBytes width (if fl then m.tf d x b else m.tx d x b)) Thread.retire x va p)))) ∧
    (∀ (f5 width : Nat) (rd a b : Fin 32) (m' : Mach) (res : Except (ThreadRef × Nat × Denied) (List (ThreadRef × Nat × Place))),
      width = 4 ∨ width = 8 → f5 ∈ amoCodes → s.issues i (.amo f5 width rd a b i.rl) r rs k →
      let m := s.reading i k (r :: rs) (.amo f5 width rd a b i.rl)
      m.placeAll d .amo width (vas m a 0) = (m', res) →
      exec (.coreAmo i f5 width rd a b) s = .next (s.setM (match res with
        | .error e => m'.denied d (r :: rs) e.1 e.2.1 e.2.2
        | .ok ps =>
          let ls : List AmoLane := ps.map (fun x => { who := x.1, va := x.2.1, at_ := x.2.2, val := m'.tx d x.1 b % 2 ^ (8 * width) })
          match (amoSets ls.length ls).findSome? (fun set => m'.amoPoison d f5 width set) with
          | some m => m
          | none => (amoSets ls.length ls).foldl (fun m set => m.amoTurn d f5 width rd i.rl set) m')))

/-- R172, R173, R188: a load of one thread: from its own block's local store at FF0000000000H and up, the bytes there; from coherent
memory, the bytes of the L1 read of its sector (a poisoned sector faults, as local store with an uncorrectable error does);
sign-extended, zero-extended or into an f register. R172, R173, R188, R270, R272: a store of one thread: into a local store, into
coherent memory through the die's cache, to the home of a remote address, into a register window; the thread goes on. Readings and
choices of the model that it rests on: log 32, 39, 44, 45, 120, 147. -/
def Obligations.LoadsAndStoresUseTheirPlace : Prop :=
  (∀ (s : State) (i : Issue) (r : ThreadRef) (k : Block) (width : Nat) (sg fl bad : Bool) (rd a : Fin 32) (off : Int) (m' : Mach) (p : Place),
     (fl = true ∧ width = 4) ∨ (fl = false ∧ (width = 1 ∨ width = 2 ∨ width = 4 ∨ (width = 8 ∧ sg = true))) →
     s.issues i (loadOp width sg fl rd a off) r [] k →
     let d := i.die.val
     let m0 := s.reading i k [r] (loadOp width sg fl rd a off)
     let m := if (m0.thread d r).any (fun t => t.wait == .ready) then m0.stridePrefetch d r (m0.laneVa d r a off) else m0
     let va := m.laneVa d r a off
     m.placed d r .load va width m' p →
     let gives (m : Mach) (v : Nat) : Host.Outcome State Fault Refusal := .next (s.setM (
       m.modThread d r (fun t => (if fl then t.setF rd v else t.setX rd (extendTo64 width sg v)).retire)))
     (∀ c b o, p = .ls c b o → bad = false → exec (.coreLoad i width sg fl rd a off bad) s =
       gives (m'.lsCount d r c b) (ofBytes (m'.lsRead d c b o width))) ∧
     (∀ c b o, p = .ls c b o → bad = true → exec (.coreLoad i width sg fl rd a off bad) s = .next (s.setM (
       ((m'.lsCount d r c b).toCp d 0x34 false false [(4, 6), (8, coreNum d c), (48, va)]).threadFault d r 0x04 va))) ∧
     (∀ pa mirror m2 x, p = .coherent pa mirror → (if bad then m'.l1Error d r.core pa else m').l1Read d r.core pa mirror false = (m2, x) →
       (x.poison = false → exec (.coreLoad i width sg fl rd a off bad) s = gives m2 (ofBytes ((x.bytes.drop (pa % 32)).take width))) ∧
       (x.poison = true → exec (.coreLoad i width sg fl rd a off bad) s = .next (s.setM (m2.threadFault d r 0x04 va)))) ∧
     (∀ node o, p = .remote node o →
       exec (.coreLoad i width sg fl rd a off bad) s = .next (s.setM (m'.remoteLoad d r va node o width rd (sg && !fl) fl))) ∧
     (∀ pa m2 v, p = .register pa → m'.busRead .core pa width = (m2, some v) →
       exec (.coreLoad i width sg fl rd a off bad) s = gives m2 v)) ∧
  (∀ (s : State) (i : Issue) (r : ThreadRef) (k : Block) (width : Nat) (fl : Bool) (a b : Fin 32) (off : Int) (m' : Mach) (p : Place),
     (fl = true ∧ width = 4) ∨ (fl = false ∧ (width = 1 ∨ width = 2 ∨ width = 4 ∨ width = 8)) →
     s.issues i (storeOp width fl a b off) r [] k →
     let d := i.die.val
     let m := s.reading i k [r] (storeOp width fl a b off)
     let va := m.laneVa d r a off
     m.placed d r .store va width m' p →
     let bs := toBytes width (if fl then m'.tf d r b else m'.tx d r b)
     let goes (m : Mach) : Host.Outcome State Fault Refusal := .next (s.setM m)
     (∀ c e o, p = .ls c e o → exec (.coreStore i width fl a b off) s =
       goes (((m'.lsCount d r c e).lsWrite d c e o bs).modThread d r Thread.retire)) ∧
     (∀ pa mirror, p = .coherent pa mirror → exec (.coreStore i width fl a b off) s =
       goes (((m'.l1Store d r.core pa).writeSector (viaThread d r mirror) pa bs false).modThread d r Thread.retire)) ∧
     (∀ node o, p = .remote node o → exec (.coreStore i width fl a b off) s =
       goes (((if isStacked o then m'.remoteUpdate d (.thread r.core) node o bs false else m').modThread d r Thread.retire).remoteSend d node
         (if isStacked o then .write o bs false else .regWrite o bs.length (ofBytes bs)) (.store r) va)) ∧
     (∀ pa m2, p = .register pa → m'.busWrite .core pa width (ofBytes bs) 0 = (m2, true) →
       exec (.coreStore i width fl a b off) s = goes (m2.modThread d r Thread.retire)))

/-- R173, R190, R191, R281: LR reserves the sector it loads from; SC stores on the thread's own reservation of the sector and gives 0,
else stores nothing and gives 1, and holds no reservation after it; a release waits for its thread's waiting stores; an AMO and
KT.FAMOADD give each lane what its turn read; KT.ACCST adds at the home and goes on. R190: the lanes of an atomic that name one address
take one combined operation: lane k reads what the lanes before it left, and memory is left with the last lane's result; that is what
the lanes would do one at a time, in order. Readings and choices of the model that it rests on: log 37, 39, 44, 45, 48, 49. -/
def Obligations.AtomicsAndReservations : Prop :=
  (∀ (s : State) (i : Issue) (r : ThreadRef) (k : Block) (width : Nat) (rd a b : Fin 32) (m' : Mach),
     smSorted s.m.cores = true → width = 4 ∨ width = 8 →
     let d := i.die.val
     let rl := i.rl
     let va := s.m.laneVa d r a 0
     let m (op : RvOp) : Mach := s.reading i k [r] op
     let freed (m : Mach) (rl : Bool) : Prop := rl = true → m.storesHeld d r = false
     let turn (m : Mach) (f5 w : Nat) (rl : Bool) (p : Place) : Prop := ∃ m1, m.placeFor d r .amo va w = (m1, .ok p) ∧ m1.live d r = true ∧
       m1.amoPoison d f5 w [{ who := r, va, at_ := p, val := m1.tx d r b % 2 ^ (8 * w) }] = none ∧ freed m1 rl ∧
       m1.laneGate d r .amo p = (m', true) ∧ m1.tx d r b = m'.tx d r b
     let kt (x : KtOp) (rd : Nat) : Mach := m (.kt x rd a b)
     let goes (m : Mach) : Host.Outcome State Fault Refusal := .next (s.setM m)
     (∀ c e o, s.issues i (.lr width rd a rl) r [] k → (m (.lr width rd a rl)).placed d r .lr va width m' (.ls c e o) → freed m' rl →
       exec (.coreLr i width rd a) s = goes ((m'.loadDone d r rd width true false (ofBytes (m'.lsRead d c e o width))).modThread d r
         (fun t => { t with resv := some (lsResv o) }))) ∧
     (∀ pa mirror m2 x, s.issues i (.lr width rd a rl) r [] k → (m (.lr width rd a rl)).placed d r .lr va width m' (.coherent pa mirror) → freed m' rl →
       m'.l1Read d r.core pa mirror false = (m2, x) → x.poison = false →
       exec (.coreLr i width rd a) s = goes ((m2.loadDone d r rd width true false (ofBytes ((x.bytes.drop (pa % 32)).take width))).modThread d r
         (fun t => { t with resv := some (pa / 32 * 32) }))) ∧
     (∀ pa mirror, s.issues i (.sc width rd a b rl) r [] k → (m (.sc width rd a b rl)).placed d r .sc va width m' (.coherent pa mirror) →
       (m'.thread d r).any (fun t => t.resv == some (pa / 32 * 32)) = false →
       exec (.coreSc i width rd a b) s = goes (m'.modThread d r (fun t => { (t.setX rd 1).retire with resv := none }))) ∧
     (∀ pa mirror m2, s.issues i (.sc width rd a b rl) r [] k → (m (.sc width rd a b rl)).placed d r .sc va width m' (.coherent pa mirror) →
       (m'.thread d r).any (fun t => t.resv == some (pa / 32 * 32)) = true → freed m' rl → m'.deadClear pa = (m2, true) →
       exec (.coreSc i width rd a b) s = goes (((m2.l1Store d r.core pa).writeSector (viaThread d r mirror) pa
         (toBytes width (m'.tx d r b)) false).modThread d r (fun t => { (t.setX rd 0).retire with resv := none }))) ∧
     (∀ c e o, s.issues i (.sc width rd a b rl) r [] k → (m (.sc width rd a b rl)).placed d r .sc va width m' (.ls c e o) → freed m' rl →
       exec (.coreSc i width rd a b) s = goes (if (m'.thread d r).any (fun t => t.resv == some (lsResv o)) then
         ((m'.lsCount d r c e).lsWrite d c e o (toBytes width (m'.tx d r b))).modThread d r (fun t => { (t.setX rd 0).retire with resv := none })
       else m'.modThread d r (fun t => { (t.setX rd 1).retire with resv := none }))) ∧
     (∀ f5 c e o, f5 ∈ amoCodes → s.issues i (.amo f5 width rd a b rl) r [] k → turn (m (.amo f5 width rd a b rl)) f5 width rl (.ls c e o) →
       exec (.coreAmo i f5 width rd a b) s = goes (
         let old := ofBytes (m'.lsRead d c e o width)
         (((m'.cnt .tguCnt d 7 0 (c := r.core)).lsCount d r c e).lsWrite d c e o
           (toBytes width (amoFn f5 width old (m'.tx d r b % 2 ^ (8 * width))))).loadDone d r rd width true false old)) ∧
     (∀ f5 pa mirror m2 m3 old, f5 ∈ amoCodes → s.issues i (.amo f5 width rd a b rl) r [] k → turn (m (.amo f5 width rd a b rl)) f5 width rl (.coherent pa mirror) →
       m'.deadClear pa = (m2, true) →
       (m2.cnt .tguCnt d 7 0 (c := r.core)).amoHome (viaThread d r mirror) pa width f5 [m'.tx d r b % 2 ^ (8 * width)] = (m3, old, false) →
       exec (.coreAmo i f5 width rd a b) s = goes (m3.loadDone d r rd width true false old)) ∧
     (∀ pa mirror m2 m3 old, s.issues i (.kt .famoadd rd a b) r [] k →
       turn (kt .famoadd rd) 32 4 false (.coherent pa mirror) → m'.deadClear pa = (m2, true) →
       (m2.cnt .tguCnt d 7 0 (c := r.core)).amoHome (viaThread d r mirror) pa 4 32 [m'.tx d r b % 2 ^ 32] = (m3, old, false) →
       exec (.ktFamoadd i rd a b) s = goes (m3.loadDone d r rd 4 false false old)) ∧
     (∀ pa mirror, s.issues i (.kt (.accst 4) 0 a b) r [] k →
       (kt (.accst 4) 0).placed d r .acc va 4 m' (.coherent pa mirror) → exec (.ktAccstW i a b) s =
         goes ((m'.accWrite (viaThread d r mirror) pa 4 (toBytes 4 (m'.tx d r b)) false).modThread d r Thread.retire)) ∧
     (∀ pa mirror, s.issues i (.kt (.accst 8) 0 a b) r [] k →
       (kt (.accst 8) 0).placed d r .acc va 8 m' (.coherent pa mirror) → exec (.ktAccstD i a b) s =
         goes ((m'.accWrite (viaThread d r mirror) pa 8 (toBytes 8 (m'.tx d r b)) false).modThread d r Thread.retire))) ∧
  (∀ (f5 width old : Nat) (vs ws : List Nat),
     (amoPrefix f5 width old (vs ++ ws)).1 = (amoPrefix f5 width old vs).1 ++ (amoPrefix f5 width (amoPrefix f5 width old vs).2 ws).1 ∧
     (amoPrefix f5 width old (vs ++ ws)).2 = (amoPrefix f5 width (amoPrefix f5 width old vs).2 ws).2 ∧
     (amoPrefix f5 width old vs).2 = vs.foldl (amoFn f5 width) old ∧ (amoPrefix f5 width old vs).1.length = vs.length)

/-- R195, R200, R201, Table 7.2: the Xkt instructions that work lane by lane, over every thread of their issue in ascending lane order.
Those that name a counter or a slot are judged for every thread first: where one thread's handle is bad, it faults and no thread has
acted. Readings and choices of the model that it rests on: log 43, 44, 45. -/
def Obligations.KtInstructionsRunTheirLanes : Prop :=
  ∀ (s : State) (i : Issue) (r : ThreadRef) (rs : List ThreadRef) (k : Block) (rd a b : Fin 32),
    let d := i.die.val
    let runs (x : KtOp) (a b : Nat) (lane : Mach → ThreadRef → Mach) : State := s.setM (
      (s.reading i k (r :: rs) (.kt x rd a b)).lanesRun d (r :: rs) lane)
    let run (x : KtOp) (lane : Mach → ThreadRef → Mach) : State := runs x a b lane
    let judged (x : KtOp) (a b : Nat) (bad : Mach → ThreadRef → Bool) (lane : Mach → ThreadRef → Mach) : State := s.setM (
      (s.reading i k (r :: rs) (.kt x rd a b)).lanesJudged d (r :: rs) bad lane)
    let counter (f3 : Nat) : State := judged (.ctr f3) a b (fun m x => m.ctrBad d f3 a b x) (fun m x => m.ctrLane d f3 rd a b x)
    let waits (x : KtOp) (consume : Bool) : State := judged x a b (fun m x => m.ctrBad d 4 a b x) (fun m x => m.waitLane d rd a b consume x)
    let slot (wait : Bool) : State := judged (.mbar wait) a 0 (fun m x => m.mbarBad d a x) (fun m x => m.mbarLane d a wait x)
    let settled (t : State) : State := { t with m := t.m.nutmegAll }
    let near (m : Mach) (x : ThreadRef) : Mach := if m.storesHeld d x then m.hold d x .stores else m.modThread d x Thread.retire
    (∀ q : Fin 4, s.issues i (.kt (.qcred q) rd 0 0) r rs k → exec (.ktQcred i q rd) s =
      .next (runs (.qcred q) 0 0 (fun m x => m.doneX d x rd (queueDepth q - m.creditsUsed d x.core q)))) ∧
    (s.issues i (.kt (.ctr 0) rd a b) r rs k → exec (.ktScadd i rd a b) s = .next (counter 0)) ∧
    (s.issues i (.kt (.ctr 0) rd a b) r rs k → exec (.ktScaddRemote i rd a b) s = .next (counter 0)) ∧
    (s.issues i (.kt (.ctr 1) rd a b) r rs k → exec (.ktScsub i rd a b) s = .next (counter 1)) ∧
    (s.issues i (.kt (.ctr 2) rd a b) r rs k → exec (.ktScset i rd a b) s = .next (counter 2)) ∧
    (s.issues i (.kt (.ctr 3) rd a b) r rs k → exec (.ktScrd i rd a b) s = .next (counter 3)) ∧
    (s.issues i (.kt .scwait rd a b) r rs k → exec (.ktScwait i rd a b) s = .next (waits .scwait false)) ∧
    (s.issues i (.kt .scwaitc rd a b) r rs k → exec (.ktScwaitc i rd a b) s = .next (waits .scwaitc true)) ∧
    (s.issues i (.kt .bar 0 a b) r rs k → exec (.ktBar i a b) s = .next (run .bar (fun m x => m.barLane d a b x))) ∧
    (s.issues i (.kt (.mbar true) 0 a 0) r rs k → exec (.ktMbarArriveWait i a) s = .next (settled (slot true))) ∧
    (s.issues i (.kt (.mbar false) 0 a 0) r rs k → exec (.ktMbarArrive i a) s = .next (settled (slot false))) ∧
    (s.issues i (.kt (.fence 0) 0 0 0) r rs k → exec (.ktFenceBlock i) s = .next (runs (.fence 0) 0 0 near)) ∧
    (s.issues i (.kt (.fence 1) 0 0 0) r rs k → exec (.ktFenceCluster i) s = .next (runs (.fence 1) 0 0 near)) ∧
    (s.issues i (.kt (.fence 2) 0 0 0) r rs k → exec (.ktFenceDie i) s = .next (runs (.fence 2) 0 0 near)) ∧
    (s.issues i (.kt (.fence 3) 0 0 0) r rs k → exec (.ktFenceModule i) s = .next (runs (.fence 3) 0 0 (fun m x =>
      if m.earlierVisible d x then m.modThread d x Thread.retire else m.hold d x .visible))) ∧
    (s.issues i (.kt (.fence 4) 0 0 0) r rs k → exec (.ktFenceRelease i) s = .next (runs (.fence 4) 0 0 (fun m x =>
      let m := m.fenceIssue d x
      if m.unsent d x then m.hold d x .unsent else m.startFence d x (m.fenceWindow d)))) ∧
    (s.issues i (.kt (.fence 5) 0 0 0) r rs k → exec (.ktFenceAcquire i) s = .next (runs (.fence 5) 0 0 (fun m x =>
      let m := m.fenceIssue d x
      if !m.earlierVisible d x then m.hold d x .visible
      else match m.advanceEpoch d with
      | (m, true) => m.fenceDone d x
      | (m, false) => m.hold d x .epoch))) ∧
    (s.issues i (.kt (.fence 6) 0 0 0) r rs k → exec (.ktFenceFull i) s = .next (runs (.fence 6) 0 0 (fun m x =>
      let m := m.fenceIssue d x
      if m.unsent d x then m.hold d x .unsent
      else match m.advanceEpoch d with
        | (m, true) => m.startFence d x (m.fenceWindow d)
        | (m, false) => m.hold d x .epoch))) ∧
    (s.issues i (.kt .exit 0 0 0) r rs k → exec (.ktExit i) s = .next (runs .exit 0 0 (fun m x => m.threadExit d x)))

/-- R200, R206 to R210, R238, R240, R242, R299: what the Xkt instructions of queues, counters and prefetches do with one thread: a push
takes the 64 bytes at rs1 into its queue, once it has a credit, and gives the descriptor's number, or stalls behind a full queue; a
counter instruction gives the value from before it; a wait is joined to its counter; a prefetch never faults. Readings and choices of
the model that it rests on: log 37, 44, 45, 47, 51, 75. -/
def Obligations.OneThreadsKtInstruction : Prop :=
  ∀ (s : State) (i : Issue) (r : ThreadRef) (k : Block) (t : Thread) (rd a b : Fin 32), smSorted s.m.cores = true → s.m.thread i.die r = some t →
    let d := i.die.val
    let m (x : KtOp) (b : Nat) := s.reading i k [r] (.kt x rd a b)
    let goes (m : Mach) : Host.Outcome State Fault Refusal := .next (s.setM m)
    let h := t.getX a
    let v := t.getX b % 2 ^ 32
    let die := bitsOf h 14 12
    let n := bitsOf h 11 0
    (∀ (q : Fin 4) (m' : Mach) (p : Place), s.issues i (.kt (.qpush q) rd a 0) r [] k → let va := s.m.laneVa d r a 0
      (m (.qpush q) 0).placeFor d r .desc va 64 = (m', .ok p) → m'.live d r = true →
      (m'.stallsOf d r.core q).any (fun p => p.who == r) = false →
      (∀ (m3 m4 m5 : Mach) (bs : List Byte) (seq : Nat), m'.creditsUsed d r.core q < queueDepth q → (m'.stallsOf d r.core q).all (·.granted) = true →
        let m2 := m'.modStalls d r.core q (fun l => l ++ [{ who := r, granted := true }])
        m2.descPoison d (r, va, p) = none → m2.laneGate d r .desc p = (m3, true) → m3.readDesc d r va p = (m4, some (bs, false)) →
        (m4.modStalls d r.core q (fun l => l.filter (fun p => p.who != r))).enqueue d r.core q (wordsOf bs 8) = (m5, seq) →
        exec (.ktQpush i q rd a) s = goes ((if q = 0 then m5.planWindow d r.core else m5).doneX d r rd seq)) ∧
      (queueDepth q ≤ m'.creditsUsed d r.core q → exec (.ktQpush i q rd a) s =
        goes (((m'.modStalls d r.core q (fun l => l ++ [{ who := r, granted := false }])).modThread d r (fun t => { t with wait := .push })).ev
          Fld.cqEvents_push_stall d (c := r.core)))) ∧
    (s.issues i (.kt (.ctr 3) rd a b) r [] k → (m (.ctr 3) b).handleOk d r h false false = true → bitOf h 15 = false →
      exec (.ktScrd i rd a b) s = goes ((m (.ctr 3) b).doneX d r rd ((m (.ctr 3) b).get Fld.syncCtr_value die n))) ∧
    (s.issues i (.kt (.ctr 0) rd a b) r [] k → (m (.ctr 0) b).handleOk d r h true false = true → bitOf h 15 = false →
      (m (.ctr 0) b).earlierVisible d r = true → exec (.ktScadd i rd a b) s =
        goes (((m (.ctr 0) b).doneX d r rd ((m (.ctr 0) b).get Fld.syncCtr_value die n)).ctrApply die n .add v 0 ((m (.ctr 0) b).srcThread d r)).1) ∧
    (s.issues i (.kt (.ctr 1) rd a b) r [] k → (m (.ctr 1) b).handleOk d r h false false = true → bitOf h 15 = false →
      (m (.ctr 1) b).earlierVisible d r = true → exec (.ktScsub i rd a b) s =
        goes (((m (.ctr 1) b).doneX d r rd ((m (.ctr 1) b).get Fld.syncCtr_value die n)).ctrApply die n .sub v 1 ((m (.ctr 1) b).srcThread d r)).1) ∧
    (s.issues i (.kt (.ctr 2) rd a b) r [] k → (m (.ctr 2) b).handleOk d r h false false = true → bitOf h 15 = false →
      (m (.ctr 2) b).earlierVisible d r = true → exec (.ktScset i rd a b) s =
        goes (((m (.ctr 2) b).doneX d r rd ((m (.ctr 2) b).get Fld.syncCtr_value die n)).ctrApply die n .set v 2 ((m (.ctr 2) b).srcThread d r)).1) ∧
    (s.issues i (.kt (.ctr 0) rd a b) r [] k → h < 2 ^ 30 → bitOf h 15 = true →
      (m (.ctr 0) b).requestRefused d (bitsOf h 29 16) (.add die n v) = false → exec (.ktScaddRemote i rd a b) s =
        goes ((((m (.ctr 0) b).doneX d r rd 0).cnt .syncCnt d 6).remoteSend d (bitsOf h 29 16) (.add die n v) (.store r) 0)) ∧
    (s.issues i (.kt .scwait rd a b) r [] k → (m .scwait b).handleOk d r h false true = true → exec (.ktScwait i rd a b) s =
      goes (((m .scwait b).modThread d r (fun t => { t with wait := .counter })).ctrWait d n v false (.thread r rd))) ∧
    (s.issues i (.kt .scwaitc rd a b) r [] k → (m .scwaitc b).handleOk d r h false true = true → exec (.ktScwaitc i rd a b) s =
      goes (((m .scwaitc b).modThread d r (fun t => { t with wait := .counter })).ctrWait d n v true (.thread r rd))) ∧
    (∀ m' pa mirror rest, s.issues i (.kt (.pref true) 0 a 0) r [] k →
      (s.reading i k [r] (.kt (.pref true) 0 a 0)).translate d r.core (s.m.laneVa d r a 0) .read = (m', .ok (.coherent pa mirror rest)) →
      exec (.ktPrefL1 i a) s = goes ((m'.l1Prefetch d r.core pa mirror).modThread d r Thread.retire)) ∧
    (∀ m' pa mirror rest, s.issues i (.kt (.pref false) 0 a 0) r [] k →
      (s.reading i k [r] (.kt (.pref false) 0 a 0)).translate d r.core (s.m.laneVa d r a 0) .read = (m', .ok (.coherent pa mirror rest)) →
      exec (.ktPrefDieCache i a) s = goes ((m'.corePrefetch d r.core d none pa (.thread r.core) mirror).modThread d r Thread.retire)) ∧
    (∀ m' e, s.issues i (.kt (.pref true) 0 a 0) r [] k →
      (s.reading i k [r] (.kt (.pref true) 0 a 0)).translate d r.core (s.m.laneVa d r a 0) .read = (m', .error e) → (∀ w, e ≠ .wait w) →
      exec (.ktPrefL1 i a) s = goes (m'.modThread d r Thread.retire))

/-- R200, Table 7.2: votes, shuffles and KT.ACTIVE: each thread of the issue takes its result in rd and goes on to the next
instruction: the mask of the lanes whose rs1 is not zero, whether any or every one is; rs1 of the lane that rs2 selects, of the
thread's own where that lane does not issue; the mask of the lanes that issue. No other thread, no memory, no die and no register but
those of the thread groups' counters is changed. Readings and choices of the model that it rests on: log 44, 45. -/
def Obligations.VotesAndShuffles : Prop :=
  ∀ (s : State) (i : Issue) (r : ThreadRef) (rs : List ThreadRef) (k : Block) (rd a b : Fin 32), smSorted s.m.cores = true → s.m.regsSorted →
    let d := i.die.val
    let all := r :: rs
    let lane (x : ThreadRef) : Nat := x.thread % 64
    let yes := all.filter (fun x => s.m.tx d x a != 0)
    let pick (src : ThreadRef → Int) (x : ThreadRef) : Nat :=
      match all.find? (fun y => (lane y : Int) == src x) with | some y => s.m.tx d y a | none => s.m.tx d x a
    let idx (x : ThreadRef) : Nat := s.m.tx d x b % 64
    let gives (o : Host.Outcome State Fault Refusal) (v : ThreadRef → Nat) : Prop := ∃ t : State, o = .next t ∧ t.pending = s.pending ∧
      (∀ x ∈ all, t.m.thread d x = (s.m.thread d x).map (fun y => (y.setX rd (v x)).retire)) ∧
      (∀ d' x, d' ≠ d ∨ x ∉ all → d' < 8 → x.core < 32 → t.m.thread d' x = s.m.thread d' x) ∧ t.m.mem = s.m.mem ∧ t.m.dies = s.m.dies ∧
      (∀ id : RegId, id.reg ≠ .tguCnt → t.m.reg id = s.m.reg id)
    (s.issues i (.kt .active rd 0 0) r rs k → gives (exec (.ktActive i rd) s) (fun _ => laneMask all)) ∧
    (s.issues i (.kt (.vote 0) rd a 0) r rs k → gives (exec (.ktVoteBallot i rd a) s) (fun _ => laneMask yes)) ∧
    (s.issues i (.kt (.vote 1) rd a 0) r rs k → gives (exec (.ktVoteAny i rd a) s) (fun _ => b2n (!yes.isEmpty))) ∧
    (s.issues i (.kt (.vote 2) rd a 0) r rs k → gives (exec (.ktVoteAll i rd a) s) (fun _ => b2n (decide (yes.length = all.length)))) ∧
    (s.issues i (.kt (.shfl 0) rd a b) r rs k → gives (exec (.ktShflIndex i rd a b) s) (pick (fun x => idx x))) ∧
    (s.issues i (.kt (.shfl 1) rd a b) r rs k → gives (exec (.ktShflXor i rd a b) s) (pick (fun x => ((lane x ^^^ idx x : Nat) : Int)))) ∧
    (s.issues i (.kt (.shfl 2) rd a b) r rs k → gives (exec (.ktShflUp i rd a b) s) (pick (fun x => (lane x : Int) - idx x))) ∧
    (s.issues i (.kt (.shfl 3) rd a b) r rs k → gives (exec (.ktShflDown i rd a b) s) (pick (fun x => (lane x : Int) + idx x)))

/-- R177 to R179, R205: an issue slot of a scheduler with no group that can issue counts a stall; else the next group in rotation
issues the instruction at its chosen pc to those of its ready threads that are there, an instruction that all of them only try again
counting a stall; a fetch that faults or must wait counts one too. A priority pc is granted with `starve_grant`. R194, R204, R259,
R373, R379: the limits of barriers and fences: a block barrier that has not completed in its time faults its block with cause 06H; a
slot that has not is reported once, with `bar_timeout`; fences older than 2 ms are reported, each once, and stay waiting. Readings and
choices of the model that it rests on: log 43, 44, 45, 119. -/
def Obligations.IssueSlotsAndTimeouts : Prop :=
  (∀ (s : State) (d : Fin 8) (c : Fin 32) (q : Fin 4), s.m.dieRuns d = true →
     (∀ bad, s.m.nextGroup d c q = none → exec (.issueSlot d c ⟨q, bad⟩) s = .next (s.setM ((s.m.cnt .tguCnt d 2 (c := c)).nutmegAll))) ∧
     (∀ bad k g pc first r rs m' res, s.m.nextGroup d c q = some (k, g) → let ready := s.m.readyAt d c k g
       choosePc ready k.passed g = some (pc, first) →
       (ready.filter (fun x => x.2.pc == pc)).map (fun x => (⟨c, k.slot, x.1⟩ : ThreadRef)) = r :: rs →
       let m0 := (s.m.modCore d c (fun x => { x with lastGroup := x.lastGroup.filter (fun y => y.1 != q.val) ++ [(q.val, k.slot * 16 + g)] })).modBlock
         d c k.slot (fun x => { x with passed := passOver ready x.passed g pc })
       let m := if first then (m0.cnt .tguCnt d 4 (c := c)).ev Fld.tguEvents_starve_grant d (c := c) else m0
       let fresh := m.freshCount d (r :: rs)
       m.fetch d r pc = (m', res) → exec (.issueSlot d c ⟨q, bad⟩) s = .next (s.setM (Mach.nutmegAll (match res with
         | .word w => ((if fresh = 0 then m'.cnt .tguCnt d 2 (c := c) else m').issueCount d c k g fresh).execOp d (r :: rs) (decodeRv w)
             { regBad := bad, hints := bitsOf w 26 25 }
         | .fault cause => (m'.cnt .tguCnt d 2 (c := c)).threadFault d r cause pc
         | .wait h => (m'.cnt .tguCnt d 2 (c := c)).holdFetch d (r :: rs) h))))) ∧
  ((∀ (s : State) (d : Fin 8) (c b : Fin 32) (k : Block) (x : BarInst), s.m.dieRuns d = true → s.m.block d c b = some k →
     k.bars.find? (fun x => decide (x.start + x.limit ≤ s.m.cc d)) = some x →
     ∃ info : FaultInfo, info.thread = x.first ∧ info.barId = x.id ∧ exec (.barrierTimeout d c b) s =
       .next (s.setM (s.m.blockFault d c b 0x06 info))) ∧
   (∀ (s : State) (d : Fin 8) (md : Bool) (n : Fin 64) (t0 : Nat), s.m.dieRuns d = true → (s.m.slotSt d md n).start = some t0 →
     (s.m.slotSt d md n).sent = false → (s.m.slotDies d md n).head?.getD d = d →
     t0 + 2 ^ s.m.get Fld.syncBarWdog_wdog_log2 d ≤ s.m.cc d → exec (.barSlotTimeout d md n) s = .next (s.setM (
       let m := ((s.m.setSlotSt d md n { s.m.slotSt d md n with sent := true }).ev Fld.syncDieEvents_bar_timeout d).cnt .syncCnt d 11
       m.syncRec d 0x04 (b2n md * 2048 + n) 0 srcOther 0 0 0 (s.m.slotMasks d md n).1 (s.m.slotMasks d md n).2 (m.slotGen d md n)))) ∧
   (∀ (s : State) (d : Fin 8) (md : Bool) (n : Fin 64), s.m.dieRuns d = true → (s.m.slotSt d md n).sent = true →
     exec (.barSlotTimeout d md n) s = .next s) ∧
   (∀ (s : State) (d : Fin 8), s.m.dieRuns d = true → exec (.fenceTimeout d) s = .next (s.setM (
     let late := (s.m.fab d).fences.filter (fun f => !f.sent && decide (f.start + 400000 ≤ s.m.pmu d))
     let m := s.m.modFab d (fun x => { x with fences := x.fences.map (fun f => if late.contains f then { f with sent := true } else f) })
     late.foldl (fun m f => ((m.ev Fld.fabEvents_fence_timeout d).cnt .fabCnt d 5).fabRec d 0x27 0x7F
       (((if f.begun then f.window else m.fenceWindow d).head?.map (·.1)).getD 0) (coreNum d f.who.core) f.who.thread 0 0
       false false (((m.ev Fld.fabEvents_fence_timeout d).cnt .fabCnt d 5).slotList d)) m))))

/-! ### Launches (spec/08) -/

/-- R211, R213, R215, R218, R219, R222: LAUNCH_READ takes the launch descriptor at the head of an enabled queue that has one, with no
launch of the queue still placing: the head moves, and the launch is recorded as poisoned, as out of range at its first bad field, or
starts: it joins the partition's launches, none of its blocks placed, waiting on its counter where it says so. While an ABORT of the
partition is in progress nothing is read (R500). R220, R221, R223, R226: BLOCK_PLACE gives the next block, or cluster of blocks, of the
launch whose turn it is to the cores of a cluster place that all have room, in ascending order; the launch counts them placed; the
other launches stay as they are. While an ABORT of the partition is in progress no block is placed (R500). R176, R180, R183, R184,
R189: a block that is placed: its threads start at the kernel's entry with the launch's arguments, its local store is empty and of the
launch's size, it runs no barrier, no register of it is kept, and its core counts it. Readings and choices of the model that it rests
on: log 6, 53, 54, 121, 141. -/
def Obligations.LaunchesPlaceTheirBlocks : Prop :=
  ((∀ (s : State) (slot : Fin 8) (q : Fin 16), s.m.dataPlane = true → s.m.aborting slot = true → exec (.launchRead slot q) s = .next s) ∧
   ∀ (s : State) (slot : Fin 8) (q : Fin 16) (p : Part) (m' : Mach) (bs : List (Byte × Bool)), s.m.dataPlane = true →
     s.m.partAt slot = some p → s.m.flag Fld.lqCfg_enable p.low q = true → s.m.get Fld.lqHead_head p.low q ≠ s.m.get Fld.lqTail_tail p.low q →
     p.launches.any (fun l => l.lq == q.val && !l.allPlaced) = false → s.m.aborting slot = false →
     let head := s.m.get Fld.lqHead_head p.low q
     s.m.tableRead (Via.engine p.low)
       (s.m.get Fld.lqBase_base p.low q * 128 + 128 * (head % 2 ^ s.m.get Fld.lqCfg_log2_entries p.low q)) 128 = (m', .ok bs) →
     let m := m'.put Fld.lqHead_head p.low (head + 1) q
     let ws := wordsOf (plain bs) 16
     (anyPoison bs = true → exec (.launchRead slot q) s = .next (s.setM (m.launchDone p q head ws stPoisoned none 0 0))) ∧
     (∀ bit, anyPoison bs = false → firstBad (launchChecks p ws) = some bit →
       exec (.launchRead slot q) s = .next (s.setM (m.launchDone p q head ws stFieldRange (some bit) 0 0))) ∧
     (anyPoison bs = false → firstBad (launchChecks p ws) = none →
       let l : Launch := { lq := q, seq := head, words := ws, released := !hWaitEn ws, placed := List.replicate (lKernels ws) 0,
                           exited := 0, faulted := 0, rows := launchRows p ws }
       let m := m.modPart slot (fun x => { x with launches := x.launches ++ [l] })
       exec (.launchRead slot q) s = .next (s.setM (
         if hWaitEn ws then m.ctrWait (lCtrDie ws) (hWaitCtr ws) (hWaitVal ws) false (.launch slot q head) else m)))) ∧
  ((∀ (s : State) (slot d : Fin 8) (c : Fin 32), s.m.dieRuns d = true → s.m.aborting slot = true → exec (.blockPlace slot d c) s = .next s) ∧
   ∀ (s : State) (slot d : Fin 8) (c : Fin 32) (p : Part) (l : Launch) (i : Nat), s.m.dieRuns d = true → s.m.partAt slot = some p →
     p.nextLaunch = some l → l.kernelAt d c = some i → s.m.aborting slot = false →
     let n := lCluster l.words
     let cores := (List.range n).map (fun r => c / n * n + r)
     let room := cores.map (fun x => s.m.roomFor d x l.words i)
     let first := l.placed.getD i 0
     (room.all (·.isSome) = true → exec (.blockPlace slot d c) s = .next (s.setM (
       let m := (cores.zip room).foldl (fun m x => m.placeOn slot l i d x.1 (first + x.1 % n) (x.1 % n) (x.2.getD [])) s.m
       (m.modPart slot (fun x =>
         { x with lastQueue := l.lq,
                  launches := x.launches.map (fun y => if y.lq = l.lq ∧ y.seq = l.seq then
                    { y with placed := y.placed.modify i (· + n) } else y) })).drainSettle slot))) ∧
     (room.all (·.isSome) = false → ∃ m : Mach, exec (.blockPlace slot d c) s = .next (s.setM m) ∧ m.parts = s.m.parts ∧
       m.mem = s.m.mem ∧ m.cores = s.m.cores)) ∧
  (∀ (m : Mach) (slot : Nat) (l : Launch) (i d c index rank : Nat) (sched : List Nat), smSorted m.cores = true →
     let x := (m.takeSplit d c (lLsSize l.words)).core d c
     ∃ b : Block, (m.placeOn slot l i d c index rank sched).core d c = { x with blocks := x.blocks ++ [b] } ∧
       b.part = slot ∧ b.lq = l.lq ∧ b.launch = l.seq ∧ b.kernel = i ∧ b.index = index ∧ b.crank = rank ∧ b.csize = lCluster l.words ∧
       b.nblk = kBlocks l.words i ∧ b.xregs = kXregs l.words i ∧ b.fregs = kFregs l.words i ∧ b.sched = sched ∧ b.ended = false ∧
       b.threads = List.replicate (kThreads l.words i) (Thread.start (kEntry l.words i) (kArgs l.words i)) ∧ b.ls = [] ∧
       b.lsBytes = kLs l.words i * 4096 ∧ b.bars = [] ∧ b.kept = [] ∧ (x.blocks.length < 32 → b.slot < 32 ∧ ∀ k ∈ x.blocks, k.slot ≠ b.slot))

/-! ### The matrix array and its sparsity unit (spec/04, spec/05) -/

/-- R86, R90, R91, R97, R103, R106, R109, R111, R125: the rows of the matrix array, each when it is due. R103, R104: CHECKSUM_COMPARE
takes the oldest segment that waits to be compared. Where its row and column checks agree with its cells, the plane counts as compared
and nothing of the tile is redone; where they do not, the first mismatching row and column are reported. Readings and choices of the
model that it rests on: log 6, 55, 56, 57, 114, 115, 116, 117, 118, 127, 134, 135, 136, 147. -/
def Obligations.ArrayRows : Prop :=
  (∀ (s : State) (d : Fin 8) (c : Fin 32), s.m.dieRuns d = true →
     let a := s.m.arr d c
     let goes (m : Mach) : Host.Outcome State Fault Refusal := .next (s.setM m)
     (∀ x bit, s.m.fenced d c = false → s.m.oldest d c 0 = some x → x.waiting = false → x.released = false →
       firstBad (s.m.arrayChecks d c x) = some bit → exec (.arrayDescriptorStart d ⟨c, false⟩) s =
         goes (((s.m.dropAhead d c x.seq).completeBad d c 0 x bit).planWindow d c)) ∧
     (∀ x, s.m.fenced d c = false → s.m.oldest d c 0 = some x → x.waiting = false → x.released = false →
       exec (.arrayDescriptorStart d ⟨c, true⟩) s =
         goes ((((s.m.toCp d 0x34 false false [(4, 7), (8, coreNum d c), (48, 0)]).dropAhead d c x.seq).complete d c 0 x stPoisoned none 0 0).planWindow
           d c)) ∧
     (∀ x m', s.m.fenced d c = false → s.m.oldest d c 0 = some x →
       x.waiting = true ∨ x.released = true ∨ firstBad (s.m.arrayChecks d c x) = none → s.m.waitDone d c 0 x = (m', true) →
       let desc := ((m'.startDesc d c 0 x.seq).arr d c).taken x.seq x.words
       let m := (m'.startDesc d c 0 x.seq).modArr d c (fun y => { y with ahead := y.ahead.filter (fun z => z.seq != x.seq) })
       (m.arr d c).tiles.find? (fun t => t.accepting) = none → aFirst x.words = true → exec (.arrayDescriptorStart d ⟨c, false⟩) s =
         goes (((((m.modArr d c (fun y => { y with tiles := y.tiles ++ [{ Tile.new x.seq x.words with descs := [desc] }] })).fetchMissed d c x.seq desc).planWindow
           d c).arrFinish d c).arrStatus d c)) ∧
     (∀ x m' t, s.m.fenced d c = false → s.m.oldest d c 0 = some x →
       x.waiting = true ∨ x.released = true ∨ firstBad (s.m.arrayChecks d c x) = none → s.m.waitDone d c 0 x = (m', true) →
       let desc := ((m'.startDesc d c 0 x.seq).arr d c).taken x.seq x.words
       let m := (m'.startDesc d c 0 x.seq).modArr d c (fun y => { y with ahead := y.ahead.filter (fun z => z.seq != x.seq) })
       (m.arr d c).tiles.find? (fun t => t.accepting) = some t → t.err = 0 → t.breach x.words = false →
       exec (.arrayDescriptorStart d ⟨c, false⟩) s = goes (((((m.modTile d c t.uid (fun y =>
         { y with descs := y.descs ++ [{ desc with again := t.descs.any (·.again) }], accepting := !aLast x.words })).fetchMissed d c t.uid
           desc).planWindow d c).arrFinish d c).arrStatus d c)) ∧
     (∀ t p, a.tiles.find? (fun t => !t.opened && t.err == 0) = some t → s.m.fenced d c = false → a.openTiles.length < 2 →
       (a.tiles.takeWhile (fun x => x.uid != t.uid)).any (fun x => !x.opened || !x.streamed || (x.attempt == 2 && t.seq.isSome)) = false →
       (∀ x, t.current = some x → x.streamable = true ∧ ∀ b, t.nextBlock x x.pos = some b →
         a.operand x 0 b ≠ .absent ∧ a.operand x 1 b ≠ .absent) →
       (List.range 2).find? (fun p => s.m.planeState d c p == plFree) = some p →
       exec (.tileOpen d c) s = goes (
         let m := if t.seq.isNone then s.m.modArr d c (fun a => { a with tileSeq := a.tileSeq + 1 }) else s.m
         let g := if aSpill t.words0 = 0 then m.get Fld.arrCfg_spill_log2 d (c := c) else aSpill t.words0
         let m := m.modTile d c t.uid (fun x => { x with seq := some (t.seq.getD a.tileSeq), opened := true,
                                                         sLog := if t.seq.isSome then t.sLog else g, plane := p, seg := 0, spilled := false })
         (((m.modPlane d c p (fun _ => { ArrPlane.init with owner := t.uid, last := some t.uid })).setPlaneState d c p plAccum).arrFinish
           d c).arrStatus d c)) ∧
     (∀ (seq block : Nat) (op : Fin 4) t x m' codes bad, a.tiles.find? (fun t => t.err == 0 && t.descs.any (fun x => x.seq == seq)) = some t →
       t.descs.find? (fun x => x.seq == seq) = some x → (x.wants op block).1 = true →
       a.feed.any (fun f => f.seq == seq && f.block == block && f.op == op.val) = false →
       a.ringUsed (op.val % 2 == 1) + ceilDiv (aLines x.words (op.val % 2 == 1) * 32 * elemBits (aFmt x.words (op.val % 2 == 1))) 8 ≤
         s.m.ringRoom d c (op.val % 2 == 1) →
       x.miss.testBit block = false → aResident x.words (op.val % 2 == 1) = false → op.val < 2 ∨ aSplit3 x.words = true →
       s.m.streamBlock d c seq x.words op block = (m', .ok (codes, bad)) → exec (.operandFetchComplete d c seq block op) s =
         goes (m'.modArr d c (fun a => { a with feed := a.feed ++ [⟨seq, block, op, codes, bad, false⟩] }))) ∧
     (∀ up bad, s.m.drooping d = true → exec (.kGroupEnter d c ⟨up, bad⟩) s = goes (s.m.cnt .arrCnt d 5 (c := c))) ∧
     (∀ up bad, s.m.drooping d = false → bubbleSlot a.bubbles a.slot = true → exec (.kGroupEnter d c ⟨up, bad⟩) s =
       goes ((s.m.arrSlot d c).cnt .arrCnt d 5 (c := c))) ∧
     (∀ up t x b ca ba cb bb, s.m.drooping d = false → bubbleSlot a.bubbles a.slot = false → a.streaming = some t → t.current = some x →
       x.streamable = true → t.nextBlock x x.pos = some b →
       let idx := if b = x.pos then x.grp else 0
       let m := s.m.arrSlot d c
       (m.arr d c).operand x (passOps x.words idx).1 b = .ready ca ba → (m.arr d c).operand x (passOps x.words idx).2 b = .ready cb bb →
       exec (.kGroupEnter d c ⟨up, true⟩) s =
         goes (((m.toCp d 0x34 false false [(4, 4), (8, coreNum d c), (48, 0)]).abandonTile d c t.uid 1 stPoisoned []).planWindow d c)) ∧
     (∀ up t x b m', s.m.drooping d = false → bubbleSlot a.bubbles a.slot = false → a.streaming = some t → t.current = some x → x.streamable = true →
       t.nextBlock x x.pos = some b →
       let idx := if b = x.pos then x.grp else 0
       (s.m.arrSlot d c).enterGroup d c t x b idx up = (m', .entered) → exec (.kGroupEnter d c ⟨up, false⟩) s = goes (
         let last := idx + 1 == blockGroups x.words
         let m := m'.modTDesc d c x.seq (fun y => { y with pos := if last then b + 1 else b, grp := if last then 0 else idx + 1 })
         let m := (if last then m.dropBlock d c x.seq b else m).spillFull d c t.uid
         ((m.planWindow d c).arrFinish d c).arrStatus d c)) ∧
     (∀ dis p t, s.m.spillPlane d c = some p → s.m.planeTile d c p = some t → t.spilled = true ∨ s.m.storeState d c = plFree →
       exec (.spill d c dis) s = goes (
         let sum := spillInto a.store (a.plane p) (!t.spilled)
         let m := s.m.modArr d c (fun a => { a with store := sum, storeOwner := t.uid, storeLast := some t.uid, storePoisonAb := false })
         let m := m.setStoreState d c (if t.streamed && p == t.plane then plCheck else plAccum)
         let m := (m.modPlane d c p (fun x => { x with added := true })).modTile d c t.uid (fun x => { x with spilled := true })
         let m := m.cnt .arrCnt d 7 (c := c)
         if dis then m.mismatch d c t (a.plane p).seg 0xFF 0xFF else m.arrStatus d c)) ∧
     (∀ dis p t, s.m.spillPlane d c = some p → s.m.planeTile d c p = some t → t.spilled = false → s.m.storeState d c ≠ plFree →
       exec (.spill d c dis) s = goes (s.m.cnt .arrCnt d 4 (c := c))) ∧
     (∀ p, (List.range 2).find? (fun p => s.m.planeState d c p == plSpill && (a.plane p).added && (a.plane p).compared) = some p →
       exec (.spillComplete d c) s = goes (((s.m.modPlane d c p (fun x => { ArrPlane.init with last := x.last })).setPlaneState d c p plFree).arrStatus d c)) ∧
     (∀ t, a.tiles.head? = some t → t.opened = true → t.streamed = true → t.spilled = false →
       (∀ p, p < 2 → s.m.planeState d c p = plSpill ∨ s.m.planeState d c p = plCheck → (a.plane p).owner = t.uid →
         (a.plane p).compared = true ∧ (s.m.planeState d c p = plSpill → (a.plane p).added = true)) →
       ∀ m' scl, s.m.tileScl d t = (m', scl) → exec (.tileRelease d c) s = goes (
         let w := statusWord (t.seq.getD 0) 0 t.plane t.skipped scl t.corr t.chk t.nan t.sat true
         let m := (m'.setPlaneState d c t.plane plReleased).modArr d c (fun a => { a with tiles := a.tiles.tail })
         let m := (m.tileStatus d c w).cnt .arrCnt d 0 (c := c)
         let m := if t.sat then (m.ev Fld.arrEvents_sat_tile d (c := c)).cnt .arrCnt d 12 (c := c) else m
         let m := if t.nan then (m.ev Fld.arrEvents_nan_tile d (c := c)).cnt .arrCnt d 13 (c := c) else m
         let m := if t.attempt = 2 then (m.ev Fld.arrEvents_recompute_pass d (c := c)).cnt .arrCnt d 11 (c := c) else m
         let m := m.dropFeed d c (t.descs.map (·.seq))
         ((t.descs.foldl (fun m x => m.arrComplete d c x.seq stOk w) m).arrStatus d c).planWindow d c))) ∧
  (∀ (s : State) (d : Fin 8) (c : Fin 32) (p : Nat) (t : Tile), s.m.dieRuns d = true → p < 2 →
     let a := s.m.arr d c
     s.m.comparable d c p = true → (∀ q, q < 2 → q ≠ p → s.m.comparable d c q = false) → s.m.planeTile d c p = some t →
     (compareSegment (a.plane p) = none → exec (.checksumCompare d c) s = .next (s.setM (
       ((s.m.modPlane d c p (fun x => { x with compared := true })).modTile d c t.uid (fun x => { x with skipped := true })).cnt
         .arrCnt d 9 (c := c)))) ∧
     (compareSegment (a.plane p) = some (0xFF, 0xFF) → exec (.checksumCompare d c) s = .next (s.setM (
       (s.m.cnt .arrCnt d 8 (c := c)).modPlane d c p (fun x => { x with compared := true })))) ∧
     (∀ r q, compareSegment (a.plane p) = some (r, q) → r ≠ 0xFF ∨ q ≠ 0xFF → exec (.checksumCompare d c) s = .next (s.setM (
       (s.m.cnt .arrCnt d 8 (c := c)).mismatch d c t (a.plane p).seg r q))))

/-- R127, R130, R132, R133, R136, R138, R139: the rows of the sparsity unit: the prediction of a descriptor is read from its history
entry, the zero map that was really written decides which blocks are skipped and which predictions missed, each block that a verify
reads is judged, and a missed block's groups are added. Readings and choices of the model that it rests on: log 6, 55, 116, 127, 135,
136, 137. -/
def Obligations.SparsityRows : Prop :=
  ∀ (s : State) (d : Fin 8) (c : Fin 32), s.m.dieRuns d = true →
    let goes (m : Mach) : Host.Outcome State Fault Refusal := .next (s.setM m)
    (∀ t x, (s.m.window d c).find? (fun y => !y.2.planned && y.2.mode == 2) = some (t, x) → aHist x.words = 0x7FF →
      exec (.sumacPredictionRead d c) s = goes ((s.m.modTDesc d c x.seq (fun y => { y with planned := true, pred := 0 })).sumStatus d c)) ∧
    (∀ t x m1 h m2 v, (s.m.window d c).find? (fun y => !y.2.planned && y.2.mode == 2) = some (t, x) → aHist x.words ≠ 0x7FF →
      s.m.histEntry d (aHist x.words) = (m1, h, false, false) → h.valid = true → m1.readMap d (h.map 9) h.len = (m2, v, false) →
      exec (.sumacPredictionRead d c) s = goes (
        let pred := (List.range x.blocks).foldl (fun acc b =>
          if aHistKb x.words + b ≤ h.nblk ∧ v.testBit (aHistKb x.words + b) then acc + 2 ^ b else acc) 0
        let m := m2.cnt .sumCnt d 0 (popcount pred x.blocks) (c := c)
        (m.modTDesc d c x.seq (fun y => { y with planned := true, pred })).sumStatus d c)) ∧
    (∀ seq t x m' bs, (s.m.window d c).find? (fun y => y.2.seq == seq) = some (t, x) → x.planned = true → x.mode ≠ 0 → x.act = none →
      x.redo = false → x.err = 0 → (s.m.core d c).zmapOk.contains seq = true →
      s.m.engRead (feedEng d c seq) (aZmapAddr x.words) (ceilDiv (aZmapBit x.words + x.blocks) 8) = (m', .ok bs) → anyPoison bs = false →
      exec (.zmapActualRead d c seq) s = goes (
        let act := (ofBytes (plain bs) >>> aZmapBit x.words) % 2 ^ x.blocks
        let m := m'.modCore d c (fun k => { k with zmapOk := k.zmapOk.filter (fun s => s != seq) })
        let verify := m.flag Fld.sumTblCfg_verify d
        let miss := if x.mode = 2 ∧ x.again = false then (bitsSet x.pred x.blocks).foldl (fun a b => if act.testBit b then a else a + 2 ^ b) 0 else 0
        let m := m.modTDesc d c seq (fun y => { y with act := some act, toVerify := if verify then act else 0, miss })
        let m := m.modArr d c (fun a => { a with feed := a.feed.filter (fun f =>
          !(f.seq == seq && act.testBit f.block && !x.vbad.testBit f.block && !verify)) })
        let m := (m.cnt .sumCnt d 2 (popcount miss x.blocks) (c := c)).countBlocks d c seq
        (((m.observe d c x act).planWindow d c).arrFinish d c).arrStatus d c)) ∧
    (∀ seq x b m1 codes bad, (s.m.arr d c).allDescs.find? (fun x => x.seq == seq && x.toVerify != 0) = some x →
      lowestBit x.toVerify x.blocks = some b → aSplit3 x.words = false → s.m.verifyOperand d c x 0 b = (m1, some (codes, bad), false) →
      exec (.zmapVerifyRead d c seq) s = goes (
        let nz := codes.any (fun k => !(elemVal (aFmt x.words false) k).isZero)
        let falseZero := nz && bad == 0
        let wrong := nz || bad != 0
        let m := m1.modTDesc d c seq (fun y =>
          { y with toVerify := setBits y.toVerify b b 0, vbad := if wrong then setBits y.vbad b b 1 else y.vbad,
                   vfalse := if falseZero then setBits y.vfalse b b 1 else y.vfalse,
                   miss := if wrong && !x.again then setBits y.miss b b 1 else y.miss })
        let m := if !wrong || decide (64 < (m.arr d c).missesHeld) then m.dropBlock d c seq b else m
        let m := if wrong && !x.again then m.cnt .sumCnt d 2 (c := c) else m
        let m := if falseZero then (m.ev Fld.sumEvents_zmap_false d (c := c)).cnt .sumCnt d 9 (c := c) else m
        (((m.countBlocks d c seq).sumStatus d c).arrFinish d c).arrStatus d c)) ∧
    (∀ t x b, (s.m.arr d c).streaming = some t → t.accepting = false → t.current = none →
      t.descs.any (fun x => x.toVerify != 0) = false → t.nextMiss = some (x, b) → exec (.sumacCorrection d c) s = goes (
        let m := s.m.correctGroups d c t.uid x.seq b (96 + (s.m.arr d c).bubbles)
        let finished := ((m.arr d c).tiles.find? (fun y => y.uid == t.uid)).any (fun y => decide (blockGroups x.words ≤ y.cgrp))
        let m := if finished then
            (((m.modTDesc d c x.seq (fun y => { y with miss := setBits y.miss b b 0 })).modTile d c t.uid
              (fun y => { y with cgrp := 0 })).dropBlock d c x.seq b).spillFull d c t.uid
          else m
        (((m.planWindow d c).arrFinish d c).sumStatus d c).arrStatus d c))

/-- R90: a spill adds each cell of the plane, rounded to binary64, to the store's element of the same place; the first spill of a tile
sets it; the store's other elements are 0 after a first spill, and take the sum with +0 at a later one. R94, R95: a vector read of an
accumulator location that is not RELEASED delivers nothing: `read_err` is set, no vector register and no byte of the operand cache
changes, and the descriptor ends with the status of the reason. A read with its free flag returns the location to FREE. Readings and
choices of the model that it rests on: log 139, 147. -/
def Obligations.AccumulatorsSpillAndRead : Prop :=
  (∀ (store : SMap W64) (p : ArrPlane) (first : Bool), smSorted store = true → smSorted p.cells = true →
     let t := spillInto store p first
     let wide (v : W64) : Nat := (fmtFA40.convert fmtB64 .rne v.toNat).v
     (∀ k v, (k, v) ∈ p.cells →
       smGet 0#64 t k = BitVec.ofNat 64 (if first then wide v else (fmtB64.add .rne (smGet 0#64 store k).toNat (wide v)).v)) ∧
     (∀ k, (∀ v, (k, v) ∉ p.cells) → smGet 0#64 t k = if first = true ∨ smGet 0#64 store k = 0x8000000000000000#64 then 0#64 else smGet 0#64 store k) ∧ smSorted t = true) ∧
  (∀ (m : Mach) (d c : Nat) (r : VecRun) (v : VInst) (bad : Bool), m.regsSorted →
     let loc := v.imm % 4
     let n := bitsOf v.imm 16 9
     loc ≠ 3 → n ≠ 0 → bitsOf v.imm 8 2 + n ≤ 128 → bitOf v.imm 17 = true ∨ v.vd + (if v.w then 2 * n else n) ≤ 32 → loc ≠ 2 ∨ v.w = true →
     (m.locState d c loc ≠ plReleased → vecVacc bad d c m r v =
       (m.ev Fld.arrEvents_read_err d (c := c), .fail (if m.locPoisonAb d c loc then stPoisoned else stAccRead))) ∧
     (m.locState d c loc = plReleased → bitOf v.imm 17 = false ∨ ocOk (r.sreg v.sa) (512 * (if v.w then 2 * n else n)) 64 = true →
       bad = true → loc = 2 →
       vecVacc bad d c m r v = (m.toCp d 0x34 false false [(4, 5), (8, coreNum d c), (48, 0)], .fail stPoisoned)) ∧
     (m.locState d c loc = plReleased → bitOf v.imm 17 = false ∨ ocOk (r.sreg v.sa) (512 * (if v.w then 2 * n else n)) 64 = true →
       bad = false ∨ loc ≠ 2 →
       (vecVacc bad d c m r v).2 = .next ∧ (v.free = true → (vecVacc bad d c m r v).1.locState d c loc = plFree) ∧
         (v.free = false → (vecVacc bad d c m r v).1.locState d c loc = plReleased) ∧ (vecVacc bad d c m r v).1.mem = m.mem))

/-! ### The vector engine (spec/06) -/

/-- R152, R158: each arithmetic, comparison, selection and reduction instruction computes its function in every lane of its rows, sets
its flags, and the program goes on at the next instruction. Readings and choices of the model that it rests on: log 6, 58, 59, 60, 61,
64, 65, 127, 134. -/
def Obligations.VectorArithmeticRows : Prop :=
  ∀ (s : State) (d : Fin 8) (c : Fin 32) (op : Nat) (m' : Mach) (r : VecRun) (v : VInst), s.vecAt d c op m' r v →
    let m := m'.vecNoted d c op
    let f := vFmt v.w
    let a := r.row v.w v.va
    let b := r.row v.w v.vb
    let e := r.row v.w v.vc
    let ia := r.row false v.va
    let ib := r.row false v.vb
    let gives (x : Mach × VOut) : Host.Outcome State Fault Refusal := .next (s.setM (Mach.vecThen d c r x))
    let real (xs : List FR) : Host.Outcome State Fault Refusal := gives (m.vecResult d c v xs)
    let bits (xs : List Nat) : Host.Outcome State Fault Refusal := gives (m.vecPlain d c v xs)
    let func (g : Nat → Nat → FR) : Host.Outcome State Fault Refusal := gives (m.tickFree.vecResult d c v
      (ia.mapIdx (fun i x => g ((Config.freeLane m.freeCtr i).truncate 32 : W32).toNat x)))
    (op = 0x01 → exec (.vadd d c) s = real (List.zipWith (fun x y => f.add .rne x y) a b)) ∧
    (op = 0x02 → exec (.vsub d c) s = real (List.zipWith (fun x y => f.sub .rne x y) a b)) ∧
    (op = 0x03 → exec (.vmul d c) s = real (List.zipWith (fun x y => f.mul .rne x y) a b)) ∧
    (op = 0x04 → exec (.vfma d c) s = real ((List.zip a b).mapIdx (fun i p => f.fma .rne p.1 p.2 (e.getD i 0)))) ∧
    (op = 0x05 → exec (.vneg d c) s = real (a.map (vSign false f))) ∧
    (op = 0x06 → exec (.vabs d c) s = real (a.map (vSign true f))) ∧
    (op = 0x07 → exec (.vmin d c) s = real (List.zipWith (vMinMax false f) a b)) ∧
    (op = 0x08 → exec (.vmax d c) s = real (List.zipWith (vMinMax true f) a b)) ∧
    (op = 0x09 → exec (.vdiv d c) s = real (List.zipWith (fun x y => f.div .rne x y) a b)) ∧
    (op = 0x0A → exec (.vsqrt d c) s = real (a.map (f.sqrt .rne))) ∧
    (op = 0x0B → exec (.vrcp d c) s = func vRcp) ∧
    (op = 0x0C → exec (.vrsqrt d c) s = func vRsqrt) ∧
    (op = 0x0D → exec (.vexp2 d c) s = func (vFunc 0)) ∧
    (op = 0x0E → exec (.vexp d c) s = func (vFunc 1)) ∧
    (op = 0x0F → exec (.vlog2 d c) s = func (vFunc 2)) ∧
    (op = 0x10 → exec (.vlog d c) s = func (vFunc 3)) ∧
    (op = 0x11 → exec (.vtanh d c) s = func (vFunc 4)) ∧
    (op = 0x12 → exec (.vsigm d c) s = func (vFunc 5)) ∧
    (op = 0x13 → exec (.verf d c) s = func (vFunc 6)) ∧
    (op = 0x14 → v.imm % 8 ≠ 7 → exec (.vcmp d c) s = real (List.zipWith (fun x y =>
      ⟨maskLane v.w (vCompare (v.imm % 8) (f.unpack x) (f.unpack y)),
        { FFlags.none with nv := cmpInvalid (v.imm % 8) (f.unpack x) (f.unpack y) }⟩) a b)) ∧
    (op = 0x15 → exec (.vsel d c) s = bits ((List.zip a b).mapIdx (fun i p => if e.getD i 0 = 0 then p.2 else p.1))) ∧
    (op = 0x16 → exec (.vclass d c) s = bits (a.map f.classify)) ∧
    (op = 0x18 → exec (.viadd d c) s = bits (List.zipWith (fun x y => (x + y) % 2 ^ 32) ia ib)) ∧
    (op = 0x19 → exec (.visub d c) s = bits (List.zipWith (fun x y => (x + 2 ^ 32 - y) % 2 ^ 32) ia ib)) ∧
    (op = 0x1A → exec (.vand d c) s = bits (List.zipWith (fun x y => x &&& y) ia ib)) ∧
    (op = 0x1B → exec (.vor d c) s = bits (List.zipWith (fun x y => x ||| y) ia ib)) ∧
    (op = 0x1C → exec (.vxor d c) s = bits (List.zipWith (fun x y => x ^^^ y) ia ib)) ∧
    (op = 0x1D → bitsOf v.imm 6 5 = 0 → exec (.vshift d c) s = bits (ia.map (fun x => x * 2 ^ (v.imm % 32) % 2 ^ 32))) ∧
    (op = 0x1D → bitsOf v.imm 6 5 = 1 → exec (.vshift d c) s = bits (ia.map (fun x => x / 2 ^ (v.imm % 32)))) ∧
    (op = 0x1D → bitsOf v.imm 6 5 = 2 →
      exec (.vshift d c) s = bits (ia.map (fun x => wrap 32 (signed 32 x / (2 ^ (v.imm % 32) : Nat))))) ∧
    (op = 0x1E → v.imm % 8 ≠ 7 → exec (.vicmp d c) s = bits (List.zipWith (fun x y => maskLane false (match v.imm % 8 with
      | 0 => signed 32 x == signed 32 y
      | 1 => signed 32 x != signed 32 y
      | 2 => decide (signed 32 x < signed 32 y)
      | 3 => decide (signed 32 x ≤ signed 32 y)
      | 4 => decide (signed 32 y < signed 32 x)
      | 5 => decide (signed 32 y ≤ signed 32 x)
      | _ => false)) ia ib)) ∧
    (op = 0x20 → exec (.vrsum d c) s = gives (m.vecReduce d c v (treeSum f 7
      (if v.w then ia.map (fmtB32.convert fmtB64 .rne) else ia.map (fun x => ⟨x, FFlags.none⟩))))) ∧
    (op = 0x21 → exec (.vrmax d c) s = gives (m.vecReduce d c v (foldRow f true a))) ∧
    (op = 0x22 → exec (.vrmin d c) s = gives (m.vecReduce d c v (foldRow f false a))) ∧
    (op = 0x23 → exec (.vramax d c) s = gives (m.vecReduce d c v (foldRow f true (a.map f.abs))))

/-- R149, R150, R152 to R157: each permutation, conversion, memory, operand-cache, accumulator, zero-map and scalar instruction does
what its function says, and the program goes on, jumps, waits or ends. R203, R206, R212, R161, R163: a vector descriptor that is well
formed starts once its wait is over and no program runs: its program begins at index 0 with its scalar arguments and the active-page
values of this cycle; one that is not completes with its first bad field, whatever runs; a program that has run its length completes
once every store of it is acknowledged, with status 0 where no target refused one, and an instruction of no defined opcode ends it as
illegal. Readings and choices of the model that it rests on: log 6, 57, 58, 62, 63, 66, 67, 68, 113, 114, 115, 127, 134, 139, 140, 147.
-/
def Obligations.VectorDataRows : Prop :=
  (∀ (s : State) (d : Fin 8) (c : Fin 32) (op : Nat) (m' : Mach) (r : VecRun) (v : VInst), s.vecAt d c op m' r v →
     let m := m'.vecNoted d c op
     let gives (x : Mach × VOut) : Host.Outcome State Fault Refusal := .next (s.setM (Mach.vecThen d c r x))
     let bits (xs : List Nat) : Host.Outcome State Fault Refusal := gives (m.vecPlain d c v xs)
     let loads (x : Mach × Except VOut (List Byte)) : Host.Outcome State Fault Refusal :=
       gives (match x with | (m, .ok bs) => m.vecLoadRow d c v.vd bs | (m, .error o) => (m, o))
     let n := if v.w then 32 else 64
     let rot := v.imm % 128 % (r.row v.w v.va).length
     let p : VecRun := { r with last := r.idx }
     (op = 0x28 → exec (.vperm d c) s = gives (m.tickFree.vecPlain d c v ((r.row v.w v.vb).mapIdx (fun i k =>
       match (r.row v.w v.va)[k]? with
       | some x => x
       | none => (Config.freeLane m.freeCtr i).toNat % 2 ^ (if v.w then 64 else 32))))) ∧
     (op = 0x29 → exec (.vilv d c) s = bits ((List.zip (((r.row v.w v.va).drop (n * (v.imm % 2))).take n)
       (((r.row v.w v.vb).drop (n * (v.imm % 2))).take n)).flatMap (fun x => [x.1, x.2]))) ∧
     (op = 0x2A → exec (.vdilv d c) s = bits ((List.range n).map (fun i => (r.row v.w v.va).getD (2 * i + v.imm % 2) 0) ++
       (List.range n).map (fun i => (r.row v.w v.vb).getD (2 * i + v.imm % 2) 0))) ∧
     (op = 0x2B → exec (.vrot d c) s = bits (if Config.rotUp then
       (r.row v.w v.va).drop ((r.row v.w v.va).length - rot) ++ (r.row v.w v.va).take ((r.row v.w v.va).length - rot)
       else (r.row v.w v.va).drop rot ++ (r.row v.w v.va).take rot)) ∧
     (op = 0x30 → exec (.vcvt d c) s = gives (vecVcvt d c m p v)) ∧
     (op = 0x31 → exec (.vcvts d c) s = gives (vecVcvts d c m p v)) ∧
     (op = 0x32 → exec (.vsplit d c) s = gives (m.vecPut d c r (bitOf v.imm 15) 2
       [(vAddr r v.sa 0, ((r.row false v.va).map split77).flatMap (fun x => toBytes 2 x.1)),
        (vAddr r v.sb 0, ((r.row false v.va).map split77).flatMap (fun x => toBytes 2 x.2))])) ∧
     (op = 0x33 → exec (.vunpk d c) s = gives (vecVunpk d c m p v)) ∧
     (op = 0x38 → exec (.vld d c) s = loads (m.vecRead d c r.seq (vAddr r v.sa v.simm) 512)) ∧
     (op = 0x39 → exec (.vst d c) s = gives (m.vecWrite d c r.seq [(vAddr r v.sa v.simm, rowBytes (r.lanes v.va))] 0)) ∧
     (op = 0x3A → exec (.vlds d c) s = gives (vecVlds d c m p v)) ∧
     (op = 0x3B → exec (.vsts d c) s = gives (m.vecWrite d c r.seq ((vStride r v).mapIdx (fun i a =>
       (a, ((rowBytes (r.lanes v.va)).drop ((if v.w then 8 else 4) * i)).take (if v.w then 8 else 4)))) 0)) ∧
     (op = 0x3C → exec (.vsta d c) s =
       gives (m.vecWrite d c r.seq [(vAddr r v.sa v.simm, rowBytes (r.lanes v.va))] (if v.w then 8 else 4))) ∧
     (op = 0x3D → exec (.vold d c none) s = loads (m.vecOcRead d c ((r.sreg v.sa : Int) + v.imm) 512 64)) ∧
     (op = 0x3D → ∀ dbl k, exec (.vold d c (some (dbl, k))) s = loads
       ((if ocOk ((r.sreg v.sa : Int) + v.imm) 512 64 then m.ocEcc d c (((r.sreg v.sa : Int) + v.imm).toNat / 32 + k % 16) dbl else m).vecOcRead
         d c ((r.sreg v.sa : Int) + v.imm) 512 64)) ∧
     (op = 0x3E → ocOk ((r.sreg v.sa : Int) + v.imm) 512 64 = true → exec (.vost d c) s =
       gives (m.modVec d c (fun x => x.ocWrite ((r.sreg v.sa : Int) + v.imm).toNat ((rowBytes (r.lanes v.va)).map (fun b => (b, false)))), .next)) ∧
     (op = 0x3E → ocOk ((r.sreg v.sa : Int) + v.imm) 512 64 = false → exec (.vost d c) s = gives (m, .fail stOcRange)) ∧
     (op = 0x40 → ∀ bad, exec (.vacc d ⟨c, bad⟩) s = gives (vecVacc bad d c m p v)) ∧
     (op = 0x48 → exec (.zmapclr d c) s = gives (m.modRun d c (fun x => { x with zacc := some (2 ^ 4096 - 1) }), .next)) ∧
     (op = 0x49 → exec (.zmapwr d c) s = gives (vecZmapwr d c m p v)) ∧
     (op = 0x60 → exec (.sli d c) s = gives (m.modRun d c (fun x => x.setS v.sa v.simm), .next)) ∧
     (op = 0x61 → exec (.sadd d c) s =
       gives (m.modRun d c (fun x => x.setS v.sa ((r.sreg v.sa : Int) + r.sreg v.sb + v.simm)), .next)) ∧
     (op = 0x62 → exec (.smul d c) s = gives (m.modRun d c (fun x => x.setS v.sa ((r.sreg v.sa : Int) * r.sreg v.sb)), .next)) ∧
     (op = 0x63 → exec (.sloop d c) s = gives (m.modRun d c (fun x => x.setS v.sa (wrap 64 ((r.sreg v.sa : Int) - 1))),
       if wrap 64 ((r.sreg v.sa : Int) - 1) = 0 then .next else .jump ((r.idx : Int) + v.simm))) ∧
     (op = 0x64 → exec (.sjmp d c) s = gives (m, .jump ((r.idx : Int) + v.simm)))) ∧
  ((∀ (s : State) (d : Fin 8) (c : Fin 32) (x : Desc), s.m.dieRuns d = true → s.m.fenced d c = false → s.m.oldest d c 1 = some x →
     (∀ bit, x.waiting = false → x.released = false → firstBad (vectorChecks x.words) = some bit →
       exec (.vectorDescriptorStart d ⟨c, false⟩) s = .next (s.setM ((s.m.completeBad d c 1 x bit).cnt .vecCnt d 0 (c := c)))) ∧
     (x.waiting = false → x.released = false → exec (.vectorDescriptorStart d ⟨c, true⟩) s = .next (s.setM (
       ((s.m.toCp d 0x34 false false [(4, 7), (8, coreNum d c), (48, 0)]).complete d c 1 x stPoisoned none 0 0).cnt .vecCnt d 0 (c := c)))) ∧
     (∀ m', x.waiting = true ∨ x.released = true ∨ firstBad (vectorChecks x.words) = none → s.m.waitDone d c 1 x = (m', true) →
       ((m'.vec d c).run.isSome = true → exec (.vectorDescriptorStart d ⟨c, false⟩) s = .next (s.setM m')) ∧ ((m'.vec d c).run = none →
       (wbits x.words 1 47 44 = 0 → exec (.vectorDescriptorStart d ⟨c, false⟩) s = .next (s.setM (m'.vecBegin d c x []))) ∧
       (∀ m2 bs, wbits x.words 1 47 44 ≠ 0 →
         m'.engRead (vecEng d c x.seq) (wbits x.words 3 63 16) (8 * wbits x.words 1 47 44) = (m2, .ok bs) → anyPoison bs = false →
         exec (.vectorDescriptorStart d ⟨c, false⟩) s = .next (s.setM (m2.vecBegin d c x (wordsOf (plain bs) (wbits x.words 1 47 44)))))))) ∧
   (∀ (s : State) (d : Fin 8) (c : Fin 32) (r : VecRun), s.m.dieRuns d = true → (s.m.vec d c).run = some r →
     let held := s.m.engOutstanding d c 1 r.seq
     (vLen r.words ≤ r.idx → held = false → exec (.vectorDescriptorComplete d c) s = .next (s.setM (
       s.m.vecFinish d c (if (s.m.die d).engineBad.contains (c.val, 1, r.seq) then stMemAccess else stOk)))) ∧
     (vLen r.words ≤ r.idx → held = true → exec (.vectorDescriptorComplete d c) s = .next s) ∧
     (∀ m' r' v, r.idx < vLen r.words → s.m.vecFetch d c = (m', .word r' v) → vopDefined v.op = false →
       exec (.vectorDescriptorComplete d c) s = .next (s.setM ((m'.vecNoted d c v.op).vecFinish d c stIllegal)))))

/-! ### The movers (spec/08) -/

/-- R203, R206, R209, R210, R213, R217: each of the eight mover operations: the descriptor that is next starts once its wait is over
and a mover has room for it, and moves as many of its lines as can move; a descriptor that has started goes on with its lines; one that
is not well formed completes with its first bad field. A mover descriptor that is over, with none of its requests outstanding,
completes with its status, the number of its poisoned sectors and of its bytes, and leaves the mover. R203: one line of a mover
descriptor that reads and writes without waiting: the run counts the line, its bytes and its poisoned sectors; a line whose read or
write faults ends the run with the memory-access status. Readings and choices of the model that it rests on: log 6, 57, 69, 147. -/
def Obligations.MoverRows : Prop :=
  ((∀ (s : State) (d : Fin 8) (c : Fin 32) (seq : Nat) (op : Nat) (f : Fin 8 → Fin 32 → Met Nat → Instr),
     (op, f) ∈ [(0, Instr.moverCopy), (1, Instr.moverLoadOperandCache), (2, Instr.moverStoreOperandCache), (3, Instr.moverFillAStager),
       (4, Instr.moverFillBStager), (5, Instr.moverPrefetch), (6, Instr.moverFillPattern), (7, Instr.moverAccumulateCopy)] →
     s.m.dieRuns d = true → s.m.fenced d c = false →
     (∀ r, s.m.movRun d c seq = some r → mvOp r.words = op →
       exec (f d c ⟨seq, false⟩) s = .next (s.setM (s.m.moverGo d c seq (mvLines r.words + 2)))) ∧
     (∀ x m', s.m.movRun d c seq = none → s.m.oldest d c 2 = some x → x.seq = seq → mvOp x.words = op →
       x.waiting = true ∨ x.released = true ∨ firstBad (s.m.moverChecks d c x.words) = none → s.m.waitDone d c 2 x = (m', true) →
       m'.moverRoom d c x.words = true →
       let r : MovRun := { seq, words := x.words, line := 0, finished := false, status := stOk, poisoned := 0, bytes := 0 }
       let m := (m'.startDesc d c 2 seq).modCore d c (fun k => { k with movs := k.movs ++ [r] })
       m.movRun d c seq = some r → exec (f d c ⟨seq, false⟩) s = .next (s.setM (m.moverGo d c seq (mvLines x.words + 2)))) ∧
     (∀ x bit, s.m.movRun d c seq = none → s.m.oldest d c 2 = some x → x.seq = seq → x.waiting = false → x.released = false →
       firstBad (s.m.moverChecks d c x.words) = some bit → (s.m.completeBad d c 2 x bit).movRun d c seq = none →
       exec (f d c ⟨seq, false⟩) s = .next (s.setM (s.m.completeBad d c 2 x bit))) ∧
     (∀ x, s.m.oldest d c 2 = some x → x.seq = seq → x.waiting = false → x.released = false →
       exec (f d c ⟨seq, true⟩) s = .next (s.setM ((s.m.toCp d 0x34 false false [(4, 7), (8, coreNum d c), (48, 0)]).complete d c 2 x stPoisoned none 0 0)))) ∧
   (∀ (s : State) (d : Fin 8) (c : Fin 32) (seq : Nat) (r : MovRun) (x : Desc), s.m.dieRuns d = true → s.m.movRun d c seq = some r →
     r.finished = true → s.m.engOutstanding d c 2 seq = false → (s.m.queue d c 2).find? (fun x => x.seq == seq) = some x →
     (s.m.die d).engineLost.any (fun x => x == (c.val, 2, seq)) = false → (s.m.die d).engineBad.any (fun x => x == (c.val, 2, seq)) = false →
     exec (.moverDescriptorComplete d c seq) s = .next (s.setM (
       let m := s.m.modCore d c (fun k =>
         { k with movs := k.movs.filter (fun y => y.seq != seq),
                  engBuf := k.engBuf.filter (fun b => !(b.queue == 2 && b.seq == seq)) })
       let m := m.modDie d (fun k => { k with engineLost := k.engineLost.filter (fun y => y != (c.val, 2, seq)),
                                              engineBad := k.engineBad.filter (fun y => y != (c.val, 2, seq)) })
       m.complete d c 2 x r.status none (satN 32 r.poisoned) r.bytes)))) ∧
  (∀ (m : Mach) (d c : Nat) (r : MovRun), mvOp r.words ≠ 5 →
     (∀ m1 m2 bs u, m.moverRead d c r = (m1, .ok bs) → m1.moverWrite d c r bs = (m2, .ok u) → m.moverLine d c r =
       (m2.modMov d c r.seq (fun x =>
         { x with line := x.line + 1, poisoned := x.poisoned + poisonedSectors bs, bytes := x.bytes + bs.length }), true)) ∧
     (∀ m1, m.moverRead d c r = (m1, .fault) →
       m.moverLine d c r = (m1.modMov d c r.seq (fun x => { x with finished := true, status := stMemAccess }), false)) ∧
     (∀ m1, m.moverRead d c r = (m1, .poisonedTable) →
       m.moverLine d c r = (m1.modMov d c r.seq (fun x => { x with finished := true, status := stPoisoned }), false)))

/-! ### Collectives (spec/13) -/

/-- R383 to R386, R391, R395, R399, R400, R402, R405, R408, R410: each of the five collective operations starts its descriptor as a
member of a valid group: the group's sequence number is taken, the operation joins the running ones, begins (late where its deadline
has passed and its staging area is long enough), takes the messages held for it and goes on; a message of the running operation is
applied, an earlier one dropped, a later one held, or turned away where there is no staging area; a notice ends it, or is kept for the
operation that will take that number; a deadline that has passed without the descriptor makes the member late, and one that has not
does nothing; and an operation that is done completes its descriptor, its peers hearing of an end that is none of the good ones.
Readings and choices of the model that it rests on: log 6, 57, 77, 78, 126, 142, 143, 147. -/
def Obligations.CollectiveRows : Prop :=
  (∀ (s : State) (d : Fin 8) (op : Nat) (f : Met (Fin 8) → Instr) (x : Desc) (m' m2 m3 : Mach) (e : List Nat),
    (op, f) ∈ [(0, Instr.allReduce), (1, Instr.reduceScatter), (2, Instr.allGather), (3, Instr.allToAllV), (4, Instr.expertCombine)] →
    s.m.dieRuns d = true → s.m.oldest d 0 3 = some x → x.waiting = true ∨ x.released = true ∨ firstBad (colChecks x.words) = none →
    cOp x.words = op → s.m.waitDone d 0 3 x = (m', true) →
    let g := cGroup x.words
    m'.colOp d g = none → (m'.col d).ops.length < 8 → m'.groupFetch d g = (m2, .ok e) → m2.colStartStatus d x.words e = (m3, .ok ()) →
    m3.noticed d g (gSeq e) = none →
    exec (f ⟨d, false⟩) s = .next (s.setM (
      let r := (rankOfNode e (m3.node d)).getD 0
      let o := ColOp.fresh (some x.seq) x.words e g (gSeq e) r false (m3.get Fld.syncCtr_value d (gVout e))
      let m := ((m3.takeSeq d g (gSeq e)).startDesc d 0 3 x.seq).modCol d (fun c =>
        { c with ops := c.ops ++ [o], late := c.late.filter (· != g) })
      let m :=
        if !((m3.col d).late.contains g || m3.colOverdue d x.words) then m.colBegin d g
        else if stageShort x.words e then (m.ev Fld.colEvents_stage_short d).colBegin d g
        else (m.lateBegin d g).lateStart d g
      ((m.takeHeld d g (gSeq e)).colGo d g).nutmegAll))) ∧
  (∀ (s : State) (d : Fin 8) (op : Nat) (f : Met (Fin 8) → Instr) (x : Desc) (bit : Nat),
    (op, f) ∈ [(0, Instr.allReduce), (1, Instr.reduceScatter), (2, Instr.allGather), (3, Instr.allToAllV), (4, Instr.expertCombine)] →
    s.m.dieRuns d = true → s.m.oldest d 0 3 = some x → x.waiting = false → x.released = false → firstBad (colChecks x.words) = some bit →
    exec (f ⟨d, false⟩) s = .next (s.setM ((s.m.completeBad d 0 3 x bit).nutmegAll))) ∧
  (∀ (s : State) (d : Fin 8) (op : Nat) (f : Met (Fin 8) → Instr) (x : Desc),
    (op, f) ∈ [(0, Instr.allReduce), (1, Instr.reduceScatter), (2, Instr.allGather), (3, Instr.allToAllV), (4, Instr.expertCombine)] →
    s.m.dieRuns d = true → s.m.oldest d 0 3 = some x → x.waiting = false → x.released = false →
    exec (f ⟨d, true⟩) s = .next (s.setM (
      ((s.m.toCp d 0x34 false false [(4, 7), (8, coreNum d 0), (48, 0)]).complete d 0 3 x stPoisoned none 0 0).nutmegAll))) ∧
  (∀ (s : State) (d : Fin 8) (x : ColMsg) (o : ColOp), s.m.dieRuns d = true → s.m.flag Fld.fabJob_valid d = true →
    x.job = s.m.get Fld.fabJob_job d → s.m.colOp d x.group = some o →
    (o.gseq = x.seq → o.status = none → o.held = false → s.m.colMismatch d o x = none → o.desc.isSome = true ∨ cOp o.words < 3 →
      exec (.collectiveMessageReceive d x) s = .next (s.setM (((s.m.colApply d x).colGo d x.group).nutmegAll))) ∧
    (∀ st, o.gseq = x.seq → o.status = none → o.held = false → s.m.colMismatch d o x = some st → o.desc.isSome = true ∨ cOp o.words < 3 →
      exec (.collectiveMessageReceive d x) s = .next (s.setM (((s.m.colEnd d o st true).colGo d x.group).nutmegAll))) ∧
    (x.seq < o.gseq → exec (.collectiveMessageReceive d x) s = .next (s.setM s.m.nutmegAll)) ∧
    (o.gseq < x.seq → exec (.collectiveMessageReceive d x) s = .next (s.setM ((s.m.colHold d o.entry x).nutmegAll))) ∧
    (o.gseq < x.seq → gStageLen o.entry = 0 → exec (.collectiveMessageReceive d x) s =
      .next (s.setM ((s.m.modCol d (fun c => { c with turned := c.turned ++ [(x.node, x.group, x.seq)] })).nutmegAll)))) ∧
  (∀ (s : State) (d : Fin 8) (x : ColMsg), s.m.dieRuns d = true → s.m.flag Fld.fabJob_valid d = false ∨ x.job ≠ s.m.get Fld.fabJob_job d →
    exec (.collectiveMessageReceive d x) s = .next (s.setM s.m.nutmegAll)) ∧
  (∀ (s : State) (d : Fin 8) (g seq status : Nat) (o : ColOp), s.m.dieRuns d = true → s.m.colOp d g = some o → o.gseq = seq →
    exec (.collectiveEndNotice d g seq status) s = .next (s.setM (((s.m.colEnd d o status false).colShow d).nutmegAll))) ∧
  (∀ (s : State) (d : Fin 8) (g seq status : Nat) (m' : Mach) (e : List Nat), s.m.dieRuns d = true → s.m.colOp d g = none →
    s.m.groupEntry d g = (m', e) → gValid e = true → gSeq e ≤ seq → m'.noticed d g seq = none →
    exec (.collectiveEndNotice d g seq status) s =
      .next (s.setM ((m'.modCol d (fun c => { c with notices := c.notices ++ [(g, seq, status)] })).nutmegAll))) ∧
  (∀ (s : State) (d : Fin 8) (g : Nat) (ws : List Nat), s.m.dieRuns d = true → s.m.moduleUnlocked = false →
    s.m.flag Fld.colCfg_t16_compat d = false → s.m.colOp d g = none → s.m.unstartedWords d g = some ws → cDeadlineEn ws = true →
    cDeadline ws ≤ s.m.ft d → exec (.collectiveDeadline d g) s = .next (s.setM ((s.m.makeLate d g ws).nutmegAll))) ∧
  (∀ (s : State) (d : Fin 8) (g : Nat) (ws : List Nat), s.m.dieRuns d = true → s.m.unstartedWords d g = some ws → s.m.ft d < cDeadline ws →
    exec (.collectiveDeadline d g) s = .next (s.setM s.m.nutmegAll)) ∧
  (∀ (s : State) (d : Fin 8) (g seq : Nat) (o : ColOp) (x : Desc), s.m.dieRuns d = true →
    let n := s.m.colGo d g
    n.colOp d g = some o → o.desc = some seq →
    o.status.isSome = true ∨ (n.colDone d o = true ∧ n.engOutstanding d 0 3 o.id = false ∧ o.held = false) →
    (n.die d).colQ.find? (fun x => x.seq == seq) = some x → o.overlaps = false → exec (.collectiveComplete d g) s = .next (s.setM (
      let out := o.outcome o.zero
      let status := if o.status.isNone ∧ (n.die d).engineBad.contains (0, 3, o.id) then stMemAccess else out.1
      let m := if o.status.isSome ∨ (status = stOk ∨ status = stLateCarried ∨ status = stLateDropped) then n
        else (n.noteEnd d status).endNotice d o status
      let m := m.modCol d (fun c => { c with ops := c.ops.filter (fun y => y.group != g),
                                             held := c.held.filter (fun y => !(y.group == g && decide (y.seq ≤ o.gseq))) })
      let m := (m.ssrLate d o.late).cnt .colCnt d 0
      let m := m.modDie d (fun k => { k with engineLost := k.engineLost.filter (fun y => y != (0, 3, o.id)),
                                             engineBad := k.engineBad.filter (fun y => y != (0, 3, o.id)) })
      ((((m.colForget d o.id).complete d 0 3 x status none out.2.1 out.2.2).lateFollow d).colShow d).nutmegAll)))

/-! ### Counters (spec/09) -/

/-- R247: arming a counter sets its expected total, clears its running total and arms it; disarming leaves the running total. Every ADD
adds its amount to the running total, which saturates at 2^32 − 1, also where the value saturates. -/
def Obligations.ArmingAndTotals : Prop :=
  (∀ (s : State) (who : BusWho) (pa nb v hw b : Nat) (id : RegId), s.writes who pa nb id b → id.reg = .syncCtrArm → s.m.regsSorted →
    ∃ t : State, exec (.syncCtrArmWrite who pa nb v hw) s = .next t ∧
      (Fld.syncCtrArm_armed.of (s.m.wordAt who id b nb v hw).new = 1 →
        t.m.get Fld.syncCtrArm_expect id.die id.i = Fld.syncCtrArm_expect.of (s.m.wordAt who id b nb v hw).new ∧
        t.m.get Fld.syncCtrTotal_total id.die id.i = 0 ∧ t.m.flag Fld.syncCtrArm_armed id.die id.i = true) ∧
      (Fld.syncCtrArm_armed.of (s.m.wordAt who id b nb v hw).new = 0 →
        t.m.get Fld.syncCtrTotal_total id.die id.i = s.m.get Fld.syncCtrTotal_total id.die id.i ∧
        t.m.flag Fld.syncCtrArm_armed id.die id.i = false)) ∧
  (∀ (m : Mach) (d n v lastOp source : Nat), m.regsSorted →
    (m.ctrApply d n .add v lastOp source).1.get Fld.syncCtrTotal_total d n = satN 32 (m.get Fld.syncCtrTotal_total d n + v % 2 ^ 32))

/-- R238, R242, R249: an operation on a counter that nothing waits for: ADD saturates at 2^32 − 1, SUB at 0, SET takes its value; each
gives the value from before; an ADD or a SUB that saturates sets OVF or UNF; no other counter, no memory and no core changes. R242,
R243: a thread that waits on a counter whose value has reached its threshold goes on with that value in rd, and one whose threshold is
above the value waits; a consumer that is served takes its threshold from the counter, a wait that only observes takes nothing. -/
def Obligations.CounterOperationsAndWaits : Prop :=
  (∀ (m : Mach) (d n v lastOp source : Nat), m.regsSorted → v < 2 ^ 32 → (m.die d).ctrWaits.all (fun w => w.ctr != n) = true →
     smSorted m.dies = true →
     let old := m.get Fld.syncCtr_value d n
     let after (op : CtrOp) : Mach := (m.ctrApply d n op v lastOp source).1
     (after .add).get Fld.syncCtr_value d n = min (old + v) (2 ^ 32 - 1) ∧ (after .sub).get Fld.syncCtr_value d n = old - v ∧
     (after .set).get Fld.syncCtr_value d n = v ∧ (∀ op, (m.ctrApply d n op v lastOp source).2 = old) ∧
     (2 ^ 32 ≤ old + v → (after .add).flag Fld.syncCtr_ovf d n = true) ∧
     (old + v < 2 ^ 32 → (after .add).flag Fld.syncCtr_ovf d n = m.flag Fld.syncCtr_ovf d n) ∧
     (old < v → (after .sub).flag Fld.syncCtr_unf d n = true) ∧
     (v ≤ old → (after .sub).flag Fld.syncCtr_unf d n = m.flag Fld.syncCtr_unf d n) ∧
     (∀ op d' n', d' ≠ d ∨ n' ≠ n → (after op).rd .syncCtr d' n' = m.rd .syncCtr d' n') ∧
     (∀ op, (after op).mem = m.mem ∧ (after op).cores = m.cores)) ∧
  (∀ (m : Mach) (d n threshold rd : Nat) (r : ThreadRef) (t : Thread), m.regsSorted → smSorted m.dies = true → smSorted m.cores = true →
     (m.die d).ctrWaits.all (fun w => w.ctr != n) = true → m.thread d r = some t → t.exited = false → t.wait = .counter →
     let v := m.get Fld.syncCtr_value d n
     (threshold ≤ v → (m.ctrWait d n threshold false (.thread r rd)).thread d r = some (t.setX rd v).retire ∧
       (m.ctrWait d n threshold false (.thread r rd)).get Fld.syncCtr_value d n = v) ∧
     (threshold ≤ v → (m.ctrWait d n threshold true (.thread r rd)).thread d r = some (t.setX rd v).retire ∧
       (m.ctrWait d n threshold true (.thread r rd)).get Fld.syncCtr_value d n = v - threshold) ∧
     (v < threshold → ∀ consume, (m.ctrWait d n threshold consume (.thread r rd)).thread d r = some t ∧
       (m.ctrWait d n threshold consume (.thread r rd)).get Fld.syncCtr_value d n = v ∧
       ((m.ctrWait d n threshold consume (.thread r rd)).die d).ctrWaits = (m.die d).ctrWaits ++ [⟨n, threshold, consume, .thread r rd⟩]))

/-! ### Remote accesses (spec/10, spec/12) -/

/-- R251, R252, R253, R359, R361, R362, R368, R369, R371, R372: the rows of remote accesses. Readings and choices of the model that it
rests on: log 6, 7, 37, 70, 71, 72, 73, 74, 75, 78. -/
def Obligations.RemoteRows : Prop :=
  (∀ (s : State) (node sdie inc seq job : Nat) (op : RemoteOp), s.m.dataPlane = true → s.m.silent = false →
    (s.m.source (sourceKey node sdie)).inc = inc →
    let x := s.m.source (sourceKey node sdie)
    let ahead := (seq + 2 ^ 32 - x.next) % 2 ^ 32
    (∀ m', ahead = 0 → s.m.accessGate node job op = (m', true) → exec (.remoteRequestReceive node sdie inc seq job op) s =
      .next (s.setM ((m'.remoteTurn node sdie job op 1).remoteHeld node sdie x.held.length))) ∧
    (∀ m', ahead = 0 → s.m.accessGate node job op = (m', false) → exec (.remoteRequestReceive node sdie inc seq job op) s =
      .next (s.setM (m'.holdAccess node sdie seq job op))) ∧
    (0 < ahead → ahead < 2 ^ 31 → x.held.any (fun h => h.1 == seq) = false → exec (.remoteRequestReceive node sdie inc seq job op) s =
      .next (s.setM (s.m.setSource (sourceKey node sdie) { x with held := x.held ++ [(seq, job, op)] }))) ∧
    (0 < ahead → ahead < 2 ^ 31 → x.held.any (fun h => h.1 == seq) = true → exec (.remoteRequestReceive node sdie inc seq job op) s =
      .next (s.setM (s.m.holdAccess node sdie seq job op))) ∧
    (2 ^ 31 ≤ ahead → ∀ r, (s.m.source (sourceKey node sdie)).results.find? (fun r => r.1 == seq) = some r →
      (r.2.1 ≠ codeTurned → exec (.remoteRequestReceive node sdie inc seq job op) s =
        .next (s.setM ((s.m.cnt .fabCnt (opDie op) 2).remoteAnswer node sdie seq r.2.1 r.2.2.1 r.2.2.2))) ∧
      (r.2.1 = codeTurned → ∀ m', (s.m.cnt .fabCnt (opDie op) 2).msgTurned node sdie op = (m', true) →
        exec (.remoteRequestReceive node sdie inc seq job op) s = .next (s.setM m')))) ∧
  (∀ (s : State) (node sdie inc seq job : Nat) (die : Fin 8) (ctr v : Nat), exec (.remoteAddReceive node sdie inc seq job die ctr v) s =
    exec (.remoteRequestReceive node sdie inc seq job (.add die ctr v)) s) ∧
  (∀ (s : State) (node sdie inc seq job : Nat) (die : Fin 8) (ctr v : Nat), s.m.dataPlane = true → s.m.silent = false →
    (s.m.source (sourceKey node sdie)).inc = inc → (s.m.source (sourceKey node sdie)).next = seq →
    (s.m.source (sourceKey node sdie)).held = [] → seq < 2 ^ 32 → exec (.remoteAddReceive node sdie inc seq job die ctr v) s =
      .next (s.setM (s.m.remoteTurn node sdie job (.add die ctr v) 1))) ∧
  (∀ (s : State) (d : Fin 8) (node seq : Nat) (u : Unacked), s.m.dieRuns d = true → s.m.unackedAt d node seq = some u →
    (∀ die ctr v, u.req = .add die ctr v → exec (.remoteRejectReceive d node seq) s = .next (s.setM (
      ((((((s.m.dropUnacked d node seq).cnt .fabCnt d 7).ev Fld.fabEvents_reject_out d).ev Fld.syncDieEvents_remote_reject d).cnt
        .syncCnt d 8).remoteAddRec d 0x05 die ctr v node)))) ∧
    ((∀ die ctr v, u.req ≠ .add die ctr v) → exec (.remoteRejectReceive d node seq) s = .next (s.setM (
      let m := ((s.m.dropUnacked d node seq).cnt .fabCnt d 7).ev Fld.fabEvents_reject_out d
      (m.fabRec d 0x2A 0x7F node (coreFor d u.for_) 0 u.va 0 false false (m.slotList d)).accessFaulted d u))) ∧
    (∀ bs poison, exec (.remoteResponseReceive d node seq bs poison true) s =
      .next (s.setM ((s.m.dropUnacked d node seq).accessFaulted d u))) ∧
    (∀ a n r rd width sg fl bs, u.req = .read a n → u.for_ = .thread r rd width sg fl →
      exec (.remoteResponseReceive d node seq bs false false) s = .next (s.setM (
        ((s.m.dropUnacked d node seq).remoteFill d node a bs false .demand u.stream).loadDone d r rd width sg fl
          (ofBytes ((bs.drop (u.va % 32)).take width))))) ∧
    (∀ ws f5 width bs, u.for_ = .lanes ws f5 width → (∀ a n, u.req ≠ .read a n) →
      exec (.remoteResponseReceive d node seq bs false false) s =
        .next (s.setM ((s.m.dropUnacked d node seq).lanesDone d ws f5 width (ofBytes bs)))) ∧
    (s.m.pmu d < u.at_ + 20000 → exec (.remoteResend d node seq) s = .next s) ∧
    (u.at_ + 20000 ≤ s.m.pmu d → exec (.remoteResend d node seq) s = .next (s.setM (
      let m := s.m.modFab d (fun x => { x with unacked := x.unacked.map (fun y =>
        if y.node = node ∧ y.seq = seq then { y with at_ := s.m.pmu d } else y) })
      (m.cnt .fabCnt d 1).send 0x12 ([d.val, node, (m.fab d).inc, seq, m.jobFor d u.for_, m.get Fld.fabRouteCtl_epoch d] ++ reqWords u.node u.req))))) ∧
  (∀ (s : State) (d p : Fin 8) (node tag : Nat) (op : RemoteOp), s.m.dieRuns d = true → s.m.get Fld.fabPortStatus_role d p = 2 →
    s.m.get Fld.fabPortStatus_state d p = 3 → s.m.silent = false →
    let job := s.m.get Fld.fabPortCtl_edge_job d p
    (s.m.flag Fld.fabPortCtl_edge_en d p = false → exec (.edgeRequestReceive d p node tag op) s =
      .next (s.setM (s.m.send 0x14 [8 * d + p, tag, 1]))) ∧
    (s.m.flag Fld.fabPortCtl_edge_en d p = true → (opOffset op).isSome = true → s.m.requestRefused d node op = false → node ≠ s.m.node d →
      exec (.edgeRequestReceive d p node tag op) s = .next (s.setM (s.m.remoteSend d node op (.edge p tag job) 0))) ∧
    (s.m.flag Fld.fabPortCtl_edge_en d p = true → (opOffset op).isSome = true → s.m.requestRefused d node op = false → node = s.m.node d →
      exec (.edgeRequestReceive d p node tag op) s = .next (s.setM (
        (s.m.modFab d (fun x => { x with edgeWait := x.edgeWait ++ [(p.val, tag, job, op)] })).edgeDrain d ((s.m.fab d).edgeWait.length + 1)))) ∧
    (∀ m2 m' code bs poison, s.m.flag Fld.fabPortCtl_edge_en d p = true → (opOffset op).isSome = true → s.m.requestRefused d node op = false →
      node = s.m.node d → (s.m.fab d).edgeWait = [] → smSorted s.m.dies = true →
      let m1 := s.m.modFab d (fun x => { x with edgeWait := x.edgeWait ++ [(p.val, tag, job, op)] })
      m1.accessGate (m1.node d) job op = (m2, true) →
      (m2.modFab d (fun x => { x with edgeWait := [] })).remoteApply (m2.node d) job op = (m', code, bs, poison) → exec (.edgeRequestReceive d p node tag op) s =
      .next (s.setM (m'.send 0x14 [8 * d + p, tag, code, b2n poison, ofBytes bs]))))

/-! ### The die caches and the dies (spec/10, spec/14) -/

/-- R266, R272, R281, R282, R286, R296, R300 to R303: a request to a die's cache completes, whatever it is. An access outside memory,
or a read that meets an active dead range, faults. Else an error that the request meets is handled; then, where a full slot, bank or
home makes it wait, it answers that it waits, and otherwise a read answers its bytes, or that one of them is poisoned, and a write is
joined to its lines. A sector of another module that the cache does not hold is asked for there, once, and the request waits. A
prefetch goes as R299 says. An accumulate store outside one sector of memory, or misaligned, faults; one that its home cannot take now
waits; else its elements are added at the home. R300 to R302, R306: the rows of the misses in flight complete, with a miss there or
without one. A fill comes to its cache, unless the home of its line is in reset, which leaves it waiting; where it meets a full bank
with a sector still to come from memory it goes to the bank's retry buffer, with `bank_hot`, or, that buffer being full, back to its
requester; requests of edge peers that waited are tried. A waiting miss takes a slot that is free; a retry and a reissue put their fill
in flight again. Readings and choices of the model that it rests on: log 6, 26, 31, 32, 34, 37, 75, 119, 120. -/
def Obligations.DieCacheRequestsAndMisses : Prop :=
  ((∀ (s : State) (d : Fin 9) (req : Requester) (mirror : Bool) (err : Option CacheErr), s.m.nineRuns d = true →
     let v := viaOf d req mirror
     let answers (m : Mach) (r : Resp) : Host.Outcome State Fault Refusal := .next (s.setM { m with resp := r })
     let met (a : Nat) (node : Option Nat := none) : Mach := match err with
       | some e => if (s.m.lineAt d node a).isSome then s.m.dcEcc d node a e else s.m
       | none => s.m
     let held (m : Mach) (node a : Nat) : Prop := ((m.fab d).unacked ++ (m.fab d).waiting).any (fun u =>
       u.node == node && u.req == .read a 32 && u.for_ == .fill) = true ∨ m.isLost d node = true ∨ m.requestOpen d req (2 ^ 48) = false
     (∀ a n, inMemory a n = false → exec (.dieCacheRequest d req (.read a n) mirror err) s = answers s.m .accessFault) ∧
     (∀ a n m', inMemory a n = true → s.m.deadFault a n = some m' →
       exec (.dieCacheRequest d req (.read a n) mirror err) s = answers m' .accessFault) ∧
     (∀ a n m', inMemory a n = true → s.m.deadFault a n = none → (met a).bytesGate v a n true = (m', false) →
       exec (.dieCacheRequest d req (.read a n) mirror err) s = answers m' .waits) ∧
     (∀ a n m' m2 bs, inMemory a n = true → s.m.deadFault a n = none → (met a).bytesGate v a n true = (m', true) →
       m'.readBytes v a n = (m2, bs) → exec (.dieCacheRequest d req (.read a n) mirror err) s =
         answers m2 (if anyPoison bs then .poisoned (ofBytes (plain bs)) else .ok (ofBytes (plain bs)))) ∧
     (∀ a bs poison, inMemory a bs.length = false →
       exec (.dieCacheRequest d req (.write a bs poison) mirror err) s = answers s.m .accessFault) ∧
     (∀ a bs poison m', inMemory a bs.length = true → (met a).deadHolds a bs.length = (m', true) →
       exec (.dieCacheRequest d req (.write a bs poison) mirror err) s = answers m' .waits) ∧
     (∀ a bs poison m0 m', inMemory a bs.length = true → (met a).deadHolds a bs.length = (m0, false) → m0.bytesGate v a bs.length false = (m', false) →
       exec (.dieCacheRequest d req (.write a bs poison) mirror err) s = answers m' .waits) ∧
     (∀ a bs poison m0 m', inMemory a bs.length = true → (met a).deadHolds a bs.length = (m0, false) → m0.bytesGate v a bs.length false = (m', true) →
       exec (.dieCacheRequest d req (.write a bs poison) mirror err) s =
         answers (m'.writeBytes v a (bs.map (fun b => (b, poison)))) (.ok 0)) ∧
     (∀ node a, (8 ≤ d.val ∨ isStacked (a / 32 * 32) = false ∨ s.m.requestRefused d node (.read (a / 32 * 32) 32) = true) →
       exec (.dieCacheRequest d req (.readRemote node a) mirror err) s = answers s.m .accessFault) ∧
     (∀ node a m' hit stream, a % 32 = 0 → d.val < 8 → isStacked a = true → s.m.requestRefused d node (.read a 32) = false →
       (met a (some node)).remoteDemand d req node a = (m', hit, stream) →
       (∀ bs poison, hit = some (bs, poison) → exec (.dieCacheRequest d req (.readRemote node a) mirror err) s =
         answers m' (if poison then .poisoned (ofBytes bs) else .ok (ofBytes bs))) ∧
       (hit = none → held m' node a → exec (.dieCacheRequest d req (.readRemote node a) mirror err) s = answers m' .waits) ∧
       (hit = none → ¬held m' node a → exec (.dieCacheRequest d req (.readRemote node a) mirror err) s =
         answers (m'.remoteSend d node (.read a 32) .fill a stream) .waits)) ∧
     (∀ a, exec (.dieCacheRequest d req (.prefetch a) mirror err) s = .next (s.setM (
       match reqCore req with
       | some c => if d.val < 8 then s.m.corePrefetch d c d none a req mirror else s.m
       | none => s.m.issuePrefetch (lineFill d d none a req .explicit mirror))))) ∧
   (∀ (s : State) (req : Requester) (a width : Nat) (bs : List Byte) (poison mirror : Bool), s.m.dataPlane = true →
     exec (.accumulateWriteApply req a width bs poison mirror) s = .next (s.setM (
       if (width = 4 ∨ width = 8) ∧ a % width = 0 ∧ bs.length % width = 0 ∧ bs ≠ [] ∧ a % 32 + bs.length ≤ 32 ∧ isMemory a = true then
         match s.m.deadHolds a 1 with
         | (m, true) => { m with resp := .waits }
         | (m, false) => match m.requestGate (viaOf (homeDie a) req mirror) a .modify with
           | (m, false) => { m with resp := .waits }
           | (m, true) => { m.writeSector (viaOf (homeDie a) req mirror) a bs poison width with resp := .ok 0 }
       else { s.m with resp := .accessFault })))) ∧
  ((∀ (s : State) (d : Fin 9) (a : Nat) (full : Bool), s.m.nineRuns d = true →
     (findFill (s.m.cache d).fills a = none → exec (.dieCacheMissFill d a full) s = .next (s.setM s.m.waitersDrain)) ∧
     (∀ f, findFill (s.m.cache d).fills a = some f →
       let late := full && isStacked a && (List.range 4).any (fun k => f.sectors.testBit k && s.m.fromMemory d (f.addr + 32 * k))
       let m := s.m.dropFill f
       let h := homeDie f.addr
       let roomy : Prop := ((m.cache h).retry.filter (fun g => dcSlice g.addr == dcSlice f.addr)).length < 64
       let back := m.modCache f.into (fun c => { c with returned := c.returned ++ [f] })
       (s.m.homeServes a = false → exec (.dieCacheMissFill d a full) s = .next (s.setM s.m.waitersDrain)) ∧
       (s.m.homeServes a = true → late = false → exec (.dieCacheMissFill d a full) s = .next (s.setM ((s.m.fillNow d f).waitersDrain))) ∧
       (s.m.homeServes a = true → late = true → roomy → exec (.dieCacheMissFill d a full) s = .next (s.setM (
         ((((m.modCache h (fun c => { c with retry := c.retry ++ [f] })).dcCnt h 22).put Fld.dcEvents_bank_hot h 1).retryOcc h).waitersDrain))) ∧
       (s.m.homeServes a = true → late = true → ¬roomy → exec (.dieCacheMissFill d a full) s = .next (s.setM (
         (match reqCore f.req with
         | some c => if f.mark = PfMark.stream then back else back.cnt .dcL1Cnt f.by_ 10 (c := c)
         | none => back).waitersDrain))))) ∧
   (∀ (s : State) (d : Fin 8), s.m.dieRuns d = true →
     (∀ c : Fin 32, exec (.missSlotIssue d c) s = .next (s.setM (
       match (s.m.core d c).slotWait.find? (fun f => s.m.slotFree d c f.req f.addr) with
       | none => s.m
       | some f =>
         let m := (s.m.modCore d c (fun x => { x with slotWait := x.slotWait.erase f })).prefetchGo f
         (if (m.fillsInto f.into).any (fun g => g.addr == f.addr && g.node == f.node) then m else m.l1Settle d f.addr).showSlots d c))) ∧
     (∀ a, exec (.bankRetryIssue d a) s = .next (s.setM (
       match (s.m.cache d).retry.find? (fun f => dcSlice f.addr == dcSlice a && bankKey f.addr == bankKey a) with
       | none => s.m
       | some f => ((s.m.modCache d (fun c => { c with retry := c.retry.erase f })).modCache f.into
           (fun c => { c with fills := c.fills ++ [f] })).retryOcc d))) ∧
     (∀ a, exec (.missReissue d a) s = .next (s.setM (
       match findFill (s.m.cache d).returned a with
       | none => s.m
       | some f => s.m.modCache d (fun c => { c with returned := c.returned.erase f, fills := c.fills ++ [f] }))))))

/-- R273, R278, R288, R290 to R293, R295, R297, R305: the rows of a cache's upkeep complete: a sweep drops the remote lines of older
epochs of its set; the trackers of a slice that nothing touched for 4 µs go; a pin command goes on with the line that it waited for,
and ends with its count and reason; the pressure window reports once that it was exceeded and ends at its time; a dead range that has
been invalidated is no longer busy, and a command without a busy range changes nothing but the waiting edge requests, which are tried.
R305, R306: when the invalidation of a dead range is done, no cache of the module holds a line of the range, and the range is no longer
busy. Readings and choices of the model that it rests on: log 6, 26, 31, 37. -/
def Obligations.DieCacheUpkeepRows : Prop :=
  (∀ (s : State) (d : Fin 8), s.m.dieRuns d = true →
   (∀ set : Fin 2048, exec (.remoteLineSweep d set) s = .next (s.setM (
     let now := s.m.get Fld.dcStatus_remote_epoch d
     let old (l : Line) : Bool := l.node.isSome && l.epoch != now
     let gone := (s.m.cache d).lines.filter (fun l => old l && dcSet l.addr == set.val)
     let m := (gone.foldl (fun m l => m.noteUnused d l) s.m).modCache d (fun c =>
       { c with lines := c.lines.filter (fun l => !(old l && dcSet l.addr == set.val)) })
     m.put Fld.dcStatus_sweep_busy d (b2n ((m.cache d).lines.any old))))) ∧
   (∀ slice : Fin 64, exec (.cloveTrackerExpire d slice) s = .next (s.setM (
     let young := (smGet [] (s.m.cache d).trackers slice).filter (fun t => s.m.pmu d - t.at_ ≤ 800)
     s.m.modCache d (fun c => { c with trackers := smSet [] c.trackers slice young })))) ∧
   (let k := s.m.cache d
    let m := (s.m.wr .dcPinStatus d (k.pinDone * 2 ^ 32 + k.pinReason * 16)).modCache d (fun c => { c with pinOp := 0, pinLeft := 0 })
    (s.m.flag Fld.dcPinStatus_busy d = false → exec (.pinCommandComplete d) s = .next s) ∧
    (s.m.flag Fld.dcPinStatus_busy d = true → k.pinReason = 0 → k.pinLeft = 0 → exec (.pinCommandComplete d) s = .next (s.setM m)) ∧
    (∀ p, s.m.flag Fld.dcPinStatus_busy d = true → k.pinReason = 0 → k.pinLeft ≠ 0 → s.m.partOf d = some p →
      exec (.pinCommandComplete d) s = .next (s.setM (
        let m := s.m.pinLines d p k.pinOp k.pinLeft
        if (m.cache d).pinReason = 0 ∧ (m.cache d).pinLeft ≠ 0 then m else m.pinEnd d))) ∧
    (s.m.flag Fld.dcPinStatus_busy d = true → k.pinReason ≠ 0 → exec (.pinCommandComplete d) s = .next (s.setM (
      let m := (m.put Fld.dcPinFail_va d k.pinVa).ev Fld.dcEvents_pin_refused d
      m.emitRec d 0x14 false false [(4, k.pinReason), (48, k.pinVa), (32, k.pinDone)] false false (m.slotList d))))) ∧
   (let k := s.m.cache d
    let us := s.m.get Fld.dcPinPress_window_us d
    (us = 0 → exec (.pinPressureWindow d) s = .next s) ∧
    (us ≠ 0 → exec (.pinPressureWindow d) s = .next (s.setM (
      let m := if k.winSent = false ∧ s.m.get Fld.dcPinPress_threshold d < k.winMisses then
          let m := ((s.m.ev Fld.dcEvents_pin_pressure d).dcCnt d 24).modCache d (fun c => { c with winSent := true })
          m.emitRec d 0x15 false false [(32, k.winMisses)] false false (m.slotList d)
        else s.m
      if k.winStart + 200 * us ≤ m.pmu d then m.modCache d (fun c => { c with winStart := m.pmu d, winMisses := 0, winSent := false })
      else m)))) ∧
   (∀ i : Fin 64, (s.m.flag Fld.dcDeadCtl_busy d i = false → exec (.deadRangeInvalidateDone d i) s = .next (s.setM s.m.waitersDrain)) ∧
     (s.m.flag Fld.dcDeadCtl_busy d i = true → exec (.deadRangeInvalidateDone d i) s = .next (s.setM (
       let lo := s.m.get Fld.dcDeadAddr_base d i * 4096
       let hi := lo + s.m.get Fld.dcDeadCtl_len d i * 4096
       let inside (a : Nat) : Bool := decide (lo ≤ a) && decide (a < hi)
       let n := (List.range 9).foldl (fun m x =>
         (((m.cache x).lines.filter (fun l => l.node.isNone && inside l.addr)).foldl (fun m l => (m.noteUnused x l).l1Invalidate x l.addr none) m).modCache x
           (fun c => { c with lines := c.lines.filter (fun l => !(l.node.isNone && inside l.addr)) })) s.m
       let k := n.cache d
       let m := (n.put Fld.dcDeadCtl_busy d 0 i).modCache d (fun c =>
         { c with deadCancel := maskBit c.deadCancel i false, deadRelease := maskBit c.deadRelease i false,
                  deadWaiting := c.deadWaiting.filter (fun x => !inside x.addr) })
       let m := if k.deadCancel.testBit i then m.put Fld.dcDeadCtl_active d 0 i
         else if k.deadRelease.testBit i && m.flag Fld.dcDeadCtl_active d i then m.deadReleaseNow d i else m
       ((k.deadWaiting.filter (fun x => inside x.addr)).foldl (fun m x => m.heldWrite x) m).waitersDrain))))) ∧
  (∀ (s : State) (d : Fin 8) (i : Fin 64), s.m.dieRuns d = true → s.m.flag Fld.dcDeadCtl_busy d i = true → s.m.regsSorted →
     smSorted s.m.dies = true → smSorted s.m.cores = true → (s.m.cache d).deadWaiting = [] →
     (s.m.cache d).deadRelease.testBit i = false → (∀ x, x < 8 → (s.m.fab x).edgeWait = []) →
     let lo := s.m.get Fld.dcDeadAddr_base d i * 4096
     let hi := lo + s.m.get Fld.dcDeadCtl_len d i * 4096
     ∃ t : State, exec (.deadRangeInvalidateDone d i) s = .next t ∧ t.m.flag Fld.dcDeadCtl_busy d i = false ∧
       (∀ x, x < 9 → ∀ l ∈ (t.m.cache x).lines, l.node = none → ¬(lo ≤ l.addr ∧ l.addr < hi)) ∧ t.m.mem = s.m.mem)

/-- R413, R417, R419, R421, R449, R478: the rows of the dies: the oldest fault record of a die is delivered to its queues, to the MC
and to the CP; a die-to-die link that fails or returns is reported, and the two dies lose each other as a source when it was their
last; a beat is noted; a die without a beat for 3 ms of PMU cycles withdraws the module while its job is open, and is reset otherwise;
a watchdog withdraws the module; a module that lost the Bludjan die's beat falls silent. R306, R11, R197, R368: a die that is reset
while the module is unlocked is being reset until its reset completes: its cores are as at reset, no instruction issues on it, and its
incarnation has moved on by one. Readings and choices of the model that it rests on: log 6, 7, 13, 80, 90, 144. -/
def Obligations.DieRows : Prop :=
  ((∀ (s : State) (d : Fin 9) (r : FaultRec) (rest : List FaultRec), s.m.nineRuns d = true → (s.m.die d).records = r :: rest →
     exec (.faultRecordDeliver d) s = .next (s.setM (
       let m := s.m.modDie d (fun x => { x with records := rest })
       let q := r.parts.foldl (fun (acc : Mach × Bool) k => ((acc.1.recToQueue r k).1, acc.2 || (acc.1.recToQueue r k).2)) (m, false)
       let m := if r.toMc then q.1.recToMc r else q.1
       if r.toCp || q.2 then m.recToCp r else m))) ∧
   (∀ (s : State) (a b : Fin 9) (l : Fin 2), s.m.dataPlane = true → l.val < d2dLinks a b → a.val < b.val →
     s.m.mt.d2dDown.contains (a.val, b.val, l.val) = false →
     let m : Mach := { s.m with mt := { s.m.mt with d2dDown := s.m.mt.d2dDown ++ [(a.val, b.val, l.val)] } }
     exec (.d2dLinkFault a b l) s = .next (s.setM (
       if m.d2dUp a b then m.d2dRec a b l 1 else ((m.d2dRec a b l 2).loseSource a (64 + b)).loseSource b (64 + a)))) ∧
   (∀ (s : State) (a b : Fin 9) (l : Fin 2), s.m.dataPlane = true → s.m.mt.d2dDown.contains (a.val, b.val, l.val) = true →
     exec (.d2dLinkRestored a b l) s = .next (s.setM (
       ({ s.m with mt := { s.m.mt with d2dDown := s.m.mt.d2dDown.erase (a.val, b.val, l.val) } } : Mach).d2dRec a b l 0))) ∧
   (∀ (s : State) (d : Fin 8), s.m.dieRuns d = true → exec (.livenessBeat d) s =
     .next (s.setM { s.m with cp := { s.m.cp with beats := smSet 0 s.m.cp.beats d (s.m.pmu sdDie) } })) ∧
   (∀ (s : State) (d : Fin 8), s.m.dataPlane = true → s.m.cp.resetting.testBit d = false →
     smGet 0 s.m.cp.beats d + 600000 ≤ s.m.pmu sdDie →
     (((s.m.beat d).partOf d).isSome = true → (s.m.beat d).flag Fld.fabJob_valid d = true → exec (.dieHangDetect d) s =
       .next (s.setM (((s.m.beat d).withdraw 1 d).dieReset d))) ∧
     ((s.m.beat d).partOf d = none ∨ (s.m.beat d).flag Fld.fabJob_valid d = false → exec (.dieHangDetect d) s =
       .next (s.setM ((s.m.beat d).dieReset d)))) ∧
   (∀ s : State, s.m.powered = true → s.m.sec.hung = false → s.m.cp.up = true → exec .cpWatchdogExpire s = .next (s.setM ((s.m.withdraw 2 0).cpReset))) ∧
   (∀ s : State, s.m.powered = true → s.m.sec.hung = false → s.m.pins.mcUp = true → exec .mcWatchdogExpire s = .next (s.setM (
     let m := s.m.send 0x42 []
     { m with cp := { m.cp with mcHangs := s.m.cp.mcHangs + 1 } }))) ∧
   (∀ s : State, s.m.powered = true → s.m.sec.hung = true → exec .cpWatchdogExpire s = .next s ∧ exec .mcWatchdogExpire s = .next s ∧
     exec .spWatchdogExpire s = .next s) ∧
   (∀ s : State, s.m.powered = true → s.m.sec.hung = false → s.m.pins.mcUp = true → exec .spWatchdogExpire s = .next (s.setM (
     let m := s.m.withdraw 3 0
     { m with sec := { m.sec with hung := true } }))) ∧
   (∀ s : State, s.m.dataPlane = true → exec .d2dBeatLost s = .next (s.setM ((List.range 8).foldl (fun m d => m.selectSource d)
     { s.m.goSilent with pins := { s.m.goSilent.pins with fault := true, perst := some true, mcUp := false, i3c := none } }))) ∧
   (∀ (s : State) (d : Fin 8), s.m.dataPlane = true → s.m.cp.resetting.testBit d = false → 
     exec (.dieReset d) s = .next (s.setM (s.m.dieReset d))) ∧
   (∀ (s : State) (d : Fin 8), s.m.dataPlane = true → s.m.cp.resetting.testBit d = true →
     exec (.dieResetComplete d) s = .next (s.setM ((s.m.dieResetDone d).waitersDrain)))) ∧
  (∀ (s : State) (d : Fin 8), s.m.dataPlane = true → s.m.cp.resetting.testBit d = false → s.m.regsSorted → smSorted s.m.dies = true →
     smSorted s.m.cores = true → s.m.moduleUnlocked = true → ∃ t : State, exec (.dieReset d) s = .next t ∧ t.m.dieRuns d = false ∧
       t.pending = s.pending ∧ (∀ c, c < 32 → t.m.core d c = Core.init) ∧ (t.m.die d).fab.inc = ((s.m.die d).fab.inc + 1) % 2 ^ 16 ∧
       (∀ i op, i.die = d → t.onIssue i op = .next t))

/-! ### The fabric (spec/12) -/

/-- R345, R349 to R358, R362, R364, R365: the rows of the ports and of the routes, each when it is due. R364, R445: at the switch
instant an armed die takes the whole pending detour table and the pending epoch into force, is no longer armed, and says so. Readings
and choices of the model that it rests on: log 6, 7, 8, 76, 125. -/
def Obligations.PortRows : Prop :=
  ((∀ (s : State) (d p : Fin 8), s.m.dieRuns d = true →
     let goes (m : Mach) : Host.Outcome State Fault Refusal := .next (s.setM m)
     let x := s.m.port d p
     (∀ lanes, let m := s.m.modPort d p (fun y => { y with light := y.light ||| (lanes % 16), lightLost := none })
       let wakes := s.m.silent = false ∧ s.m.lit = true ∧ s.m.flag Fld.fabPortCtl_disable d p = false ∧ s.m.portRoleNow d p ≠ 3 ∧
         s.m.portState d p = psDark ∧ (m.port d p).light ≠ 0
       (wakes → exec (.portLightDetect d p lanes) s = goes (m.put Fld.fabPortStatus_state d psTrain p)) ∧
       (¬ wakes → exec (.portLightDetect d p lanes) s = goes m)) ∧
     (∀ lanes, s.m.portState d p = psTrain →
       let m := s.m.modPort d p (fun y => { y with trained := lanes &&& y.light })
       (s.m.flag Fld.fabNode_valid d = true →
         exec (.portTrainComplete d p lanes true) s = goes ((m.put Fld.fabPortStatus_state d psNegotiate p).exchange d p)) ∧
       exec (.portTrainComplete d p lanes false) s = goes m) ∧
     (∀ y : PeerCaps, s.m.portState d p = psNegotiate → s.m.wiringOk d p y = false → exec (.portNegotiate d p y) s =
       goes (((s.m.portDown d p psWiring).ev Fld.fabEvents_wiring d).portRec d p 0x23 y.node)) ∧
     (∀ y : PeerCaps, s.m.portState d p = psNegotiate → s.m.wiringOk d p y = true →
       let capOf (r : Nat) : Nat := if r = 0 then 1 else r
       let got := rateOf (x.trained &&& y.lanes) (min (capOf (s.m.get Fld.fabPortCtl_max_rate d p)) (capOf y.maxRate))
       (got.1 = 0 → exec (.portNegotiate d p y) s = goes (s.m.portFailed d p false)) ∧
       (got.1 ≠ 0 → exec (.portNegotiate d p y) s = goes (
         let role := if s.m.portRoleNow d p = 0 ∧ (y.role = 1 ∨ x.wasReset = true) then 1 else s.m.portRoleNow d p
         let st := s.m.rd .fabPortStatus d p
         let st := Fld.fabPortStatus_peer_node.into (Fld.fabPortStatus_peer_die.into (Fld.fabPortStatus_peer_port.into st y.port) y.die) y.node
         let st := Fld.fabPortStatus_lanes_ok.into (Fld.fabPortStatus_rate.into (Fld.fabPortStatus_role.into st role) got.1) got.2
         let st := Fld.fabPortStatus_hb_missed.into (Fld.fabPortStatus_state.into st (if role = 1 then psStandby else psActive)) 0
         let m := s.m.wr .fabPortStatus d st p
         (m.modPort d p (fun z =>
           { z with replays := 0, txSeq := 0, rxSeq := 0, hbSent := m.ft d, hbSeen := m.ft d, peerRole := y.role,
                    fec := [], rate := got.1, wasReset := false })).resendHeld d p))) ∧
     (∀ lanes,
       let m := s.m.modPort d p (fun y => { y with light := y.light - (y.light &&& lanes), lightLost := some (s.m.ft d) })
       (m.portUp d p = false → m.portState d p ≠ psTrain → m.portState d p ≠ psNegotiate → exec (.portLightLost d p lanes) s = goes m) ∧
       (m.portUp d p = true → exec (.portLightLost d p lanes) s = goes (
         if s.m.get Fld.fabPortStatus_lanes_ok d p &&& lanes ≠ 0 then m.laneFault d p (m.lanesLeft d p lanes) else m))) ∧
     (∀ lane n, s.m.portUp d p = true →
       let now := s.m.pmu d
       let m := s.m.cnt .fabPortCnt d p n 0 2
       let m := m.modPort d p (fun y =>
         { y with fec := (y.fec ++ List.replicate (min n 8) (lane, now)).filter (fun e => decide (now ≤ e.2 + 2000)) })
       exec (.portFecFail d p lane n) s = goes (
         if 8 ≤ ((m.port d p).fec.filter (fun e => e.1 == lane)).length then m.laneFault d p (m.lanesLeft d p (2 ^ lane)) else m)) ∧
     (∀ fd fp, s.m.portState d p = psStandby →
       (s.m.dirPorts (s.m.portDirNow d p)).find? (fun y => s.m.portRoleNow y.1 y.2 == 0 && s.m.portState y.1 y.2 == psFailed) = some (fd, fp) →
       exec (.standbySwap d p) s = goes (
         let m := s.m.put Fld.fabPortStatus_role fd 1 fp
         let m := (m.put Fld.fabPortStatus_role d 0 p).put Fld.fabPortStatus_state d psActive p
         let m := (m.put Fld.fabPortStatus_replaces d (8 * fd + fp) p).ev Fld.fabEvents_swap d
         (m.portRec d p 0x22 (m.get Fld.fabPortStatus_peer_node d p)).resendHeld fd fp)) ∧
     (s.m.portState d p = psFailed → s.m.silent = false → x.failedAt + 200000000 ≤ s.m.pmu d →
       let m := s.m.modPort d p (fun y => { y with failedAt := s.m.pmu d })
       (m.port d p).light ≠ 0 → exec (.portRetry d p) s = goes (m.put Fld.fabPortStatus_state d psTrain p)) ∧
     (s.m.portState d p = psFailed → s.m.pmu d < x.failedAt + 200000000 → exec (.portRetry d p) s = goes s.m) ∧
     (s.m.portUp d p = true → s.m.silent = false → x.hbSent + 250000 ≤ s.m.ft d → exec (.heartbeatSend d p) s = goes (
       (s.m.modPort d p (fun y => { y with hbSent := s.m.ft d })).send 0x08 [8 * d + p, s.m.node d, s.m.get Fld.fabRouteCtl_epoch d, 0])) ∧
     (s.m.portUp d p = true → exec (.heartbeatReceive d p) s = goes (
       (s.m.modPort d p (fun y => { y with hbSeen := s.m.ft d })).put Fld.fabPortStatus_hb_missed d 0 p)) ∧
     (let missed := (s.m.ft d - x.hbSeen) / 250000
      s.m.portUp d p = true → s.m.get Fld.fabPortStatus_hb_missed d p < missed → exec (.heartbeatTimeout d p) s = goes (
       let m := (s.m.cnt .fabPortCnt d p (missed - s.m.get Fld.fabPortStatus_hb_missed d p) 0 3).put Fld.fabPortStatus_hb_missed d (min 15 missed) p
       if 4 ≤ missed then m.portFailed d p false else m))) ∧
   (∀ (s : State) (n : Fin 16384), s.m.dataPlane = true → s.m.silent = false →
     (∀ d, d < 8 → s.m.flag Fld.fabNode_valid d = true → n.val = s.m.node d → exec (.nodeLostReceive n) s = .next (s.setM s.m.selfLost)) ∧
     ((∀ d, d < 8 → s.m.flag Fld.fabNode_valid d = false ∨ n.val ≠ s.m.node d) → exec (.nodeLostReceive n) s = .next (s.setM (s.m.nodeLost n))))) ∧
  (∀ (s : State) (d : Fin 8), s.m.dieRuns d = true → s.m.regsSorted → s.m.flag Fld.fabRouteCtl_arm d = true → (s.m.fab d).clearList = [] →
     smSorted s.m.dies = true →
     s.m.rd .fabRouteSwitch d + (if (s.m.fab d).armedLate then 0 else 40) ≤ s.m.ft d → ∃ t : State,
       exec (.routeEpochSwitch d) s = .next t ∧ (∀ i, i < 64 → t.m.rd .fabDetour d i = s.m.rd .fabDetourPend d i) ∧
       t.m.get Fld.fabRouteCtl_epoch d = s.m.get Fld.fabRouteCtl_pend_epoch d ∧ t.m.flag Fld.fabRouteCtl_arm d = false ∧
       t.m.get Fld.fabEvents_epoch_switched d = 1 ∧ (∀ e i, e ≠ d.val → t.m.rd .fabDetour e i = s.m.rd .fabDetour e i) ∧ t.m.mem = s.m.mem)

/-- R351: link retry: a packet with a bad CRC or beyond a gap asks for a replay from the number that is missing and is not taken; a
packet that has been taken is acknowledged again and not taken again; the next one is taken once, counted and acknowledged; an
acknowledgement drops from the replay buffer what it covers, and nothing else. A request for replay sends what the buffer holds again
and counts it; no memory and no core changes. Readings and choices of the model that it rests on: log 7. -/
def Obligations.LinkRetry : Prop :=
  ∀ (s : State) (d p : Fin 8), s.m.dieRuns d = true → s.m.portUp d p = true →
    let want := (s.m.port d p).rxSeq
    let g := 8 * d.val + p.val
    (∀ seq ok n, ok = false ∨ want < seq → exec (.linkPacketReceive d p (.data seq ok n)) s = .next (s.setM (s.m.send 0x06 [g, want]))) ∧
    (∀ seq n, seq < want → exec (.linkPacketReceive d p (.data seq true n)) s = .next (s.setM (s.m.send 0x07 [g, seq]))) ∧
    (∀ n, exec (.linkPacketReceive d p (.data want true n)) s = .next (s.setM (
      (((s.m.cnt .fabPortCnt d p 1 0 5).cnt .fabPortCnt d p n 0 7).modPort d p (fun x => { x with rxSeq := want + 1 })).send 0x07 [g, want]))) ∧
    (∀ seq, exec (.linkPacketReceive d p (.ack seq)) s = .next (s.setM (
      s.m.modPort d p (fun x => { x with replay := x.replay.filter (fun r => decide (seq < r.1)), replays := 0 })))) ∧
    (∀ n, exec (.linkPacketReceive d p (.corrected n)) s = .next (s.setM (s.m.cnt .fabPortCnt d p n 0 1))) ∧
    ((s.m.port d p).replays < 15 → smSorted s.m.dies = true → ∃ t : State, exec (.linkPacketReceive d p .replay) s = .next t ∧
      (t.m.port d p).replays = (s.m.port d p).replays + 1 ∧ (t.m.port d p).replay = (s.m.port d p).replay ∧
      t.m.out = (s.m.send 0x09 (g :: (s.m.port d p).replay.map (·.1))).out ∧ t.m.mem = s.m.mem ∧ t.m.cores = s.m.cores)

/-- R360, R361, R365: a packet that passes through the module is forwarded on a port of its direction with one more hop, or, when its
epoch is older than the previous one or it has made 96 hops, is discarded and counted; it touches no memory, no cache, no queue, no
core and no sync counter. Readings and choices of the model that it rests on: log 7. -/
def Obligations.PassingPacketsTouchNothing : Prop :=
  ∀ (s : State) (d : Fin 8) (x : Packet), s.m.dieRuns d = true → s.m.silent = false → s.m.isLost d x.dest = false → x.dest ≠ s.m.node d →
    s.m.regsSorted → smSorted s.m.dies = true →
    let cur := s.m.get Fld.fabRouteCtl_epoch d
    let stale := (x.epoch ≠ cur ∧ (x.epoch + 1) % 2 ^ 16 ≠ cur) ∨ 96 ≤ x.hops
    (stale → exec (.packetForward d x) s = .next (s.setM ((s.m.cnt .fabCnt d 3).ev Fld.fabEvents_discarded d))) ∧
    (∀ dir rest why pd p, ¬ stale → s.m.route d x = some (dir, rest, why) → s.m.pickPort dir = some (pd, p) → ∃ t : State,
      exec (.packetForward d x) s = .next t ∧ t.m.out =
        (s.m.send 0x0A ([8 * pd + p, (s.m.port pd p).txSeq, x.src, x.dest, x.job, x.epoch, x.hops + 1, x.bytes,
          b2n (x.escape || why != .plain)] ++ rest)).out ∧
      t.m.mem = s.m.mem ∧ t.m.ecc = s.m.ecc ∧ t.m.cores = s.m.cores ∧ (∀ e, (t.m.die e).cache = (s.m.die e).cache ∧
        (t.m.die e).colQ = (s.m.die e).colQ ∧ (t.m.die e).col = (s.m.die e).col) ∧
      (∀ id : RegId, id.reg ≠ .fabCnt → id.reg ≠ .fabPortCnt → t.m.reg id = s.m.reg id) ∧ t.pending = s.pending)

/-! ### Snapshots (spec/14) -/

/-- R426, R428, R429, R430, R431, R432, R440, R441, R442: the rows of snapshots, each when it is due. Readings and choices of the model
that it rests on: log 6, 7, 80, 82, 83, 84, 145. -/
def Obligations.SnapshotRows : Prop :=
  (∀ (s : State) (d : Fin 8) (p : Part), s.m.dieRuns d = true → s.m.partOf d = some p → p.low = d → s.m.flag Fld.snapStatus_capturing d = true →
    let a := s.m.manifest d
    let tables := s.m.schedTables p
    (s.m.sclPending p = true → exec (.scheduleCaptureComplete d) s = .next s) ∧
    (s.m.sclPending p = false → s.m.rangeServed a (s.m.slotBytes d) = true → tables.all (fun r => s.m.homeServes r.1) = true →
      exec (.scheduleCaptureComplete d) s = .next (s.setM (
      let bs := (s.m.snap d).sched ++ s.m.captureTables p
      let rs := regionChunks (s.m.snap d).rgns
      let want := ceilDiv bs.length chunkBytes
      let at_ := a + roundUp (128 + 48 * (rs.length + want)) chunkBytes
      let n := min want ((a + s.m.slotBytes d - at_) / chunkBytes)
      let m := (tables.foldl (fun m r => m.viewed r.1 r.2) s.m).putBytes d at_
        ((bs ++ List.replicate (n * chunkBytes - bs.length) 0#8).take (n * chunkBytes))
      let m := (m.writeNum (Via.engine d) (a + 0x20) 4 (rs.length + n)).writeNum (Via.engine d) (a + 0x24) 4 n
      (m.put Fld.snapStatus_capturing d 0).modSnap d (fun x => { x with sched := [], sclCap := [] }))))) ∧
  (∀ (s : State) (d : Fin 8) (fetched : Option (List Byte)) (c : ChunkRef) (m' : Mach) (bs : List (Byte × Bool)), s.m.dieRuns d = true →
    s.m.flag Fld.snapCfg_enable d = true → s.m.flag Fld.snapStatus_committed d = false → s.m.manifestState d = 1 →
    (s.m.snap d).flipFt + 1000 * s.m.get Fld.snapTimes_drain_delay d ≤ s.m.ft d →
    (s.m.versionChunks d)[(s.m.snap d).digested]? = some c → c.region ≠ 0xFF ∨ s.m.flag Fld.snapStatus_capturing d = false →
    let at_ := s.m.chunkAddr d (s.m.get Fld.snapStatus_cur d) c
    s.m.readBytes (Via.engine (homeDie at_)) at_ chunkBytes = (m', bs) → s.m.homeServes at_ = true →
    m'.homeServes (m'.manifest d + 128 + 48 * (s.m.snap d).digested) = true →
    let repair := anyPoison bs && c.region != 0xFF && c.kind == 0
    (repair = true → ∃ l, fetched = some l ∧ l.length = chunkBytes) →
    exec (.chunkDigest d fetched) s = .next (s.setM (
      let v := s.m.snap d
      let data := if repair then fetched.getD [] else plain bs
      let who := if repair then m'.get Fld.snapCfg_replica d else m'.node d
      let m := if repair then (m'.putBytes (homeDie at_) at_ data).cnt .snapCnt d 6 else m'
      let m := if anyPoison bs then (m.ev Fld.snapEvents_digest_mismatch d).emitRec d 0x41 repair false
          [(8, c.region), (32, c.chunk), (14, who), (1, b2n repair)] true false (if repair then [] else m.slotList d) else m
      let bad := anyPoison bs && !repair
      let m := m.putBytes d (m.manifest d + 128 + 48 * v.digested) (entryBytes c false bad (sha3 data))
      let m := (m.modSnap d (fun x => { x with digested := x.digested + 1, bad := x.bad || bad })).cnt .snapCnt d 4
      let m :=
        if !m.flag Fld.snapStatus_capturing d && v.digested + 1 == (m.versionChunks d).length then
          let m := m.putBytes d (m.manifest d + 0x30) (m.bodyDigest (m.manifest d))
          (m.writeNum (Via.engine d) (m.manifest d + 4) 4 2).put Fld.snapStatus_digest_done d 1
        else m
      m.drainOffer d))) ∧
  (∀ (s : State) (node step : Nat) (x : DrainItem), s.m.powered = true →
    (s.m.flag Fld.snapRecvCfg_enable sdDie = false ∨ node ≠ s.m.get Fld.snapRecvCfg_sender sdDie →
      exec (.drainChunkReceive node step x) s = .next (s.setM (s.m.drainReply node 2))) ∧
    (s.m.flag Fld.snapRecvCfg_enable sdDie = true → node = s.m.get Fld.snapRecvCfg_sender sdDie →
      s.m.flag Fld.snapRecvStatus_copying sdDie = false → s.m.rd .snapRecvStep sdDie = step →
      (∀ region kind chunk data digest, x = .chunk region kind chunk data digest →
        s.m.recv.next < min (s.m.get Fld.snapRecvArea_len sdDie) (s.m.get Fld.snapHoldArea_len sdDie) →
        (sha3 data ≠ digest → exec (.drainChunkReceive node step x) s =
          .next (s.setM (({ s.m with recv := { s.m.recv with mism := s.m.recv.mism + 1 } } : Mach).drainReply node 1))) ∧
        (sha3 data = digest → exec (.drainChunkReceive node step x) s = .next (s.setM (
          let a := s.m.get Fld.snapRecvArea_base sdDie * chunkBytes + s.m.recv.next * chunkBytes
          let m := s.m.putBytes sdDie a data
          let es := m.recv.entries ++ [(region, kind, chunk, digest)]
          let m : Mach := { m with recv := { m.recv with next := m.recv.next + 1, mism := 0, entries := es } }
          (m.put Fld.snapRecvStatus_recv_bytes sdDie (m.get Fld.snapRecvStatus_recv_bytes sdDie + chunkBytes)).drainReply node 0)))) ∧
      (∀ entries body, x = .manifest entries body → exec (.drainChunkReceive node step x) s = .next (s.setM (
        if sentBody entries = body ∧ entries.filter (fun e => ChunkRef.drains ⟨e.1, e.2.1, e.2.2.1⟩) = s.m.recv.entries then
          (({ s.m with recv := { s.m.recv with manifest := ⟨entries, body⟩ } } : Mach).put Fld.snapRecvStatus_recv_complete sdDie 1).drainReply
            node 0
        else s.m.drainReply node 1)))) ∧
    (s.m.flag Fld.snapRecvCfg_enable sdDie = true → node = s.m.get Fld.snapRecvCfg_sender sdDie →
      s.m.flag Fld.snapRecvStatus_copying sdDie = true → exec (.drainChunkReceive node step x) s =
      .next (s.setM { s.m with recv := { s.m.recv with waiting := s.m.recv.waiting ++ [(node, step, x)] } }))) ∧
  (∀ (s : State) (d : Fin 8), s.m.dieRuns d = true → s.m.draining d = true → (s.m.snap d).offered = false →
    ∀ r, exec (.drainChunkAck d r) s = .next s) ∧
  (∀ (s : State) (d : Fin 8), s.m.dieRuns d = true → s.m.draining d = true → (s.m.snap d).offered = true →
    let m0 := s.m.modSnap d (fun x => { x with offered := false })
    let v := m0.snap d
    let items := ((m0.versionChunks d).mapIdx (fun i c => (i, c))).filter (fun x => x.2.drains)
    exec (.drainChunkAck d .refuse) s = .next (s.setM (m0.drainFail d 2)) ∧
    (∀ i c, items[v.drained]? = some (i, c) → i < v.digested → exec (.drainChunkAck d .ack) s = .next (s.setM (
      let a := m0.manifest d + 128 + 48 * i
      let m := m0.writeNum (Via.engine d) a 4 (setBits (m0.viewNum a 4) 10 10 1)
      let m := if m.flag Fld.snapStatus_digest_done d then m.putBytes d (m.manifest d + 0x30) (m.bodyDigest (m.manifest d)) else m
      ((m.modSnap d (fun x => { x with drained := x.drained + 1, mism := 0 })).cnt .snapCnt d 5 chunkBytes).drainOffer d))) ∧
    (items[v.drained]? = none → m0.flag Fld.snapStatus_digest_done d = true → exec (.drainChunkAck d .ack) s =
      .next (s.setM (m0.put Fld.snapStatus_drain_done d 1))) ∧
    exec (.drainChunkAck d .again) s = .next (s.setM (
      let m := m0.modSnap d (fun x => { x with mism := x.mism + 1 })
      if 3 ≤ (m.snap d).mism then m.drainFail d 3 else m.drainOffer d))) ∧
  (∀ s : State, s.m.powered = true → s.m.flag Fld.snapRecvStatus_copying sdDie = true →
    s.m.rangeServed (s.m.get Fld.snapHoldArea_base sdDie * chunkBytes) (s.m.recv.entries.length * chunkBytes) = true →
    exec .holdCopyComplete s = .next (s.setM (
    let src := s.m.get Fld.snapRecvArea_base sdDie * chunkBytes
    let dst := s.m.get Fld.snapHoldArea_base sdDie * chunkBytes
    let m := (List.range s.m.recv.entries.length).foldl (fun m i =>
      m.copyChunk (src + i * chunkBytes) (dst + i * chunkBytes)) s.m
    let m := (m.wr .snapHoldStep sdDie (m.rd .snapRecvStep sdDie)).put Fld.snapRecvStatus_hold_valid sdDie 1
    let waited := m.recv.waiting
    let m : Mach := { m.put Fld.snapRecvStatus_copying sdDie 0 with
      recv := { m.recv with held := m.recv.entries, heldManifest := m.recv.manifest, waiting := [] } }
    waited.foldl (fun m x => m.drainReceive x.1 x.2.1 x.2.2) m))) ∧
  (∀ (s : State) (d : Fin 8) (a i : Nat) (c : ChunkRef) (data : List Byte), s.m.dieRuns d = true → s.m.flag Fld.snapCfg_enable d = true →
    let at_ := a / chunkBytes * chunkBytes
    ((s.m.versionChunks d).mapIdx (fun i c => (i, c))).find? (fun x =>
      x.2.region != 0xFF && x.2.kind == 0 && s.m.chunkAddr d (s.m.get Fld.snapStatus_cur d) x.2 == at_) = some (i, c) →
    exec (.pageRebuild d a data) s = if s.m.entryDigest (s.m.manifest d) i = sha3 data ∧ data.length = chunkBytes then .next (s.setM (
      let m := (s.m.putBytes (homeDie at_) at_ data).cnt .snapCnt d 6
      m.emitRec d 0x37 true false [(48, at_), (16, 1)] false false (m.parts.map (·.slot)))) else .next s)

/-! ### Power and heat (spec/15) -/

/-- R454 to R456, R460, R461, R464, R466, R467, R470: the rows of power and heat: a limit from the chassis is pending within the
ratings; a sample is shown and kept; the estimator is scaled to what was measured; a droop begins once its threshold is passed and ends
with its length counted; ballast issues below the floor in an idle array that nothing slows, and nowhere else; the taper starts on its
grid. Readings and choices of the model that it rests on: log 6, 8, 87, 88, 89, 127, 128, 134, 148. -/
def Obligations.PowerRows : Prop :=
  (∀ (s : State) (w : Nat), s.m.powered = true → exec (.pldmPowerLimit w) s = .next (s.setM (
    let m := if w < 600 then s.m.toCp sdDie 0x51 false false [(16, w)] else s.m
    let limit := min (max w 600) (classRating m.pins.cool)
    let m : Mach := { m with pins := { m.pins with chassisW := some limit } }
    (m.wr .pwrCapPend sdDie (2 ^ 31 + limit)).setPending limit))) ∧
  (∀ (s : State) (d : Fin 9) (compute : Nat) (stk : List Nat) (optics : Nat), s.m.nineRuns d = true →
    (d.val ≠ sdDie → exec (.powerSample d compute stk optics) s = .next (s.setM (
      let m := s.m.put Fld.pwrStatus_die_w d (satN 16 compute)
      let mem := (List.range 4).foldl (fun a k => a + satN 16 (stk.getD k 0) * 2 ^ (16 * k)) 0
      (m.wr .pwrMemW d mem).modPwr d (fun p =>
        { p with hist := (compute :: p.hist).take histLen, memory := ((stk.take 4).foldl (· + ·) 0 :: p.memory).take 10,
                 optics := (optics :: p.optics).take 10 })))) ∧
    (d.val = sdDie → exec (.powerSample d compute stk optics) s = .next (s.setM (s.m.powerMc compute)))) ∧
  (∀ (s : State) (d : Fin 8) (activity : List Nat) (uncore : Nat), s.m.dieRuns d = true →
    exec (.estimatorRescale d activity uncore) s = .next (s.setM (
      let sum := activity.foldl (· + ·) 0
      s.m.modPwr d (fun p => { p with est := { k := s.m.get Fld.pwrStatus_die_w d - uncore, s := max 1 sum, u := uncore } })))) ∧
  (∀ (s : State) (d : Fin 9) (u input : Nat), s.m.nineRuns d = true → exec (.governorWindow d u input) s = .next (s.setM (s.m.governor d u input))) ∧
  (∀ (s : State) (d : Fin 8) (drop : Nat), s.m.dieRuns d = true →
    (s.m.get Fld.pwrCtl_droop_mv d < drop → (s.m.pwr d).droop = false → exec (.supplyDroop d drop) s = .next (s.setM (
      let m := (s.m.ev Fld.pwrEvents_droop d).cnt .pwrCnt d 2
      m.modPwr d (fun p => { p with droop := true, droopAt := max (3 * m.pmu d) p.droopEnd })))) ∧
    ((s.m.pwr d).droop = true → exec (.supplyDroop d drop) s = .next s) ∧
    (drop ≤ s.m.get Fld.pwrCtl_droop_mv d → exec (.supplyDroop d drop) s = .next s)) ∧
  (∀ (s : State) (d : Fin 8) (c : Fin 32), s.m.dieRuns d = true →
    let free : Prop := s.m.fenced d c = false ∧ (s.m.gov d c).bubbles = 0 ∧ smGet 0 (s.m.pwr d).therm 0 = 0 ∧ s.m.drooping d = false ∧
      (s.m.pwr d).droopEnd ≤ 3 * (s.m.gov d c).start ∧ s.m.get Fld.pwrStatus_die_w d * 100 < (s.m.pwr d).cap * 54 ∧
      (s.m.gov d c).power.num * 3200 < (s.m.pwr d).cap * 54 * (s.m.gov d c).power.den
    let floor := if (s.m.pwr d).nut.isSome then s.m.floorNow d else (s.m.pwr d).ballast
    (free → s.m.arrayIdle d c = true → s.m.get Fld.pwrStatus_die_w d < floor →
      exec (.ballastIssue d c) s = .next (s.setM (((s.m.cnt .arrCnt d 6 (c := c)).cnt .pwrCnt d 5).showFloor d))) ∧
    (¬ free ∨ s.m.arrayIdle d c = false ∨ floor ≤ s.m.get Fld.pwrStatus_die_w d → exec (.ballastIssue d c) s = .next s)) ∧
  (∀ (s : State) (d : Fin 8) (n : NutSt), s.m.dieRuns d = true → (s.m.pwr d).nut = some n → n.taper = none →
    let at_ := roundUp n.t0 (s.m.get Fld.pwrNutCfg_grid_us d * 1000)
    (at_ ≤ s.m.ft d → exec (.nutmegTaperStart d) s =
      .next (s.setM ((s.m.modPwr d (fun p => { p with nut := some { n with taper := some at_ } })).showFloor d))) ∧
    (s.m.ft d < at_ → exec (.nutmegTaperStart d) s = .next s)) ∧
  (∀ (s : State) (d : Fin 9) (tj : Nat) (stk : List Nat) (optics : Nat), s.m.nineRuns d = true →
    exec (.thermalSample d tj stk optics) s = .next (s.setM (s.m.thermalSample d tj stk optics))) ∧
  (∀ (s : State) (d : Fin 8), s.m.dieRuns d = true → (s.m.pwr d).droop = true → exec (.droopEnd d) s = .next (s.setM (
    let len := s.m.get Fld.pwrCtl_droop_len d
    let tail := if len = 0 then 64 else 4 * len
    let len := 3 * s.m.pmu d + tail - (s.m.pwr d).droopAt
    (s.m.cnt .pwrCnt d 3 len).modPwr d (fun p => { p with droop := false, droopEnd := 3 * s.m.pmu d + tail, droopSum := p.droopSum + len }))))

/-- R457, R459, R461, R463: what a governor's window leaves: the unit's bubbles are those of its power over its share, and never fewer
than heat asks for; a core's bubbles are those that its vector engine and its array wait; the other units' windows and memory stay as
they are. Readings and choices of the model that it rests on: log 87, 88, 127, 128, 134. -/
def Obligations.GovernorSetsTheBubbles : Prop :=
  ∀ (s : State) (d : Fin 8) (u input : Nat), s.m.dieRuns d = true → u < 32 → smSorted s.m.dies = true → smSorted s.m.cores = true → s.m.regsSorted →
    smSorted (s.m.pwr d).gov = true → ∃ t : State, exec (.governorWindow ⟨d, by omega⟩ u input) s = .next t ∧
      let share := unitShare u (s.m.pwr d).cap
      let gain := s.m.get Fld.pwrCtl_gain d
      let b := max (bubblesFor gain (s.m.corePower d input) share.2.1 share.2.2)
        (bubblesFor gain ⟨s.m.get Fld.pwrStatus_die_w d, 1⟩ share.2.1 100)
      (t.m.gov d u).bubbles = max b (smGet 0 (s.m.pwr d).therm (thermKey u)) ∧
      (t.m.core d u).vecBubbles = (t.m.gov d u).bubbles ∧ (t.m.core d u).arr.bubbles = (t.m.gov d u).bubbles ∧
      (t.m.core d u).vecSlot = 0 ∧ (t.m.core d u).arr.slot = 0 ∧
      (∀ v, v ≠ u → t.m.gov d v = s.m.gov d v) ∧ t.m.mem = s.m.mem

/-- R455: a chassis limit below 600 W is taken as 600 W and PLDM_LIMIT_LOW is sent, one above the class rating as the class rating, any
other as it is, and what is sent is a record for the control plane behind those of the Bludjan die. -/
def Obligations.ChassisLimitIsWithinRatings : Prop :=
  ∀ (s : State) (w : Nat), s.m.powered = true → smSorted s.m.dies = true → ∃ (t : State) (limit : Nat), exec (.pldmPowerLimit w) s = .next t ∧
    t.m.pins.chassisW = some limit ∧ (w < 600 → limit = 600) ∧ (classRating s.m.pins.cool < w → limit = classRating s.m.pins.cool) ∧
    (600 ≤ w → w ≤ classRating s.m.pins.cool → limit = w) ∧
    (600 ≤ w → (t.m.die sdDie).records = (s.m.die sdDie).records) ∧
    (w < 600 → ∃ r : FaultRec, r.kind = 0x51 ∧ r.toCp = true ∧ r.die = sdDie ∧
      (t.m.die sdDie).records = (s.m.die sdDie).records ++ [r])

/-! ### Mailboxes (spec/16, spec/17) -/

/-- R480 to R483, R485, R501: the rows that bring requests in: the MC writes a request into its ring and rings; the CP firmware takes
the next request of a mailbox, answers it when a check fails and starts it otherwise; an ABORT is taken ahead and ends complete or
escalated. Readings and choices of the model that it rests on: log 6, 91, 92, 93. -/
def Obligations.RequestRows : Prop :=
  (∀ (s : State) (ws : List Nat), s.m.powered = true → s.m.pins.mcUp = true →
    let t := s.m.mbxTail 31
    ((t + 2 ^ 16 - s.m.mbxHead 31) % 2 ^ 16 < 16 → exec (.mcRelayRequest ws) s = .next (s.setM (
      (s.m.slotWrite (slotAt 31 t) ((ws.take 16).flatMap (toBytes 8))).wrReqTail ⟨.mbxReqTail, sdDie, 0, 31, 0⟩
        ⟨.mc, t, (t + 1) % 2 ^ 16, (t + 1) % 2 ^ 16, 2 ^ 32 - 1⟩))) ∧
    (16 ≤ (t + 2 ^ 16 - s.m.mbxHead 31) % 2 ^ 16 →
      exec (.mcRelayRequest ws) s = .next (s.setM (s.m.ev Fld.mbxEvents_doorbell_err sdDie 31)))) ∧
  (∀ (s : State) (k : Fin 32), s.m.powered = true → s.m.cp.up = true →
    let m := s.m.mbxSkip k 16
    let r := m.request k (m.mbxHead k)
    m.mbxHead k ≠ m.mbxTail k → m.mbxRunning k = false → m.rspFree k = true → r.opcode ≠ 0x14 →
      let uses := m.flag Fld.mbxStatus_open sdDie k && r.opcode != 0x01 && r.seq == m.expected k
      let taken := (if uses then m.setExpected k (r.seq + 1) else m).mbxAdvance k
      (∀ status ws, m.verdict r (m.flag Fld.mbxStatus_open sdDie k) (m.expected k) = some (status, ws) →
        exec (.mailboxRequestTake k) s = .next (s.replied taken (m.started r) status ws)) ∧
      (m.verdict r (m.flag Fld.mbxStatus_open sdDie k) (m.expected k) = none → m.partitionBusy r = false → r.opcode ≠ 0x21 →
        exec (.mailboxRequestTake k) s = .next (s.setM (
          ({ taken with cp := { taken.cp with running := taken.cp.running ++ [m.started r] } } : Mach).mbxBusy k)))) ∧
  (∀ (s : State) (k : Fin 32) (r : MbxReq) (p : Part), s.m.powered = true → s.m.cp.up = true → s.m.abortSettled (s.m.started r) = none →
    s.m.abortRequest k = some r → s.m.rspFree k = true →
    (s.m.verdict r (s.m.ringState k r.count).1 (s.m.ringState k r.count).2) = none → s.m.partAt (pfield r.words 0 3 0) = some p →
    s.m.aborting (pfield r.words 0 3 0) = false →
      exec (.abort k) s = .next (s.setM (
        let c := s.m.started r
        let slot := pfield r.words 0 3 0
        let m : Mach := { s.m with cp := { s.m.cp with ahead := s.m.cp.ahead ++ [(k.val, r.count)] } }
        let x := (m.abortOthers slot).abortPart p
        let m : Mach := { x.1 with cp := { x.1.cp with aborts := x.1.cp.aborts ++ [⟨slot, [c], x.1.pmu sdDie, x.2.1, x.2.2, 0⟩] } }
        (m.mbxSkip k 16).mbxBusy k))) ∧
  (∀ (s : State) (slot : Fin 8) (a : AbortSt) (p : Part), s.m.powered = true → s.m.cp.up = true → s.m.cp.aborts.find? (fun a => a.slot == slot.val) = some a →
    s.m.partAt slot = some p →
    (s.m.partIdle p = true → exec (.abortComplete slot) s = .next (s.setM ((s.m.abortLaunches p).abortFinish slot 0 mbOk))) ∧
    (s.m.partIdle p = false → exec (.abortComplete slot) s = .next s) ∧
    (a.start + 400000 ≤ s.m.pmu sdDie → exec (.abortEscalate slot) s = .next (s.setM (
      (p.dies.foldl (fun m d => m.dieReset d) s.m).abortFinish slot p.dieMask mbEscalated))) ∧
    (s.m.pmu sdDie < a.start + 400000 → exec (.abortEscalate slot) s = .next s))

/-- R487, R490, R496, R497, R499, R504, R506, R523 to R525: the commands that a mailbox serves, each from its fields to its response.
R338, R505: a margin run is started on a die of no partition, and none is running there; its state is what MARGIN_STATUS answers; a
cancelled one ends without results. R427, R439 to R441, R492 to R498, R504: the three long commands, each when its checks pass:
CONFIGURE takes its entries in order, locks the fabric last and reports; JOB_OPEN writes the job's registers and arms its timers on
every die of the partition; a local SNAP_RESTORE installs a version whose chunks all checked. Readings and choices of the model that it
rests on: log 6, 82, 83, 84, 85, 91, 92, 93, 94, 95, 96, 97, 98, 101, 102, 129, 145. -/
def Obligations.MailboxCommandRows : Prop :=
  ((∀ (s : State) (k : Fin 32) (c : MbxCmd), s.serving k 0x01 c →
     (pfield c.words 0 47 32 ≤ 1 → 1 ≤ pfield c.words 0 63 48 → exec (.openMailbox k) s = .next (
       let m := (s.m.put Fld.mbxStatus_open sdDie 1 c.mbx).put Fld.mbxStatus_major sdDie 1 c.mbx
       let next := (c.count + 1) % 2 ^ 16
       let passed := (m.mbxHead c.mbx + 2 ^ 16 - next) % 2 ^ 16
       let m := m.setExpected c.mbx (m.ringFold c.mbx next passed (true, (c.seq + 1) % 2 ^ 32)).2
       s.replied m c mbOk [2 ^ 48 + Config.mbxMinor.toNat % 2 ^ 16 * 2 ^ 32, 7, m.get Fld.bootFw_build sdDie 3])) ∧
     (1 < pfield c.words 0 47 32 ∨ pfield c.words 0 63 48 < 1 → exec (.openMailbox k) s = .next (s.replied s.m c mbNoVersion []))) ∧
   (∀ (s : State) (k : Fin 32) (c : MbxCmd), s.serving k 0x02 c →
     let pad (l : List Nat) : List Nat := (l ++ List.replicate 14 0).take 14
     (pfield c.words 0 7 0 = 0 → exec (.query k) s = .next (s.replied s.m c mbOk (pad [s.m.get Fld.bootId_stepping sdDie,
       s.m.perm.serial % 2 ^ 64, s.m.perm.serial / 2 ^ 64 % 2 ^ 64, s.m.get Fld.fabNode_valid 0 * 2 ^ 14 + s.m.get Fld.fabNode_node 0]))) ∧
     (pfield c.words 0 7 0 = 1 → exec (.query k) s = .next (s.replied s.m c mbOk (pad ((List.range 8).map s.m.partWord)))) ∧
     (pfield c.words 0 7 0 = 2 → exec (.query k) s = .next (s.replied s.m c mbOk
       (pad [s.m.rd .pwrCap sdDie + (s.m.pins.chassisW.getD 0) % 2 ^ 16 * 2 ^ 32]))) ∧
     (pfield c.words 0 7 0 = 3 → exec (.query k) s = .next (s.replied s.m c mbOk
       (pad [Config.romVersion.toNat, s.m.fwVersion 3, s.m.fwVersion 2, s.m.fwVersion 1, s.m.fwVersion 4]))) ∧
     (3 < pfield c.words 0 7 0 → exec (.query k) s = .next (s.replied s.m c mbBadArg [0]))) ∧
   (∀ (s : State) (k : Fin 32) (c : MbxCmd) (free : Nat), s.serving k 0x10 c →
     let mask := pfield c.words 0 7 0
     let box := pfield c.words 0 12 8
     let root := pfield c.words 1 47 12 * 4096
     let dies := bitsSet mask 8
     mask ≠ 0 → box ≠ 0 → box ≠ 31 → pword c.words 1 % 4096 = 0 → isStacked root = true →
     (∀ d ∈ dies, s.m.partOf d = none ∧ s.m.cp.resetting.testBit d = false ∧
       s.m.cp.margins.any (fun x => x.die == d && x.state == 1) = false) →
     s.m.get Fld.mbxStatus_part sdDie box = 0xF → (List.range 8).find? (fun i => (s.m.partAt i).isNone) = some free →
     exec (.partitionCreate k) s = .next (s.replied
       (let m : Mach := { s.m with parts := s.m.parts ++ [Machine.Part.mk free mask box [] 0] }
        dies.foldl (fun m d =>
         let m := m.cpWrite ⟨.cfgXlatRoot, d, 0, 0, 0⟩ (Fld.cfgXlatRoot_valid.into (Fld.cfgXlatRoot_root.into 0 (root / 4096)) 1)
         (m.cpPut Fld.dcPinQuota_quota d 1048576).cpPut Fld.fabJob_valid d 0) (m.put Fld.mbxStatus_part sdDie free box)) c mbOk [free])) ∧
   (∀ (s : State) (k : Fin 32) (c : MbxCmd) (p : Part), s.serving k 0x11 c → s.m.partAt (pfield c.words 0 3 0) = some p →
     Fld.fabJob_valid.of (s.m.cpReg ⟨.fabJob, p.low, 0, 0, 0⟩) = 0 →
     exec (.partitionDestroy k) s = .next (s.replied
       (let m := p.dies.foldl (fun m d => m.dieReset d) ((s.m.doomQueued p.slot).abortPart p).1
        let m := p.dies.foldl (fun (m : Mach) d =>
          let saved := smMod [] m.cp.saved d (fun r => r.filter (fun (e : Nat × W64) => !((partitionRegs d).map RegId.key).contains e.1))
          { m with cp := { m.cp with saved } }) m
        let m : Mach := { m with parts := m.parts.filter (fun x => x.slot != p.slot),
                                 cp := { m.cp with abortRead := m.cp.abortRead.filter (fun a => a.1 != p.slot) } }
        ((m.put Fld.mbxStatus_part sdDie 0xF p.mailbox).put Fld.mbxStatus_open sdDie 0 p.mailbox).put Fld.mbxStatus_major sdDie 0 p.mailbox)
       c mbOk [])) ∧
   (∀ (s : State) (k : Fin 32) (c : MbxCmd) (p : Part), s.serving k 0x13 c → s.m.partAt (pfield c.words 0 3 0) = some p →
     (s.m.partBusy p = true → exec (.jobClose k) s = .next (s.replied s.m c mbBusy [])) ∧
     (s.m.partBusy p = false → exec (.jobClose k) s = .next (s.replied
       ((p.dies.foldl (fun m d =>
         ((List.range 5).foldl (fun m i => m.cpPut Fld.ftTmrCtl_enable d 0 (i + 3)) m).cpPut Fld.fabJob_valid d 0) s.m).cpPut
           Fld.snapCfg_enable p.low 0) c mbOk []))) ∧
   (∀ (s : State) (k : Fin 32) (c : MbxCmd), s.serving k 0x15 c →
     let table := pfield c.words 2 47 0
     let list := pfield c.words 3 47 0
     let n := pfield c.words 4 13 0
     let ctl := s.m.cpReg ⟨.fabRouteCtl, 0, 0, 0, 0⟩
     pfield c.words 0 15 0 = (Fld.fabRouteCtl_epoch.of ctl + 1) % 2 ^ 16 → regionOk table 512 = true → regionOk list (2 * n) = true →
     Fld.fabRouteCtl_arm.of ctl ≠ 1 → exec (.routeUpdate k) s = .next (s.replied
       (orlupo.foldl (fun m d =>
         let m := (((List.range 64).map (fun i => s.m.viewNum (table + 8 * i) 8)).mapIdx (fun i e => (i, e))).foldl (fun m x =>
           m.cpWrite ⟨.fabDetourPend, d, 0, x.1, 0⟩ x.2) m
         let m := m.cpWrite ⟨.fabRouteSwitch, d, 0, 0, 0⟩ (pword c.words 1)
         let m := m.modFab d (fun x => { x with clearList := (List.range n).map (fun i => bitsOf (s.m.viewNum (list + 2 * i) 2) 13 0) })
         let id : RegId := ⟨.fabRouteCtl, d, 0, 0, 0⟩
         m.cpWrite id (Fld.fabRouteCtl_arm.into (Fld.fabRouteCtl_pend_epoch.into (m.cpReg id) (pfield c.words 0 15 0)) 1)) ((s.m.viewed table 512).viewed list (2 * n))) c mbOk [])) ∧
   (∀ (s : State) (k : Fin 32) (c : MbxCmd) (p : Part), s.serving k 0x20 c → s.m.partAt (pfield c.words 0 3 0) = some p →
     s.m.drainOpen p.low = false → pfield c.words 0 4 4 = 0 → pfield c.words 0 5 5 = 1 → areaOk (pword c.words 3) 0x20000000000 0x20800000000 = true →
     areaOk (pword c.words 4) 0 0x20000000000 = true → exec (.snapConfig k) s = .next (s.replied
       (((s.m.wr .snapRecvCfg sdDie (pfield c.words 2 14 0)).wr .snapRecvArea sdDie (pword c.words 3 / 2 ^ 22 * 2 ^ 22)).wr .snapHoldArea sdDie
         (pword c.words 4 / 2 ^ 22 * 2 ^ 22)) c mbOk [])) ∧
   (∀ (s : State) (k : Fin 32) (c : MbxCmd), s.serving k 0x40 c →
     let d := pfield c.words 0 2 0
     exec (.fuseStatus k) s = .next (s.replied s.m c mbOk [coreMask (fun i => s.m.fenced d i), coreMask (fun i => s.m.flag Fld.arrSpareMap_soft d (c := i)),
       coreMask (fun i => bitsOf (smGet noSpare s.m.perm.spare (coreKey d i)).toNat 39 8 != 0xFFFFFFFF),
       (s.m.perm.repair.filter (fun r => r.die == d)).length % 2 ^ 16])) ∧
   (∀ (s : State) (k : Fin 32) (c : MbxCmd), s.serving k 0x41 c → exec (.ftStatus k) s =
     .next (s.replied s.m c mbOk (nineDies.map (fun d => s.m.rd .ftStatus d) ++ [s.m.ft 0, s.m.rd .ftCivilOffset sdDie]))) ∧
   (∀ (s : State) (k : Fin 32) (c : MbxCmd), s.serving k 0x42 c →
     let buf := pfield c.words 0 47 0
     let parts := (bitsSet (pfield c.words 1 24 16) 9).flatMap (fun d => (bitsSet (pfield c.words 1 13 0) 14).flatMap (fun b =>
       (blockCounters b d).map (fun x => (d, b, x.1, x.2))))
     let total := (parts.map (fun x => 16 + 8 * x.2.2.2.length)).foldl (· + ·) 0
     regionOk buf (pfield c.words 2 31 0) = true →
     (pfield c.words 2 31 0 < total → exec (.counterSnapshot k) s = .next (s.replied s.m c mbBadArg [2])) ∧
     (total ≤ pfield c.words 2 31 0 → exec (.counterSnapshot k) s = .next (s.replied
       (let bytes := parts.flatMap (fun x =>
         toBytes 8 (x.2.1 + x.1 * 2 ^ 8 + x.2.2.1 * 2 ^ 16 + x.2.2.2.length * 2 ^ 24) ++ toBytes 8 (s.m.ft x.1) ++
           x.2.2.2.flatMap (fun id => toBytes 8 (s.m.reg id)))
        let m := if pfield c.words 1 32 32 = 1 then parts.foldl (fun m x => x.2.2.2.foldl (fun m id => m.setReg id 0) m) s.m else s.m
        m.putBytes sdDie buf bytes) c mbOk [total]))) ∧
   (∀ (s : State) (k : Fin 32) (c : MbxCmd), s.serving k 0x43 c → pfield c.words 0 3 0 = 0 → s.m.debugShut = true →
     exec (.debugChallenge k) s = .next (s.replied (s.m.ev Fld.secEvents_unlock_refused sdDie) c mbDebugRefused [])) ∧
   (∀ (s : State) (k : Fin 32) (c : MbxCmd), s.serving k 0x43 c → pfield c.words 0 3 0 = 0 → s.m.debugShut = false →
     let n := Config.freeBits s.m.freeCtr % 2 ^ 256
     let m : Mach := { s.m.tickFree with sec := { s.m.sec with challenge := some (toBytes 32 n, s.m.pmu sdDie) } }
     exec (.debugChallenge k) s = .next (s.replied m c mbOk
       ((List.range 4).map (fun i => n / 2 ^ (64 * i) % 2 ^ 64) ++ (List.range 4).map (fun i => m.rd .secDevid sdDie i)))) ∧
   (∀ (s : State) (k : Fin 32) (c : MbxCmd), s.serving k 0x43 c → pfield c.words 0 3 0 = 1 →
     let addr := pfield c.words 1 47 0
     let tok := s.m.viewBytes addr 2496
     let v := s.m.viewed addr 2496
     (s.m.debugOpen = true → exec (.debugUnlock k) s = .next (s.replied s.m c mbOk [3])) ∧
     (s.m.debugOpen = false → s.m.debugShut = true →
       exec (.debugUnlock k) s = .next (s.replied s.m.debugRefuse.1 c s.m.debugRefuse.2.1 s.m.debugRefuse.2.2)) ∧
     (s.m.debugOpen = false → s.m.debugShut = false → regionOk addr 2496 = false ∨ pfield c.words 2 31 0 ≠ 2496 →
       exec (.debugUnlock k) s = .next (s.replied s.m.dropChallenge c mbBadArg [if regionOk addr 2496 then 2 else 1])) ∧
     (s.m.debugOpen = false → s.m.debugShut = false → regionOk addr 2496 = true → pfield c.words 2 31 0 = 2496 →
       (s.m.tokenOk tok = false → exec (.debugUnlock k) s = .next (s.replied v.debugRefuse.1 c v.debugRefuse.2.1 v.debugRefuse.2.2)) ∧
       (s.m.tokenOk tok = true → s.m.sec.hung = false → exec (.debugUnlock k) s = .next (s.replied
         (let m : Mach := { v with debugOpen := true,
                                   sec := { v.sec with cdi1 := none, aliasSeed := none, fwSeed := none, challenge := none } }
          ((m.put Fld.secStatus_debug_open sdDie 1).put Fld.secStatus_taint sdDie 1).ev Fld.secEvents_debug_opened sdDie) c mbOk [3])) ∧
       (s.m.tokenOk tok = true → s.m.sec.hung = true →
         exec (.debugUnlock k) s = .next (s.replied v.dropChallenge c mbFailed [0]))))) ∧
  ((∀ (s : State) (k : Fin 32) (c : MbxCmd), s.serving k 0x30 c →
     let d := pfield c.words 0 2 0
     let n := popcount (pword c.words 1) 64
     let addr := pfield c.words 2 47 0
     pfield c.words 0 6 5 ≠ 0 → pword c.words 1 ≠ 0 → 0x20000000000 ≤ addr → addr + 576 * n ≤ 0x20800000000 →
     s.m.partOf d = none → s.m.cp.margins.any (fun x => x.die == d && x.state == 1) = false →
     exec (.marginStart k) s = .next (s.replied
       (let run : MarginSt :=
          { die := d, stack := pfield c.words 0 4 3, sweep := pfield c.words 0 6 5, mask := pword c.words 1, addr, state := 1, written := 0, ended := 0 }
        let m : Mach := { s.m with cp := { s.m.cp with margins := (s.m.cp.margins.filter (fun (x : MarginSt) => x.die != d)) ++ [run] } }
        m.put Fld.hbmStatus_margining d 1 (c := pfield c.words 0 4 3)) c mbOk [36 * n])) ∧
   (∀ (s : State) (k : Fin 32) (c : MbxCmd), s.serving k 0x31 c →
     (∀ x, s.m.cp.margins.find? (fun x => x.die == pfield c.words 0 2 0) = some x →
       exec (.marginStatus k) s = .next (s.replied s.m c mbOk [x.state + x.written * 2 ^ 16, x.ended])) ∧
     (s.m.cp.margins.find? (fun x => x.die == pfield c.words 0 2 0) = none → exec (.marginStatus k) s = .next (s.replied s.m c mbOk [0, 0]))) ∧
   (∀ (s : State) (k : Fin 32) (c : MbxCmd), s.serving k 0x32 c →
     let d := pfield c.words 0 2 0
     (s.m.cp.margins.any (fun x => x.die == d && x.state == 1) = true →
       exec (.marginCancel k) s = .next (s.replied (s.m.marginEnd d 3 0) c mbOk [])) ∧
     (s.m.cp.margins.any (fun x => x.die == d && x.state == 1) = false → exec (.marginCancel k) s = .next (s.replied s.m c mbBusy [])))) ∧
  ((∀ (s : State) (k : Fin 32) (c : MbxCmd), s.serving k 0x03 c →
     let addr := pfield c.words 0 47 0
     let gen := pfield c.words 1 63 32
     let len := pfield c.words 1 31 0
     let scope := pfield c.words 2 3 0
     let rmax := pfield c.words 2 31 16
     let raddr := pfield c.words 3 47 0
     let n := s.m.viewNum (addr + 12) 2
     (scope = 0xF ∨ (s.m.partAt scope).isSome = true) → regionOk addr len = true → (raddr = 0 ∨ regionOk raddr (16 * rmax) = true) →
     s.m.viewNum addr 4 = 0x43464731 → s.m.viewNum (addr + 8) 4 = len → len = 24 + 8 * n → s.m.viewNum (addr + 4) 4 = gen →
     s.m.viewNum (addr + 16 + 8 * n + 4) 4 = gen →
       let dies := match s.m.partAt scope with | some p => p.dies | none => []
       let a := (List.range n).foldl (fun (a : CfgAcc) i =>
         let e := s.m.viewNum (addr + 16 + 8 * i) 8
         a.entry c.mbx (if scope = 0xF then none else some scope) dies i (bitsOf e 63 48) (bitsOf e 31 0)) (CfgAcc.mk (s.m.viewed addr (24 + 8 * n)) [] [] 0 0 0 0 false)
       let m : Mach := if a.lock then orlupo.foldl (fun m d => m.cpPut Fld.fabNode_lock d 1) a.m else a.m
       let wr := if raddr = 0 then 0 else min rmax a.reports.length
       exec (.configure k) s = .next (s.replied (m.putBytes sdDie raddr ((a.reports.take wr).flatMap reportBytes)) c
         (if a.reports.isEmpty then mbOk else mbClamped)
         [a.applied % 2 ^ 16 * 2 ^ 48 + a.clamped % 2 ^ 16 * 2 ^ 32 + a.ignored % 2 ^ 16 * 2 ^ 16 + a.refused % 2 ^ 16,
          (a.reports.length - wr) % 2 ^ 16 * 2 ^ 16 + wr])) ∧
   (∀ (s : State) (k : Fin 32) (c : MbxCmd) (p : Part), s.serving k 0x12 c → s.m.partAt (pfield c.words 0 3 0) = some p →
     s.m.jobError p c.words = none → Fld.fabJob_valid.of (s.m.cpReg ⟨.fabJob, p.low, 0, 0, 0⟩) = 0 → pfield c.words 6 4 4 = 0 →
       let job := 2 ^ 63 + pfield c.words 0 31 16 * 2 ^ 32 + pfield c.words 1 22 0 * 2 ^ 9
       let col := Fld.colCfg_pf_en.into (Fld.colCfg_t16_compat.into 0 (pfield c.words 6 5 5)) (pfield c.words 6 6 6)
       let m1 := p.dies.foldl (fun m x => (m.cpWrite ⟨.fabJob, x, 0, 0, 0⟩ job).cpWrite ⟨.colCfg, x, 0, 0, 0⟩ col) s.m
       let cfg := Fld.snapCfg_replica.into (Fld.snapCfg_buddy.into (m1.cpReg ⟨.snapCfg, p.low, 0, 0, 0⟩) (pfield c.words 6 33 20)) (pfield c.words 6 47 34)
       let cfg := Fld.snapCfg_enable.into (Fld.snapCfg_rgn_count.into cfg (pfield c.words 7 56 48)) 0
       let m2 := (m1.cpWrite ⟨.snapCfg, p.low, 0, 0, 0⟩ (Fld.snapCfg_commit_ctr.into cfg (pfield c.words 6 19 8))).cpWrite ⟨.snapWork, p.low, 0, 0, 0⟩
         (pword c.words 8 / 2 ^ 22 * 2 ^ 22)
       let m3 := (m2.wr .snapRgnBase p.low (pfield c.words 7 47 0)).wr .snapSsrBase p.low (pfield c.words 9 47 0)
       let m4 := ((m3.wr .snapStep p.low 0).wr .snapUpdDone p.low (2 ^ 64 - 1)).wr .snapCommit p.low (2 ^ 64 - 1)
       let m5 := (m4.wr .snapStatus p.low 0).modSnap p.low (fun _ => SnapSt.init)
       let ts := jobTimers p.slot c.words
       exec (.jobOpen k) s = .next (s.replied (p.dies.foldl (fun m x => ts.foldl (fun m t => m.armTimer x t.1 t.2.1 t.2.2) m) m5) c mbOk
         [(ts.map (fun t => 2 ^ t.1)).foldl (· + ·) 0])) ∧
   (∀ (s : State) (k : Fin 32) (feed : RestoreFeed) (c : MbxCmd) (p : Part), s.serving k 0x21 c → s.m.partAt (pfield c.words 0 3 0) = some p →
     pfield c.words 0 5 4 = 0 → pfield c.words 0 6 6 = 0 →
       let m := s.m.put Fld.snapStatus_restoring p.low 0
       let slot := m.get Fld.snapStatus_cur p.low
       let a := m.slotBase p.low slot
       let state := m.viewNum (a + 4) 1 % 8
       let n := m.viewNum (a + 0x20) 4
       m.flag Fld.snapCfg_enable p.low = true → m.partBusy p = false →
       ((m.snap p.low).initial = true → exec (.snapRestore k feed) s = .next (s.replied m c mbFailed [1])) ∧
       ((m.snap p.low).initial = false → m.viewNum a 4 = 0x4D414E31 → state = 2 ∨ state = 3 ∨ state = 4 →
       sha3 (m.viewBytes (a + 128) (48 * n)) = m.viewBytes (a + 0x30) 32 →
       exec (.snapRestore k feed) s = .next (match (m.viewed a (128 + 48 * n)).restoreChunks p.low slot c.words true feed
           (m.manifestEntries p.low slot) 0 with
         | (m', some refetched) => s.replied (m'.restoreInstall p slot c refetched).1 c mbOk (m'.restoreInstall p slot c refetched).2.2
         | (m', none) => s.replied m' c mbFailed [3]))))

/-- R484, R506: what software finds of an answered FT_STATUS: in the response slot at MBX_RSP_TAIL the opcode, the status, the length
and the `seq` of the command, then the nine FT_STATUS and FT_COUNT of CD0; nothing in memory has changed. Readings and choices of the
model that it rests on: log 91. -/
def Obligations.FtStatusIsInTheResponseSlot : Prop :=
  ∀ (s : State) (k : Fin 32) (c : MbxCmd), s.serving k 0x41 c → c.seq < 2 ^ 32 → smSorted s.m.cp.slots = true →
    s.m.regsSorted → ∃ t : State, exec (.ftStatus k) s = .next t ∧
      let a := slotAt k (s.m.get Fld.mbxRspTail_count sdDie k) + 0x800
      t.m.slotNum a 8 = 0x41 * 2 ^ 56 + 88 * 2 ^ 32 + c.seq ∧ (∀ d < 9, t.m.slotNum (a + 16 + 8 * d) 8 = s.m.rd .ftStatus d) ∧
      t.m.slotNum (a + 88) 8 = s.m.ft 0 ∧
      t.m.get Fld.mbxRspTail_count sdDie k = (s.m.get Fld.mbxRspTail_count sdDie k + 1) % 2 ^ 16 ∧ t.m.mem = s.m.mem
end

