-- ==== Sys2Proof/Decode.lean ====
section
/-! DEFINITION. Words that spell commands: the opcode table gives no row any bits, so there is none. -/

namespace Sys2Proof

/-- The command that a word spells by the table's bits. -/
def decodeTableWord (_nbits _w : Nat) : Option Instr := none

end Sys2Proof
end

