-- ==== Sys2Proof/Laws/Map.lean ====
section
/-! SUPPORT. Laws of the sparse map: read after write, other keys, the canonical form. -/

namespace Sys2Proof.Machine

variable {α : Type}

/-- The canonical form is sorted. -/
theorem smSorted_of_smWf [DecidableEq α] (d : α) (m : SMap α) (h : smWf d m = true) : smSorted m = true := by
  induction m with
  | nil => rfl
  | cons e m ih =>
    simp only [smWf, Bool.and_eq_true] at h
    simp [smSorted, h.1.2, ih h.2]

/-- A key below every key of a map reads as the default. -/
theorem smGet_of_smAbove (d : α) (k : Nat) (m : SMap α) (h : smAbove k m = true) : smGet d m k = d := by
  induction m with
  | nil => rfl
  | cons e m ih =>
    obtain ⟨k', v⟩ := e
    simp only [smAbove, Bool.and_eq_true, decide_eq_true_eq] at h
    simp [smGet, Nat.ne_of_gt h.1, ih h.2]

/-- Above a key, above every smaller one. -/
theorem smAbove_trans (k k' : Nat) (m : SMap α) (hk : k < k') (h : smAbove k' m = true) : smAbove k m = true := by
  induction m with
  | nil => rfl
  | cons e m ih =>
    obtain ⟨k'', v⟩ := e
    simp only [smAbove, Bool.and_eq_true, decide_eq_true_eq] at h ⊢
    exact ⟨by omega, ih h.2⟩

/-- A key reads as written. -/
theorem smGet_smSet_same [DecidableEq α] (d : α) (m : SMap α) (k : Nat) (v : α) (h : smSorted m = true) : smGet d (smSet d m k v) k = v := by
  induction m with
  | nil => by_cases hv : v = d <;> simp [smSet, smGet, hv]
  | cons e m ih =>
    obtain ⟨k', v'⟩ := e
    simp only [smSorted, Bool.and_eq_true] at h
    unfold smSet
    split
    · rename_i hk
      split
      · rename_i hv
        have : smAbove k ((k', v') :: m) = true := by simp [smAbove, hk, smAbove_trans k k' m hk h.1]
        rw [smGet_of_smAbove d k _ this, hv]
      · simp [smGet]
    · split
      · rename_i hk
        subst hk
        split
        · rename_i hv; rw [smGet_of_smAbove d k m h.1, hv]
        · simp [smGet]
      · rename_i hk
        simp [smGet, Ne.symm hk, ih h.2]

/-- Other keys read as before. -/
theorem smGet_smSet_ne [DecidableEq α] (d : α) (m : SMap α) (k j : Nat) (v : α) (h : smSorted m = true) (hj : j ≠ k) :
    smGet d (smSet d m k v) j = smGet d m j := by
  induction m with
  | nil => by_cases hv : v = d <;> simp [smSet, smGet, hv, hj.symm]
  | cons e m ih =>
    obtain ⟨k', v'⟩ := e
    simp only [smSorted, Bool.and_eq_true] at h
    unfold smSet
    split
    · split
      · rfl
      · simp [smGet, hj.symm]
    · split
      · rename_i hk
        subst hk
        split
        · simp [smGet, hj.symm]
        · simp [smGet, hj.symm]
      · by_cases hk' : k' = j
        · simp [smGet, hk']
        · simp [smGet, hk', ih h.2]

/-- Other keys read as before, whatever default they are read with. -/
theorem smGet_smSet_ne_any [DecidableEq α] (d d' : α) (m : SMap α) (k j : Nat) (v : α) (h : smSorted m = true) (hj : j ≠ k) :
    smGet d' (smSet d m k v) j = smGet d' m j := by
  induction m with
  | nil => by_cases hv : v = d <;> simp [smSet, smGet, hv, hj.symm]
  | cons e m ih =>
    obtain ⟨k', v'⟩ := e
    simp only [smSorted, Bool.and_eq_true] at h
    unfold smSet
    split
    · split
      · rfl
      · simp [smGet, hj.symm]
    · split
      · rename_i hk
        subst hk
        split <;> simp [smGet, hj.symm]
      · by_cases hk' : k' = j
        · simp [smGet, hk']
        · simp [smGet, hk', ih h.2]

/-- Writing a key keeps the rest above a bound. -/
theorem smAbove_smSet [DecidableEq α] (d : α) (m : SMap α) (b k : Nat) (v : α) (hb : b < k) (h : smAbove b m = true) :
    smAbove b (smSet d m k v) = true := by
  induction m with
  | nil => by_cases hv : v = d <;> simp [smSet, smAbove, hv, hb]
  | cons e m ih =>
    obtain ⟨k', v'⟩ := e
    simp only [smAbove, Bool.and_eq_true, decide_eq_true_eq] at h
    unfold smSet
    split
    · split <;> simp [smAbove, h.1, h.2, hb]
    · split
      · split <;> simp [smAbove, h.2, hb]
      · simp [smAbove, h.1, ih h.2]

/-- A write keeps the canonical form. -/
theorem smWf_smSet [DecidableEq α] (d : α) (m : SMap α) (k : Nat) (v : α) (h : smWf d m = true) : smWf d (smSet d m k v) = true := by
  induction m with
  | nil => by_cases hv : v = d <;> simp [smSet, smWf, smAbove, hv]
  | cons e m ih =>
    obtain ⟨k', v'⟩ := e
    have h0 := h
    simp only [smWf, Bool.and_eq_true, decide_eq_true_eq] at h
    unfold smSet
    split
    · rename_i hk
      split
      · exact h0
      · rename_i hv
        simp [smWf, smAbove, hv, hk, h.1.1, h.1.2, h.2, smAbove_trans k k' m hk h.1.2]
    · split
      · rename_i hk
        subst hk
        split
        · exact h.2
        · rename_i hv; simp [smWf, hv, h.1.2, h.2]
      · rename_i h1 h2
        simp [smWf, h.1.1, ih h.2, smAbove_smSet d m k' k v (by omega) h.1.2]

/-- A write keeps the keys rising. -/
theorem smSorted_smSet [DecidableEq α] (d : α) (m : SMap α) (k : Nat) (v : α) (h : smSorted m = true) :
    smSorted (smSet d m k v) = true := by
  induction m with
  | nil => by_cases hv : v = d <;> simp [smSet, smSorted, smAbove, hv]
  | cons e m ih =>
    obtain ⟨k', v'⟩ := e
    have h0 := h
    simp only [smSorted, Bool.and_eq_true] at h
    unfold smSet
    split
    · rename_i hk
      split
      · exact h0
      · simp [smSorted, smAbove, hk, h.1, h.2, smAbove_trans k k' m hk h.1]
    · split
      · rename_i hk
        subst hk
        split
        · exact h.2
        · simp [smSorted, h.1, h.2]
      · rename_i h1 h2
        simp [smSorted, ih h.2, smAbove_smSet d m k' k v (by omega) h.1]

/-- Keeping some entries keeps the rest above a bound. -/
theorem smAbove_filter (p : Nat × α → Bool) (m : SMap α) (b : Nat) (h : smAbove b m = true) : smAbove b (m.filter p) = true := by
  induction m with
  | nil => rfl
  | cons e m ih =>
    obtain ⟨k', v'⟩ := e
    simp only [smAbove, Bool.and_eq_true, decide_eq_true_eq] at h
    by_cases hp : p (k', v') = true <;> simp [List.filter, hp, smAbove, h.1, ih h.2]

/-- Keeping some entries keeps the canonical form. -/
theorem smWf_filter [DecidableEq α] (d : α) (p : Nat × α → Bool) (m : SMap α) (h : smWf d m = true) : smWf d (m.filter p) = true := by
  induction m with
  | nil => rfl
  | cons e m ih =>
    obtain ⟨k', v'⟩ := e
    simp only [smWf, Bool.and_eq_true, decide_eq_true_eq] at h
    by_cases hp : p (k', v') = true <;> simp [List.filter, hp, smWf, h.1.1, ih h.2, smAbove_filter p m k' h.1.2]

/-- A changed value is the one read afterwards. -/
theorem smGet_smMod_same [DecidableEq α] (d : α) (m : SMap α) (k : Nat) (f : α → α) (h : smSorted m = true) :
    smGet d (smMod d m k f) k = f (smGet d m k) := smGet_smSet_same d m k _ h

/-- Other keys read as before a change. -/
theorem smGet_smMod_ne [DecidableEq α] (d : α) (m : SMap α) (k j : Nat) (f : α → α) (h : smSorted m = true) (hj : j ≠ k) :
    smGet d (smMod d m k f) j = smGet d m j := smGet_smSet_ne d m k j _ h hj

/-- A change keeps the canonical form. -/
theorem smWf_smMod [DecidableEq α] (d : α) (m : SMap α) (k : Nat) (f : α → α) (h : smWf d m = true) : smWf d (smMod d m k f) = true :=
  smWf_smSet d m k _ h

end Sys2Proof.Machine
end

