-- ==== Sys2Proof/Laws/State.lean ====
section
/-! SUPPORT. What each update of the machine leaves alone, field by field. -/

namespace Sys2Proof.Machine

/-! ### `Mach.setReg` changes `regs` alone -/

@[simp] theorem Mach.setReg_mt (m : Mach) (id : RegId) (v : Nat) : (m.setReg id v).mt = m.mt := (rfl)
@[simp] theorem Mach.setReg_mem (m : Mach) (id : RegId) (v : Nat) : (m.setReg id v).mem = m.mem := (rfl)
@[simp] theorem Mach.setReg_ecc (m : Mach) (id : RegId) (v : Nat) : (m.setReg id v).ecc = m.ecc := (rfl)
@[simp] theorem Mach.setReg_gdPoison (m : Mach) (id : RegId) (v : Nat) : (m.setReg id v).gdPoison = m.gdPoison := (rfl)
@[simp] theorem Mach.setReg_dies (m : Mach) (id : RegId) (v : Nat) : (m.setReg id v).dies = m.dies := (rfl)
@[simp] theorem Mach.setReg_cores (m : Mach) (id : RegId) (v : Nat) : (m.setReg id v).cores = m.cores := (rfl)
@[simp] theorem Mach.setReg_parts (m : Mach) (id : RegId) (v : Nat) : (m.setReg id v).parts = m.parts := (rfl)
@[simp] theorem Mach.setReg_out (m : Mach) (id : RegId) (v : Nat) : (m.setReg id v).out = m.out := (rfl)
@[simp] theorem Mach.setReg_resp (m : Mach) (id : RegId) (v : Nat) : (m.setReg id v).resp = m.resp := (rfl)
@[simp] theorem Mach.setReg_freeCtr (m : Mach) (id : RegId) (v : Nat) : (m.setReg id v).freeCtr = m.freeCtr := (rfl)
@[simp] theorem Mach.setReg_silent (m : Mach) (id : RegId) (v : Nat) : (m.setReg id v).silent = m.silent := (rfl)
@[simp] theorem Mach.setReg_debugOpen (m : Mach) (id : RegId) (v : Nat) : (m.setReg id v).debugOpen = m.debugOpen := (rfl)
@[simp] theorem Mach.setReg_recv (m : Mach) (id : RegId) (v : Nat) : (m.setReg id v).recv = m.recv := (rfl)
@[simp] theorem Mach.setReg_cp (m : Mach) (id : RegId) (v : Nat) : (m.setReg id v).cp = m.cp := (rfl)
@[simp] theorem Mach.setReg_perm (m : Mach) (id : RegId) (v : Nat) : (m.setReg id v).perm = m.perm := (rfl)
@[simp] theorem Mach.setReg_sec (m : Mach) (id : RegId) (v : Nat) : (m.setReg id v).sec = m.sec := (rfl)
@[simp] theorem Mach.setReg_pins (m : Mach) (id : RegId) (v : Nat) : (m.setReg id v).pins = m.pins := (rfl)

/-! ### `Mach.wr` changes `regs` alone -/

@[simp] theorem Mach.wr_mt (m : Mach) (r : Reg) (d v i c j : Nat) : (m.wr r d v i c j).mt = m.mt := (rfl)
@[simp] theorem Mach.wr_mem (m : Mach) (r : Reg) (d v i c j : Nat) : (m.wr r d v i c j).mem = m.mem := (rfl)
@[simp] theorem Mach.wr_ecc (m : Mach) (r : Reg) (d v i c j : Nat) : (m.wr r d v i c j).ecc = m.ecc := (rfl)
@[simp] theorem Mach.wr_gdPoison (m : Mach) (r : Reg) (d v i c j : Nat) : (m.wr r d v i c j).gdPoison = m.gdPoison := (rfl)
@[simp] theorem Mach.wr_dies (m : Mach) (r : Reg) (d v i c j : Nat) : (m.wr r d v i c j).dies = m.dies := (rfl)
@[simp] theorem Mach.wr_cores (m : Mach) (r : Reg) (d v i c j : Nat) : (m.wr r d v i c j).cores = m.cores := (rfl)
@[simp] theorem Mach.wr_parts (m : Mach) (r : Reg) (d v i c j : Nat) : (m.wr r d v i c j).parts = m.parts := (rfl)
@[simp] theorem Mach.wr_out (m : Mach) (r : Reg) (d v i c j : Nat) : (m.wr r d v i c j).out = m.out := (rfl)
@[simp] theorem Mach.wr_resp (m : Mach) (r : Reg) (d v i c j : Nat) : (m.wr r d v i c j).resp = m.resp := (rfl)
@[simp] theorem Mach.wr_freeCtr (m : Mach) (r : Reg) (d v i c j : Nat) : (m.wr r d v i c j).freeCtr = m.freeCtr := (rfl)
@[simp] theorem Mach.wr_silent (m : Mach) (r : Reg) (d v i c j : Nat) : (m.wr r d v i c j).silent = m.silent := (rfl)
@[simp] theorem Mach.wr_debugOpen (m : Mach) (r : Reg) (d v i c j : Nat) : (m.wr r d v i c j).debugOpen = m.debugOpen := (rfl)
@[simp] theorem Mach.wr_recv (m : Mach) (r : Reg) (d v i c j : Nat) : (m.wr r d v i c j).recv = m.recv := (rfl)
@[simp] theorem Mach.wr_cp (m : Mach) (r : Reg) (d v i c j : Nat) : (m.wr r d v i c j).cp = m.cp := (rfl)
@[simp] theorem Mach.wr_perm (m : Mach) (r : Reg) (d v i c j : Nat) : (m.wr r d v i c j).perm = m.perm := (rfl)
@[simp] theorem Mach.wr_sec (m : Mach) (r : Reg) (d v i c j : Nat) : (m.wr r d v i c j).sec = m.sec := (rfl)
@[simp] theorem Mach.wr_pins (m : Mach) (r : Reg) (d v i c j : Nat) : (m.wr r d v i c j).pins = m.pins := (rfl)

/-! ### `Mach.put` changes `regs` alone -/

@[simp] theorem Mach.put_mt (m : Mach) (f : Fld) (d v i c j : Nat) : (m.put f d v i c j).mt = m.mt := (rfl)
@[simp] theorem Mach.put_mem (m : Mach) (f : Fld) (d v i c j : Nat) : (m.put f d v i c j).mem = m.mem := (rfl)
@[simp] theorem Mach.put_ecc (m : Mach) (f : Fld) (d v i c j : Nat) : (m.put f d v i c j).ecc = m.ecc := (rfl)
@[simp] theorem Mach.put_gdPoison (m : Mach) (f : Fld) (d v i c j : Nat) : (m.put f d v i c j).gdPoison = m.gdPoison := (rfl)
@[simp] theorem Mach.put_dies (m : Mach) (f : Fld) (d v i c j : Nat) : (m.put f d v i c j).dies = m.dies := (rfl)
@[simp] theorem Mach.put_cores (m : Mach) (f : Fld) (d v i c j : Nat) : (m.put f d v i c j).cores = m.cores := (rfl)
@[simp] theorem Mach.put_parts (m : Mach) (f : Fld) (d v i c j : Nat) : (m.put f d v i c j).parts = m.parts := (rfl)
@[simp] theorem Mach.put_out (m : Mach) (f : Fld) (d v i c j : Nat) : (m.put f d v i c j).out = m.out := (rfl)
@[simp] theorem Mach.put_resp (m : Mach) (f : Fld) (d v i c j : Nat) : (m.put f d v i c j).resp = m.resp := (rfl)
@[simp] theorem Mach.put_freeCtr (m : Mach) (f : Fld) (d v i c j : Nat) : (m.put f d v i c j).freeCtr = m.freeCtr := (rfl)
@[simp] theorem Mach.put_silent (m : Mach) (f : Fld) (d v i c j : Nat) : (m.put f d v i c j).silent = m.silent := (rfl)
@[simp] theorem Mach.put_debugOpen (m : Mach) (f : Fld) (d v i c j : Nat) : (m.put f d v i c j).debugOpen = m.debugOpen := (rfl)
@[simp] theorem Mach.put_recv (m : Mach) (f : Fld) (d v i c j : Nat) : (m.put f d v i c j).recv = m.recv := (rfl)
@[simp] theorem Mach.put_cp (m : Mach) (f : Fld) (d v i c j : Nat) : (m.put f d v i c j).cp = m.cp := (rfl)
@[simp] theorem Mach.put_perm (m : Mach) (f : Fld) (d v i c j : Nat) : (m.put f d v i c j).perm = m.perm := (rfl)
@[simp] theorem Mach.put_sec (m : Mach) (f : Fld) (d v i c j : Nat) : (m.put f d v i c j).sec = m.sec := (rfl)
@[simp] theorem Mach.put_pins (m : Mach) (f : Fld) (d v i c j : Nat) : (m.put f d v i c j).pins = m.pins := (rfl)

/-! ### `Mach.ev` changes `regs` alone -/

@[simp] theorem Mach.ev_mt (m : Mach) (f : Fld) (d i c j : Nat) : (m.ev f d i c j).mt = m.mt := (rfl)
@[simp] theorem Mach.ev_mem (m : Mach) (f : Fld) (d i c j : Nat) : (m.ev f d i c j).mem = m.mem := (rfl)
@[simp] theorem Mach.ev_ecc (m : Mach) (f : Fld) (d i c j : Nat) : (m.ev f d i c j).ecc = m.ecc := (rfl)
@[simp] theorem Mach.ev_gdPoison (m : Mach) (f : Fld) (d i c j : Nat) : (m.ev f d i c j).gdPoison = m.gdPoison := (rfl)
@[simp] theorem Mach.ev_dies (m : Mach) (f : Fld) (d i c j : Nat) : (m.ev f d i c j).dies = m.dies := (rfl)
@[simp] theorem Mach.ev_cores (m : Mach) (f : Fld) (d i c j : Nat) : (m.ev f d i c j).cores = m.cores := (rfl)
@[simp] theorem Mach.ev_parts (m : Mach) (f : Fld) (d i c j : Nat) : (m.ev f d i c j).parts = m.parts := (rfl)
@[simp] theorem Mach.ev_out (m : Mach) (f : Fld) (d i c j : Nat) : (m.ev f d i c j).out = m.out := (rfl)
@[simp] theorem Mach.ev_resp (m : Mach) (f : Fld) (d i c j : Nat) : (m.ev f d i c j).resp = m.resp := (rfl)
@[simp] theorem Mach.ev_freeCtr (m : Mach) (f : Fld) (d i c j : Nat) : (m.ev f d i c j).freeCtr = m.freeCtr := (rfl)
@[simp] theorem Mach.ev_silent (m : Mach) (f : Fld) (d i c j : Nat) : (m.ev f d i c j).silent = m.silent := (rfl)
@[simp] theorem Mach.ev_debugOpen (m : Mach) (f : Fld) (d i c j : Nat) : (m.ev f d i c j).debugOpen = m.debugOpen := (rfl)
@[simp] theorem Mach.ev_recv (m : Mach) (f : Fld) (d i c j : Nat) : (m.ev f d i c j).recv = m.recv := (rfl)
@[simp] theorem Mach.ev_cp (m : Mach) (f : Fld) (d i c j : Nat) : (m.ev f d i c j).cp = m.cp := (rfl)
@[simp] theorem Mach.ev_perm (m : Mach) (f : Fld) (d i c j : Nat) : (m.ev f d i c j).perm = m.perm := (rfl)
@[simp] theorem Mach.ev_sec (m : Mach) (f : Fld) (d i c j : Nat) : (m.ev f d i c j).sec = m.sec := (rfl)
@[simp] theorem Mach.ev_pins (m : Mach) (f : Fld) (d i c j : Nat) : (m.ev f d i c j).pins = m.pins := (rfl)

/-! ### `Mach.bump` changes `regs` alone -/

@[simp] theorem Mach.bump_mt (m : Mach) (f : Fld) (d n i c j : Nat) : (m.bump f d n i c j).mt = m.mt := (rfl)
@[simp] theorem Mach.bump_mem (m : Mach) (f : Fld) (d n i c j : Nat) : (m.bump f d n i c j).mem = m.mem := (rfl)
@[simp] theorem Mach.bump_ecc (m : Mach) (f : Fld) (d n i c j : Nat) : (m.bump f d n i c j).ecc = m.ecc := (rfl)
@[simp] theorem Mach.bump_gdPoison (m : Mach) (f : Fld) (d n i c j : Nat) : (m.bump f d n i c j).gdPoison = m.gdPoison := (rfl)
@[simp] theorem Mach.bump_dies (m : Mach) (f : Fld) (d n i c j : Nat) : (m.bump f d n i c j).dies = m.dies := (rfl)
@[simp] theorem Mach.bump_cores (m : Mach) (f : Fld) (d n i c j : Nat) : (m.bump f d n i c j).cores = m.cores := (rfl)
@[simp] theorem Mach.bump_parts (m : Mach) (f : Fld) (d n i c j : Nat) : (m.bump f d n i c j).parts = m.parts := (rfl)
@[simp] theorem Mach.bump_out (m : Mach) (f : Fld) (d n i c j : Nat) : (m.bump f d n i c j).out = m.out := (rfl)
@[simp] theorem Mach.bump_resp (m : Mach) (f : Fld) (d n i c j : Nat) : (m.bump f d n i c j).resp = m.resp := (rfl)
@[simp] theorem Mach.bump_freeCtr (m : Mach) (f : Fld) (d n i c j : Nat) : (m.bump f d n i c j).freeCtr = m.freeCtr := (rfl)
@[simp] theorem Mach.bump_silent (m : Mach) (f : Fld) (d n i c j : Nat) : (m.bump f d n i c j).silent = m.silent := (rfl)
@[simp] theorem Mach.bump_debugOpen (m : Mach) (f : Fld) (d n i c j : Nat) : (m.bump f d n i c j).debugOpen = m.debugOpen := (rfl)
@[simp] theorem Mach.bump_recv (m : Mach) (f : Fld) (d n i c j : Nat) : (m.bump f d n i c j).recv = m.recv := (rfl)
@[simp] theorem Mach.bump_cp (m : Mach) (f : Fld) (d n i c j : Nat) : (m.bump f d n i c j).cp = m.cp := (rfl)
@[simp] theorem Mach.bump_perm (m : Mach) (f : Fld) (d n i c j : Nat) : (m.bump f d n i c j).perm = m.perm := (rfl)
@[simp] theorem Mach.bump_sec (m : Mach) (f : Fld) (d n i c j : Nat) : (m.bump f d n i c j).sec = m.sec := (rfl)
@[simp] theorem Mach.bump_pins (m : Mach) (f : Fld) (d n i c j : Nat) : (m.bump f d n i c j).pins = m.pins := (rfl)

/-! ### `Mach.cnt` changes `regs` alone -/

@[simp] theorem Mach.cnt_mt (m : Mach) (r : Reg) (d i n c j : Nat) : (m.cnt r d i n c j).mt = m.mt := (rfl)
@[simp] theorem Mach.cnt_mem (m : Mach) (r : Reg) (d i n c j : Nat) : (m.cnt r d i n c j).mem = m.mem := (rfl)
@[simp] theorem Mach.cnt_ecc (m : Mach) (r : Reg) (d i n c j : Nat) : (m.cnt r d i n c j).ecc = m.ecc := (rfl)
@[simp] theorem Mach.cnt_gdPoison (m : Mach) (r : Reg) (d i n c j : Nat) : (m.cnt r d i n c j).gdPoison = m.gdPoison := (rfl)
@[simp] theorem Mach.cnt_dies (m : Mach) (r : Reg) (d i n c j : Nat) : (m.cnt r d i n c j).dies = m.dies := (rfl)
@[simp] theorem Mach.cnt_cores (m : Mach) (r : Reg) (d i n c j : Nat) : (m.cnt r d i n c j).cores = m.cores := (rfl)
@[simp] theorem Mach.cnt_parts (m : Mach) (r : Reg) (d i n c j : Nat) : (m.cnt r d i n c j).parts = m.parts := (rfl)
@[simp] theorem Mach.cnt_out (m : Mach) (r : Reg) (d i n c j : Nat) : (m.cnt r d i n c j).out = m.out := (rfl)
@[simp] theorem Mach.cnt_resp (m : Mach) (r : Reg) (d i n c j : Nat) : (m.cnt r d i n c j).resp = m.resp := (rfl)
@[simp] theorem Mach.cnt_freeCtr (m : Mach) (r : Reg) (d i n c j : Nat) : (m.cnt r d i n c j).freeCtr = m.freeCtr := (rfl)
@[simp] theorem Mach.cnt_silent (m : Mach) (r : Reg) (d i n c j : Nat) : (m.cnt r d i n c j).silent = m.silent := (rfl)
@[simp] theorem Mach.cnt_debugOpen (m : Mach) (r : Reg) (d i n c j : Nat) : (m.cnt r d i n c j).debugOpen = m.debugOpen := (rfl)
@[simp] theorem Mach.cnt_recv (m : Mach) (r : Reg) (d i n c j : Nat) : (m.cnt r d i n c j).recv = m.recv := (rfl)
@[simp] theorem Mach.cnt_cp (m : Mach) (r : Reg) (d i n c j : Nat) : (m.cnt r d i n c j).cp = m.cp := (rfl)
@[simp] theorem Mach.cnt_perm (m : Mach) (r : Reg) (d i n c j : Nat) : (m.cnt r d i n c j).perm = m.perm := (rfl)
@[simp] theorem Mach.cnt_sec (m : Mach) (r : Reg) (d i n c j : Nat) : (m.cnt r d i n c j).sec = m.sec := (rfl)
@[simp] theorem Mach.cnt_pins (m : Mach) (r : Reg) (d i n c j : Nat) : (m.cnt r d i n c j).pins = m.pins := (rfl)

/-! ### `Mach.modDie` changes `dies` alone -/

@[simp] theorem Mach.modDie_regs (m : Mach) (d : Nat) (f : Die → Die) : (m.modDie d f).regs = m.regs := (rfl)
@[simp] theorem Mach.modDie_mt (m : Mach) (d : Nat) (f : Die → Die) : (m.modDie d f).mt = m.mt := (rfl)
@[simp] theorem Mach.modDie_mem (m : Mach) (d : Nat) (f : Die → Die) : (m.modDie d f).mem = m.mem := (rfl)
@[simp] theorem Mach.modDie_ecc (m : Mach) (d : Nat) (f : Die → Die) : (m.modDie d f).ecc = m.ecc := (rfl)
@[simp] theorem Mach.modDie_gdPoison (m : Mach) (d : Nat) (f : Die → Die) : (m.modDie d f).gdPoison = m.gdPoison := (rfl)
@[simp] theorem Mach.modDie_cores (m : Mach) (d : Nat) (f : Die → Die) : (m.modDie d f).cores = m.cores := (rfl)
@[simp] theorem Mach.modDie_parts (m : Mach) (d : Nat) (f : Die → Die) : (m.modDie d f).parts = m.parts := (rfl)
@[simp] theorem Mach.modDie_out (m : Mach) (d : Nat) (f : Die → Die) : (m.modDie d f).out = m.out := (rfl)
@[simp] theorem Mach.modDie_resp (m : Mach) (d : Nat) (f : Die → Die) : (m.modDie d f).resp = m.resp := (rfl)
@[simp] theorem Mach.modDie_freeCtr (m : Mach) (d : Nat) (f : Die → Die) : (m.modDie d f).freeCtr = m.freeCtr := (rfl)
@[simp] theorem Mach.modDie_silent (m : Mach) (d : Nat) (f : Die → Die) : (m.modDie d f).silent = m.silent := (rfl)
@[simp] theorem Mach.modDie_debugOpen (m : Mach) (d : Nat) (f : Die → Die) : (m.modDie d f).debugOpen = m.debugOpen := (rfl)
@[simp] theorem Mach.modDie_recv (m : Mach) (d : Nat) (f : Die → Die) : (m.modDie d f).recv = m.recv := (rfl)
@[simp] theorem Mach.modDie_cp (m : Mach) (d : Nat) (f : Die → Die) : (m.modDie d f).cp = m.cp := (rfl)
@[simp] theorem Mach.modDie_perm (m : Mach) (d : Nat) (f : Die → Die) : (m.modDie d f).perm = m.perm := (rfl)
@[simp] theorem Mach.modDie_sec (m : Mach) (d : Nat) (f : Die → Die) : (m.modDie d f).sec = m.sec := (rfl)
@[simp] theorem Mach.modDie_pins (m : Mach) (d : Nat) (f : Die → Die) : (m.modDie d f).pins = m.pins := (rfl)

/-! ### `Mach.modCore` changes `cores` alone -/

@[simp] theorem Mach.modCore_regs (m : Mach) (d c : Nat) (f : Core → Core) : (m.modCore d c f).regs = m.regs := (rfl)
@[simp] theorem Mach.modCore_mt (m : Mach) (d c : Nat) (f : Core → Core) : (m.modCore d c f).mt = m.mt := (rfl)
@[simp] theorem Mach.modCore_mem (m : Mach) (d c : Nat) (f : Core → Core) : (m.modCore d c f).mem = m.mem := (rfl)
@[simp] theorem Mach.modCore_ecc (m : Mach) (d c : Nat) (f : Core → Core) : (m.modCore d c f).ecc = m.ecc := (rfl)
@[simp] theorem Mach.modCore_gdPoison (m : Mach) (d c : Nat) (f : Core → Core) : (m.modCore d c f).gdPoison = m.gdPoison := (rfl)
@[simp] theorem Mach.modCore_dies (m : Mach) (d c : Nat) (f : Core → Core) : (m.modCore d c f).dies = m.dies := (rfl)
@[simp] theorem Mach.modCore_parts (m : Mach) (d c : Nat) (f : Core → Core) : (m.modCore d c f).parts = m.parts := (rfl)
@[simp] theorem Mach.modCore_out (m : Mach) (d c : Nat) (f : Core → Core) : (m.modCore d c f).out = m.out := (rfl)
@[simp] theorem Mach.modCore_resp (m : Mach) (d c : Nat) (f : Core → Core) : (m.modCore d c f).resp = m.resp := (rfl)
@[simp] theorem Mach.modCore_freeCtr (m : Mach) (d c : Nat) (f : Core → Core) : (m.modCore d c f).freeCtr = m.freeCtr := (rfl)
@[simp] theorem Mach.modCore_silent (m : Mach) (d c : Nat) (f : Core → Core) : (m.modCore d c f).silent = m.silent := (rfl)
@[simp] theorem Mach.modCore_debugOpen (m : Mach) (d c : Nat) (f : Core → Core) : (m.modCore d c f).debugOpen = m.debugOpen := (rfl)
@[simp] theorem Mach.modCore_recv (m : Mach) (d c : Nat) (f : Core → Core) : (m.modCore d c f).recv = m.recv := (rfl)
@[simp] theorem Mach.modCore_cp (m : Mach) (d c : Nat) (f : Core → Core) : (m.modCore d c f).cp = m.cp := (rfl)
@[simp] theorem Mach.modCore_perm (m : Mach) (d c : Nat) (f : Core → Core) : (m.modCore d c f).perm = m.perm := (rfl)
@[simp] theorem Mach.modCore_sec (m : Mach) (d c : Nat) (f : Core → Core) : (m.modCore d c f).sec = m.sec := (rfl)
@[simp] theorem Mach.modCore_pins (m : Mach) (d c : Nat) (f : Core → Core) : (m.modCore d c f).pins = m.pins := (rfl)

/-! ### `Mach.modPart` changes `parts` alone -/

@[simp] theorem Mach.modPart_regs (m : Mach) (k : Nat) (f : Part → Part) : (m.modPart k f).regs = m.regs := (rfl)
@[simp] theorem Mach.modPart_mt (m : Mach) (k : Nat) (f : Part → Part) : (m.modPart k f).mt = m.mt := (rfl)
@[simp] theorem Mach.modPart_mem (m : Mach) (k : Nat) (f : Part → Part) : (m.modPart k f).mem = m.mem := (rfl)
@[simp] theorem Mach.modPart_ecc (m : Mach) (k : Nat) (f : Part → Part) : (m.modPart k f).ecc = m.ecc := (rfl)
@[simp] theorem Mach.modPart_gdPoison (m : Mach) (k : Nat) (f : Part → Part) : (m.modPart k f).gdPoison = m.gdPoison := (rfl)
@[simp] theorem Mach.modPart_dies (m : Mach) (k : Nat) (f : Part → Part) : (m.modPart k f).dies = m.dies := (rfl)
@[simp] theorem Mach.modPart_cores (m : Mach) (k : Nat) (f : Part → Part) : (m.modPart k f).cores = m.cores := (rfl)
@[simp] theorem Mach.modPart_out (m : Mach) (k : Nat) (f : Part → Part) : (m.modPart k f).out = m.out := (rfl)
@[simp] theorem Mach.modPart_resp (m : Mach) (k : Nat) (f : Part → Part) : (m.modPart k f).resp = m.resp := (rfl)
@[simp] theorem Mach.modPart_freeCtr (m : Mach) (k : Nat) (f : Part → Part) : (m.modPart k f).freeCtr = m.freeCtr := (rfl)
@[simp] theorem Mach.modPart_silent (m : Mach) (k : Nat) (f : Part → Part) : (m.modPart k f).silent = m.silent := (rfl)
@[simp] theorem Mach.modPart_debugOpen (m : Mach) (k : Nat) (f : Part → Part) : (m.modPart k f).debugOpen = m.debugOpen := (rfl)
@[simp] theorem Mach.modPart_recv (m : Mach) (k : Nat) (f : Part → Part) : (m.modPart k f).recv = m.recv := (rfl)
@[simp] theorem Mach.modPart_cp (m : Mach) (k : Nat) (f : Part → Part) : (m.modPart k f).cp = m.cp := (rfl)
@[simp] theorem Mach.modPart_perm (m : Mach) (k : Nat) (f : Part → Part) : (m.modPart k f).perm = m.perm := (rfl)
@[simp] theorem Mach.modPart_sec (m : Mach) (k : Nat) (f : Part → Part) : (m.modPart k f).sec = m.sec := (rfl)
@[simp] theorem Mach.modPart_pins (m : Mach) (k : Nat) (f : Part → Part) : (m.modPart k f).pins = m.pins := (rfl)

/-! ### `Mach.send` changes `out` alone -/

@[simp] theorem Mach.send_regs (m : Mach) (t : Nat) (ws : List Nat) : (m.send t ws).regs = m.regs := (rfl)
@[simp] theorem Mach.send_mt (m : Mach) (t : Nat) (ws : List Nat) : (m.send t ws).mt = m.mt := (rfl)
@[simp] theorem Mach.send_mem (m : Mach) (t : Nat) (ws : List Nat) : (m.send t ws).mem = m.mem := (rfl)
@[simp] theorem Mach.send_ecc (m : Mach) (t : Nat) (ws : List Nat) : (m.send t ws).ecc = m.ecc := (rfl)
@[simp] theorem Mach.send_gdPoison (m : Mach) (t : Nat) (ws : List Nat) : (m.send t ws).gdPoison = m.gdPoison := (rfl)
@[simp] theorem Mach.send_dies (m : Mach) (t : Nat) (ws : List Nat) : (m.send t ws).dies = m.dies := (rfl)
@[simp] theorem Mach.send_cores (m : Mach) (t : Nat) (ws : List Nat) : (m.send t ws).cores = m.cores := (rfl)
@[simp] theorem Mach.send_parts (m : Mach) (t : Nat) (ws : List Nat) : (m.send t ws).parts = m.parts := (rfl)
@[simp] theorem Mach.send_resp (m : Mach) (t : Nat) (ws : List Nat) : (m.send t ws).resp = m.resp := (rfl)
@[simp] theorem Mach.send_freeCtr (m : Mach) (t : Nat) (ws : List Nat) : (m.send t ws).freeCtr = m.freeCtr := (rfl)
@[simp] theorem Mach.send_silent (m : Mach) (t : Nat) (ws : List Nat) : (m.send t ws).silent = m.silent := (rfl)
@[simp] theorem Mach.send_debugOpen (m : Mach) (t : Nat) (ws : List Nat) : (m.send t ws).debugOpen = m.debugOpen := (rfl)
@[simp] theorem Mach.send_recv (m : Mach) (t : Nat) (ws : List Nat) : (m.send t ws).recv = m.recv := (rfl)
@[simp] theorem Mach.send_cp (m : Mach) (t : Nat) (ws : List Nat) : (m.send t ws).cp = m.cp := (rfl)
@[simp] theorem Mach.send_perm (m : Mach) (t : Nat) (ws : List Nat) : (m.send t ws).perm = m.perm := (rfl)
@[simp] theorem Mach.send_sec (m : Mach) (t : Nat) (ws : List Nat) : (m.send t ws).sec = m.sec := (rfl)
@[simp] theorem Mach.send_pins (m : Mach) (t : Nat) (ws : List Nat) : (m.send t ws).pins = m.pins := (rfl)

/-! ### `Mach.tickFree` changes `freeCtr` alone -/

@[simp] theorem Mach.tickFree_regs (m : Mach) : (m.tickFree).regs = m.regs := (rfl)
@[simp] theorem Mach.tickFree_mt (m : Mach) : (m.tickFree).mt = m.mt := (rfl)
@[simp] theorem Mach.tickFree_mem (m : Mach) : (m.tickFree).mem = m.mem := (rfl)
@[simp] theorem Mach.tickFree_ecc (m : Mach) : (m.tickFree).ecc = m.ecc := (rfl)
@[simp] theorem Mach.tickFree_gdPoison (m : Mach) : (m.tickFree).gdPoison = m.gdPoison := (rfl)
@[simp] theorem Mach.tickFree_dies (m : Mach) : (m.tickFree).dies = m.dies := (rfl)
@[simp] theorem Mach.tickFree_cores (m : Mach) : (m.tickFree).cores = m.cores := (rfl)
@[simp] theorem Mach.tickFree_parts (m : Mach) : (m.tickFree).parts = m.parts := (rfl)
@[simp] theorem Mach.tickFree_out (m : Mach) : (m.tickFree).out = m.out := (rfl)
@[simp] theorem Mach.tickFree_resp (m : Mach) : (m.tickFree).resp = m.resp := (rfl)
@[simp] theorem Mach.tickFree_silent (m : Mach) : (m.tickFree).silent = m.silent := (rfl)
@[simp] theorem Mach.tickFree_debugOpen (m : Mach) : (m.tickFree).debugOpen = m.debugOpen := (rfl)
@[simp] theorem Mach.tickFree_recv (m : Mach) : (m.tickFree).recv = m.recv := (rfl)
@[simp] theorem Mach.tickFree_cp (m : Mach) : (m.tickFree).cp = m.cp := (rfl)
@[simp] theorem Mach.tickFree_perm (m : Mach) : (m.tickFree).perm = m.perm := (rfl)
@[simp] theorem Mach.tickFree_sec (m : Mach) : (m.tickFree).sec = m.sec := (rfl)
@[simp] theorem Mach.tickFree_pins (m : Mach) : (m.tickFree).pins = m.pins := (rfl)

/-! ### `Mach.setByte` changes `mem` alone -/

@[simp] theorem Mach.setByte_regs (m : Mach) (a : Nat) (b : Byte) : (m.setByte a b).regs = m.regs := (rfl)
@[simp] theorem Mach.setByte_mt (m : Mach) (a : Nat) (b : Byte) : (m.setByte a b).mt = m.mt := (rfl)
@[simp] theorem Mach.setByte_ecc (m : Mach) (a : Nat) (b : Byte) : (m.setByte a b).ecc = m.ecc := (rfl)
@[simp] theorem Mach.setByte_gdPoison (m : Mach) (a : Nat) (b : Byte) : (m.setByte a b).gdPoison = m.gdPoison := (rfl)
@[simp] theorem Mach.setByte_dies (m : Mach) (a : Nat) (b : Byte) : (m.setByte a b).dies = m.dies := (rfl)
@[simp] theorem Mach.setByte_cores (m : Mach) (a : Nat) (b : Byte) : (m.setByte a b).cores = m.cores := (rfl)
@[simp] theorem Mach.setByte_parts (m : Mach) (a : Nat) (b : Byte) : (m.setByte a b).parts = m.parts := (rfl)
@[simp] theorem Mach.setByte_out (m : Mach) (a : Nat) (b : Byte) : (m.setByte a b).out = m.out := (rfl)
@[simp] theorem Mach.setByte_resp (m : Mach) (a : Nat) (b : Byte) : (m.setByte a b).resp = m.resp := (rfl)
@[simp] theorem Mach.setByte_freeCtr (m : Mach) (a : Nat) (b : Byte) : (m.setByte a b).freeCtr = m.freeCtr := (rfl)
@[simp] theorem Mach.setByte_silent (m : Mach) (a : Nat) (b : Byte) : (m.setByte a b).silent = m.silent := (rfl)
@[simp] theorem Mach.setByte_debugOpen (m : Mach) (a : Nat) (b : Byte) : (m.setByte a b).debugOpen = m.debugOpen := (rfl)
@[simp] theorem Mach.setByte_recv (m : Mach) (a : Nat) (b : Byte) : (m.setByte a b).recv = m.recv := (rfl)
@[simp] theorem Mach.setByte_cp (m : Mach) (a : Nat) (b : Byte) : (m.setByte a b).cp = m.cp := (rfl)
@[simp] theorem Mach.setByte_perm (m : Mach) (a : Nat) (b : Byte) : (m.setByte a b).perm = m.perm := (rfl)
@[simp] theorem Mach.setByte_sec (m : Mach) (a : Nat) (b : Byte) : (m.setByte a b).sec = m.sec := (rfl)
@[simp] theorem Mach.setByte_pins (m : Mach) (a : Nat) (b : Byte) : (m.setByte a b).pins = m.pins := (rfl)

/-! ### `Mach.emitRec` changes `dies` alone -/

@[simp] theorem Mach.emitRec_regs (m : Mach) (d k : Nat) (x y : Bool) (fs : List (Nat × Nat)) (p q : Bool) (l : List Nat) : (m.emitRec d k x y fs p q l).regs = m.regs := (rfl)
@[simp] theorem Mach.emitRec_mt (m : Mach) (d k : Nat) (x y : Bool) (fs : List (Nat × Nat)) (p q : Bool) (l : List Nat) : (m.emitRec d k x y fs p q l).mt = m.mt := (rfl)
@[simp] theorem Mach.emitRec_mem (m : Mach) (d k : Nat) (x y : Bool) (fs : List (Nat × Nat)) (p q : Bool) (l : List Nat) : (m.emitRec d k x y fs p q l).mem = m.mem := (rfl)
@[simp] theorem Mach.emitRec_ecc (m : Mach) (d k : Nat) (x y : Bool) (fs : List (Nat × Nat)) (p q : Bool) (l : List Nat) : (m.emitRec d k x y fs p q l).ecc = m.ecc := (rfl)
@[simp] theorem Mach.emitRec_gdPoison (m : Mach) (d k : Nat) (x y : Bool) (fs : List (Nat × Nat)) (p q : Bool) (l : List Nat) : (m.emitRec d k x y fs p q l).gdPoison = m.gdPoison := (rfl)
@[simp] theorem Mach.emitRec_cores (m : Mach) (d k : Nat) (x y : Bool) (fs : List (Nat × Nat)) (p q : Bool) (l : List Nat) : (m.emitRec d k x y fs p q l).cores = m.cores := (rfl)
@[simp] theorem Mach.emitRec_parts (m : Mach) (d k : Nat) (x y : Bool) (fs : List (Nat × Nat)) (p q : Bool) (l : List Nat) : (m.emitRec d k x y fs p q l).parts = m.parts := (rfl)
@[simp] theorem Mach.emitRec_out (m : Mach) (d k : Nat) (x y : Bool) (fs : List (Nat × Nat)) (p q : Bool) (l : List Nat) : (m.emitRec d k x y fs p q l).out = m.out := (rfl)
@[simp] theorem Mach.emitRec_resp (m : Mach) (d k : Nat) (x y : Bool) (fs : List (Nat × Nat)) (p q : Bool) (l : List Nat) : (m.emitRec d k x y fs p q l).resp = m.resp := (rfl)
@[simp] theorem Mach.emitRec_freeCtr (m : Mach) (d k : Nat) (x y : Bool) (fs : List (Nat × Nat)) (p q : Bool) (l : List Nat) : (m.emitRec d k x y fs p q l).freeCtr = m.freeCtr := (rfl)
@[simp] theorem Mach.emitRec_silent (m : Mach) (d k : Nat) (x y : Bool) (fs : List (Nat × Nat)) (p q : Bool) (l : List Nat) : (m.emitRec d k x y fs p q l).silent = m.silent := (rfl)
@[simp] theorem Mach.emitRec_debugOpen (m : Mach) (d k : Nat) (x y : Bool) (fs : List (Nat × Nat)) (p q : Bool) (l : List Nat) : (m.emitRec d k x y fs p q l).debugOpen = m.debugOpen := (rfl)
@[simp] theorem Mach.emitRec_recv (m : Mach) (d k : Nat) (x y : Bool) (fs : List (Nat × Nat)) (p q : Bool) (l : List Nat) : (m.emitRec d k x y fs p q l).recv = m.recv := (rfl)
@[simp] theorem Mach.emitRec_cp (m : Mach) (d k : Nat) (x y : Bool) (fs : List (Nat × Nat)) (p q : Bool) (l : List Nat) : (m.emitRec d k x y fs p q l).cp = m.cp := (rfl)
@[simp] theorem Mach.emitRec_perm (m : Mach) (d k : Nat) (x y : Bool) (fs : List (Nat × Nat)) (p q : Bool) (l : List Nat) : (m.emitRec d k x y fs p q l).perm = m.perm := (rfl)
@[simp] theorem Mach.emitRec_sec (m : Mach) (d k : Nat) (x y : Bool) (fs : List (Nat × Nat)) (p q : Bool) (l : List Nat) : (m.emitRec d k x y fs p q l).sec = m.sec := (rfl)
@[simp] theorem Mach.emitRec_pins (m : Mach) (d k : Nat) (x y : Bool) (fs : List (Nat × Nat)) (p q : Bool) (l : List Nat) : (m.emitRec d k x y fs p q l).pins = m.pins := (rfl)

/-! ### `Mach.modTime` changes `dies` alone -/

@[simp] theorem Mach.modTime_regs (m : Mach) (d : Nat) (f : DieTime → DieTime) : (m.modTime d f).regs = m.regs := (rfl)
@[simp] theorem Mach.modTime_mt (m : Mach) (d : Nat) (f : DieTime → DieTime) : (m.modTime d f).mt = m.mt := (rfl)
@[simp] theorem Mach.modTime_mem (m : Mach) (d : Nat) (f : DieTime → DieTime) : (m.modTime d f).mem = m.mem := (rfl)
@[simp] theorem Mach.modTime_ecc (m : Mach) (d : Nat) (f : DieTime → DieTime) : (m.modTime d f).ecc = m.ecc := (rfl)
@[simp] theorem Mach.modTime_gdPoison (m : Mach) (d : Nat) (f : DieTime → DieTime) : (m.modTime d f).gdPoison = m.gdPoison := (rfl)
@[simp] theorem Mach.modTime_cores (m : Mach) (d : Nat) (f : DieTime → DieTime) : (m.modTime d f).cores = m.cores := (rfl)
@[simp] theorem Mach.modTime_parts (m : Mach) (d : Nat) (f : DieTime → DieTime) : (m.modTime d f).parts = m.parts := (rfl)
@[simp] theorem Mach.modTime_out (m : Mach) (d : Nat) (f : DieTime → DieTime) : (m.modTime d f).out = m.out := (rfl)
@[simp] theorem Mach.modTime_resp (m : Mach) (d : Nat) (f : DieTime → DieTime) : (m.modTime d f).resp = m.resp := (rfl)
@[simp] theorem Mach.modTime_freeCtr (m : Mach) (d : Nat) (f : DieTime → DieTime) : (m.modTime d f).freeCtr = m.freeCtr := (rfl)
@[simp] theorem Mach.modTime_silent (m : Mach) (d : Nat) (f : DieTime → DieTime) : (m.modTime d f).silent = m.silent := (rfl)
@[simp] theorem Mach.modTime_debugOpen (m : Mach) (d : Nat) (f : DieTime → DieTime) : (m.modTime d f).debugOpen = m.debugOpen := (rfl)
@[simp] theorem Mach.modTime_recv (m : Mach) (d : Nat) (f : DieTime → DieTime) : (m.modTime d f).recv = m.recv := (rfl)
@[simp] theorem Mach.modTime_cp (m : Mach) (d : Nat) (f : DieTime → DieTime) : (m.modTime d f).cp = m.cp := (rfl)
@[simp] theorem Mach.modTime_perm (m : Mach) (d : Nat) (f : DieTime → DieTime) : (m.modTime d f).perm = m.perm := (rfl)
@[simp] theorem Mach.modTime_sec (m : Mach) (d : Nat) (f : DieTime → DieTime) : (m.modTime d f).sec = m.sec := (rfl)
@[simp] theorem Mach.modTime_pins (m : Mach) (d : Nat) (f : DieTime → DieTime) : (m.modTime d f).pins = m.pins := (rfl)

/-! ### `Mach.modCache` changes `dies` alone -/

@[simp] theorem Mach.modCache_regs (m : Mach) (d : Nat) (f : CacheSt → CacheSt) : (m.modCache d f).regs = m.regs := (rfl)
@[simp] theorem Mach.modCache_mt (m : Mach) (d : Nat) (f : CacheSt → CacheSt) : (m.modCache d f).mt = m.mt := (rfl)
@[simp] theorem Mach.modCache_mem (m : Mach) (d : Nat) (f : CacheSt → CacheSt) : (m.modCache d f).mem = m.mem := (rfl)
@[simp] theorem Mach.modCache_ecc (m : Mach) (d : Nat) (f : CacheSt → CacheSt) : (m.modCache d f).ecc = m.ecc := (rfl)
@[simp] theorem Mach.modCache_gdPoison (m : Mach) (d : Nat) (f : CacheSt → CacheSt) : (m.modCache d f).gdPoison = m.gdPoison := (rfl)
@[simp] theorem Mach.modCache_cores (m : Mach) (d : Nat) (f : CacheSt → CacheSt) : (m.modCache d f).cores = m.cores := (rfl)
@[simp] theorem Mach.modCache_parts (m : Mach) (d : Nat) (f : CacheSt → CacheSt) : (m.modCache d f).parts = m.parts := (rfl)
@[simp] theorem Mach.modCache_out (m : Mach) (d : Nat) (f : CacheSt → CacheSt) : (m.modCache d f).out = m.out := (rfl)
@[simp] theorem Mach.modCache_resp (m : Mach) (d : Nat) (f : CacheSt → CacheSt) : (m.modCache d f).resp = m.resp := (rfl)
@[simp] theorem Mach.modCache_freeCtr (m : Mach) (d : Nat) (f : CacheSt → CacheSt) : (m.modCache d f).freeCtr = m.freeCtr := (rfl)
@[simp] theorem Mach.modCache_silent (m : Mach) (d : Nat) (f : CacheSt → CacheSt) : (m.modCache d f).silent = m.silent := (rfl)
@[simp] theorem Mach.modCache_debugOpen (m : Mach) (d : Nat) (f : CacheSt → CacheSt) : (m.modCache d f).debugOpen = m.debugOpen := (rfl)
@[simp] theorem Mach.modCache_recv (m : Mach) (d : Nat) (f : CacheSt → CacheSt) : (m.modCache d f).recv = m.recv := (rfl)
@[simp] theorem Mach.modCache_cp (m : Mach) (d : Nat) (f : CacheSt → CacheSt) : (m.modCache d f).cp = m.cp := (rfl)
@[simp] theorem Mach.modCache_perm (m : Mach) (d : Nat) (f : CacheSt → CacheSt) : (m.modCache d f).perm = m.perm := (rfl)
@[simp] theorem Mach.modCache_sec (m : Mach) (d : Nat) (f : CacheSt → CacheSt) : (m.modCache d f).sec = m.sec := (rfl)
@[simp] theorem Mach.modCache_pins (m : Mach) (d : Nat) (f : CacheSt → CacheSt) : (m.modCache d f).pins = m.pins := (rfl)

/-! ### `Mach.modPwr` changes `dies` alone -/

@[simp] theorem Mach.modPwr_regs (m : Mach) (d : Nat) (f : PwrSt → PwrSt) : (m.modPwr d f).regs = m.regs := (rfl)
@[simp] theorem Mach.modPwr_mt (m : Mach) (d : Nat) (f : PwrSt → PwrSt) : (m.modPwr d f).mt = m.mt := (rfl)
@[simp] theorem Mach.modPwr_mem (m : Mach) (d : Nat) (f : PwrSt → PwrSt) : (m.modPwr d f).mem = m.mem := (rfl)
@[simp] theorem Mach.modPwr_ecc (m : Mach) (d : Nat) (f : PwrSt → PwrSt) : (m.modPwr d f).ecc = m.ecc := (rfl)
@[simp] theorem Mach.modPwr_gdPoison (m : Mach) (d : Nat) (f : PwrSt → PwrSt) : (m.modPwr d f).gdPoison = m.gdPoison := (rfl)
@[simp] theorem Mach.modPwr_cores (m : Mach) (d : Nat) (f : PwrSt → PwrSt) : (m.modPwr d f).cores = m.cores := (rfl)
@[simp] theorem Mach.modPwr_parts (m : Mach) (d : Nat) (f : PwrSt → PwrSt) : (m.modPwr d f).parts = m.parts := (rfl)
@[simp] theorem Mach.modPwr_out (m : Mach) (d : Nat) (f : PwrSt → PwrSt) : (m.modPwr d f).out = m.out := (rfl)
@[simp] theorem Mach.modPwr_resp (m : Mach) (d : Nat) (f : PwrSt → PwrSt) : (m.modPwr d f).resp = m.resp := (rfl)
@[simp] theorem Mach.modPwr_freeCtr (m : Mach) (d : Nat) (f : PwrSt → PwrSt) : (m.modPwr d f).freeCtr = m.freeCtr := (rfl)
@[simp] theorem Mach.modPwr_silent (m : Mach) (d : Nat) (f : PwrSt → PwrSt) : (m.modPwr d f).silent = m.silent := (rfl)
@[simp] theorem Mach.modPwr_debugOpen (m : Mach) (d : Nat) (f : PwrSt → PwrSt) : (m.modPwr d f).debugOpen = m.debugOpen := (rfl)
@[simp] theorem Mach.modPwr_recv (m : Mach) (d : Nat) (f : PwrSt → PwrSt) : (m.modPwr d f).recv = m.recv := (rfl)
@[simp] theorem Mach.modPwr_cp (m : Mach) (d : Nat) (f : PwrSt → PwrSt) : (m.modPwr d f).cp = m.cp := (rfl)
@[simp] theorem Mach.modPwr_perm (m : Mach) (d : Nat) (f : PwrSt → PwrSt) : (m.modPwr d f).perm = m.perm := (rfl)
@[simp] theorem Mach.modPwr_sec (m : Mach) (d : Nat) (f : PwrSt → PwrSt) : (m.modPwr d f).sec = m.sec := (rfl)
@[simp] theorem Mach.modPwr_pins (m : Mach) (d : Nat) (f : PwrSt → PwrSt) : (m.modPwr d f).pins = m.pins := (rfl)

/-! ### `Mach.modFab` changes `dies` alone -/

@[simp] theorem Mach.modFab_regs (m : Mach) (d : Nat) (f : FabSt → FabSt) : (m.modFab d f).regs = m.regs := (rfl)
@[simp] theorem Mach.modFab_mt (m : Mach) (d : Nat) (f : FabSt → FabSt) : (m.modFab d f).mt = m.mt := (rfl)
@[simp] theorem Mach.modFab_mem (m : Mach) (d : Nat) (f : FabSt → FabSt) : (m.modFab d f).mem = m.mem := (rfl)
@[simp] theorem Mach.modFab_ecc (m : Mach) (d : Nat) (f : FabSt → FabSt) : (m.modFab d f).ecc = m.ecc := (rfl)
@[simp] theorem Mach.modFab_gdPoison (m : Mach) (d : Nat) (f : FabSt → FabSt) : (m.modFab d f).gdPoison = m.gdPoison := (rfl)
@[simp] theorem Mach.modFab_cores (m : Mach) (d : Nat) (f : FabSt → FabSt) : (m.modFab d f).cores = m.cores := (rfl)
@[simp] theorem Mach.modFab_parts (m : Mach) (d : Nat) (f : FabSt → FabSt) : (m.modFab d f).parts = m.parts := (rfl)
@[simp] theorem Mach.modFab_out (m : Mach) (d : Nat) (f : FabSt → FabSt) : (m.modFab d f).out = m.out := (rfl)
@[simp] theorem Mach.modFab_resp (m : Mach) (d : Nat) (f : FabSt → FabSt) : (m.modFab d f).resp = m.resp := (rfl)
@[simp] theorem Mach.modFab_freeCtr (m : Mach) (d : Nat) (f : FabSt → FabSt) : (m.modFab d f).freeCtr = m.freeCtr := (rfl)
@[simp] theorem Mach.modFab_silent (m : Mach) (d : Nat) (f : FabSt → FabSt) : (m.modFab d f).silent = m.silent := (rfl)
@[simp] theorem Mach.modFab_debugOpen (m : Mach) (d : Nat) (f : FabSt → FabSt) : (m.modFab d f).debugOpen = m.debugOpen := (rfl)
@[simp] theorem Mach.modFab_recv (m : Mach) (d : Nat) (f : FabSt → FabSt) : (m.modFab d f).recv = m.recv := (rfl)
@[simp] theorem Mach.modFab_cp (m : Mach) (d : Nat) (f : FabSt → FabSt) : (m.modFab d f).cp = m.cp := (rfl)
@[simp] theorem Mach.modFab_perm (m : Mach) (d : Nat) (f : FabSt → FabSt) : (m.modFab d f).perm = m.perm := (rfl)
@[simp] theorem Mach.modFab_sec (m : Mach) (d : Nat) (f : FabSt → FabSt) : (m.modFab d f).sec = m.sec := (rfl)
@[simp] theorem Mach.modFab_pins (m : Mach) (d : Nat) (f : FabSt → FabSt) : (m.modFab d f).pins = m.pins := (rfl)

/-! ### `Mach.modArr` changes `cores` alone -/

@[simp] theorem Mach.modArr_regs (m : Mach) (d c : Nat) (f : ArrSt → ArrSt) : (m.modArr d c f).regs = m.regs := (rfl)
@[simp] theorem Mach.modArr_mt (m : Mach) (d c : Nat) (f : ArrSt → ArrSt) : (m.modArr d c f).mt = m.mt := (rfl)
@[simp] theorem Mach.modArr_mem (m : Mach) (d c : Nat) (f : ArrSt → ArrSt) : (m.modArr d c f).mem = m.mem := (rfl)
@[simp] theorem Mach.modArr_ecc (m : Mach) (d c : Nat) (f : ArrSt → ArrSt) : (m.modArr d c f).ecc = m.ecc := (rfl)
@[simp] theorem Mach.modArr_gdPoison (m : Mach) (d c : Nat) (f : ArrSt → ArrSt) : (m.modArr d c f).gdPoison = m.gdPoison := (rfl)
@[simp] theorem Mach.modArr_dies (m : Mach) (d c : Nat) (f : ArrSt → ArrSt) : (m.modArr d c f).dies = m.dies := (rfl)
@[simp] theorem Mach.modArr_parts (m : Mach) (d c : Nat) (f : ArrSt → ArrSt) : (m.modArr d c f).parts = m.parts := (rfl)
@[simp] theorem Mach.modArr_out (m : Mach) (d c : Nat) (f : ArrSt → ArrSt) : (m.modArr d c f).out = m.out := (rfl)
@[simp] theorem Mach.modArr_resp (m : Mach) (d c : Nat) (f : ArrSt → ArrSt) : (m.modArr d c f).resp = m.resp := (rfl)
@[simp] theorem Mach.modArr_freeCtr (m : Mach) (d c : Nat) (f : ArrSt → ArrSt) : (m.modArr d c f).freeCtr = m.freeCtr := (rfl)
@[simp] theorem Mach.modArr_silent (m : Mach) (d c : Nat) (f : ArrSt → ArrSt) : (m.modArr d c f).silent = m.silent := (rfl)
@[simp] theorem Mach.modArr_debugOpen (m : Mach) (d c : Nat) (f : ArrSt → ArrSt) : (m.modArr d c f).debugOpen = m.debugOpen := (rfl)
@[simp] theorem Mach.modArr_recv (m : Mach) (d c : Nat) (f : ArrSt → ArrSt) : (m.modArr d c f).recv = m.recv := (rfl)
@[simp] theorem Mach.modArr_cp (m : Mach) (d c : Nat) (f : ArrSt → ArrSt) : (m.modArr d c f).cp = m.cp := (rfl)
@[simp] theorem Mach.modArr_perm (m : Mach) (d c : Nat) (f : ArrSt → ArrSt) : (m.modArr d c f).perm = m.perm := (rfl)
@[simp] theorem Mach.modArr_sec (m : Mach) (d c : Nat) (f : ArrSt → ArrSt) : (m.modArr d c f).sec = m.sec := (rfl)
@[simp] theorem Mach.modArr_pins (m : Mach) (d c : Nat) (f : ArrSt → ArrSt) : (m.modArr d c f).pins = m.pins := (rfl)

/-! ### `Mach.modVec` changes `cores` alone -/

@[simp] theorem Mach.modVec_regs (m : Mach) (d c : Nat) (f : VecSt → VecSt) : (m.modVec d c f).regs = m.regs := (rfl)
@[simp] theorem Mach.modVec_mt (m : Mach) (d c : Nat) (f : VecSt → VecSt) : (m.modVec d c f).mt = m.mt := (rfl)
@[simp] theorem Mach.modVec_mem (m : Mach) (d c : Nat) (f : VecSt → VecSt) : (m.modVec d c f).mem = m.mem := (rfl)
@[simp] theorem Mach.modVec_ecc (m : Mach) (d c : Nat) (f : VecSt → VecSt) : (m.modVec d c f).ecc = m.ecc := (rfl)
@[simp] theorem Mach.modVec_gdPoison (m : Mach) (d c : Nat) (f : VecSt → VecSt) : (m.modVec d c f).gdPoison = m.gdPoison := (rfl)
@[simp] theorem Mach.modVec_dies (m : Mach) (d c : Nat) (f : VecSt → VecSt) : (m.modVec d c f).dies = m.dies := (rfl)
@[simp] theorem Mach.modVec_parts (m : Mach) (d c : Nat) (f : VecSt → VecSt) : (m.modVec d c f).parts = m.parts := (rfl)
@[simp] theorem Mach.modVec_out (m : Mach) (d c : Nat) (f : VecSt → VecSt) : (m.modVec d c f).out = m.out := (rfl)
@[simp] theorem Mach.modVec_resp (m : Mach) (d c : Nat) (f : VecSt → VecSt) : (m.modVec d c f).resp = m.resp := (rfl)
@[simp] theorem Mach.modVec_freeCtr (m : Mach) (d c : Nat) (f : VecSt → VecSt) : (m.modVec d c f).freeCtr = m.freeCtr := (rfl)
@[simp] theorem Mach.modVec_silent (m : Mach) (d c : Nat) (f : VecSt → VecSt) : (m.modVec d c f).silent = m.silent := (rfl)
@[simp] theorem Mach.modVec_debugOpen (m : Mach) (d c : Nat) (f : VecSt → VecSt) : (m.modVec d c f).debugOpen = m.debugOpen := (rfl)
@[simp] theorem Mach.modVec_recv (m : Mach) (d c : Nat) (f : VecSt → VecSt) : (m.modVec d c f).recv = m.recv := (rfl)
@[simp] theorem Mach.modVec_cp (m : Mach) (d c : Nat) (f : VecSt → VecSt) : (m.modVec d c f).cp = m.cp := (rfl)
@[simp] theorem Mach.modVec_perm (m : Mach) (d c : Nat) (f : VecSt → VecSt) : (m.modVec d c f).perm = m.perm := (rfl)
@[simp] theorem Mach.modVec_sec (m : Mach) (d c : Nat) (f : VecSt → VecSt) : (m.modVec d c f).sec = m.sec := (rfl)
@[simp] theorem Mach.modVec_pins (m : Mach) (d c : Nat) (f : VecSt → VecSt) : (m.modVec d c f).pins = m.pins := (rfl)

/-! ### `Mach.modBlock` changes `cores` alone -/

@[simp] theorem Mach.modBlock_regs (m : Mach) (d c b : Nat) (f : Block → Block) : (m.modBlock d c b f).regs = m.regs := (rfl)
@[simp] theorem Mach.modBlock_mt (m : Mach) (d c b : Nat) (f : Block → Block) : (m.modBlock d c b f).mt = m.mt := (rfl)
@[simp] theorem Mach.modBlock_mem (m : Mach) (d c b : Nat) (f : Block → Block) : (m.modBlock d c b f).mem = m.mem := (rfl)
@[simp] theorem Mach.modBlock_ecc (m : Mach) (d c b : Nat) (f : Block → Block) : (m.modBlock d c b f).ecc = m.ecc := (rfl)
@[simp] theorem Mach.modBlock_gdPoison (m : Mach) (d c b : Nat) (f : Block → Block) : (m.modBlock d c b f).gdPoison = m.gdPoison := (rfl)
@[simp] theorem Mach.modBlock_dies (m : Mach) (d c b : Nat) (f : Block → Block) : (m.modBlock d c b f).dies = m.dies := (rfl)
@[simp] theorem Mach.modBlock_parts (m : Mach) (d c b : Nat) (f : Block → Block) : (m.modBlock d c b f).parts = m.parts := (rfl)
@[simp] theorem Mach.modBlock_out (m : Mach) (d c b : Nat) (f : Block → Block) : (m.modBlock d c b f).out = m.out := (rfl)
@[simp] theorem Mach.modBlock_resp (m : Mach) (d c b : Nat) (f : Block → Block) : (m.modBlock d c b f).resp = m.resp := (rfl)
@[simp] theorem Mach.modBlock_freeCtr (m : Mach) (d c b : Nat) (f : Block → Block) : (m.modBlock d c b f).freeCtr = m.freeCtr := (rfl)
@[simp] theorem Mach.modBlock_silent (m : Mach) (d c b : Nat) (f : Block → Block) : (m.modBlock d c b f).silent = m.silent := (rfl)
@[simp] theorem Mach.modBlock_debugOpen (m : Mach) (d c b : Nat) (f : Block → Block) : (m.modBlock d c b f).debugOpen = m.debugOpen := (rfl)
@[simp] theorem Mach.modBlock_recv (m : Mach) (d c b : Nat) (f : Block → Block) : (m.modBlock d c b f).recv = m.recv := (rfl)
@[simp] theorem Mach.modBlock_cp (m : Mach) (d c b : Nat) (f : Block → Block) : (m.modBlock d c b f).cp = m.cp := (rfl)
@[simp] theorem Mach.modBlock_perm (m : Mach) (d c b : Nat) (f : Block → Block) : (m.modBlock d c b f).perm = m.perm := (rfl)
@[simp] theorem Mach.modBlock_sec (m : Mach) (d c b : Nat) (f : Block → Block) : (m.modBlock d c b f).sec = m.sec := (rfl)
@[simp] theorem Mach.modBlock_pins (m : Mach) (d c b : Nat) (f : Block → Block) : (m.modBlock d c b f).pins = m.pins := (rfl)

/-! ### `Mach.modThread` changes `cores` alone -/

@[simp] theorem Mach.modThread_regs (m : Mach) (d : Nat) (r : ThreadRef) (f : Thread → Thread) : (m.modThread d r f).regs = m.regs := (rfl)
@[simp] theorem Mach.modThread_mt (m : Mach) (d : Nat) (r : ThreadRef) (f : Thread → Thread) : (m.modThread d r f).mt = m.mt := (rfl)
@[simp] theorem Mach.modThread_mem (m : Mach) (d : Nat) (r : ThreadRef) (f : Thread → Thread) : (m.modThread d r f).mem = m.mem := (rfl)
@[simp] theorem Mach.modThread_ecc (m : Mach) (d : Nat) (r : ThreadRef) (f : Thread → Thread) : (m.modThread d r f).ecc = m.ecc := (rfl)
@[simp] theorem Mach.modThread_gdPoison (m : Mach) (d : Nat) (r : ThreadRef) (f : Thread → Thread) : (m.modThread d r f).gdPoison = m.gdPoison := (rfl)
@[simp] theorem Mach.modThread_dies (m : Mach) (d : Nat) (r : ThreadRef) (f : Thread → Thread) : (m.modThread d r f).dies = m.dies := (rfl)
@[simp] theorem Mach.modThread_parts (m : Mach) (d : Nat) (r : ThreadRef) (f : Thread → Thread) : (m.modThread d r f).parts = m.parts := (rfl)
@[simp] theorem Mach.modThread_out (m : Mach) (d : Nat) (r : ThreadRef) (f : Thread → Thread) : (m.modThread d r f).out = m.out := (rfl)
@[simp] theorem Mach.modThread_resp (m : Mach) (d : Nat) (r : ThreadRef) (f : Thread → Thread) : (m.modThread d r f).resp = m.resp := (rfl)
@[simp] theorem Mach.modThread_freeCtr (m : Mach) (d : Nat) (r : ThreadRef) (f : Thread → Thread) : (m.modThread d r f).freeCtr = m.freeCtr := (rfl)
@[simp] theorem Mach.modThread_silent (m : Mach) (d : Nat) (r : ThreadRef) (f : Thread → Thread) : (m.modThread d r f).silent = m.silent := (rfl)
@[simp] theorem Mach.modThread_debugOpen (m : Mach) (d : Nat) (r : ThreadRef) (f : Thread → Thread) : (m.modThread d r f).debugOpen = m.debugOpen := (rfl)
@[simp] theorem Mach.modThread_recv (m : Mach) (d : Nat) (r : ThreadRef) (f : Thread → Thread) : (m.modThread d r f).recv = m.recv := (rfl)
@[simp] theorem Mach.modThread_cp (m : Mach) (d : Nat) (r : ThreadRef) (f : Thread → Thread) : (m.modThread d r f).cp = m.cp := (rfl)
@[simp] theorem Mach.modThread_perm (m : Mach) (d : Nat) (r : ThreadRef) (f : Thread → Thread) : (m.modThread d r f).perm = m.perm := (rfl)
@[simp] theorem Mach.modThread_sec (m : Mach) (d : Nat) (r : ThreadRef) (f : Thread → Thread) : (m.modThread d r f).sec = m.sec := (rfl)
@[simp] theorem Mach.modThread_pins (m : Mach) (d : Nat) (r : ThreadRef) (f : Thread → Thread) : (m.modThread d r f).pins = m.pins := (rfl)

end Sys2Proof.Machine
end

