-- ==== Sys2Proof/Laws/Reg.lean ====
section
/-! SUPPORT. Laws of bit fields and of registers: a field reads as written, other fields and other registers as before. -/

namespace Sys2Proof.Machine

/-! ### Bit fields -/

/-- The shape of a number with a field replaced. -/
theorem setBits_shape (n hi lo v w : Nat) (h : hi + 1 = lo + w) :
    setBits n hi lo v = n % 2 ^ lo + (v % 2 ^ w + (n / 2 ^ (lo + w)) * 2 ^ w) * 2 ^ lo := by
  have hw : hi + 1 - lo = w := by omega
  simp only [setBits, Nat.shiftRight_eq_div_pow, hw]
  rw [h, Nat.pow_add 2 lo w, Nat.add_mul, Nat.add_assoc]
  congr 2
  rw [Nat.mul_assoc, Nat.mul_comm (2 ^ w)]

/-- A field reads as written, cut to its width. -/
theorem bitsOf_setBits_same (n hi lo v : Nat) : bitsOf (setBits n hi lo v) hi lo = v % 2 ^ (hi + 1 - lo) := by
  by_cases h : lo ≤ hi + 1
  · obtain ⟨w, hw⟩ : ∃ w, hi + 1 = lo + w := ⟨hi + 1 - lo, by omega⟩
    have hs : hi + 1 - lo = w := by omega
    rw [setBits_shape n hi lo v w hw]
    simp only [bitsOf, Nat.shiftRight_eq_div_pow, hs]
    rw [Nat.add_mul_div_right _ _ (Nat.two_pow_pos lo), Nat.div_eq_of_lt (Nat.mod_lt _ (Nat.two_pow_pos lo)), Nat.zero_add,
      Nat.add_mul_mod_self_right, Nat.mod_mod]
  · have hs : hi + 1 - lo = 0 := by omega
    simp [bitsOf, hs, Nat.mod_one]

/-- A bit of a number with a field replaced. -/
theorem testBit_setBits (n hi lo v i : Nat) (h : lo ≤ hi + 1) :
    (setBits n hi lo v).testBit i = if lo ≤ i ∧ i ≤ hi then v.testBit (i - lo) else n.testBit i := by
  obtain ⟨w, hw⟩ : ∃ w, hi + 1 = lo + w := ⟨hi + 1 - lo, by omega⟩
  have hP := Nat.mod_lt n (Nat.two_pow_pos lo)
  have hQ := Nat.mod_lt v (Nat.two_pow_pos w)
  have e1 : setBits n hi lo v = 2 ^ lo * (2 ^ w * (n / 2 ^ (lo + w)) + v % 2 ^ w) + n % 2 ^ lo := by
    rw [setBits_shape n hi lo v w hw]; ring
  rw [e1, Nat.testBit_two_pow_mul_add _ hP]
  by_cases h1 : i < lo
  · have : ¬ (lo ≤ i ∧ i ≤ hi) := by omega
    simp [h1, this, Nat.testBit_mod_two_pow]
  · rw [if_neg h1, Nat.testBit_two_pow_mul_add _ hQ]
    by_cases h2 : i - lo < w
    · have : lo ≤ i ∧ i ≤ hi := by omega
      simp [h2, this, Nat.testBit_mod_two_pow]
    · have : ¬ (lo ≤ i ∧ i ≤ hi) := by omega
      have hi' : i - lo - w + (lo + w) = i := by omega
      simp [h2, this, Nat.testBit_div_two_pow, hi']

/-- A bit of a field. -/
theorem testBit_bitsOf (n hi lo i : Nat) : (bitsOf n hi lo).testBit i = (decide (i < hi + 1 - lo) && n.testBit (lo + i)) := by
  simp [bitsOf, Nat.testBit_mod_two_pow, Nat.testBit_shiftRight]

/-- A field disjoint from one that is replaced reads as before. -/
theorem bitsOf_setBits_disjoint (n hi lo v hi' lo' : Nat) (h : lo ≤ hi + 1) (hd : hi' < lo ∨ hi < lo') :
    bitsOf (setBits n hi lo v) hi' lo' = bitsOf n hi' lo' := by
  apply Nat.eq_of_testBit_eq
  intro i
  rw [testBit_bitsOf, testBit_bitsOf, testBit_setBits _ _ _ _ _ h]
  by_cases hi2 : i < hi' + 1 - lo'
  · have : ¬ (lo ≤ lo' + i ∧ lo' + i ≤ hi) := by omega
    simp [this]
  · simp [hi2]

/-- Replacing a field below bit 64 stays below 2^64. -/
theorem setBits_lt (n hi lo v : Nat) (h : lo ≤ hi + 1) (hi64 : hi < 64) (hn : n < 2 ^ 64) : setBits n hi lo v < 2 ^ 64 := by
  apply Nat.lt_pow_two_of_testBit
  intro i hi2
  rw [testBit_setBits _ _ _ _ _ h]
  have : ¬ (lo ≤ i ∧ i ≤ hi) := by omega
  rw [if_neg this]
  exact Nat.testBit_lt_two_pow (Nat.lt_of_lt_of_le hn (Nat.pow_le_pow_right (by omega) hi2))

/-! ### Register copies -/

/-- Two register copies with one key are one. -/
theorem RegId.key_inj (a b : RegId) (h : a.key = b.key) (hd : a.die = b.die) : a = b := by
  obtain ⟨r, d, c, i, j⟩ := a
  obtain ⟨r', d', c', i', j'⟩ := b
  simp only [RegId.key, Nat.pair_eq_pair, Reg.code] at h
  obtain ⟨⟨hr, rfl⟩, rfl, rfl⟩ := h
  have : r = r' := by
    have h1 := Reg.ofNat_ctorIdx r
    rw [hr, Reg.ofNat_ctorIdx r'] at h1
    exact h1.symm
  subst this
  simp at hd
  subst hd
  rfl

/-- A register copy reads as written. -/
theorem Mach.reg_setReg_same (m : Mach) (id : RegId) (v : Nat) (h : m.regsSorted) : (m.setReg id v).reg id = v % 2 ^ 64 := by
  simp [Mach.reg, Mach.setReg, smGet_smMod_same _ _ _ _ h.1, smGet_smSet_same _ _ _ _ (h.2 _)]

/-- Another copy reads as before. -/
theorem Mach.reg_setReg_ne (m : Mach) (id id' : RegId) (v : Nat) (h : m.regsSorted) (hne : id' ≠ id) :
    (m.setReg id v).reg id' = m.reg id' := by
  by_cases hd : id'.die = id.die
  · have hk : id'.key ≠ id.key := fun hk => hne (RegId.key_inj _ _ hk hd)
    simp only [Mach.reg, Mach.setReg, hd, smGet_smMod_same _ _ _ _ h.1, smGet_smSet_ne_any _ _ _ _ _ _ (h.2 _) hk]
  · simp only [Mach.reg, Mach.setReg, smGet_smMod_ne _ _ _ _ _ h.1 hd]

/-- A register write keeps the registers sorted. -/
theorem Mach.regsSorted_setReg (m : Mach) (id : RegId) (v : Nat) (h : m.regsSorted) : (m.setReg id v).regsSorted := by
  refine ⟨smSorted_smSet _ _ _ _ h.1, fun d => ?_⟩
  by_cases hd : d = id.die
  · subst hd; simp only [Mach.setReg, smGet_smMod_same _ _ _ _ h.1]; exact smSorted_smSet _ _ _ _ (h.2 _)
  · simp only [Mach.setReg, smGet_smMod_ne _ _ _ _ _ h.1 hd]; exact h.2 _

/-- A register copy is a function of the registers alone. -/
theorem Mach.reg_congr {m m' : Mach} (h : m.regs = m'.regs) (id : RegId) : m.reg id = m'.reg id := by simp only [Mach.reg, h]

/-- The registers of each die are sorted where the listed ones are. -/
theorem Mach.regsSorted_of (m : Mach) (h : (smSorted m.regs && m.regs.all (fun e => smSorted e.2)) = true) : m.regsSorted := by
  simp only [Bool.and_eq_true] at h
  refine ⟨h.1, fun d => ?_⟩
  have g : ∀ l : SMap (SMap W64), l.all (fun e => smSorted e.2) = true → smSorted (smGet [] l d) = true := by
    intro l
    induction l with
    | nil => intro _; rfl
    | cons x l ih =>
      intro hl
      simp only [List.all_cons, Bool.and_eq_true] at hl
      simp only [smGet]
      split
      · exact hl.1
      · exact ih hl.2
  exact g _ h.2

/-- What changes no register changes no register's value. -/
@[simp] theorem Mach.modDie_reg (m : Mach) (d : Nat) (f : Die → Die) (id : RegId) : (m.modDie d f).reg id = m.reg id := (rfl)
@[simp] theorem Mach.modDie_rd (m : Mach) (d : Nat) (f : Die → Die) (r : Reg) (d' i c j : Nat) :
    (m.modDie d f).rd r d' i c j = m.rd r d' i c j := (rfl)
@[simp] theorem Mach.modDie_get (m : Mach) (d : Nat) (f : Die → Die) (g : Fld) (d' i c j : Nat) :
    (m.modDie d f).get g d' i c j = m.get g d' i c j := (rfl)
@[simp] theorem Mach.modCore_reg (m : Mach) (d c : Nat) (f : Core → Core) (id : RegId) : (m.modCore d c f).reg id = m.reg id := (rfl)
@[simp] theorem Mach.modCore_rd (m : Mach) (d c : Nat) (f : Core → Core) (r : Reg) (d' i c' j : Nat) :
    (m.modCore d c f).rd r d' i c' j = m.rd r d' i c' j := (rfl)
@[simp] theorem Mach.modCore_get (m : Mach) (d c : Nat) (f : Core → Core) (g : Fld) (d' i c' j : Nat) :
    (m.modCore d c f).get g d' i c' j = m.get g d' i c' j := (rfl)

/-- A die reads as changed, the others as before. -/
theorem Mach.die_modDie_same (m : Mach) (d : Nat) (f : Die → Die) (h : smSorted m.dies = true) : (m.modDie d f).die d = f (m.die d) :=
  smGet_smMod_same _ _ _ _ h
theorem Mach.die_modDie_ne (m : Mach) (d d' : Nat) (f : Die → Die) (h : smSorted m.dies = true) (hne : d' ≠ d) :
    (m.modDie d f).die d' = m.die d' := smGet_smMod_ne _ _ _ _ _ h hne

/-- A core reads as changed, the others as before. -/
theorem Mach.core_modCore_same (m : Mach) (d c : Nat) (f : Core → Core) (h : smSorted m.cores = true) :
    (m.modCore d c f).core d c = f (m.core d c) := smGet_smMod_same _ _ _ _ h
theorem Mach.core_modCore_ne (m : Mach) (d c d' c' : Nat) (f : Core → Core) (h : smSorted m.cores = true)
    (hne : coreKey d' c' ≠ coreKey d c) : (m.modCore d c f).core d' c' = m.core d' c' := smGet_smMod_ne _ _ _ _ _ h hne

/-- Every register value fits 64 bits. -/
theorem Mach.reg_lt (m : Mach) (id : RegId) : m.reg id < 2 ^ 64 := BitVec.isLt _

/-! ### Fields -/

/-- A field reads as written. -/
theorem Mach.get_put_same (m : Mach) (f : Fld) (d v i c j : Nat) (h : m.regsSorted) (hf : f.lo ≤ f.hi + 1) (h64 : f.hi < 64) :
    (m.put f d v i c j).get f d i c j = v % 2 ^ (f.hi + 1 - f.lo) := by
  simp only [Mach.get, Mach.put, Mach.rd, Mach.wr, Mach.reg_setReg_same _ _ _ h]
  rw [Nat.mod_eq_of_lt (setBits_lt _ _ _ _ hf h64 (Mach.reg_lt m _)), bitsOf_setBits_same]

/-- A disjoint field of the same copy reads as before. -/
theorem Mach.get_put_disjoint (m : Mach) (f g : Fld) (d v i c j : Nat) (h : m.regsSorted) (hr : g.reg = f.reg) (hf : f.lo ≤ f.hi + 1)
    (h64 : f.hi < 64) (hd : g.hi < f.lo ∨ f.hi < g.lo) : (m.put f d v i c j).get g d i c j = m.get g d i c j := by
  simp only [Mach.get, Mach.put, Mach.rd, Mach.wr, hr, Mach.reg_setReg_same _ _ _ h]
  rw [Nat.mod_eq_of_lt (setBits_lt _ _ _ _ hf h64 (Mach.reg_lt m _)), bitsOf_setBits_disjoint _ _ _ _ _ _ hf hd]

/-- A register copy other than the one written reads as before. -/
theorem Mach.rd_put_ne (m : Mach) (f : Fld) (d v i c j : Nat) (r : Reg) (d' i' c' j' : Nat) (h : m.regsSorted)
    (hne : (⟨r, d', c', i', j'⟩ : RegId) ≠ ⟨f.reg, d, c, i, j⟩) : (m.put f d v i c j).rd r d' i' c' j' = m.rd r d' i' c' j' :=
  Mach.reg_setReg_ne _ _ _ _ h hne

/-- The same for a whole register. -/
theorem Mach.rd_wr_ne (m : Mach) (r r' : Reg) (d v i c j d' i' c' j' : Nat) (h : m.regsSorted)
    (hne : (⟨r', d', c', i', j'⟩ : RegId) ≠ ⟨r, d, c, i, j⟩) : (m.wr r d v i c j).rd r' d' i' c' j' = m.rd r' d' i' c' j' :=
  Mach.reg_setReg_ne _ _ _ _ h hne

/-- A whole register reads as written. -/
theorem Mach.rd_wr_same (m : Mach) (r : Reg) (d v i c j : Nat) (h : m.regsSorted) : (m.wr r d v i c j).rd r d i c j = v % 2 ^ 64 :=
  Mach.reg_setReg_same _ _ _ h

/-! ### The optics go dark -/

/-- What holds after every step of a fold holds after it. -/
theorem foldl_keeps {α β : Type} (P : β → Prop) (f : β → α → β) (hf : ∀ b x, P b → P (f b x)) (l : List α) (b : β) (h : P b) :
    P (l.foldl f b) := by
  induction l generalizing b with
  | nil => exact h
  | cons x l ih => exact ih _ (hf _ _ h)

/-- Darkening a die's ports keeps the registers' form and every register but FAB_PORT_STATUS. -/
theorem Mach.darkPorts_keeps (m : Mach) (d : Nat) (h : m.regsSorted) :
    (m.darkPorts d).regsSorted ∧ ∀ r d' i c j, r ≠ .fabPortStatus → (m.darkPorts d).rd r d' i c j = m.rd r d' i c j := by
  let P (x : Mach) : Prop := x.regsSorted ∧ ∀ r d' i c j, r ≠ .fabPortStatus → x.rd r d' i c j = m.rd r d' i c j
  have step (y : Mach) (f : Fld) (p v : Nat) (hf : f.reg = .fabPortStatus) (hy : P y) : P (y.put f d v p) := by
    refine ⟨Mach.regsSorted_setReg _ _ _ hy.1, fun r d' i c j hr => ?_⟩
    rw [Mach.rd_put_ne _ _ _ _ _ _ _ _ _ _ _ _ hy.1 (by rw [hf]; simp [hr])]
    exact hy.2 r d' i c j hr
  have one (x : Mach) (p : Nat) (hx : P x) : P (x.darkPort d p) := by
    unfold Mach.darkPort
    exact step _ Fld.fabPortStatus_hb_missed p _ rfl (step _ Fld.fabPortStatus_rate p _ rfl
      (step _ Fld.fabPortStatus_lanes_ok p _ rfl (step _ Fld.fabPortStatus_state p _ rfl hx)))
  have key := foldl_keeps P (fun m p => m.darkPort d p) one (List.range 8) m ⟨h, fun _ _ _ _ _ _ => rfl⟩
  have e : (m.darkPorts d).regs = ((List.range 8).foldl (fun m p => m.darkPort d p) m).regs := by
    unfold Mach.darkPorts
    exact Mach.modDie_regs _ _ _
  have of_regs (x y : Mach) (hxy : y.regs = x.regs) (hx : P x) : P y := by
    obtain ⟨h1, h2⟩ := hx
    refine ⟨by simpa only [Mach.regsSorted, hxy] using h1, fun r d' i c j hr => ?_⟩
    rw [← h2 r d' i c j hr]
    simp only [Mach.rd, Mach.reg, hxy]
  exact of_regs _ _ e key

end Sys2Proof.Machine
end

