-- ==== Sys2Proof/Laws/Ops.lean ====
section
/-! SUPPORT. What each shared operation of the commands' meanings can do: one lemma for the case in which it acts and one for the case
in which it does not. -/

namespace Sys2Proof.Machine

/-! ### Conditions of power and reset -/

theorem State.onModule_run {s : State} {f : Mach → Mach} (h : s.m.powered = true) : s.onModule f = .next { s with m := f s.m } := by
  simp [State.onModule, h]

theorem State.onModule_not {s : State} {f : Mach → Mach} (h : s.m.powered = false) : s.onModule f = .next s := by
  simp [State.onModule, h]

theorem State.onData_run {s : State} {f : Mach → Mach} (h : s.m.dataPlane = true) : s.onData f = .next { s with m := f s.m } := by
  simp [State.onData, h]

theorem State.onData_not {s : State} {f : Mach → Mach} (h : s.m.dataPlane = false) : s.onData f = .next s := by
  simp [State.onData, h]

theorem State.onDie_run {s : State} {d : Fin 8} {f : Mach → Mach} (h : s.m.dieRuns d = true) :
    s.onDie d f = .next { s with m := f s.m } := by
  simp [State.onDie, h]

theorem State.onWaits_run {s : State} {d : Fin 8} {f : Mach → Mach} (h : s.m.dieRuns d = true) :
    s.onWaits d f = .next { s with m := (f s.m).nutmegAll } := State.onDie_run h

theorem State.onDie_not {s : State} {d : Fin 8} {f : Mach → Mach} (h : s.m.dieRuns d = false) : s.onDie d f = .next s := by
  simp [State.onDie, h]

theorem State.onNine_run {s : State} {d : Fin 9} {f : Mach → Mach} (h : s.m.nineRuns d = true) :
    s.onNine d f = .next { s with m := f s.m } := by
  simp [State.onNine, h]

theorem State.onNine_not {s : State} {d : Fin 9} {f : Mach → Mach} (h : s.m.nineRuns d = false) : s.onNine d f = .next s := by
  simp [State.onNine, h]

/-- Every guarded meaning answers a next state with the queue as it was: the effect, or the same state. -/
theorem State.onModule_cases (s : State) (f : Mach → Mach) :
    (s.m.powered = true ∧ s.onModule f = .next { s with m := f s.m }) ∨ (s.m.powered = false ∧ s.onModule f = .next s) := by
  cases h : s.m.powered <;> simp [State.onModule, h]

theorem State.onData_cases (s : State) (f : Mach → Mach) :
    (s.m.dataPlane = true ∧ s.onData f = .next { s with m := f s.m }) ∨ (s.m.dataPlane = false ∧ s.onData f = .next s) := by
  cases h : s.m.dataPlane <;> simp [State.onData, h]

theorem State.onDie_cases (s : State) (d : Fin 8) (f : Mach → Mach) :
    (s.m.dieRuns d = true ∧ s.onDie d f = .next { s with m := f s.m }) ∨ (s.m.dieRuns d = false ∧ s.onDie d f = .next s) := by
  cases h : s.m.dieRuns d <;> simp [State.onDie, h]

theorem State.onNine_cases (s : State) (d : Fin 9) (f : Mach → Mach) :
    (s.m.nineRuns d = true ∧ s.onNine d f = .next { s with m := f s.m }) ∨ (s.m.nineRuns d = false ∧ s.onNine d f = .next s) := by
  cases h : s.m.nineRuns d <;> simp [State.onNine, h]

/-- A die that runs implies the data plane, and that the Bludjan die's supply. -/
theorem Mach.dataPlane_of_dieRuns {m : Mach} {d : Nat} (h : m.dieRuns d = true) : m.dataPlane = true := by
  simp only [Mach.dieRuns, Bool.and_eq_true] at h; exact h.1

theorem Mach.powered_of_dataPlane {m : Mach} (h : m.dataPlane = true) : m.powered = true := by
  simp only [Mach.dataPlane, Bool.and_eq_true] at h; exact h.1.1

/-! ### Register accesses -/

/-- An allowed write does the register's own operation, counts its collisions, and is answered. -/
theorem Mach.storeReg_of_writes {s : State} {who : BusWho} {pa n value hw b : Nat} {id : RegId} (h : s.writes who pa n id b) :
    s.m.storeReg who pa n value hw =
      (s.m.regWrite id (s.m.wordAt who id b n value hw)).answered id (w1cHit id b n value hw) := by
  obtain ⟨_, h2, h3, h4, h5, h6⟩ := h
  simp [Mach.storeReg, Mach.busWrite, h2, h3, h4, h5, h6, Mach.wordAt, Mach.answered, w1cHit, accMask]

/-- A register row acts on its own registers as a write does. -/
theorem Mach.rowWrite_of_writes {s : State} {p : RegId → RegW → Bool} {who : BusWho} {pa n value hw b : Nat} {id : RegId}
    (h : s.writes who pa n id b) (hp : p id (s.m.wordAt who id b n value 0) = true) :
    s.m.rowWrite p who pa n value hw =
      (s.m.regWrite id (s.m.wordAt who id b n value hw)).answered id (w1cHit id b n value hw) := by
  have h' := h
  obtain ⟨h1, h2, h3, h4, h5, h6⟩ := h
  have hz : w1cHit id b n value 0 = 0 := by simp [w1cHit]
  have hp' : p id (s.m.regW who id (value * 2 ^ (8 * b)) ((2 ^ (8 * n) - 1) * 2 ^ (8 * b)) 0) = true := by
    have := hp; simp only [Mach.wordAt, hz, accMask] at this; exact this
  have e := Mach.storeReg_of_writes (value := value) (hw := hw) h'
  rw [← e]
  simp only [Mach.rowWrite, h3, hp', Mach.storeReg, Bool.not_true, Bool.false_eq_true, if_false]
  all_goals rfl

/-- The same as a command. -/
theorem State.onRegs_of_writes {s : State} {p : RegId → RegW → Bool} {who : BusWho} {pa n value hw b : Nat} {id : RegId}
    (h : s.writes who pa n id b) (hp : p id (s.m.wordAt who id b n value 0) = true) :
    s.onRegs p who pa n value hw =
      .next { s with m := (s.m.regWrite id (s.m.wordAt who id b n value hw)).answered id (w1cHit id b n value hw) } := by
  rw [State.onRegs, State.onModule_run h.1, Mach.rowWrite_of_writes h hp]

/-- A write that R8 or R9 does not allow is an access fault and changes nothing else. -/
theorem Mach.storeReg_of_fault {m : Mach} {who : BusWho} {pa n value hw : Nat} (h1 : inSlots pa n = false)
    (h2 : ∀ id b, regAt pa = some (id, b) → legalAccess id.reg.info.width b n = false ∨ mayWrite who id = false) :
    m.storeReg who pa n value hw = { m with resp := .accessFault } := by
  simp only [Mach.storeReg, Mach.busWrite, h1]
  cases e : regAt pa with
  | none => rfl
  | some x =>
    obtain ⟨id, b⟩ := x
    rcases h2 id b e with h | h <;> simp [h]

/-- The word that a write brings does not change with the bits that the module sets at the same time, its new value apart. -/
theorem Mach.wordAt_raw (m : Mach) (who : BusWho) (id : RegId) (b n value hw : Nat) :
    (m.wordAt who id b n value hw).raw = (m.wordAt who id b n value 0).raw := rfl

/-! ### Issues -/

/-- The threads of an issue are of the core and the block that it names. -/
theorem Mach.issueSet_at (m : Mach) (d c b g lanes : Nat) (r : ThreadRef) (h : r ∈ m.issueSet d c b g lanes) :
    r.core = c ∧ r.block = b := by
  simp only [Mach.issueSet] at h
  split at h
  · simp at h
  · split at h
    · simp at h
    · simp only [List.mem_map, List.mem_filter] at h
      obtain ⟨y, _, rfl⟩ := h
      exact ⟨rfl, rfl⟩

/-- Counting an issue touches no core. -/
theorem Mach.issueCount_cores (m : Mach) (d c : Nat) (k : Block) (g n : Nat) : (m.issueCount d c k g n).cores = m.cores := by
  simp only [Mach.issueCount]; split
  · rfl
  · split <;> rfl

theorem Mach.issueCount_block (m : Mach) (d c : Nat) (k : Block) (g n d' c' b' : Nat) :
    (m.issueCount d c k g n).block d' c' b' = m.block d' c' b' := by
  simp only [Mach.block, Mach.core, Mach.issueCount_cores]

end Sys2Proof.Machine
end

