-- ==== Sys2Proof/Laws/Exec.lean ====
section
/-! SUPPORT. One equation per command: what `exec` does with it, in terms of the conditions of Operands.lean. -/

namespace Sys2Proof.Machine

theorem exec_registerWrite (who : BusWho) (pa n value hw : Nat) (s : State) :
    exec (.registerWrite who pa n value hw) s = s.onModule (fun m => m.storeReg who pa n value hw) := (rfl)

theorem exec_rcCounterRead (who : BusWho) (pa n : Nat) (s : State) :
    exec (.rcCounterRead who pa n) s = s.onModule (fun m => m.loadReg who pa n) := (rfl)

theorem exec_coldReset (cool bifurc : Fin 4) (rails : Bool) (s : State) :
    exec (.coldReset cool bifurc rails) s = s.always (fun m => m.coldReset cool bifurc rails) := (rfl)

theorem exec_pwrEnDeassert (s : State) :
    exec (.pwrEnDeassert) s = s.always (fun m => m.pwrEnDeassert) := (rfl)

theorem exec_supplyOutOfTolerance (s : State) :
    exec (.supplyOutOfTolerance) s = s.onModule (fun m => m.supplyOut) := (rfl)

theorem exec_supplyLoss (mv : Nat) (s : State) :
    exec (.supplyLoss mv) s = if 65000 < mv then .fault .beyondRatings else s.onModule (fun m => m.supplyLoss mv) := (rfl)

theorem exec_imageVerification (s : State) :
    exec (.imageVerification) s = s.onModule (fun m => m.imageVerification) := (rfl)

theorem exec_recovery (image : Option (List Byte)) (s : State) :
    exec (.recovery image) s = s.onModule (fun m => m.recovery image) := (rfl)

theorem exec_release (started : Bool) (s : State) :
    exec (.release started) s = s.onModule (fun m => m.release started) := (rfl)

theorem exec_fuseLoad (checkOk : Bool) (s : State) :
    exec (.fuseLoad checkOk) s = s.onModule (fun m => m.fuseLoad checkOk) := (rfl)

theorem exec_memoryTraining (eyes : List (List StackEye)) (gdFails : List Nat) (log : Option (List Nat)) (s : State) :
    exec (.memoryTraining eyes gdFails log) s = s.onModule (fun m => m.memoryTraining eyes gdFails log) := (rfl)

theorem exec_selfTest (results : List SelfTestCore) (s : State) :
    exec (.selfTest results) s = s.onModule (fun m => m.selfTest results) := (rfl)

theorem exec_fabricBringUp (info : Option (Nat × Nat)) (s : State) :
    exec (.fabricBringUp info) s = s.onModule (fun m => m.fabricBringUp info) := (rfl)

theorem exec_loaderEntry (s : State) :
    exec .loaderEntry s = s.onModule (fun m => m.loaderEntry) := (rfl)

theorem exec_phaseTimeout (s : State) :
    exec (.phaseTimeout) s = s.onModule (fun m => m.phaseTimeout) := (rfl)

theorem exec_ftCounterTick (s : State) :
    exec (.ftCounterTick) s = s.onModule (fun m => m.tickAll) := (rfl)

theorem exec_timeMessageSend (d : Fin 8) (p : Fin 8) (s : State) :
    exec (.timeMessageSend d p) s = s.onDie d (fun m => m.timeSend d p) := (rfl)

theorem exec_timeMessageReceive (d : Fin 9) (src : Nat) (t1 t2 t3 t4 : Int) (gm epoch hop : Nat) (valid : Bool) (civil : W64) (s : State) :
    exec (.timeMessageReceive d src t1 t2 t3 t4 gm epoch hop valid civil) s =
      s.onNine d (fun m => m.timeMessage d src t1 t2 t3 t4 gm epoch hop (if valid then some civil else none)) := (rfl)

theorem exec_holdoverExpire (d : Fin 9) (s : State) :
    exec (.holdoverExpire d) s = s.onNine d (fun m => m.holdoverExpire d) := (rfl)

theorem exec_gmPromote (s : State) :
    exec (.gmPromote) s = s.onData (fun m => m.gmPromote) := (rfl)

theorem exec_ftCtrlWrite (who : BusWho) (pa n value hw : Nat) (s : State) :
    exec (.ftCtrlWrite who pa n value hw) s = s.onRegs (fun id _ => id.reg == .ftCtrl) who pa n value hw := (rfl)

theorem exec_trefPpsEdge (s : State) :
    exec (.trefPpsEdge) s = s.onData (fun m => m.ppsEdge) := (rfl)

theorem exec_ptpTimeReceive (sec : Nat) (s : State) :
    exec (.ptpTimeReceive sec) s = s.onModule (fun m => m.ptpReceive sec) := (rfl)

theorem exec_ftTmrTgtWrite (who : BusWho) (pa n value hw : Nat) (s : State) :
    exec (.ftTmrTgtWrite who pa n value hw) s = s.onRegs (fun id _ => id.reg == .ftTmrTgt) who pa n value hw := (rfl)

theorem exec_ftTmrCtlWrite (who : BusWho) (pa n value hw : Nat) (s : State) :
    exec (.ftTmrCtlWrite who pa n value hw) s = s.onRegs (fun id _ => id.reg == .ftTmrCtl) who pa n value hw := (rfl)

theorem exec_timerFire (d : Fin 8) (n : Fin 64) (s : State) :
    exec (.timerFire d n) s = s.onDie d (fun m => m.timerFireRow d n) := (rfl)

theorem exec_timerActionInterrupt (d : Fin 8) (s : State) :
    exec (.timerActionInterrupt d) s = s.onDie d (fun m => m.interruptAct d) := (rfl)

theorem exec_timerActionSyncAdd (d : Fin 8) (s : State) :
    exec (.timerActionSyncAdd d) s = s.onDie d (fun m => m.syncAct d) := (rfl)

theorem exec_stepBoundary (slot : Fin 8) (s : State) :
    exec (.stepBoundary slot) s = s.onData (fun m => m.stepBoundary slot) := (rfl)

theorem exec_scaleEntryProcess (d : Fin 8) (s : State) :
    exec (.scaleEntryProcess d) s = s.onDie d (fun m => m.scaleEntry d) := (rfl)

theorem exec_collectiveDeadlineAction (d : Fin 8) (s : State) :
    exec (.collectiveDeadlineAction d) s = s.onWaits d (fun m => m.colDeadlineAct d) := (rfl)

theorem exec_nutmegRampStart (d : Fin 8) (s : State) :
    exec (.nutmegRampStart d) s = s.onDie d (fun m => m.rampStart d) := (rfl)

theorem exec_applyPendingCap (d : Fin 8) (s : State) :
    exec (.applyPendingCap d) s = s.onDie d (fun m => m.applyCap d) := (rfl)

theorem exec_commitPoint (d : Fin 8) (s : State) :
    exec (.commitPoint d) s = s.onDie d (fun m => m.commitPoint d) := (rfl)

theorem exec_commitVoteResult (d : Fin 8) (allOk : Bool) (s : State) :
    exec (.commitVoteResult d allOk) s = s.onDie d (fun m => m.voteResult d allOk) := (rfl)

theorem exec_scrubWindowOpen (d : Fin 8) (s : State) :
    exec (.scrubWindowOpen d) s = s.onDie d (fun m => m.scrubWindow d 8) := (rfl)

theorem exec_scrubWindowClose (d : Fin 8) (s : State) :
    exec (.scrubWindowClose d) s = s.onDie d (fun m => m.scrubWindow d 9) := (rfl)

theorem exec_scrubRead (d : Fin 8) (stack : Fin 4) (pch : Fin 64) (upset : Nat) (s : State) :
    exec (.scrubRead d stack pch upset) s = s.onDie d (fun m => m.scrubRead d stack pch upset) := (rfl)

theorem exec_hbmRefresh (d : Fin 8) (stack : Fin 4) (pch : Fin 64) (bank : Nat) (s : State) :
    exec (.hbmRefresh d stack pch bank) s = s.onDie d (fun m => m.refresh d stack pch bank) := (rfl)

theorem exec_hbmReadComplete (a upset : Nat) (mirror : Bool) (s : State) :
    exec (.hbmReadComplete a upset mirror) s = s.onData (fun m => m.hbmReadDone a upset mirror) := (rfl)

theorem exec_rowRetire (r : RowRef) (left : Option Nat) (s : State) :
    exec (.rowRetire r left) s = s.onData (fun m => m.rowRetire r left) := (rfl)

theorem exec_mirrorRead (a upset : Nat) (s : State) :
    exec (.mirrorRead a upset) s = s.onData (fun m => m.mirrorRead a upset) := (rfl)

theorem exec_gddr7ReadComplete (a fails : Nat) (devCorrected devUe : Bool) (s : State) :
    exec (.gddr7ReadComplete a fails devCorrected devUe) s = s.onData (fun m => m.gdReadDone a fails devCorrected devUe) := (rfl)

theorem exec_hbmCfgWrite (who : BusWho) (pa n value hw : Nat) (s : State) :
    exec (.hbmCfgWrite who pa n value hw) s = s.onRegs (fun id _ => id.reg == .hbmCfg) who pa n value hw := (rfl)

theorem exec_marginRunComplete (d : Fin 8) (results : List PinMargin) (s : State) :
    exec (.marginRunComplete d results) s = s.onDie d (fun m => m.marginComplete d results) := (rfl)

theorem exec_xlatInvPage (who : BusWho) (pa n value hw : Nat) (s : State) :
    exec (.xlatInvPage who pa n value hw) s = s.onRegs (fun id w => id.reg == .cfgXlatInv && Fld.cfgXlatInv_go.of w.raw == 1 && Fld.cfgXlatInv_scope.of w.raw == 0) who pa n value hw := (rfl)

theorem exec_xlatInvPartition (who : BusWho) (pa n value hw : Nat) (s : State) :
    exec (.xlatInvPartition who pa n value hw) s = s.onRegs (fun id w => id.reg == .cfgXlatInv && Fld.cfgXlatInv_go.of w.raw == 1 && Fld.cfgXlatInv_scope.of w.raw == 1) who pa n value hw := (rfl)

theorem exec_xlatInvComplete (d : Fin 8) (s : State) :
    exec (.xlatInvComplete d) s = s.onDie d (fun m => m.xlatInvDone d) := (rfl)

theorem exec_coreLoad (i : Issue) (width : Nat) (sg fl : Bool) (rd rs1 : Fin 32) (off : Int) (l1Bad : Bool) (s : State) :
    exec (.coreLoad i width sg fl rd rs1 off l1Bad) s = s.onIssue i (loadOp width sg fl rd rs1 off) l1Bad := (rfl)

theorem exec_coreStore (i : Issue) (width : Nat) (fl : Bool) (rs1 rs2 : Fin 32) (off : Int) (s : State) :
    exec (.coreStore i width fl rs1 rs2 off) s = s.onIssue i (storeOp width fl rs1 rs2 off) := (rfl)

theorem exec_coreAmo (i : Issue) (f5 width : Nat) (rd rs1 rs2 : Fin 32) (s : State) :
    exec (.coreAmo i f5 width rd rs1 rs2) s = s.onIssue i (amoOp f5 width rd rs1 rs2 i.rl) := (rfl)

theorem exec_coreLr (i : Issue) (width : Nat) (rd rs1 : Fin 32) (s : State) :
    exec (.coreLr i width rd rs1) s = s.onIssue i (lrOp width rd rs1 i.rl) := (rfl)

theorem exec_coreSc (i : Issue) (width : Nat) (rd rs1 rs2 : Fin 32) (s : State) :
    exec (.coreSc i width rd rs1 rs2) s = s.onIssue i (scOp width rd rs1 rs2 i.rl) := (rfl)

theorem exec_csrAccess (i : Issue) (f3 : Fin 8) (rd rs1 : Fin 32) (num : Fin 4096) (s : State) :
    exec (.csrAccess i f3 rd rs1 num) s = s.onIssue i (csrOp f3 rd rs1 num) := (rfl)

theorem exec_ecall (i : Issue) (s : State) :
    exec (.ecall i) s = s.onIssue i .ecall := (rfl)

theorem exec_ebreak (i : Issue) (s : State) :
    exec (.ebreak i) s = s.onIssue i .ebreak := (rfl)

theorem exec_fenceI (i : Issue) (s : State) :
    exec (.fenceI i) s = s.onIssue i .fencei := (rfl)

theorem exec_baseInstruction (i : Issue) (word : W32) (s : State) :
    exec (.baseInstruction i word) s = s.onIssue { i with hints := bitsOf word.toNat 26 25 } (decodeRv word.toNat) := (rfl)

theorem exec_issueSlot (d : Fin 8) (c : Fin 32) (q : SlotIssue) (s : State) :
    exec (.issueSlot d c q) s = s.onWaits d (fun m => m.issueSlot d c q.sched q.regBad) := (rfl)

theorem exec_ktQpush (i : Issue) (q : Fin 4) (rd rs1 : Fin 32) (s : State) :
    exec (.ktQpush i q rd rs1) s = s.onIssue i (.kt (.qpush q) rd rs1 0) := (rfl)

theorem exec_ktQcred (i : Issue) (q : Fin 4) (rd : Fin 32) (s : State) :
    exec (.ktQcred i q rd) s = s.onIssue i (.kt (.qcred q) rd 0 0) := (rfl)

theorem exec_ktScadd (i : Issue) (rd rs1 rs2 : Fin 32) (s : State) :
    exec (.ktScadd i rd rs1 rs2) s = s.onIssue i (.kt (.ctr 0) rd rs1 rs2) := (rfl)

theorem exec_ktScaddRemote (i : Issue) (rd rs1 rs2 : Fin 32) (s : State) :
    exec (.ktScaddRemote i rd rs1 rs2) s = s.onIssue i (.kt (.ctr 0) rd rs1 rs2) := (rfl)

theorem exec_ktScsub (i : Issue) (rd rs1 rs2 : Fin 32) (s : State) :
    exec (.ktScsub i rd rs1 rs2) s = s.onIssue i (.kt (.ctr 1) rd rs1 rs2) := (rfl)

theorem exec_ktScset (i : Issue) (rd rs1 rs2 : Fin 32) (s : State) :
    exec (.ktScset i rd rs1 rs2) s = s.onIssue i (.kt (.ctr 2) rd rs1 rs2) := (rfl)

theorem exec_ktScrd (i : Issue) (rd rs1 rs2 : Fin 32) (s : State) :
    exec (.ktScrd i rd rs1 rs2) s = s.onIssue i (.kt (.ctr 3) rd rs1 rs2) := (rfl)

theorem exec_ktScwait (i : Issue) (rd rs1 rs2 : Fin 32) (s : State) :
    exec (.ktScwait i rd rs1 rs2) s = s.onIssue i (.kt .scwait rd rs1 rs2) := (rfl)

theorem exec_ktScwaitc (i : Issue) (rd rs1 rs2 : Fin 32) (s : State) :
    exec (.ktScwaitc i rd rs1 rs2) s = s.onIssue i (.kt .scwaitc rd rs1 rs2) := (rfl)

theorem exec_ktBar (i : Issue) (rs1 rs2 : Fin 32) (s : State) :
    exec (.ktBar i rs1 rs2) s = s.onIssue i (.kt .bar 0 rs1 rs2) := (rfl)

theorem exec_barrierTimeout (d : Fin 8) (c b : Fin 32) (s : State) :
    exec (.barrierTimeout d c b) s = s.onDie d (fun m => m.barTimeout d c b) := (rfl)

theorem exec_ktMbarArriveWait (i : Issue) (rs1 : Fin 32) (s : State) :
    exec (.ktMbarArriveWait i rs1) s = s.onWaits i.die (fun m => m.issueRun i.die i.core i.block i.group i.lanes (.kt (.mbar true) 0 rs1 0)
      { regBad := i.regBad, hints := i.hints }) := (rfl)

theorem exec_ktMbarArrive (i : Issue) (rs1 : Fin 32) (s : State) :
    exec (.ktMbarArrive i rs1) s = s.onWaits i.die (fun m => m.issueRun i.die i.core i.block i.group i.lanes (.kt (.mbar false) 0 rs1 0)
      { regBad := i.regBad, hints := i.hints }) := (rfl)

theorem exec_barSlotTimeout (d : Fin 8) (md : Bool) (slot : Fin 64) (s : State) :
    exec (.barSlotTimeout d md slot) s = s.onDie d (fun m => m.slotTimeout d md slot) := (rfl)

theorem exec_ktFamoadd (i : Issue) (rd rs1 rs2 : Fin 32) (s : State) :
    exec (.ktFamoadd i rd rs1 rs2) s = s.onIssue i (.kt .famoadd rd rs1 rs2) := (rfl)

theorem exec_ktAccstW (i : Issue) (rs1 rs2 : Fin 32) (s : State) :
    exec (.ktAccstW i rs1 rs2) s = s.onIssue i (.kt (.accst 4) 0 rs1 rs2) := (rfl)

theorem exec_ktAccstD (i : Issue) (rs1 rs2 : Fin 32) (s : State) :
    exec (.ktAccstD i rs1 rs2) s = s.onIssue i (.kt (.accst 8) 0 rs1 rs2) := (rfl)

theorem exec_ktPrefL1 (i : Issue) (rs1 : Fin 32) (s : State) :
    exec (.ktPrefL1 i rs1) s = s.onIssue i (.kt (.pref true) 0 rs1 0) := (rfl)

theorem exec_ktPrefDieCache (i : Issue) (rs1 : Fin 32) (s : State) :
    exec (.ktPrefDieCache i rs1) s = s.onIssue i (.kt (.pref false) 0 rs1 0) := (rfl)

theorem exec_ktFenceBlock (i : Issue) (s : State) :
    exec (.ktFenceBlock i) s = s.onIssue i (.kt (.fence 0) 0 0 0) := (rfl)

theorem exec_ktFenceCluster (i : Issue) (s : State) :
    exec (.ktFenceCluster i) s = s.onIssue i (.kt (.fence 1) 0 0 0) := (rfl)

theorem exec_ktFenceDie (i : Issue) (s : State) :
    exec (.ktFenceDie i) s = s.onIssue i (.kt (.fence 2) 0 0 0) := (rfl)

theorem exec_ktFenceModule (i : Issue) (s : State) :
    exec (.ktFenceModule i) s = s.onIssue i (.kt (.fence 3) 0 0 0) := (rfl)

theorem exec_ktFenceRelease (i : Issue) (s : State) :
    exec (.ktFenceRelease i) s = s.onIssue i (.kt (.fence 4) 0 0 0) := (rfl)

theorem exec_ktFenceAcquire (i : Issue) (s : State) :
    exec (.ktFenceAcquire i) s = s.onIssue i (.kt (.fence 5) 0 0 0) := (rfl)

theorem exec_ktFenceFull (i : Issue) (s : State) :
    exec (.ktFenceFull i) s = s.onIssue i (.kt (.fence 6) 0 0 0) := (rfl)

theorem exec_fenceTimeout (d : Fin 8) (s : State) :
    exec (.fenceTimeout d) s = s.onDie d (fun m => m.fenceTimeout d) := (rfl)

theorem exec_ktExit (i : Issue) (s : State) :
    exec (.ktExit i) s = s.onIssue i (.kt .exit 0 0 0) := (rfl)

theorem exec_ktVoteBallot (i : Issue) (rd rs1 : Fin 32) (s : State) :
    exec (.ktVoteBallot i rd rs1) s = s.onIssue i (.kt (.vote 0) rd rs1 0) := (rfl)

theorem exec_ktVoteAny (i : Issue) (rd rs1 : Fin 32) (s : State) :
    exec (.ktVoteAny i rd rs1) s = s.onIssue i (.kt (.vote 1) rd rs1 0) := (rfl)

theorem exec_ktVoteAll (i : Issue) (rd rs1 : Fin 32) (s : State) :
    exec (.ktVoteAll i rd rs1) s = s.onIssue i (.kt (.vote 2) rd rs1 0) := (rfl)

theorem exec_ktShflIndex (i : Issue) (rd rs1 rs2 : Fin 32) (s : State) :
    exec (.ktShflIndex i rd rs1 rs2) s = s.onIssue i (.kt (.shfl 0) rd rs1 rs2) := (rfl)

theorem exec_ktShflXor (i : Issue) (rd rs1 rs2 : Fin 32) (s : State) :
    exec (.ktShflXor i rd rs1 rs2) s = s.onIssue i (.kt (.shfl 1) rd rs1 rs2) := (rfl)

theorem exec_ktShflUp (i : Issue) (rd rs1 rs2 : Fin 32) (s : State) :
    exec (.ktShflUp i rd rs1 rs2) s = s.onIssue i (.kt (.shfl 2) rd rs1 rs2) := (rfl)

theorem exec_ktShflDown (i : Issue) (rd rs1 rs2 : Fin 32) (s : State) :
    exec (.ktShflDown i rd rs1 rs2) s = s.onIssue i (.kt (.shfl 3) rd rs1 rs2) := (rfl)

theorem exec_ktActive (i : Issue) (rd : Fin 32) (s : State) :
    exec (.ktActive i rd) s = s.onIssue i (.kt .active rd 0 0) := (rfl)

theorem exec_tguWdogWrite (who : BusWho) (pa n value hw : Nat) (s : State) :
    exec (.tguWdogWrite who pa n value hw) s = s.onRegs (fun id _ => id.reg == .tguWdog) who pa n value hw := (rfl)

theorem exec_lqTailWrite (who : BusWho) (pa n value hw : Nat) (s : State) :
    exec (.lqTailWrite who pa n value hw) s = s.onRegs (fun id _ => id.reg == .lqTail) who pa n value hw := (rfl)

theorem exec_lqCfgWrite (who : BusWho) (pa n value hw : Nat) (s : State) :
    exec (.lqCfgWrite who pa n value hw) s = s.onRegs (fun id _ => id.reg == .lqCfg) who pa n value hw := (rfl)

theorem exec_lqRingBaseWrite (who : BusWho) (pa n value hw : Nat) (s : State) :
    exec (.lqRingBaseWrite who pa n value hw) s = s.onRegs (fun id _ => id.reg == .lqBase || id.reg == .lqCringBase) who pa n value hw := (rfl)

theorem exec_cqRingWrite (who : BusWho) (pa n value hw : Nat) (s : State) :
    exec (.cqRingWrite who pa n value hw) s = s.onRegs (fun id _ => id.reg == .cqRingBase || id.reg == .cqRingCfg || id.reg == .cqColRingBase || id.reg == .cqColRingCfg) who pa n value hw := (rfl)

theorem exec_launchRead (slot : Fin 8) (q : Fin 16) (s : State) :
    exec (.launchRead slot q) s = s.onData (fun m => m.launchRead slot q) := (rfl)

theorem exec_blockPlace (slot : Fin 8) (d : Fin 8) (c : Fin 32) (s : State) :
    exec (.blockPlace slot d c) s = s.onDie d (fun m => m.blockPlace slot d c) := (rfl)

theorem exec_arrayDescriptorStart (d : Fin 8) (c : Met (Fin 32)) (s : State) :
    exec (.arrayDescriptorStart d c) s = s.onDie d (fun m => m.readEntry d c.val 0 none c.bad (fun m => m.arrayStart d c.val)) := (rfl)

theorem exec_tileOpen (d : Fin 8) (c : Fin 32) (s : State) :
    exec (.tileOpen d c) s = s.onDie d (fun m => m.tileOpen d c) := (rfl)

theorem exec_operandFetchComplete (d : Fin 8) (c : Fin 32) (seq block : Nat) (op : Fin 4) (s : State) :
    exec (.operandFetchComplete d c seq block op) s = s.onDie d (fun m => m.operandFetch d c seq block op) := (rfl)

theorem exec_kGroupEnter (d : Fin 8) (c : Fin 32) (upset : Met (Option (Nat × Nat × Nat))) (s : State) :
    exec (.kGroupEnter d c upset) s = s.onDie d (fun m => m.arrayCycle d c upset.val upset.bad) := (rfl)

theorem exec_spill (d : Fin 8) (c : Fin 32) (disagree : Bool) (s : State) :
    exec (.spill d c disagree) s = s.onDie d (fun m => m.spill d c disagree) := (rfl)

theorem exec_spillComplete (d : Fin 8) (c : Fin 32) (s : State) :
    exec (.spillComplete d c) s = s.onDie d (fun m => m.spillComplete d c) := (rfl)

theorem exec_checksumCompare (d : Fin 8) (c : Fin 32) (s : State) :
    exec (.checksumCompare d c) s = s.onDie d (fun m => m.checksumCompare d c) := (rfl)

theorem exec_tileRelease (d : Fin 8) (c : Fin 32) (s : State) :
    exec (.tileRelease d c) s = s.onDie d (fun m => (m.tileRelease d c).planWindow d c) := (rfl)

theorem exec_arrCfgWrite (who : BusWho) (pa n value hw : Nat) (s : State) :
    exec (.arrCfgWrite who pa n value hw) s = s.onRegs (fun id _ => id.reg == .arrCfg) who pa n value hw := (rfl)

theorem exec_arrSpareMapWrite (who : BusWho) (pa n value hw : Nat) (s : State) :
    exec (.arrSpareMapWrite who pa n value hw) s = s.onRegs (fun id _ => id.reg == .arrSpareMap) who pa n value hw := (rfl)

theorem exec_sumacPredictionRead (d : Fin 8) (c : Fin 32) (s : State) :
    exec (.sumacPredictionRead d c) s = s.onDie d (fun m => m.predictionRead d c) := (rfl)

theorem exec_zmapActualRead (d : Fin 8) (c : Fin 32) (seq : Nat) (s : State) :
    exec (.zmapActualRead d c seq) s = s.onDie d (fun m => m.actualRead d c seq) := (rfl)

theorem exec_zmapVerifyRead (d : Fin 8) (c : Fin 32) (seq : Nat) (s : State) :
    exec (.zmapVerifyRead d c seq) s = s.onDie d (fun m => m.verifyRead d c seq) := (rfl)

theorem exec_sumacCorrection (d : Fin 8) (c : Fin 32) (s : State) :
    exec (.sumacCorrection d c) s = s.onDie d (fun m => m.correction d c) := (rfl)

theorem exec_sumFoldEntry (who : BusWho) (pa n value hw : Nat) (s : State) :
    exec (.sumFoldEntry who pa n value hw) s = s.onRegs (fun id w => id.reg == .sumFold && Fld.sumFold_all.of w.raw == 0) who pa n value hw := (rfl)

theorem exec_sumFoldAll (who : BusWho) (pa n value hw : Nat) (s : State) :
    exec (.sumFoldAll who pa n value hw) s = s.onRegs (fun id w => id.reg == .sumFold && Fld.sumFold_all.of w.raw == 1) who pa n value hw := (rfl)

theorem exec_sumCtrlWrite (who : BusWho) (pa n value hw : Nat) (s : State) :
    exec (.sumCtrlWrite who pa n value hw) s = s.onRegs (fun id _ => id.reg == .sumCtrl) who pa n value hw := (rfl)

theorem exec_sumTblWrite (who : BusWho) (pa n value hw : Nat) (s : State) :
    exec (.sumTblWrite who pa n value hw) s = s.onRegs (fun id _ => id.reg == .sumTblBase || id.reg == .sumTblCfg) who pa n value hw := (rfl)

theorem exec_vectorDescriptorStart (d : Fin 8) (c : Met (Fin 32)) (s : State) :
    exec (.vectorDescriptorStart d c) s = s.onDie d (fun m => m.readEntry d c.val 1 none c.bad (fun m => m.vectorStart d c.val)) := (rfl)

theorem exec_vectorDescriptorComplete (d : Fin 8) (c : Fin 32) (s : State) :
    exec (.vectorDescriptorComplete d c) s = s.onDie d (fun m => m.vectorComplete d c) := (rfl)

theorem exec_vadd (d : Fin 8) (c : Fin 32) (s : State) :
    exec (.vadd d c) s = s.onDie d (fun m => m.vecIssue d c 0x01 (vecBin (fun f a b => f.add .rne a b) d c)) := (rfl)

theorem exec_vsub (d : Fin 8) (c : Fin 32) (s : State) :
    exec (.vsub d c) s = s.onDie d (fun m => m.vecIssue d c 0x02 (vecBin (fun f a b => f.sub .rne a b) d c)) := (rfl)

theorem exec_vmul (d : Fin 8) (c : Fin 32) (s : State) :
    exec (.vmul d c) s = s.onDie d (fun m => m.vecIssue d c 0x03 (vecBin (fun f a b => f.mul .rne a b) d c)) := (rfl)

theorem exec_vfma (d : Fin 8) (c : Fin 32) (s : State) :
    exec (.vfma d c) s = s.onDie d (fun m => m.vecIssue d c 0x04 (vecFma d c)) := (rfl)

theorem exec_vneg (d : Fin 8) (c : Fin 32) (s : State) :
    exec (.vneg d c) s = s.onDie d (fun m => m.vecIssue d c 0x05 (vecUn (fun _ => vSign false) d c)) := (rfl)

theorem exec_vabs (d : Fin 8) (c : Fin 32) (s : State) :
    exec (.vabs d c) s = s.onDie d (fun m => m.vecIssue d c 0x06 (vecUn (fun _ => vSign true) d c)) := (rfl)

theorem exec_vmin (d : Fin 8) (c : Fin 32) (s : State) :
    exec (.vmin d c) s = s.onDie d (fun m => m.vecIssue d c 0x07 (vecBin (vMinMax false) d c)) := (rfl)

theorem exec_vmax (d : Fin 8) (c : Fin 32) (s : State) :
    exec (.vmax d c) s = s.onDie d (fun m => m.vecIssue d c 0x08 (vecBin (vMinMax true) d c)) := (rfl)

theorem exec_vdiv (d : Fin 8) (c : Fin 32) (s : State) :
    exec (.vdiv d c) s = s.onDie d (fun m => m.vecIssue d c 0x09 (vecBin (fun f a b => f.div .rne a b) d c)) := (rfl)

theorem exec_vsqrt (d : Fin 8) (c : Fin 32) (s : State) :
    exec (.vsqrt d c) s = s.onDie d (fun m => m.vecIssue d c 0x0A (vecUn (fun _ f a => f.sqrt .rne a) d c)) := (rfl)

theorem exec_vrcp (d : Fin 8) (c : Fin 32) (s : State) :
    exec (.vrcp d c) s = s.onDie d (fun m => m.vecIssue d c 0x0B (vecFunc vRcp d c)) := (rfl)

theorem exec_vrsqrt (d : Fin 8) (c : Fin 32) (s : State) :
    exec (.vrsqrt d c) s = s.onDie d (fun m => m.vecIssue d c 0x0C (vecFunc vRsqrt d c)) := (rfl)

theorem exec_vexp2 (d : Fin 8) (c : Fin 32) (s : State) :
    exec (.vexp2 d c) s = s.onDie d (fun m => m.vecIssue d c 0x0D (vecFunc (vFunc 0) d c)) := (rfl)

theorem exec_vexp (d : Fin 8) (c : Fin 32) (s : State) :
    exec (.vexp d c) s = s.onDie d (fun m => m.vecIssue d c 0x0E (vecFunc (vFunc 1) d c)) := (rfl)

theorem exec_vlog2 (d : Fin 8) (c : Fin 32) (s : State) :
    exec (.vlog2 d c) s = s.onDie d (fun m => m.vecIssue d c 0x0F (vecFunc (vFunc 2) d c)) := (rfl)

theorem exec_vlog (d : Fin 8) (c : Fin 32) (s : State) :
    exec (.vlog d c) s = s.onDie d (fun m => m.vecIssue d c 0x10 (vecFunc (vFunc 3) d c)) := (rfl)

theorem exec_vtanh (d : Fin 8) (c : Fin 32) (s : State) :
    exec (.vtanh d c) s = s.onDie d (fun m => m.vecIssue d c 0x11 (vecFunc (vFunc 4) d c)) := (rfl)

theorem exec_vsigm (d : Fin 8) (c : Fin 32) (s : State) :
    exec (.vsigm d c) s = s.onDie d (fun m => m.vecIssue d c 0x12 (vecFunc (vFunc 5) d c)) := (rfl)

theorem exec_verf (d : Fin 8) (c : Fin 32) (s : State) :
    exec (.verf d c) s = s.onDie d (fun m => m.vecIssue d c 0x13 (vecFunc (vFunc 6) d c)) := (rfl)

theorem exec_vcmp (d : Fin 8) (c : Fin 32) (s : State) :
    exec (.vcmp d c) s = s.onDie d (fun m => m.vecIssue d c 0x14 (vecCmp d c)) := (rfl)

theorem exec_vsel (d : Fin 8) (c : Fin 32) (s : State) :
    exec (.vsel d c) s = s.onDie d (fun m => m.vecIssue d c 0x15 (vecSel d c)) := (rfl)

theorem exec_vclass (d : Fin 8) (c : Fin 32) (s : State) :
    exec (.vclass d c) s = s.onDie d (fun m => m.vecIssue d c 0x16 (vecClass d c)) := (rfl)

theorem exec_viadd (d : Fin 8) (c : Fin 32) (s : State) :
    exec (.viadd d c) s = s.onDie d (fun m => m.vecIssue d c 0x18 (vecInt (fun _ a b => (a + b) % 2 ^ 32) d c)) := (rfl)

theorem exec_visub (d : Fin 8) (c : Fin 32) (s : State) :
    exec (.visub d c) s = s.onDie d (fun m => m.vecIssue d c 0x19 (vecInt (fun _ a b => (a + 2 ^ 32 - b) % 2 ^ 32) d c)) := (rfl)

theorem exec_vand (d : Fin 8) (c : Fin 32) (s : State) :
    exec (.vand d c) s = s.onDie d (fun m => m.vecIssue d c 0x1A (vecInt (fun _ a b => a &&& b) d c)) := (rfl)

theorem exec_vor (d : Fin 8) (c : Fin 32) (s : State) :
    exec (.vor d c) s = s.onDie d (fun m => m.vecIssue d c 0x1B (vecInt (fun _ a b => a ||| b) d c)) := (rfl)

theorem exec_vxor (d : Fin 8) (c : Fin 32) (s : State) :
    exec (.vxor d c) s = s.onDie d (fun m => m.vecIssue d c 0x1C (vecInt (fun _ a b => a ^^^ b) d c)) := (rfl)

theorem exec_vshift (d : Fin 8) (c : Fin 32) (s : State) :
    exec (.vshift d c) s = s.onDie d (fun m => m.vecIssue d c 0x1D (vecShift d c)) := (rfl)

theorem exec_vicmp (d : Fin 8) (c : Fin 32) (s : State) :
    exec (.vicmp d c) s = s.onDie d (fun m => m.vecIssue d c 0x1E (vecIcmp d c)) := (rfl)

theorem exec_vrsum (d : Fin 8) (c : Fin 32) (s : State) :
    exec (.vrsum d c) s = s.onDie d (fun m => m.vecIssue d c 0x20 (vecSum d c)) := (rfl)

theorem exec_vrmax (d : Fin 8) (c : Fin 32) (s : State) :
    exec (.vrmax d c) s = s.onDie d (fun m => m.vecIssue d c 0x21 (vecExtreme true false d c)) := (rfl)

theorem exec_vrmin (d : Fin 8) (c : Fin 32) (s : State) :
    exec (.vrmin d c) s = s.onDie d (fun m => m.vecIssue d c 0x22 (vecExtreme false false d c)) := (rfl)

theorem exec_vramax (d : Fin 8) (c : Fin 32) (s : State) :
    exec (.vramax d c) s = s.onDie d (fun m => m.vecIssue d c 0x23 (vecExtreme true true d c)) := (rfl)

theorem exec_vperm (d : Fin 8) (c : Fin 32) (s : State) :
    exec (.vperm d c) s = s.onDie d (fun m => m.vecIssue d c 0x28 (vecPerm d c)) := (rfl)

theorem exec_vilv (d : Fin 8) (c : Fin 32) (s : State) :
    exec (.vilv d c) s = s.onDie d (fun m => m.vecIssue d c 0x29 (vecIlv d c)) := (rfl)

theorem exec_vdilv (d : Fin 8) (c : Fin 32) (s : State) :
    exec (.vdilv d c) s = s.onDie d (fun m => m.vecIssue d c 0x2A (vecDilv d c)) := (rfl)

theorem exec_vrot (d : Fin 8) (c : Fin 32) (s : State) :
    exec (.vrot d c) s = s.onDie d (fun m => m.vecIssue d c 0x2B (vecRot d c)) := (rfl)

theorem exec_vcvt (d : Fin 8) (c : Fin 32) (s : State) :
    exec (.vcvt d c) s = s.onDie d (fun m => m.vecIssue d c 0x30 (vecVcvt d c)) := (rfl)

theorem exec_vcvts (d : Fin 8) (c : Fin 32) (s : State) :
    exec (.vcvts d c) s = s.onDie d (fun m => m.vecIssue d c 0x31 (vecVcvts d c)) := (rfl)

theorem exec_vsplit (d : Fin 8) (c : Fin 32) (s : State) :
    exec (.vsplit d c) s = s.onDie d (fun m => m.vecIssue d c 0x32 (vecVsplit d c)) := (rfl)

theorem exec_vunpk (d : Fin 8) (c : Fin 32) (s : State) :
    exec (.vunpk d c) s = s.onDie d (fun m => m.vecIssue d c 0x33 (vecVunpk d c)) := (rfl)

theorem exec_vld (d : Fin 8) (c : Fin 32) (s : State) :
    exec (.vld d c) s = s.onDie d (fun m => m.vecIssue d c 0x38 (vecVld d c)) := (rfl)

theorem exec_vst (d : Fin 8) (c : Fin 32) (s : State) :
    exec (.vst d c) s = s.onDie d (fun m => m.vecIssue d c 0x39 (vecVst false d c)) := (rfl)

theorem exec_vlds (d : Fin 8) (c : Fin 32) (s : State) :
    exec (.vlds d c) s = s.onDie d (fun m => m.vecIssue d c 0x3A (vecVlds d c)) := (rfl)

theorem exec_vsts (d : Fin 8) (c : Fin 32) (s : State) :
    exec (.vsts d c) s = s.onDie d (fun m => m.vecIssue d c 0x3B (vecVsts d c)) := (rfl)

theorem exec_vsta (d : Fin 8) (c : Fin 32) (s : State) :
    exec (.vsta d c) s = s.onDie d (fun m => m.vecIssue d c 0x3C (vecVst true d c)) := (rfl)

theorem exec_vold (d : Fin 8) (c : Fin 32) (ecc : Option (Bool × Nat)) (s : State) :
    exec (.vold d c ecc) s = s.onDie d (fun m => m.vecIssue d c 0x3D (vecVold ecc d c)) := (rfl)

theorem exec_vost (d : Fin 8) (c : Fin 32) (s : State) :
    exec (.vost d c) s = s.onDie d (fun m => m.vecIssue d c 0x3E (vecVost d c)) := (rfl)

theorem exec_vacc (d : Fin 8) (c : Met (Fin 32)) (s : State) :
    exec (.vacc d c) s = s.onDie d (fun m => m.vecIssue d c.val 0x40 (vecVacc c.bad d c.val)) := (rfl)

theorem exec_zmapclr (d : Fin 8) (c : Fin 32) (s : State) :
    exec (.zmapclr d c) s = s.onDie d (fun m => m.vecIssue d c 0x48 (vecZmapclr d c)) := (rfl)

theorem exec_zmapwr (d : Fin 8) (c : Fin 32) (s : State) :
    exec (.zmapwr d c) s = s.onDie d (fun m => m.vecIssue d c 0x49 (vecZmapwr d c)) := (rfl)

theorem exec_sli (d : Fin 8) (c : Fin 32) (s : State) :
    exec (.sli d c) s = s.onDie d (fun m => m.vecIssue d c 0x60 (vecScalar (fun _ v => v.simm) d c)) := (rfl)

theorem exec_sadd (d : Fin 8) (c : Fin 32) (s : State) :
    exec (.sadd d c) s = s.onDie d (fun m => m.vecIssue d c 0x61 (vecScalar (fun r v => (r.sreg v.sa : Int) + r.sreg v.sb + v.simm) d c)) := (rfl)

theorem exec_smul (d : Fin 8) (c : Fin 32) (s : State) :
    exec (.smul d c) s = s.onDie d (fun m => m.vecIssue d c 0x62 (vecScalar (fun r v => (r.sreg v.sa : Int) * r.sreg v.sb) d c)) := (rfl)

theorem exec_sloop (d : Fin 8) (c : Fin 32) (s : State) :
    exec (.sloop d c) s = s.onDie d (fun m => m.vecIssue d c 0x63 (vecSloop d c)) := (rfl)

theorem exec_sjmp (d : Fin 8) (c : Fin 32) (s : State) :
    exec (.sjmp d c) s = s.onDie d (fun m => m.vecIssue d c 0x64 (vecSjmp d c)) := (rfl)

theorem exec_vecSrWrite (who : BusWho) (pa n value hw : Nat) (s : State) :
    exec (.vecSrWrite who pa n value hw) s = s.onRegs (fun id _ => id.reg == .vecSrKey || id.reg == .vecSrCtrLo || id.reg == .vecSrCtrHi) who pa n value hw := (rfl)

theorem exec_vecSclWrite (who : BusWho) (pa n value hw : Nat) (s : State) :
    exec (.vecSclWrite who pa n value hw) s = s.onRegs (fun id _ => id.reg == .vecSclBase || id.reg == .vecSclCfg) who pa n value hw := (rfl)

theorem exec_stepPendWrite (who : BusWho) (pa n value hw : Nat) (s : State) :
    exec (.stepPendWrite who pa n value hw) s = s.onRegs (fun id _ => id.reg == .vecStepPend) who pa n value hw := (rfl)

theorem exec_stepActWrite (who : BusWho) (pa n value hw : Nat) (s : State) :
    exec (.stepActWrite who pa n value hw) s = s.onRegs (fun id _ => id.reg == .vecStepAct) who pa n value hw := (rfl)

theorem exec_moverCopy (d : Fin 8) (c : Fin 32) (seq : Met Nat) (s : State) :
    exec (.moverCopy d c seq) s = s.onDie d (fun m => m.readEntry d c 2 (some seq.val) seq.bad (fun m => m.mover d c seq.val 0)) := (rfl)

theorem exec_moverLoadOperandCache (d : Fin 8) (c : Fin 32) (seq : Met Nat) (s : State) :
    exec (.moverLoadOperandCache d c seq) s = s.onDie d (fun m => m.readEntry d c 2 (some seq.val) seq.bad (fun m => m.mover d c seq.val 1)) := (rfl)

theorem exec_moverStoreOperandCache (d : Fin 8) (c : Fin 32) (seq : Met Nat) (s : State) :
    exec (.moverStoreOperandCache d c seq) s = s.onDie d (fun m => m.readEntry d c 2 (some seq.val) seq.bad (fun m => m.mover d c seq.val 2)) := (rfl)

theorem exec_moverFillAStager (d : Fin 8) (c : Fin 32) (seq : Met Nat) (s : State) :
    exec (.moverFillAStager d c seq) s = s.onDie d (fun m => m.readEntry d c 2 (some seq.val) seq.bad (fun m => m.mover d c seq.val 3)) := (rfl)

theorem exec_moverFillBStager (d : Fin 8) (c : Fin 32) (seq : Met Nat) (s : State) :
    exec (.moverFillBStager d c seq) s = s.onDie d (fun m => m.readEntry d c 2 (some seq.val) seq.bad (fun m => m.mover d c seq.val 4)) := (rfl)

theorem exec_moverPrefetch (d : Fin 8) (c : Fin 32) (seq : Met Nat) (s : State) :
    exec (.moverPrefetch d c seq) s = s.onDie d (fun m => m.readEntry d c 2 (some seq.val) seq.bad (fun m => m.mover d c seq.val 5)) := (rfl)

theorem exec_moverFillPattern (d : Fin 8) (c : Fin 32) (seq : Met Nat) (s : State) :
    exec (.moverFillPattern d c seq) s = s.onDie d (fun m => m.readEntry d c 2 (some seq.val) seq.bad (fun m => m.mover d c seq.val 6)) := (rfl)

theorem exec_moverAccumulateCopy (d : Fin 8) (c : Fin 32) (seq : Met Nat) (s : State) :
    exec (.moverAccumulateCopy d c seq) s = s.onDie d (fun m => m.readEntry d c 2 (some seq.val) seq.bad (fun m => m.mover d c seq.val 7)) := (rfl)

theorem exec_moverDescriptorComplete (d : Fin 8) (c : Fin 32) (seq : Nat) (s : State) :
    exec (.moverDescriptorComplete d c seq) s = s.onDie d (fun m => m.moverComplete d c seq) := (rfl)

theorem exec_allReduce (d : Met (Fin 8)) (s : State) :
    exec (.allReduce d) s = s.onWaits d.val (fun m => m.readEntry d.val 0 3 none d.bad (fun m => m.collective d.val 0)) := (rfl)

theorem exec_reduceScatter (d : Met (Fin 8)) (s : State) :
    exec (.reduceScatter d) s = s.onWaits d.val (fun m => m.readEntry d.val 0 3 none d.bad (fun m => m.collective d.val 1)) := (rfl)

theorem exec_allGather (d : Met (Fin 8)) (s : State) :
    exec (.allGather d) s = s.onWaits d.val (fun m => m.readEntry d.val 0 3 none d.bad (fun m => m.collective d.val 2)) := (rfl)

theorem exec_allToAllV (d : Met (Fin 8)) (s : State) :
    exec (.allToAllV d) s = s.onWaits d.val (fun m => m.readEntry d.val 0 3 none d.bad (fun m => m.collective d.val 3)) := (rfl)

theorem exec_expertCombine (d : Met (Fin 8)) (s : State) :
    exec (.expertCombine d) s = s.onWaits d.val (fun m => m.readEntry d.val 0 3 none d.bad (fun m => m.collective d.val 4)) := (rfl)

theorem exec_collectiveMessageReceive (d : Fin 8) (x : ColMsg) (s : State) :
    exec (.collectiveMessageReceive d x) s = s.onWaits d (fun m => m.colMessage d x) := (rfl)

theorem exec_collectiveEndNotice (d : Fin 8) (g seq status : Nat) (s : State) :
    exec (.collectiveEndNotice d g seq status) s = s.onWaits d (fun m => m.colNotice d g seq status) := (rfl)

theorem exec_collectiveDeadline (d : Fin 8) (g : Nat) (s : State) :
    exec (.collectiveDeadline d g) s = s.onWaits d (fun m => m.colDeadline d g) := (rfl)

theorem exec_collectiveComplete (d : Fin 8) (g : Nat) (s : State) :
    exec (.collectiveComplete d g) s = s.onWaits d (fun m => m.colComplete d g) := (rfl)

theorem exec_colResumeWrite (who : BusWho) (pa n value hw : Nat) (s : State) :
    exec (.colResumeWrite who pa n value hw) s = s.onModule (fun m => (m.rowWrite (fun id _ => id.reg == .colResume) who pa n value hw).nutmegAll) := (rfl)

theorem exec_colGrpWrite (who : BusWho) (pa n value hw : Nat) (s : State) :
    exec (.colGrpWrite who pa n value hw) s = s.onRegs (fun id _ => id.reg == .colGrpBase || id.reg == .colGrpCfg) who pa n value hw := (rfl)

theorem exec_syncCtrWrite (who : BusWho) (pa n value hw : Nat) (s : State) :
    exec (.syncCtrWrite who pa n value hw) s = s.onRegs (fun id _ => id.reg == .syncCtr) who pa n value hw := (rfl)

theorem exec_syncCtrAddWrite (who : BusWho) (pa n value hw : Nat) (s : State) :
    exec (.syncCtrAddWrite who pa n value hw) s = s.onRegs (fun id _ => id.reg == .syncCtrAdd) who pa n value hw := (rfl)

theorem exec_syncCtrSubWrite (who : BusWho) (pa n value hw : Nat) (s : State) :
    exec (.syncCtrSubWrite who pa n value hw) s = s.onRegs (fun id _ => id.reg == .syncCtrSub) who pa n value hw := (rfl)

theorem exec_syncCtrArmWrite (who : BusWho) (pa n value hw : Nat) (s : State) :
    exec (.syncCtrArmWrite who pa n value hw) s = s.onRegs (fun id _ => id.reg == .syncCtrArm) who pa n value hw := (rfl)

theorem exec_syncBarCfgWrite (who : BusWho) (pa n value hw : Nat) (s : State) :
    exec (.syncBarCfgWrite who pa n value hw) s = s.onRegs (fun id _ => id.reg == .syncBarCfg || id.reg == .syncMbarCfg || id.reg == .syncMbarDies) who pa n value hw := (rfl)

theorem exec_syncBarWdogWrite (who : BusWho) (pa n value hw : Nat) (s : State) :
    exec (.syncBarWdogWrite who pa n value hw) s = s.onRegs (fun id _ => id.reg == .syncBarWdog) who pa n value hw := (rfl)

theorem exec_remoteAddReceive (node sdie inc seq job : Nat) (die : Fin 8) (ctr v : Nat) (s : State) :
    exec (.remoteAddReceive node sdie inc seq job die ctr v) s = s.onData (fun m => m.remoteAddReceive node sdie inc seq job die ctr v) := (rfl)

theorem exec_remoteRequestReceive (node sdie inc seq job : Nat) (op : RemoteOp) (s : State) :
    exec (.remoteRequestReceive node sdie inc seq job op) s = s.onData (fun m => m.remoteReceive node sdie inc seq job op) := (rfl)

theorem exec_remoteRejectReceive (d : Fin 8) (node seq : Nat) (s : State) :
    exec (.remoteRejectReceive d node seq) s = s.onDie d (fun m => m.remoteReject d node seq) := (rfl)

theorem exec_remoteResponseReceive (d : Fin 8) (node seq : Nat) (bs : List Byte) (poison fault : Bool) (s : State) :
    exec (.remoteResponseReceive d node seq bs poison fault) s = s.onDie d (fun m => m.remoteResponse d node seq bs poison fault) := (rfl)

theorem exec_remoteResend (d : Fin 8) (node seq : Nat) (s : State) :
    exec (.remoteResend d node seq) s = s.onDie d (fun m => m.remoteResend d node seq) := (rfl)

theorem exec_edgeRequestReceive (d : Fin 8) (p : Fin 8) (node tag : Nat) (op : RemoteOp) (s : State) :
    exec (.edgeRequestReceive d p node tag op) s = s.onDie d (fun m => m.edgeRequest d p node tag op) := (rfl)

theorem exec_dieCacheRequest (d : Fin 9) (req : Requester) (op : CacheOp) (mirror : Bool) (err : Option CacheErr) (s : State) :
    exec (.dieCacheRequest d req op mirror err) s = s.onNine d (fun m => m.dcRequest d req op mirror err) := (rfl)

theorem exec_dieCacheMissFill (d : Fin 9) (a : Nat) (bankFull : Bool) (s : State) :
    exec (.dieCacheMissFill d a bankFull) s = s.onNine d (fun m => (m.missFill d a bankFull).waitersDrain) := (rfl)

theorem exec_accumulateWriteApply (req : Requester) (a width : Nat) (bs : List Byte) (poison mirror : Bool) (s : State) :
    exec (.accumulateWriteApply req a width bs poison mirror) s = s.onData (fun m => m.accRequest req a width bs poison mirror) := (rfl)

theorem exec_remoteLineSweep (d : Fin 8) (set : Fin 2048) (s : State) :
    exec (.remoteLineSweep d set) s = s.onDie d (fun m => m.sweep d set) := (rfl)

theorem exec_cloveTrackerExpire (d : Fin 8) (slice : Fin 64) (s : State) :
    exec (.cloveTrackerExpire d slice) s = s.onDie d (fun m => m.cloveExpire d slice) := (rfl)

theorem exec_missSlotIssue (d : Fin 8) (c : Fin 32) (s : State) :
    exec (.missSlotIssue d c) s = s.onDie d (fun m => m.slotIssue d c) := (rfl)

theorem exec_bankRetryIssue (d : Fin 8) (a : Nat) (s : State) :
    exec (.bankRetryIssue d a) s = s.onDie d (fun m => m.bankRetry d a) := (rfl)

theorem exec_missReissue (d : Fin 8) (a : Nat) (s : State) :
    exec (.missReissue d a) s = s.onDie d (fun m => m.missReissue d a) := (rfl)

theorem exec_dcPinCmdPin (who : BusWho) (pa n value hw : Nat) (s : State) :
    exec (.dcPinCmdPin who pa n value hw) s = s.onRegs (fun id w => id.reg == .dcPinCmd && Fld.dcPinCmd_op.of w.raw == 1) who pa n value hw := (rfl)

theorem exec_dcPinCmdUnpin (who : BusWho) (pa n value hw : Nat) (s : State) :
    exec (.dcPinCmdUnpin who pa n value hw) s = s.onRegs (fun id w => id.reg == .dcPinCmd && Fld.dcPinCmd_op.of w.raw == 2) who pa n value hw := (rfl)

theorem exec_pinCommandComplete (d : Fin 8) (s : State) :
    exec (.pinCommandComplete d) s = s.onDie d (fun m => m.pinComplete d) := (rfl)

theorem exec_pinPressureWindow (d : Fin 8) (s : State) :
    exec (.pinPressureWindow d) s = s.onDie d (fun m => m.pinPressure d) := (rfl)

theorem exec_deadRangeDeclare (who : BusWho) (pa n value hw : Nat) (s : State) :
    exec (.deadRangeDeclare who pa n value hw) s = s.onRegs (fun id w => id.reg == .dcDeadCtl && Fld.dcDeadCtl_declare.of w.raw == 1 && Fld.dcDeadCtl_cancel.of w.raw == 0) who pa n value hw := (rfl)

theorem exec_deadRangeCancel (who : BusWho) (pa n value hw : Nat) (s : State) :
    exec (.deadRangeCancel who pa n value hw) s = s.onRegs (fun id w => id.reg == .dcDeadCtl && Fld.dcDeadCtl_cancel.of w.raw == 1) who pa n value hw := (rfl)

theorem exec_deadRangeInvalidateDone (d : Fin 8) (i : Fin 64) (s : State) :
    exec (.deadRangeInvalidateDone d i) s = s.onDie d (fun m => (m.deadDone d i).waitersDrain) := (rfl)

theorem exec_dcCfgWrite (who : BusWho) (pa n value hw : Nat) (s : State) :
    exec (.dcCfgWrite who pa n value hw) s = s.onRegs (fun id _ => id.reg == .dcCfg) who pa n value hw := (rfl)

theorem exec_dcL1CfgWrite (who : BusWho) (pa n value hw : Nat) (s : State) :
    exec (.dcL1CfgWrite who pa n value hw) s = s.onRegs (fun id _ => id.reg == .dcL1Cfg) who pa n value hw := (rfl)

theorem exec_dcPinQuotaWrite (who : BusWho) (pa n value hw : Nat) (s : State) :
    exec (.dcPinQuotaWrite who pa n value hw) s = s.onRegs (fun id _ => id.reg == .dcPinQuota) who pa n value hw := (rfl)

theorem exec_dieReset (d : Fin 8) (s : State) :
    exec (.dieReset d) s = s.onData (fun m => m.dieReset d) := (rfl)

theorem exec_dieResetComplete (d : Fin 8) (s : State) :
    exec (.dieResetComplete d) s = s.onData (fun m => (m.dieResetDone d).waitersDrain) := (rfl)

theorem exec_portLightDetect (d : Fin 8) (p : Fin 8) (lanes : Nat) (s : State) :
    exec (.portLightDetect d p lanes) s = s.onDie d (fun m => m.lightDetect d p lanes) := (rfl)

theorem exec_portTrainComplete (d : Fin 8) (p : Fin 8) (lanes : Nat) (peerValid : Bool) (s : State) :
    exec (.portTrainComplete d p lanes peerValid) s = s.onDie d (fun m => m.trainComplete d p lanes peerValid) := (rfl)

theorem exec_portNegotiate (d : Fin 8) (p : Fin 8) (x : PeerCaps) (s : State) :
    exec (.portNegotiate d p x) s = s.onDie d (fun m => m.negotiate d p x) := (rfl)

theorem exec_portLightLost (d : Fin 8) (p : Fin 8) (lanes : Nat) (s : State) :
    exec (.portLightLost d p lanes) s = s.onDie d (fun m => m.lightLost d p lanes) := (rfl)

theorem exec_portFecFail (d : Fin 8) (p : Fin 8) (lane n : Nat) (s : State) :
    exec (.portFecFail d p lane n) s = s.onDie d (fun m => m.fecFail d p lane n) := (rfl)

theorem exec_standbySwap (d : Fin 8) (p : Fin 8) (s : State) :
    exec (.standbySwap d p) s = s.onDie d (fun m => m.standbySwap d p) := (rfl)

theorem exec_portRetry (d : Fin 8) (p : Fin 8) (s : State) :
    exec (.portRetry d p) s = s.onDie d (fun m => m.portRetry d p) := (rfl)

theorem exec_fabPortCtlWrite (who : BusWho) (pa n value hw : Nat) (s : State) :
    exec (.fabPortCtlWrite who pa n value hw) s = s.onRegs (fun id _ => id.reg == .fabPortCtl) who pa n value hw := (rfl)

theorem exec_linkPacketReceive (d : Fin 8) (p : Fin 8) (e : LinkEvent) (s : State) :
    exec (.linkPacketReceive d p e) s = s.onDie d (fun m => m.linkReceive d p e) := (rfl)

theorem exec_packetForward (d : Fin 8) (x : Packet) (s : State) :
    exec (.packetForward d x) s = s.onDie d (fun m => m.forward d x) := (rfl)

theorem exec_heartbeatSend (d : Fin 8) (p : Fin 8) (s : State) :
    exec (.heartbeatSend d p) s = s.onDie d (fun m => m.heartbeatSend d p) := (rfl)

theorem exec_heartbeatReceive (d : Fin 8) (p : Fin 8) (s : State) :
    exec (.heartbeatReceive d p) s = s.onDie d (fun m => m.heartbeatReceive d p) := (rfl)

theorem exec_heartbeatTimeout (d : Fin 8) (p : Fin 8) (s : State) :
    exec (.heartbeatTimeout d p) s = s.onDie d (fun m => m.heartbeatTimeout d p) := (rfl)

theorem exec_nodeLostReceive (n : Fin 16384) (s : State) :
    exec (.nodeLostReceive n) s = s.onData (fun m => m.nodeLostReceive n) := (rfl)

theorem exec_fabRouteCtlWrite (who : BusWho) (pa n value hw : Nat) (s : State) :
    exec (.fabRouteCtlWrite who pa n value hw) s = s.onRegs (fun id _ => id.reg == .fabRouteCtl) who pa n value hw := (rfl)

theorem exec_routeEpochSwitch (d : Fin 8) (s : State) :
    exec (.routeEpochSwitch d) s = s.onDie d (fun m => m.epochSwitch d) := (rfl)

theorem exec_faultRecordDeliver (d : Fin 9) (s : State) :
    exec (.faultRecordDeliver d) s = s.onNine d (fun m => m.deliver d) := (rfl)

theorem exec_snapFqHeadWrite (who : BusWho) (pa n value hw : Nat) (s : State) :
    exec (.snapFqHeadWrite who pa n value hw) s = s.onRegs (fun id _ => id.reg == .snapFqPtr) who pa n value hw := (rfl)

theorem exec_snapFqCfgWrite (who : BusWho) (pa n value hw : Nat) (s : State) :
    exec (.snapFqCfgWrite who pa n value hw) s = s.onRegs (fun id _ => id.reg == .snapFqCfg || id.reg == .snapFqBase) who pa n value hw := (rfl)

theorem exec_snapUpdDoneWrite (who : BusWho) (pa n value hw : Nat) (s : State) :
    exec (.snapUpdDoneWrite who pa n value hw) s = s.onRegs (fun id _ => id.reg == .snapUpdDone) who pa n value hw := (rfl)

theorem exec_scheduleCaptureComplete (d : Fin 8) (s : State) :
    exec (.scheduleCaptureComplete d) s = s.onDie d (fun m => m.captureDone d) := (rfl)

theorem exec_chunkDigest (d : Fin 8) (fetched : Option (List Byte)) (s : State) :
    exec (.chunkDigest d fetched) s = s.onDie d (fun m => m.chunkDigest d fetched) := (rfl)

theorem exec_drainChunkReceive (node step : Nat) (x : DrainItem) (s : State) :
    exec (.drainChunkReceive node step x) s = s.onModule (fun m => m.drainReceive node step x) := (rfl)

theorem exec_drainChunkAck (d : Fin 8) (r : DrainAnswer) (s : State) :
    exec (.drainChunkAck d r) s = s.onDie d (fun m => m.drainAck d r) := (rfl)

theorem exec_holdCopyComplete (s : State) :
    exec (.holdCopyComplete) s = s.onModule (fun m => m.holdCopyDone) := (rfl)

theorem exec_pageRebuild (d : Fin 8) (a : Nat) (data : List Byte) (s : State) :
    exec (.pageRebuild d a data) s = s.onDie d (fun m => m.pageRebuild d a data) := (rfl)

theorem exec_d2dLinkFault (a b : Fin 9) (l : Fin 2) (s : State) :
    exec (.d2dLinkFault a b l) s = s.onData (fun m => m.d2dFault a b l) := (rfl)

theorem exec_d2dLinkRestored (a b : Fin 9) (l : Fin 2) (s : State) :
    exec (.d2dLinkRestored a b l) s = s.onData (fun m => m.d2dRestored a b l) := (rfl)

theorem exec_livenessBeat (d : Fin 8) (s : State) :
    exec (.livenessBeat d) s = s.onDie d (fun m => m.beat d) := (rfl)

theorem exec_dieHangDetect (d : Fin 8) (s : State) :
    exec (.dieHangDetect d) s = s.onData (fun m => m.dieHang d) := (rfl)

theorem exec_cpWatchdogExpire (s : State) :
    exec (.cpWatchdogExpire) s = s.onModule (fun m => m.cpWatchdog) := (rfl)

theorem exec_mcWatchdogExpire (s : State) :
    exec (.mcWatchdogExpire) s = s.onModule (fun m => m.mcWatchdog) := (rfl)

theorem exec_spWatchdogExpire (s : State) :
    exec (.spWatchdogExpire) s = s.onModule (fun m => m.spWatchdog) := (rfl)

theorem exec_d2dBeatLost (s : State) :
    exec (.d2dBeatLost) s = s.onData (fun m => m.beatLost) := (rfl)

theorem exec_pldmPowerLimit (watts : Nat) (s : State) :
    exec (.pldmPowerLimit watts) s = s.onModule (fun m => m.pldmLimit watts) := (rfl)

theorem exec_powerSample (d : Fin 9) (compute : Nat) (stk : List Nat) (optics : Nat) (s : State) :
    exec (.powerSample d compute stk optics) s = s.onNine d (fun m => m.powerRow d compute stk optics) := (rfl)

theorem exec_estimatorRescale (d : Fin 8) (activity : List Nat) (uncore : Nat) (s : State) :
    exec (.estimatorRescale d activity uncore) s = s.onDie d (fun m => m.rescale d activity uncore) := (rfl)

theorem exec_governorWindow (d : Fin 9) (unit input : Nat) (s : State) :
    exec (.governorWindow d unit input) s = s.onNine d (fun m => m.governor d unit input) := (rfl)

theorem exec_supplyDroop (d : Fin 8) (drop : Nat) (s : State) :
    exec (.supplyDroop d drop) s = s.onDie d (fun m => m.supplyDroop d drop) := (rfl)

theorem exec_ballastIssue (d : Fin 8) (c : Fin 32) (s : State) :
    exec (.ballastIssue d c) s = s.onDie d (fun m => m.ballast d c) := (rfl)

theorem exec_nutmegTaperStart (d : Fin 8) (s : State) :
    exec (.nutmegTaperStart d) s = s.onDie d (fun m => m.taperStart d) := (rfl)

theorem exec_pwrNutWrite (who : BusWho) (pa n value hw : Nat) (s : State) :
    exec (.pwrNutWrite who pa n value hw) s = s.onModule (fun m =>
      (m.rowWrite (fun id _ => [Reg.pwrNutCfg, .pwrNutDslot, .pwrNutMslot, .pwrNutGrp, .pwrNutProf].contains id.reg) who pa n value hw).nutmegAll) := (rfl)

theorem exec_thermalSample (d : Fin 9) (tj : Nat) (stk : List Nat) (optics : Nat) (s : State) :
    exec (.thermalSample d tj stk optics) s = s.onNine d (fun m => m.thermalSample d tj stk optics) := (rfl)

theorem exec_droopEnd (d : Fin 8) (s : State) :
    exec (.droopEnd d) s = s.onDie d (fun m => m.droopEnd d) := (rfl)

theorem exec_mbxReqTailWrite (who : BusWho) (pa n value hw : Nat) (s : State) :
    exec (.mbxReqTailWrite who pa n value hw) s = s.onRegs (fun id _ => id.reg == .mbxReqTail) who pa n value hw := (rfl)

theorem exec_mbxRspHeadWrite (who : BusWho) (pa n value hw : Nat) (s : State) :
    exec (.mbxRspHeadWrite who pa n value hw) s = s.onRegs (fun id _ => id.reg == .mbxRspHead) who pa n value hw := (rfl)

theorem exec_mcRelayRequest (ws : List Nat) (s : State) :
    exec (.mcRelayRequest ws) s = s.onModule (fun m => if m.pins.mcUp then m.mcRelay ws else m) := (rfl)

theorem exec_mailboxRequestTake (k : Fin 32) (s : State) :
    exec (.mailboxRequestTake k) s = s.onCp (fun m => m.mbxTake k) := (rfl)

theorem exec_openMailbox (k : Fin 32) (s : State) :
    exec (.openMailbox k) s = s.onModule (fun m => m.mbxRun k 0x01 (fun m c => m.cmdOpen c)) := (rfl)

theorem exec_query (k : Fin 32) (s : State) :
    exec (.query k) s = s.onModule (fun m => m.mbxRun k 0x02 (fun m c => m.cmdQuery c)) := (rfl)

theorem exec_configure (k : Fin 32) (s : State) :
    exec (.configure k) s = s.onModule (fun m => m.mbxRun k 0x03 (fun m c => m.cmdConfigure c)) := (rfl)

theorem exec_partitionCreate (k : Fin 32) (s : State) :
    exec (.partitionCreate k) s = s.onModule (fun m => m.mbxRun k 0x10 (fun m c => m.cmdCreate c)) := (rfl)

theorem exec_partitionDestroy (k : Fin 32) (s : State) :
    exec (.partitionDestroy k) s = s.onModule (fun m => m.mbxRun k 0x11 (fun m c => m.cmdDestroy c)) := (rfl)

theorem exec_jobOpen (k : Fin 32) (s : State) :
    exec (.jobOpen k) s = s.onModule (fun m => m.mbxRun k 0x12 (fun m c => m.cmdJobOpen c)) := (rfl)

theorem exec_jobClose (k : Fin 32) (s : State) :
    exec (.jobClose k) s = s.onModule (fun m => m.mbxRun k 0x13 (fun m c => m.cmdJobClose c)) := (rfl)

theorem exec_abort (k : Fin 32) (s : State) :
    exec (.abort k) s = s.onCp (fun m => m.abortTake k) := (rfl)

theorem exec_abortComplete (slot : Fin 8) (s : State) :
    exec (.abortComplete slot) s = s.onCp (fun m => m.abortComplete slot) := (rfl)

theorem exec_abortEscalate (slot : Fin 8) (s : State) :
    exec (.abortEscalate slot) s = s.onCp (fun m => m.abortEscalate slot) := (rfl)

theorem exec_routeUpdate (k : Fin 32) (s : State) :
    exec (.routeUpdate k) s = s.onModule (fun m => m.mbxRun k 0x15 (fun m c => m.cmdRoute c)) := (rfl)

theorem exec_snapConfig (k : Fin 32) (s : State) :
    exec (.snapConfig k) s = s.onModule (fun m => m.mbxRun k 0x20 (fun m c => m.cmdSnapConfig c)) := (rfl)

theorem exec_snapRestore (k : Fin 32) (feed : RestoreFeed) (s : State) :
    exec (.snapRestore k feed) s = s.onModule (fun m => m.mbxRun k 0x21 (fun m c => m.cmdRestore c feed)) := (rfl)

theorem exec_marginStart (k : Fin 32) (s : State) :
    exec (.marginStart k) s = s.onModule (fun m => m.mbxRun k 0x30 (fun m c => m.cmdMarginStart c)) := (rfl)

theorem exec_marginStatus (k : Fin 32) (s : State) :
    exec (.marginStatus k) s = s.onModule (fun m => m.mbxRun k 0x31 (fun m c => m.cmdMarginStatus c)) := (rfl)

theorem exec_marginCancel (k : Fin 32) (s : State) :
    exec (.marginCancel k) s = s.onModule (fun m => m.mbxRun k 0x32 (fun m c => m.cmdMarginCancel c)) := (rfl)

theorem exec_fuseStatus (k : Fin 32) (s : State) :
    exec (.fuseStatus k) s = s.onModule (fun m => m.mbxRun k 0x40 (fun m c => m.cmdFuse c)) := (rfl)

theorem exec_ftStatus (k : Fin 32) (s : State) :
    exec (.ftStatus k) s = s.onModule (fun m => m.mbxRun k 0x41 (fun m c => m.cmdFtStatus c)) := (rfl)

theorem exec_counterSnapshot (k : Fin 32) (s : State) :
    exec (.counterSnapshot k) s = s.onModule (fun m => m.mbxRun k 0x42 (fun m c => m.cmdCounters c)) := (rfl)

theorem exec_debugChallenge (k : Fin 32) (s : State) :
    exec (.debugChallenge k) s = s.onModule (fun m => m.debugRun k false) := (rfl)

theorem exec_debugUnlock (k : Fin 32) (s : State) :
    exec (.debugUnlock k) s = s.onModule (fun m => m.debugRun k true) := (rfl)

theorem exec_attestationReport (relay : Nat) (nonce : List Byte) (waiting : Nat) (s : State) :
    exec (.attestationReport relay nonce waiting) s = s.onModule (fun m => m.attestAsk relay (some nonce) waiting) := (rfl)

theorem exec_attestationCertificates (relay waiting : Nat) (s : State) :
    exec (.attestationCertificates relay waiting) s = s.onModule (fun m => m.attestAsk relay none waiting) := (rfl)

theorem exec_i3cEntdaa (addr : Fin 128) (s : State) :
    exec (.i3cEntdaa addr) s = s.onModule (fun m => m.i3cEntdaa addr) := (rfl)

theorem exec_i3cSetdasa (static addr : Fin 128) (s : State) :
    exec (.i3cSetdasa static addr) s = s.onModule (fun m => m.i3cSetdasa static addr) := (rfl)

theorem exec_debugPortAccess (tck tms tdi trst : Bool) (s : State) :
    exec (.debugPortAccess tck tms tdi trst) s = s.onModule (fun m => m.debugPort tck tms tdi trst) := (rfl)

end Sys2Proof.Machine
end

