-- ==== Sys2Proof/Laws/Memory.lean ====
section
/-! SUPPORT. The laws of memory: what a byte reads as after each operation that stores, and that every one of them keeps the canonical
form of memory and of its check symbols. -/

namespace Sys2Proof.Machine

/-! ### One byte -/

theorem Mach.byte_setByte_same (m : Mach) (a : Nat) (b : Byte) (h : Memory.wf m.mem = true) : (m.setByte a b).byte a = b :=
  smGet_smSet_same _ _ _ _ (smSorted_of_smWf _ _ h)

theorem Mach.byte_setByte_ne (m : Mach) (a x : Nat) (b : Byte) (h : Memory.wf m.mem = true) (hx : x ≠ a) :
    (m.setByte a b).byte x = m.byte x := smGet_smSet_ne _ _ _ _ _ (smSorted_of_smWf _ _ h) hx

theorem Mach.wf_setByte (m : Mach) (a : Nat) (b : Byte) (h : Memory.wf m.mem = true) : Memory.wf (m.setByte a b).mem = true :=
  smWf_smSet _ _ _ _ h

/-! ### A run of bytes -/

theorem Mach.wf_setRaw (m : Mach) (a : Nat) (bs : List Byte) (h : Memory.wf m.mem = true) : Memory.wf (m.setRaw a bs).mem = true := by
  induction bs generalizing m a with
  | nil => exact h
  | cons b bs ih => exact ih _ _ (m.wf_setByte a b h)

/-- A byte outside the run reads as before. -/
theorem Mach.byte_setRaw_out (m : Mach) (a x : Nat) (bs : List Byte) (h : Memory.wf m.mem = true) (hx : x < a ∨ a + bs.length ≤ x) :
    (m.setRaw a bs).byte x = m.byte x := by
  induction bs generalizing m a with
  | nil => rfl
  | cons b bs ih =>
    simp only [List.length_cons] at hx
    rw [Mach.setRaw, ih _ _ (m.wf_setByte a b h) (by omega), m.byte_setByte_ne _ _ _ h (by omega)]

/-- A byte of the run reads as stored. -/
theorem Mach.byte_setRaw_in (m : Mach) (a i : Nat) (bs : List Byte) (h : Memory.wf m.mem = true) (hi : i < bs.length) :
    (m.setRaw a bs).byte (a + i) = bs.getD i 0#8 := by
  induction bs generalizing m a i with
  | nil => simp at hi
  | cons b bs ih =>
    have hw := m.wf_setByte a b h
    cases i with
    | zero => rw [Mach.setRaw, Mach.byte_setRaw_out _ _ _ _ hw (by omega)]; exact m.byte_setByte_same _ _ h
    | succ i =>
      simp only [List.length_cons] at hi
      rw [Mach.setRaw, show a + (i + 1) = a + 1 + i by omega, ih _ _ _ hw (by omega)]; rfl

/-- Storing bytes changes memory alone. -/
theorem Mach.setRaw_rest (m : Mach) (a : Nat) (bs : List Byte) :
    (m.setRaw a bs).ecc = m.ecc ∧ (m.setRaw a bs).regs = m.regs ∧ (m.setRaw a bs).dies = m.dies ∧ (m.setRaw a bs).cores = m.cores ∧
      (m.setRaw a bs).parts = m.parts ∧ (m.setRaw a bs).cp = m.cp := by
  induction bs generalizing m a with
  | nil => exact ⟨rfl, rfl, rfl, rfl, rfl, rfl⟩
  | cons b bs ih => exact ih (m.setByte a b) (a + 1)

/-! ### Sectors of stacked memory -/

theorem Mach.storeSector_mem (m : Mach) (a : Nat) (bs : List Byte) (poison : Bool) :
    (m.storeSector a bs poison).mem = (m.setRaw (a / 32 * 32) bs).mem := by
  have h : ∀ (m m' : Mach) (a : Nat) (bs : List Byte), m.mem = m'.mem → (m.setRaw a bs).mem = (m'.setRaw a bs).mem := by
    intro m m' a bs e
    induction bs generalizing m m' a with
    | nil => exact e
    | cons b bs ih => exact ih _ _ _ (by simp only [Mach.setByte, e])
  exact h _ _ _ _ rfl

theorem Mach.storeSector_ecc (m : Mach) (a : Nat) (bs : List Byte) (poison : Bool) :
    (m.storeSector a bs poison).ecc = smSet 0 m.ecc (a / 32) (if poison then poisonVec else 0) := by
  simp only [Mach.storeSector]
  rw [show a / 32 * 32 / 32 = a / 32 by omega]; rfl

theorem Mach.wf_storeSector (m : Mach) (a : Nat) (bs : List Byte) (poison : Bool) (h : Memory.wf m.mem = true) :
    Memory.wf (m.storeSector a bs poison).mem = true := by
  rw [Mach.storeSector_mem]; exact m.wf_setRaw _ _ h

theorem Mach.wf_storeSector_ecc (m : Mach) (a : Nat) (bs : List Byte) (poison : Bool) (h : smWf 0 m.ecc = true) :
    smWf 0 (m.storeSector a bs poison).ecc = true := by
  rw [Mach.storeSector_ecc]; exact smWf_smSet _ _ _ _ h

/-- A bit flip in a sector changes its check-symbol difference alone. -/
theorem Mach.wf_upset (m : Mach) (a e : Nat) (h : smWf 0 m.ecc = true) : smWf 0 (m.upset a e).ecc = true := smWf_smSet _ _ _ _ h

/-! ### GDDR7, and any sector -/

/-- A fold of operations that each leave memory as it is leaves it as it is. -/
theorem Mach.foldl_mem {α : Type} (f : Mach → α → Mach) (h : ∀ m x, (f m x).mem = m.mem) (l : List α) (m : Mach) :
    (l.foldl f m).mem = m.mem := by
  induction l generalizing m with
  | nil => rfl
  | cons x l ih => exact (ih (f m x)).trans (h m x)

/-- The ports going dark, and the module going fail-silent, leave memory as it is. -/
theorem Mach.darkPorts_mem (m : Mach) (d : Nat) : (m.darkPorts d).mem = m.mem := by
  simp only [Mach.darkPorts, Mach.modDie_mem]
  rw [Mach.foldl_mem]
  intro m p
  simp only [Mach.darkPort, Mach.put_mem]

theorem Mach.goSilent_mem (m : Mach) : m.goSilent.mem = m.mem := by
  rw [Mach.goSilent]
  split
  · rfl
  · rw [Mach.foldl_mem _ Mach.darkPorts_mem]; simp only [Mach.send]

/-- The loss of the Bludjan die leaves memory as it is. -/
theorem Mach.bludjanLost_mem (m : Mach) : m.bludjanLost.mem = m.mem := Mach.goSilent_mem m

theorem Mach.wf_gdWrite (m : Mach) (a : Nat) (bs : List Byte) (poison : Bool) (h : Memory.wf m.mem = true) :
    Memory.wf (m.gdWrite a bs poison).mem = true := by
  have hs : Memory.wf ((m.cnt .gdCnt sdDie 1).setRaw (a / 32 * 32) bs).mem = true := Mach.wf_setRaw _ _ _ h
  simp only [Mach.gdWrite]
  split
  · split
    · exact hs
    · split
      · exact hs
      · rw [Mach.bludjanLost_mem]; exact hs
  · exact hs

/-- Every write of a sector, mirrored or not, keeps the canonical form of memory. -/
theorem Mach.wf_memWrite (m : Mach) (a : Nat) (bs : List Byte) (poison mirror : Bool) (h : Memory.wf m.mem = true) :
    Memory.wf (m.memWrite a bs poison mirror).mem = true := by
  simp only [Mach.memWrite]
  split
  · split
    · exact Mach.wf_storeSector _ _ _ _ (Mach.wf_storeSector _ _ _ _ h)
    · exact Mach.wf_storeSector _ _ _ _ h
  · exact Mach.wf_gdWrite _ _ _ _ h

/-- The end of a margin run, which clears the swept sectors, keeps it too. -/
theorem Mach.wf_marginEnd (m : Mach) (d state written : Nat) (h : Memory.wf m.mem = true) :
    Memory.wf (m.marginEnd d state written).mem = true := by
  simp only [Mach.marginEnd]
  split
  · exact h
  · exact smWf_filter _ _ _ h

/-- Memory after reset, which lists nothing, has it. -/
theorem State.reset_wf : Memory.wf State.reset.m.mem = true ∧ smWf 0 State.reset.m.ecc = true := ⟨rfl, rfl⟩

end Sys2Proof.Machine
end

