-- ==== Sys2Proof/Laws/Threads.lean ====
section
/-! SUPPORT. What the issue of an instruction to core threads and to the vector engine does: the shared operations of the thread
and vector rows, and the laws of reading a thread after threads have changed. -/

namespace Sys2Proof.Machine

/-- R178, R205: an instruction that issues is counted and runs on the threads it issues to. -/
theorem State.onIssue_of_issues {s : State} {i : Issue} {op : RvOp} {r rs k} (h : s.issues i op r rs k) (bad : Bool) :
    s.onIssue i op bad = .next (s.setM ((s.issued i k (r :: rs)).execOp i.die (r :: rs) op (issueMeets i bad))) := by
  obtain ⟨h1, h2, h3, h4, h5⟩ := h
  rw [State.onIssue, State.onDie_run h1]
  simp only [Mach.issueRun, h2, h3, h5, State.issued, State.setM]
  rfl

/-- Counting an issue changes no block. -/
theorem State.issued_block (s : State) (i : Issue) (k n d c b) : (s.issued i k n).block d c b = s.m.block d c b :=
  Mach.issueCount_block ..

/-- The block of an issuing thread declared the registers that the instruction names (R181). -/
theorem State.issues_registers {s : State} {i : Issue} {op : RvOp} {r rs k} (h : s.issues i op r rs k) (n) :
   ∃ k', (s.issued i k n).block i.die r.core r.block = some k' ∧ op.inRegs k'.xregs k'.fregs = true := by
  obtain ⟨h1, h2, h3, h4, h5⟩ := h
  have hr := Mach.issueSet_at s.m i.die i.core i.block i.group i.lanes r (by rw [h2]; simp)
  exact ⟨k, by rw [State.issued_block, hr.1, hr.2, h3], h4⟩

/-- The same for an Xkt instruction, after its operand reads. -/
theorem State.onIssue_kt_of_issues {s : State} {i : Issue} {x rd a b r rs k} (h : s.issues i (.kt x rd a b) r rs k) :
    s.onIssue i (.kt x rd a b) =
      .next (s.setM ((s.reading i k (r :: rs) (.kt x rd a b)).execKt i.die (r::rs) x rd a b)) := by
  rw [State.onIssue_of_issues h]
  obtain ⟨k', e1, e2⟩ := State.issues_registers h (r :: rs)
  simp only [Mach.execOp, e1, e2]; rfl

/-- An access of one thread that is well placed acts at its place. -/
theorem Mach.memRun_of_placed {m m' : Mach} {d : Nat} {r kind width rs1 off act p} (h : m.placed d r kind (m.laneVa d r rs1 off) width m' p) :
    m.memRun d [r] kind width rs1 off act = act m' r (m.laneVa d r rs1 off) p := by
  obtain ⟨m1, h1, h2, h3⟩ := h
  simp [Mach.memRun, Mach.placeAll, h1, h2, h3]

/-- A thread is read from the cores alone. -/
theorem Mach.thread_of_cores {m m' : Mach} (h : m.cores = m'.cores) (d r) : m.thread d r = m'.thread d r := by
  simp only [Mach.thread, Mach.block, Mach.core, h]

/-- So is the address of a lane. -/
theorem Mach.laneVa_of_cores {m m' : Mach} (h : m.cores = m'.cores) (d r a off) : m.laneVa d r a off = m'.laneVa d r a off := by
  simp only [Mach.laneVa, Mach.thread_of_cores h]

/-- Counting an issue changes no core. -/
theorem State.issued_cores (s : State) (i k n) : (s.issued i k n).cores = s.m.cores := Mach.issueCount_cores ..

/-- The block of an issuing thread has not ended. -/
theorem State.live_of_issues {s : State} {i : Issue} {op r rs k} (h : s.issues i op r rs k) : s.m.live i.die r = true := by
  obtain ⟨h1, h2, h3, h4, h5⟩ := h
  have hr := Mach.issueSet_at s.m i.die i.core i.block i.group i.lanes r (by rw [h2]; simp)
  simp only [Mach.issueSet, h3] at h2
  have : k.ended = false := by
    cases he : k.ended with
    | false => rfl
    | true => simp [Mach.readyAt, he] at h2
  simp [Mach.live, hr.1, hr.2, h3, this]

/-- Whether a block runs is read from the cores alone. -/
theorem Mach.live_of_cores {m m' : Mach} (h : m.cores = m'.cores) (d r) : m.live d r = m'.live d r := by
  simp only [Mach.live, Mach.block, Mach.core, h]

/-- So are the integer registers. -/
theorem Mach.tx_of_cores {m m' : Mach} (h : m.cores = m'.cores) (d r a) : m.tx d r a = m'.tx d r a := by
  simp only [Mach.tx, Mach.thread_of_cores h]

/-- So are the floating-point registers. -/
theorem Mach.tf_of_cores {m m' : Mach} (h : m.cores = m'.cores) (d r a) : m.tf d r a = m'.tf d r a := by
  simp only [Mach.tf, Mach.thread_of_cores h]

/-- Changing the blocks of one place changes no block of another. -/
theorem find_map_slot (l : List Block) (b b' : Nat) (f : Block → Block) (hf : ∀ k, (f k).slot = k.slot) :
    (l.map (fun k => if k.slot = b then f k else k)).find? (fun k => k.slot == b') =
      (l.find? (fun k => k.slot == b')).map (fun k => if k.slot = b then f k else k) := by
  induction l with
  | nil => rfl
  | cons x xs ih =>
    simp only [List.map_cons, List.find?_cons]
    have e : ((if x.slot = b then f x else x).slot == b') = (x.slot == b') := by split <;> simp [hf]
    rw [e]
    cases x.slot == b'
    · exact ih
    · rfl

/-- Changing a thread changes its own block alone. -/
theorem Mach.block_modThread_same (m : Mach) (d : Nat) (r : ThreadRef) (f) (h : smSorted m.cores = true) (b : Nat) :
    (m.modThread d r f).block d r.core b = (m.block d r.core b).map (fun k => if k.slot = r.block then { k with threads := k.threads.modify r.thread f } else k) := by
  simp only [Mach.modThread, Mach.modBlock, Mach.block, Mach.core_modCore_same _ _ _ _ h]
  rw [find_map_slot]
  intro k; rfl

/-- A thread that is changed reads as changed, and every other thread as before. -/
theorem Mach.thread_modThread (m : Mach) (d d' : Nat) (r x : ThreadRef) (f) (h : smSorted m.cores = true)
   (hd : coreKey d' x.core = coreKey d r.core → d' = d ∧ x.core = r.core) :
    (m.modThread d r f).thread d' x = if d' = d ∧ x = r then (m.thread d r).map f else m.thread d' x := by
  by_cases hk : coreKey d' x.core = coreKey d r.core
  · obtain ⟨h1, h2⟩ := hd hk
    subst h1
    simp only [Mach.thread, h2, Mach.block_modThread_same m d' r f h]
    cases hb : m.block d' r.core x.block with
    | none => 
      simp only [Option.map_none, Option.bind_none]
      split
      · rename_i hh; obtain ⟨_, rfl⟩ := hh; rw [hb]; rfl
      · rfl
    | some k =>
      have hs : k.slot = x.block := by
        have := List.find?_some hb; simpa using this
      simp only [Option.map_some, Option.bind_some]
      by_cases hxr : x.block = r.block
      · rw [if_pos (hs.trans hxr)]
        simp only [List.getElem?_modify]
        by_cases ht : x.thread = r.thread
        · have : x = r := by cases x; cases r; simp_all
          subst this; simp [hb]
        · have hne : ¬ (True ∧ x = r) := fun hh => ht (by rw [hh.2])
          have hne' : ¬ r.thread = x.thread := fun hh => ht hh.symm
          simp [hne', hne]
      · rw [if_neg (fun hh => hxr (hs.symm.trans hh)), if_neg (fun hh => hxr (by rw [hh.2]))]
  · rw [if_neg (fun hh => hk (by rw [hh.1, hh.2]))]
    simp only [Mach.thread, Mach.block, Mach.modThread, Mach.modBlock]
    rw [Mach.core_modCore_ne _ _ _ _ _ _ h hk]

/-- A change of a block's other fields leaves every thread as it is. -/
theorem Mach.thread_modBlock (m : Mach) (d c b : Nat) (f : Block → Block) (h : smSorted m.cores = true)
    (hf : ∀ k, (f k).threads = k.threads ∧ (f k).slot = k.slot) (d' : Nat) (x : ThreadRef) :
    (m.modBlock d c b f).thread d' x = m.thread d' x := by
  by_cases hk : coreKey d' x.core = coreKey d c
  · have e2 : ∀ m : Mach, m.core d' x.core = m.core d c := fun m => by simp only [Mach.core, hk]
    simp only [Mach.thread, Mach.block, e2, Mach.modBlock, Mach.core_modCore_same _ _ _ _ h]
    rw [find_map_slot _ _ _ _ (fun k => (hf k).2)]
    cases (m.core d c).blocks.find? (fun k => k.slot == x.block) with
    | none => rfl
    | some k => simp only [Option.map_some, Option.bind_some]; split <;> simp [(hf k).1]
  · simp only [Mach.thread, Mach.block, Mach.modBlock, Mach.core_modCore_ne _ _ _ _ _ _ h hk]

/-- R182: a register read through the register cache changes no thread. -/
theorem Mach.thread_regRead (m : Mach) (d : Nat) (r : ThreadRef) (reg : Nat) (hint : Bool) (h : smSorted m.cores = true) :
    smSorted (m.regRead d r reg hint).cores = true ∧ ∀ d' x, (m.regRead d r reg hint).thread d' x = m.thread d' x := by
  refine ⟨smSorted_smSet _ _ _ _ h, fun d' x => ?_⟩
  unfold Mach.regRead
  refine (Mach.thread_of_cores (Mach.cnt_cores ..) d' x).trans
    ((Mach.thread_modBlock m.tickFree d r.core r.block _ h ?_ d' x).trans (Mach.thread_of_cores rfl d' x))
  exact fun k => ⟨rfl, rfl⟩

/-- R182: nor do several. -/
theorem Mach.thread_regReads (d : Nat) (r : ThreadRef) (hints : Nat) (l : List (Nat × Nat)) (m : Mach) (h : smSorted m.cores = true) :
    let t := l.foldl (fun m x => m.regRead d r x.1 (hints.testBit x.2)) m
    smSorted t.cores = true ∧ ∀ d' x, t.thread d' x = m.thread d' x := by
  induction l generalizing m with
  | nil => exact ⟨h, fun _ _ => rfl⟩
  | cons y l ih =>
    have one := Mach.thread_regRead m d r y.1 (hints.testBit y.2) h
    have rest := ih _ one.1
    exact ⟨rest.1, fun d' x => (rest.2 d' x).trans (one.2 d' x)⟩

/-- R182: the operand reads of an instruction change no thread. -/
theorem Mach.thread_regCache (m : Mach) (d : Nat) (rs : List ThreadRef) (op : RvOp) (hints : Nat) (h : smSorted m.cores = true) :
    smSorted (m.regCache d rs op hints).cores = true ∧ ∀ d' x, (m.regCache d rs op hints).thread d' x = m.thread d' x := by
  unfold Mach.regCache
  split
  · exact ⟨h, fun _ _ => rfl⟩
  · split
    · exact ⟨h, fun _ _ => rfl⟩
    · exact Mach.thread_regReads _ _ _ _ _ h

/-- R200: a base instruction has no reuse hints. -/
theorem Mach.regCache_base (m : Mach) (d : Nat) (rs : List ThreadRef) (op : RvOp) (hints hints' : Nat) (h : ∀ x rd a b, op ≠ .kt x rd a b) :
    m.regCache d rs op hints = m.regCache d rs op hints' := by
  have e : op.hints hints = op.hints hints' := by
    cases op with
    | kt x rd a b => exact absurd rfl (h x rd a b)
    | _ => rfl
  simp only [Mach.regCache, e]

/-- Changing a thread keeps the cores in order. -/
theorem Mach.smSorted_modThread (m : Mach) (d : Nat) (r : ThreadRef) (f) (h : smSorted m.cores = true) : smSorted (m.modThread d r f).cores = true := by
  simp only [Mach.modThread, Mach.modBlock, Mach.modCore]; exact smSorted_smSet _ _ _ _ h

/-- Changing a list of distinct threads, one after another, changes each of them once and nothing else. -/
theorem Mach.thread_foldl_modThread (d : Nat) (g : ThreadRef → Thread → Thread) (l : List ThreadRef) (hl : l.Nodup) (m : Mach) (h : smSorted m.cores = true)
    (hd : d < 8) (hc : ∀ r ∈ l, r.core < 32) :
    let t := l.foldl (fun m r => m.modThread d r (g r)) m
    (∀ x ∈ l, t.thread d x = (m.thread d x).map (g x)) ∧ (∀ d' x, d' ≠ d ∨ x ∉ l → d' < 8 → x.core < 32 → t.thread d' x = m.thread d' x) ∧
    t.mem = m.mem ∧ t.dies = m.dies ∧ t.regs = m.regs := by
  induction l generalizing m with
  | nil => simp
  | cons r l ih =>
    have key : ∀ d' (x : ThreadRef), d' < 8 → x.core < 32 → coreKey d' x.core = coreKey d r.core → d' = d ∧ x.core = r.core := by
      intro d' x h1 h2 h3; have := hc r (by simp); simp only [coreKey] at h3; omega
    obtain ⟨i1, i2, i3, i4, i5⟩ := ih (List.nodup_cons.1 hl).2 (m.modThread d r (g r)) (Mach.smSorted_modThread _ _ _ _ h) (fun r h => hc r (by simp [h]))
    refine ⟨?_, ?_, i3, i4, i5⟩
    · intro x hx
      rcases List.mem_cons.1 hx with rfl | hxl
      · simp only [List.foldl_cons]
        rw [i2 d x (Or.inr (List.nodup_cons.1 hl).1) hd (hc _ (by simp)), Mach.thread_modThread _ _ _ _ _ _ h (key _ _ hd (hc _ (by simp)))]; simp
      · simp only [List.foldl_cons]
        rw [i1 x hxl, Mach.thread_modThread _ _ _ _ _ _ h (key _ _ hd (hc _ (by simp [hxl])))]
        rw [if_neg]; rintro ⟨_, rfl⟩; exact (List.nodup_cons.1 hl).1 hxl
    · intro d' x hx h1 h2
      simp only [List.foldl_cons]
      rw [i2 d' x (by rcases hx with h | h; exact Or.inl h; exact Or.inr (fun hh => h (by simp [hh]))) h1 h2, Mach.thread_modThread _ _ _ _ _ _ h (key _ _ h1 h2), if_neg]
      rintro ⟨rfl, rfl⟩; simp at hx

/-- An instruction issues to each thread once. -/
theorem Mach.issueSet_nodup (m : Mach) (d c b g lanes : Nat) : (m.issueSet d c b g lanes).Nodup := by
  simp only [Mach.issueSet]
  split
  · simp
  · rename_i k _
    have hn : ((m.readyAt d c k g).map (·.1)).Nodup := by
      simp only [Mach.readyAt]
      split
      · simp
      · have : ((k.threads.mapIdx (fun i t => (i, t))).map (·.1)).Nodup := by
          have : (k.threads.mapIdx (fun i t => (i, t))).map (·.1) = List.range k.threads.length := by
            apply List.ext_getElem <;> simp
          rw [this]; exact List.nodup_range
        refine List.Nodup.sublist ?_ this
        exact ((List.filter_sublist).trans ((List.take_sublist _ _).trans (List.drop_sublist _ _))).map _
    split
    · simp
    · rename_i x xs hx
      have h2 : ∀ l : List (Nat × Thread), (l.map (·.1)).Nodup → (l.map (fun y => (⟨c, b, y.1⟩ : ThreadRef))).Nodup := by
        intro l hl
        have := hl.map (f := fun n => (⟨c, b, n⟩ : ThreadRef)) (by intro a b hab; simpa using hab)
        simpa [List.map_map, Function.comp_def] using this
      apply h2
      exact hn.sublist ((List.filter_sublist.trans (List.filter_sublist)).map _)

/-- A vector command that finds its instruction at the engine runs its body, is counted, and lets the program go on. -/
theorem State.vecIssue_of_vecAt {s : State} {d : Fin 8} {c : Fin 32} {op m' r v} (h : s.vecAt d c op m' r v) (body) :
   s.onDie d (fun m => m.vecIssue d c op body) = .next (s.setM (Mach.vecThen d c r (body (m'.vecNoted d c op) { r with last := r.idx } v))) := by
  obtain ⟨h1, h2, h3, h4, h5, h6⟩ := h
  rw [State.onDie_run h1]
  simp only [Mach.vecIssue, h2, h3, h4, h5, h6]
  simp only [Bool.false_eq_true, if_false, ne_eq, not_true, Bool.not_true, Mach.vecThen, State.setM]
  all_goals cases (body (m'.vecNoted d c op) { r with last := r.idx } v).2 <;> rfl

/-- Noting the index of the instruction in execution changes no register. -/
theorem VecRun.row_noted (r : VecRun) (w k) : ({ r with last := r.idx } : VecRun).row w k = r.row w k := rfl

end Sys2Proof.Machine
end

