-- ==== Sys2Proof/WellFormed.lean ====
section
/-! DEFINITION. Which commands are well formed: what the types of their operands leave unsaid. `exec` is total; a command that is
not well formed cannot come from the hardware's surroundings. -/

namespace Sys2Proof

/-- R9: an access has 1, 2, 4 or 8 bytes. -/
def accessWidth (n : Nat) : Bool := [1, 2, 4, 8].contains n
/-- Table 0.2: module physical addresses have 44 bits. -/
def inSpace (pa : Nat) : Bool := decide (pa < 2 ^ 44)
/-- A write's value fits its width; the hardware bits are those of a register. -/
def writeForm (pa n value hw : Nat) : Bool := accessWidth n && inSpace pa && decide (value < 2 ^ (8 * n)) && decide (hw < 2 ^ 64)
/-- R344: node ids have 14 bits. -/
def isNode (n : Nat) : Bool := decide (n < 16384)
/-- R322: an error pattern covers the 288 stored bits of a sector. -/
def isPattern (e : Nat) : Bool := decide (e < 2 ^ 288)
/-- R170: the loads, stores and word operations that have an encoding. -/
def loadForm (width : Nat) (sg fl : Bool) : Bool := if fl then decide (width = 4) else accessWidth width && (decide (width < 8) || sg)
def storeForm (width : Nat) (fl : Bool) : Bool := if fl then decide (width = 4) else accessWidth width
def wordForm (width : Nat) : Bool := decide (width = 4) || decide (width = 8)

/-- Well-formed commands. -/
def Instr.wf (i : Instr) : Bool :=
  match i with
  | .registerWrite _ pa n value hw => writeForm pa n value hw
  | .rcCounterRead _ pa n => accessWidth n && inSpace pa
  | .coldReset _ _ _ => true
  | .pwrEnDeassert => true
  | .supplyOutOfTolerance => true
  | .supplyLoss _ => true
  | .imageVerification => true
  | .recovery _ => true
  | .release _ => true
  | .fuseLoad _ => true
  | .memoryTraining _ _ _ => true
  | .selfTest results => results.all (fun t => decide (t.die < 8) && decide (t.core < 32))
  | .fabricBringUp info => match info with | some (node, dims) => isNode node && decide (dims < 2 ^ 32) | none => true
  | .loaderEntry => true
  | .phaseTimeout => true
  | .ftCounterTick => true
  | .timeMessageSend _ _ => true
  | .timeMessageReceive _ _ _ _ _ _ gm epoch hop _ _ => isNode gm && decide (epoch < 256) && decide (hop < 256)
  | .holdoverExpire _ => true
  | .gmPromote => true
  | .ftCtrlWrite _ pa n value hw => writeForm pa n value hw
  | .trefPpsEdge => true
  | .ptpTimeReceive _ => true
  | .ftTmrTgtWrite _ pa n value hw => writeForm pa n value hw
  | .ftTmrCtlWrite _ pa n value hw => writeForm pa n value hw
  | .timerFire _ _ => true
  | .timerActionInterrupt _ => true
  | .timerActionSyncAdd _ => true
  | .stepBoundary _ => true
  | .scaleEntryProcess _ => true
  | .collectiveDeadlineAction _ => true
  | .nutmegRampStart _ => true
  | .applyPendingCap _ => true
  | .commitPoint _ => true
  | .commitVoteResult _ _ => true
  | .scrubWindowOpen _ => true
  | .scrubWindowClose _ => true
  | .scrubRead _ _ _ upset => isPattern upset
  | .hbmRefresh _ _ _ _ => true
  | .hbmReadComplete _ upset _ => isPattern upset
  | .rowRetire r _ => decide (r.die < 8) && decide (r.stack < 4) && decide (r.pch < 64)
  | .mirrorRead _ upset => isPattern upset
  | .gddr7ReadComplete _ _ _ _ => true
  | .hbmCfgWrite _ pa n value hw => writeForm pa n value hw
  | .marginRunComplete _ _ => true
  | .xlatInvPage _ pa n value hw => writeForm pa n value hw
  | .xlatInvPartition _ pa n value hw => writeForm pa n value hw
  | .xlatInvComplete _ => true
  | .coreLoad _ width sg fl _ _ _ _ => loadForm width sg fl
  | .coreStore _ width fl _ _ _ => storeForm width fl
  | .coreAmo _ f5 width _ _ _ => wordForm width && [0, 1, 4, 8, 12, 16, 20, 24, 28].contains f5
  | .coreLr _ width _ _ => wordForm width
  | .coreSc _ width _ _ _ => wordForm width
  | .csrAccess _ f3 _ _ _ => decide (f3.val % 4 ≠ 0)
  | .ecall _ => true
  | .ebreak _ => true
  | .fenceI _ => true
  | .baseInstruction _ _ => true
  | .issueSlot _ _ _ => true
  | .ktQpush _ _ _ _ => true
  | .ktQcred _ _ _ => true
  | .ktScadd _ _ _ _ => true
  | .ktScaddRemote _ _ _ _ => true
  | .ktScsub _ _ _ _ => true
  | .ktScset _ _ _ _ => true
  | .ktScrd _ _ _ _ => true
  | .ktScwait _ _ _ _ => true
  | .ktScwaitc _ _ _ _ => true
  | .ktBar _ _ _ => true
  | .barrierTimeout _ _ _ => true
  | .ktMbarArriveWait _ _ => true
  | .ktMbarArrive _ _ => true
  | .barSlotTimeout _ _ _ => true
  | .ktFamoadd _ _ _ _ => true
  | .ktAccstW _ _ _ => true
  | .ktAccstD _ _ _ => true
  | .ktPrefL1 _ _ => true
  | .ktPrefDieCache _ _ => true
  | .ktFenceBlock _ => true
  | .ktFenceCluster _ => true
  | .ktFenceDie _ => true
  | .ktFenceModule _ => true
  | .ktFenceRelease _ => true
  | .ktFenceAcquire _ => true
  | .ktFenceFull _ => true
  | .fenceTimeout _ => true
  | .ktExit _ => true
  | .ktVoteBallot _ _ _ => true
  | .ktVoteAny _ _ _ => true
  | .ktVoteAll _ _ _ => true
  | .ktShflIndex _ _ _ _ => true
  | .ktShflXor _ _ _ _ => true
  | .ktShflUp _ _ _ _ => true
  | .ktShflDown _ _ _ _ => true
  | .ktActive _ _ => true
  | .tguWdogWrite _ pa n value hw => writeForm pa n value hw
  | .lqTailWrite _ pa n value hw => writeForm pa n value hw
  | .lqCfgWrite _ pa n value hw => writeForm pa n value hw
  | .lqRingBaseWrite _ pa n value hw => writeForm pa n value hw
  | .cqRingWrite _ pa n value hw => writeForm pa n value hw
  | .launchRead _ _ => true
  | .blockPlace _ _ _ => true
  | .arrayDescriptorStart _ _ => true
  | .tileOpen _ _ => true
  | .operandFetchComplete _ _ _ _ _ => true
  | .kGroupEnter _ _ _ => true
  | .spill _ _ _ => true
  | .spillComplete _ _ => true
  | .checksumCompare _ _ => true
  | .tileRelease _ _ => true
  | .arrCfgWrite _ pa n value hw => writeForm pa n value hw
  | .arrSpareMapWrite _ pa n value hw => writeForm pa n value hw
  | .sumacPredictionRead _ _ => true
  | .zmapActualRead _ _ _ => true
  | .zmapVerifyRead _ _ _ => true
  | .sumacCorrection _ _ => true
  | .sumFoldEntry _ pa n value hw => writeForm pa n value hw
  | .sumFoldAll _ pa n value hw => writeForm pa n value hw
  | .sumCtrlWrite _ pa n value hw => writeForm pa n value hw
  | .sumTblWrite _ pa n value hw => writeForm pa n value hw
  | .vectorDescriptorStart _ _ => true
  | .vectorDescriptorComplete _ _ => true
  | .vadd _ _ => true
  | .vsub _ _ => true
  | .vmul _ _ => true
  | .vfma _ _ => true
  | .vneg _ _ => true
  | .vabs _ _ => true
  | .vmin _ _ => true
  | .vmax _ _ => true
  | .vdiv _ _ => true
  | .vsqrt _ _ => true
  | .vrcp _ _ => true
  | .vrsqrt _ _ => true
  | .vexp2 _ _ => true
  | .vexp _ _ => true
  | .vlog2 _ _ => true
  | .vlog _ _ => true
  | .vtanh _ _ => true
  | .vsigm _ _ => true
  | .verf _ _ => true
  | .vcmp _ _ => true
  | .vsel _ _ => true
  | .vclass _ _ => true
  | .viadd _ _ => true
  | .visub _ _ => true
  | .vand _ _ => true
  | .vor _ _ => true
  | .vxor _ _ => true
  | .vshift _ _ => true
  | .vicmp _ _ => true
  | .vrsum _ _ => true
  | .vrmax _ _ => true
  | .vrmin _ _ => true
  | .vramax _ _ => true
  | .vperm _ _ => true
  | .vilv _ _ => true
  | .vdilv _ _ => true
  | .vrot _ _ => true
  | .vcvt _ _ => true
  | .vcvts _ _ => true
  | .vsplit _ _ => true
  | .vunpk _ _ => true
  | .vld _ _ => true
  | .vst _ _ => true
  | .vlds _ _ => true
  | .vsts _ _ => true
  | .vsta _ _ => true
  | .vold _ _ _ => true
  | .vost _ _ => true
  | .vacc _ _ => true
  | .zmapclr _ _ => true
  | .zmapwr _ _ => true
  | .sli _ _ => true
  | .sadd _ _ => true
  | .smul _ _ => true
  | .sloop _ _ => true
  | .sjmp _ _ => true
  | .vecSrWrite _ pa n value hw => writeForm pa n value hw
  | .vecSclWrite _ pa n value hw => writeForm pa n value hw
  | .stepPendWrite _ pa n value hw => writeForm pa n value hw
  | .stepActWrite _ pa n value hw => writeForm pa n value hw
  | .moverCopy _ _ _ => true
  | .moverLoadOperandCache _ _ _ => true
  | .moverStoreOperandCache _ _ _ => true
  | .moverFillAStager _ _ _ => true
  | .moverFillBStager _ _ _ => true
  | .moverPrefetch _ _ _ => true
  | .moverFillPattern _ _ _ => true
  | .moverAccumulateCopy _ _ _ => true
  | .moverDescriptorComplete _ _ _ => true
  | .allReduce _ => true
  | .reduceScatter _ => true
  | .allGather _ => true
  | .allToAllV _ => true
  | .expertCombine _ => true
  | .collectiveMessageReceive _ x => isNode x.node && decide (x.group < 1024)
  | .collectiveEndNotice _ g _ _ => decide (g < 1024)
  | .collectiveDeadline _ g => decide (g < 1024)
  | .collectiveComplete _ g => decide (g < 1024)
  | .colResumeWrite _ pa n value hw => writeForm pa n value hw
  | .colGrpWrite _ pa n value hw => writeForm pa n value hw
  | .syncCtrWrite _ pa n value hw => writeForm pa n value hw
  | .syncCtrAddWrite _ pa n value hw => writeForm pa n value hw
  | .syncCtrSubWrite _ pa n value hw => writeForm pa n value hw
  | .syncCtrArmWrite _ pa n value hw => writeForm pa n value hw
  | .syncBarCfgWrite _ pa n value hw => writeForm pa n value hw
  | .syncBarWdogWrite _ pa n value hw => writeForm pa n value hw
  | .remoteAddReceive node sdie _ _ _ _ ctr v => isNode node && decide (sdie < 8) && decide (ctr < 4096) && decide (v < 2 ^ 32)
  | .remoteRequestReceive node sdie _ _ _ _ => isNode node && decide (sdie < 8)
  | .remoteRejectReceive _ node _ => isNode node
  | .remoteResponseReceive _ node _ _ _ _ => isNode node
  | .remoteResend _ node _ => isNode node
  | .edgeRequestReceive _ _ node _ _ => isNode node
  | .dieCacheRequest _ _ _ _ _ => true
  | .dieCacheMissFill _ _ _ => true
  | .accumulateWriteApply _ _ width bs _ _ => wordForm width && decide (bs.length % width = 0)
  | .remoteLineSweep _ _ => true
  | .cloveTrackerExpire _ _ => true
  | .missSlotIssue _ _ => true
  | .bankRetryIssue _ _ => true
  | .missReissue _ _ => true
  | .dcPinCmdPin _ pa n value hw => writeForm pa n value hw
  | .dcPinCmdUnpin _ pa n value hw => writeForm pa n value hw
  | .pinCommandComplete _ => true
  | .pinPressureWindow _ => true
  | .deadRangeDeclare _ pa n value hw => writeForm pa n value hw
  | .deadRangeCancel _ pa n value hw => writeForm pa n value hw
  | .deadRangeInvalidateDone _ _ => true
  | .dcCfgWrite _ pa n value hw => writeForm pa n value hw
  | .dcL1CfgWrite _ pa n value hw => writeForm pa n value hw
  | .dcPinQuotaWrite _ pa n value hw => writeForm pa n value hw
  | .dieReset _ => true
  | .dieResetComplete _ => true
  | .portLightDetect _ _ _ => true
  | .portTrainComplete _ _ _ _ => true
  | .portNegotiate _ _ x => isNode x.node && decide (x.die < 8) && decide (x.port < 8)
  | .portLightLost _ _ _ => true
  | .portFecFail _ _ lane _ => decide (lane < 4)
  | .standbySwap _ _ => true
  | .portRetry _ _ => true
  | .fabPortCtlWrite _ pa n value hw => writeForm pa n value hw
  | .linkPacketReceive _ _ _ => true
  | .packetForward _ _ => true
  | .heartbeatSend _ _ => true
  | .heartbeatReceive _ _ => true
  | .heartbeatTimeout _ _ => true
  | .nodeLostReceive _ => true
  | .fabRouteCtlWrite _ pa n value hw => writeForm pa n value hw
  | .routeEpochSwitch _ => true
  | .faultRecordDeliver _ => true
  | .snapFqHeadWrite _ pa n value hw => writeForm pa n value hw
  | .snapFqCfgWrite _ pa n value hw => writeForm pa n value hw
  | .snapUpdDoneWrite _ pa n value hw => writeForm pa n value hw
  | .scheduleCaptureComplete _ => true
  | .chunkDigest _ _ => true
  | .drainChunkReceive node _ _ => isNode node
  | .drainChunkAck _ _ => true
  | .holdCopyComplete => true
  | .pageRebuild _ _ _ => true
  | .d2dLinkFault a b _ => decide (a ≠ b)
  | .d2dLinkRestored a b _ => decide (a ≠ b)
  | .livenessBeat _ => true
  | .dieHangDetect _ => true
  | .cpWatchdogExpire => true
  | .mcWatchdogExpire => true
  | .spWatchdogExpire => true
  | .d2dBeatLost => true
  | .pldmPowerLimit _ => true
  | .powerSample d _ stk _ => decide (d.val = 8) || decide (stk.length = 4)
  | .estimatorRescale _ activity _ => decide (activity.length = 32)
  | .governorWindow _ unit _ => decide (unit ≤ 37)
  | .supplyDroop _ _ => true
  | .ballastIssue _ _ => true
  | .nutmegTaperStart _ => true
  | .pwrNutWrite _ pa n value hw => writeForm pa n value hw
  | .thermalSample d _ stk _ => decide (d.val = 8) || decide (stk.length = 4)
  | .droopEnd _ => true
  | .mbxReqTailWrite _ pa n value hw => writeForm pa n value hw
  | .mbxRspHeadWrite _ pa n value hw => writeForm pa n value hw
  | .mcRelayRequest ws => decide (ws.length = 16)
  | .mailboxRequestTake _ => true
  | .openMailbox _ => true
  | .query _ => true
  | .configure _ => true
  | .partitionCreate _ => true
  | .partitionDestroy _ => true
  | .jobOpen _ => true
  | .jobClose _ => true
  | .abort _ => true
  | .abortComplete _ => true
  | .abortEscalate _ => true
  | .routeUpdate _ => true
  | .snapConfig _ => true
  | .snapRestore _ _ => true
  | .marginStart _ => true
  | .marginStatus _ => true
  | .marginCancel _ => true
  | .fuseStatus _ => true
  | .ftStatus _ => true
  | .counterSnapshot _ => true
  | .debugChallenge _ => true
  | .debugUnlock _ => true
  | .attestationReport _ nonce _ => decide (nonce.length = 32)
  | .attestationCertificates _ _ => true
  | .i3cEntdaa _ => true
  | .i3cSetdasa _ _ => true
  | .debugPortAccess _ _ _ _ => true

end Sys2Proof
end

