-- ==== Sys2Proof/Tests/Slice0.lean ====
section
/-! SUPPORT. Tests: an ill-formed command for each check of WellFormed, a state and operands that meet the hypotheses of each statement, and
small steps whose results the spec gives. -/

namespace Sys2Proof.Tests

set_option exponentiation.threshold 300
set_option Elab.async false

open Sys2Proof.Machine

/-! ### Well-formedness -/

/-- Threads to issue to. -/
def iss : Issue := { die := 0, core := 0, block := 0, group := 0, lanes := 1 }

/-- R9: no register row has an access of 3 bytes. -/
theorem test_wf_width :
    ([.registerWrite .sw 0x80040010010 3 0 0, .ftCtrlWrite .sw 0x80040010010 3 0 0, .ftTmrTgtWrite .sw 0x80040010010 3 0 0,
    .ftTmrCtlWrite .sw 0x80040010010 3 0 0, .hbmCfgWrite .sw 0x80040010010 3 0 0, .xlatInvPage .sw 0x80040010010 3 0 0,
    .xlatInvPartition .sw 0x80040010010 3 0 0, .tguWdogWrite .sw 0x80040010010 3 0 0, .lqTailWrite .sw 0x80040010010 3 0 0,
    .lqCfgWrite .sw 0x80040010010 3 0 0, .lqRingBaseWrite .sw 0x80040010010 3 0 0, .cqRingWrite .sw 0x80040010010 3 0 0,
    .arrCfgWrite .sw 0x80040010010 3 0 0, .arrSpareMapWrite .sw 0x80040010010 3 0 0, .sumFoldEntry .sw 0x80040010010 3 0 0,
    .sumFoldAll .sw 0x80040010010 3 0 0, .sumCtrlWrite .sw 0x80040010010 3 0 0, .sumTblWrite .sw 0x80040010010 3 0 0,
    .vecSrWrite .sw 0x80040010010 3 0 0, .vecSclWrite .sw 0x80040010010 3 0 0, .stepPendWrite .sw 0x80040010010 3 0 0,
    .stepActWrite .sw 0x80040010010 3 0 0, .colResumeWrite .sw 0x80040010010 3 0 0, .colGrpWrite .sw 0x80040010010 3 0 0,
    .syncCtrWrite .sw 0x80040010010 3 0 0, .syncCtrAddWrite .sw 0x80040010010 3 0 0, .syncCtrSubWrite .sw 0x80040010010 3 0 0,
    .syncCtrArmWrite .sw 0x80040010010 3 0 0, .syncBarCfgWrite .sw 0x80040010010 3 0 0, .syncBarWdogWrite .sw 0x80040010010 3 0 0,
    .dcPinCmdPin .sw 0x80040010010 3 0 0, .dcPinCmdUnpin .sw 0x80040010010 3 0 0, .deadRangeDeclare .sw 0x80040010010 3 0 0,
    .deadRangeCancel .sw 0x80040010010 3 0 0, .dcCfgWrite .sw 0x80040010010 3 0 0, .dcL1CfgWrite .sw 0x80040010010 3 0 0,
    .dcPinQuotaWrite .sw 0x80040010010 3 0 0, .fabPortCtlWrite .sw 0x80040010010 3 0 0, .fabRouteCtlWrite .sw 0x80040010010 3 0 0,
    .snapFqHeadWrite .sw 0x80040010010 3 0 0, .snapFqCfgWrite .sw 0x80040010010 3 0 0, .snapUpdDoneWrite .sw 0x80040010010 3 0 0,
    .pwrNutWrite .sw 0x80040010010 3 0 0, .mbxReqTailWrite .sw 0x80040010010 3 0 0, .mbxRspHeadWrite .sw 0x80040010010 3 0 0] : List Instr).all (fun i => !i.wf) = true := by
  decide +kernel

/-- R9, Table 0.2: addresses, values and the module's own bits that do not fit; a read of 3 bytes. -/
theorem test_wf_access :
    ([.registerWrite .sw (2 ^ 44) 4 0 0, .registerWrite .sw 0 4 (2 ^ 32) 0, .registerWrite .sw 0 4 0 (2 ^ 64), .rcCounterRead .sw 0 3,
      .rcCounterRead .sw (2 ^ 44) 4] : List Instr).all (fun i => !i.wf) = true := by
  decide +kernel

/-- Every other check refuses a command; each check has its own term. -/
theorem test_wf_operands :
    ([.selfTest [⟨8, 0, [], [], false⟩], .selfTest [⟨0, 32, [], [], false⟩], .fabricBringUp (some (16384, 0)), .fabricBringUp (some (0, 2 ^ 32)),
      .timeMessageReceive 0 0 0 0 0 0 16384 0 0 false 0, .timeMessageReceive 0 0 0 0 0 0 0 256 0 false 0,
      .timeMessageReceive 0 0 0 0 0 0 0 0 256 false 0, .scrubRead 0 0 0 (2 ^ 288), .hbmReadComplete 0 (2 ^ 288) false,
      .mirrorRead 0 (2 ^ 288), .rowRetire ⟨8, 0, 0, 0, 0, 0, 0⟩ none, .rowRetire ⟨0, 4, 0, 0, 0, 0, 0⟩ none,
      .rowRetire ⟨0, 0, 64, 0, 0, 0, 0⟩ none, .coreLoad iss 3 true false 0 0 0 false, .coreLoad iss 8 true true 0 0 0 false,
      .coreLoad iss 8 false false 0 0 0 false, .coreStore iss 3 false 0 0 0, .coreStore iss 8 true 0 0 0, .coreAmo iss 0 2 0 0 0,
      .coreAmo iss 2 4 0 0 0, .coreLr iss 1 0 0, .coreSc iss 1 0 0 0, .csrAccess iss 4 0 0 0] : List Instr).all (fun i => !i.wf) = true := by
  decide +kernel

theorem test_wf_messages :
    ([.collectiveMessageReceive 0 ⟨16384, 0, 0, 0, 0, 0, 0, 0, 0, 0, none, [], false, .block 0 0 0 []⟩,
      .collectiveMessageReceive 0 ⟨0, 0, 1024, 0, 0, 0, 0, 0, 0, 0, none, [], false, .block 0 0 0 []⟩, .collectiveEndNotice 0 1024 0 0,
      .collectiveDeadline 0 1024, .collectiveComplete 0 1024, .remoteAddReceive 16384 0 0 0 0 0 0 0, .remoteAddReceive 0 8 0 0 0 0 0 0,
      .remoteAddReceive 0 0 0 0 0 0 4096 0, .remoteAddReceive 0 0 0 0 0 0 0 (2 ^ 32), .remoteRequestReceive 16384 0 0 0 0 (.read 0 0),
      .remoteRequestReceive 0 8 0 0 0 (.read 0 0), .remoteRejectReceive 0 16384 0, .remoteResponseReceive 0 16384 0 [] false false,
      .remoteResend 0 16384 0, .edgeRequestReceive 0 0 16384 0 (.read 0 0), .accumulateWriteApply .bludjan 0 2 [] false false,
      .accumulateWriteApply .bludjan 0 4 [0#8] false false, .portNegotiate 0 0 ⟨false, 16384, 0, 0, 0, 0, 0, 0, 0, 0⟩,
      .portNegotiate 0 0 ⟨false, 0, 8, 0, 0, 0, 0, 0, 0, 0⟩, .portNegotiate 0 0 ⟨false, 0, 0, 8, 0, 0, 0, 0, 0, 0⟩, .portFecFail 0 0 4 0,
      .drainChunkReceive 16384 0 (.manifest [] []), .d2dLinkFault 3 3 0, .d2dLinkRestored 3 3 0, .powerSample 0 0 [] 0,
      .estimatorRescale 0 [] 0, .governorWindow 0 38 0, .thermalSample 0 0 [] 0, .mcRelayRequest [], .attestationReport 0 [] 0] :
      List Instr).all (fun i => !i.wf) = true := by
  decide +kernel

/-- The greatest operands that the same checks let through. -/
theorem test_wf_boundary :
    ([.registerWrite .sw (2 ^ 44 - 1) 4 (2 ^ 32 - 1) (2 ^ 64 - 1), .scrubRead 0 0 0 (2 ^ 288 - 1), .fabricBringUp (some (16383, 2 ^ 32 - 1)),
      .remoteAddReceive 16383 7 0 0 0 0 4095 (2 ^ 32 - 1), .governorWindow 0 37 0, .coreLoad iss 8 true false 0 0 0 false,
      .accumulateWriteApply .bludjan 0 4 [] false false] : List Instr).all (fun i => i.wf) = true := by
  decide +kernel

/-! ### States to test on -/

/-- After reset, with the die resets released, the MC and the CP firmware started. -/
def run : Mach := { State.reset.m with pins := { State.reset.m.pins with held := false, mcUp := true }, cp := { State.reset.m.cp with up := true } }

/-- A partition of die 0 in slot 0, on mailbox 1. -/
def part0 : Part := { slot := 0, dieMask := 1, mailbox := 1, launches := [], lastQueue := 0 }

/-- The module that runs with that partition. -/
def runP : Mach := { run with parts := [part0] }

/-- A state of a machine, with nothing waiting. -/
def st (m : Mach) : State := { m, pending := [] }

/-- The machine of an outcome that is a next state. -/
def after (o : Host.Outcome State Fault Refusal) : Option Mach := match o with | .next t => some t.m | _ => none

theorem run_sorted : run.regsSorted := Mach.regsSorted_of _ (by decide)
theorem runP_sorted : runP.regsSorted := Mach.regsSorted_of _ (by decide)

/-- A full write of `v` to the register copy `id` by `who` is allowed, and the word that it brings has the property `p`. -/
def wr (m : Mach) (who : BusWho) (id : RegId) (v : Nat) (p : RegW → Bool := fun _ => true) : Bool :=
  let n := id.reg.info.width / 8
  m.powered && !inSlots id.addr n && decide (regAt id.addr = some (id, 0)) && legalAccess id.reg.info.width 0 n && mayWrite who id &&
    !m.unusedSnap id && p (m.wordAt who id 0 n v 0)

theorem writes_of_wr {m : Mach} {who : BusWho} {id : RegId} {v : Nat} {p : RegW → Bool} (h : wr m who id v p = true) :
    (st m).writes who id.addr (id.reg.info.width / 8) id 0 ∧ p (m.wordAt who id 0 (id.reg.info.width / 8) v 0) = true := by
  simp only [wr, Bool.and_eq_true, Bool.not_eq_true', decide_eq_true_eq] at h
  obtain ⟨⟨⟨⟨⟨⟨h1, h2⟩, h3⟩, h4⟩, h5⟩, h6⟩, h7⟩ := h
  exact ⟨⟨h1, h2, h3, h4, h5, h6⟩, h7⟩

/-- A register copy of die 0. -/
abbrev r0 (r : Reg) (i : Nat := 0) (c : Nat := 0) : RegId := ⟨r, 0, c, i, 0⟩
/-- A register copy of the Bludjan die. -/
abbrev r8 (r : Reg) (i : Nat := 0) : RegId := ⟨r, 8, 0, i, 0⟩

/-! ### Witnesses: power and reset -/

theorem witness_queue : State.reset.pending = [] := rfl

theorem witness_supply : State.reset.m.powered = true ∧ (∀ mv, Instr.supplyLoss 65000 = .supplyLoss mv → mv ≤ 65000) := by
  refine ⟨by decide, fun mv h => ?_⟩
  cases h
  decide +kernel

theorem witness_nothing : (needs (.timeMessageSend 0 0)).met State.reset.m = false ∧ (needs (.hbmReadComplete 0 0 false)).met State.reset.m = false ∧
    (needs .ftCounterTick).met { State.reset.m with pins := { State.reset.m.pins with sdRail := false } } = false := by decide +kernel

/-- R530, R534: an input that leaves its range, or PWR_EN, puts the module in the dark. -/
theorem witness_dark : ((after (exec .pwrEnDeassert (st run))).map Mach.dark, (after (exec (.supplyLoss 35999) (st run))).map Mach.dark,
    (after (exec (.supplyLoss 63001) (st run))).map Mach.dark, (after (exec (.supplyLoss 36000) (st run))).map Mach.dark,
    (after (exec (.supplyLoss 63000) (st run))).map Mach.dark) = (some true, some true, some true, some false, some false) := by decide +kernel

theorem test_beyond_ratings : exec (.supplyLoss 65001) (st run) = .fault .beyondRatings := rfl

/-! ### Witnesses: registers -/

theorem witness_fields : (0 : Nat) ≤ 63 ∧ 0 ≤ 0 := by decide +kernel

/-- Register copies of each window take a write. -/
theorem witness_writes : (wr run .cp (r0 .ftTmrTgt 20) 5 && wr run .sw (r0 .vecStepPend 3) 7 && wr run .sw (r0 .arrEvents 0 31) 1 &&
    wr run .sw (r8 .mbxCfg 1) 3 && wr run .cp ⟨.hbmCfg, 7, 3, 0, 0⟩ 0 && decide (Reg.mbxCfg ∉ ownRules)) = true := by decide +kernel

theorem witness_half : ∃ f ∈ (RegId.reg (r0 .ftTmrTgt 20)).info.fields, f.acc ≠ .wo ∧ f.lo ≤ 32 ∧ 32 ≤ f.hi := by decide +kernel

theorem witness_illegal : inSlots 0x80800080000 8 = true ∧ inSlots 0 4 = false ∧ regAt 0 = none ∧ inSlots (r0 .ftEvents).addr 2 = false ∧
    (∀ id b, regAt (r0 .ftEvents).addr = some (id, b) → legalAccess id.reg.info.width b 2 = false) := by
  refine ⟨by decide, by decide, by decide, by decide, fun id b h => ?_⟩
  have e : regAt (r0 .ftEvents).addr = some (r0 .ftEvents, 0) := by decide +kernel
  rw [e] at h
  cases h
  decide +kernel

/-- Timers 0 and 15 are the system's, and timer 16 is software's. -/
theorem witness_timers : regAt (r0 .ftTmrTgt 0).addr = some (r0 .ftTmrTgt 0, 0) ∧ regAt (r0 .ftTmrCtl 15).addr = some (r0 .ftTmrCtl 15, 0) ∧
    mayWrite .sw (r0 .ftTmrTgt 15) = false ∧ mayWrite .sw (r0 .ftTmrTgt 16) = true ∧ inSlots (r0 .ftTmrTgt 0).addr 8 = false := by decide +kernel

theorem witness_cp_only : ([r0 .fabNode, r0 .fabDims, r0 .fabJob, r0 .fabRouteCtl, r0 .fabRouteSwitch, r0 .fabDetourPend 63, r0 .fabPortCtl 7,
    r0 .arrSpareMap 0 31, r0 .arrFence 0 31].all (fun id => decide (regAt id.addr = some (id, 0)) && !inSlots id.addr 8)) = true ∧
    (run.put Fld.fabNode_lock 0 1).flag Fld.fabNode_lock 0 = true ∧ wr run .cp (r0 .arrSpareMap 0 31) 0 = true := by decide +kernel

theorem witness_reads : (regAt (r0 .arrCnt 15 31).addr = some (r0 .arrCnt 15 31, 0)) ∧
    legalAccess (RegId.reg (r0 .arrCnt 15 31)).info.width 0 8 = true ∧ timerDenied .sw (r0 .arrCnt 15 31) = false ∧
    run.unusedSnap (r0 .arrCnt 15 31) = false ∧ inSlots (r0 .arrCnt 15 31).addr 8 = false := by decide +kernel

/-- R13: a counter that is read is cleared, and its value answered. -/
theorem test_counter_read :
    (after (exec (.rcCounterRead .sw (r0 .arrCnt 3 31).addr 8) (st (run.setReg (r0 .arrCnt 3 31) 77)))).map (fun m =>
      (m.resp, m.reg (r0 .arrCnt 3 31))) = some (.ok 77, 0) := by decide +kernel

theorem witness_w1c : w1cHit (r0 .ftEvents) 0 4 1 1 = 2 ^ 0 ∧ wr run .sw (r0 .ftEvents) 1 = true ∧ Reg.ftEvents ∉ ownRules := by decide +kernel

/-- R262: the bit stays and the collision is counted. -/
theorem test_w1c_collision :
    (after (exec (.registerWrite .sw (r0 .ftEvents).addr 4 1 1) (st (run.setReg (r0 .ftEvents) 1)))).map (fun m =>
      (m.reg (r0 .ftEvents), m.get Fld.syncW1cCollide_collisions 0)) = some (1, 1) := by decide +kernel

/-! ### Witnesses: the register rows -/

/-- One allowed write for each configuration row, with what its rule asks for, at the edges of its ranges. -/
theorem witness_configuration_rows : ([
    wr run .sw (r0 .ftTmrTgt 16) 5 (fun _ => !run.flag Fld.ftTmrCtl_enable 0 16),
    wr run .cp (r0 .hbmCfg 0 3) (Fld.hbmCfg_ce_row_limit.into (Fld.hbmCfg_ecc_mode.into 0 2) 1)
      (fun w => Fld.hbmCfg_ecc_mode.of w.new != 3 && Fld.hbmCfg_ce_row_limit.of w.new != 0),
    wr run .sw (r0 .tguWdog) (Fld.tguWdog_wdog_log2.into 0 16) (fun w => Fld.tguWdog_wdog_log2.of w.new == 16),
    wr run .sw (r0 .tguWdog) (Fld.tguWdog_wdog_log2.into 0 30) (fun w => Fld.tguWdog_wdog_log2.of w.new == 30),
    wr run .sw (r0 .syncBarWdog) (Fld.syncBarWdog_wdog_log2.into 0 30) (fun w => Fld.syncBarWdog_wdog_log2.of w.new == 30),
    wr run .sw (r0 .lqBase 15) 0 (fun w => !run.flag Fld.lqCfg_enable 0 15 &&
      regionOk (Fld.lqBase_base.of w.new * 128) (128 * 2 ^ run.get Fld.lqCfg_log2_entries 0 15)),
    wr run .sw (r0 .lqCringBase 15) 0 (fun w => regionOk (Fld.lqCringBase_base.of w.new * 32) (32 * 2 ^ run.get Fld.lqCfg_log2_entries 0 15)),
    (let m := runP.put Fld.lqCfg_enable 0 1
     wr m .sw (r0 .lqTail) 1 (fun w => decide ((Fld.lqTail_tail.of w.new + 65536 - m.get Fld.lqHead_head 0) % 65536 ≤ 2 ^ m.get Fld.lqCfg_log2_entries 0) &&
       m.flag Fld.lqCfg_enable 0 && (m.partOf 0).any (fun p => p.low == 0 && !m.abortHeld p.slot))),
    wr run .sw (r0 .cqRingBase 2 31) 0 (fun w => (run.queue 0 31 2).isEmpty &&
      regionOk (Fld.cqRingBase_base.of w.new * 32) (32 * 2 ^ run.get Fld.cqRingCfg_log2_entries 0 2 31)),
    wr run .sw (r0 .cqRingCfg 0 31) (Fld.cqRingCfg_log2_entries.into 0 16) (fun w => decide (Nat.log2 (queueDepth 0) ≤ 16) &&
      Fld.cqRingCfg_log2_entries.of w.new == 16 && regionOk (run.get Fld.cqRingBase_base 0 0 31 * 32) (32 * 2 ^ 16)),
    wr run .sw (r0 .cqColRingBase) 0 (fun w => (run.die 0).colQ.isEmpty &&
      regionOk (Fld.cqRingBase_base.of w.new * 32) (32 * 2 ^ run.get Fld.cqColRingCfg_log2_entries 0)),
    wr run .sw (r0 .cqColRingCfg) (Fld.cqRingCfg_log2_entries.into 0 (Nat.log2 (queueDepth 3))) (fun w =>
      Fld.cqRingCfg_log2_entries.of w.new == Nat.log2 (queueDepth 3) && decide (Fld.cqRingCfg_log2_entries.of w.new ≤ 16)),
    wr run .sw (r0 .arrCfg 0 31) (Fld.arrCfg_spill_log2.into 0 14) (fun w => Fld.arrCfg_spill_log2.of w.new == 14 &&
      decide (Fld.arrCfg_a_resident.of w.new ≤ 7) && (run.arr 0 31).openTiles.isEmpty && (run.arr 0 31).feed.isEmpty),
    wr run .cp (r0 .arrSpareMap 0 31) 1,
    wr run .sw (r0 .sumCtrl 0 31) (Fld.sumCtrl_force.into 0 2) (fun w => Fld.sumCtrl_force.of w.new != 3),
    wr run .sw (r0 .sumTblBase) 0 (fun w => !run.sumacBusy 0 && regionOk (Fld.sumTblBase_base.of w.new * 4096) (32 * run.get Fld.sumTblCfg_entries 0)),
    wr run .sw (r0 .sumTblCfg) 0 (fun w => regionOk (run.get Fld.sumTblBase_base 0 * 4096) (32 * Fld.sumTblCfg_entries.of w.new)),
    wr run .sw (r0 .vecSrKey 0 31) 5 (fun _ => !run.flag Fld.vecStatus_busy 0 (c := 31)),
    wr run .sw (r0 .vecSclBase) 0 (fun w => !(List.range 32).any (fun c => (run.vec 0 c).run.isSome) &&
      regionOk (Fld.vecSclBase_base.of w.new * 64) (64 * min (run.get Fld.vecSclCfg_entries 0) 4096)),
    wr run .sw (r0 .vecSclCfg) 0 (fun w => regionOk (run.get Fld.vecSclBase_base 0 * 64) (64 * min (Fld.vecSclCfg_entries.of w.new) 4096)),
    wr run .sw (r0 .colGrpBase) 0 (fun w => (run.col 0).ops.isEmpty && decide (run.get Fld.colGrpCfg_entries 0 ≤ 256) &&
      regionOk (Fld.colGrpBase_base.of w.new * 4096) (64 * run.get Fld.colGrpCfg_entries 0)),
    wr run .sw (r0 .colGrpCfg) (Fld.colGrpCfg_entries.into 0 256) (fun w => Fld.colGrpCfg_entries.of w.new == 256 &&
      regionOk (run.get Fld.colGrpBase_base 0 * 4096) (64 * 256)),
    wr run .sw (r0 .dcCfg) (Fld.dcCfg_dc_pf_distance.into 0 32) (fun w => Fld.dcCfg_clove_mode.of w.new != 3 && Fld.dcCfg_dc_pf_distance.of w.new == 32),
    wr run .sw (r0 .dcL1Cfg) (Fld.dcL1Cfg_pf_distance.into 0 1) (fun w => Fld.dcL1Cfg_pf_distance.of w.new != 0),
    wr run .cp (r0 .dcPinQuota) 1572864 (fun w => Fld.dcPinQuota_quota.of w.new == 1572864 && decide (run.get Fld.dcPinUsed_used 0 ≤ 1572864)),
    wr runP .sw (r0 .snapFqPtr) 0 (fun w => Fld.snapFqPtr_head.of w.new == 0 && Fld.snapFqPtr_head.of w.old == 0),
    (let m := runP.put Fld.snapFqCfg_enable 0 1
     wr m .sw (r0 .snapFqCfg) (Fld.snapFqCfg_log2_entries.into 0 6) (fun w => m.flag Fld.snapFqCfg_enable 0 && Fld.snapFqCfg_enable.of w.new == 0 &&
       Fld.snapFqCfg_log2_entries.of w.new == 6 && regionOk (m.get Fld.snapFqBase_base 0 * 64) (64 * 2 ^ 6))),
    wr runP .sw (r0 .snapFqCfg) (Fld.snapFqCfg_log2_entries.into (Fld.snapFqCfg_enable.into 0 1) 16) (fun w =>
      Fld.snapFqCfg_log2_entries.of w.new == 16 && !runP.flag Fld.snapFqCfg_enable 0 &&
      regionOk (runP.get Fld.snapFqBase_base 0 * 64) (64 * 2 ^ 16)),
    (let m := runP.put Fld.snapFqCfg_log2_entries 0 6
     wr m .sw (r0 .snapFqBase) 0 (fun w => !m.flag Fld.snapFqCfg_enable 0 && m.get Fld.snapFqCfg_log2_entries 0 == 6 &&
       regionOk (Fld.snapFqBase_base.of w.new * 64) (64 * 2 ^ 6))),
    wr run .sw (r0 .pwrNutCfg) (Fld.pwrNutCfg_grid_us.into (Fld.pwrNutCfg_taper_ms.into (Fld.pwrNutCfg_floor_pct.into 0 100) 1) 1) (fun w =>
      Fld.pwrNutCfg_floor_pct.of w.new == 100 && Fld.pwrNutCfg_taper_ms.of w.new != 0 && Fld.pwrNutCfg_grid_us.of w.new != 0),
    wr run .sw (r0 .pwrNutProf 15) 0].all id) = true := by
  decide +kernel

/-- One allowed write for each acting row. -/
theorem witness_acting_rows : ([
    wr run .cp ⟨.ftCtrl, 1, 0, 0, 0⟩ 0,
    wr run .cp (r0 .ftCtrl) (Fld.ftCtrl_role.into 0 1) (fun w => Fld.ftCtrl_role.of w.old != 1 && Fld.ftCtrl_role.of w.new == 1 && !run.mt.gm),
    (let m : Mach := { run.put Fld.ftCtrl_role 0 1 with mt := { run.mt with gm := true } }
     wr m .cp (r0 .ftCtrl) 0 (fun w => Fld.ftCtrl_role.of w.old != Fld.ftCtrl_role.of w.new && Fld.ftCtrl_role.of w.new == 0 && m.mt.gm)),
    wr run .sw (r0 .ftTmrCtl 16) 0 (fun w => Fld.ftTmrCtl_enable.of w.new != 1),
    wr run .sw (r0 .ftTmrCtl 63) (Fld.ftTmrCtl_action.into (Fld.ftTmrCtl_enable.into 0 1) 1) (fun w =>
      Fld.ftTmrCtl_enable.of w.new == 1 && Fld.ftTmrCtl_enable.of w.old != 1 && actionPermitted 63 (Fld.ftTmrCtl_action.of w.new)),
    wr runP .sw (r0 .cfgXlatInv) (Fld.cfgXlatInv_go.into 0 1) (fun w => Fld.cfgXlatInv_go.of w.raw == 1 &&
      (runP.partOf 0).any (fun p => p.low == 0) && !runP.flag Fld.cfgXlatInv_busy 0 &&
      Fld.cfgXlatInv_scope.of w.raw == Fld.cfgXlatInv_scope.of w.new && Fld.cfgXlatInv_scope.of w.raw == 0),
    wr runP .sw (r0 .cfgXlatInv) (Fld.cfgXlatInv_scope.into (Fld.cfgXlatInv_go.into 0 1) 1) (fun w =>
      Fld.cfgXlatInv_scope.of w.raw == Fld.cfgXlatInv_scope.of w.new && Fld.cfgXlatInv_scope.of w.raw == 1),
    wr run .sw (r0 .lqCfg 15) (Fld.lqCfg_enable.into (Fld.lqCfg_log2_entries.into 0 12) 1) (fun w => Fld.lqCfg_log2_entries.of w.new == 12 &&
      !run.flag Fld.lqCfg_enable 0 15 && lqRegionsOk (run.get Fld.lqBase_base 0 15) (run.get Fld.lqCringBase_base 0 15) 12),
    (let m := run.put Fld.sumTblCfg_entries 0 1
     wr m .sw (r0 .sumFold) 0 (fun w => Fld.sumFold_all.of w.raw == 0 && decide (Fld.sumFold_entry.of w.raw < m.get Fld.sumTblCfg_entries 0))),
    wr run .sw (r0 .sumFold) (Fld.sumFold_all.into 0 1) (fun w => Fld.sumFold_all.of w.raw == 1),
    wr run .sw (r0 .vecStepPend) 9, wr runP .sw (r0 .snapUpdDone) 4,
    (let m : Mach := { (runP.put Fld.lqCfg_enable 0 1) with cp := { runP.cp with abortRead := [(0, 1, 0)] } }
     wr m .sw (r0 .lqTail) 1 (fun w => decide ((Fld.lqTail_tail.of w.new + 65536 - m.get Fld.lqHead_head 0) % 65536 ≤ 2 ^ m.get Fld.lqCfg_log2_entries 0) &&
       m.flag Fld.lqCfg_enable 0 && (m.partOf 0).any (fun p => p.low == 0) && (m.partOf 0).any (fun p => m.abortHeld p.slot))),
    (let m := run.put Fld.mbxRspTail_count sdDie 1 1
     wr m .sw (r8 .mbxRspHead 1) 1 (fun w => Fld.mbxRspHead_count.of w.new == 1 && Fld.mbxRspHead_count.of w.old == 0 &&
       m.get Fld.mbxRspTail_count sdDie 1 == 1)),
    wr run .sw (r0 .syncCtr 4095) 1 (fun w => w.reaches Fld.syncCtr_value),
    wr run .sw (r0 .syncCtrAdd 0) 1, wr run .sw (r0 .syncCtrSub 0) 1, wr run .sw (r0 .syncCtrArm 4095) (Fld.syncCtrArm_armed.into 0 1),
    wr run .sw (r0 .syncBarCfg 63) (Fld.syncBarCfg_core_mask.into 0 1) (fun w => !run.slotHasArrival 0 false 63 && Fld.syncBarCfg_core_mask.of w.new != 0),
    wr runP .sw (r0 .dcPinCmd) (Fld.dcPinCmd_op.into 0 1) (fun w => Fld.dcPinCmd_op.of w.raw == 1 && bitsOf w.mask 1 0 != 0 &&
      !runP.flag Fld.dcPinStatus_busy 0 && decide (runP.partOf 0 = some part0) && part0.low == 0),
    wr runP .sw (r0 .dcPinCmd) (Fld.dcPinCmd_op.into 0 2) (fun w => Fld.dcPinCmd_op.of w.raw == 2),
    wr run .sw (r0 .dcDeadCtl 63) (Fld.dcDeadCtl_declare.into 0 1) (fun w => Fld.dcDeadCtl_declare.of w.raw == 1 && Fld.dcDeadCtl_cancel.of w.raw == 0 &&
      !run.flag Fld.dcDeadCtl_active 0 63),
    (let m := run.put Fld.dcDeadCtl_active 0 1 63
     wr m .sw (r0 .dcDeadCtl 63) (Fld.dcDeadCtl_cancel.into 0 1) (fun w => Fld.dcDeadCtl_cancel.of w.raw == 1 && Fld.dcDeadCtl_declare.of w.raw == 0 &&
       m.flag Fld.dcDeadCtl_active 0 63)),
    wr run .cp (r0 .fabPortCtl 7) (Fld.fabPortCtl_disable.into 0 1) (fun w => Fld.fabPortCtl_disable.of w.new == 1 &&
      (run.setReg (r0 .fabPortCtl 7) w.new).portState 0 7 != psDisabled),
    (let m := run.put Fld.fabPortStatus_state 0 psDisabled 7
     wr m .cp (r0 .fabPortCtl 7) 0 (fun w => Fld.fabPortCtl_disable.of w.new == 0 && (m.setReg (r0 .fabPortCtl 7) w.new).portState 0 7 == psDisabled)),
    wr run .cp (r0 .fabRouteCtl) (Fld.fabRouteCtl_pend_epoch.into (Fld.fabRouteCtl_arm.into 0 1) 1) (fun w => Fld.fabRouteCtl_arm.of w.new == 1 &&
      Fld.fabRouteCtl_arm.of w.old != 1 && Fld.fabRouteCtl_pend_epoch.of w.new == (Fld.fabRouteCtl_epoch.of w.old + 1) % 2 ^ 16),
    wr run .sw (r8 .mbxReqTail 30) 16 (fun w => Fld.mbxReqTail_tail.of w.new == 16 && run.mbxHead 30 == 0)].all id) = true := by
  decide +kernel

/-- A resume of a broken group. -/
theorem witness_turned_away : ([
    wr (run.put Fld.ftTmrCtl_enable 0 1 16) .sw (r0 .ftTmrTgt 16) 5 (fun _ => (run.put Fld.ftTmrCtl_enable 0 1 16).flag Fld.ftTmrCtl_enable 0 16),
    wr run .sw (r0 .ftTmrCtl 16) (Fld.ftTmrCtl_action.into (Fld.ftTmrCtl_enable.into 0 1) 7) (fun w => !actionPermitted 16 (Fld.ftTmrCtl_action.of w.new)),
    wr run .sw (r0 .arrCfg 0 31) (Fld.arrCfg_spill_log2.into 0 7) (fun w => Fld.arrCfg_spill_log2.of w.new == 7),
    wr run .sw (r0 .arrCfg 0 31) (Fld.arrCfg_spill_log2.into 0 15) (fun w => Fld.arrCfg_spill_log2.of w.new == 15),
    wr run .sw (r0 .sumCtrl 0 31) (Fld.sumCtrl_force.into 0 3) (fun w => Fld.sumCtrl_force.of w.new == 3),
    wr run .sw (r0 .sumFold) 0 (fun w => Fld.sumFold_all.of w.raw == 0 && run.get Fld.sumTblCfg_entries 0 == 0),
    wr run .sw (r0 .tguWdog) (Fld.tguWdog_wdog_log2.into 0 15) (fun w => Fld.tguWdog_wdog_log2.of w.new == 15),
    wr run .sw (r0 .tguWdog) (Fld.tguWdog_wdog_log2.into 0 31) (fun w => Fld.tguWdog_wdog_log2.of w.new == 31),
    wr run .sw (r0 .lqTail) 1 (fun _ => !run.flag Fld.lqCfg_enable 0 0),
    wr run .sw (r0 .dcCfg) (Fld.dcCfg_clove_mode.into 0 3) (fun w => Fld.dcCfg_clove_mode.of w.new == 3),
    wr run .cp (r0 .hbmCfg 0 3) (Fld.hbmCfg_ecc_mode.into 0 3) (fun w => Fld.hbmCfg_ecc_mode.of w.new == 3),
    wr run .cp (r0 .fabRouteCtl) (Fld.fabRouteCtl_pend_epoch.into (Fld.fabRouteCtl_arm.into 0 1) 2) (fun w => Fld.fabRouteCtl_arm.of w.new == 1 &&
      Fld.fabRouteCtl_pend_epoch.of w.new != (Fld.fabRouteCtl_epoch.of w.old + 1) % 2 ^ 16)].all id &&
    decide (regAt (r0 .vecStepAct 24).addr = some (r0 .vecStepAct 24, 0)) && !mayWrite .cp (r0 .vecStepAct 24)) = true := by
  decide +kernel

/-- R168: a busy engine and a running program. -/
theorem witness_vector_busy :
    (let m := run.put Fld.vecStatus_busy 0 1 (c := 31)
     wr m .sw (r0 .vecSrKey 0 31) 5 (fun _ => m.flag Fld.vecStatus_busy 0 (c := 31))) = true := by
  decide +kernel

/-- R481, R508: 17 requests ahead, and a consumed response that no one wrote; mailbox 31. -/
theorem witness_mailbox_limits : (wr run .sw (r8 .mbxReqTail 30) 17 (fun w => decide (16 < (Fld.mbxReqTail_tail.of w.new + 2 ^ 16 - run.mbxHead 30) % 2 ^ 16)) &&
    wr run .sw (r8 .mbxRspHead 30) 1 (fun w => decide ((run.get Fld.mbxRspTail_count sdDie 30 + 2 ^ 16 - Fld.mbxRspHead_count.of w.old) % 2 ^ 16 <
      (Fld.mbxRspHead_count.of w.new + 2 ^ 16 - Fld.mbxRspHead_count.of w.old) % 2 ^ 16)) &&
    decide (regAt (r8 .mbxReqTail 31).addr = some (r8 .mbxReqTail 31, 0)) && !inSlots (r8 .mbxReqTail 31).addr 4) = true := by
  decide +kernel

/-! ### Witnesses: start-up and the boundary -/

/-- The machine after reset in a start-up phase. -/
def inPh (k : Nat) : Mach := State.reset.m.put Fld.bootStatus_phase sdDie k

theorem witness_phases : ([1, 2, 3, 4, 5, 6, 7, 8].all (fun k => (inPh k).inPhase k && (inPh k).powered) &&
    ((List.range 4).find? (fun i => stacksPass ([[], List.replicate 32 ⟨400, 150, 150, 40⟩].getD i [])) == some 1) &&
    !stacksPass (List.replicate 32 ⟨400, 149, 150, 40⟩) && !stacksPass [] && ((List.range 3).find? (fun i => [0].getD i 1 == 0) == some 0)) = true := by decide +kernel

/-- Phase 0x03 has 1 ms, phase 0x04 5 ms, phase 0x08 1 ms; at 200 PMU cycles a microsecond they have run out here. -/
theorem witness_timeout : ([(3, 1), (4, 5), (8, 1)].all (fun x =>
    let m := (inPh x.1).modTime sdDie (fun t => { t with pmu := 200 * (1000 * x.2 + 1) })
    m.inPhase x.1 && decide (((List.range 16).map (fun i => m.rd .bootPhaseUs sdDie i)).foldl max 0 + 1000 * x.2 < m.bootUs) &&
      (x.1 == 3 || phaseMax x.1 == some x.2))) = true := by decide +kernel

/-- R514: a release that fails shows code 0x08 and stops. -/
theorem test_release_fails : (after (exec (.release false) (st (inPh 3)))).map (fun m =>
    (m.get Fld.bootStatus_fail sdDie, m.pins.fault, m.sec.stopped)) = some (0x08, true, true) := by decide +kernel

/-- R512: with what PLDM supplies, FAB_NODE and FAB_DIMS are written on every die. -/
theorem test_bring_up : (after (exec (.fabricBringUp (some (0x0B4C, 0x123))) (st (inPh 7)))).map (fun m =>
    (m.get Fld.fabNode_node 7, m.get Fld.fabNode_valid 7, m.get Fld.fabNode_lock 7, m.bootPhase)) = some (0x0B4C, 1, 0, 8) := by decide +kernel

/-- With the MC up. -/
def up : Mach := run

theorem witness_boundary : up.powered = true ∧ up.pins.mcUp = true ∧ up.pins.i3c = none ∧ up.debugOpen = false ∧
    ({ up with debugOpen := true } : Mach).powered = true ∧ up.pins.tck = false ∧ (up.put Fld.secStatus_attest_ready sdDie 1).attests = true := by decide +kernel

theorem test_setdasa : (after (exec (.i3cSetdasa 0x2A 9) (st up))).map (fun m => m.pins.i3c) = some (some 9) ∧
    (after (exec (.i3cSetdasa 0x2B 9) (st up))).map (fun m => m.pins.i3c) = some none := by decide +kernel

/-! ### Witnesses: fabric time -/

/-- Port 3 of die 0 is up. -/
def portUp : Mach := run.put Fld.fabPortStatus_state 0 3 3

theorem witness_time_rows : run.powered = true ∧ portUp.dieRuns 0 = true ∧ portUp.silent = false ∧ portUp.get Fld.fabPortStatus_state 0 3 = 3 ∧
    smGet 0 ((portUp.wr .ftCount 0 64000).time 0).lastSend 3 + 64000 ≤ (portUp.wr .ftCount 0 64000).ft 0 ∧ portUp.hears 0 3 = true ∧ portUp.hears 1 3 = false ∧ portUp.hears 8 64 = true ∧
    portUp.message 3 0 0 62 none = (0, 0, 62, none) ∧ (portUp.message 64 0 0 0 none).2.2.1 = 63 ∧
    (let m := (run.put Fld.ftStatus_state 0 ftHoldover).modTime 0 (fun t => { t with pmu := 1000000 })
     m.ftState 0 = ftHoldover ∧ 1000000 ≤ m.pmu 0 - (m.time 0).holdStart) ∧
    (let m := (run.put Fld.ftCtrl_role 0 2).modTime 0 (fun t => { t with pmu := 200000 })
     let m := m.put Fld.ftStatus_state 0 ftLocked
     m.get Fld.ftCtrl_role 0 = 2 ∧ m.mt.gm = false ∧ m.dieLocked 0 = true ∧ 200000 ≤ m.pmu 0 - m.mt.heardAt ∧ m.dataPlane = true) ∧
    ({ run with mt := { run.mt with gm := true } } : Mach).mt.gm = true := by decide +kernel

/-- R27: 5 ns a PMU cycle. -/
theorem test_tick : (after (exec .ftCounterTick (st run))).map (fun m => (m.ft 0, m.ft 8, m.pmu 7)) = some (5, 5, 1) := by decide +kernel

theorem witness_rate : (-(5 * 2 ^ 32) : Int) ≤ (run.time 0).adj ∧ (run.time 0).frac < 2 ^ 32 ∧ (-4294967 : Int) ≤ 4294967 ∧ smSorted run.dies = true := by decide +kernel

/-- R28: a correction moves the rate by 1 ppm at most, and stops at 200 ppm. -/
theorem test_slew : slewRate 0 1000000000000 = 21474 ∧ slewRate 4294967 1000000000000 = 4294967 := by decide +kernel

/-- Timer 20 of die 0, periodic, and timer 0, of system scope, at their targets. -/
def timers : Mach := ((((run.wr .ftCount 0 100).wr .ftTmrTgt 0 100 20).wr .ftTmrCtl 0 (Fld.ftTmrCtl_period.into (Fld.ftTmrCtl_action.into 1 1) 50) 20).wr
  .ftTmrCtl 0 (Fld.ftTmrCtl_scope.into 1 1) 0)

theorem witness_timers_fire : timers.timerReached 0 20 = true ∧ timers.timerReached 0 0 = true ∧ timers.flag Fld.ftTmrCtl_scope 0 20 = false ∧
    timers.flag Fld.ftTmrCtl_scope 0 0 = true ∧ timers.moduleUnlocked = true ∧ timers.get Fld.ftTmrCtl_action 0 0 ≠ 7 ∧ timers.timerPeriod 0 20 = 50 ∧
    timers.timerPeriod 0 0 = 0 ∧ run.timerReached 0 20 = false ∧ timers.dieRuns 0 = true := by decide +kernel

theorem test_timer_fires : (after (exec (.timerFire 0 20) (st timers))).map (fun m =>
    (m.rd .ftTmrFired 0, m.rd .ftTmrTgt 0 20, ((m.time 0).acts.map (·.due)))) = some (2 ^ 20, 150, [140]) := by decide +kernel

theorem test_timer_misses : (after (exec (.timerFire 0 0) (st timers))).map (fun m =>
    (m.rd .ftTmrFired 0, m.rd .ftTmrMissed 0, m.get Fld.ftTmrMissedCount_missed 0)) = some (0, 1, 1) := by decide +kernel

/-- An action of each kind has arrived at die 0 of a partition with a job, NUTMEG on, a profile, Saffron on. -/
def acting (action arg : Nat) : Mach :=
  let m := ((((runP.put Fld.fabJob_valid 0 1).put Fld.snapCfg_enable 0 1).put Fld.pwrNutProf_valid 0 1).put Fld.snapStatus_vote_pending 0 1)
  m.modDie 0 (fun x => { x with time := { x.time with acts := [{ timer := 20, action, arg, due := 0, at_ := 0 }] },
                                pwr := { x.pwr with nut := some { a := 0, f := 0, t0 := 0, taper := none, ramp := none } } })

theorem witness_actions : ([1, 2, 3, 4, 5, 6, 7, 8, 9].all (fun a => ((acting a 0).takeAct 0 a).2.isSome && (acting a 0).dieRuns 0)) = true ∧
    (((acting 4 0).takeAct 0 4).1.colOp 0 0).isNone = true ∧ (((acting 5 0).takeAct 0 5).1.pwr 0).nut.isSome = true ∧
    ((acting 5 0).takeAct 0 5).1.flag Fld.pwrNutProf_valid 0 0 = true ∧ ((acting 7 0).takeAct 0 7).1.partAt 0 = some part0 ∧
    ((acting 7 0).takeAct 0 7).1.flag Fld.snapCfg_enable 0 = true ∧
    (((acting 7 0).takeAct 0 7).1.lateBoundary part0).flag Fld.snapStatus_committed 0 = false ∧ part0.low = 0 ∧
    (acting 7 0).partOf 0 = some part0 ∧ (acting 7 0).flag Fld.snapStatus_vote_pending 0 = true ∧ (acting 3 0).flag Fld.fabJob_valid 0 = true := by decide +kernel

/-- R70: one scale entry, marked for processing. -/
def marked : Mach := ((run.put Fld.vecSclCfg_entries 0 1).put Fld.vecSclBase_base 0 1).setRaw 76 (toBytes 4 (2 ^ 30))

theorem witness_scale_entry : ((marked.modDie 0 id).sclNext 0 (marked.sclEntries 0) 0).2 = some 0 ∧
    ({ marked with parts := [part0] } : Mach).partOf 0 = some part0 := by decide +kernel

/-- Action 0x6 applies the pending cap on a die other than CD0 too. -/
theorem witness_cap : ((run.modDie 1 (fun x => { x with time := { x.time with acts := [{ timer := 20, action := 6, arg := 0, due := 0, at_ := 0 }] } })).takeAct
    1 6).2.isSome = true ∧ [0, 1].all (fun d => ((((run.modPwr d (fun p => { p with capPend := some 900 })).modDie d (fun x =>
    { x with time := { x.time with acts := [{ timer := 20, action := 6, arg := 0, due := 0, at_ := 0 }] } })).takeAct d 6).1.pwr d).capPend == some 900) = true ∧
    ((acting 6 0).pwr 0).capPend = none := by decide +kernel

/-! ### Witnesses: memory -/

theorem witness_places : (2 ^ 41 - 1 : Nat) < 2 ^ 41 ∧ (7 : Nat) < 8 ∧ (2 ^ 14 - 1 : Nat) < 2 ^ 14 ∧ isStacked (2 ^ 41 - 1) = true ∧
    isGddr (2 ^ 41) = true ∧ Memory.wf run.mem = true ∧ smWf 0 run.ecc = true ∧ smGet 0 run.ecc 0 = 0 ∧ (List.replicate 32 5#8).length = 32 := by decide +kernel

/-- Table 11.1: the last sector of stacked memory lies in the last place, and the mirror of address 0 on die 4. -/
theorem test_last_place : hbmDecode (2 ^ 41 - 32) = { die := 7, stack := 3, pch := 63, sid := 3, bg := 3, bank := 3, row := 2 ^ 14 - 1, col := 31 } ∧
    (hbmDecode (mirrorAddr 0)).die = 4 := by decide +kernel

/-- R331, R323: a stored sector is read back. -/
theorem test_sector : (after (exec (.hbmReadComplete 64 0 false) (st (run.storeSector 64 (1#8 :: List.replicate 31 0#8) false)))).map (fun m => m.resp) =
    some (.ok 1) := by decide +kernel

theorem witness_memory_rows : (let m := (run.put Fld.hbmStatus_scrub_open 0 1 (c := 3)).put Fld.hbmCfg_scrub_rate 0 1 (c := 3)
     m.flag Fld.hbmStatus_scrub_open 0 (c := 3) = true ∧ m.flag Fld.hbmStatus_margining 0 (c := 3) = false ∧ m.get Fld.hbmCfg_scrub_rate 0 (c := 3) ≠ 0 ∧
       (m.pchTrk 0 3 63).pos < passSectors) ∧
    (({ run.put Fld.hbmCfg_ecc_mode (hbmDecode 64).die 2 (c := (hbmDecode 64).stack) with ecc := [(2, 1)] } : Mach).sectorDecode 64).2 = .bad ∧ run.dataPlane = true ∧
    (runP.put Fld.cfgXlatInv_busy 0 1).flag Fld.cfgXlatInv_busy 0 = true ∧
    ((bitsSet 1 64).flatMap (fun q => (List.range 36).map (fun pin => (q, pin)))).length = 36 := by decide +kernel

/-! ### Witnesses: core threads -/

/-- Three pages of 64 KiB: coherent memory at its own address, remote memory of node 1, a register window of die 0. -/
def pages : List TlbEntry :=
  [⟨0x10000, 65536, 0x1001C⟩, ⟨0x20000, 65536, 2 ^ 48 + 0x3C⟩, ⟨0x30000, 65536, 0x8004001005C⟩, ⟨0, 65536, 0x1C⟩]

/-- A block of one thread at pc 4096 on core 0 of die 0, with 4 KiB of local store, `a` in x10 and `b` in x11. -/
def thr (a : Nat) (b : Nat := 0) : Mach :=
  let k : Block := ⟨0, 0, 0, 0, 0, 0, 1, 32, 32, [(Thread.start 4096 a).setX 11 b], [], 4096, 0, 1, [0], [], [], [], false⟩
  ((runP.put Fld.fabDims_lz 0 1).put Fld.cfgXlatRoot_valid 0 1).modCore 0 0 (fun c => { c with blocks := [k], tlb := pages })

/-- The thread of that block. -/
def th0 : ThreadRef := ⟨0, 0, 0⟩

/-- An instruction issues to that thread alone. -/
def issues1 (m : Mach) (op : RvOp) : Bool :=
  m.dieRuns 0 && decide (m.issueSet 0 0 0 0 1 = [th0]) && (m.block 0 0 0).any (fun k => op.inRegs k.xregs k.fregs)

theorem issues_of {m : Mach} {op : RvOp} (h : issues1 m op = true) : ∃ k, (st m).issues iss op th0 [] k := by
  simp only [issues1, Bool.and_eq_true, decide_eq_true_eq] at h
  obtain ⟨⟨h1, h2⟩, h3⟩ := h
  cases hb : m.block 0 0 0 with
  | none => simp [hb] at h3
  | some k => exact ⟨k, h1, h2, hb, by simpa [hb] using h3, rfl⟩

/-- That machine once the issue is counted, and once the operands of its instruction are read too. -/
def go (m : Mach) : Mach := match m.block 0 0 0 with | some k => (st m).issued iss k [th0] | none => m
def reads (m : Mach) (op : RvOp) : Mach := match m.block 0 0 0 with | some k => (st m).reading iss k [th0] op | none => m
def kt (m : Mach) (x : KtOp) (a b : Nat := 0) : Mach := reads m (.kt x 5 a b)

/-- Where an access of the thread's x10 is placed. -/
def place (m : Mach) (kind : MemKind) (width : Nat) : Option Place :=
  match m.placeFor 0 th0 kind (m.laneVa 0 th0 10 0) width with
  | (m', .ok p) => if m'.live 0 th0 && (m'.laneGate 0 th0 kind p).2 then some p else none
  | _ => none

/-- The turn of an atomic of the thread has come. -/
def turns (m : Mach) (f5 width : Nat) : Bool :=
  match m.placeFor 0 th0 .amo (m.laneVa 0 th0 10 0) width with
  | (m1, .ok p) => m1.live 0 th0 && (m1.amoPoison 0 f5 width [{ who := th0, va := m.laneVa 0 th0 10 0, at_ := p, val := m1.tx 0 th0 11 % 2 ^ (8 * width) }]).isNone &&
      !m1.storesHeld 0 th0 &&
      (match m1.laneGate 0 th0 .amo p with
       | (m', true) => m1.tx 0 th0 11 == m'.tx 0 th0 11 && (match p with
         | .coherent pa mirror => (m'.deadClear pa).2 &&
             !(((m'.deadClear pa).1.cnt .tguCnt 0 7 0).amoHome (viaThread 0 th0 mirror) pa width f5 [m'.tx 0 th0 11 % 2 ^ (8 * width)]).2.2
         | _ => true)
       | _ => false)
  | _ => false

/-- A push of the thread takes a credit and finds its descriptor. -/
def pushes (m : Mach) : Bool :=
  match m.placeFor 0 th0 .desc (m.laneVa 0 th0 10 0) 64 with
  | (m', .ok p) => m'.live 0 th0 && !(m'.stallsOf 0 0 0).any (fun p => p.who == th0) && decide (m'.creditsUsed 0 0 0 < queueDepth 0) &&
      (m'.stallsOf 0 0 0).all (·.granted) &&
      (let m2 := m'.modStalls 0 0 0 (fun l => l ++ [{ who := th0, granted := true }])
       (m2.descPoison 0 (th0, m.laneVa 0 th0 10 0, p)).isNone && (match m2.laneGate 0 th0 .desc p with
        | (m3, true) => (match m3.readDesc 0 th0 (m.laneVa 0 th0 10 0) p with | (_, some (_, bad)) => !bad | _ => false)
        | _ => false))
  | _ => false

theorem placed_of {m : Mach} {kind : MemKind} {width : Nat} {p : Place} (h : place m kind width = some p) :
    ∃ m', m.placed 0 th0 kind (m.laneVa 0 th0 10 0) width m' p := by
  unfold place at h
  split at h
  · rename_i m1 q e
    split at h
    · rename_i hl
      cases h
      simp only [Bool.and_eq_true] at hl
      exact ⟨_, m1, e, hl.1, Prod.ext rfl hl.2⟩
    · cases h
  · cases h

/-- Words written out from the encodings of the RISC-V base set: `lui x5, 0x12345`, `auipc x5, 1`, `add x5, x10, x11`, `addi x5, x10, -1`,
`jal x1, 8`, `jalr x1, 0(x10)`, `beq x10, x11, 8`, `fadd.s f1, f2, f3`, `fmadd.s f1, f2, f3, f4`, `fence`, a word of zeros. -/
theorem witness_register_instructions : ([0x123452B7, 0x00001297, 0x00B502B3, 0xFFF50293, 0x008000EF, 0x000500E7, 0x00B50463, 0x003170D3, 0x203170C3,
      0x0FF0000F, 0].all (fun w => issues1 (thr 4096) (decodeRv w)) && issues1 (thr 0) .ecall && issues1 (thr 0) .ebreak &&
      issues1 (thr 0) .fencei && issues1 (thr 0) (.csr 1 5 10 3) && ((thr 0).csrValue 0 th0 3).isSome && ((thr 0).thread 0 th0).isSome) = true ∧
    decodeRv 0x123452B7 = .lui 5 0x12345000 ∧ decodeRv 0x008000EF = .jal 1 8 ∧ decodeRv 0x000500E7 = .jalr 1 10 0 ∧ decodeRv 0x0FF0000F = .fence ∧
    decodeRv 0 = .illegal := by decide +kernel

theorem test_addi : (after (exec (.baseInstruction iss 0xFFF50293#32) (st (thr 7)))).bind (fun m => (m.thread 0 th0).map (fun t =>
    (t.getX 5, t.pc, t.instret))) = some (6, 4100, 1) := by decide +kernel

/-- x31 is not declared by a launch of 16 registers (R181). -/
theorem witness_undeclared : (RvOp.lui 31 0).inRegs 16 0 = false ∧ (decodeRv 0x00000FB7).inRegs 16 0 = false ∧
    (decodeRv 0x123452B7).names ≠ ([], []) ∧ (decodeRv 0x123452B7).inRegs 32 32 = true := by decide +kernel

theorem witness_places_of_accesses : place (thr 0xFF0000000008) .load 8 = some (.ls 0 0 8) ∧ place (thr 0x10008) .load 8 = some (.coherent 0x10008 false) ∧
    place (thr 0x20008) .load 8 = some (.remote 1 8) ∧ place (thr 0x30500) .load 8 = some (.register 0x80040010500) ∧
    place (thr 0xFF0000000FFC) .store 4 = some (.ls 0 0 0xFFC) ∧ place (thr 0x10008) .store 4 = some (.coherent 0x10008 false) ∧
    place (thr 0x20008) .store 4 = some (.remote 1 8) ∧ place (thr 0x30500) .store 8 = some (.register 0x80040010500) ∧
    place (thr 0xFF0000000008) .lr 4 = some (.ls 0 0 8) ∧ place (thr 0x10008) .lr 8 = some (.coherent 0x10008 false) ∧
    place (thr 0xFF0000000008) .sc 4 = some (.ls 0 0 8) ∧ place (thr 0x10008) .sc 8 = some (.coherent 0x10008 false) ∧
    place (thr 0xFF0000000008) .amo 4 = some (.ls 0 0 8) ∧ place (thr 0x10008) .amo 8 = some (.coherent 0x10008 false) ∧
    place (thr 0x20008) .amo 8 = some (.remote 1 8) ∧ place (thr 0x10008) .acc 8 = some (.coherent 0x10008 false) ∧
    place (thr 0x10040) .desc 64 = some (.coherent 0x10040 false) ∧ place (reads (thr 0x10008) (loadOp 8 true false 5 10 0)) .load 8 = some (.coherent 0x10008 false) ∧
    place (kt (thr 0x10008) (.accst 4) 10 11) .acc 4 = some (.coherent 0x10008 false) ∧
    place (kt (thr 0x10008) (.accst 8) 10 11) .acc 8 = some (.coherent 0x10008 false) ∧ place (thr 0x10004) .load 8 = none ∧ place (thr 0x40000) .load 8 = none := by decide +kernel

theorem witness_memory_instructions : ([loadOp 8 true false 5 10 0, loadOp 4 true true 5 10 0, loadOp 1 false false 5 10 0, storeOp 8 false 10 11 0,
    storeOp 4 true 10 11 0, .lr 4 5 10 true, .sc 8 5 10 11 true, .amo 0 8 5 10 11 true, .kt .famoadd 5 10 11, .kt (.accst 4) 0 10 11, .kt (.accst 8) 0 10 11].all
      (issues1 (thr 0x10008))) = true ∧ smSorted (thr 0).cores = true ∧ (0 : Nat) ∈ amoCodes ∧
    [(0xFF0000000008, 0), (0x10008, 0), (0x10008, 8)].all (fun x => turns (reads (thr x.1) (.amo x.2 4 5 10 11 true)) x.2 4) = true ∧ turns (kt (thr 0x10008) .famoadd 10 11) 32 4 = true ∧
    ((reads (thr 0x10008) (.lr 8 5 10 true)).l1Read 0 0 0x10008 false false).2.poison = false ∧ (reads (thr 0x10008) (.lr 8 5 10 true)).storesHeld 0 th0 = false ∧
    ((thr 0x10008).modThread 0 th0 (fun t => { t with resv := some 0x10000 })).thread 0 th0 ≠ (thr 0x10008).thread 0 th0 := by decide +kernel

/-- R188: a store to the local store and a load of it. -/
theorem test_local_store : (after (exec (.coreStore iss 4 false 10 11 0) (st (thr 0xFF0000000008 0x80000001)))).bind (fun m =>
    (after (exec (.coreLoad iss 4 true false 5 10 0 false) (st m))).bind (fun m => (m.thread 0 th0).map (fun t => t.getX 5))) =
      some 0xFFFFFFFF80000001 := by decide +kernel

theorem test_misaligned : ((after (exec (.coreLoad iss 8 true false 5 10 0 false) (st (thr 0x10004)))).map (fun m =>
    m.get Fld.tguStatus_blocks 0)) = some 0 := by decide +kernel

/-- R173: SC on a reservation stores and gives 0; without one it gives 1. -/
theorem test_lr_sc : (after (exec (.coreLr iss 4 5 10) (st (thr 0xFF0000000008 9)))).bind (fun m =>
    (after (exec (.coreSc iss 4 6 10 11) (st m))).bind (fun m => (m.thread 0 th0).map (fun t => (t.getX 6, t.resv, m.lsRead 0 0 0 8 4 |> ofBytes)))) =
      some (0, none, 9) ∧
    (after (exec (.coreSc iss 4 6 10 11) (st (thr 0xFF0000000008 9)))).bind (fun m => (m.thread 0 th0).map (fun t => t.getX 6)) = some 1 := by decide +kernel

theorem witness_kt : (([.qpush 0, .qpush 1, .qpush 2, .qpush 3, .qcred 0, .ctr 0, .ctr 1, .ctr 2, .ctr 3, .scwait, .scwaitc, .bar, .mbar true, .mbar false,
      .pref true, .pref false, .fence 0, .fence 1, .fence 2, .fence 3, .fence 4, .fence 5, .fence 6, .exit, .vote 0, .vote 1, .vote 2, .shfl 0,
      .shfl 1, .shfl 2, .shfl 3, .active] : List KtOp).all (fun x => issues1 (thr 5) (.kt x 0 0 0)) &&
    [KtOp.ctr 1, .ctr 2, .ctr 3].all (fun x => (kt (thr 5) x 10 11).handleOk 0 th0 5 false false) && (kt (thr 5) (.ctr 0) 10 11).handleOk 0 th0 5 true false &&
    [KtOp.scwait, .scwaitc].all (fun x => (kt (thr 5) x 10 11).handleOk 0 th0 5 false true) && !bitOf 5 15 &&
    [KtOp.ctr 0, .ctr 1, .ctr 2].all (fun x => (kt (thr 5) x 10 11).earlierVisible 0 th0) && !(kt (thr 0x18005) (.ctr 0) 10 11).requestRefused 0 1 (.add 0 5 1) &&
    bitOf 0x18005 15 && decide (0x18005 < 2 ^ 30) && smSorted (thr 5).cores && pushes (kt (thr 0x10040) (.qpush 0) 10) &&
    [KtOp.pref true, .pref false].all (fun x => match ((kt (thr 0x10008) x 10).translate 0 0 0x10008 .read).2 with | .ok (.coherent _ _ _) => true | _ => false) &&
    (match ((kt (thr 0x40000) (.pref true) 10).translate 0 0 0x40000 .read).2 with | .error _ => true | _ => false)) = true := by decide +kernel

theorem thr_sorted : (thr 5).regsSorted := Mach.regsSorted_of _ (by decide)

/-- R238: KT.SCADD gives the value from before and adds. -/
theorem test_scadd : (let m := ((thr 5 3).put Fld.syncCtr_value 0 4 5).execKt 0 [th0] (.ctr 0) 12 10 11
    (m.thread 0 th0).map (fun t => (t.getX 12, m.get Fld.syncCtr_value 0 5))) = some (4, 7) := by decide +kernel

/-- R243: a wait above the counter's value holds the thread; KT.SCWAITC on a value that covers it takes its threshold. -/
theorem test_scwait : (((thr 5 3).execKt 0 [th0] .scwait 12 10 11).thread 0 th0).map (fun t => t.wait) = some .counter ∧
    (((thr 5 3).put Fld.syncCtr_value 0 4 5).execKt 0 [th0] .scwaitc 12 10 11).get Fld.syncCtr_value 0 5 = 1 := by decide +kernel

/-- R207: a push takes a descriptor. -/
theorem test_qpush : (((thr 0x10040).execKt 0 [th0] (.qpush 0) 5 10 0).queue 0 0 0).length = 1 := by decide +kernel

theorem witness_stall : (let m := kt ((thr 0x10040).modCore 0 0 (fun c => { c with queues := [List.replicate 32 ⟨0, [], 0, false, true, false⟩, [], []] })) (.qpush 0) 10
    queueDepth 0 ≤ m.creditsUsed 0 0 0 ∧ place m .desc 64 = some (.coherent 0x10040 false)) := by decide +kernel

theorem test_ballot : (after (exec (.ktVoteBallot iss 5 10) (st (thr 7)))).bind (fun m => (m.thread 0 th0).map (fun t => (t.getX 5, t.pc))) = some (1, 4100) := by
  decide +kernel

/-- A barrier whose time is up, a slot that waits too long, an issue slot with a group and one without. -/
theorem witness_limits : (((thr 0).block 0 0 0).any (fun k =>
      let k := { k with bars := [⟨0, 2, 0, [0], 0, 0⟩] }
      decide (k.bars.find? (fun x => decide (x.start + x.limit ≤ (thr 0).cc 0)) = some ⟨0, 2, 0, [0], 0, 0⟩)) &&
      (let m := (run.put Fld.syncBarWdog_wdog_log2 0 0).setSlotSt 0 false 63 { SlotSt.init with start := some 0 }
       decide ((m.slotSt 0 false 63).start = some 0) && !(m.slotSt 0 false 63).sent && decide ((m.slotDies 0 false 63).head?.getD 0 = 0)) &&
      ((thr 0).nextGroup 0 0 0).isSome && ((thr 0).nextGroup 0 0 1).isNone && ((thr 0).nextGroup 0 0 0).any (fun x => decide (x.2 = 0) &&
        decide (choosePc ((thr 0).readyAt 0 0 x.1 0) x.1.passed 0 = some (4096, false)) &&
        decide ((((thr 0).readyAt 0 0 x.1 0).filter (fun y => y.2.pc == 4096)).map (fun y => (⟨0, x.1.slot, y.1⟩ : ThreadRef)) = [th0])) &&
      (match ((thr 0).fetch 0 th0 4096).2 with | .word w => w == 0 | _ => false) && (match ((thr 0).fetch 0 th0 4098).2 with | .fault c => c == 2 | _ => false) &&
      (match (({ (thr 0).modCore 0 0 (fun c => { c with tlb := [⟨0, 65536, 2 ^ 38 + 0x1C⟩] }) with cp := { (thr 0).cp with resetting := 2 } } : Mach).fetch
        0 th0 4096).2 with | .wait _ => true | _ => false)) = true := by decide +kernel

/-- R177, R178: the slot fetches what stands at the pc: `addi x5, x10, -1` at 4096. -/
theorem test_issue_slot : (after (exec (.issueSlot 0 0 ⟨0, false⟩) (st ((thr 7).setRaw 4096 [0x93#8, 0x02#8, 0xF5#8, 0xFF#8])))).bind (fun m =>
    (m.thread 0 th0).map (fun t => (t.getX 5, t.pc))) = some (6, 4100) := by decide +kernel

/-! ### Witnesses: launches -/

/-- A machine with 64-bit words stored from address 64. -/
def words (m : Mach) (ws : List Nat) : Mach := m.setRaw 64 (ws.flatMap (toBytes 8))

/-- A launch descriptor: one kernel of one block of one thread, entry 4096, 32 registers. -/
def lws : List Nat := [0x50, 2 ^ 56, 0, 0, 4096 * 2 ^ 16, 2 ^ 5 + 31, 2 ^ 32, 0, 0, 0, 0, 0, 0, 0, 0, 0]

/-- An ABORT of slot 0 in progress since PMU cycle 0. -/
def ending (m : Mach) : Mach := { m with cp := { m.cp with aborts := [⟨0, [], 0, 0, 0, 0⟩] } }

/-- Launch queue 0 of the partition, enabled, with one descriptor at address 0. -/
def lq (ws : List Nat) : Mach := ((runP.put Fld.lqCfg_enable 0 1).put Fld.lqTail_tail 0 1).setRaw 0 (ws.flatMap (toBytes 8))

theorem witness_launch_read : ([lq lws, lq [], { lq lws with ecc := [(0, poisonVec)] }].all (fun m => m.dataPlane && decide (m.partAt 0 = some part0) &&
      !m.aborting 0 && (ending m).aborting 0 && !part0.launches.any (fun l => l.lq == 0 && !l.allPlaced) && m.flag Fld.lqCfg_enable 0 0 && decide (m.get Fld.lqHead_head 0 0 ≠ m.get Fld.lqTail_tail 0 0))) = true ∧
    (let bs (m : Mach) := (m.readBytes (.engine 0) (m.get Fld.lqBase_base 0 0 * 128) 128).2
     anyPoison (bs (lq lws)) = false ∧ firstBad (launchChecks part0 (wordsOf (plain (bs (lq lws))) 16)) = none ∧
     (firstBad (launchChecks part0 (wordsOf (plain (bs (lq []))) 16))).isSome = true ∧
     anyPoison (bs { lq lws with ecc := [(0, poisonVec)] }) = true) := by decide +kernel

/-- A partition with that launch, no block placed; the room of core 0 when its core is fenced is none. -/
def placing (m : Mach) : Mach := m.modPart 0 (fun p => { p with launches := [⟨0, 0, lws, true, [0], 0, 0, [[0, 1, 2, 3]]⟩] })

/-- R226: a launch that may place, with room and without, at core 7 of die 0, which its row 0 covers. -/
theorem witness_block_place : (((placing runP).partAt 0).bind Part.nextLaunch).isSome = true ∧
    (((placing runP).partAt 0).bind Part.nextLaunch).any (fun l => l.kernelAt 0 7 == some 0 && lCluster l.words == 1 &&
      ((placing runP).roomFor 0 7 l.words 0).isSome && ((placing (runP.put Fld.arrFence_fenced 0 1 (c := 7))).roomFor 0 7 l.words 0).isNone) = true ∧
    (placing runP).aborting 0 = false ∧ (ending runP).aborting 0 = true ∧ smSorted runP.cores = true := by decide +kernel

/-- R221, R226: the block starts on core 7 and the launch counts it. -/
theorem test_block_place : (after (exec (.blockPlace 0 0 7) (st (placing runP)))).map (fun m => ((m.core 0 7).blocks.map (fun b => b.threads.map (·.pc)),
    m.parts.map (fun p => p.launches.map (·.placed)))) = some ([[4096]], [[[1]]]) := by decide +kernel

/-! ### Witnesses: the matrix array and its sparsity unit -/

/-- Core 0 of die 0 with one descriptor of queue `q`, waiting for nothing. -/
def queued (m : Mach) (q : Nat) (ws : List Nat) (waiting released : Bool := false) : Mach :=
  m.modCore 0 0 (fun c => { c with queues := c.queues.set q [⟨1, ws, 0, waiting, released, false⟩] })

/-- An array descriptor of one tile (first and last): K = 32 in binary32, one row, one column, A at 0x10000 and B at 0x11000, mode `mode`, no
history, its zero map at 0x12000. -/
def aws (mode : Nat := 0) (flags : Nat := 3) (hist : Nat := 0x7FF) : List Nat :=
  [0x10, 2 ^ 48 + 2 ^ 40 + 2 ^ 32, 0x10000 * 2 ^ 16 + 5 * 2 ^ 13 + flags * 16 + mode * 4, 0x11000 * 2 ^ 16 + 5 * 2 ^ 13 + hist, 2 ^ 44 + 2 ^ 24,
    0x1FFF * 2 ^ 27 + 0x1FFF * 2 ^ 14, 0x12000 * 2 ^ 16, 0]

/-- Core 0 of die 0, its pages placed, with the given array state. -/
def arrM (f : ArrSt → ArrSt) (m : Mach := thr 0) : Mach := m.modArr 0 0 f

/-- A tile of that descriptor, planned. -/
def tile (mode : Nat := 0) (g : TDesc → TDesc := id) (flags : Nat := 3) : Tile :=
  { Tile.new 1 (aws mode flags) with descs := [g { TDesc.new 1 (aws mode flags) with planned := true, mode }] }

/-- The same tile, open with sequence number 5 in plane 0. -/
def openTile (mode : Nat := 0) (g : TDesc → TDesc := id) (streamed := false) : Tile :=
  { tile mode g with seq := some 5, opened := true, streamed }

theorem witness_array_start : (let bad := queued (thr 0) 0 []
     let good (m : Mach) := queued m 0 (aws 0 (if (m.arr 0 0).tiles.isEmpty then 3 else 1))
     let opened := arrM (fun a => { a with tiles := [tile 0 id 2] })
     !bad.fenced 0 0 && (bad.oldest 0 0 0).any (fun x => !x.waiting && !x.released && (firstBad (bad.arrayChecks 0 0 x)).isSome) &&
       [good (thr 0), good opened].all (fun m => m.dieRuns 0 && (m.oldest 0 0 0).any (fun x => (firstBad (m.arrayChecks 0 0 x)).isNone &&
         (m.waitDone 0 0 0 x).2)) &&
       (((good (thr 0)).startDesc 0 0 0 1).arr 0 0).tiles.isEmpty && aFirst aws &&
       (((good opened).startDesc 0 0 0 1).arr 0 0).tiles.any (fun t => t.accepting && decide (t.err = 0) && !t.breach (aws 0 1))) = true := by
  decide +kernel

/-- Two segments that wait to be compared: one with a non-finite magnitude, one whose cells agree with their checks; and one that does not. -/
def spilled (cells : SMap W64) (mags : SMap W32) : Mach :=
  (arrM (fun a => { a with tiles := [openTile], planes := [{ ArrPlane.init with cells, mags, owner := 1 }, ArrPlane.init] })).setPlaneState 0 0 0 plSpill

/-- The code of 1 in the accumulator's format. -/
def one40 : W64 := BitVec.ofNat 64 (fmtB64.convert fmtFA40 .rne 0x3FF0000000000000).v

theorem witness_array_rows : (let t := arrM (fun a => { a with tiles := [tile] })
     let f := { arrM (fun a => { a with tiles := [tile] }) with ecc := [] }
     let fed := (arrM (fun a => { a with tiles := [openTile], feed := [⟨1, 0, 0, List.replicate 32 0, 0, false⟩,
       ⟨1, 0, 1, List.replicate 32 0, 0, false⟩] })).setPlaneState 0 0 0 plAccum
     let a := fed.arr 0 0
     -- a tile that opens, fed from the feeder
     let o := arrM (fun a => { a with tiles := [tile], feed := (fed.arr 0 0).feed })
     ((o.arr 0 0).tiles.find? (fun t => !t.opened && t.err == 0) == some tile) && !o.fenced 0 0 && (o.arr 0 0).openTiles.isEmpty &&
       (tile.current.any (fun x => x.streamable && (tile.nextBlock x x.pos == some 0) && decide ((o.arr 0 0).operand x 0 0 ≠ .absent) &&
         decide ((o.arr 0 0).operand x 1 0 ≠ .absent))) && ((List.range 2).find? (fun p => o.planeState 0 0 p == plFree) == some 0) &&
     -- an operand fetched
     ((t.arr 0 0).tiles.find? (fun t => t.err == 0 && t.descs.any (fun x => x.seq == 1))).any (fun t => t.descs.any (fun x => (x.wants 1 0).1 &&
       !x.miss.testBit 0 && !aResident x.words true)) && decide ((t.arr 0 0).ringUsed true + ceilDiv (aLines aws true * 32 * 16) 8 ≤ t.ringRoom 0 0 true) &&
     (match (f.streamBlock 0 0 1 aws 1 0).2 with | .ok _ => true | _ => false) &&
     -- a group that enters
     !fed.drooping 0 && !bubbleSlot a.bubbles a.slot && a.streaming == some openTile &&
     (openTile.current.any (fun x => x.streamable && (openTile.nextBlock x x.pos == some 0) &&
       (match ((fed.arrSlot 0 0).enterGroup 0 0 openTile x 0 0 none).2 with | .entered => true | _ => false))) &&
     (fed.modDie 0 (fun x => { x with pwr := { x.pwr with droop := true } })).drooping 0) = true := by decide +kernel

theorem witness_spills : (let s := spilled [(0, one40)] []
     let c := (arrM (fun a => { a with tiles := [openTile 0 id true], planes := [{ ArrPlane.init with owner := 1, added := true, compared := true },
       ArrPlane.init] })).setPlaneState 0 0 0 plSpill
     let r := arrM (fun a => { a with tiles := [openTile 0 id true] })
     s.spillPlane 0 0 == some 0 && (s.planeTile 0 0 0).any (fun t => !t.spilled) && s.storeState 0 0 == plFree &&
       (s.setStoreState 0 0 plAccum).storeState 0 0 != plFree && (c.planeState 0 0 0 == plSpill) && ((c.arr 0 0).plane 0).compared &&
       (r.arr 0 0).tiles.head?.any (fun t => t.opened && t.streamed && !t.spilled) && r.planeState 0 0 0 == plFree && r.planeState 0 0 1 == plFree &&
       smSorted (s.arr 0 0).store && smSorted ((s.arr 0 0).plane 0).cells) = true := by decide +kernel

/-- R103: a plane with an infinite magnitude is not compared; a plane of zeros agrees; a cell that its checks do not hold is found in row 0, column 0. -/
theorem witness_checksums : (compareSegment ((((spilled [] [(0, 0x7F800000#32)]).arr 0 0).plane 0)),
    compareSegment (((spilled [] []).arr 0 0).plane 0),
    compareSegment (((spilled [(0, one40)] []).arr 0 0).plane 0)) = (none, some (0xFF, 0xFF), some (0, 0)) := by decide +kernel

theorem witness_comparable : (let s := spilled [(0, one40)] []
     s.comparable 0 0 0 && !s.comparable 0 0 1 && (s.planeTile 0 0 0).isSome) = true := by decide +kernel

/-- R90: the first spill of a cell that holds 1 stores 1. -/
theorem test_spill : (after (exec (.spill 0 0 false) (st (spilled [(0, one40)] [])))).map (fun m => (m.arr 0 0).store) =
    some [(0, 0x3FF0000000000000)] := by decide +kernel

theorem witness_sparsity : (let w (g : TDesc → TDesc) (h : Nat := 0x7FF) := arrM (fun a => { a with tiles := [{ tile 2 g with
       descs := [g { TDesc.new 1 (aws 2 3 h) with mode := 2 }] }] })
     let h := (w id 0).setRaw 0 [0#8, 0#8, 0#8, 0x80#8, 1#8]
     let v := (w (fun x => { x with planned := true, mode := 1 })).modCore 0 0 (fun c => { c with zmapOk := [1] })
     let y := w (fun x => { x with planned := true, mode := 1, act := some 1, toVerify := 1 })
     let c := arrM (fun a => { a with tiles := [openTile 1 (fun x => { x with act := some 0, pos := 1, miss := 1 })] })
     (((w id).window 0 0).find? (fun y => !y.2.planned && y.2.mode == 2)).any (fun t => aHist t.2.words == 0x7FF) &&
     ((h.window 0 0).find? (fun y => !y.2.planned && y.2.mode == 2)).any (fun t => aHist t.2.words == 0) &&
     (let e := (h.histEntry 0 0).2
      e.1.valid && !e.2.1 && !e.2.2 && !((h.readMap 0 (e.1.map 9) e.1.len).2.2)) &&
     ((v.window 0 0).find? (fun y => y.2.seq == 1)).any (fun t => t.2.planned && t.2.mode != 0 && t.2.act.isNone && !t.2.redo) &&
       (v.core 0 0).zmapOk.contains 1 && (match (v.engRead (feedEng 0 0 1) 0x12000 1).2 with | .ok bs => !anyPoison bs | _ => false) &&
     (((y.arr 0 0).tiles.flatMap (·.descs)).find? (fun x => x.seq == 1 && x.toVerify != 0)).any (fun x => lowestBit x.toVerify x.blocks == some 0 &&
       !aSplit3 x.words && (match y.verifyOperand 0 0 x 0 0 with | (_, some _, false) => true | _ => false)) &&
     ((c.arr 0 0).streaming).any (fun t => !t.accepting && t.current.isNone && !t.descs.any (fun x => x.toVerify != 0) && t.nextMiss.isSome)) = true := by
  decide +kernel

/-- A location that holds a released tile, with the operand cache empty, and reads of it: one row of plane 0, and the spill store. -/
theorem witness_accumulators : (let v (loc : Nat) (w : Bool) : VInst := ⟨0x40, w, 0, false, true, 0, 0, 0, 0, 0, 0, loc + 2 ^ 9⟩
     [v 0 false, v 1 false, v 2 true].all (fun v => v.imm % 4 != 3 && bitsOf v.imm 16 9 != 0 && decide (bitsOf v.imm 8 2 + bitsOf v.imm 16 9 ≤ 128) &&
       decide (v.vd + (if v.w then 2 * bitsOf v.imm 16 9 else bitsOf v.imm 16 9) ≤ 32) && (v.imm % 4 != 2 || v.w)) &&
     run.locState 0 0 0 != plReleased && (run.setPlaneState 0 0 1 plReleased).locState 0 0 1 == plReleased) = true := by decide +kernel

/-! ### Witnesses: the vector engine -/

/-- A vector descriptor of a program of one instruction at 0x14000, with `n` arguments at 0x15000. -/
def vws (n : Nat := 0) : List Nat := [0x20, 2 ^ 48 + n * 2 ^ 44, 0x14000 * 2 ^ 16, if n = 0 then 0 else 0x15000 * 2 ^ 16, 0, 0, 0, 0]

/-- That program in execution on core 0, its instruction the word `w`, its vector registers 0 and 1 the lanes `a` and `b`. -/
def vecM (w : Nat) (a b : Nat := 0) (idx : Nat := 0) : Mach :=
  ((queued (thr 0) 1 vws).setRaw 0x14000 (toBytes 8 w)).modVec 0 0 (fun v => { v with run := some ⟨1, vws, idx,
    [(0, List.replicate 128 (BitVec.ofNat 32 a)), (1, List.replicate 128 (BitVec.ofNat 32 b))], 0, List.replicate 16 0, none, 0, 0, [], false, none⟩ })

/-- The opcodes of Table 7.5. -/
def vops : List Nat := [0x01, 0x02, 0x03, 0x04, 0x05, 0x06, 0x07, 0x08, 0x09, 0x0A, 0x0B, 0x0C, 0x0D, 0x0E, 0x0F, 0x10, 0x11, 0x12, 0x13, 0x14, 0x15, 0x16,
  0x18, 0x19, 0x1A, 0x1B, 0x1C, 0x1D, 0x1E, 0x20, 0x21, 0x22, 0x23, 0x28, 0x29, 0x2A, 0x2B, 0x30, 0x31, 0x32, 0x33, 0x38, 0x39, 0x3A, 0x3B, 0x3C, 0x3D,
  0x3E, 0x40, 0x48, 0x49, 0x60, 0x61, 0x62, 0x63, 0x64]

/-- `State.vecAt` holds of one opcode of each of its groups, in bits 63 to 56 of its word; the words of all of them are legal. -/
theorem witness_vector_rows : vops.all (fun op => (VInst.decode (op * 2 ^ 56)).op == op && (VInst.decode (op * 2 ^ 56)).legal) = true ∧
    ([0x01, 0x0B, 0x18, 0x20, 0x28, 0x30, 0x38, 0x40, 0x48, 0x64].all (fun op =>
     let m := vecM (op * 2 ^ 56)
     m.dieRuns 0 && !m.fenced 0 0 && (match m.vecFetch 0 0 with
       | (m', .word _ v) => v.op == op && !m'.vecBubbled 0 0 op && v.legal
       | _ => false))) = true ∧
    (VInst.decode (0x1D * 2 ^ 56 + 32)).imm = 32 ∧ bitsOf 32 6 5 = 1 ∧ bitsOf 64 6 5 = 2 ∧ ocOk 0 512 64 = true ∧ ocOk (-1) 512 64 = false := by
  decide +kernel

theorem witness_vector_descriptors : (let bad := queued (thr 0) 1 []
     let ok := queued (thr 0) 1 vws
     let args := queued (thr 0) 1 (vws 8)
     [bad, ok, args].all (fun m => m.dieRuns 0 && !m.fenced 0 0 && (m.vec 0 0).run.isNone && (m.oldest 0 0 1).any (fun x => !x.waiting && !x.released)) &&
       (firstBad (vectorChecks [])).isSome && (firstBad (vectorChecks vws)).isNone && (firstBad (vectorChecks (vws 8))).isNone &&
       [ok, args].all (fun m => (m.oldest 0 0 1).any (fun x => (m.waitDone 0 0 1 x).2)) &&
       (match (args.engRead (vecEng 0 0 1) 0x15000 64).2 with | .ok bs => !anyPoison bs | _ => false) &&
       ((vecM 0 0 0 1).vec 0 0).run.any (fun r => decide (vLen r.words ≤ r.idx)) &&
       !(vecM 0 0 0 1).writesHeld (fun w => w.via.by_ == 0 && w.via.for_ == .engine 0 1 1) &&
       ((vecM 0 0 0 1).modCache 0 (fun k => { k with deadWaiting := [⟨⟨0, 0, .thread 0, false, false, none, .engine 0 1 1⟩, 0x10000, [0#8], false, 0⟩] })).writesHeld
         (fun w => w.via.by_ == 0 && w.via.for_ == .engine 0 1 1) &&
       ((vecM 0).oldest 0 0 1).any (fun x => (firstBad (vectorChecks x.words)).isNone && (let y := (vecM 0).waitDone 0 0 1 x
         y.2 && (y.1.vec 0 0).run.isSome)) &&
       (match ((vecM 0).vecFetch 0 0).2 with | .word r v => decide (r.idx < vLen r.words) && !vopDefined v.op | _ => false)) = true := by decide +kernel

/-- R152: VADD of 1 and 2 in every lane of v2, the word built from its fields: op 1, vd 2, va 0, vb 1. -/
theorem test_vadd : (after (exec (.vadd 0 0) (st (vecM (2 ^ 56 + 2 * 2 ^ 46 + 2 ^ 36) 0x3F800000 0x40000000)))).bind (fun m =>
    (m.vec 0 0).run.map (fun r => ((r.v.find? (fun x => x.1 == 2)).map (fun x => x.2.take 2), r.idx, r.flags))) =
      some (some [0x40400000, 0x40400000], 1, 0) := by decide +kernel

/-- Table 7.5: SLI writes its signed immediate. -/
theorem test_sli : (after (exec (.sli 0 0) (st (vecM (0x60 * 2 ^ 56 + 3 * 2 ^ 27 + 0x7FFFFF))))).bind (fun m => (m.vec 0 0).run.map (fun r => r.sreg 3)) =
    some (2 ^ 64 - 1) := by decide +kernel

/-! ### Witnesses: movers -/

/-- A mover descriptor of operation `op`: one line of 32 bytes from `src` to `dst`. -/
def mws (op : Nat) (src : Nat := 0x10040) (dst : Nat := 0x10080) : List Nat :=
  [0x30, op * 2 ^ 60 + 2 ^ 32, src * 2 ^ 16, dst * 2 ^ 16, 32 * 2 ^ 32, 0, 0, 0]

/-- A mover descriptor in progress. -/
def mrun (ws : List Nat) (finished := false) : MovRun := ⟨1, ws, 0, finished, 0, 0, 0⟩

/-- Core 0 with stagers resident and that descriptor in queue 2, in progress when `run`. -/
def movM (ws : List Nat) (going := false) (finished := false) : Mach :=
  (((queued (thr 0) 2 ws).put Fld.arrCfg_a_resident 0 1).put Fld.arrCfg_b_resident 0 1).modCore 0 0
    (fun k => { k with movs := if going then [mrun ws finished] else [] })

/-- Sources and destinations that each operation takes: the operand cache's and the stagers' by offset, memory's by address. -/
def mvArgs (op : Nat) : Nat × Nat := match op with
  | 1 => (0x10040, 0x40)
  | 2 => (0x40, 0x10080)
  | 3 => (0x10040, 0x100)
  | 4 => (0x10040, 0x100)
  | 6 => (0, 0x10080)
  | _ => (0x10040, 0x10080)

theorem witness_mover_rows : ((List.range 8).all (fun op =>
     let ws := mws op (mvArgs op).1 (mvArgs op).2
     let m := movM ws
     let g := movM ws true
     m.dieRuns 0 && !m.fenced 0 0 && (g.movRun 0 0 1).any (fun r => mvOp r.words == op) && (m.movRun 0 0 1).isNone &&
       (m.oldest 0 0 2).any (fun x => x.seq == 1 && mvOp x.words == op && (firstBad (m.moverChecks 0 0 x.words)).isNone &&
         (let y := m.waitDone 0 0 2 x
          y.2 && y.1.moverRoom 0 0 x.words && (((y.1.startDesc 0 0 2 1).modCore 0 0 (fun k => { k with movs := k.movs ++ [mrun ws] })).movRun 0 0 1 == some (mrun ws)))) &&
       (let b := movM [0x30, op * 2 ^ 60]
        (b.oldest 0 0 2).any (fun x => x.seq == 1 && !x.waiting && !x.released && (match firstBad (b.moverChecks 0 0 x.words) with
          | some bit => ((b.completeBad 0 0 2 x bit).movRun 0 0 1).isNone
          | none => false)))) &&
    (let f := movM (mws 0) true true
     (f.movRun 0 0 1).any (fun r => r.finished) && !f.engOutstanding 0 0 2 1 && ((f.queue 0 0 2).find? (fun x => x.seq == 1)).isSome &&
       !(f.die 0).engineLost.any (fun x => x == (0, 2, 1)) && !(f.die 0).engineBad.any (fun x => x == (0, 2, 1)))) = true := by decide +kernel

/-- R203: a line that goes, one whose source is in no page, one whose page table is poisoned. -/
theorem witness_mover_lines : (let r := mrun (mws 0)
     (match (movM (mws 0) true).moverRead 0 0 r with
      | (m, .ok bs) => (match (m.moverWrite 0 0 r bs).2 with | .ok _ => bs.length == 32 | _ => false)
      | _ => false) &&
     (match ((movM (mws 0 0x7F0000) true).moverRead 0 0 (mrun (mws 0 0x7F0000))).2 with | .fault => true | _ => false) &&
     (match ((({ movM (mws 0 0x7F0000) true with ecc := [(0, poisonVec)] } : Mach).put Fld.cfgXlatRoot_valid 0 1).moverRead 0 0
       (mrun (mws 0 0x7F0000))).2 with | .poisonedTable => true | _ => false)) = true := by decide +kernel

/-- R206: a copy of one line. -/
theorem test_mover_copy : ((after (exec (.moverCopy 0 0 ⟨1, false⟩) (st ((movM (mws 0)).setRaw 0x10040 [7#8])))).map (fun m =>
    ((m.readBytes (.engine 0) 0x10080 1).2, (m.movRun 0 0 1).map (fun r => (r.bytes, r.finished))))) = some ([(7#8, false)], some (32, true)) := by decide +kernel

/-! ### Witnesses: collectives, counters, remote accesses -/

/-- A collective descriptor of operation `op` on group 0: 64 bytes from 0x10000 to 0x11000, with a table where the operation has one. -/
def cws (op : Nat) (deadline : Nat := 0) : List Nat :=
  [0x40, op * 2 ^ 60 + deadline * 2 ^ 54, 0x10000 * 2 ^ 16, 0x11000 * 2 ^ 16, if op < 3 then 0 else 0x12000 * 2 ^ 16,
    if op = 3 then 0 else 64 * 2 ^ 24, 0, 0]

/-- A valid group of one rank, of this node, with sequence number 7 and 2 MiB of staging. -/
def grp : List Nat := [2 ^ 31, 0, 7, 0, 0, 0, 0, 0, 0, 0, 0, 0, 0, 2 * 2 ^ 16, 0, 0]

/-- Die 0 of a job, with that group at 0, and that descriptor in its collective queue. -/
def colM (op : Nat) (ws : List Nat := cws op) : Mach :=
  (((runP.put Fld.fabJob_valid 0 1).put Fld.colGrpCfg_entries 0 1).setRaw 0 (grp.flatMap (toBytes 4))).modDie 0
    (fun k => { k with colQ := [⟨1, ws, 0, false, false, false⟩] })

/-- The same with the die's page table at 0x1000: one leaf for the first pages, at their own addresses. -/
def colT (op : Nat) (ws : List Nat := cws op) : Mach :=
  (((((colM op ws).put Fld.cfgXlatRoot_valid 0 1).put Fld.cfgXlatRoot_root 0 1).setRaw 0x1000 (toBytes 8 0x2001)).setRaw 0x2000 (toBytes 8 0x1F))

theorem witness_collective_starts : ((List.range 5).all (fun op =>
     let m := colT op
     let w := m.waitDone 0 0 3 ⟨1, cws op, 0, false, false, false⟩
     let e := match w.1.groupFetch 0 0 with | (n, .ok e) => some (n, e) | _ => none
     m.dieRuns 0 && (m.oldest 0 0 3).any (fun x => !x.waiting && !x.released && (firstBad (colChecks x.words)).isNone && cOp x.words == op) && w.2 &&
       (w.1.colOp 0 0).isNone && decide ((w.1.col 0).ops.length < 8) && e.any (fun e => let z := e.1.colStartStatus 0 (cws op) e.2
         z.2 matches .ok () && (z.1.noticed 0 0 (gSeq e.2)).isNone)) &&
     ((colM 0 []).oldest 0 0 3).any (fun x => !x.waiting && !x.released && (firstBad (colChecks x.words)).isSome)) = true := by decide +kernel

/-- An operation of group 0 in progress. -/
def colGo (op : Nat) (status : Option Nat := none) : Mach :=
  (colM op).modCol 0 (fun c => { c with ops := [{ ColOp.fresh (some 1) (cws op) grp 0 7 0 false 0 with status }] })

/-- A message to it. -/
def cmsg (seq gen : Nat) : ColMsg := ⟨0, 0, 0, seq, gen, 0, 0, 0, 0, 64, none, [], false, .block 0 0 0 []⟩

theorem witness_collective_rows : (let m := colGo 0
     let e := colGo 0 (some 0)
     let l := (List.range 9).foldl (fun m d => m.put Fld.ftStatus_state d 2) (colM 0 (cws 0 1))
     m.dieRuns 0 && m.flag Fld.fabJob_valid 0 && m.get Fld.fabJob_job 0 == 0 && (m.colOp 0 0).any (fun o => o.gseq == 7 && o.status.isNone && !o.held &&
       (m.colMismatch 0 o (cmsg 7 0)).isNone && (m.colMismatch 0 o (cmsg 7 1)).isSome && o.desc.isSome && decide (o.gseq < (cmsg 8 0).seq)) &&
     ((m.modOp 0 0 (fun o => { o with entry := o.entry.set 13 0 })).colOp 0 0).any (fun o => decide (o.gseq < (cmsg 8 0).seq) && decide (gStageLen o.entry = 0)) &&
     !run.flag Fld.fabJob_valid 0 &&
     (let e := (colM 0).groupEntry 0 0
      ((colM 0).colOp 0 0).isNone && gValid e.2 && decide (gSeq e.2 ≤ 7) && (e.1.noticed 0 0 7).isNone) &&
     (let w := (cws 0 1).set 6 1
      let m := colM 0 w
      m.unstartedWords 0 0 == some w && decide (m.ft 0 < cDeadline w)) &&
     (let m := (colGo 2).modCol 0 (fun c => { c with ops := c.ops.map (fun o =>
        { o with prog := (unitsOf (cws 2) grp).foldl (fun a p => smSet ColProg.init a (unitKey 0 p) { ColProg.init with have_ := true }) [] }) })
      let n := m.colGo 0 0
      (n.colOp 0 0).any (fun o => n.colDone 0 o && !n.engOutstanding 0 0 3 o.id && !o.held && o.status.isNone && !o.overlaps)) &&
     !l.moduleUnlocked && !l.flag Fld.colCfg_t16_compat 0 && (l.colOp 0 0).isNone && (l.unstartedWords 0 0).any (fun ws => cDeadlineEn ws &&
       decide (cDeadline ws ≤ l.ft 0)) &&
     (let n := e.colGo 0 0
      (n.colOp 0 0).any (fun o => o.desc == some 1 && o.status.isSome) && ((n.die 0).colQ.find? (fun x => x.seq == 1)).isSome)) = true := by decide +kernel

/-- A thread that waits on a counter. -/
def waiting : Mach := (thr 0).modThread 0 th0 (fun t => { t with wait := .counter })

theorem witness_counters : (wr run .sw (r0 .syncCtrArm 5) (Fld.syncCtrArm_armed.into (Fld.syncCtrArm_expect.into 0 3) 1)
       (fun w => Fld.syncCtrArm_armed.of w.new == 1 && Fld.syncCtrArm_expect.of w.new == 3) &&
     wr run .sw (r0 .syncCtrArm 5) 0 (fun w => Fld.syncCtrArm_armed.of w.new == 0) &&
     (run.die 0).ctrWaits.all (fun w => w.ctr != 5) && smSorted run.dies && smSorted waiting.dies && smSorted waiting.cores &&
     (waiting.thread 0 th0).any (fun t => !t.exited && decide (t.wait = .counter))) = true := by decide +kernel

theorem waiting_sorted : waiting.regsSorted := Mach.regsSorted_of _ (by decide)

/-- Die 0 with one unacknowledged access. -/
def sent (req : RemoteOp) (f : RemoteFor) : Mach := (thr 0).modFab 0 (fun x => { x with unacked := [⟨1, 3, req, f, 0, 0, false, false⟩] })

/-- Port 0 of die 0, an edge port that is up. -/
def edge (en : Nat) : Mach := (((thr 0).put Fld.fabPortStatus_role 0 2).put Fld.fabPortStatus_state 0 3).put Fld.fabPortCtl_edge_en 0 en

theorem witness_remote_rows : (let m := run
     let k := sourceKey 1 0
     m.dataPlane && !m.silent && (m.accessGate 1 0 (.add 0 5 1)).2 && (m.source k).held.isEmpty && (m.source k).next == 0 &&
     ((m.setSource k { m.source k with next := 1, results := [(0, 0, [], false)] }).source k).results.any (fun r => r.1 == 0 && r.2.1 != codeTurned) &&
     (let n := (run.modDie 0 (fun k => { k with col := { k.col with turned := [(1, 2, 3)] } }))
      (n.msgTurned 1 0 (.msg 2 3 64)).2 && ((n.setSource k { n.source k with next := 1, results := [(0, codeTurned, [], false)] }).source k).results.any
        (fun r => r.1 == 0 && r.2.1 == codeTurned)) &&
     [sent (.add 0 5 1) .none_, sent (.read 0 32) (.thread th0 5 8 false false), sent (.amo 0 0 8 [1]) (.lanes [(th0, 5, 0)] 0 8)].all
       (fun m => m.dieRuns 0 && (m.unackedAt 0 1 3).isSome && decide (m.pmu 0 < 20000)) &&
     decide (20000 ≤ ((sent (.read 0 32) .fill).modDie 0 (fun x => { x with time := { x.time with pmu := 20000 } })).pmu 0) &&
     [edge 0, edge 1].all (fun m => m.dieRuns 0 && m.get Fld.fabPortStatus_role 0 0 == 2 && m.get Fld.fabPortStatus_state 0 0 == 3 && !m.silent) &&
     !(edge 0).flag Fld.fabPortCtl_edge_en 0 && (edge 1).flag Fld.fabPortCtl_edge_en 0 && (opOffset (.read 0 32)).isSome &&
     !(({ run with cp := { run.cp with resetting := 2 } } : Mach).accessGate 1 0 (.read (2 ^ 38) 8)).2 && (run.source k).held.isEmpty &&
     ((run.setSource k { run.source k with held := [(2, 0, .add 0 5 1)] }).source k).held.any (fun h => h.1 == 2) &&
     ((edge 1).fab 0).edgeWait.isEmpty && (((edge 1).modFab 0 (fun x => { x with edgeWait := [(0, 0, 0, .read 0 32)] })).accessGate 0 0 (.read 0 32)).2 &&
     !(edge 1).requestRefused 0 1 (.read 0 32) && (edge 1).node 0 != 1 && !(edge 1).requestRefused 0 0 (.read 0 32)) = true := by decide +kernel

/-- A broken group of an epoch-compatible die, and COL_RESUME of it. -/
theorem witness_resume : (let m := (((run.put Fld.colCfg_t16_compat 0 1).put Fld.colGrpCfg_entries 0 1).setRaw 0 (((2 ^ 31 + 2 ^ 30) :: grp.tail).flatMap (toBytes 4)))
     wr m .sw (r0 .colResume) 0 (fun w => m.flag Fld.colCfg_t16_compat 0 && decide (bitsOf w.raw 7 0 < m.get Fld.colGrpCfg_entries 0) &&
       gBroken (m.groupEntry 0 (bitsOf w.raw 7 0)).2 && ((m.groupEntry 0 (bitsOf w.raw 7 0)).1.colOp 0 (bitsOf w.raw 7 0)).isNone)) = true := by decide +kernel

/-! ### Witnesses: die caches and dies -/

/-- A fill of the line at 0x10000. -/
def fill0 : Fill := ⟨0, 0, 0x10000, none, 0xF, .thread 0, .demand, false, false, false, false⟩

/-- Die 0's cache with one fill in flight, one in the retry buffer, one returned, and that one waiting for a miss slot of core 0. -/
def filling : Mach := (run.modCache 0 (fun k => { k with fills := [fill0], retry := [fill0], returned := [fill0] })).modCore 0 0
  (fun c => { c with slotWait := [fill0] })

/-- The pressure window of die 0: 1 us long, `n` misses, at PMU cycle `t`. -/
def pressure (n t : Nat) : Mach := ((run.put Fld.dcPinPress_window_us 0 1).modCache 0 (fun k => { k with winMisses := n })).modDie 0
  (fun x => { x with time := { x.time with pmu := t } })

theorem pressure_sorted : (pressure 65537 0).regsSorted := Mach.regsSorted_of _ (by decide)

/-- The range 0 of die 0 is dead, active, and its reads fault. -/
def dead : Mach := ((({ run with debugOpen := true } : Mach).put Fld.dcDeadCtl_active 0 1).put Fld.dcDeadCtl_len 0 1).put Fld.dcDeadCfg_read_fault 0 1

/-- The same range while its invalidation runs. -/
def dying : Mach := dead.put Fld.dcDeadCtl_busy 0 1

/-- A system of two modules. -/
def duo : Mach := run.put Fld.fabDims_lz 0 1

/-- A sector of node 1 waits for core 0's threads of die 0. -/
def given : Mach := duo.grant 0 { by_ := 0, req := .thread 0, node := some 1, addr := 64, lru := false, data := some (List.replicate 32 0#8, false) }

/-- Die 1 is in reset. -/
def home1 : Mach := { run with cp := { run.cp with resetting := 2 } }

theorem witness_cache_requests : ([run.nineRuns 8, inMemory (2 ^ 41 - 8) 8, !inMemory (2 ^ 48) 8, dead.nineRuns 0, (dead.deadFault 64 8).isSome,
     (run.deadFault 64 8).isNone, !(home1.bytesGate (viaOf 0 (.thread 0) false) (2 ^ 38) 8 true).2, (home1.deadFault (2 ^ 38) 8).isNone,
     !(home1.bytesGate (viaOf 0 (.thread 0) false) (2 ^ 38) 8 false).2, (run.bytesGate (viaOf 0 (.thread 0) false) (2 ^ 38) 8 true).2,
     (run.bytesGate (viaOf 0 (.thread 0) false) (2 ^ 38) 8 false).2, run.dataPlane, isMemory 28, decide (28 % 32 + 4 ≤ 32),
     home1.dataPlane && !(home1.requestGate (viaOf 1 (.thread 0) false) (2 ^ 38) .modify).2, (dying.deadHolds 64 8).2, dying.dataPlane,
     !(run.deadHolds 64 8).2, (run.requestGate (viaOf 0 (.thread 0) false) 64 .modify).2, run.requestRefused 0 0x3FFF (.read 64 32),
     !duo.requestRefused 0 1 (.read 64 32), !given.requestRefused 0 1 (.read 64 32), !isStacked (2 ^ 42), (given.remoteDemand 0 (.thread 0) 1 64).2.1.isSome, given.nineRuns 0,
     (let m := (duo.remoteDemand 0 (.thread 0) 1 64).1
      (duo.remoteDemand 0 (.thread 0) 1 64).2.1.isNone && (m.fab 0).unacked.isEmpty && (m.fab 0).waiting.isEmpty && !m.isLost 0 1 && m.requestOpen 0 (.thread 0) (2 ^ 48)),
     (let m := ((duo.wr .fabLost 0 2 0).remoteDemand 0 (.thread 0) 1 64)
      m.2.1.isNone && m.1.isLost 0 1)] : List Bool).all id = true := by decide +kernel

theorem witness_misses : (let wait := run.modCore 0 0 (fun c => { c with slotWait := [fill0] })
     let shut : Mach := { (filling.modCache 1 (fun k => { k with fills := [fill0] })) with cp := { run.cp with resetting := 1 } }
     [findFill (filling.cache 0).fills 0x10000 == some fill0, (findFill (run.cache 0).fills 0x10000).isNone, filling.homeServes 0x10000,
      shut.nineRuns 1, !shut.homeServes 0x10000, findFill (shut.cache 1).fills 0x10000 == some fill0,
      isStacked 0x10000 && fill0.sectors.testBit 0 && filling.fromMemory 0 0x10000, homeDie 0x10000 == 0,
      decide (((filling.cache 0).retry.filter (fun g => dcSlice g.addr == dcSlice 0x10000)).length < 64),
      decide (64 ≤ ((List.replicate 64 fill0).filter (fun g => dcSlice g.addr == dcSlice 0x10000)).length), filling.dieRuns 0,
      (wait.core 0 0).slotWait.find? (fun f => wait.slotFree 0 0 f.req f.addr) == some fill0,
      (filling.cache 0).retry.find? (fun f => dcSlice f.addr == dcSlice 0x10000 && bankKey f.addr == bankKey 0x10000) == some fill0,
      findFill (filling.cache 0).returned 0x10000 == some fill0].all id) = true := by decide +kernel

theorem dead_sorted : (run.put Fld.dcDeadCtl_busy 0 1 63).regsSorted := Mach.regsSorted_of _ (by decide)

theorem witness_cache_upkeep : ([(run.put Fld.dcPinStatus_busy 0 1).flag Fld.dcPinStatus_busy 0, (run.cache 0).pinReason == 0,
     (((run.put Fld.dcPinStatus_busy 0 1).modCache 0 (fun k => { k with pinReason := 3 })).cache 0).pinReason != 0,
     (run.cache 0).pinLeft == 0, (runP.partOf 0).isSome,
     (((runP.put Fld.dcPinStatus_busy 0 1).modCache 0 (fun k => { k with pinLeft := 1, pinOp := 1 })).cache 0).pinLeft == 1,
     (pressure 65537 0).get Fld.dcPinPress_window_us 0 != 0, (run.put Fld.dcPinPress_window_us 0 0).get Fld.dcPinPress_window_us 0 == 0,
     decide ((pressure 65537 0).get Fld.dcPinPress_threshold 0 < ((pressure 65537 0).cache 0).winMisses), !((pressure 65537 0).cache 0).winSent,
     decide ((pressure 65537 0).pmu 0 < 200 * (pressure 65537 0).get Fld.dcPinPress_window_us 0), smSorted (pressure 65537 0).dies,
     decide (((pressure 65536 200).cache 0).winMisses ≤ (pressure 65536 200).get Fld.dcPinPress_threshold 0),
     decide (((pressure 65536 200).cache 0).winStart + 200 * (pressure 65536 200).get Fld.dcPinPress_window_us 0 ≤ (pressure 65536 200).pmu 0),
     (run.put Fld.dcDeadCtl_busy 0 1 63).flag Fld.dcDeadCtl_busy 0 63, (run.cache 0).deadWaiting.isEmpty, !(run.cache 0).deadRelease.testBit 63,
     (List.range 8).all (fun x => (run.fab x).edgeWait.isEmpty), smSorted run.cores && smSorted run.dies] : List Bool).all id = true := by decide +kernel

/-- R266: a read through the die's cache gives the bytes of memory. -/
theorem test_cache_read : (after (exec (.dieCacheRequest 0 (.thread 0) (.read 0x10004 4) false none) (st (run.setRaw 0x10004 [4#8, 3#8])))).map (·.resp) =
    some (.ok 0x304) := by decide +kernel

/-- A die that has not beaten for 3 ms, in a partition, with its job open and not. -/
def hung (job : Nat) : Mach := (runP.put Fld.fabJob_valid 0 job).modDie sdDie (fun x => { x with time := { x.time with pmu := 600000 } })

theorem witness_die_rows : (((run.modDie 8 (fun x => { x with records := [⟨0x14, false, false, 8, 0, [], true, true, [0]⟩] })).die 8).records.isEmpty == false &&
     decide (1 < d2dLinks 0 1) && decide (0 < d2dLinks 4 8) && !run.mt.d2dDown.contains (0, 1, 1) &&
     ({ run with mt := { run.mt with d2dDown := [(0, 1, 1)] } } : Mach).mt.d2dDown.contains (0, 1, 1) &&
     [hung 0, hung 1].all (fun m => m.dataPlane && !m.cp.resetting.testBit 0 && decide (smGet 0 m.cp.beats 0 + 600000 ≤ m.pmu sdDie) &&
       ((m.beat 0).partOf 0).isSome) && ((hung 1).beat 0).flag Fld.fabJob_valid 0 && !((hung 0).beat 0).flag Fld.fabJob_valid 0 && run.powered &&
     ({ run with cp := { run.cp with resetting := 128 } } : Mach).cp.resetting.testBit 7 &&
     smSorted run.dies && smSorted run.cores && run.moduleUnlocked) = true := by decide +kernel

/-! ### Witnesses: ports and packets -/

/-- Port 0 of die 0 of a node with x- and z-dimensions of 2, in state `st`, with the given internal state. -/
def port (st : Nat) (f : PortSt → PortSt := id) (m : Mach := (run.put Fld.fabDims_lz 0 1).put Fld.fabNode_valid 0 1) : Mach :=
  (m.put Fld.fabPortStatus_state 0 st 0).modPort 0 0 f

/-- The peer that die 0's port 0 is wired to. -/
def peer (m : Mach) : PeerCaps := ⟨false, neighbour (m.sizes 0) (m.node 0) (m.portDirNow 0 0), 0 ^^^ (2 ^ (m.portDirNow 0 0 / 2)), 0, 0, 15, 0, m.rd .fabDims 0 % 512, 0, 0⟩

/-- A standby port beside a failed one. -/
def standby : Mach := ((port psFailed).put Fld.fabPortStatus_role 0 1 1).put Fld.fabPortStatus_state 0 psStandby 1

theorem witness_port_rows : (let n := port psNegotiate (fun y => { y with trained := 15 })
     let up := port psActive (fun y => { y with light := 15 })
     let w := (peer n)
     let late := up.modDie 0 (fun x => { x with time := { x.time with frac := 0 } })
     n.dieRuns 0 && !run.silent && (port psDark).portState 0 0 == psDark && (port psDark).portRoleNow 0 0 != 3 &&
     ((port psDark).put Fld.bootStatus_phase sdDie 7).lit && !(port psDark).lit && !(port psDark).flag Fld.fabPortCtl_disable 0 0 && (port psTrain).portState 0 0 == psTrain &&
     (port psTrain).flag Fld.fabNode_valid 0 && n.portState 0 0 == psNegotiate && n.wiringOk 0 0 w && !n.wiringOk 0 0 { w with port := 1 } &&
     (rateOf ((n.port 0 0).trained &&& w.lanes) 1).1 != 0 && (rateOf ((n.port 0 0).trained &&& 0) 1).1 == 0 &&
     (up.modPort 0 0 (fun y => { y with light := 0 })).portUp 0 0 && up.portUp 0 0 && late.portUp 0 0 &&
     (port psFailed (fun y => { y with light := 1 })).portState 0 0 == psFailed && decide ((port psFailed).pmu 0 < 200000000) &&
     decide (200000000 ≤ ((port psFailed (fun y => { y with light := 1 })).modDie 0 (fun x => { x with time := { x.time with pmu := 200000000 } })).pmu 0) &&
     decide (250000 ≤ (up.wr .ftCount 0 250000).ft 0) && !run.flag Fld.fabNode_valid 0 && up.flag Fld.fabNode_valid 0 && up.node 0 == 0 &&
     (standby.portState 0 1 == psStandby) &&
     ((standby.dirPorts (standby.portDirNow 0 1)).find? (fun y => standby.portRoleNow y.1 y.2 == 0 && standby.portState y.1 y.2 == psFailed)).isSome) = true := by
  decide +kernel

theorem port_sorted : (port psActive).regsSorted := Mach.regsSorted_of _ (by decide)

theorem witness_packets : (let m := (port psActive (fun y => { y with replays := 14 })).put Fld.fabPortStatus_state 4 psActive 4
     let x : Packet := ⟨0, 1, 0, 0, 95, 64, false, []⟩
     let s := (run.put Fld.fabRouteCtl_arm 0 1).wr .ftCount 0 40
     m.portUp 0 0 && decide ((m.port 0 0).replays < 15) && smSorted m.dies && !m.isLost 0 1 && m.node 0 != 1 && m.get Fld.fabRouteCtl_epoch 0 == 0 &&
     (m.route 0 x).isSome && ((m.route 0 x).bind (fun r => m.pickPort r.1)).isSome &&
     s.flag Fld.fabRouteCtl_arm 0 && (s.fab 0).clearList.isEmpty && decide (s.rd .fabRouteSwitch 0 + 40 ≤ s.ft 0) &&
     !(s.fab 0).armedLate && smSorted s.dies) = true := by decide +kernel

theorem epoch_sorted : ((run.put Fld.fabRouteCtl_arm 0 1).wr .ftCount 0 40).regsSorted := Mach.regsSorted_of _ (by decide)

/-- R351: a packet beyond a gap is not taken; the next one is counted and taken. -/
theorem test_link : (after (exec (.linkPacketReceive 0 0 (.data 1 true 64)) (st (port psActive)))).map (fun m => (m.port 0 0).rxSeq) = some 0 ∧
    (after (exec (.linkPacketReceive 0 0 (.data 0 true 64)) (st (port psActive)))).map (fun m => (m.port 0 0).rxSeq) = some 1 := by decide +kernel

/-! ### Witnesses: snapshots, power and heat -/

/-- Die 0's partition with snapshots on and one region of two chunks of kind `kind`, its manifest in state `st` at address 0. -/
def snap (kind st : Nat) : Mach := ((((runP.put Fld.snapCfg_enable 0 1).put Fld.snapCfg_rgn_count 0 1).put Fld.snapRgnBase_base 0 1).setRaw 256
  (toBytes 8 (2 ^ 31 + kind * 2 ^ 29 + 2))).setRaw 4 (toBytes 1 st) |>.modSnap 0 (fun x => { x with rgns := [⟨0, kind, 2, 0, 0⟩], offered := true })

/-- The receive side, on, for node 3's step 5, with areas of one chunk. -/
def recv (full : Nat := 1) : Mach := ((((run.put Fld.snapRecvCfg_enable sdDie 1).put Fld.snapRecvCfg_sender sdDie 3).wr .snapRecvStep sdDie 5).put
  Fld.snapRecvArea_len sdDie full).put Fld.snapHoldArea_len sdDie full

theorem witness_snapshots : (let c := (snap 2 1).modSnap 0 (fun x => { x with digested := 1 })
     let fin := ((snap 2 1).modSnap 0 (fun x => { x with digested := 2, drained := 2 })).put Fld.snapStatus_digest_done 0 1
     let items (m : Mach) := ((m.versionChunks 0).mapIdx (fun i c => (i, c))).filter (fun x => x.2.drains)
     (let w := runP.put Fld.snapStatus_capturing 0 1
      let tbl := (w.put Fld.vecSclBase_base 0 0).put Fld.vecSclCfg_entries 0 1
      !w.sclPending part0 && w.rangeServed (w.manifest 0) (w.slotBytes 0) && (w.schedTables part0).all (fun r => w.homeServes r.1) &&
      (tbl.setRaw (tbl.sclAddr 0 0 + 0x0C) (toBytes 4 (2 ^ 30))).sclPending part0) &&
     (runP.put Fld.snapStatus_capturing 0 1).partOf 0 == some part0 && (runP.put Fld.snapStatus_capturing 0 1).flag Fld.snapStatus_capturing 0 &&
     c.dieRuns 0 && c.flag Fld.snapCfg_enable 0 && !c.flag Fld.snapStatus_committed 0 && c.manifestState 0 == 1 &&
     decide ((c.snap 0).flipFt + 1000 * c.get Fld.snapTimes_drain_delay 0 ≤ c.ft 0) && (c.versionChunks 0)[(c.snap 0).digested]? == some ⟨0, 2, 1⟩ &&
     c.homeServes (c.chunkAddr 0 (c.get Fld.snapStatus_cur 0) ⟨0, 2, 1⟩) && c.homeServes (c.manifest 0 + 128 + 48) && (c.snap 0).offered &&
     !((c.modSnap 0 (fun x => { x with offered := false })).snap 0).offered && (c.modSnap 0 (fun x => { x with offered := false })).draining 0 &&
     c.draining 0 && (items c)[(c.snap 0).drained]? == some (0, ⟨0, 2, 0⟩) && decide (0 < (c.snap 0).digested) &&
     fin.draining 0 && (items fin)[(fin.snap 0).drained]?.isNone && fin.flag Fld.snapStatus_digest_done 0 &&
     !run.flag Fld.snapRecvCfg_enable sdDie && recv.flag Fld.snapRecvCfg_enable sdDie && recv.get Fld.snapRecvCfg_sender sdDie == 3 &&
     !recv.flag Fld.snapRecvStatus_copying sdDie && recv.rd .snapRecvStep sdDie == 5 &&
     decide (recv.recv.next < min (recv.get Fld.snapRecvArea_len sdDie) (recv.get Fld.snapHoldArea_len sdDie)) &&
     (let w := recv.put Fld.snapRecvStatus_copying sdDie 1
      w.flag Fld.snapRecvStatus_copying sdDie && w.rangeServed (w.get Fld.snapHoldArea_base sdDie * chunkBytes) (w.recv.entries.length * chunkBytes)) &&
     (((snap 0 1).versionChunks 0).mapIdx (fun i c => (i, c))).any (fun x => x.2.region != 0xFF && x.2.kind == 0 &&
       (snap 0 1).chunkAddr 0 ((snap 0 1).get Fld.snapStatus_cur 0) x.2 == 0)) = true := by decide +kernel

/-- A die under NUTMEG with a floor of 100. -/
def nut (w : Nat) : Mach := (run.put Fld.pwrStatus_die_w 0 w).modDie 0 (fun x => { x with pwr := { x.pwr with cap := 4800, nut := some ⟨0, 100, 0, none, none⟩ } })

theorem witness_power : (let n := nut 99
     n.dieRuns 0 && (n.pwr 0).nut.isSome && (n.gov 0 3).bubbles == 0 && smGet 0 (n.pwr 0).therm 0 == 0 && !n.drooping 0 && !n.fenced 0 3 && n.arrayIdle 0 3 &&
     decide (n.get Fld.pwrStatus_die_w 0 < n.floorNow 0) && decide (n.get Fld.pwrStatus_die_w 0 * 100 < (n.pwr 0).cap * 54) &&
     decide ((n.pwr 0).droopEnd ≤ 3 * (n.gov 0 3).start) && decide ((n.gov 0 3).power.num * 3200 < (n.pwr 0).cap * 54 * (n.gov 0 3).power.den) && ((run.pwr 0).nut.isNone) &&
     (n.pwr 0).nut.any (fun x => x.taper.isNone && decide (roundUp x.t0 (n.get Fld.pwrNutCfg_grid_us 0 * 1000) ≤ n.ft 0)) &&
     decide (n.ft 0 < roundUp 1 (n.get Fld.pwrNutCfg_grid_us 0 * 1000))) = true ∧
    (run.modDie 0 (fun x => { x with pwr := { x.pwr with droop := true } })).drooping 0 = true ∧ run.get Fld.pwrCtl_droop_mv 0 < 256 ∧
    (run.pwr 0).droop = false ∧ smSorted run.dies = true ∧ smSorted run.cores = true ∧ smSorted (run.pwr 0).gov = true ∧ 600 ≤ classRating run.pins.cool := by
  decide +kernel

/-- R455: the class of the air-cooled strap is rated 1400 W. -/
theorem test_limits : [599, 600, 1400, 1401].map (fun w => (after (exec (.pldmPowerLimit w) (st run))).bind (·.pins.chassisW)) =
    [some 600, some 600, some 1400, some 1400] := by decide +kernel

/-! ### Witnesses: mailboxes -/

/-- The CP firmware serves command `op` with the words `ws`, on mailbox 1. -/
def cmd (op : Nat) (ws : List Nat) : MbxCmd := ⟨1, 0, op, 0, false, ws, 0⟩
def serve (op : Nat) (ws : List Nat) (m : Mach := runP) : Mach := { m with cp := { m.cp with running := [cmd op ws] } }
def serves (m : Mach) (op : Nat) (p : Mach → MbxCmd → Bool) : Bool :=
  m.powered && (m.cp.running.find? (fun x => x.mbx == 1 && x.opcode == op)).any (p m)

theorem witness_serving : ∃ c, (st (serve 0x41 [])).serving 1 0x41 c ∧ c.seq < 2 ^ 32 ∧ smSorted (serve 0x41 []).cp.slots = true :=
  ⟨cmd 0x41 [], ⟨by decide, by decide⟩, by decide, by decide⟩

theorem serve_sorted : (serve 0x41 []).regsSorted := Mach.regsSorted_of _ (by decide)

/-- A request of mailbox 1 in its slot 0: OPEN on a mailbox not open, a FT_STATUS of the wrong `seq` on one that is open. -/
def asked (op : Nat) (open_ : Nat) (w : List Nat := []) (len : Nat := 8 * w.length) : Mach :=
  (((runP.put Fld.mbxStatus_open sdDie open_ 1).put Fld.mbxStatus_part sdDie 0 1).put Fld.mbxReqTail_tail sdDie 1 1).slotWrite (slotAt 1 0)
    (((op * 2 ^ 56 + len * 2 ^ 32) :: 0 :: w).flatMap (toBytes 8))

theorem witness_requests : (let bad := asked 0x41 0
     let ok := asked 0x41 1
     let ab := asked 0x14 1 [0]
     [bad, ok].all (fun s =>
       let m := s.mbxSkip 1 16
       let r := m.request 1 (m.mbxHead 1)
       s.powered && m.mbxHead 1 != m.mbxTail 1 && !m.cp.running.any (fun c => c.mbx == 1) && m.rspFree 1 && r.opcode != 0x14 && r.opcode != 0x21 &&
         !m.partitionBusy r && ((m.verdict r (m.flag Fld.mbxStatus_open sdDie 1) (m.expected 1)).isNone == m.flag Fld.mbxStatus_open sdDie 1)) &&
     ok.flag Fld.mbxStatus_open sdDie 1 && !bad.flag Fld.mbxStatus_open sdDie 1 &&
     (ab.abortRequest 1).any (fun r => (ab.verdict r (ab.ringState 1 r.count).1 (ab.ringState 1 r.count).2).isNone &&
       (ab.partAt (pfield r.words 0 3 0)).isSome && !ab.aborting (pfield r.words 0 3 0)) && ab.rspFree 1 &&
     decide ((run.mbxTail 31 + 2 ^ 16 - run.mbxHead 31) % 2 ^ 16 < 16) &&
     (let f := run.put Fld.mbxReqTail_tail sdDie 16 31
      decide (16 ≤ (f.mbxTail 31 + 2 ^ 16 - f.mbxHead 31) % 2 ^ 16))) = true := by decide +kernel

/-- The partition of an ABORT idle and not. -/
theorem witness_aborts : ((ending runP).cp.aborts.find? (fun a => a.slot == 0)).isSome = true ∧ (ending runP).partAt 0 = some part0 ∧
    (ending runP).partIdle part0 = true ∧ (ending (thr 0)).partIdle part0 = false ∧ (ending runP).pmu sdDie < 400000 ∧
    400000 ≤ ((ending runP).modDie sdDie (fun x => { x with time := { x.time with pmu := 400000 } })).pmu sdDie := by decide +kernel

theorem witness_commands : ([serves (serve 0x01 [1 * 2 ^ 48 + 1 * 2 ^ 32]) 0x01 (fun _ c => decide (pfield c.words 0 47 32 ≤ 1) && decide (1 ≤ pfield c.words 0 63 48)),
     serves (serve 0x01 [0]) 0x01 (fun _ c => decide (pfield c.words 0 63 48 < 1)),
     [0, 1, 2, 3, 4].all (fun n => serves (serve 0x02 [n]) 0x02 (fun _ c => pfield c.words 0 7 0 == n)),
     serves (serve 0x10 [2 + 2 * 256, 0]) 0x10 (fun m c => pfield c.words 0 7 0 == 2 && pfield c.words 0 12 8 == 2 && pword c.words 1 % 4096 == 0 &&
       isStacked (pfield c.words 1 47 12 * 4096) && (bitsSet 2 8).all (fun d => (m.partOf d).isNone && !m.cp.resetting.testBit d &&
       !m.cp.margins.any (fun x => x.die == d && x.state == 1)) && m.get Fld.mbxStatus_part sdDie 2 == 0xF && ((List.range 8).find? (fun i => (m.partAt i).isNone) == some 1)),
     serves (serve 0x11 [0]) 0x11 (fun m c => (m.partAt (pfield c.words 0 3 0)).any (fun p => Fld.fabJob_valid.of (m.cpReg ⟨.fabJob, p.low, 0, 0, 0⟩) == 0)),
     (let j (m : Mach) := serve 0x13 [0] (m.cpPut Fld.fabJob_valid 0 1)
      serves (j runP) 0x13 (fun m c => (m.partAt (pfield c.words 0 3 0)).any (fun p => Fld.fabJob_valid.of (m.cpReg ⟨.fabJob, p.low, 0, 0, 0⟩) == 1 && !m.partBusy p)) &&
      serves (j (thr 0)) 0x13 (fun m c => (m.partAt (pfield c.words 0 3 0)).any (fun p => m.partBusy p))),
     serves (serve 0x15 [1, 0, 0, 0, 1]) 0x15 (fun m c => pfield c.words 0 15 0 == (Fld.fabRouteCtl_epoch.of (m.cpReg ⟨.fabRouteCtl, 0, 0, 0, 0⟩) + 1) % 2 ^ 16 &&
       regionOk 0 512 && regionOk 0 2 && Fld.fabRouteCtl_arm.of (m.cpReg ⟨.fabRouteCtl, 0, 0, 0, 0⟩) != 1),
     serves (serve 0x20 [32, 0, 0, 0x20000000000 + 1, 1]) 0x20 (fun m c => (m.partAt (pfield c.words 0 3 0)).any (fun p => !m.drainOpen p.low) &&
       pfield c.words 0 4 4 == 0 && pfield c.words 0 5 5 == 1 && areaOk (pword c.words 3) 0x20000000000 0x20800000000 && areaOk (pword c.words 4) 0 0x20000000000),
     serves (serve 0x40 [7]) 0x40 (fun _ c => pfield c.words 0 2 0 == 7),
     serves (serve 0x42 [0, 2 ^ 16 + 1, 4]) 0x42 (fun _ c => regionOk (pfield c.words 0 47 0) (pfield c.words 2 31 0)),
     serves (serve 0x43 [0]) 0x43 (fun m c => pfield c.words 0 3 0 == 0 && !m.debugShut),
     serves (serve 0x43 [0] (runP.put Fld.secStatus_unlock_fails sdDie 8)) 0x43 (fun m c => pfield c.words 0 3 0 == 0 && m.debugShut),
     serves (serve 0x43 [1, 0, 2496]) 0x43 (fun m c => pfield c.words 0 3 0 == 1 && regionOk (pfield c.words 1 47 0) 2496 && pfield c.words 2 31 0 == 2496 &&
       !m.debugOpen && !m.debugShut),
     serves (serve 0x43 [1, 0, 2496] { runP with debugOpen := true }) 0x43 (fun m _ => m.debugOpen),
     serves (serve 0x30 [33, 1, 0x20000000000]) 0x30 (fun m c => pfield c.words 0 6 5 != 0 && pword c.words 1 != 0 && decide (0x20000000000 ≤ pfield c.words 2 47 0) &&
       decide (pfield c.words 2 47 0 + 576 * popcount (pword c.words 1) 64 ≤ 0x20800000000) && (m.partOf (pfield c.words 0 2 0)).isNone &&
       !m.cp.resetting.testBit 1 && !m.cp.margins.any (fun x => x.die == 1 && x.state == 1)),
     (let g := serve 0x31 [1] { runP with cp := { runP.cp with margins := [⟨1, 0, 1, 1, 0x20000000000, 1, 0, 0⟩] } }
      serves g 0x31 (fun m c => m.cp.margins.any (fun x => x.die == pfield c.words 0 2 0 && x.state == 1)) &&
      serves (serve 0x31 [2]) 0x31 (fun m _ => m.cp.margins.isEmpty) &&
      serves (serve 0x32 [1]) 0x32 (fun m _ => m.cp.margins.isEmpty))].all id) = true := by decide +kernel

/-- The SHA3-256 digest of the empty message (FIPS 202). -/
def noDigest : List Byte := (toBytes 32 0xA7FFC6F8BF1ED76651C14756A061D662F580FF4DE43B49FA82D80A4B80F8434A).reverse

theorem test_sha3 : sha3 [] = noDigest := by decide +kernel

/-- A CONFIGURE list without entries, of generation 7, at 64 and its closing word. -/
def listed : Mach := words runP [0x43464731 + 7 * 2 ^ 32, 24, 7 * 2 ^ 32]

theorem witness_long_commands : ([serves (serve 0x03 [64, 7 * 2 ^ 32 + 24, 0xF, 0] listed) 0x03 (fun m c =>
       pfield c.words 2 3 0 == 0xF && regionOk 64 24 && m.viewNum 64 4 == 0x43464731 && m.viewNum 72 4 == 24 && m.viewNum 76 2 == 0 &&
         m.viewNum 68 4 == pfield c.words 1 63 32 && m.viewNum 84 4 == pfield c.words 1 63 32 && pfield c.words 1 31 0 == 24),
     serves (serve 0x12 [0, 0, 0, 1000000, 0, 0, 0, 0, 0, 0] (runP.put Fld.fabNode_valid 0 1)) 0x12 (fun m c =>
       (m.partAt (pfield c.words 0 3 0)).any (fun p => (m.jobError p c.words).isNone && Fld.fabJob_valid.of (m.cpReg ⟨.fabJob, p.low, 0, 0, 0⟩) == 0) &&
         pfield c.words 6 4 4 == 0),
     serves (serve 0x21 [0] (((runP.put Fld.snapCfg_enable 0 1).setRaw 0 (toBytes 8 (2 * 2 ^ 32 + 0x4D414E31))).setRaw 0x30 noDigest)) 0x21 (fun s c =>
       let m := s.put Fld.snapStatus_restoring 0 0
       (s.partAt (pfield c.words 0 3 0)).any (fun p => m.flag Fld.snapCfg_enable p.low && !m.partBusy p && !(m.snap p.low).initial &&
         ((m.modSnap p.low (fun x => { x with initial := true })).snap p.low).initial &&
         (let a := m.slotBase p.low (m.get Fld.snapStatus_cur p.low)
          m.viewNum a 4 == 0x4D414E31 && m.viewNum (a + 4) 1 % 8 == 2 && m.viewNum (a + 0x20) 4 == 0 && noDigest == m.viewBytes (a + 0x30) 32)))].all
      id) = true := by decide +kernel

/-! ### Witnesses of the further cases of these rows -/

theorem witness_watchdogs : run.powered = true ∧ run.sec.hung = false ∧ run.cp.up = true ∧ run.pins.mcUp = true ∧
    ({ run with sec := { run.sec with hung := true } } : Mach).sec.hung = true ∧
    (let m : Mach := { inPh 0xF with pins := { (inPh 0xF).pins with acRun := true } }
     m.inPhase 0xF = true ∧ m.pins.acRun = true ∧ m.pins.withdrawn = false) := by decide +kernel

theorem witness_abort_starts : (let m := asked 0x14 1 [0]
     m.powered && m.cp.up && !m.mbxRunning 1 && (m.abortRequest 1).any (fun r => (m.abortSettled (m.started r)).isNone) && (ending runP).cp.up) = true := by
  decide +kernel

theorem witness_further_actions : (((acting 5 16).takeAct 0 5).2.any (fun a => decide (16 ≤ a.arg)) &&
     !((acting 5 15).takeAct 0 5).1.flag Fld.pwrNutProf_valid 0 15 && ((run.takeAct 0 5).1.pwr 0).nut.isNone &&
     (let m := (acting 7 0).put Fld.snapStatus_vote_pending 0 0
      m.partOf 0 == some part0 && !m.flag Fld.snapStatus_vote_pending 0) &&
     (run.setStoreState 0 0 plReleased).locState 0 0 2 == plReleased) = true := by decide +kernel

/-- R524: a refused unlock while the eight attempts are used up, one of a bad address, one of a bad length. -/
theorem witness_unlocks : ([serves (serve 0x43 [1, 0, 2496] (runP.put Fld.secStatus_unlock_fails sdDie 8)) 0x43 (fun m _ => m.debugShut && !m.debugOpen),
     serves (serve 0x43 [1, 2 ^ 48 - 1, 2496]) 0x43 (fun m c => !regionOk (pfield c.words 1 47 0) 2496 && !m.debugShut && !m.debugOpen),
     serves (serve 0x43 [1, 0, 2495]) 0x43 (fun m c => pfield c.words 2 31 0 != 2496 && !m.tokenOk (m.viewBytes 0 2496))].all id) = true := by decide +kernel

/-- An address past the translated ones. -/
theorem witness_prefetch_denied : (match ((thr 0xFFFFFFFFFFFFFF80).translate 0 0 ((thr 0xFFFFFFFFFFFFFF80).laneVa 0 th0 10 0) .read).2 with
    | .error (.wait _) => false
    | .error _ => true
    | .ok _ => false) = true := by decide +kernel

end Sys2Proof.Tests
end

section
/-! SUPPORT and proofs. Register accesses that their requester may not make (R8, R9, R42): a read, a write, and a write through a row of
its own are answered with an access fault, and the machine is otherwise as it was. -/

namespace Sys2Proof.Machine

/-! ### Accesses that are refused -/

/-- A read that R8, R9 or R42 does not allow is an access fault and changes nothing else. -/
theorem Mach.loadReg_of_fault {m : Mach} {who : BusWho} {pa n : Nat} (h1 : inSlots pa n = false)
    (h2 : ∀ id b, regAt pa = some (id, b) → legalAccess id.reg.info.width b n = false ∨ mayRead who id = false) :
    m.loadReg who pa n = { m with resp := .accessFault } := by
  simp only [Mach.loadReg, Mach.busRead, h1]
  cases e : regAt pa with
  | none => rfl
  | some x =>
    obtain ⟨id, b⟩ := x
    rcases h2 id b e with h | h <;> simp [h]

/-- The write of a row of its own, at one of the row's registers, is the write of any register. -/
theorem Mach.rowWrite_eq_storeReg {m : Mach} {p : RegId → RegW → Bool} {who : BusWho} {pa n value hw b : Nat} {id : RegId}
    (hat : regAt pa = some (id, b)) (hp : p id (m.wordAt who id b n value 0) = true) :
    m.rowWrite p who pa n value hw = m.storeReg who pa n value hw := by
  have hp' : p id (m.regW who id (value * 2 ^ (8 * b)) ((2 ^ (8 * n) - 1) * 2 ^ (8 * b)) 0) = true := by
    simpa [Mach.wordAt, w1cHit, accMask] using hp
  cases e : m.busWrite who pa n value hw with
  | mk m' taken => cases taken <;> simp [Mach.rowWrite, Mach.storeReg, hat, hp', e]

/-! ### The timers of the module's own software (R42) -/

theorem timerDenied_iff (who : BusWho) (id : RegId) :
    timerDenied who id = true ↔
      (id.reg = .ftTmrTgt ∨ id.reg = .ftTmrCtl) ∧ id.i < 16 ∧ (who = .sw ∨ who = .core) := by
  simp [timerDenied, and_assoc]

theorem mayRead_of_timerDenied {who : BusWho} {id : RegId} (h : timerDenied who id = true) : mayRead who id = false := by
  simp [mayRead, h]

theorem mayWrite_of_timerDenied {who : BusWho} {id : RegId} (h : timerDenied who id = true) : mayWrite who id = false := by
  simp [mayWrite, h]

section
variable {s : State} {who : BusWho} {pa n b : Nat} {id : RegId} (hpow : s.m.powered = true) (hslot : inSlots pa n = false)
  (hat : regAt pa = some (id, b)) (hden : timerDenied who id = true)
include hslot hat hden

/-- The write of a denied timer register, whatever its width, value and colliding bits. -/
theorem Mach.storeReg_of_timerDenied (m : Mach) (v hw : Nat) : m.storeReg who pa n v hw = { m with resp := .accessFault } := by
  refine Mach.storeReg_of_fault hslot fun id' b' hat' => .inr ?_
  obtain ⟨rfl, rfl⟩ : id = id' ∧ b = b' := by simpa [hat] using hat'
  exact mayWrite_of_timerDenied hden

/-- The read of a denied timer register, whatever its width. -/
theorem Mach.loadReg_of_timerDenied (m : Mach) : m.loadReg who pa n = { m with resp := .accessFault } := by
  refine Mach.loadReg_of_fault hslot fun id' b' hat' => .inr ?_
  obtain ⟨rfl, rfl⟩ : id = id' ∧ b = b' := by simpa [hat] using hat'
  exact mayRead_of_timerDenied hden

include hpow

theorem exec_registerWrite_of_timerDenied (v hw : Nat) :
    exec (.registerWrite who pa n v hw) s = .next (s.setM { s.m with resp := .accessFault }) := by
  rw [exec_registerWrite, State.onModule_run hpow, Mach.storeReg_of_timerDenied hslot hat hden]; rfl

theorem exec_rcCounterRead_of_timerDenied :
    exec (.rcCounterRead who pa n) s = .next (s.setM { s.m with resp := .accessFault }) := by
  rw [exec_rcCounterRead, State.onModule_run hpow, Mach.loadReg_of_timerDenied hslot hat hden]; rfl

/-- Through a row whose registers the denied one is of. -/
theorem State.onRegs_of_timerDenied {p : RegId → RegW → Bool} (v hw : Nat) (hp : p id (s.m.wordAt who id b n v 0) = true) :
    s.onRegs p who pa n v hw = .next (s.setM { s.m with resp := .accessFault }) := by
  rw [State.onRegs, State.onModule_run hpow, Mach.rowWrite_eq_storeReg hat hp, Mach.storeReg_of_timerDenied hslot hat hden]; rfl

end

/-- Settles O10: R42 denies software and core code the two registers of timers 0 to 15, and each of the four commands answers what is
denied with an access fault. -/
theorem systemTimersAreNotSoftwares : Obligations.SystemTimersAreNotSoftwares := by
  intro s who pa n v hw b id hpow hslot hat hi hwho
  have denied (hreg : id.reg = .ftTmrTgt ∨ id.reg = .ftTmrCtl) : timerDenied who id = true :=
    (timerDenied_iff who id).mpr ⟨hreg, hi, hwho⟩
  refine ⟨fun hreg => ⟨?write, ?read⟩, fun htgt => ?tgtRow, fun hctl => ?ctlRow⟩
  case write => exact exec_registerWrite_of_timerDenied hpow hslot hat (denied hreg) v hw
  case read => exact exec_rcCounterRead_of_timerDenied hpow hslot hat (denied hreg)
  case tgtRow =>
    rw [exec_ftTmrTgtWrite]
    exact State.onRegs_of_timerDenied hpow hslot hat (denied (.inl htgt)) v hw (by simp [htgt])
  case ctlRow =>
    rw [exec_ftTmrCtlWrite]
    exact State.onRegs_of_timerDenied hpow hslot hat (denied (.inr hctl)) v hw (by simp [hctl])

end Sys2Proof.Machine
end

section
/-! SUPPORT and proofs. R116: registers that the CP firmware alone may write, ARR_SPARE_MAP among them, and registers whose fields are
all read-only (Table 0.3), as ARR_FENCE: what a write does to each. -/

namespace Sys2Proof.Machine

/-! ### Writes to a register of the CP firmware's -/

/-- A register whose map names the CP firmware as its writer takes no other's writes, the MC's included. -/
theorem mayWrite_of_cpOnly {who : BusWho} {id : RegId} (hreg : id.reg.info.who = .cp) (hwho : who ≠ .cp) :
    mayWrite who id = false := by
  have hne : id.reg ≠ .mbxReqTail := fun h => by rw [h] at hreg; cases hreg
  unfold mayWrite
  split
  · rfl
  · simp [hne, hreg, hwho]

section
variable {s : State} {who : BusWho} {pa n b : Nat} {id : RegId} (hpow : s.m.powered = true) (hslot : inSlots pa n = false)
  (hat : regAt pa = some (id, b)) (hmay : mayWrite who id = false)
include hslot hat hmay

theorem Mach.storeReg_of_not_mayWrite (m : Mach) (v hw : Nat) : m.storeReg who pa n v hw = { m with resp := .accessFault } := by
  refine Mach.storeReg_of_fault hslot fun id' b' hat' => .inr ?_
  obtain ⟨rfl, rfl⟩ : id = id' ∧ b = b' := by simpa [hat] using hat'
  exact hmay

include hpow

theorem exec_registerWrite_of_not_mayWrite (v hw : Nat) :
    exec (.registerWrite who pa n v hw) s = .next (s.setM { s.m with resp := .accessFault }) := by
  rw [exec_registerWrite, State.onModule_run hpow, Mach.storeReg_of_not_mayWrite hslot hat hmay]; rfl

/-- Through a row whose registers the written one is of. -/
theorem State.onRegs_of_not_mayWrite {p : RegId → RegW → Bool} (v hw : Nat) (hp : p id (s.m.wordAt who id b n v 0) = true) :
    s.onRegs p who pa n v hw = .next (s.setM { s.m with resp := .accessFault }) := by
  rw [State.onRegs, State.onModule_run hpow, Mach.rowWrite_eq_storeReg hat hp, Mach.storeReg_of_not_mayWrite hslot hat hmay]; rfl

end

/-! ### ARR_SPARE_MAP -/

section
variable {id : RegId} (hreg : id.reg = .arrSpareMap)
include hreg

theorem mayWrite_cp_of_arrSpareMap : mayWrite .cp id = true := by
  simp [mayWrite, hreg, timerDenied, planeMeets, Reg.info, Reg.arrSpareMapInfo]

/-- A write of the CP firmware, in a form that R9 allows, reaches the map. -/
theorem State.writes_of_arrSpareMap {s : State} {pa n b : Nat} (hpow : s.m.powered = true) (hslot : inSlots pa n = false)
    (hat : regAt pa = some (id, b)) (hlegal : legalAccess 64 b n = true) : s.writes .cp pa n id b := by
  have hwidth : id.reg.info.width = 64 := by rw [hreg]; rfl
  have hused : s.m.unusedSnap id = false := by simp [Mach.unusedSnap, hreg, snapRegs]
  exact ⟨hpow, hslot, hat, hwidth ▸ hlegal, mayWrite_cp_of_arrSpareMap hreg, hused⟩

/-- The map has no operation of its own beside Table 0.3. -/
theorem Mach.regWrite_of_arrSpareMap (m : Mach) (w : RegW) : m.regWrite id w = m.setReg id w.new := by
  simp [Mach.regWrite, hreg]

end

/-! ### Read-only registers (Table 0.3) -/

theorem testBit_foldl_or {α : Type} (g : α → Nat) (i : Nat) (l : List α) (k : Nat) :
    (l.foldl (fun n x => n ||| g x) k).testBit i = (k.testBit i || l.any (fun x => (g x).testBit i)) := by
  induction l generalizing k with
  | nil => simp
  | cons x xs ih => simp [ih, Nat.testBit_or, Bool.or_assoc]

theorem FieldInfo.testBit_mask (f : FieldInfo) (i : Nat) : f.mask.testBit i = (decide (f.lo ≤ i) && decide (i ≤ f.hi)) := by
  have hlo : 2 ^ f.lo = 2 ^ f.lo - 1 + 1 := by have := Nat.two_pow_pos f.lo; omega
  by_cases h : f.lo ≤ f.hi
  · have hlt : 2 ^ f.lo - 1 < 2 ^ (f.hi + 1) := by
      have := Nat.pow_le_pow_right (show 0 < 2 by decide) (show f.lo ≤ f.hi + 1 by omega); omega
    rw [FieldInfo.mask, hlo, Nat.testBit_two_pow_sub_succ hlt, Nat.testBit_two_pow_sub_one, Bool.eq_iff_iff]
    simp; omega
  · have hzero : f.mask = 0 := Nat.sub_eq_zero_of_le (Nat.pow_le_pow_right (by decide) (by omega))
    simp [hzero]; omega

/-- A write leaves a read-only field as it was. -/
theorem FieldInfo.written_of_ro {f : FieldInfo} (h : f.acc = .ro) (locked : Bool) (old val mask hw : Nat) :
    f.written locked old val mask hw = old &&& f.mask := by
  simp [FieldInfo.written, h]

/-- A write to a register without a writable field leaves every bit of its fields as it was. -/
theorem Mach.wordAt_new_testBit_of_ro (m : Mach) (who : BusWho) {id : RegId} (b n v hw : Nat)
    (hro : ∀ f ∈ id.reg.info.fields, f.acc = .ro) {f : FieldInfo} (hf : f ∈ id.reg.info.fields) {i : Nat}
    (hlo : f.lo ≤ i) (hhi : i ≤ f.hi) :
    (m.wordAt who id b n v hw).new.testBit i = (m.reg id).testBit i := by
  have kept (g : FieldInfo) (hg : g ∈ id.reg.info.fields) (old val mask hit : Nat) :
      (g.written (m.locked id) old val mask hit).testBit i = (old.testBit i && (decide (g.lo ≤ i) && decide (i ≤ g.hi))) := by
    rw [FieldInfo.written_of_ro (hro g hg), Nat.testBit_and, FieldInfo.testBit_mask]
  simp only [Mach.wordAt, Mach.regW, testBit_foldl_or, Nat.zero_testBit, Bool.false_or]
  rw [Bool.eq_iff_iff, List.any_eq_true]
  constructor
  · rintro ⟨g, hg, hbit⟩
    rw [kept g hg, Bool.and_eq_true] at hbit
    exact hbit.1
  · intro hbit
    exact ⟨f, hf, by rw [kept f hf]; simp [hbit, hlo, hhi]⟩

/-! ### R116 -/

/-- Settles O12: the register map names the CP firmware as the only writer of ARR_SPARE_MAP, whose write has no rule beside Table 0.3,
and gives ARR_FENCE read-only fields alone. -/
theorem spareMapAndFence : Obligations.SpareMapAndFence := by
  intro s who pa n v hw b id hpow hslot hat
  refine ⟨fun hreg hwho => ?others, fun hreg hwho hlegal => ?firmware, fun hreg f hf i hlo hhi => ?fence⟩
  case others =>
    have hmay : mayWrite who id = false := mayWrite_of_cpOnly (by rw [hreg]; rfl) hwho
    refine ⟨?_, exec_registerWrite_of_not_mayWrite hpow hslot hat hmay v hw⟩
    rw [exec_arrSpareMapWrite]
    exact State.onRegs_of_not_mayWrite hpow hslot hat hmay v hw (by simp [hreg])
  case firmware =>
    subst hwho
    have hwrites := State.writes_of_arrSpareMap hreg hpow hslot hat hlegal
    rw [exec_arrSpareMapWrite, State.onRegs_of_writes hwrites (by simp [hreg]), Mach.regWrite_of_arrSpareMap hreg]
    rfl
  case fence =>
    have hro : ∀ g ∈ id.reg.info.fields, g.acc = .ro := by rw [hreg]; decide
    exact s.m.wordAt_new_testBit_of_ro who b n v hw hro hf hlo hhi

end Sys2Proof.Machine
end

section
/-! SUPPORT and proofs. R168: the registers of the vector engine's generator and of the die's scale table, which take no write while the
engine, or any engine of the die, works from them. -/

namespace Sys2Proof.Machine

/-! ### The generator's registers -/

section
variable {id : RegId} (hreg : id.reg = .vecSrKey ∨ id.reg = .vecSrCtrLo ∨ id.reg = .vecSrCtrHi)
include hreg

theorem Mach.regWrite_of_vecSr (m : Mach) (w : RegW) : m.regWrite id w = m.wrVecSr id w := by
  rcases hreg with h | h | h <;> simp [Mach.regWrite, h]

/-- The row of the generator's registers does what their rule says with an allowed write. -/
theorem exec_vecSrWrite_of_writes {s : State} {who : BusWho} {pa n b : Nat} (hwrites : s.writes who pa n id b) (v hw : Nat) :
    exec (.vecSrWrite who pa n v hw) s =
      .next (s.setM ((s.m.wrVecSr id (s.m.wordAt who id b n v hw)).answered id (w1cHit id b n v hw))) := by
  have hrow : (id.reg == .vecSrKey || id.reg == .vecSrCtrLo || id.reg == .vecSrCtrHi) = true := by simpa [or_assoc] using hreg
  rw [exec_vecSrWrite, State.onRegs_of_writes hwrites hrow, Mach.regWrite_of_vecSr hreg]
  rfl

end

theorem Mach.wrVecSr_of_busy {m : Mach} {id : RegId} (h : m.flag Fld.vecStatus_busy id.die (c := id.core) = true) (w : RegW) :
    m.wrVecSr id w = m.ev Fld.vecEvents_cfg_err id.die (c := id.core) := by
  simp [Mach.wrVecSr, h]

/-! ### The scale table's registers -/

section
variable {id : RegId} (hreg : id.reg = .vecSclBase ∨ id.reg = .vecSclCfg)
include hreg

theorem Mach.regWrite_of_vecScl (m : Mach) (w : RegW) : m.regWrite id w = m.wrVecScl id w := by
  rcases hreg with h | h <;> simp [Mach.regWrite, h]

/-- The row of the scale table's registers does what their rule says with an allowed write. -/
theorem exec_vecSclWrite_of_writes {s : State} {who : BusWho} {pa n b : Nat} (hwrites : s.writes who pa n id b) (v hw : Nat) :
    exec (.vecSclWrite who pa n v hw) s =
      .next (s.setM ((s.m.wrVecScl id (s.m.wordAt who id b n v hw)).answered id (w1cHit id b n v hw))) := by
  have hrow : (id.reg == .vecSclBase || id.reg == .vecSclCfg) = true := by simpa using hreg
  rw [exec_vecSclWrite, State.onRegs_of_writes hwrites hrow, Mach.regWrite_of_vecScl hreg]
  rfl

end

/-- While a vector descriptor runs on a core of the die, whatever table the write would give. -/
theorem Mach.wrVecScl_of_running {m : Mach} {id : RegId} {c : Nat} (hc : c < 32) (hrun : (m.vec id.die c).run.isSome = true) (w : RegW) :
    m.wrVecScl id w = m.ev Fld.vecDieEvents_cfg_err id.die := by
  have running : (List.range 32).any (fun c => (m.vec id.die c).run.isSome) = true :=
    List.any_eq_true.mpr ⟨c, List.mem_range.mpr hc, hrun⟩
  simp only [Mach.wrVecScl, running, Bool.true_or, if_true]

/-! ### R168 -/

/-- Settles O17: each of the two rows runs its registers' own operation, which sets `cfg_err` and stores nothing while the core's engine
is busy, or while one of the die's engines has a descriptor. -/
theorem vectorRegistersWhileBusy : Obligations.VectorRegistersWhileBusy := by
  intro s who pa n v hw b id hwrites
  refine ⟨fun hreg hbusy => ?generator, fun hreg hrunning => ?scaleTable⟩
  case generator =>
    rw [exec_vecSrWrite_of_writes hreg hwrites, Mach.wrVecSr_of_busy hbusy]
    rfl
  case scaleTable =>
    obtain ⟨c, hc, hrun⟩ := hrunning
    rw [exec_vecSclWrite_of_writes hreg hwrites, Mach.wrVecScl_of_running hc hrun]
    rfl

end Sys2Proof.Machine

namespace Sys2Proof.Tests

open Sys2Proof.Machine

/-- A write of 0 to VEC_SCL_CFG of die 0, where core 0 has a vector program in execution, meets the hypotheses of the scale table's half. -/
theorem witness_scale_table_running :
    wr (vecM 0) .sw (r0 .vecSclCfg) 0 = true ∧ ((vecM 0).vec 0 0).run.isSome = true := by decide +kernel

/-- R168 at that write. -/
theorem scaleTable_write_ignored_while_running :
    let s := st (vecM 0)
    let id := r0 .vecSclCfg
    let n := id.reg.info.width / 8
    exec (.vecSclWrite .sw id.addr n 0 0) s = .next (s.setM (s.m.turnedAway id (w1cHit id 0 n 0 0) Fld.vecDieEvents_cfg_err 0 0)) := by
  intro s id n
  obtain ⟨hwr, hrun⟩ := witness_scale_table_running
  have hwrites : s.writes .sw id.addr n id 0 := (writes_of_wr hwr).1
  exact (vectorRegistersWhileBusy s .sw id.addr n 0 0 0 id hwrites).2 (.inr rfl) ⟨0, by decide, hrun⟩

end Sys2Proof.Tests
end

section
/-! SUPPORT and proofs. R247: what arming and disarming leave of a sync counter, and the running total under ADD. Serving the waiters of a
counter and flagging it write only the registers of `serveRegs`, so that they leave both SYNC_CTR_ARM and SYNC_CTR_TOTAL as they stand. -/

namespace Sys2Proof.Machine

/-! ### Operations that keep a register -/

theorem Mach.regsSorted_put (m : Mach) (f : Fld) (d v i c j : Nat) (h : m.regsSorted) : (m.put f d v i c j).regsSorted :=
  Mach.regsSorted_setReg _ _ _ h

/-- `m'` has the registers in their form and every copy of `r` as in `m`. -/
structure Mach.Keeps (r : Reg) (m m' : Mach) : Prop where
  sorted : m'.regsSorted
  rd_eq : ∀ d i c j, m'.rd r d i c j = m.rd r d i c j

namespace Mach.Keeps

theorem refl {m : Mach} (r : Reg) (h : m.regsSorted) : Keeps r m m := ⟨h, fun _ _ _ _ => rfl⟩

section
variable {r : Reg} {m m' : Mach} (h : Keeps r m m')
include h

theorem get_eq {f : Fld} (hf : f.reg = r) (d i c j : Nat) : m'.get f d i c j = m.get f d i c j := by
  subst hf
  simp only [Mach.get, h.rd_eq]

theorem flag_eq {f : Fld} (hf : f.reg = r) (d i c j : Nat) : m'.flag f d i c j = m.flag f d i c j := by
  simp only [Mach.flag, h.get_eq hf]

theorem of_regs {m'' : Mach} (hregs : m''.regs = m'.regs) : Keeps r m m'' where
  sorted := by simpa only [Mach.regsSorted, hregs] using h.sorted
  rd_eq d i c j := (Mach.reg_congr hregs _).trans (h.rd_eq d i c j)

/-- A write of another register. -/
theorem wr {r' : Reg} (hne : r ≠ r') (d v i c j : Nat) : Keeps r m (m'.wr r' d v i c j) where
  sorted := Mach.regsSorted_setReg _ _ _ h.sorted
  rd_eq d' i' c' j' := (Mach.rd_wr_ne _ _ _ _ _ _ _ _ _ _ _ _ h.sorted (by simp [hne])).trans (h.rd_eq d' i' c' j')

theorem put {f : Fld} (hne : r ≠ f.reg) (d v i c j : Nat) : Keeps r m (m'.put f d v i c j) := h.wr hne d _ i c j

theorem cnt {r' : Reg} (hne : r ≠ r') (d i n c j : Nat) : Keeps r m (m'.cnt r' d i n c j) := h.wr hne d _ i c j

theorem ite {p : Prop} [Decidable p] {m'' : Mach} (h' : Keeps r m m'') : Keeps r m (if p then m' else m'') := by
  split
  · exact h
  · exact h'

end

/-- What holds of each step of a fold holds of the fold. -/
theorem foldl {r : Reg} {m m' : Mach} {α : Type} {f : Mach → α → Mach} (hf : ∀ x a, Keeps r m x → Keeps r m (f x a)) (l : List α)
    (h : Keeps r m m') : Keeps r m (l.foldl f m') :=
  foldl_keeps (Keeps r m) f hf l m' h

end Mach.Keeps

/-! ### Serving the waiters of a counter -/

/-- The registers that serving a counter's waiters and setting its flags can write. -/
def serveRegs : List Reg := [.syncCtr, .syncCnt, .cqStatus, .cqColStatus, .sumStatus]

namespace Mach.Keeps
section
variable {r : Reg} {m m' : Mach} (hr : r ∉ serveRegs) (h : Keeps r m m')
include hr h

theorem put_serve {f : Fld} (hf : f.reg ∈ serveRegs) (d v i c j : Nat) : Keeps r m (m'.put f d v i c j) :=
  h.put (fun e => hr (e ▸ hf)) d v i c j

theorem cnt_syncCnt (d i n : Nat) : Keeps r m (m'.cnt .syncCnt d i n) :=
  h.cnt (fun e => hr (e ▸ by decide)) d i n 0 0

theorem showWait (d c q : Nat) : Keeps r m (m'.showWait d c q) := by
  unfold Mach.showWait
  split <;> exact h.put_serve hr (by decide) _ _ _ _ _

theorem wake (d : Nat) (w : Waiter) (value : Nat) : Keeps r m (m'.wake d w value) := by
  cases w with
  | thread => exact h.of_regs (Mach.modThread_regs _ _ _ _)
  | desc c q seq =>
    refine showWait hr (h.of_regs ?_) d c q
    unfold Mach.modQueue
    split
    · exact Mach.modDie_regs _ _ _
    · exact Mach.modCore_regs _ _ _ _
  | zmap c seq => exact of_regs (ite (h.put_serve hr (by decide) _ _ _ _ _) h) (Mach.modCore_regs _ _ _ _)
  | launch => exact h.of_regs (Mach.modPart_regs _ _ _)

theorem releaseObservers (d n value : Nat) : Keeps r m (m'.releaseObservers d n value) :=
  foldl (fun _ w hx => (hx.wake hr d w.who value).cnt_syncCnt hr d 1 1) _ (h.of_regs (Mach.modDie_regs _ _ _))

theorem serveConsumers (d n fuel : Nat) : Keeps r m (m'.serveConsumers d n fuel) := by
  induction fuel generalizing m' with
  | zero => exact h
  | succ fuel ih =>
    unfold Mach.serveConsumers
    split
    case h_1 => exact h
    case h_2 w _ =>
      have served := ((h.of_regs (Mach.modDie_regs m' d (fun x => { x with ctrWaits := x.ctrWaits.erase w }))).put_serve hr
        (f := Fld.syncCtr_value) (by decide) d (m'.get Fld.syncCtr_value d n - w.n) n 0 0).wake hr d w.who (m'.get Fld.syncCtr_value d n)
      exact ite (ih (served.cnt_syncCnt hr d 2 1)) h

theorem ctrServe (d n : Nat) : Keeps r m (m'.ctrServe d n) :=
  (h.releaseObservers hr d n _).serveConsumers hr d n _

/-- A flag of a counter, with its record. -/
theorem ctrFlag {f : Fld} (hf : f.reg = .syncCtr) (d n kind cntIdx lastOp source v before total : Nat) :
    Keeps r m (m'.ctrFlag d n f kind cntIdx lastOp source v before total) := by
  have flagged := (h.put_serve hr (f := f) (hf ▸ by decide) d 1 n 0 0).cnt_syncCnt hr d cntIdx 1
  exact ite (flagged.of_regs (Mach.emitRec_regs _ _ _ _ _ _ _ _ _)) flagged

end
end Mach.Keeps

/-! ### ADD -/

theorem satN_lt (w n : Nat) : satN w n < 2 ^ w := by
  have := Nat.two_pow_pos w
  unfold satN
  split <;> omega

/-- Every ADD adds to the running total, whatever it does to the value and to the flags. -/
theorem Mach.ctrApply_add_total (m : Mach) (d n v lastOp source : Nat) (h : m.regsSorted) :
    (m.ctrApply d n .add v lastOp source).1.get Fld.syncCtrTotal_total d n = satN 32 (m.get Fld.syncCtrTotal_total d n + v % 2 ^ 32) := by
  have hr : Reg.syncCtrTotal ∉ serveRegs := by decide
  have counted : Keeps .syncCtrTotal m (m.cnt .syncCnt d 0) := (Keeps.refl _ h).cnt_syncCnt hr d 0 1
  let total := satN 32 ((m.cnt .syncCnt d 0).get Fld.syncCtrTotal_total d n + v % 2 ^ 32)
  let valued := (m.cnt .syncCnt d 0).put Fld.syncCtr_value d (satN 32 (m.get Fld.syncCtr_value d n + v % 2 ^ 32)) n
  have hvalued : Keeps .syncCtrTotal m valued := counted.put_serve hr (by decide) d _ n 0 0
  have added : Keeps .syncCtrTotal (valued.put Fld.syncCtrTotal_total d total n) (valued.put Fld.syncCtrTotal_total d total n) :=
    Keeps.refl _ (Mach.regsSorted_put _ _ _ _ _ _ _ hvalued.sorted)
  have rest : Keeps .syncCtrTotal (valued.put Fld.syncCtrTotal_total d total n) (m.ctrApply d n .add v lastOp source).1 := by
    refine Keeps.ctrServe hr (Keeps.ite ?drift ?noDrift) d n
    case noDrift => exact Keeps.ite (added.ctrFlag hr rfl d n _ _ _ _ _ _ _) added
    case drift => exact (Keeps.ite (added.ctrFlag hr rfl d n _ _ _ _ _ _ _) added).ctrFlag hr rfl d n _ _ _ _ _ _ _
  calc (m.ctrApply d n .add v lastOp source).1.get Fld.syncCtrTotal_total d n
      = (valued.put Fld.syncCtrTotal_total d total n).get Fld.syncCtrTotal_total d n := rest.get_eq rfl d n 0 0
    _ = total % 2 ^ 32 := Mach.get_put_same _ _ _ _ _ _ _ hvalued.sorted (by decide) (by decide)
    _ = total := Nat.mod_eq_of_lt (satN_lt 32 _)
    _ = _ := congrArg (fun before => satN 32 (before + v % 2 ^ 32)) (counted.get_eq rfl d n 0 0)

/-! ### Arming and disarming -/

section
variable (m : Mach) (d n : Nat) (arm : Bool) (expect : Nat) (h : m.regsSorted)
include h

/-- The armed bit and the expected total are as given, in whichever state the counter was. -/
theorem Mach.ctrArm_armReg :
    (m.ctrArm d n arm expect).flag Fld.syncCtrArm_armed d n = arm ∧
      (m.ctrArm d n arm expect).get Fld.syncCtrArm_expect d n = expect % 2 ^ 32 := by
  let armed := m.put Fld.syncCtrArm_armed d (b2n arm) n
  let shown := armed.put Fld.syncCtr_armed d (b2n arm) n
  let given := shown.put Fld.syncCtrArm_expect d expect n
  have hshown : Keeps .syncCtrArm armed shown := (Keeps.refl _ (Mach.regsSorted_put _ _ _ _ _ _ _ h)).put (by decide) d _ n 0 0
  have hgiven : Keeps .syncCtrArm given given := Keeps.refl _ (Mach.regsSorted_put _ _ _ _ _ _ _ hshown.sorted)
  have rest : Keeps .syncCtrArm given (m.ctrArm d n arm expect) := Keeps.ite (hgiven.put (by decide) d _ n 0 0) hgiven
  have hflag : given.get Fld.syncCtrArm_armed d n = b2n arm % 2 ^ 1 :=
    calc given.get Fld.syncCtrArm_armed d n
        = shown.get Fld.syncCtrArm_armed d n :=
          Mach.get_put_disjoint _ _ _ _ _ _ _ _ hshown.sorted rfl (by decide) (by decide) (by decide)
      _ = armed.get Fld.syncCtrArm_armed d n := hshown.get_eq rfl d n 0 0
      _ = b2n arm % 2 ^ 1 := Mach.get_put_same _ _ _ _ _ _ _ h (by decide) (by decide)
  have hexpect : given.get Fld.syncCtrArm_expect d n = expect % 2 ^ 32 :=
    Mach.get_put_same _ _ _ _ _ _ _ hshown.sorted (by decide) (by decide)
  refine ⟨?_, (rest.get_eq rfl d n 0 0).trans hexpect⟩
  rw [rest.flag_eq rfl, Mach.flag, hflag]
  cases arm <;> rfl

/-- Arming clears the running total; disarming leaves it. -/
theorem Mach.ctrArm_total :
    (m.ctrArm d n arm expect).get Fld.syncCtrTotal_total d n = if arm then 0 else m.get Fld.syncCtrTotal_total d n := by
  have kept : Keeps .syncCtrTotal m (((m.put Fld.syncCtrArm_armed d (b2n arm) n).put Fld.syncCtr_armed d (b2n arm) n).put
      Fld.syncCtrArm_expect d expect n) :=
    (((Keeps.refl _ h).put (by decide) d _ n 0 0).put (by decide) d _ n 0 0).put (by decide) d _ n 0 0
  cases arm with
  | true => exact Mach.get_put_same _ _ _ _ _ _ _ kept.sorted (by decide) (by decide)
  | false => exact kept.get_eq rfl d n 0 0

end

/-- A write whose register has no W1C bit is answered, and nothing collides. -/
theorem Mach.answered_zero (m : Mach) (id : RegId) : m.answered id 0 = { m with resp := .ok 0 } := by
  simp [Mach.answered, Mach.w1cCollide, bitsSet]

/-- The row of SYNC_CTR_ARM arms or disarms the counter as the written word says, and is answered. -/
theorem exec_syncCtrArmWrite_of_writes {s : State} {who : BusWho} {pa nb b : Nat} {id : RegId} (hwrites : s.writes who pa nb id b)
    (hreg : id.reg = .syncCtrArm) (v hw : Nat) :
    exec (.syncCtrArmWrite who pa nb v hw) s =
      .next (s.setM { s.m.wrSyncArm id (s.m.wordAt who id b nb v hw) with resp := .ok 0 }) := by
  have hnoW1c : w1cHit id b nb v hw = 0 := by
    have : id.reg.info.bitsOfAcc .w1c = 0 := by rw [hreg]; rfl
    simp [w1cHit, this]
  have hop (w : RegW) : s.m.regWrite id w = s.m.wrSyncArm id w := by simp [Mach.regWrite, hreg]
  rw [exec_syncCtrArmWrite, State.onRegs_of_writes hwrites (by simp [hreg]), hop, hnoW1c, Mach.answered_zero]
  rfl

/-! ### R247 -/

/-- Settles O45: an allowed write is the arming operation on the counter that the register names, and an ADD puts the saturated running
total before it serves the waiters, which keeps it. -/
theorem armingAndTotals : Obligations.ArmingAndTotals := by
  refine ⟨fun s who pa nb v hw b id hwrites hreg hsorted => ?arming, fun m d n v lastOp source hsorted => ?add⟩
  case add => exact m.ctrApply_add_total d n v lastOp source hsorted
  case arming =>
    let w := s.m.wordAt who id b nb v hw
    let arm := decide (Fld.syncCtrArm_armed.of w.new = 1)
    obtain ⟨harmed, hexpect⟩ := s.m.ctrArm_armReg id.die id.i arm (Fld.syncCtrArm_expect.of w.new) hsorted
    have htotal := s.m.ctrArm_total id.die id.i arm (Fld.syncCtrArm_expect.of w.new) hsorted
    refine ⟨_, exec_syncCtrArmWrite_of_writes hwrites hreg v hw, fun h1 => ?armed, fun h0 => ?disarmed⟩
    case armed =>
      have harm : arm = true := decide_eq_true h1
      exact ⟨hexpect.trans (Nat.mod_mod _ _), htotal.trans (if_pos harm), harmed.trans harm⟩
    case disarmed =>
      have harm : arm = false := decide_eq_false (by rw [h0]; decide)
      exact ⟨htotal.trans (if_neg (Bool.eq_false_iff.mp harm)), harmed.trans harm⟩

end Sys2Proof.Machine

namespace Sys2Proof.Tests

open Sys2Proof.Machine

/-- Arming counter 5 of die 0 with an expected total of 3. -/
theorem counter_armed_with_expected_total :
    let id := r0 .syncCtrArm 5
    ∃ t : State, exec (.syncCtrArmWrite .sw id.addr 8 (Fld.syncCtrArm_armed.into (Fld.syncCtrArm_expect.into 0 3) 1) 0) (st run) = .next t ∧
      t.m.get Fld.syncCtrArm_expect 0 5 = 3 ∧ t.m.get Fld.syncCtrTotal_total 0 5 = 0 ∧ t.m.flag Fld.syncCtrArm_armed 0 5 = true := by
  intro id
  have hw := witness_counters
  simp only [Bool.and_eq_true] at hw
  obtain ⟨⟨⟨⟨⟨⟨harm, _⟩, _⟩, _⟩, _⟩, _⟩, _⟩ := hw
  obtain ⟨hwrites, hword⟩ := writes_of_wr harm
  simp only [Bool.and_eq_true, beq_iff_eq] at hword
  obtain ⟨harmed, hexpect⟩ := hword
  obtain ⟨t, hexec, hwhenArmed, _⟩ := armingAndTotals.1 (st run) _ _ _ _ 0 0 id hwrites rfl run_sorted
  obtain ⟨hexp, htotal, hflag⟩ := hwhenArmed harmed
  exact ⟨t, hexec, hexp.trans hexpect, htotal, hflag⟩

/-- An ADD of 2^32 − 1 to a counter whose running total is 7 saturates the total. -/
theorem running_total_saturates :
    ((run.put Fld.syncCtrTotal_total 0 7 5).ctrApply 0 5 .add (2 ^ 32 - 1) 0 srcOther).1.get Fld.syncCtrTotal_total 0 5 = 2 ^ 32 - 1 := by
  rw [armingAndTotals.2 _ _ _ _ _ _ (Mach.regsSorted_put _ _ _ _ _ _ _ run_sorted),
    Mach.get_put_same _ _ _ _ _ _ _ run_sorted (by decide) (by decide)]
  decide

end Sys2Proof.Tests
end

section
/-! SUPPORT and proofs. R455: what a chassis limit announcement leaves of the limit that the module takes and of the records that it
sends. Arming the timers of the pending cap sends none, because the word that arms them gives them local scope, and a local-scope timer fires
in every lock state (R46). -/

namespace Sys2Proof.Machine

/-! ### Values other than the default

A value other than the default is stored under its key in any map, sorted or not, so that the laws of registers for such values need no
premise on the registers' form. -/

section
variable {α : Type} [DecidableEq α] (d : α) (m : SMap α) {k j : Nat} {v : α}

theorem smGet_smSet_same_of_ne_default (hv : v ≠ d) : smGet d (smSet d m k v) k = v := by
  induction m with
  | nil => simp [smSet, hv, smGet]
  | cons e m ih =>
    obtain ⟨k', v'⟩ := e
    rcases Nat.lt_trichotomy k k' with hlt | rfl | hgt
    · simp [smSet, hlt, hv, smGet]
    · simp [smSet, hv, smGet]
    · simp [smSet, Nat.lt_asymm hgt, Nat.ne_of_gt hgt, Nat.ne_of_lt hgt, smGet, ih]

theorem smSet_ne_nil (hv : v ≠ d) : smSet d m k v ≠ [] := by
  intro hnil
  have hget : smGet d (smSet d m k v) k = v := smGet_smSet_same_of_ne_default d m hv
  rw [hnil] at hget
  exact hv hget.symm

/-- Another key reads as before, whatever is written and whether or not the map is sorted. -/
theorem smGet_smSet_of_ne (d' : α) (hj : j ≠ k) : smGet d' (smSet d m k v) j = smGet d' m j := by
  induction m with
  | nil => by_cases hv : v = d <;> simp [smSet, smGet, hv, hj.symm]
  | cons e m ih =>
    obtain ⟨k', v'⟩ := e
    rcases Nat.lt_trichotomy k k' with hlt | rfl | hgt
    · by_cases hv : v = d <;> simp [smSet, hlt, hv, smGet, hj.symm]
    · by_cases hv : v = d <;> simp [smSet, hv, smGet, hj.symm]
    · simp [smSet, Nat.lt_asymm hgt, Nat.ne_of_gt hgt, smGet, ih]

end

section
variable (m : Mach) {id : RegId} {v : Nat} (hv : BitVec.ofNat 64 v ≠ BitVec.ofNat 64 (resetOf id))
include hv

/-- The registers of a die of which one takes a value other than its reset value. -/
theorem Mach.dieRegs_setReg_of_ne_reset : smGet [] (m.setReg id v).regs id.die =
    smSet (BitVec.ofNat 64 (resetOf id)) (smGet [] m.regs id.die) id.key (BitVec.ofNat 64 v) :=
  smGet_smSet_same_of_ne_default _ _ (smSet_ne_nil _ _ hv)

theorem Mach.reg_setReg_same_of_ne_reset : (m.setReg id v).reg id = v % 2 ^ 64 := by
  rw [Mach.reg, Mach.dieRegs_setReg_of_ne_reset m hv, smGet_smSet_same_of_ne_default _ _ hv, BitVec.toNat_ofNat]

theorem Mach.reg_setReg_ne_of_ne_reset {id' : RegId} (hne : id' ≠ id) : (m.setReg id v).reg id' = m.reg id' := by
  unfold Mach.reg
  by_cases hdie : id'.die = id.die
  · have hkey : id'.key ≠ id.key := fun h => hne (RegId.key_inj _ _ h hdie)
    rw [hdie, Mach.dieRegs_setReg_of_ne_reset m hv, smGet_smSet_of_ne _ _ _ hkey]
  · rw [show smGet [] (m.setReg id v).regs id'.die = smGet [] m.regs id'.die from smGet_smSet_of_ne _ _ _ hdie]

end

theorem ofNat_setBits_one_ne_zero (x : Nat) {n : Nat} (hn : n < 64) : BitVec.ofNat 64 (setBits x n n 1) ≠ 0#64 := by
  intro h
  have hbit := congrArg (·.getLsbD n) h
  simp [BitVec.getLsbD_ofNat, testBit_setBits, hn, -BitVec.getLsbD_eq_getElem] at hbit

/-! ### Operations that send no record -/

/-- `m'` has the dies in their form, and every die's records and the pins as in `m`. -/
structure Mach.KeepsRecords (m m' : Mach) : Prop where
  sorted : smSorted m'.dies = true
  records : ∀ d, (m'.die d).records = (m.die d).records
  pins : m'.pins = m.pins

namespace Mach.KeepsRecords

theorem refl {m : Mach} (h : smSorted m.dies = true) : KeepsRecords m m := ⟨h, fun _ => rfl, rfl⟩

section
variable {m m' : Mach} (h : KeepsRecords m m')
include h

/-- What leaves the dies and the pins as they are, as a register write does. -/
theorem of_dies {m'' : Mach} (hdies : m''.dies = m'.dies) (hpins : m''.pins = m'.pins) : KeepsRecords m m'' where
  sorted := hdies ▸ h.sorted
  records d := by rw [Mach.die, hdies]; exact h.records d
  pins := hpins.trans h.pins

/-- A change of another part of a die. -/
theorem modDie {f : Die → Die} (hf : ∀ x, (f x).records = x.records) (d : Nat) : KeepsRecords m (m'.modDie d f) where
  sorted := smSorted_smSet _ _ _ _ h.sorted
  records d' := by
    by_cases hd : d' = d
    · rw [hd, Mach.die_modDie_same _ _ _ h.sorted, hf, h.records]
    · rw [Mach.die_modDie_ne _ _ _ _ h.sorted hd, h.records]
  pins := h.pins

theorem modTime (d : Nat) (f : DieTime → DieTime) : KeepsRecords m (m'.modTime d f) :=
  h.modDie (f := fun x => { x with time := f x.time }) (fun _ => rfl) d

theorem modPwr (d : Nat) (f : PwrSt → PwrSt) : KeepsRecords m (m'.modPwr d f) :=
  h.modDie (f := fun x => { x with pwr := f x.pwr }) (fun _ => rfl) d

theorem setReg (id : RegId) (v : Nat) : KeepsRecords m (m'.setReg id v) := h.of_dies rfl rfl

theorem wr (r : Reg) (d v i c j : Nat) : KeepsRecords m (m'.wr r d v i c j) := h.setReg _ v

theorem put (f : Fld) (d v i c j : Nat) : KeepsRecords m (m'.put f d v i c j) := h.wr _ d _ i c j

theorem ite {p : Prop} [Decidable p] {m'' : Mach} (h' : KeepsRecords m m'') : KeepsRecords m (if p then m' else m'') := by
  split
  · exact h
  · exact h'

end

theorem foldl {m m' : Mach} {α : Type} {f : Mach → α → Mach} (hf : ∀ x a, KeepsRecords m x → KeepsRecords m (f x a)) (l : List α)
    (h : KeepsRecords m m') : KeepsRecords m (l.foldl f m') :=
  foldl_keeps (KeepsRecords m) f hf l m' h

end Mach.KeepsRecords

/-! ### A local-scope timer fires -/

/-- Setting the late bit of a timer writes another register than the timer's control. -/
theorem Mach.get_ftTmrCtl_setLate (m : Mach) {f : Fld} (hf : f.reg = .ftTmrCtl) (d x : Nat) {n : Nat} (hn : n < 64) (i : Nat) :
    (m.wr .ftTmrLate d (setBits x n n 1)).get f d i = m.get f d i := by
  have hne : (⟨f.reg, d, 0, i, 0⟩ : RegId) ≠ ⟨.ftTmrLate, d, 0, 0, 0⟩ := by simp [hf]
  have hset : BitVec.ofNat 64 (setBits x n n 1) ≠ BitVec.ofNat 64 (resetOf ⟨.ftTmrLate, d, 0, 0, 0⟩) :=
    ofNat_setBits_one_ne_zero x hn
  simp only [Mach.get, Mach.rd, Mach.wr, Mach.reg_setReg_ne_of_ne_reset m hset hne]

namespace Mach.KeepsRecords
section
variable {m m' : Mach} (h : KeepsRecords m m')
include h

theorem timerRearm (d n : Nat) : KeepsRecords m (m'.timerRearm d n) :=
  ite ((h.modTime d _).put _ d 0 n 0 0) ((h.modTime d _).wr _ d _ n 0 0)

/-- R46 has a timer miss, which is recorded, only where its scope is the system. -/
theorem timerFire {d n : Nat} (hn : n < 64) (hscope : m'.flag Fld.ftTmrCtl_scope d n = false) : KeepsRecords m (m'.timerFire d n) := by
  unfold Mach.timerFire
  extract_lets tgt late lateSet fired a sent
  have hlateSet : KeepsRecords m lateSet := ite (h.wr _ d _ 0 0 0) h
  have hlocal : lateSet.flag Fld.ftTmrCtl_scope d n = false := by
    rw [← hscope]
    simp only [lateSet, Mach.flag]
    split
    · rw [Mach.get_ftTmrCtl_setLate m' rfl d _ hn]
    · rfl
  have hfired : KeepsRecords m fired := hlateSet.wr _ d _ 0 0 0
  rw [hlocal, Bool.false_and, if_neg Bool.false_ne_true]
  exact (ite hfired (hfired.modTime d _)).timerRearm d n

/-- FT_TMR_CTL written with a word that is not the reset value and that gives the timer local scope. -/
theorem wrTmrCtl {d n : Nat} {w : RegW} (hn : n < 64) (hscope : Fld.ftTmrCtl_scope.of (w.new % 2 ^ 64) = 0)
    (hset : BitVec.ofNat 64 w.new ≠ BitVec.ofNat 64 (resetOf ⟨.ftTmrCtl, d, 0, n, 0⟩)) :
    KeepsRecords m (m'.wrTmrCtl ⟨.ftTmrCtl, d, 0, n, 0⟩ w) := by
  unfold Mach.wrTmrCtl
  have hstored : (m'.setReg ⟨.ftTmrCtl, d, 0, n, 0⟩ w.new).flag Fld.ftTmrCtl_scope d n = false := by
    rw [Mach.flag, Mach.get, Mach.rd, Mach.reg_setReg_same_of_ne_reset m' hset, bne_eq_false_iff_eq]
    exact hscope
  have hwritten := h.setReg ⟨.ftTmrCtl, d, 0, n, 0⟩ w.new
  have hcleared := h.put Fld.ftTmrCtl_arm_err d (Fld.ftTmrCtl_arm_err.of w.new) n 0 0
  refine ite (h.put _ d 1 n 0 0) (ite (ite hcleared (hcleared.put _ d 1 n 0 0)) (ite ?late (hwritten.modTime d _)))
  exact (hwritten.modTime d _).timerFire hn hstored

/-! ### The pending cap -/

/-- R454: the word that arms timer 2 names action 6 and nothing else beside `enable`. -/
theorem armCap (d target : Nat) : KeepsRecords m (m'.armCap d target) := by
  unfold Mach.armCap
  extract_lets ctl idT idC
  refine ite ?resetting (ite h ?armed)
  case resetting =>
    extract_lets
    exact ite h (h.of_dies rfl rfl)
  case armed =>
    have hscope : Fld.ftTmrCtl_scope.of (ctl % 2 ^ 64) = 0 := by simp only [ctl]; decide
    have hset : BitVec.ofNat 64 ctl ≠ 0#64 := by simp only [ctl]; decide
    exact (h.wr .ftTmrTgt d target 2 0 0).wrTmrCtl (by decide) hscope hset

theorem setPending (cap : Nat) : KeepsRecords m (m'.setPending cap) :=
  foldl (fun _ d hx => hx.armCap d _) _ (foldl (fun _ d hx => hx.modPwr d _) _ h)

end
end Mach.KeepsRecords

/-! ### A chassis limit announcement -/

theorem classRating_ge (cool : Nat) : 600 ≤ classRating cool := by
  unfold classRating
  split <;> decide

/-- The module after it has sent PLDM_LIMIT_LOW, where the announced limit calls for it. -/
def Mach.warnedLow (m : Mach) (watts : Nat) : Mach := if watts < 600 then m.toCp sdDie 0x51 false false [(16, watts)] else m

theorem Mach.warnedLow_of_low {m : Mach} {watts : Nat} (hlow : watts < 600) :
    m.warnedLow watts = m.toCp sdDie 0x51 false false [(16, watts)] := if_pos hlow

theorem Mach.warnedLow_of_not_low {m : Mach} {watts : Nat} (hlow : 600 ≤ watts) : m.warnedLow watts = m := if_neg (Nat.not_lt.mpr hlow)

theorem Mach.warnedLow_sorted {m : Mach} (watts : Nat) (h : smSorted m.dies = true) : smSorted (m.warnedLow watts).dies = true := by
  rcases Nat.lt_or_ge watts 600 with hlow | hlow
  · rw [Mach.warnedLow_of_low hlow]; exact smSorted_smSet _ _ _ _ h
  · rw [Mach.warnedLow_of_not_low hlow]; exact h

@[simp] theorem Mach.warnedLow_pins (m : Mach) (watts : Nat) : (m.warnedLow watts).pins = m.pins := by
  rcases Nat.lt_or_ge watts 600 with hlow | hlow
  · rw [Mach.warnedLow_of_low hlow]; exact Mach.emitRec_pins ..
  · rw [Mach.warnedLow_of_not_low hlow]

/-- PLDM_LIMIT_LOW goes behind the records of the Bludjan die. -/
theorem Mach.warnedLow_records_of_low {m : Mach} {watts : Nat} (h : smSorted m.dies = true) (hlow : watts < 600) :
    ∃ r : FaultRec, r.kind = 0x51 ∧ r.toCp = true ∧ r.die = sdDie ∧
      ((m.warnedLow watts).die sdDie).records = (m.die sdDie).records ++ [r] := by
  rw [Mach.warnedLow_of_low hlow, Mach.toCp, Mach.emitRec, Mach.die_modDie_same _ _ _ h]
  exact ⟨_, rfl, rfl, rfl, rfl⟩

/-- The limit that the module takes. -/
def Mach.limitTaken (m : Mach) (watts : Nat) : Nat := min (max watts 600) (classRating m.pins.cool)

/-- After the announcement the limit taken is the chassis's, and no record but PLDM_LIMIT_LOW has been sent. -/
theorem Mach.pldmLimit_leaves (m : Mach) (watts : Nat) (h : smSorted m.dies = true) :
    (m.pldmLimit watts).pins.chassisW = some (m.limitTaken watts) ∧
      ∀ d, ((m.pldmLimit watts).die d).records = ((m.warnedLow watts).die d).records := by
  let limit := min (max watts 600) (classRating (m.warnedLow watts).pins.cool)
  let limited : Mach := { m.warnedLow watts with pins := { (m.warnedLow watts).pins with chassisW := some limit } }
  have hlimited : KeepsRecords limited limited := .refl (Mach.warnedLow_sorted watts h)
  have hpending : KeepsRecords limited (m.pldmLimit watts) := (hlimited.wr .pwrCapPend sdDie (2 ^ 31 + limit) 0 0 0).setPending limit
  refine ⟨?_, fun d => hpending.records d⟩
  rw [hpending.pins]
  simp only [limited, limit, Mach.limitTaken, Mach.warnedLow_pins]

/-! ### R455 -/

/-- Settles O57: the limit taken lies between 600 W, which no class rating is below, and the class rating; PLDM_LIMIT_LOW is sent before
the cap becomes pending, and making it pending sends no record. -/
theorem chassisLimitIsWithinRatings : Obligations.ChassisLimitIsWithinRatings := by
  intro s watts hpow hsorted
  obtain ⟨htaken, hrecords⟩ := s.m.pldmLimit_leaves watts hsorted
  have hrating := classRating_ge s.m.pins.cool
  have hexec : exec (.pldmPowerLimit watts) s = .next (s.setM (s.m.pldmLimit watts)) := by
    rw [exec_pldmPowerLimit, State.onModule_run hpow]; rfl
  refine ⟨_, s.m.limitTaken watts, hexec, htaken, ?below, ?above, ?within, fun hw => ?silent, fun hw => ?sent⟩
  case below => unfold Mach.limitTaken; omega
  case above => unfold Mach.limitTaken; omega
  case within => unfold Mach.limitTaken; omega
  case silent =>
    have hquiet := hrecords sdDie
    rwa [Mach.warnedLow_of_not_low hw] at hquiet
  case sent =>
    obtain ⟨r, hkind, hcp, hdie, hrec⟩ := Mach.warnedLow_records_of_low hsorted hw
    exact ⟨r, hkind, hcp, hdie, (hrecords sdDie).trans hrec⟩

end Sys2Proof.Machine

namespace Sys2Proof.Tests

open Sys2Proof.Machine

/-- A limit of 599 W on the running module, whose Bludjan die has sent nothing. -/
theorem chassis_limit_of_599_is_taken_as_600 :
    ∃ (t : State) (r : FaultRec), exec (.pldmPowerLimit 599) (st run) = .next t ∧ t.m.pins.chassisW = some 600 ∧
      (t.m.die sdDie).records = [r] ∧ r.kind = 0x51 ∧ r.toCp = true := by
  have hsorted : smSorted run.dies = true := by decide
  obtain ⟨t, limit, hexec, htaken, hbelow, _, _, _, hsent⟩ := chassisLimitIsWithinRatings (st run) 599 (by decide) hsorted
  obtain ⟨r, hkind, hcp, _, hrec⟩ := hsent (by decide)
  exact ⟨t, r, hexec, hbelow (by decide) ▸ htaken, hrec, hkind, hcp⟩

end Sys2Proof.Tests
end

section
/-! SUPPORT and proofs. R481, R508: a write to the request tail or to the response head of a mailbox that passes its ring's limit, and
who may write the request tail of mailbox 31. -/

namespace Sys2Proof.Machine

/-! ### The request tail -/

section
variable {id : RegId} (hreg : id.reg = .mbxReqTail)
include hreg

/-- The row of the request tails does what their rule says with an allowed write. -/
theorem exec_mbxReqTailWrite_of_writes {s : State} {who : BusWho} {pa n b : Nat} (hwrites : s.writes who pa n id b) (v hw : Nat) :
    exec (.mbxReqTailWrite who pa n v hw) s =
      .next (s.setM ((s.m.wrReqTail id (s.m.wordAt who id b n v hw)).answered id (w1cHit id b n v hw))) := by
  have hop (w : RegW) : s.m.regWrite id w = s.m.wrReqTail id w := by simp [Mach.regWrite, hreg]
  rw [exec_mbxReqTailWrite, State.onRegs_of_writes hwrites (by simp [hreg]), hop]
  rfl

/-- The tail of mailbox 31 has no writer but the MC. -/
theorem mayWrite_of_mbx31Tail {who : BusWho} (hi : id.i = 31) (hwho : who ≠ .mc) : mayWrite who id = false := by
  unfold mayWrite
  split
  · rfl
  · simp [hreg, hi, hwho]

end

/-- A tail more than 16 requests past the head is refused. -/
theorem Mach.wrReqTail_of_overfull {m : Mach} {id : RegId} {w : RegW}
    (h : 16 < (Fld.mbxReqTail_tail.of w.new + 2 ^ 16 - m.mbxHead id.i) % 2 ^ 16) :
    m.wrReqTail id w = m.ev Fld.mbxEvents_doorbell_err sdDie id.i := by
  simp only [Mach.wrReqTail, if_pos h]

/-! ### The response head -/

/-- The row of the response heads does what their rule says with an allowed write. -/
theorem exec_mbxRspHeadWrite_of_writes {s : State} {who : BusWho} {pa n b : Nat} {id : RegId} (hreg : id.reg = .mbxRspHead)
    (hwrites : s.writes who pa n id b) (v hw : Nat) :
    exec (.mbxRspHeadWrite who pa n v hw) s =
      .next (s.setM ((s.m.wrRspHead id (s.m.wordAt who id b n v hw)).answered id (w1cHit id b n v hw))) := by
  have hop (w : RegW) : s.m.regWrite id w = s.m.wrRspHead id w := by simp [Mach.regWrite, hreg]
  rw [exec_mbxRspHeadWrite, State.onRegs_of_writes hwrites (by simp [hreg]), hop]
  rfl

/-- A head that moves further than there are responses is refused. -/
theorem Mach.wrRspHead_of_pastTail {m : Mach} {id : RegId} {w : RegW}
    (h : (m.get Fld.mbxRspTail_count sdDie id.i + 2 ^ 16 - Fld.mbxRspHead_count.of w.old) % 2 ^ 16 <
      (Fld.mbxRspHead_count.of w.new + 2 ^ 16 - Fld.mbxRspHead_count.of w.old) % 2 ^ 16) :
    m.wrRspHead id w = m.ev Fld.mbxEvents_rsp_err sdDie id.i := by
  simp only [Mach.wrRspHead, if_pos h]

/-! ### R481, R508 -/

/-- Settles O18: past its limit each of the two registers' own operations sets the event bit and stores nothing, and the register map's
check of the requester turns away every writer of mailbox 31's tail but the MC. -/
theorem mailboxLimits : Obligations.MailboxLimits := by
  refine ⟨⟨?overfull, ?others⟩, ?pastTail⟩
  case overfull =>
    intro s who pa n v hw b id hwrites hreg hdie hfull
    rw [exec_mbxReqTailWrite_of_writes hreg hwrites, Mach.wrReqTail_of_overfull hfull, Mach.turnedAway, hdie]
  case others =>
    intro s who pa n v hw b id hpow hslot hat hreg hi hwho
    rw [exec_mbxReqTailWrite]
    exact State.onRegs_of_not_mayWrite hpow hslot hat (mayWrite_of_mbx31Tail hreg hi hwho) v hw (by simp [hreg])
  case pastTail =>
    intro s who pa n v hw b id hwrites hreg hdie w hpast
    rw [exec_mbxRspHeadWrite_of_writes hreg hwrites, Mach.wrRspHead_of_pastTail hpast, Mach.turnedAway, hdie]

end Sys2Proof.Machine

namespace Sys2Proof.Tests

open Sys2Proof.Machine

/-- R481 where 17 requests are announced at once, and where software rings mailbox 31. -/
theorem reqTail_write_of_17_ignored_and_mailbox_31_refused :
    let s := st run
    let id := r8 .mbxReqTail 30
    let n := id.reg.info.width / 8
    exec (.mbxReqTailWrite .sw id.addr n 17 0) s =
        .next (s.setM (run.turnedAway id (w1cHit id 0 n 17 0) Fld.mbxEvents_doorbell_err 30 0)) ∧
      exec (.mbxReqTailWrite .sw (r8 .mbxReqTail 31).addr 4 1 0) s = .next (s.setM { run with resp := .accessFault }) := by
  intro s id n
  have hmet := witness_mailbox_limits
  simp only [Bool.and_eq_true, Bool.not_eq_true', decide_eq_true_eq] at hmet
  obtain ⟨⟨⟨htail, _⟩, hat⟩, hslot⟩ := hmet
  obtain ⟨hwrites, hfull⟩ := writes_of_wr htail
  obtain ⟨⟨overfull, others⟩, _⟩ := mailboxLimits
  exact ⟨overfull s .sw id.addr n 17 0 0 id hwrites rfl rfl (of_decide_eq_true hfull),
    others s .sw _ 4 1 0 0 _ hwrites.1 hslot hat rfl rfl (by decide)⟩

/-- R508 where software consumes a response that no one wrote. -/
theorem rspHead_write_past_tail_ignored :
    let s := st run
    let id := r8 .mbxRspHead 30
    let n := id.reg.info.width / 8
    exec (.mbxRspHeadWrite .sw id.addr n 1 0) s =
      .next (s.setM (run.turnedAway id (w1cHit id 0 n 1 0) Fld.mbxEvents_rsp_err 30 0)) := by
  intro s id n
  have hmet := witness_mailbox_limits
  simp only [Bool.and_eq_true] at hmet
  obtain ⟨⟨⟨_, hhead⟩, _⟩, _⟩ := hmet
  obtain ⟨hwrites, hpast⟩ := writes_of_wr hhead
  exact mailboxLimits.2 s .sw id.addr n 1 0 0 id hwrites rfl rfl (of_decide_eq_true hpast)

end Sys2Proof.Tests
end

section
/-! SUPPORT and proofs. What a command does as a whole: the form that every meaning has, a guard and an effect on the machine, and from it
which commands answer, which change nothing, and what remains possible without supply (R17, R530, R536, R548). -/

namespace Sys2Proof.Machine

/-! ### The form of every meaning -/

/-- The machine `m` where what a command needs runs. -/
def State.onNeeds (s : State) (n : Needs) (m : Mach) : Host.Outcome State Fault Refusal :=
  if n.met s.m then .next (s.setM m) else .next s

theorem State.onNeeds_not {s : State} {n : Needs} (h : n.met s.m = false) (m : Mach) : s.onNeeds n m = .next s := by
  simp [State.onNeeds, h]

/-- Every command is an effect on the machine behind the guard of what it needs, SUPPLY_LOSS beyond the ratings apart. -/
theorem exec_eq_onNeeds (i : Instr) (hi : ∀ mv, i ≠ .supplyLoss mv) (s : State) : ∃ m, exec i s = s.onNeeds (needs i) m := by
  cases i with
  | supplyLoss mv => exact absurd rfl (hi mv)
  | _ => exact ⟨_, rfl⟩

theorem exec_supplyLoss_of_rated {mv : Nat} (h : mv ≤ 65000) (s : State) :
    exec (.supplyLoss mv) s = s.onModule (fun m => m.supplyLoss mv) := by
  rw [exec_supplyLoss, if_neg (Nat.not_lt.mpr h)]

theorem exec_supplyLoss_of_beyond {mv : Nat} (h : 65000 < mv) (s : State) : exec (.supplyLoss mv) s = .fault .beyondRatings := by
  rw [exec_supplyLoss, if_pos h]

/-! ### Answers -/

theorem State.onNeeds_answers (s : State) (n : Needs) (m : Mach) : ∃ m', s.onNeeds n m = .next (s.setM m') := by
  unfold State.onNeeds
  split
  · exact ⟨_, rfl⟩
  · exact ⟨s.m, rfl⟩

/-- Settles O3: a guarded effect on the machine answers whatever the guard is, and SUPPLY_LOSS asks for the ratings before its guard. -/
theorem everyCommandAnswers : Obligations.EveryCommandAnswers := by
  refine ⟨fun i s hrated => ?_, fun s mv h => exec_supplyLoss_of_beyond h s⟩
  by_cases hloss : ∃ mv, i = .supplyLoss mv
  · obtain ⟨mv, rfl⟩ := hloss
    rw [exec_supplyLoss_of_rated (hrated mv rfl)]
    exact s.onNeeds_answers .bludjan _
  · obtain ⟨m, hm⟩ := exec_eq_onNeeds i (fun mv h => hloss ⟨mv, h⟩) s
    rw [hm]
    exact s.onNeeds_answers _ m

/-! ### Commands that do not happen -/

/-- SUPPLY_LOSS is listed as needing nothing, so that no state leaves its need unmet. -/
theorem ne_supplyLoss_of_not_met {i : Instr} {m : Mach} (h : (needs i).met m = false) (mv : Nat) : i ≠ .supplyLoss mv := by
  rintro rfl
  cases h

/-- Settles O4: the guard of a command's meaning is what the command needs. -/
theorem nothingHappensUnlessItRuns : Obligations.NothingHappensUnlessItRuns := by
  intro i s h
  obtain ⟨m, hm⟩ := exec_eq_onNeeds i (ne_supplyLoss_of_not_met h) s
  rw [hm, State.onNeeds_not h]

/-! ### Steps -/

theorem step_of_pending_cons {s : State} {i : Instr} {rest : List Instr} (h : s.pending = i :: rest) :
    step s = exec i { s with pending := rest } := by
  simp [step, h]

theorem step_of_pending_nil {s : State} (h : s.pending = []) : step s = .next s := by
  simp [step, h]

/-- Settles O1: both halves are what `step` does with the queue's two forms. -/
theorem stepTakesTheFront : Obligations.StepTakesTheFront :=
  ⟨fun _ _ _ => step_of_pending_cons rfl, fun _ h => step_of_pending_nil h⟩

/-! ### Without supply (R17, R536) -/

section
variable {m : Mach} (h : m.dark = true)
include h

theorem Mach.silent_of_dark : m.silent = true := by
  simp only [Mach.dark, Bool.and_eq_true] at h
  simp only [h]

theorem Mach.powered_of_dark : m.powered = false := by
  simp only [Mach.dark, Bool.and_eq_true, Bool.not_eq_true'] at h
  simp only [Mach.powered, h]

/-- Without supply no part of the module runs. -/
theorem Needs.met_of_dark {n : Needs} (hn : n ≠ .nothing) : n.met m = false := by
  have hpow := Mach.powered_of_dark h
  have hdata : m.dataPlane = false := Bool.eq_false_iff.mpr fun hd => by
    simp [Mach.powered_of_dataPlane hd] at hpow
  cases n with
  | nothing => exact absurd rfl hn
  | bludjan => exact hpow
  | data => exact hdata
  | die d => simp [Needs.met, Mach.dieRuns, hdata]
  | nine d => simp [Needs.met, Mach.nineRuns, Mach.dieRuns, hdata, hpow]

/-- The boundary of a dark module is that of an unpowered one already. -/
theorem Mach.unpowered_of_dark : m.unpowered = m := by
  have hpins : m.unpowered.pins = m.pins := by
    simp only [Mach.dark, Bool.and_eq_true, Bool.not_eq_true', beq_iff_eq, Option.isNone_iff_eq_none] at h
    cases hp : m.pins
    simp_all [Mach.unpowered]
  calc m.unpowered = { m with pins := m.unpowered.pins } := rfl
    _ = { m with pins := m.pins } := by rw [hpins]
    _ = m := rfl

theorem Mach.pwrEnDeassert_of_dark : m.pwrEnDeassert = { m with pins := { m.pins with pwrEn := false } } := by
  have hsilent : m.goSilent = m := by rw [Mach.goSilent, if_pos (Mach.silent_of_dark h)]
  simp only [Mach.pwrEnDeassert, hsilent, Mach.unpowered_of_dark h]

theorem exec_pwrEnDeassert_of_dark {s : State} (hs : s.m = m) :
    exec .pwrEnDeassert s = .next (s.setM { m with pins := { m.pins with pwrEn := false } }) := by
  subst hs
  rw [exec_pwrEnDeassert, State.always, Mach.pwrEnDeassert_of_dark h]
  rfl

end

/-- Without supply no command but COLD_RESET changes anything but PWR_EN. -/
theorem exec_of_dark {i : Instr} {s t : State} (h : s.m.dark = true) (hi : ∀ cool bifurc rails, i ≠ .coldReset cool bifurc rails)
    (hexec : exec i s = .next t) : ∃ e, t = s.setM { s.m with pins := { s.m.pins with pwrEn := e } } := by
  by_cases hneeds : needs i = .nothing
  case neg =>
    rw [nothingHappensUnlessItRuns i s (Needs.met_of_dark h hneeds)] at hexec
    cases hexec
    exact ⟨s.m.pins.pwrEn, rfl⟩
  case pos =>
    cases i with
    | coldReset cool bifurc rails => exact absurd rfl (hi cool bifurc rails)
    | pwrEnDeassert =>
      rw [exec_pwrEnDeassert_of_dark h rfl] at hexec
      cases hexec
      exact ⟨false, rfl⟩
    | supplyLoss mv =>
      rcases Nat.lt_or_ge 65000 mv with hmv | hmv
      · rw [exec_supplyLoss_of_beyond hmv] at hexec
        cases hexec
      · rw [exec_supplyLoss_of_rated hmv, State.onModule_not (Mach.powered_of_dark h)] at hexec
        cases hexec
        exact ⟨s.m.pins.pwrEn, rfl⟩
    | _ => cases hneeds

/-- Settles O5: the commands that need a part of the module do not happen without supply; of the others PWR_EN_DEASSERT finds the module
silent and its boundary unpowered, SUPPLY_LOSS finds no supply to lose, and COLD_RESET is not at the front. -/
theorem darkUntilColdReset : Obligations.DarkUntilColdReset := by
  intro s t hdark hfront hstep
  cases hq : s.pending with
  | nil =>
    rw [step_of_pending_nil hq] at hstep
    cases hstep
    exact ⟨hdark, rfl, by rw [hq]; rfl⟩
  | cons i rest =>
    rw [step_of_pending_cons hq] at hstep
    have hi : ∀ cool bifurc rails, i ≠ .coldReset cool bifurc rails := fun cool bifurc rails h =>
      hfront cool bifurc rails rest (h ▸ hq)
    obtain ⟨e, rfl⟩ := exec_of_dark (s := { s with pending := rest }) hdark hi hstep
    exact ⟨hdark, rfl, rfl⟩

end Sys2Proof.Machine
end

section
/-! SUPPORT and proofs. The state after reset (R11, R509): the register maps place their fields apart from one another, so that the value
that reset gives a register copy holds every field's own reset value. -/

namespace Sys2Proof.Machine

/-! ### The fields of a register map -/

/-- Two fields share no bit. -/
def FieldInfo.apart (f g : FieldInfo) : Prop := f.hi < g.lo ∨ g.hi < f.lo

theorem FieldInfo.apart_comm {f g : FieldInfo} : f.apart g ↔ g.apart f := Or.comm

/-- A field lies within a register of 64 bits, and its reset value within the field. -/
def FieldInfo.fits (f : FieldInfo) : Prop := f.lo ≤ f.hi ∧ f.hi < 64 ∧ f.reset < 2 ^ (f.hi + 1 - f.lo)

/-- The fields of every register map fit and lie apart. -/
theorem Reg.fields_fit_and_apart (r : Reg) : (∀ f ∈ r.info.fields, f.fits) ∧ r.info.fields.Pairwise FieldInfo.apart := by
  unfold FieldInfo.fits FieldInfo.apart
  cases r <;> decide

theorem Reg.fits_of_mem {r : Reg} {f : FieldInfo} (h : f ∈ r.info.fields) : f.fits := r.fields_fit_and_apart.1 f h

theorem Reg.fields_pairwise_apart (r : Reg) : r.info.fields.Pairwise FieldInfo.apart := r.fields_fit_and_apart.2

/-! ### Reset values -/

/-- A number with the reset value of each field of a list set in turn. -/
def resetFields (l : List FieldInfo) (n : Nat) : Nat := l.foldl (fun a f => setBits a f.hi f.lo f.reset) n

theorem bitsOf_resetFields_of_apart {f : FieldInfo} {l : List FieldInfo} (hfit : ∀ g ∈ l, g.fits) (hap : ∀ g ∈ l, f.apart g) (n : Nat) :
    bitsOf (resetFields l n) f.hi f.lo = bitsOf n f.hi f.lo := by
  induction l generalizing n with
  | nil => rfl
  | cons g l ih =>
    rw [List.forall_mem_cons] at hfit hap
    obtain ⟨hlo, _, _⟩ := hfit.1
    exact (ih hfit.2 hap.2 _).trans (bitsOf_setBits_disjoint _ _ _ _ _ _ (by omega) hap.1)

theorem bitsOf_resetFields {f : FieldInfo} {l : List FieldInfo} (hfit : ∀ g ∈ l, g.fits) (hap : l.Pairwise FieldInfo.apart) (hf : f ∈ l)
    (n : Nat) : bitsOf (resetFields l n) f.hi f.lo = f.reset := by
  induction l generalizing n with
  | nil => cases hf
  | cons g l ih =>
    rw [List.forall_mem_cons] at hfit
    rw [List.pairwise_cons] at hap
    rcases List.mem_cons.mp hf with rfl | hmem
    · obtain ⟨_, _, hreset⟩ := hfit.1
      calc bitsOf (resetFields l (setBits n f.hi f.lo f.reset)) f.hi f.lo
          = bitsOf (setBits n f.hi f.lo f.reset) f.hi f.lo := bitsOf_resetFields_of_apart hfit.2 hap.1 _
        _ = f.reset % 2 ^ (f.hi + 1 - f.lo) := bitsOf_setBits_same _ _ _ _
        _ = f.reset := Nat.mod_eq_of_lt hreset
    · exact ih hfit.2 hap.2 hmem _

/-- Two registers show in some of their bits what depends on the copy. -/
theorem resetOf_eq_resetFields {id : RegId} (h1 : id.reg ≠ .cqRingCfg) (h2 : id.reg ≠ .fabPortStatus) :
    resetOf id = resetFields id.reg.info.fields 0 := by
  unfold resetOf resetFields
  split
  · exact absurd ‹_› h1
  · exact absurd ‹_› h2
  · rfl

/-! ### The machine after reset -/

/-- The one register copy that a cold reset lists is PWR_CAP of the Bludjan die. -/
theorem State.reset_reg {id : RegId} (h : id.die ≠ 8 ∨ id.key ≠ RegId.key ⟨.pwrCap, 8, 0, 0, 0⟩) :
    State.reset.m.reg id = resetOf id % 2 ^ 64 := by
  have hnone : smGet (BitVec.ofNat 64 (resetOf id)) (smGet [] State.reset.m.regs id.die) id.key = BitVec.ofNat 64 (resetOf id) := by
    rcases h with hdie | hkey
    · simp [State.reset, Mach.cold, smGet, Ne.symm hdie]
    · have hne (d : Nat) : RegId.key ⟨.pwrCap, d, 0, 0, 0⟩ ≠ id.key := Ne.symm hkey
      by_cases hdie : 8 = id.die <;> simp [State.reset, Mach.cold, smGet, hdie, hne]
  rw [Mach.reg, hnone, BitVec.toNat_ofNat]

theorem State.reset_rd_of_ne {r : Reg} (h : r ≠ .pwrCap) (d i c j : Nat) : State.reset.m.rd r d i c j = resetOf ⟨r, d, c, i, j⟩ % 2 ^ 64 := by
  refine State.reset_reg (.inr fun hkey => h ?_)
  exact congrArg RegId.reg (RegId.key_inj ⟨r, 8, c, i, j⟩ ⟨.pwrCap, 8, 0, 0, 0⟩ hkey rfl)

theorem State.reset_sorted : State.reset.m.regsSorted := Mach.regsSorted_of _ (by decide)

theorem State.reset_time (d : Nat) : State.reset.m.ft d = 0 ∧ State.reset.m.ftState d = 0 := by
  constructor
  · rw [Mach.ft, State.reset_rd_of_ne (by decide)]; rfl
  · have hreset : resetOf ⟨.ftStatus, d, 0, 0, 0⟩ = resetFields Reg.ftStatusInfo.fields 0 := rfl
    have hstate : bitsOf (resetFields Reg.ftStatusInfo.fields 0 % 2 ^ 64) 1 0 = 0 := by decide
    rw [Mach.ftState, Mach.get, State.reset_rd_of_ne (by decide), hreset, hstate]

/-- Settles O2: a cold reset lists no register copy but PWR_CAP of the Bludjan die, and each copy not listed holds the reset values of its
fields, which lie apart. -/
theorem resetLeavesTheFieldsValues : Obligations.ResetLeavesTheFieldsValues := by
  refine ⟨⟨rfl, rfl, rfl, rfl, rfl, by decide, by decide, State.reset_sorted, fun id h => State.reset_reg h, by decide,
    fun d _ => State.reset_time d⟩, fun id f hf h1 h2 => ?_⟩
  rw [resetOf_eq_resetFields h1 h2]
  exact bitsOf_resetFields (fun _ => Reg.fits_of_mem) id.reg.fields_pairwise_apart hf 0

end Sys2Proof.Machine
end

section
/-! SUPPORT and proofs. What a register access leaves (R9, R12 to R15, Table 0.3): a field bit by bit, a register field by field, and every
other register as it was; and what a read of DC_L1_STATUS returns. -/

namespace Sys2Proof.Machine

/-! ### A field after a write (Table 0.3) -/

/-- A write puts nothing outside the field's bits. -/
theorem FieldInfo.testBit_written_outside {f : FieldInfo} {i : Nat} (h : ¬ (f.lo ≤ i ∧ i ≤ f.hi)) (locked : Bool) (old val mask hw : Nat) :
    (f.written locked old val mask hw).testBit i = false := by
  have hm : f.mask.testBit i = false := by rw [FieldInfo.testBit_mask]; simpa using h
  cases hacc : f.acc with
  | rwl => cases locked <;> simp [FieldInfo.written, hacc, hm]
  | _ => simp [FieldInfo.written, hacc, hm]

/-- Settles O7: inside the field each access type's formula of masks is the table's rule for the bit, and outside it every mask is 0. -/
theorem fieldsFollowTable03 : Obligations.FieldsFollowTable03 := by
  intro f locked old val mask hw i _
  by_cases h : f.lo ≤ i ∧ i ≤ f.hi
  case neg => rw [FieldInfo.testBit_written_outside h, decide_eq_false h, Bool.false_and]
  case pos =>
    have hm : f.mask.testBit i = true := by rw [FieldInfo.testBit_mask]; simp [h]
    rw [decide_eq_true h, Bool.true_and]
    cases hacc : f.acc with
    | rwl => cases locked <;> cases hb : mask.testBit i <;> simp [FieldInfo.written, hacc, hm, hb]
    | wo => simp [FieldInfo.written, hacc]
    | _ => cases hb : mask.testBit i <;> cases hv : val.testBit i <;> simp [FieldInfo.written, hacc, hm, hb, hv]

/-- A bit that a write does not reach stays, in every field that is not write-only. -/
theorem FieldInfo.testBit_written_of_unreached {f : FieldInfo} (hacc : f.acc ≠ .wo) {i : Nat} (hlo : f.lo ≤ i) (hhi : i ≤ f.hi) {mask : Nat}
    (hmask : mask.testBit i = false) (locked : Bool) (old val hw : Nat) :
    (f.written locked old val mask hw).testBit i = old.testBit i := by
  rw [fieldsFollowTable03 f locked old val mask hw i (hlo.trans hhi)]
  cases h : f.acc with
  | wo => exact absurd h hacc
  | _ => simp [hlo, hhi, hmask]

/-! ### A register after a write -/

/-- The fields of a register map lie apart, so that a bit of a field is that field's own. -/
theorem Mach.wordAt_new_testBit (m : Mach) (who : BusWho) {id : RegId} {f : FieldInfo} (hf : f ∈ id.reg.info.fields) (b n v hw : Nat)
    {i : Nat} (hlo : f.lo ≤ i) (hhi : i ≤ f.hi) :
    (m.wordAt who id b n v hw).new.testBit i =
      (f.written (m.locked id) (m.reg id) (v * 2 ^ (8 * b)) (accMask b n) (w1cHit id b n v hw)).testBit i := by
  simp only [Mach.wordAt, Mach.regW, testBit_foldl_or, Nat.zero_testBit, Bool.false_or]
  rw [Bool.eq_iff_iff, List.any_eq_true]
  refine ⟨fun ⟨g, hg, hbit⟩ => ?_, fun hbit => ⟨f, hf, hbit⟩⟩
  have hin : g.lo ≤ i ∧ i ≤ g.hi := by
    by_contra hout
    rw [FieldInfo.testBit_written_outside hout] at hbit
    cases hbit
  have hsame : g = f := by
    by_contra hne
    have : Std.Symm FieldInfo.apart := ⟨fun _ _ => FieldInfo.apart_comm.mp⟩
    have hap : g.apart f := id.reg.fields_pairwise_apart.forall hg hf hne
    unfold FieldInfo.apart at hap
    omega
  exact hsame ▸ hbit

/-- The bits that an access reaches are those of its bytes. -/
theorem testBit_accMask (b n i : Nat) : (accMask b n).testBit i = (decide (8 * b ≤ i) && decide (i < 8 * b + 8 * n)) := by
  rw [accMask, Nat.mul_comm, Nat.testBit_two_pow_mul, Nat.testBit_two_pow_sub_one, Bool.eq_iff_iff]
  simp
  omega

/-- A register without a rule of its own takes the value of Table 0.3. -/
theorem Mach.regWrite_of_not_ownRules (m : Mach) {id : RegId} (h : id.reg ∉ ownRules) (w : RegW) : m.regWrite id w = m.setReg id w.new := by
  unfold Mach.regWrite
  split
  pick_goal -1
  · rfl
  all_goals exact absurd (by simp [ownRules, *]) h

/-- An allowed REGISTER_WRITE does the register's own operation and is answered. -/
theorem exec_registerWrite_of_writes {s : State} {who : BusWho} {pa n b : Nat} {id : RegId} (h : s.writes who pa n id b) (v hw : Nat) :
    exec (.registerWrite who pa n v hw) s =
      .next (s.setM ((s.m.regWrite id (s.m.wordAt who id b n v hw)).answered id (w1cHit id b n v hw))) := by
  rw [exec_registerWrite, State.onModule_run h.1, Mach.storeReg_of_writes h]
  rfl

/-- Settles O8: the registers of `ownRules` are those with an operation of their own, the fields of a map lie apart, and a bit that the
write does not reach keeps its value. -/
theorem registerWriteStores : Obligations.RegisterWriteStores := by
  refine ⟨fun s who pa n v hw b id hwrites hsorted => ⟨exec_registerWrite_of_writes hwrites v hw, fun hown hhit => ?stores⟩,
    fun m who id b v hw f i hb hf hacc hlo hhi hi64 hout => ?otherHalf⟩
  case stores =>
    refine ⟨_, exec_registerWrite_of_writes hwrites v hw, ?_⟩
    rw [Mach.regWrite_of_not_ownRules _ hown, hhit, Mach.answered_zero]
    exact ⟨Mach.reg_setReg_same _ _ _ hsorted, fun id' hne => Mach.reg_setReg_ne _ _ _ _ hsorted hne, rfl⟩
  case otherHalf =>
    have hmask : (accMask b 4).testBit i = false := by
      rw [testBit_accMask]
      simp
      omega
    rw [m.wordAt_new_testBit who hf b 4 v hw hlo hhi, FieldInfo.testBit_written_of_unreached hacc hlo hhi hmask]

end Sys2Proof.Machine

namespace Sys2Proof.Tests

open Sys2Proof.Machine

/-- The module after reset, with the field `slots_busy` of core 0's DC_L1_STATUS left at 5 though no slot of the core is busy. -/
def staleSlots : Mach := run.put Fld.dcL1Status_slots_busy 0 5

/-- R307: what the read returns are the slots that are busy now, not the field as it stands. -/
theorem read_of_staleSlots :
    (after (exec (.rcCounterRead .sw (r0 .dcL1Status).addr 4) (st staleSlots))).map (·.resp) = some (.ok 0) ∧
      staleSlots.reg (r0 .dcL1Status) = 5 * 2 ^ 16 := by decide +kernel

/-- Refutes O13: a read of DC_L1_STATUS shows the busy slots anew before it returns them (R307), so that it answers other bits than the
register holds, and leaves others, where the field `slots_busy` stands at another number. -/
theorem not_readsReturnAndClear : ¬ Obligations.ReadsReturnAndClear := by
  intro h
  have hread : regAt (r0 .dcL1Status).addr = some (r0 .dcL1Status, 0) := by decide +kernel
  have hsorted : staleSlots.regsSorted := Mach.regsSorted_put _ _ _ _ _ _ _ run_sorted
  obtain ⟨t, hexec, hresp, _⟩ := h.1 (st staleSlots) .sw (r0 .dcL1Status).addr 4 0 (r0 .dcL1Status) rfl (by decide) hread (by decide) (by decide)
    (by decide) hsorted
  obtain ⟨hshown, hheld⟩ := read_of_staleSlots
  rw [hexec] at hshown
  have hanswer : t.m.resp = .ok 0 := Option.some.inj hshown
  rw [hresp] at hanswer
  simp only [st, hheld] at hanswer
  exact absurd hanswer (by decide)

end Sys2Proof.Tests
end

section
/-! SUPPORT and proofs. Register rows whose write is turned away: the event bit that each register's rule sets, and the page of VEC_STEP_ACT,
which no one writes (R163). -/

namespace Sys2Proof.Machine

/-! ### Register rows -/

/-- A row of its own, at one of its registers, leaves what the register's own operation leaves. -/
theorem State.onRegs_of_regWrite {s : State} {p : RegId → RegW → Bool} {who : BusWho} {pa n b v hw : Nat} {id : RegId} {m : Mach}
    (hwrites : s.writes who pa n id b) (hp : p id (s.m.wordAt who id b n v 0) = true)
    (hop : s.m.regWrite id (s.m.wordAt who id b n v hw) = m) :
    s.onRegs p who pa n v hw = .next (s.setM (m.answered id (w1cHit id b n v hw))) := by
  rw [State.onRegs_of_writes hwrites hp, hop]
  rfl

/-! ### The operations' refusals -/

section
variable {m : Mach} {id : RegId} {w : RegW}

theorem Mach.wrTmrTgt_of_enabled (h : m.flag Fld.ftTmrCtl_enable id.die id.i = true) :
    m.wrTmrTgt id w = m.ev Fld.ftTmrCtl_arm_err id.die id.i := if_pos h

theorem Mach.wrTmrCtl_of_not_permitted (hon : Fld.ftTmrCtl_enable.of w.new = 1)
    (h : actionPermitted id.i (Fld.ftTmrCtl_action.of w.new) = false) :
    m.wrTmrCtl id w = m.ev Fld.ftTmrCtl_arm_err id.die id.i := by
  simp [Mach.wrTmrCtl, hon, h]

theorem Mach.wrArrCfg_of_spill (h : Fld.arrCfg_spill_log2.of w.new < 8 ∨ 14 < Fld.arrCfg_spill_log2.of w.new) :
    m.wrArrCfg id w = m.ev Fld.arrEvents_cfg_err id.die (c := id.core) :=
  if_pos (h.elim .inl fun h => .inr (.inl h))

theorem Mach.wrSumCtrl_of_reserved (h : Fld.sumCtrl_force.of w.new = 3) :
    m.wrSumCtrl id w = m.ev Fld.sumEvents_cfg_err id.die (c := id.core) := if_pos h

theorem Mach.wrSumFold_of_beyond (hall : Fld.sumFold_all.of w.raw = 0)
    (h : m.get Fld.sumTblCfg_entries id.die ≤ Fld.sumFold_entry.of w.raw) :
    m.wrSumFold id w = m.ev Fld.sumDieEvents_fold_err id.die := by
  simp [Mach.wrSumFold, hall, Nat.not_lt.mpr h]

theorem Mach.wrTguWdog_of_limit (h : Fld.tguWdog_wdog_log2.of w.new < 16 ∨ 30 < Fld.tguWdog_wdog_log2.of w.new) :
    m.wrTguWdog id w = m.ev Fld.tguDieEvents_cfg_err id.die := if_pos h

theorem Mach.wrLqTail_of_disabled (h : m.flag Fld.lqCfg_enable id.die id.i = false) :
    m.wrLqTail id w = m.ev Fld.cqDieEvents_lq_err id.die := if_pos (.inr (.inl h))

theorem Mach.wrDcCfg_of_reserved (h : Fld.dcCfg_clove_mode.of w.new = 3) :
    m.wrDcCfg id w = m.ev Fld.dcEvents_cfg_err id.die := if_pos (.inl h)

theorem Mach.wrHbmCfg_of_reserved (h : Fld.hbmCfg_ecc_mode.of w.new = 3) :
    m.wrHbmCfg id w = m.ev Fld.hbmEvents_cfg_err id.die (c := id.core) := if_pos (.inl h)

theorem Mach.wrRouteCtl_of_wrong_epoch (harm : Fld.fabRouteCtl_arm.of w.new = 1)
    (h : Fld.fabRouteCtl_pend_epoch.of w.new ≠ (Fld.fabRouteCtl_epoch.of w.old + 1) % 2 ^ 16) :
    m.wrRouteCtl id w = m.ev Fld.fabEvents_cfg_err id.die := by
  simp only [Mach.wrRouteCtl]
  rw [if_pos]
  simp only [harm, decide_true, Bool.true_and, Bool.or_eq_true, bne_iff_ne]
  exact .inl h

end

/-! ### R117, R123, R163, R168, R194, R224, R266, R302, R340, R381, R416 -/

/-- Nobody may write the active page. -/
theorem mayWrite_of_vecStepAct {id : RegId} (h : id.reg = .vecStepAct) (who : BusWho) : mayWrite who id = false := by
  simp [mayWrite, h]

/-- Settles O16: each row runs its register's own operation, whose first branch is the refusal, and the register map has no writer for the
active page. -/
theorem turnedAwayWritesSetTheirEvent : Obligations.TurnedAwayWritesSetTheirEvent := by
  refine ⟨fun s who pa n v hw b id hwrites => ?_, fun s who pa n v hw b id hpow hslot hat hreg => ?stepAct⟩
  case stepAct =>
    have hmay := mayWrite_of_vecStepAct hreg who
    exact ⟨State.onRegs_of_not_mayWrite hpow hslot hat hmay v hw (by simp [hreg]), exec_registerWrite_of_not_mayWrite hpow hslot hat hmay v hw⟩
  refine ⟨fun hreg h => ?tmrTgt, fun hreg hon h => ?tmrCtl, fun hreg h => ?arrCfg, fun hreg h => ?sumCtrl, fun hreg hall h => ?sumFold,
    fun hreg h => ?tguWdog, fun hreg h => ?lqTail, fun hreg h => ?dcCfg, fun hreg h => ?hbmCfg, fun hreg harm h => ?routeCtl⟩
  case tmrTgt => exact State.onRegs_of_regWrite hwrites (by simp [hreg]) (by simp [Mach.regWrite, hreg, Mach.wrTmrTgt_of_enabled h])
  case tmrCtl => exact State.onRegs_of_regWrite hwrites (by simp [hreg]) (by simp [Mach.regWrite, hreg, Mach.wrTmrCtl_of_not_permitted hon h])
  case arrCfg => exact State.onRegs_of_regWrite hwrites (by simp [hreg]) (by simp [Mach.regWrite, hreg, Mach.wrArrCfg_of_spill h])
  case sumCtrl => exact State.onRegs_of_regWrite hwrites (by simp [hreg]) (by simp [Mach.regWrite, hreg, Mach.wrSumCtrl_of_reserved h])
  case sumFold =>
    have hone : Fld.sumFold_all.of (s.m.wordAt who id b n v 0).raw = 0 := hall
    exact State.onRegs_of_regWrite hwrites (by simp [hreg, hone]) (by simp [Mach.regWrite, hreg, Mach.wrSumFold_of_beyond hall h])
  case tguWdog => exact State.onRegs_of_regWrite hwrites (by simp [hreg]) (by simp [Mach.regWrite, hreg, Mach.wrTguWdog_of_limit h])
  case lqTail => exact State.onRegs_of_regWrite hwrites (by simp [hreg]) (by simp [Mach.regWrite, hreg, Mach.wrLqTail_of_disabled h])
  case dcCfg => exact State.onRegs_of_regWrite hwrites (by simp [hreg]) (by simp [Mach.regWrite, hreg, Mach.wrDcCfg_of_reserved h])
  case hbmCfg => exact State.onRegs_of_regWrite hwrites (by simp [hreg]) (by simp [Mach.regWrite, hreg, Mach.wrHbmCfg_of_reserved h])
  case routeCtl => exact State.onRegs_of_regWrite hwrites (by simp [hreg]) (by simp [Mach.regWrite, hreg, Mach.wrRouteCtl_of_wrong_epoch harm h])

end Sys2Proof.Machine
end

section
/-! SUPPORT and proofs. Fabric time: the counter of a die on a PMU cycle (R27), the rate adjustment at an exchange (R28), and what a timer
leaves that fires or misses (R43, R46 to R48). -/

namespace Sys2Proof.Machine

/-! ### The fabric-time part of a die -/

section
variable {m : Mach} {d : Nat} {f : DieTime → DieTime} (h : smSorted m.dies = true)
include h

theorem Mach.time_modTime_same : (m.modTime d f).time d = f (m.time d) := by
  rw [Mach.time, Mach.modTime, Mach.die_modDie_same _ _ _ h, Mach.time]

theorem Mach.die_modTime_ne {d' : Nat} (hne : d' ≠ d) : (m.modTime d f).die d' = m.die d' := by
  rw [Mach.modTime, Mach.die_modDie_ne _ _ _ _ h hne]

theorem Mach.smSorted_modTime : smSorted (m.modTime d f).dies = true := smSorted_smSet _ _ _ _ h

end

/-! ### The counter (R27) -/

/-- The fabric time of a die, its integer and its fraction, in units of 2^-32 ns, after the next PMU cycle. -/
def Mach.nextTime (m : Mach) (d : Nat) : Int := (m.ft d : Int) * 2 ^ 32 + (m.time d).frac + 5 * 2 ^ 32 + (m.time d).adj

/-- A time of 96 bits is its integer part of 64 bits and its fraction of 32. -/
theorem time_parts {v : Int} (h0 : 0 ≤ v) (h : v < 2 ^ 96) :
    ((v / 2 ^ 32).toNat % 2 ^ 64 : Nat) * (2 ^ 32 : Int) + (v % 2 ^ 32).toNat = v ∧ (v % 2 ^ 32).toNat < 2 ^ 32 := by
  have hq : (v / 2 ^ 32).toNat < 2 ^ 64 := by omega
  rw [Nat.mod_eq_of_lt hq]
  omega

/-- On a PMU cycle the counter and its fraction hold the next time, and the cycle is counted. -/
theorem Mach.tickDie_time {m : Mach} {d : Nat} (hsorted : m.regsSorted) (hdies : smSorted m.dies = true) :
    (m.tickDie d).ft d = (m.nextTime d / 2 ^ 32).toNat % 2 ^ 64 ∧
      (m.tickDie d).time d = { m.time d with frac := (m.nextTime d % 2 ^ 32).toNat, pmu := (m.time d).pmu + 1 } := by
  refine ⟨?_, Mach.time_modTime_same (m := m.wr .ftCount d _) hdies⟩
  exact (Mach.reg_congr (Mach.modDie_regs _ _ _) _).trans (Mach.rd_wr_same _ _ _ _ _ _ _ hsorted)

/-- The rate adjustment moves by at most 1 ppm and stays within 200 ppm, in units of 2^-32 ns a PMU cycle. -/
theorem slewRate_bounded {adj : Int} (want : Int) (hlo : -4294967 ≤ adj) (hhi : adj ≤ 4294967) :
    -4294967 ≤ slewRate adj want ∧ slewRate adj want ≤ 4294967 ∧ (slewRate adj want - adj).natAbs ≤ 21474 := by
  simp only [slewRate]
  omega

/-- Settles O22: a PMU cycle puts the two parts of the next time, which fits 96 bits, and changes no other part of the die's time. -/
theorem counterAddsItsBoundedIncrement : Obligations.CounterAddsItsBoundedIncrement := by
  refine ⟨fun m d hsorted hdies hfrac hadj hfit => ?_, fun adj want hlo hhi => slewRate_bounded want hlo hhi⟩
  obtain ⟨hft, htime⟩ := Mach.tickDie_time (d := d) hsorted hdies
  have hnonneg : 0 ≤ m.nextTime d := by unfold Mach.nextTime; omega
  obtain ⟨hsum, hlt⟩ := time_parts hnonneg hfit
  refine ⟨?_, ?_, ?_, ?_, fun id hne => ?_, fun d' hne => ?_, rfl, rfl⟩
  · rw [hft, htime]; exact hsum
  · rw [htime]; exact hlt
  · exact congrArg DieTime.pmu htime
  · rw [htime]
  · exact (Mach.modDie_reg _ _ _ _).trans (Mach.reg_setReg_ne _ _ _ _ hsorted hne)
  · exact Mach.die_modTime_ne (m := m.wr .ftCount d _) hdies hne

/-! ### Timers (R43, R46 to R48) -/

theorem testBit_setBits_one (x n i : Nat) : (setBits x n n 1).testBit i = (decide (i = n) || x.testBit i) := by
  rw [testBit_setBits _ _ _ _ _ (by omega)]
  by_cases h : i = n
  · subst h; simp
  · rw [if_neg (by omega)]; simp [h]

/-- The machine with the late bit of a timer set where the timer was jumped over. -/
def Mach.lateNoted (m : Mach) (d n : Nat) : Mach :=
  if (m.time d).lateArmed.testBit n then m.wr .ftTmrLate d (setBits (m.rd .ftTmrLate d) n n 1) else m

/-- The machine with the fired bit of a timer set. -/
def Mach.firedNoted (m : Mach) (d n : Nat) : Mach := m.wr .ftTmrFired d (setBits (m.rd .ftTmrFired d) n n 1)

/-- The machine with the action of a timer, whose target is `tgt`, on its way. -/
def Mach.actSent (m : Mach) (d n tgt : Nat) : Mach :=
  if m.get Fld.ftTmrCtl_action d n = 0 then m else m.modTime d (fun t => { t with acts := t.acts ++
    [{ timer := n, action := m.get Fld.ftTmrCtl_action d n, arg := m.get Fld.ftTmrCtl_arg d n, due := max (tgt + 40) (m.ft d), at_ := t.pmu }] })

/-- The machine with a timer counted and reported as missed. -/
def Mach.missNoted (m : Mach) (d n : Nat) : Mach :=
  let x := (m.wr .ftTmrMissed d (setBits (m.rd .ftTmrMissed d) n n 1)).bump Fld.ftTmrMissedCount_missed d
  x.emitRec d 0x17 false false [(6, n), (4, x.get Fld.ftTmrCtl_action d n), (64, m.rd .ftTmrTgt d n)] true false (x.slotList d)

theorem Mach.timerMiss_eq (m : Mach) (d n : Nat) : m.timerMiss d n =
    ((m.missNoted d n).snapMissed d ((m.missNoted d n).get Fld.ftTmrCtl_action d n) (m.rd .ftTmrTgt d n)).timerRearm d n := rfl

theorem Mach.timerFire_eq (m : Mach) (d n : Nat) : m.timerFire d n =
    if (m.lateNoted d n).flag Fld.ftTmrCtl_scope d n && (m.lateNoted d n).moduleUnlocked then (m.lateNoted d n).timerMiss d n
    else (((m.lateNoted d n).firedNoted d n).actSent d n (m.rd .ftTmrTgt d n)).timerRearm d n := rfl

namespace Mach.Keeps
section
variable {r : Reg} {m m' : Mach} (h : Keeps r m m')
include h

theorem modTime (d : Nat) (f : DieTime → DieTime) : Keeps r m (m'.modTime d f) := h.of_regs rfl

theorem lateNoted (hr : r ≠ .ftTmrLate) (d n : Nat) : Keeps r m (m'.lateNoted d n) := ite (h.wr hr d _ 0 0 0) h

theorem firedNoted (hr : r ≠ .ftTmrFired) (d n : Nat) : Keeps r m (m'.firedNoted d n) := h.wr hr d _ 0 0 0

theorem actSent (d n tgt : Nat) : Keeps r m (m'.actSent d n tgt) := ite h (h.modTime d _)

theorem missNoted (h1 : r ≠ .ftTmrMissed) (h2 : r ≠ .ftTmrMissedCount) (d n : Nat) : Keeps r m (m'.missNoted d n) :=
  ((h.wr h1 d _ 0 0 0).put (f := Fld.ftTmrMissedCount_missed) h2 d _ 0 0 0).of_regs rfl

theorem timerRearm (h1 : r ≠ .ftTmrCtl) (h2 : r ≠ .ftTmrTgt) (d n : Nat) : Keeps r m (m'.timerRearm d n) :=
  ite ((h.modTime d _).put h1 d 0 n 0 0) ((h.modTime d _).wr h2 d _ n 0 0)

theorem ft_eq (hr : r = .ftCount) (d : Nat) : m'.ft d = m.ft d := by subst hr; exact h.rd_eq d 0 0 0

theorem moduleUnlocked_eq (hr : r = .ftStatus) : m'.moduleUnlocked = m.moduleUnlocked := by
  have hstate (d : Nat) : m'.ftState d = m.ftState d := h.get_eq hr.symm d 0 0 0
  simp only [Mach.moduleUnlocked, Mach.dieLocked, hstate]

end
end Mach.Keeps

/-! The registers of timers other than the one that fires, and what is armed again. -/

section
variable {m : Mach} (hsorted : m.regsSorted) (d n : Nat)
include hsorted

theorem Mach.regsSorted_modTime (f : DieTime → DieTime) : (m.modTime d f).regsSorted := hsorted

theorem Mach.timerRearm_of_periodic (hp : m.timerPeriod d n ≠ 0) :
    (m.timerRearm d n).rd .ftTmrTgt d n = (m.rd .ftTmrTgt d n + m.timerPeriod d n) % 2 ^ 64 ∧ Keeps .ftTmrCtl m (m.timerRearm d n) := by
  have hrearm : m.timerRearm d n = (m.modTime d (fun t => { t with lateArmed := setBits t.lateArmed n n 0 })).wr .ftTmrTgt d
      ((m.rd .ftTmrTgt d n + m.timerPeriod d n) % 2 ^ 64) n := if_neg hp
  rw [hrearm]
  refine ⟨?_, ((Keeps.refl _ hsorted).modTime d _).wr (by decide) d _ n 0 0⟩
  rw [Mach.rd_wr_same _ _ _ _ _ _ _ (Mach.regsSorted_modTime hsorted d _), Nat.mod_mod]

theorem Mach.timerRearm_of_oneShot (hp : m.timerPeriod d n = 0) :
    (m.timerRearm d n).flag Fld.ftTmrCtl_enable d n = false ∧ Keeps .ftTmrTgt m (m.timerRearm d n) := by
  have hrearm : m.timerRearm d n =
      (m.modTime d (fun t => { t with lateArmed := setBits t.lateArmed n n 0 })).put Fld.ftTmrCtl_enable d 0 n := if_pos hp
  rw [hrearm]
  refine ⟨?_, ((Keeps.refl _ hsorted).modTime d _).put (by decide) d _ n 0 0⟩
  rw [Mach.flag, Mach.get_put_same _ _ _ _ _ _ _ (Mach.regsSorted_modTime hsorted d _) (by decide) (by decide)]
  rfl

/-- A timer is armed again in its own registers. -/
theorem Mach.timerRearm_other {i : Nat} (hi : i ≠ n) (r : Reg) : (m.timerRearm d n).rd r d i = m.rd r d i := by
  have hne (r' : Reg) : (⟨r, d, 0, i, 0⟩ : RegId) ≠ ⟨r', d, 0, n, 0⟩ := fun h => hi (congrArg RegId.i h)
  unfold Mach.timerRearm
  extract_lets p x
  have hx : x.regsSorted := hsorted
  split
  · exact Mach.rd_put_ne _ _ _ _ _ _ _ _ _ _ _ _ hx (hne _)
  · exact Mach.rd_wr_ne _ _ _ _ _ _ _ _ _ _ _ _ hx (hne _)

end

section
variable {m : Mach} {d : Nat} (hdies : smSorted m.dies = true) (n : Nat)
include hdies

theorem Mach.timerRearm_acts : ((m.timerRearm d n).time d).acts = (m.time d).acts := by
  have hacts : ((m.modTime d (fun t => { t with lateArmed := setBits t.lateArmed n n 0 })).time d).acts = (m.time d).acts := by
    rw [Mach.time_modTime_same hdies]
  simp only [Mach.timerRearm]
  split <;> exact hacts

theorem Mach.timerRearm_records (d' : Nat) : ((m.timerRearm d n).die d').records = (m.die d').records :=
  ((KeepsRecords.refl hdies).timerRearm d n).records d'

end

/-- A register of which one bit is set reads with the bit set. -/
theorem Mach.rd_wr_setBit {m : Mach} (h : m.regsSorted) (r : Reg) (d : Nat) {n : Nat} (hn : n < 64) :
    (m.wr r d (setBits (m.rd r d) n n 1)).rd r d = setBits (m.rd r d) n n 1 := by
  rw [Mach.rd_wr_same _ _ _ _ _ _ _ h, Nat.mod_eq_of_lt]
  exact setBits_lt _ _ _ _ (by omega) hn (Mach.reg_lt _ _)

@[simp] theorem Mach.lateNoted_dies (m : Mach) (d n : Nat) : (m.lateNoted d n).dies = m.dies := by unfold Mach.lateNoted; split <;> rfl
@[simp] theorem Mach.lateNoted_parts (m : Mach) (d n : Nat) : (m.lateNoted d n).parts = m.parts := by unfold Mach.lateNoted; split <;> rfl
@[simp] theorem Mach.lateNoted_mem (m : Mach) (d n : Nat) : (m.lateNoted d n).mem = m.mem := by unfold Mach.lateNoted; split <;> rfl
@[simp] theorem Mach.lateNoted_cores (m : Mach) (d n : Nat) : (m.lateNoted d n).cores = m.cores := by unfold Mach.lateNoted; split <;> rfl
@[simp] theorem Mach.actSent_mem (m : Mach) (d n k : Nat) : (m.actSent d n k).mem = m.mem := by unfold Mach.actSent; split <;> rfl
@[simp] theorem Mach.actSent_cores (m : Mach) (d n k : Nat) : (m.actSent d n k).cores = m.cores := by unfold Mach.actSent; split <;> rfl
@[simp] theorem Mach.timerRearm_mem (m : Mach) (d n : Nat) : (m.timerRearm d n).mem = m.mem := by simp only [Mach.timerRearm]; split <;> rfl
@[simp] theorem Mach.timerRearm_cores (m : Mach) (d n : Nat) : (m.timerRearm d n).cores = m.cores := by simp only [Mach.timerRearm]; split <;> rfl

theorem Mach.Keeps.timerPeriod_eq {m m' : Mach} (h : Keeps .ftTmrCtl m m') (d n : Nat) : m'.timerPeriod d n = m.timerPeriod d n := by
  simp only [Mach.timerPeriod, h.get_eq (f := Fld.ftTmrCtl_period_hi) rfl, h.get_eq (f := Fld.ftTmrCtl_period) rfl]

/-! A timer that fires. -/

/-- The machine once a timer has fired, before it is armed again. -/
def Mach.timerFired (m : Mach) (d n : Nat) : Mach := ((m.lateNoted d n).firedNoted d n).actSent d n (m.rd .ftTmrTgt d n)

section
variable {m : Mach} (hsorted : m.regsSorted) (d : Nat) {n : Nat}
include hsorted

theorem Mach.keeps_lateNoted {r : Reg} (hr : r ≠ .ftTmrLate) (n : Nat) : Keeps r m (m.lateNoted d n) := (Keeps.refl r hsorted).lateNoted hr d n

theorem Mach.regsSorted_lateNoted (n : Nat) : (m.lateNoted d n).regsSorted := (Mach.keeps_lateNoted hsorted d (r := .ftCount) (by decide) n).sorted

theorem Mach.keeps_timerFired {r : Reg} (h1 : r ≠ .ftTmrLate) (h2 : r ≠ .ftTmrFired) (n : Nat) : Keeps r m (m.timerFired d n) :=
  ((Mach.keeps_lateNoted hsorted d h1 n).firedNoted h2 d n).actSent d n _

theorem Mach.regsSorted_timerFired (n : Nat) : (m.timerFired d n).regsSorted :=
  (Mach.keeps_timerFired hsorted d (r := .ftCount) (by decide) (by decide) n).sorted

theorem Mach.timerFire_of_fires (hfires : (m.flag Fld.ftTmrCtl_scope d n && m.moduleUnlocked) = false) :
    m.timerFire d n = (m.timerFired d n).timerRearm d n := by
  rw [Mach.timerFire_eq, (Mach.keeps_lateNoted hsorted d (by decide) n).flag_eq (f := Fld.ftTmrCtl_scope) rfl,
    (Mach.keeps_lateNoted hsorted d (r := .ftStatus) (by decide) n).moduleUnlocked_eq rfl, hfires, if_neg Bool.false_ne_true,
    Mach.timerFired]

theorem Mach.timerFired_rearm_fired (hn : n < 64) :
    ((m.timerFired d n).timerRearm d n).rd .ftTmrFired d = setBits (m.rd .ftTmrFired d) n n 1 := by
  have hlate := Mach.keeps_lateNoted hsorted d (r := .ftTmrFired) (by decide) n
  have hset : ((m.lateNoted d n).firedNoted d n).rd .ftTmrFired d = setBits ((m.lateNoted d n).rd .ftTmrFired d) n n 1 :=
    Mach.rd_wr_setBit hlate.sorted _ d hn
  have hkept : Keeps .ftTmrFired ((m.lateNoted d n).firedNoted d n) ((m.timerFired d n).timerRearm d n) :=
    ((Keeps.refl _ (Mach.regsSorted_setReg _ _ _ hlate.sorted)).actSent d n _).timerRearm (by decide) (by decide) d n
  rw [hkept.rd_eq, hset, hlate.rd_eq]

theorem Mach.timerFired_rearm_late (hn : n < 64) :
    ((m.timerFired d n).timerRearm d n).rd .ftTmrLate d =
      if (m.time d).lateArmed.testBit n then setBits (m.rd .ftTmrLate d) n n 1 else m.rd .ftTmrLate d := by
  have hkept : Keeps .ftTmrLate (m.lateNoted d n) ((m.timerFired d n).timerRearm d n) :=
    (((Keeps.refl _ (Mach.regsSorted_lateNoted hsorted d n)).firedNoted (by decide) d n).actSent d n _).timerRearm (by decide) (by decide) d n
  rw [hkept.rd_eq]
  unfold Mach.lateNoted
  split
  · exact Mach.rd_wr_setBit hsorted _ d hn
  · rfl

theorem Mach.timerFired_acts (hdies : smSorted m.dies = true) (n : Nat) : ((m.timerFired d n).time d).acts =
    if m.get Fld.ftTmrCtl_action d n = 0 then (m.time d).acts else (m.time d).acts ++
      [{ timer := n, action := m.get Fld.ftTmrCtl_action d n, arg := m.get Fld.ftTmrCtl_arg d n,
         due := max (m.rd .ftTmrTgt d n + 40) (m.ft d), at_ := m.pmu d }] := by
  have hfired {r : Reg} (h1 : r ≠ .ftTmrLate) (h2 : r ≠ .ftTmrFired) : Keeps r m ((m.lateNoted d n).firedNoted d n) :=
    (Mach.keeps_lateNoted hsorted d h1 n).firedNoted h2 d n
  have hctl := hfired (r := .ftTmrCtl) (by decide) (by decide)
  have hdies' : ((m.lateNoted d n).firedNoted d n).dies = m.dies := Mach.lateNoted_dies m d n
  have htime : ((m.lateNoted d n).firedNoted d n).time d = m.time d := by simp only [Mach.time, Mach.die, hdies']
  rw [Mach.timerFired, Mach.actSent, hctl.get_eq (f := Fld.ftTmrCtl_action) rfl, hctl.get_eq (f := Fld.ftTmrCtl_arg) rfl,
    (hfired (by decide) (by decide)).ft_eq rfl]
  split
  · rw [htime]
  · rw [Mach.time_modTime_same (hdies' ▸ hdies), htime]
    rfl

end

theorem exec_timerFire_of_reached {s : State} {d : Fin 8} {n : Fin 64} (hruns : s.m.dieRuns d = true) (h : s.m.timerReached d n = true) :
    exec (.timerFire d n) s = .next (s.setM (s.m.timerFire d n)) := by
  rw [exec_timerFire, State.onDie_run hruns, Mach.timerFireRow, if_pos h]
  rfl

/-! A timer that misses. -/

section
variable {m : Mach} (hsorted : m.regsSorted) (d : Nat) {n : Nat}
include hsorted

theorem Mach.timerFire_of_misses (hscope : m.flag Fld.ftTmrCtl_scope d n = true) (hun : m.moduleUnlocked = true) :
    m.timerFire d n = (m.lateNoted d n).timerMiss d n := by
  rw [Mach.timerFire_eq, (Mach.keeps_lateNoted hsorted d (by decide) n).flag_eq (f := Fld.ftTmrCtl_scope) rfl,
    (Mach.keeps_lateNoted hsorted d (r := .ftStatus) (by decide) n).moduleUnlocked_eq rfl, hscope, hun, Bool.and_true, if_pos rfl]

theorem Mach.missNoted_missed (hn : n < 64) : (m.missNoted d n).rd .ftTmrMissed d = setBits (m.rd .ftTmrMissed d) n n 1 := by
  have hkept : Keeps .ftTmrMissed (m.wr .ftTmrMissed d (setBits (m.rd .ftTmrMissed d) n n 1)) (m.missNoted d n) :=
    ((Keeps.refl _ (Mach.regsSorted_setReg _ _ _ hsorted)).put (f := Fld.ftTmrMissedCount_missed) (by decide) d _ 0 0 0).of_regs rfl
  rw [hkept.rd_eq, Mach.rd_wr_setBit hsorted _ d hn]

theorem Mach.missNoted_count (n : Nat) : (m.missNoted d n).get Fld.ftTmrMissedCount_missed d =
    satN (Fld.ftTmrMissedCount_missed.hi + 1 - Fld.ftTmrMissedCount_missed.lo) (m.get Fld.ftTmrMissedCount_missed d + 1) := by
  have hkept : Keeps .ftTmrMissedCount m (m.wr .ftTmrMissed d (setBits (m.rd .ftTmrMissed d) n n 1)) :=
    (Keeps.refl _ hsorted).wr (by decide) d _ 0 0 0
  let bumped := (m.wr .ftTmrMissed d (setBits (m.rd .ftTmrMissed d) n n 1)).bump Fld.ftTmrMissedCount_missed d
  have hrest : Keeps .ftTmrMissedCount bumped (m.missNoted d n) :=
    (Keeps.refl _ (Mach.regsSorted_put _ _ _ _ _ _ _ hkept.sorted)).of_regs (Mach.emitRec_regs _ _ _ _ _ _ _ _ _)
  rw [hrest.get_eq rfl]
  simp only [bumped, Mach.bump]
  rw [Mach.get_put_same _ _ _ _ _ _ _ hkept.sorted (by decide) (by decide),
    Nat.mod_eq_of_lt (satN_lt _ _), hkept.get_eq rfl]

end

/-- A miss whose action is no commit point leaves the registers, and the other parts of the dies, to the step boundary. -/
theorem Mach.snapMissed_of_ne_commit (m : Mach) (d tgt : Nat) {action : Nat} (h : action ≠ 7) :
    m.snapMissed d action tgt = m ∨ m.snapMissed d action tgt = m.modSnap d (fun s => { s with missed := some tgt, applied := false }) := by
  unfold Mach.snapMissed
  split
  · exact .inl rfl
  · split
    · exact .inr rfl
    · simp [h]

section
variable {m : Mach} (hdies : smSorted m.dies = true) (d : Nat)
include hdies

theorem Mach.modSnap_keeps_time (f : SnapSt → SnapSt) : (m.modSnap d f).time d = m.time d := by
  simp only [Mach.time, Mach.modSnap, Mach.die_modDie_same _ _ _ hdies]

theorem Mach.modSnap_keeps_records (f : SnapSt → SnapSt) : ((m.modSnap d f).die d).records = (m.die d).records := by
  simp only [Mach.modSnap, Mach.die_modDie_same _ _ _ hdies]

/-- FT_MISSED goes behind the records of the die, and nothing else of the die changes. -/
theorem Mach.missNoted_die (n : Nat) : ∃ r : FaultRec, r.kind = 0x17 ∧ r.toCp = true ∧ r.parts = m.slotList d ∧
    (m.missNoted d n).die d = { m.die d with records := (m.die d).records ++ [r] } := by
  exact ⟨_, by rfl, by rfl, by rfl, Mach.die_modDie_same _ _ _ hdies⟩

theorem Mach.smSorted_missNoted (n : Nat) : smSorted (m.missNoted d n).dies = true := smSorted_smSet _ _ _ _ hdies

theorem Mach.smSorted_timerFired (n : Nat) : smSorted (m.timerFired d n).dies = true := by
  have hfired : smSorted ((m.lateNoted d n).firedNoted d n).dies = true := (Mach.lateNoted_dies m d n).symm ▸ hdies
  unfold Mach.timerFired Mach.actSent
  split
  · exact hfired
  · exact smSorted_smSet _ _ _ _ hfired

end

theorem Mach.Keeps.snapMissed {r : Reg} {m m' : Mach} (h : Keeps r m m') (d tgt : Nat) {action : Nat} (ha : action ≠ 7) :
    Keeps r m (m'.snapMissed d action tgt) := by
  rcases m'.snapMissed_of_ne_commit d tgt ha with e | e <;> rw [e]
  · exact h
  · exact h.of_regs rfl

/-- The machine once a timer has missed, before it is armed again. -/
def Mach.timerMissed (m : Mach) (d n : Nat) : Mach :=
  ((m.lateNoted d n).missNoted d n).snapMissed d (((m.lateNoted d n).missNoted d n).get Fld.ftTmrCtl_action d n)
    ((m.lateNoted d n).rd .ftTmrTgt d n)

section
variable {m : Mach} (hsorted : m.regsSorted) (hdies : smSorted m.dies = true) (d : Nat) {n : Nat}
  (haction : m.get Fld.ftTmrCtl_action d n ≠ 7)
include hsorted haction

theorem Mach.missNoted_action_ne_commit : ((m.lateNoted d n).missNoted d n).get Fld.ftTmrCtl_action d n ≠ 7 := by
  rwa [((Mach.keeps_lateNoted hsorted d (by decide) n).missNoted (by decide) (by decide) d n).get_eq rfl]

theorem Mach.keeps_timerMissed {r : Reg} (h1 : r ≠ .ftTmrLate) (h2 : r ≠ .ftTmrMissed) (h3 : r ≠ .ftTmrMissedCount) :
    Keeps r m (m.timerMissed d n) :=
  ((Mach.keeps_lateNoted hsorted d h1 n).missNoted h2 h3 d n).snapMissed d _ (Mach.missNoted_action_ne_commit hsorted d haction)

/-- What counts the miss stands after it. -/
theorem Mach.keeps_of_missNoted (r : Reg) : Keeps r ((m.lateNoted d n).missNoted d n) (m.timerMissed d n) :=
  have hnoted := (Mach.keeps_lateNoted hsorted d (r := .ftCount) (by decide) n).missNoted (by decide) (by decide) d n
  (Keeps.refl r hnoted.sorted).snapMissed d _ (Mach.missNoted_action_ne_commit hsorted d haction)

include hdies

theorem Mach.timerMissed_die : smSorted (m.timerMissed d n).dies = true ∧ ((m.timerMissed d n).time d).acts = (m.time d).acts ∧
    ∃ r ∈ ((m.timerMissed d n).die d).records, r.kind = 0x17 ∧ r.toCp = true ∧ r.parts = m.slotList d := by
  have hlate : smSorted (m.lateNoted d n).dies = true := (Mach.lateNoted_dies m d n).symm ▸ hdies
  have hnoted := Mach.smSorted_missNoted hlate d n
  obtain ⟨r, hkind, hcp, hparts, hdie⟩ := Mach.missNoted_die hlate d n
  have hslots : (m.lateNoted d n).slotList d = m.slotList d := by simp only [Mach.slotList, Mach.partOf, Mach.lateNoted_parts]
  have hacts : (((m.lateNoted d n).missNoted d n).time d).acts = (m.time d).acts := by
    rw [Mach.time, hdie, Mach.die, Mach.lateNoted_dies]
    rfl
  have hrec : r ∈ (((m.lateNoted d n).missNoted d n).die d).records := by rw [hdie]; simp
  rcases Mach.snapMissed_of_ne_commit _ d ((m.lateNoted d n).rd .ftTmrTgt d n) (Mach.missNoted_action_ne_commit hsorted d haction) with e | e
  · rw [Mach.timerMissed, e]
    exact ⟨hnoted, hacts, r, hrec, hkind, hcp, hparts.trans hslots⟩
  · rw [Mach.timerMissed, e, Mach.modSnap_keeps_time hnoted, Mach.modSnap_keeps_records hnoted]
    exact ⟨smSorted_smSet _ _ _ _ hnoted, hacts, r, hrec, hkind, hcp, hparts.trans hslots⟩

end

/-! ### R43, R46 to R48 -/

/-- Settles O23: a timer that fires goes through noting lateness, noting that it fired, sending its action and being armed again, and one
that misses through noting the miss, the missed step boundary and being armed again; each of these writes its own registers alone. -/
theorem timersFireMissAndRearm : Obligations.TimersFireMissAndRearm := by
  constructor
  case left =>
    intro s d n hruns hsorted hdies hreached hfires
    refine ⟨_, exec_timerFire_of_reached hruns hreached, ?_⟩
    rw [State.setM, Mach.timerFire_of_fires hsorted d hfires]
    have hkept {r : Reg} (h1 : r ≠ .ftTmrLate) (h2 : r ≠ .ftTmrFired) : Mach.Keeps r s.m (s.m.timerFired d n) :=
      Mach.keeps_timerFired hsorted d h1 h2 n
    have hfsorted := Mach.regsSorted_timerFired hsorted d n
    have hctl := hkept (r := .ftTmrCtl) (by decide) (by decide)
    have htgt := hkept (r := .ftTmrTgt) (by decide) (by decide)
    have hperiod := hctl.timerPeriod_eq d n
    have hfired := Mach.timerFired_rearm_fired hsorted d n.isLt
    have hlate := Mach.timerFired_rearm_late hsorted d n.isLt
    have hacts := (Mach.timerRearm_acts (d := d) (m := s.m.timerFired d n) (Mach.smSorted_timerFired hdies d n) n).trans (Mach.timerFired_acts hsorted d hdies n)
    have hon : s.m.flag Fld.ftTmrCtl_enable d n = true := (Bool.and_eq_true_iff.mp hreached).1
    refine ⟨?_, fun i hi => ?_, fun h => ?_, fun h => ?_, fun hp => ?_, fun hp => ?_, fun ha => ?_, fun ha => ?_, fun i hi => ?_, ?_, ?_, ?_, rfl⟩
    · rw [hfired, testBit_setBits_one]; simp
    · rw [hfired, testBit_setBits_one]; simp [hi]
    · rw [hlate, if_pos h, testBit_setBits_one]; simp
    · rw [hlate, h, if_neg Bool.false_ne_true]
    · obtain ⟨hoff, hrest⟩ := Mach.timerRearm_of_oneShot hfsorted d n (hperiod.trans hp)
      exact ⟨hoff, (hrest.rd_eq d n 0 0).trans (htgt.rd_eq d n 0 0)⟩
    · obtain ⟨hnext, hrest⟩ := Mach.timerRearm_of_periodic hfsorted d n (fun h => hp (hperiod.symm.trans h))
      exact ⟨by rw [hrest.flag_eq rfl, hctl.flag_eq rfl, hon], by rw [hnext, hperiod, htgt.rd_eq]⟩
    · rw [hacts, if_pos ha]
    · rw [hacts, if_neg ha]
    · exact ⟨(Mach.timerRearm_other hfsorted d n hi _).trans (htgt.rd_eq d i 0 0), (Mach.timerRearm_other hfsorted d n hi _).trans (hctl.rd_eq d i 0 0)⟩
    · exact ((hkept (by decide) (by decide)).timerRearm (by decide) (by decide) d n).rd_eq d 0 0 0
    · rw [Mach.timerRearm_mem, Mach.timerFired, Mach.actSent_mem]; exact Mach.lateNoted_mem _ _ _
    · rw [Mach.timerRearm_cores, Mach.timerFired, Mach.actSent_cores]; exact Mach.lateNoted_cores _ _ _
  case right =>
    intro s d n hruns hsorted hdies hreached hscope hun haction
    refine ⟨_, exec_timerFire_of_reached hruns hreached, ?_⟩
    have hmiss : s.m.timerFire d n = (s.m.timerMissed d n).timerRearm d n :=
      (Mach.timerFire_of_misses hsorted d hscope hun).trans (Mach.timerMiss_eq _ _ _)
    rw [State.setM, hmiss]
    obtain ⟨hmdies, hacts, r, hrec, hr⟩ := Mach.timerMissed_die hsorted hdies d haction
    have hlate {r : Reg} (hr : r ≠ .ftTmrLate) : Mach.Keeps r s.m (s.m.lateNoted d n) := Mach.keeps_lateNoted hsorted d hr n
    have hafter (r : Reg) (h1 : r ≠ .ftTmrCtl) (h2 : r ≠ .ftTmrTgt) :
        Mach.Keeps r ((s.m.lateNoted d n).missNoted d n) ((s.m.timerMissed d n).timerRearm d n) :=
      (Mach.keeps_of_missNoted hsorted d haction r).timerRearm h1 h2 d n
    have hlsorted := Mach.regsSorted_lateNoted hsorted d n
    refine ⟨?_, ?_, ?_, ?_, r, ?_, hr⟩
    · rw [(hafter _ (by decide) (by decide)).rd_eq, Mach.missNoted_missed hlsorted d n.isLt, testBit_setBits_one]
      simp
    · exact ((Mach.keeps_timerMissed hsorted d haction (by decide) (by decide) (by decide)).timerRearm (by decide) (by decide) d n).rd_eq d 0 0 0
    · exact (Mach.timerRearm_acts hmdies n).trans hacts
    · rw [(hafter _ (by decide) (by decide)).get_eq rfl, Mach.missNoted_count hlsorted, (hlate (by decide)).get_eq rfl]
    · rwa [Mach.timerRearm_records hmdies]

end Sys2Proof.Machine
end

section
/-! SUPPORT and proofs. Stacked memory: the places of its sectors (R309), the mirror (R333), and a sector as it is stored and read (R322 to
R324). -/

namespace Sys2Proof.Machine

/-! ### Places (R309) -/

theorem bitsOf_eq_div_mod (n hi lo : Nat) : bitsOf n hi lo = n / 2 ^ lo % 2 ^ (hi + 1 - lo) := by
  rw [bitsOf, Nat.shiftRight_eq_div_pow]

/-- Table 11.1: the sizes of the parts of a place. -/
structure HbmAddr.InTable (h : HbmAddr) : Prop where
  die : h.die < 8
  stack : h.stack < 4
  pch : h.pch < 64
  sid : h.sid < 4
  bg : h.bg < 4
  bank : h.bank < 4
  row : h.row < 2 ^ 14
  col : h.col < 32

theorem hbmDecode_inTable (a : Nat) : (hbmDecode a).InTable := by
  constructor <;> simp only [hbmDecode, bitsOf_eq_div_mod] <;> omega

theorem hbmDecode_encode {a : Nat} (h : a < 2 ^ 41) : (hbmDecode a).encode = a / 32 * 32 := by
  simp only [hbmDecode, HbmAddr.encode, bitsOf_eq_div_mod]
  omega

theorem HbmAddr.encode_lt {h : HbmAddr} (hin : h.InTable) : h.encode < 2 ^ 41 := by
  obtain ⟨h1, h2, h3, h4, h5, h6, h7, h8⟩ := hin
  unfold HbmAddr.encode
  omega

/-- A digit in base `w` of a number, above a part below `b`. -/
theorem digit_eq {n hi v lo : Nat} (b w : Nat) (h : n = (hi * w + v) * b + lo) (hv : v < w) (hlo : lo < b) : n / b % w = v := by
  subst h
  have hdiv : ((hi * w + v) * b + lo) / b = hi * w + v := by
    rw [Nat.mul_comm, Nat.mul_add_div (by omega), Nat.div_eq_of_lt hlo, Nat.add_zero]
  rw [hdiv, Nat.mul_comm, Nat.mul_add_mod, Nat.mod_eq_of_lt hv]

/-- The offset in a die's memory that `HbmAddr.encode` puts together, with the halves of the column (`ch`, `cl`) and of the
pseudo-channel (`ph`, `pl`) as digits of their own. -/
def hbmOffset (row sid bank bg ch ph stack pl cl : Nat) : Nat :=
  row * 2 ^ 24 + sid * 2 ^ 22 + bank * 2 ^ 20 + bg * 2 ^ 18 + ch * 2 ^ 16 + ph * 2 ^ 13 + stack * 2 ^ 11 + pl * 2 ^ 8 + cl * 2 ^ 5

theorem HbmAddr.encode_eq (h : HbmAddr) :
    h.encode = h.die * 2 ^ 38 + hbmOffset h.row h.sid h.bank h.bg (h.col / 8) (h.pch / 8) h.stack (h.pch % 8) (h.col % 8) := by
  simp only [HbmAddr.encode, hbmOffset]
  omega

section
variable {row sid bank bg ch ph stack pl cl : Nat} (hrow : row < 2 ^ 14) (hsid : sid < 4) (hbank : bank < 4) (hbg : bg < 4) (hch : ch < 4)
  (hph : ph < 8) (hstack : stack < 4) (hpl : pl < 8) (hcl : cl < 8)
include hrow hsid hbank hbg hch hph hstack hpl hcl

theorem hbmOffset_lt : hbmOffset row sid bank bg ch ph stack pl cl < 2 ^ 38 := by
  unfold hbmOffset
  omega

/-- Each digit of the offset stands at its own bits. -/
theorem hbmOffset_digits : let o := hbmOffset row sid bank bg ch ph stack pl cl
    o / 2 ^ 5 % 2 ^ 3 = cl ∧ o / 2 ^ 8 % 2 ^ 3 = pl ∧ o / 2 ^ 11 % 2 ^ 2 = stack ∧ o / 2 ^ 13 % 2 ^ 3 = ph ∧ o / 2 ^ 16 % 2 ^ 2 = ch ∧
      o / 2 ^ 18 % 2 ^ 2 = bg ∧ o / 2 ^ 20 % 2 ^ 2 = bank ∧ o / 2 ^ 22 % 2 ^ 2 = sid ∧ o / 2 ^ 24 % 2 ^ 14 = row := by
  simp only [hbmOffset]
  refine ⟨
    digit_eq (hi := row * 2 ^ 16 + sid * 2 ^ 14 + bank * 2 ^ 12 + bg * 2 ^ 10 + ch * 2 ^ 8 + ph * 2 ^ 5 + stack * 2 ^ 3 + pl) (lo := 0)
      _ _ ?_ hcl ?_,
    digit_eq (hi := row * 2 ^ 13 + sid * 2 ^ 11 + bank * 2 ^ 9 + bg * 2 ^ 7 + ch * 2 ^ 5 + ph * 2 ^ 2 + stack) (lo := cl * 2 ^ 5)
      _ _ ?_ hpl ?_,
    digit_eq (hi := row * 2 ^ 11 + sid * 2 ^ 9 + bank * 2 ^ 7 + bg * 2 ^ 5 + ch * 2 ^ 3 + ph) (lo := pl * 2 ^ 8 + cl * 2 ^ 5)
      _ _ ?_ hstack ?_,
    digit_eq (hi := row * 2 ^ 8 + sid * 2 ^ 6 + bank * 2 ^ 4 + bg * 2 ^ 2 + ch) (lo := stack * 2 ^ 11 + pl * 2 ^ 8 + cl * 2 ^ 5)
      _ _ ?_ hph ?_,
    digit_eq (hi := row * 2 ^ 6 + sid * 2 ^ 4 + bank * 2 ^ 2 + bg) (lo := ph * 2 ^ 13 + stack * 2 ^ 11 + pl * 2 ^ 8 + cl * 2 ^ 5)
      _ _ ?_ hch ?_,
    digit_eq (hi := row * 2 ^ 4 + sid * 2 ^ 2 + bank) (lo := ch * 2 ^ 16 + ph * 2 ^ 13 + stack * 2 ^ 11 + pl * 2 ^ 8 + cl * 2 ^ 5)
      _ _ ?_ hbg ?_,
    digit_eq (hi := row * 2 ^ 2 + sid)
      (lo := bg * 2 ^ 18 + ch * 2 ^ 16 + ph * 2 ^ 13 + stack * 2 ^ 11 + pl * 2 ^ 8 + cl * 2 ^ 5) _ _ ?_ hbank ?_,
    digit_eq (hi := row)
      (lo := bank * 2 ^ 20 + bg * 2 ^ 18 + ch * 2 ^ 16 + ph * 2 ^ 13 + stack * 2 ^ 11 + pl * 2 ^ 8 + cl * 2 ^ 5) _ _ ?_ hsid ?_,
    digit_eq (hi := 0)
      (lo := sid * 2 ^ 22 + bank * 2 ^ 20 + bg * 2 ^ 18 + ch * 2 ^ 16 + ph * 2 ^ 13 + stack * 2 ^ 11 + pl * 2 ^ 8 + cl * 2 ^ 5)
      _ _ ?_ hrow ?_⟩ <;> omega

end

theorem HbmAddr.decode_encode {h : HbmAddr} (hin : h.InTable) : hbmDecode h.encode = h := by
  rw [HbmAddr.encode_eq]
  obtain ⟨die, stack, pch, sid, bg, bank, row, col⟩ := h
  obtain ⟨h1, h2, h3, h4, h5, h6, h7, h8⟩ := hin
  dsimp only at h1 h2 h3 h4 h5 h6 h7 h8 ⊢
  have hch : col / 8 < 4 := by omega
  have hph : pch / 8 < 8 := by omega
  have hpl : pch % 8 < 8 := by omega
  have hcl : col % 8 < 8 := by omega
  have hlt := hbmOffset_lt h7 h4 h6 h5 hch hph h2 hpl hcl
  obtain ⟨hc, hp, hs, hp', hc', hb, hk, hi, hr⟩ := hbmOffset_digits h7 h4 h6 h5 hch hph h2 hpl hcl
  generalize hbmOffset row sid bank bg (col / 8) (pch / 8) stack (pch % 8) (col % 8) = o at *
  have hoff : (die * 2 ^ 38 + o) % 2 ^ 38 = o := by omega
  have hdie : (die * 2 ^ 38 + o) / 2 ^ 38 % 2 ^ 3 = die := by omega
  have hpch : pch / 8 * 8 + pch % 8 = pch := Nat.div_add_mod' pch 8
  have hcol : col / 8 * 8 + col % 8 = col := Nat.div_add_mod' col 8
  simp [hbmDecode, bitsOf_eq_div_mod, hoff, -Nat.reducePow, hdie, hc, hp, hs, hp', hc', hb, hk, hi, hr, hpch, hcol]

/-- A place is a sector's: the bytes of a sector share it. -/
theorem hbmDecode_sector (a : Nat) : hbmDecode (a / 32 * 32) = hbmDecode a := by
  simp only [hbmDecode, bitsOf_eq_div_mod, HbmAddr.mk.injEq]
  omega

/-! ### The mirror (R333) -/

theorem mirrorAddr_lt {a : Nat} (h : a < 2 ^ 41) : mirrorAddr a < 2 ^ 41 := Nat.xor_lt_two_pow h (by decide)

theorem mirrorAddr_mirrorAddr (a : Nat) : mirrorAddr (mirrorAddr a) = a := Nat.xor_xor_cancel_right a _

theorem mirrorAddr_offset (a : Nat) : mirrorAddr a % 2 ^ 38 = a % 2 ^ 38 := by
  rw [mirrorAddr, Nat.xor_mod_two_pow]
  exact Nat.xor_zero _

theorem mirrorAddr_die (a : Nat) : (hbmDecode (mirrorAddr a)).die = (hbmDecode a).die ^^^ 4 := by
  simp only [hbmDecode, bitsOf, mirrorAddr]
  rw [Nat.shiftRight_xor_distrib, Nat.xor_mod_two_pow]
  rfl

/-- Settles O25: decoding cuts an address into the parts that encoding puts together, and the mirror flips the bit of the die's number. -/
theorem memoryPlacesAreUnique : Obligations.MemoryPlacesAreUnique := by
  refine ⟨⟨fun a ha => ?decode, fun h h1 h2 h3 h4 h5 h6 h7 h8 => ?encode⟩, fun a ha => ?mirror⟩
  case decode =>
    obtain ⟨h1, h2, h3, h4, h5, h6, h7, h8⟩ := hbmDecode_inTable a
    exact ⟨hbmDecode_encode ha, h1, h2, h3, h4, h5, h6, h7, h8⟩
  case encode =>
    have hin : h.InTable := ⟨h1, h2, h3, h4, h5, h6, h7, h8⟩
    exact ⟨HbmAddr.decode_encode hin, HbmAddr.encode_lt hin⟩
  case mirror => exact ⟨mirrorAddr_lt ha, mirrorAddr_mirrorAddr a, mirrorAddr_offset a, mirrorAddr_die a⟩

/-! ### A sector as stored (R322, R324) -/

/-- The decoder finds an intact codeword clean and the poison pattern poisoned in every mode, for it looks at the syndromes first. -/
theorem rsDecode_zero (mode : Nat) : rsDecode mode 0 = .clean := by
  have h : (syndromes 0).all (· == 0) = true := by decide
  simp only [rsDecode, h, if_true]

theorem rsDecode_poisonVec (mode : Nat) : rsDecode mode poisonVec = .poisoned := by
  have h : (syndromes poisonVec).all (· == 0) = false := by decide +kernel
  simp only [rsDecode, h, Bool.false_eq_true, if_false, if_true]

/-- An error pattern that leaves the data alone disturbs no byte. -/
theorem disturb_of_data_clean {e : Nat} (h : e % 2 ^ 256 = 0) (bs : List Byte) : disturb bs e = bs := if_pos h

/-- A sector whose check symbols differ from the codeword's by nothing, or by the poison pattern. -/
theorem Mach.sectorDecode_of_ecc {m : Mach} {a : Nat} {poison : Bool} (h : smGet 0 m.ecc (a / 32) = if poison then poisonVec else 0) :
    m.sectorDecode a = (m.rawBytes (a / 32 * 32) 32, if poison then .poisoned else .clean) := by
  cases poison
  · simp only [Bool.false_eq_true, if_false] at h ⊢
    simp only [Mach.sectorDecode, h, rsDecode_zero]
    rw [disturb_of_data_clean (by decide)]
  · simp only [if_true] at h ⊢
    simp only [Mach.sectorDecode, h, rsDecode_poisonVec]
    rw [disturb_of_data_clean (by decide)]

theorem Mach.byte_of_mem {m m' : Mach} (h : m.mem = m'.mem) (a : Nat) : m.byte a = m'.byte a := by simp only [Mach.byte, h]

section
variable {m : Mach} {a : Nat} {bs : List Byte} (poison : Bool) (hmem : Memory.wf m.mem = true)
include hmem

theorem Mach.byte_storeSector_in {i : Nat} (hi : i < bs.length) : (m.storeSector a bs poison).byte (a / 32 * 32 + i) = bs.getD i 0#8 := by
  rw [Mach.byte_of_mem (Mach.storeSector_mem m a bs poison), Mach.byte_setRaw_in _ _ _ _ hmem hi]

theorem Mach.byte_storeSector_out (hlen : bs.length = 32) {x : Nat} (hx : x / 32 ≠ a / 32) : (m.storeSector a bs poison).byte x = m.byte x := by
  rw [Mach.byte_of_mem (Mach.storeSector_mem m a bs poison), Mach.byte_setRaw_out _ _ _ _ hmem (by omega)]

theorem Mach.rawBytes_storeSector (hlen : bs.length = 32) : (m.storeSector a bs poison).rawBytes (a / 32 * 32) 32 = bs := by
  refine List.ext_getElem (by simp [Mach.rawBytes, hlen]) fun i h1 h2 => ?_
  simp only [Mach.rawBytes, List.getElem_map, List.getElem_range]
  rw [Mach.byte_storeSector_in poison hmem h2, List.getD_eq_getElem _ _ h2]

end

/-! ### A sector as read (R323) -/

/-- Writing the default where the default is read changes nothing in a canonical map. -/
theorem smSet_default_of_get {α : Type} [DecidableEq α] (d : α) (m : SMap α) (k : Nat) (hwf : smWf d m = true) (h : smGet d m k = d) :
    smSet d m k d = m := by
  induction m with
  | nil => simp [smSet]
  | cons e m ih =>
    obtain ⟨k', v⟩ := e
    simp only [smWf, Bool.and_eq_true, decide_eq_true_eq] at hwf
    obtain ⟨⟨hv, _⟩, hrest⟩ := hwf
    have hk : k' ≠ k := fun hk => hv (by simpa [smGet, hk] using h)
    simp only [smGet, hk, if_false] at h
    simp [smSet, Ne.symm hk, ih hrest h]

/-- No upset of an intact sector changes nothing. -/
theorem Mach.upset_zero {m : Mach} {a : Nat} (hecc : smWf 0 m.ecc = true) (h : smGet 0 m.ecc (a / 32) = 0) : m.upset a 0 = m := by
  have hset : smSet 0 m.ecc (a / 32) (smGet 0 m.ecc (a / 32) ^^^ (0 % 2 ^ 288)) = m.ecc := by
    rw [h, Nat.zero_mod, Nat.xor_zero]
    exact smSet_default_of_get 0 _ _ hecc h
  unfold Mach.upset
  rw [hset]

/-- A read of an intact sector delivers its bytes and is counted. -/
theorem Mach.hbmRead_of_intact {m : Mach} {a : Nat} (h : smGet 0 m.ecc (a / 32) = 0) (mirror : Bool) :
    m.hbmRead a mirror =
      (m.cnt .hbmCnt (hbmDecode a).die 0 (c := (hbmDecode a).stack), ⟨m.rawBytes (a / 32 * 32) 32, false, false⟩) := by
  have ha : a / 32 * 32 / 32 = a / 32 := by omega
  let n := m.cnt .hbmCnt (hbmDecode a).die 0 (c := (hbmDecode a).stack)
  have hdecode : n.sectorDecode (a / 32 * 32) = (m.rawBytes (a / 32 * 32) 32, .clean) := by
    have hget : smGet 0 n.ecc (a / 32 * 32 / 32) = if false then poisonVec else 0 := by rw [ha]; exact h
    rw [Mach.sectorDecode_of_ecc hget, ha]
    rfl
  have hsense : m.sense (a / 32 * 32) false = (n, m.rawBytes (a / 32 * 32) 32, .clean) := by
    simp only [Mach.sense, hbmDecode_sector]
    rw [hdecode]
  simp only [Mach.hbmRead, hsense]
  rfl

/-- Settles O26: storing writes the sector's bytes and its check symbols, from which the decoder concludes what it does in every mode; and a
read of an intact sector counts itself and changes nothing else. -/
theorem storedSectorReadsBack : Obligations.StoredSectorReadsBack := by
  refine ⟨fun m a bs poison hmem hecc hlen => ?stored, fun s a mirror hdata hst hecc hclean => ?read⟩
  case stored =>
    have hsorted := smSorted_of_smWf _ _ hecc
    refine ⟨fun i hi => Mach.byte_storeSector_in poison hmem (hlen ▸ hi), fun x hx => Mach.byte_storeSector_out poison hmem hlen hx,
      fun k hk => ?_, Mach.wf_storeSector _ _ _ _ hmem, Mach.wf_storeSector_ecc _ _ _ _ hecc, ?_⟩
    · rw [Mach.storeSector_ecc, smGet_smSet_ne _ _ _ _ _ hsorted hk]
    · have hget : smGet 0 (m.storeSector a bs poison).ecc (a / 32) = if poison then poisonVec else 0 := by
        rw [Mach.storeSector_ecc, smGet_smSet_same _ _ _ _ hsorted]
      rw [Mach.sectorDecode_of_ecc hget, Mach.rawBytes_storeSector poison hmem hlen]
  case read =>
    have hdone : s.m.hbmReadDone a 0 mirror = (s.m.cnt .hbmCnt (hbmDecode a).die 0 (c := (hbmDecode a).stack)).answer
        ⟨s.m.rawBytes (a / 32 * 32) 32, false, false⟩ := by
      simp only [Mach.hbmReadDone, hst, if_true, Mach.upset_zero hecc hclean, Mach.hbmRead_of_intact hclean]
    refine ⟨_, (exec_hbmReadComplete _ _ _ _).trans (State.onData_run hdata), ?_⟩
    simp only [hdone]
    exact ⟨rfl, rfl, rfl, rfl, rfl, rfl⟩

end Sys2Proof.Machine
end

section
/-! SUPPORT and proofs. The memory accesses of an issue: their judging before their acting (R172, R195), votes and shuffles (R200), and the
atomics and reservations (R173, R190, R191). -/

namespace Sys2Proof.Machine

/-! ### What an issued memory access runs -/

section
variable {s : State} {i : Issue} {r : ThreadRef} {rs : List ThreadRef} {k : Block}

/-- The widths and forms that `loadOp` makes a load of. -/
def loadForm (width : Nat) (sg fl : Bool) : Prop :=
  (fl = true ∧ width = 4) ∨ (fl = false ∧ (width = 1 ∨ width = 2 ∨ width = 4 ∨ (width = 8 ∧ sg = true)))

/-- The widths and forms that `storeOp` makes a store of. -/
def storeForm (width : Nat) (fl : Bool) : Prop := (fl = true ∧ width = 4) ∨ (fl = false ∧ (width = 1 ∨ width = 2 ∨ width = 4 ∨ width = 8))

theorem State.onIssue_loadOp {width sg fl rd a off} (hform : loadForm width sg fl) (h : s.issues i (loadOp width sg fl rd a off) r rs k)
    (bad : Bool) : s.onIssue i (loadOp width sg fl rd a off) bad = .next (s.setM
      ((s.reading i k (r :: rs) (loadOp width sg fl rd a off)).opLoad i.die (r :: rs) width (sg && !fl) fl rd a off bad)) := by
  obtain ⟨k', e1, e2⟩ := State.issues_registers h (r :: rs)
  rw [State.onIssue_of_issues h]
  obtain ⟨rfl, rfl⟩ | ⟨rfl, hw⟩ := hform
  · rw [loadOp, if_pos rfl, if_pos rfl] at e2 ⊢
    simp [Mach.execOp, e1, e2, issueMeets, State.reading]
  · rw [loadOp, if_neg (by decide), if_pos hw] at e2 ⊢
    simp [Mach.execOp, e1, e2, issueMeets, State.reading]

theorem State.onIssue_storeOp {width fl a b off} (hform : storeForm width fl) (h : s.issues i (storeOp width fl a b off) r rs k) :
    s.onIssue i (storeOp width fl a b off) = .next (s.setM
      ((s.reading i k (r :: rs) (storeOp width fl a b off)).opStore i.die (r :: rs) width a b off fl)) := by
  obtain ⟨k', e1, e2⟩ := State.issues_registers h (r :: rs)
  rw [State.onIssue_of_issues h]
  obtain ⟨rfl, rfl⟩ | ⟨rfl, hw⟩ := hform
  · rw [storeOp, if_pos rfl, if_pos rfl] at e2 ⊢
    simp [Mach.execOp, e1, e2, issueMeets, State.reading]
  · rw [storeOp, if_neg (by decide), if_pos hw] at e2 ⊢
    simp [Mach.execOp, e1, e2, issueMeets, State.reading]

theorem State.onIssue_amo {f5 width rd a b rl} (h : s.issues i (.amo f5 width rd a b rl) r rs k) :
    s.onIssue i (.amo f5 width rd a b rl) = .next (s.setM
      ((s.reading i k (r :: rs) (.amo f5 width rd a b rl)).opAmo i.die (r :: rs) f5 width rd a b rl)) := by
  obtain ⟨k', e1, e2⟩ := State.issues_registers h (r :: rs)
  rw [State.onIssue_of_issues h]
  simp [Mach.execOp, e1, e2, issueMeets, State.reading]

theorem State.onIssue_lr {width rd a rl} (h : s.issues i (.lr width rd a rl) r rs k) :
    s.onIssue i (.lr width rd a rl) = .next (s.setM ((s.reading i k (r :: rs) (.lr width rd a rl)).opLr i.die (r :: rs) width rd a rl)) := by
  obtain ⟨k', e1, e2⟩ := State.issues_registers h (r :: rs)
  rw [State.onIssue_of_issues h]
  simp [Mach.execOp, e1, e2, issueMeets, State.reading]

theorem State.onIssue_sc {width rd a b rl} (h : s.issues i (.sc width rd a b rl) r rs k) :
    s.onIssue i (.sc width rd a b rl) = .next (s.setM
      ((s.reading i k (r :: rs) (.sc width rd a b rl)).opSc i.die (r :: rs) width rd a b rl)) := by
  obtain ⟨k', e1, e2⟩ := State.issues_registers h (r :: rs)
  rw [State.onIssue_of_issues h]
  simp [Mach.execOp, e1, e2, issueMeets, State.reading]

end

theorem amoOp_of_amoCodes {f5 width : Nat} (hw : width = 4 ∨ width = 8) (hf : f5 ∈ amoCodes) (rd a b : Nat) (rl : Bool) :
    amoOp f5 width rd a b rl = .amo f5 width rd a b rl := if_pos ⟨hw, by simpa using hf⟩

/-! ### Judged first (R172, R195) -/

/-- An access whose lanes cannot all be placed is denied to the first that cannot. -/
theorem Mach.memRun_of_error {m m' : Mach} {d width rs1 : Nat} {refs : List ThreadRef} {kind off act e}
    (h : m.placeAll d kind width (refs.map (fun x => (x, m.laneVa d x rs1 off))) = (m', .error e)) :
    m.memRun d refs kind width rs1 off act = m'.denied d refs e.1 e.2.1 e.2.2 := by
  simp only [Mach.memRun, h]

/-- A placed lane acts while its block lives and nothing makes it wait. -/
def Mach.actAt (d : Nat) (kind : MemKind) (act : Mach → ThreadRef → Nat → Place → Mach) (m : Mach) (x : ThreadRef × Nat × Place) : Mach :=
  if m.live d x.1 then
    match m.laneGate d x.1 kind x.2.2 with
    | (m, true) => act m x.1 x.2.1 x.2.2
    | (m, false) => m
  else m

/-- An access whose lanes are all placed acts lane by lane. -/
theorem Mach.memRun_of_ok {m m' : Mach} {d width rs1 : Nat} {refs : List ThreadRef} {kind off act ps}
    (h : m.placeAll d kind width (refs.map (fun x => (x, m.laneVa d x rs1 off))) = (m', .ok ps)) :
    m.memRun d refs kind width rs1 off act = ps.foldl (Mach.actAt d kind act) m' := by
  simp only [Mach.memRun, h]
  rfl

theorem Mach.opLoad_eq (m : Mach) (d : Nat) (r : ThreadRef) (rs : List ThreadRef) (width : Nat) (sg fl : Bool) (rd a : Nat) (off : Int)
    (bad : Bool) : m.opLoad d (r :: rs) width sg fl rd a off bad =
      (if (m.thread d r).any (fun t => t.wait == .ready) then m.stridePrefetch d r (m.laneVa d r a off) else m).memRun d (r :: rs) .load width a
        off (fun m r va p => m.loadLane d width sg fl rd bad r va p) := (rfl)

theorem Mach.opStore_eq (m : Mach) (d : Nat) (refs : List ThreadRef) (width a b : Nat) (off : Int) (fl : Bool) :
    m.opStore d refs width a b off fl = m.memRun d refs .store width a off (fun m r va p =>
      m.storeLane d (toBytes width (if fl then m.tf d r b else m.tx d r b)) Thread.retire r va p) := (rfl)

/-- Settles O30: each access judges its lanes with `Mach.placeAll` and then acts lane by lane, the atomics by combined turns. -/
theorem memoryAccessesAreJudgedFirst : Obligations.MemoryAccessesAreJudgedFirst := by
  intro s i r rs k
  refine ⟨fun width sg fl bad rd a off m' res hform hi hplace => ?load, fun width fl a b off m' res hform hi hplace => ?store,
    fun f5 width rd a b m' res hw hf hi hplace => ?amo⟩
  case load =>
    rw [exec_coreLoad, State.onIssue_loadOp hform hi, Mach.opLoad_eq]
    cases res with
    | error e => rw [Mach.memRun_of_error hplace]
    | ok ps =>
      rw [Mach.memRun_of_ok hplace]
      rfl
  case store =>
    rw [exec_coreStore, State.onIssue_storeOp hform hi, Mach.opStore_eq]
    cases res with
    | error e => rw [Mach.memRun_of_error hplace]
    | ok ps =>
      rw [Mach.memRun_of_ok hplace]
      rfl
  case amo =>
    rw [exec_coreAmo, amoOp_of_amoCodes hw hf, State.onIssue_amo hi]
    cases res with
    | error e => simp only [Mach.opAmo, show _ = _ from hplace]
    | ok ps =>
      simp only [Mach.opAmo, show _ = _ from hplace] <;> rfl

/-! ### Votes and shuffles (R200) -/

/-- Nothing but the thread groups' counters, the register cache and the threads differs. -/
structure Mach.OnlyCounted (m m' : Mach) : Prop where
  sorted : m'.regsSorted
  mem : m'.mem = m.mem
  dies : m'.dies = m.dies
  reg : ∀ id : RegId, id.reg ≠ .tguCnt → m'.reg id = m.reg id

namespace Mach.OnlyCounted

theorem refl {m : Mach} (h : m.regsSorted) : OnlyCounted m m := ⟨h, rfl, rfl, fun _ _ => rfl⟩

variable {m m' : Mach} (h : OnlyCounted m m')
include h

theorem of_eqs {m'' : Mach} (hregs : m''.regs = m'.regs) (hmem : m''.mem = m'.mem) (hdies : m''.dies = m'.dies) : OnlyCounted m m'' where
  sorted := by simpa only [Mach.regsSorted, hregs] using h.sorted
  mem := hmem.trans h.mem
  dies := hdies.trans h.dies
  reg id hid := (Mach.reg_congr hregs id).trans (h.reg id hid)

theorem cnt (d i n c j : Nat) : OnlyCounted m (m'.cnt .tguCnt d i n c j) where
  sorted := Mach.regsSorted_setReg _ _ _ h.sorted
  mem := h.mem
  dies := h.dies
  reg id hid := (Mach.reg_setReg_ne _ _ _ _ h.sorted (fun e => hid (by rw [e]))).trans (h.reg id hid)

theorem regRead (d : Nat) (r : ThreadRef) (reg : Nat) (hint : Bool) : OnlyCounted m (m'.regRead d r reg hint) :=
  (h.of_eqs (m'' := m'.tickFree.modBlock d r.core r.block _) rfl rfl rfl).cnt d _ 1 r.core 0

theorem issueCount (d c : Nat) (k : Block) (g n : Nat) : OnlyCounted m (m'.issueCount d c k g n) := by
  unfold Mach.issueCount
  split
  · exact h
  · split
    · exact ((h.cnt d 0 1 c 0).cnt d 1 n c 0).cnt d 3 1 c 0
    · exact (h.cnt d 0 1 c 0).cnt d 1 n c 0

theorem regCache (d : Nat) (rs : List ThreadRef) (op : RvOp) (hints : Nat) : OnlyCounted m (m'.regCache d rs op hints) := by
  unfold Mach.regCache
  split
  · exact h
  · split
    · exact h
    · exact foldl_keeps (OnlyCounted m) _ (fun _ _ h => h.regRead ..) _ _ h

end Mach.OnlyCounted

section
variable {s : State} (hcores : smSorted s.m.cores = true) (i : Issue) (k : Block) (n : List ThreadRef) (op : RvOp)
include hcores

/-- The operand reads leave every thread as it was. -/
theorem State.reading_thread (d : Nat) (x : ThreadRef) : (s.reading i k n op).thread d x = s.m.thread d x :=
  ((Mach.thread_regCache _ _ _ _ _ (State.issued_cores s i k n ▸ hcores)).2 d x).trans (Mach.thread_of_cores (State.issued_cores ..) d x)

theorem State.reading_cores_sorted : smSorted (s.reading i k n op).cores = true :=
  (Mach.thread_regCache _ _ _ _ _ (State.issued_cores s i k n ▸ hcores)).1

theorem State.reading_tx (d : Nat) (x : ThreadRef) (a : Nat) : (s.reading i k n op).tx d x a = s.m.tx d x a := by
  simp only [Mach.tx, State.reading_thread hcores]

end

theorem State.reading_onlyCounted {s : State} (h : s.m.regsSorted) (i : Issue) (k : Block) (n : List ThreadRef) (op : RvOp) :
    Mach.OnlyCounted s.m (s.reading i k n op) := ((Mach.OnlyCounted.refl h).issueCount ..).regCache ..

/-- Each thread of `all` takes its own result in `rd` and goes on, and nothing else changes but the thread groups' counters. -/
def State.Results (s : State) (d : Nat) (all : List ThreadRef) (rd : Nat) (o : Host.Outcome State Fault Refusal) (v : ThreadRef → Nat) : Prop :=
  ∃ t : State, o = .next t ∧ t.pending = s.pending ∧
    (∀ x ∈ all, t.m.thread d x = (s.m.thread d x).map (fun y => (y.setX rd (v x)).retire)) ∧
    (∀ d' x, d' ≠ d ∨ x ∉ all → d' < 8 → x.core < 32 → t.m.thread d' x = s.m.thread d' x) ∧ t.m.mem = s.m.mem ∧ t.m.dies = s.m.dies ∧
    (∀ id : RegId, id.reg ≠ .tguCnt → t.m.reg id = s.m.reg id)

theorem State.results_of_issues {s : State} {i : Issue} {op : RvOp} {r : ThreadRef} {rs : List ThreadRef} {k : Block} (h : s.issues i op r rs k)
    (hcores : smSorted s.m.cores = true) (hregs : s.m.regsSorted) {rd : Nat} {v : ThreadRef → Nat} {o : Host.Outcome State Fault Refusal}
    (ho : o = .next (s.setM ((r :: rs).foldl (fun m x => m.doneX i.die x rd (v x)) (s.reading i k (r :: rs) op)))) :
    s.Results i.die (r :: rs) rd o v := by
  have hset : s.m.issueSet i.die i.core i.block i.group i.lanes = r :: rs := h.2.1
  have hcore : ∀ x ∈ r :: rs, x.core < 32 := fun x hx => by
    rw [(Mach.issueSet_at s.m i.die i.core i.block i.group i.lanes x (hset ▸ hx)).1]
    exact i.core.isLt
  have hnodup : (r :: rs).Nodup := hset ▸ Mach.issueSet_nodup ..
  have hread := State.reading_onlyCounted hregs i k (r :: rs) op
  have hwas (d : Nat) (x : ThreadRef) : (s.reading i k (r :: rs) op).thread d x = s.m.thread d x := State.reading_thread hcores ..
  have hsorted := State.reading_cores_sorted hcores i k (r :: rs) op
  generalize s.reading i k (r :: rs) op = n at *
  obtain ⟨hthread, hother, hmem, hdies, hreg⟩ := Mach.thread_foldl_modThread i.die (fun x y => (y.setX rd (v x)).retire) (r :: rs) hnodup
    n hsorted i.die.isLt hcore
  refine ⟨_, ho, rfl, fun x hx => ?_, fun d' x hx hd hc => (hother d' x hx hd hc).trans (hwas d' x), hmem.trans hread.mem,
    hdies.trans hread.dies, fun id hid => (Mach.reg_congr hreg id).trans (hread.reg id hid)⟩
  rw [← hwas]
  exact hthread x hx

/-- While the block of an issue lives, its lanes run one after another. -/
theorem Mach.lanesRun_doneX {m : Mach} {d : Nat} {l : List ThreadRef} (rd v : Nat) (hlive : ∀ x ∈ l, m.live d x = true)
    (hcores : smSorted m.cores = true) (hkey : ∀ x ∈ l, ∀ y ∈ l, x.core = y.core ∧ x.block = y.block) :
    m.lanesRun d l (fun m x => m.doneX d x rd v) = l.foldl (fun m x => m.doneX d x rd v) m := by
  induction l generalizing m with
  | nil => rfl
  | cons x l ih =>
    have hstep : ∀ y ∈ l, (m.doneX d x rd v).live d y = true := fun y hy => by
      obtain ⟨hc, hb⟩ := hkey x (by simp) y (by simp [hy])
      have hy' := hlive y (by simp [hy])
      simp only [Mach.live, ← hc, ← hb] at hy' ⊢
      rw [Mach.doneX, Mach.block_modThread_same _ _ _ _ hcores]
      cases hk : m.block d x.core x.block with
      | none => simp [hk] at hy'
      | some k =>
        simp only [hk, Option.any_some, Option.map_some] at hy' ⊢
        split <;> exact hy'
    have hrest := ih hstep (Mach.smSorted_modThread _ _ _ _ hcores) (fun y hy z hz => hkey y (by simp [hy]) z (by simp [hz]))
    simp only [Mach.lanesRun, List.foldl_cons, hlive x (by simp), if_true] at hrest ⊢
    exact hrest

/-- A change of a block's other fields ends no block. -/
theorem Mach.live_modBlock {m : Mach} (d c b : Nat) {f : Block → Block} (h : smSorted m.cores = true)
    (hf : ∀ k, (f k).ended = k.ended ∧ (f k).slot = k.slot) (d' : Nat) (x : ThreadRef) : (m.modBlock d c b f).live d' x = m.live d' x := by
  by_cases hk : coreKey d' x.core = coreKey d c
  · have hcore : ∀ m : Mach, m.core d' x.core = m.core d c := fun m => by simp only [Mach.core, hk]
    simp only [Mach.live, Mach.block, hcore, Mach.modBlock, Mach.core_modCore_same _ _ _ _ h]
    rw [find_map_slot _ _ _ _ (fun k => (hf k).2)]
    cases (m.core d c).blocks.find? (fun k => k.slot == x.block) with
    | none => rfl
    | some k =>
      simp only [Option.map_some, Option.any_some]
      split <;> simp [(hf k).1]
  · simp only [Mach.live, Mach.block, Mach.modBlock, Mach.core_modCore_ne _ _ _ _ _ _ h hk]

/-- A register read through the register cache ends no block. -/
theorem Mach.live_regRead {m : Mach} (d : Nat) (r : ThreadRef) (reg : Nat) (hint : Bool) (h : smSorted m.cores = true) (d' : Nat) (x : ThreadRef) :
    (m.regRead d r reg hint).live d' x = m.live d' x := by
  unfold Mach.regRead
  refine (Mach.live_of_cores (Mach.cnt_cores ..) d' x).trans
    ((Mach.live_modBlock (m := m.tickFree) d r.core r.block h ?_ d' x).trans (Mach.live_of_cores rfl d' x))
  exact fun k => ⟨rfl, rfl⟩

theorem Mach.live_regReads (d : Nat) (r : ThreadRef) (hints : Nat) (l : List (Nat × Nat)) {m : Mach} (h : smSorted m.cores = true) (d' : Nat)
    (x : ThreadRef) : (l.foldl (fun m y => m.regRead d r y.1 (hints.testBit y.2)) m).live d' x = m.live d' x := by
  induction l generalizing m with
  | nil => rfl
  | cons y l ih => exact (ih (Mach.thread_regRead m d r y.1 (hints.testBit y.2) h).1).trans (Mach.live_regRead d r _ _ h d' x)

theorem State.reading_live {s : State} (hcores : smSorted s.m.cores = true) (i : Issue) (k : Block) (n : List ThreadRef) (op : RvOp) (d : Nat)
    (x : ThreadRef) : (s.reading i k n op).live d x = s.m.live d x := by
  have hissued : (s.issued i k n).live d x = s.m.live d x := Mach.live_of_cores (State.issued_cores ..) d x
  rw [← hissued]
  unfold State.reading Mach.regCache
  split
  · rfl
  · split
    · rfl
    · exact Mach.live_regReads _ _ _ _ (State.issued_cores s i k _ ▸ hcores) d x

/-- The threads of an issue are of one block, which lives. -/
theorem State.lanesRun_of_issues {s : State} {i : Issue} {op : RvOp} {r : ThreadRef} {rs : List ThreadRef} {k : Block} (h : s.issues i op r rs k)
    (hcores : smSorted s.m.cores = true) (rd v : Nat) :
    (s.reading i k (r :: rs) op).lanesRun i.die (r :: rs) (fun m x => m.doneX i.die x rd v) =
      (r :: rs).foldl (fun m x => m.doneX i.die x rd v) (s.reading i k (r :: rs) op) := by
  have hset : s.m.issueSet i.die i.core i.block i.group i.lanes = r :: rs := h.2.1
  have hat : ∀ x ∈ r :: rs, x.core = i.core ∧ x.block = i.block := fun x hx =>
    Mach.issueSet_at s.m i.die i.core i.block i.group i.lanes x (hset ▸ hx)
  have hcr := hat r (by simp)
  have hlive : s.m.live i.die r = true := State.live_of_issues h
  refine Mach.lanesRun_doneX rd v (fun x hx => ?_) (State.reading_cores_sorted hcores ..) (fun x hx y hy => ?_)
  · rw [State.reading_live hcores]
    simpa only [Mach.live, (hat x hx).1, (hat x hx).2, hcr.1, hcr.2] using hlive
  · exact ⟨(hat x hx).1.trans (hat y hy).1.symm, (hat x hx).2.trans (hat y hy).2.symm⟩

/-- The value that lane `x` takes of lane `src x`, its own where that lane does not issue. -/
def Mach.laneValue (m : Mach) (d : Nat) (all : List ThreadRef) (a : Nat) (src : ThreadRef → Int) (x : ThreadRef) : Nat :=
  match all.find? (fun y => ((y.thread % 64 : Nat) : Int) == src x) with
  | some y => m.tx d y a
  | none => m.tx d x a

/-- The lane that each shuffle selects, from the lane that asks and its index (Table 7.2). -/
def shflSource (sub lane k : Nat) : Int :=
  match sub with
  | 0 => k
  | 1 => (lane ^^^ k : Nat)
  | 2 => lane - k
  | _ => lane + k

/-- The result of a vote among `all` of whom `yes` vote yes. -/
def voteValue (sub : Nat) (yes all : List ThreadRef) : Nat :=
  match sub with
  | 0 => laneMask yes
  | 1 => b2n (!yes.isEmpty)
  | _ => b2n (yes.length == all.length)

section
variable {m n : Mach} {d : Nat} (htx : ∀ x a, m.tx d x a = n.tx d x a) (all : List ThreadRef)
include htx

theorem Mach.opVote_eq (sub rd a : Nat) : m.opVote d all sub rd a =
    all.foldl (fun m x => m.doneX d x rd (voteValue sub (all.filter (fun x => n.tx d x a != 0)) all)) m := by
  simp only [Mach.opVote, htx]
  rfl

theorem Mach.opShfl_eq (sub rd a b : Nat) : m.opShfl d all sub rd a b = all.foldl (fun m x => m.doneX d x rd
    (n.laneValue d all a (fun x => shflSource sub (x.thread % 64) (n.tx d x b % 64)) x)) m := by
  simp only [Mach.opShfl, List.foldl_map, htx]
  rfl

end

/-- Settles O35. -/
theorem votesAndShuffles : Obligations.VotesAndShuffles := by
  intro s i r rs k rd a b hcores hregs
  have htx (op : RvOp) (x : ThreadRef) (a : Nat) : (s.reading i k (r :: rs) op).tx i.die x a = s.m.tx i.die x a := State.reading_tx hcores ..
  have votes {sub rd a : Nat} (h : s.issues i (.kt (.vote sub) rd a 0) r rs k) : s.Results i.die (r :: rs) rd
      (s.onIssue i (.kt (.vote sub) rd a 0)) (fun _ => voteValue sub ((r :: rs).filter (fun x => s.m.tx i.die x a != 0)) (r :: rs)) :=
    State.results_of_issues h hcores hregs (by rw [State.onIssue_kt_of_issues h, Mach.execKt, Mach.opVote_eq (htx _)])
  have shuffles {sub rd a b : Nat} (h : s.issues i (.kt (.shfl sub) rd a b) r rs k) : s.Results i.die (r :: rs) rd
      (s.onIssue i (.kt (.shfl sub) rd a b))
        (s.m.laneValue i.die (r :: rs) a (fun x => shflSource sub (x.thread % 64) (s.m.tx i.die x b % 64))) :=
    State.results_of_issues h hcores hregs (by rw [State.onIssue_kt_of_issues h, Mach.execKt, Mach.opShfl_eq (htx _)])
  refine ⟨fun h => ?active, votes, votes, votes, shuffles, shuffles, shuffles, shuffles⟩
  case active =>
    exact State.results_of_issues h hcores hregs
      (by rw [exec_ktActive, State.onIssue_kt_of_issues h, Mach.execKt, State.lanesRun_of_issues h hcores])

end Sys2Proof.Machine
end

section
/-! SUPPORT and proofs. Atomics and reservations (R173, R190, R191, R281). -/

namespace Sys2Proof.Machine

theorem State.reading_laneVa {s : State} (hcores : smSorted s.m.cores = true) (i : Issue) (k : Block) (n : List ThreadRef) (op : RvOp) (d : Nat)
    (x : ThreadRef) (a : Nat) (off : Int) : (s.reading i k n op).laneVa d x a off = s.m.laneVa d x a off := by
  simp only [Mach.laneVa, State.reading_thread hcores]

/-! ### The combined operation of an atomic (R190) -/

@[simp] theorem amoPrefix_nil (f5 width old : Nat) : amoPrefix f5 width old [] = ([], old) := (rfl)

@[simp] theorem amoPrefix_cons (f5 width old v : Nat) (vs : List Nat) : amoPrefix f5 width old (v :: vs) =
    (old :: (amoPrefix f5 width (amoFn f5 width old v) vs).1, (amoPrefix f5 width (amoFn f5 width old v) vs).2) := (rfl)

theorem amoPrefix_last (f5 width old : Nat) (vs : List Nat) : (amoPrefix f5 width old vs).2 = vs.foldl (amoFn f5 width) old := by
  induction vs generalizing old with
  | nil => rfl
  | cons v vs ih => simp [ih]

theorem amoPrefix_length (f5 width old : Nat) (vs : List Nat) : (amoPrefix f5 width old vs).1.length = vs.length := by
  induction vs generalizing old with
  | nil => rfl
  | cons v vs ih => simp [ih]

theorem amoPrefix_append (f5 width old : Nat) (vs ws : List Nat) :
    (amoPrefix f5 width old (vs ++ ws)).1 = (amoPrefix f5 width old vs).1 ++ (amoPrefix f5 width (amoPrefix f5 width old vs).2 ws).1 := by
  induction vs generalizing old with
  | nil => rfl
  | cons v vs ih => simp [ih]

/-! ### The atomic of one thread -/

section
variable {m m1 m' : Mach} {d f5 w rd a b : Nat} {r : ThreadRef} {rl : Bool} {p : Place}

/-- The lane of an atomic of one thread. -/
def Mach.amoLane (m : Mach) (d : Nat) (r : ThreadRef) (va b w : Nat) (p : Place) : AmoLane :=
  { who := r, va, at_ := p, val := m.tx d r b % 2 ^ (8 * w) }

/-- An atomic of one thread whose turn comes runs its combined operation of one lane. -/
theorem Mach.opAmo_of_turn (hplace : m.placeFor d r .amo (m.laneVa d r a 0) w = (m1, .ok p)) (hlive : m1.live d r = true)
    (hpoison : m1.amoPoison d f5 w [m1.amoLane d r (m.laneVa d r a 0) b w p] = none) (hfreed : rl = true → m1.storesHeld d r = false)
    (hgate : m1.laneGate d r .amo p = (m', true)) (hval : m1.tx d r b = m'.tx d r b) :
    m.opAmo d [r] f5 w rd a b rl = m'.amoSet d f5 w rd [m'.amoLane d r (m.laneVa d r a 0) b w p] := by
  have hheld : ¬ (rl = true ∧ m1.storesHeld d r = true) := fun h => by simp [hfreed h.1] at h
  simp only [amoLane, hval] at hpoison
  simp [Mach.opAmo, Mach.placeAll, hplace, amoSets, hpoison, Mach.amoTurn, hlive, hheld, hgate, hval, Mach.amoLane]

/-- What a lane of its own gives: the value its turn read. -/
theorem Mach.amoGive_one (m : Mach) (d f5 w rd old : Nat) (x : AmoLane) :
    m.amoGive d f5 w rd old [x] = m.loadDone d x.who rd w (f5 != 32) false old := (rfl)

theorem Mach.amoSet_ls (m : Mach) (d f5 w rd b va : Nat) (r : ThreadRef) (c e o : Nat) :
    m.amoSet d f5 w rd [m.amoLane d r va b w (.ls c e o)] =
      (((m.cnt .tguCnt d 7 0 (c := r.core)).lsCount d r c e).lsWrite d c e o
        (toBytes w (amoFn f5 w (ofBytes (m.lsRead d c e o w)) (m.tx d r b % 2 ^ (8 * w))))).loadDone d r rd w (f5 != 32) false
          (ofBytes (m.lsRead d c e o w)) := (rfl)

theorem Mach.amoSet_coherent {m2 m3 : Mach} {pa old va : Nat} {mirror : Bool} (hclear : m.deadClear pa = (m2, true))
    (hhome : (m2.cnt .tguCnt d 7 0 (c := r.core)).amoHome (viaThread d r mirror) pa w f5 [m.tx d r b % 2 ^ (8 * w)] = (m3, old, false)) :
    m.amoSet d f5 w rd [m.amoLane d r va b w (.coherent pa mirror)] = m3.loadDone d r rd w (f5 != 32) false old := by
  simp only [Mach.amoSet, Mach.amoLane, hclear, Mach.amoMerged, List.map_cons, List.map_nil, List.length_nil, hhome, Bool.false_eq_true,
    if_false]
  rfl

end

theorem ne_famoadd_of_amoCodes {f5 : Nat} (h : f5 ∈ amoCodes) : (f5 != 32) = true := by
  simp only [amoCodes, List.mem_cons, List.not_mem_nil, or_false] at h
  simp only [bne_iff_ne]
  omega

/-- A release whose thread has no waiting stores goes ahead. -/
theorem held_of_freed {rl q : Bool} (h : rl = true → q = false) : (rl && q) = false := by
  cases rl with
  | false => rfl
  | true => exact h rfl

theorem lrOp_of_width {w : Nat} (hw : w = 4 ∨ w = 8) (rd a : Nat) (rl : Bool) : lrOp w rd a rl = .lr w rd a rl := if_pos hw

theorem scOp_of_width {w : Nat} (hw : w = 4 ∨ w = 8) (rd a b : Nat) (rl : Bool) : scOp w rd a b rl = .sc w rd a b rl := if_pos hw

/-- Settles O32: each clause places its one lane (`Mach.memRun_of_placed`, `Mach.opAmo_of_turn`) and acts there. -/
theorem atomicsAndReservations : Obligations.AtomicsAndReservations := by
  refine ⟨fun s i r k w rd a b m' hcores hw => ?one, fun f5 w old vs ws => ?prefixes⟩
  case prefixes =>
    refine ⟨amoPrefix_append .., ?_, amoPrefix_last .., amoPrefix_length ..⟩
    simp only [amoPrefix_last, List.foldl_append]
  case one =>
    have hva (op : RvOp) : s.m.laneVa i.die r a 0 = (s.reading i k [r] op).laneVa i.die r a 0 := (State.reading_laneVa hcores ..).symm
    dsimp only
    refine ⟨fun c e o hi hp hfree => ?lrLocal, fun pa mirror m2 x hi hp hfree hread hclean => ?lr, fun pa mirror hi hp hresv => ?scFails,
      fun pa mirror m2 hi hp hresv hfree hclear => ?sc, fun c e o hi hp hfree => ?scLocal, fun f5 c e o hf hi hturn => ?amoLocal,
      fun f5 pa mirror m2 m3 old hf hi hturn hclear hhome => ?amo, fun pa mirror m2 m3 old hi hturn hclear hhome => ?famoadd,
      fun pa mirror hi hp => ?accst4, fun pa mirror hi hp => ?accst8⟩
    case lrLocal =>
      rw [exec_coreLr, lrOp_of_width hw, State.onIssue_lr hi, Mach.opLr, Mach.memRun_of_placed (hva _ ▸ hp)]
      simp only [held_of_freed hfree]
      rfl
    case lr =>
      rw [exec_coreLr, lrOp_of_width hw, State.onIssue_lr hi, Mach.opLr, Mach.memRun_of_placed (hva _ ▸ hp)]
      simp only [held_of_freed hfree, hread, hclean]
      rfl
    case scFails =>
      rw [exec_coreSc, scOp_of_width hw, State.onIssue_sc hi, Mach.opSc, Mach.memRun_of_placed (hva _ ▸ hp)]
      simp only [hresv]
      rfl
    case sc =>
      rw [exec_coreSc, scOp_of_width hw, State.onIssue_sc hi, Mach.opSc, Mach.memRun_of_placed (hva _ ▸ hp)]
      simp only [hresv, held_of_freed hfree, hclear]
      rfl
    case scLocal =>
      rw [exec_coreSc, scOp_of_width hw, State.onIssue_sc hi, Mach.opSc, Mach.memRun_of_placed (hva _ ▸ hp)]
      cases hresv : (m'.thread i.die r).any (fun t => t.resv == some (lsResv o)) <;> simp only [hresv, held_of_freed hfree] <;> rfl
    case amoLocal =>
      obtain ⟨m1, hplace, hlive, hpoison, hfree, hgate, hval⟩ := hturn
      rw [exec_coreAmo, amoOp_of_amoCodes hw hf, State.onIssue_amo hi,
        Mach.opAmo_of_turn (hva _ ▸ hplace) hlive (hva _ ▸ hpoison) hfree hgate hval, Mach.amoSet_ls, ne_famoadd_of_amoCodes hf]
    case amo =>
      obtain ⟨m1, hplace, hlive, hpoison, hfree, hgate, hval⟩ := hturn
      rw [exec_coreAmo, amoOp_of_amoCodes hw hf, State.onIssue_amo hi,
        Mach.opAmo_of_turn (hva _ ▸ hplace) hlive (hva _ ▸ hpoison) hfree hgate hval, Mach.amoSet_coherent hclear hhome,
        ne_famoadd_of_amoCodes hf]
    case famoadd =>
      obtain ⟨m1, hplace, hlive, hpoison, hfree, hgate, hval⟩ := hturn
      rw [exec_ktFamoadd, State.onIssue_kt_of_issues hi, Mach.execKt,
        Mach.opAmo_of_turn (hva _ ▸ hplace) hlive (hva _ ▸ hpoison) hfree hgate hval, Mach.amoSet_coherent hclear hhome]
      rfl
    case accst4 =>
      rw [exec_ktAccstW, State.onIssue_kt_of_issues hi, Mach.execKt, Mach.opAccst, Mach.memRun_of_placed (hva _ ▸ hp)]
    case accst8 =>
      rw [exec_ktAccstD, State.onIssue_kt_of_issues hi, Mach.execKt, Mach.opAccst, Mach.memRun_of_placed (hva _ ▸ hp)]

end Sys2Proof.Machine
end

section
/-! SUPPORT and proofs. Register instructions over the threads of an issue and over one thread (R170, R171, R174, R181, R182, R195). -/

namespace Sys2Proof.Machine

/-! ### Instructions on registers alone -/

/-- An instruction that accesses no memory and is no Xkt instruction. -/
def RvOp.onRegisters : RvOp → Bool
  | .load .. | .flw .. | .store .. | .fsw .. | .lr .. | .sc .. | .amo .. | .kt .. => false
  | _ => true

theorem RvOp.onRegisters_of_ne {op : RvOp} (hload : ∀ width sg rd a off, op ≠ .load width sg rd a off) (hflw : ∀ rd a off, op ≠ .flw rd a off)
    (hstore : ∀ width a b off, op ≠ .store width a b off) (hfsw : ∀ a b off, op ≠ .fsw a b off) (hlr : ∀ width rd a rl, op ≠ .lr width rd a rl)
    (hsc : ∀ width rd a b rl, op ≠ .sc width rd a b rl) (hamo : ∀ f width rd a b rl, op ≠ .amo f width rd a b rl)
    (hkt : ∀ x rd a b, op ≠ .kt x rd a b) : op.onRegisters = true := by
  cases op with
  | load => exact (hload _ _ _ _ _ rfl).elim
  | flw => exact (hflw _ _ _ rfl).elim
  | store => exact (hstore _ _ _ _ rfl).elim
  | fsw => exact (hfsw _ _ _ rfl).elim
  | lr => exact (hlr _ _ _ _ rfl).elim
  | sc => exact (hsc _ _ _ _ _ rfl).elim
  | amo => exact (hamo _ _ _ _ _ _ rfl).elim
  | kt => exact (hkt _ _ _ _ rfl).elim
  | _ => rfl

theorem RvOp.ne_kt_of_onRegisters {op : RvOp} (h : op.onRegisters = true) (x rd a b) : op ≠ .kt x rd a b := by
  rintro rfl
  exact Bool.false_ne_true h

/-- Below its register checks such an instruction reads its operands and runs lane by lane. -/
theorem Mach.execOp_of_onRegisters {m : Mach} {d : Nat} {r : ThreadRef} {rs : List ThreadRef} {op : RvOp} {x : Meets} {k : Block}
    (hop : op.onRegisters = true) (hk : m.block d r.core r.block = some k) (hin : op.inRegs k.xregs k.fregs = true)
    (hgood : x.regBad = false) :
    m.execOp d (r :: rs) op x = (m.regCache d (r :: rs) op x.hints).lanesRun d (r :: rs) (fun m y => m.regLane d op y) := by
  simp only [Mach.execOp, hk, hin, hgood, Bool.not_true, Bool.false_and, Bool.false_eq_true, if_false]
  cases op with
  | load => cases hop
  | flw => cases hop
  | store => cases hop
  | fsw => cases hop
  | lr => cases hop
  | sc => cases hop
  | amo => cases hop
  | kt => cases hop
  | _ => rfl

theorem State.next_setM_congr (s : State) {m n : Mach} (h : m = n) :
    (Host.Outcome.next (s.setM m) : Host.Outcome State Fault Refusal) = .next (s.setM n) := congrArg _ (congrArg _ h)

section
variable {s : State} {i : Issue} {r : ThreadRef} {rs : List ThreadRef} {k : Block} {op : RvOp}

theorem State.onIssue_of_onRegisters (hop : op.onRegisters = true) (h : s.issues i op r rs k) (hints : Nat) :
    s.onIssue { i with hints } op = .next (s.setM
      ((s.reading i k (r :: rs) op).lanesRun i.die (r :: rs) (fun m x => m.regLane i.die op x))) := by
  obtain ⟨k', hk, hin⟩ := State.issues_registers h (r :: rs)
  have hi : s.issues { i with hints } op r rs k := h
  refine (State.onIssue_of_issues hi false).trans (State.next_setM_congr s ?_)
  refine (Mach.execOp_of_onRegisters hop hk hin rfl).trans ?_
  rw [Mach.regCache_base _ _ _ _ _ i.hints (RvOp.ne_kt_of_onRegisters hop)]
  rfl

theorem State.onIssue_registers (hop : op.onRegisters = true) (h : s.issues i op r rs k) :
    s.onIssue i op = .next (s.setM ((s.reading i k (r :: rs) op).lanesRun i.die (r :: rs) (fun m x => m.regLane i.die op x))) :=
  State.onIssue_of_onRegisters hop h i.hints

/-- R181: what an issue does whose instruction names an undeclared register. -/
theorem State.onIssue_of_undeclared (hruns : s.m.dieRuns i.die = true) (hset : s.m.issueSet i.die i.core i.block i.group i.lanes = r :: rs)
    (hk : s.m.block i.die i.core i.block = some k) (hin : op.inRegs k.xregs k.fregs = false) :
    s.onIssue i op = .next (s.setM ((s.issued i k (r :: rs)).threadFault i.die r 0x01 0)) := by
  have hr := Mach.issueSet_at s.m i.die i.core i.block i.group i.lanes r (by rw [hset]; simp)
  have hk' : (s.m.issueCount i.die i.core k i.group (s.m.freshCount i.die (r :: rs))).block i.die r.core r.block = some k := by
    rw [Mach.issueCount_block, hr.1, hr.2, hk]
  rw [State.onIssue, State.onDie_run hruns]
  simp [Mach.issueRun, hset, hk, Mach.execOp, hk', hin, State.issued, State.setM]

/-- R195: what one does that meets a double-bit error of its register file. -/
theorem State.onIssue_of_regBad (hruns : s.m.dieRuns i.die = true) (hset : s.m.issueSet i.die i.core i.block i.group i.lanes = r :: rs)
    (hk : s.m.block i.die i.core i.block = some k) (hin : op.inRegs k.xregs k.fregs = true) (hnames : op.names ≠ ([], []))
    (hbad : i.regBad = true) : s.onIssue i op = .next (s.setM ((s.issued i k (r :: rs)).regFileError i.die r)) := by
  have hr := Mach.issueSet_at s.m i.die i.core i.block i.group i.lanes r (by rw [hset]; simp)
  have hk' : (s.m.issueCount i.die i.core k i.group (s.m.freshCount i.die (r :: rs))).block i.die r.core r.block = some k := by
    rw [Mach.issueCount_block, hr.1, hr.2, hk]
  rw [State.onIssue, State.onDie_run hruns]
  simp [Mach.issueRun, hset, hk, Mach.execOp, hk', hin, hbad, hnames, State.issued, State.setM]

end

theorem csrOp_of_ne_zero {f3 : Nat} (h : f3 % 4 ≠ 0) (rd a n : Nat) : csrOp f3 rd a n = .csr f3 rd a n := if_neg h

/-- Settles O28. -/
theorem registerInstructionsRunTheirLanes : Obligations.RegisterInstructionsRunTheirLanes := by
  refine ⟨fun s i r rs k => ⟨fun w hi h1 h2 h3 h4 h5 h6 h7 h8 => ?base, fun f3 rd a n hf hi => ?csr, fun hi => ?ecall, fun hi => ?ebreak,
    fun hi => ?fencei⟩, fun s i r rs k w hruns hset hk => ⟨fun hin => ?undeclared, fun hin hnames hbad => ?bad⟩⟩
  case base => exact (exec_baseInstruction ..).trans (State.onIssue_of_onRegisters (RvOp.onRegisters_of_ne h1 h2 h3 h4 h5 h6 h7 h8) hi _)
  case csr => rw [exec_csrAccess, csrOp_of_ne_zero hf, State.onIssue_registers rfl hi]
  case ecall => rw [exec_ecall, State.onIssue_registers rfl hi]
  case ebreak => rw [exec_ebreak, State.onIssue_registers rfl hi]
  case fencei => rw [exec_fenceI, State.onIssue_registers rfl hi]
  case undeclared =>
    exact (exec_baseInstruction ..).trans
      (State.onIssue_of_undeclared (i := { i with hints := bitsOf w.toNat 26 25 }) hruns hset hk hin)
  case bad =>
    exact (exec_baseInstruction ..).trans
      (State.onIssue_of_regBad (i := { i with hints := bitsOf w.toNat 26 25 }) hruns hset hk hin hnames hbad)

/-! ### One thread -/

section
variable {s : State} {i : Issue} {r : ThreadRef} {k : Block} {op : RvOp} {t : Thread} (hcores : smSorted s.m.cores = true)
include hcores

/-- With one thread to issue to, a register instruction is its lane's step. -/
theorem State.onIssue_lane (hop : op.onRegisters = true) (h : s.issues i op r [] k) (hints : Nat) :
    s.onIssue { i with hints } op = .next (s.setM ((s.reading i k [r] op).regLane i.die op r)) := by
  have hlive : (s.reading i k [r] op).live i.die r = true := (State.reading_live hcores ..).trans (State.live_of_issues h)
  rw [State.onIssue_of_onRegisters hop h hints]
  simp only [Mach.lanesRun, List.foldl_cons, List.foldl_nil, hlive, if_true]

variable (ht : s.m.thread i.die r = some t)
include ht

theorem State.reading_getX (a : Nat) : (s.reading i k [r] op).tx i.die r a = t.getX a := by
  rw [State.reading_tx hcores, Mach.tx, ht]

theorem State.reading_getF (a : Nat) : (s.reading i k [r] op).tf i.die r a = t.getF a := by
  rw [Mach.tf, State.reading_thread hcores, ht]

theorem State.reading_pc : (((s.reading i k [r] op).thread i.die r).map (·.pc)).getD 0 = t.pc := by
  rw [State.reading_thread hcores, ht]
  rfl

theorem State.reading_rmFor (rm : Nat) : (s.reading i k [r] op).rmFor i.die r rm = rmOf rm (bitsOf t.fcsr 7 5) := by
  rw [Mach.rmFor, State.reading_thread hcores, ht]
  rfl

end

/-- An instruction that reads no integer register has no operand reads. -/
theorem State.reading_of_reads_nil {op : RvOp} (h : op.reads = []) (s : State) (i : Issue) (k : Block) (n : List ThreadRef) :
    s.reading i k n op = s.issued i k n := by
  unfold State.reading Mach.regCache
  split
  · rfl
  · simp [h]

theorem State.issued_debugOpen (s : State) (i : Issue) (k : Block) (n : List ThreadRef) : (s.issued i k n).debugOpen = s.m.debugOpen := by
  unfold State.issued Mach.issueCount
  split
  · rfl
  · split <;> rfl

section
variable {m : Mach} {d : Nat} {r : ThreadRef} {f3 rd a n old : Nat} (hold : m.csrValue d r n = some old)
include hold

/-- R171: an access that writes a CSR that may be written. -/
theorem Mach.csrLane_writes (hwrites : f3 % 4 = 1 ∨ a ≠ 0) (hn : n ≤ 3) : m.csrLane d r f3 rd a n =
    let src := if f3 < 4 then m.tx d r a else a
    m.modThread d r (fun t => ((t.setCsr n
      (if f3 % 4 = 1 then src else if f3 % 4 = 2 then old ||| src else old &&& (2 ^ 64 - 1 - src))).setX rd old).retire) := by
  have hw : (f3 % 4 == 1 || a != 0) = true := by simpa using hwrites
  have hn' : decide (3 < n) = false := decide_eq_false (by omega)
  simp only [Mach.csrLane, hold, hw, hn', Bool.and_false, Bool.false_eq_true, if_false, if_true]

/-- One that only reads. -/
theorem Mach.csrLane_reads (hop : f3 % 4 ≠ 1) (ha : a = 0) : m.csrLane d r f3 rd a n = m.modThread d r (fun t => (t.setX rd old).retire) := by
  have hw : (f3 % 4 == 1 || a != 0) = false := by simp [hop, ha]
  simp only [Mach.csrLane, hold, hw, Bool.false_and, Bool.false_eq_true, if_false]

/-- One that would write a CSR that may not be written. -/
theorem Mach.csrLane_illegal (hwrites : f3 % 4 = 1 ∨ a ≠ 0) (hn : 3 < n) : m.csrLane d r f3 rd a n = m.threadFault d r 0x01 0 := by
  have hw : (f3 % 4 == 1 || a != 0) = true := by simpa using hwrites
  simp only [Mach.csrLane, hold, hw, decide_eq_true hn, Bool.and_true, if_true]

end

/-- Settles O29. -/
theorem oneThreadsInstruction : Obligations.OneThreadsInstruction := by
  intro s i r k t w hcores hi ht
  dsimp only
  have base (hop : (decodeRv w.toNat).onRegisters = true) : exec (.baseInstruction i w) s = .next (s.setM
      ((s.reading i k [r] (decodeRv w.toNat)).regLane i.die (decodeRv w.toNat) r)) :=
    (exec_baseInstruction ..).trans (State.onIssue_lane hcores hop hi _)
  have hx (op : RvOp) (a : Nat) : (s.reading i k [r] op).tx i.die r a = t.getX a := State.reading_getX hcores ht a
  have hf (op : RvOp) (a : Nat) : (s.reading i k [r] op).tf i.die r a = t.getF a := State.reading_getF hcores ht a
  have hpc (op : RvOp) : (((s.reading i k [r] op).thread i.die r).map (·.pc)).getD 0 = t.pc := State.reading_pc hcores ht
  have hrm (op : RvOp) (rm : Nat) : (s.reading i k [r] op).rmFor i.die r rm = rmOf rm (bitsOf t.fcsr 7 5) := State.reading_rmFor hcores ht rm
  have plain {op : RvOp} (hop : op.onRegisters = true) (hnames : op.names = ([], [])) (hreads : op.reads = []) :
      s.onIssue i op = .next (s.setM ((s.issued i k [r]).regLane i.die op r)) := by
    have hi' : s.issues i op r [] k := ⟨hi.1, hi.2.1, hi.2.2.1, by rw [RvOp.inRegs, hnames]; rfl, hi.2.2.2.2⟩
    exact (State.onIssue_lane hcores hop hi' i.hints).trans (by rw [State.reading_of_reads_nil hreads])
  refine ⟨fun rd imm hw => ?lui, fun rd imm hw => ?auipc, fun f rd a b hw => ?alu, fun f rd a imm hw => ?aluI, fun rd off hw hto => ?jal,
    fun rd a off hw hto => ?jalr, fun c a b off hw htaken => ?stays, fun c a b off hw htaken hto => ?branch, fun f rm rd a b z hw hz => ?fp,
    fun j rm rd a b c z hw hz => ?fmadd, fun hw => ?fence, fun hw => ?illegal, fun f3 rd a n old hf3 hin hold => ?csr, ?ecall, ?fencei,
    fun hdebug => ?ebreakOpen, fun hdebug => ?ebreak⟩
  case lui => rw [base (by rw [hw]; rfl), hw]; rfl
  case auipc =>
    rw [base (by rw [hw]; rfl), hw]
    simp only [Mach.regLane, hpc]
    rfl
  case alu =>
    rw [base (by rw [hw]; rfl), hw]
    simp only [Mach.regLane, hx]
    rfl
  case aluI =>
    rw [base (by rw [hw]; rfl), hw]
    simp only [Mach.regLane, hx]
    rfl
  case jal =>
    rw [base (by rw [hw]; rfl), hw]
    simp only [Mach.regLane, hpc, Mach.jumpTo, hto]
    rfl
  case jalr =>
    rw [base (by rw [hw]; rfl), hw]
    simp only [Mach.regLane, hpc, hx, Mach.jumpTo, hto]
    rfl
  case stays =>
    rw [base (by rw [hw]; rfl), hw]
    simp only [Mach.regLane, hx, htaken]
    rfl
  case branch =>
    rw [base (by rw [hw]; rfl), hw]
    simp only [Mach.regLane, hx, hpc, htaken, Mach.jumpTo, hto]
    rfl
  case fp =>
    rw [base (by rw [hw]; rfl), hw]
    simp only [Mach.regLane, hx, hf, hrm, hz]
    rfl
  case fmadd =>
    rw [base (by rw [hw]; rfl), hw]
    simp only [Mach.regLane, hf, hrm, hz]
    rfl
  case fence =>
    rw [base (by rw [hw]; rfl), hw]
    simp only [Mach.regLane]
    split <;> rfl
  case illegal => rw [base (by rw [hw]; rfl), hw]; rfl
  case csr =>
    have hi' : s.issues i (.csr f3 rd a n) r [] k := ⟨hi.1, hi.2.1, hi.2.2.1, hin, hi.2.2.2.2⟩
    have hlane : exec (.csrAccess i f3 rd a n) s = .next (s.setM ((s.reading i k [r] (.csr f3 rd a n)).csrLane i.die r f3 rd a n)) := by
      rw [exec_csrAccess, csrOp_of_ne_zero hf3]
      exact State.onIssue_lane hcores rfl hi' i.hints
    rw [hlane]
    refine ⟨fun hop hn => ?_, fun hop ha => ?_, fun hop ha hn => ?_, fun hop ha hn => ?_, fun hwrites hn => ?_⟩
    · simp only [Mach.csrLane_writes hold (.inl hop) hn, hop, if_true, hx]
    · simp only [Mach.csrLane_reads hold hop ha]
    · simp only [Mach.csrLane_writes hold (.inr ha) hn, hop, if_true, hx, Nat.reduceEqDiff, if_false]
    · simp only [Mach.csrLane_writes hold (.inr ha) hn, hop, hx, Nat.reduceEqDiff, if_false]
    · rw [Mach.csrLane_illegal hold hwrites hn]
  case ecall => rw [exec_ecall, plain rfl rfl rfl]; rfl
  case fencei => rw [exec_fenceI, plain rfl rfl rfl]; rfl
  case ebreakOpen => rw [exec_ebreak, plain rfl rfl rfl, Mach.regLane, if_pos ((State.issued_debugOpen ..).trans hdebug)]
  case ebreak =>
    rw [exec_ebreak, plain rfl rfl rfl, Mach.regLane, if_neg (by rw [State.issued_debugOpen, hdebug]; exact Bool.false_ne_true)]

end Sys2Proof.Machine
end

section
/-! SUPPORT and proofs. Loads and stores of one thread by their place (R172, R173, R188, R270, R272), the Xkt instructions over their lanes
and over one thread (R195, R200, R201, R206 to R210), and the issue slots and time limits (R177 to R179, R194, R204). -/

namespace Sys2Proof.Machine

/-! ### Loads and stores of one thread -/

/-- An f register takes the bits as they are. -/
theorem Mach.loadDone_sign (m : Mach) (d : Nat) (r : ThreadRef) (rd width : Nat) (sg fl : Bool) (v : Nat) :
    m.loadDone d r rd width (sg && !fl) fl v =
      m.modThread d r (fun t => (if fl then t.setF rd v else t.setX rd (extendTo64 width sg v)).retire) := by
  cases fl <;> simp [Mach.loadDone]

section
variable {m m2 : Mach} {d width rd : Nat} {sg fl bad : Bool} {r : ThreadRef} {va : Nat}

theorem Mach.loadLane_ls (c b o : Nat) : m.loadLane d width sg fl rd false r va (.ls c b o) =
    (m.lsCount d r c b).loadDone d r rd width sg fl (ofBytes (m.lsRead d c b o width)) := (rfl)

theorem Mach.loadLane_ls_bad (c b o : Nat) : m.loadLane d width sg fl rd true r va (.ls c b o) =
    ((m.lsCount d r c b).toCp d 0x34 false false [(4, 6), (8, coreNum d c), (48, va)]).threadFault d r 0x04 va := (rfl)

theorem Mach.loadLane_coherent {pa : Nat} {mirror : Bool} {x : SectorRead}
    (hread : (if bad then m.l1Error d r.core pa else m).l1Read d r.core pa mirror false = (m2, x)) :
    m.loadLane d width sg fl rd bad r va (.coherent pa mirror) = if x.poison then m2.threadFault d r 0x04 va
      else m2.loadDone d r rd width sg fl (ofBytes ((x.bytes.drop (pa % 32)).take width)) := by
  simp only [Mach.loadLane, hread]

theorem Mach.loadLane_register {pa v : Nat} (hread : m.busRead .core pa width = (m2, some v)) :
    m.loadLane d width sg fl rd bad r va (.register pa) = m2.loadDone d r rd width sg fl v := by
  simp only [Mach.loadLane, hread]

theorem Mach.storeLane_register {bs : List Byte} {after : Thread → Thread} {pa : Nat}
    (hwrite : m.busWrite .core pa bs.length (ofBytes bs) 0 = (m2, true)) : m.storeLane d bs after r va (.register pa) = m2.modThread d r after := by
  simp only [Mach.storeLane, hwrite]

end

theorem toBytes_length (n v : Nat) : (toBytes n v).length = n := by
  induction n generalizing v with
  | zero => rfl
  | succ n ih => simp [toBytes, ih]

/-- Settles O31: a placed access of one thread acts at its place, whose kind decides what happens. -/
theorem loadsAndStoresUseTheirPlace : Obligations.LoadsAndStoresUseTheirPlace := by
  refine ⟨fun s i r k width sg fl bad rd a off m' p hform hi => ?load, fun s i r k width fl a b off m' p hform hi => ?store⟩
  case load =>
    intro d m0 m va hp gives
    have hrun : exec (.coreLoad i width sg fl rd a off bad) s = .next (s.setM (m'.loadLane d width (sg && !fl) fl rd bad r va p)) := by
      rw [exec_coreLoad, State.onIssue_loadOp hform hi, Mach.opLoad_eq, Mach.memRun_of_placed hp]
    rw [hrun]
    refine ⟨fun c b o h hgood => ?_, fun c b o h hbad => ?_, fun pa mirror m2 x h hread => ?_, fun node o h => ?_, fun pa m2 v h hread => ?_⟩
    · rw [h, hgood, Mach.loadLane_ls, Mach.loadDone_sign]
    · rw [h, hbad, Mach.loadLane_ls_bad]
    · rw [h, Mach.loadLane_coherent hread, Mach.loadDone_sign]
      exact ⟨fun hx => by rw [hx]; rfl, fun hx => by rw [hx]; rfl⟩
    · rw [h]
      rfl
    · rw [h, Mach.loadLane_register hread, Mach.loadDone_sign]
  case store =>
    intro d m va hp bs goes
    have hrun : exec (.coreStore i width fl a b off) s = .next (s.setM (m'.storeLane d bs Thread.retire r va p)) := by
      rw [exec_coreStore, State.onIssue_storeOp hform hi, Mach.opStore_eq, Mach.memRun_of_placed hp]
    rw [hrun]
    refine ⟨fun c e o h => by rw [h]; rfl, fun pa mirror h => by rw [h]; rfl, fun node o h => by rw [h]; rfl, fun pa m2 h hwrite => ?_⟩
    rw [h, Mach.storeLane_register (by rw [show bs.length = width from toBytes_length ..]; exact hwrite)]

/-! ### Xkt instructions over their lanes -/

theorem State.onWaits_of_onDie {s : State} {d : Fin 8} {f : Mach → Mach} {m : Mach} (hruns : s.m.dieRuns d = true)
    (h : s.onDie d f = .next (s.setM m)) : s.onWaits d f = .next (s.setM m.nutmegAll) := by
  have hf : f s.m = m := by
    rw [State.onDie_run hruns] at h
    injection h with h
    exact congrArg State.m h
  rw [State.onWaits_run hruns, hf]
  rfl

/-- An arrival at a barrier slot follows an issue as any Xkt instruction does, and then the slots settle. -/
theorem State.onWaits_of_issues {s : State} {i : Issue} {x rd a b r rs k} (h : s.issues i (.kt x rd a b) r rs k) :
    s.onWaits i.die (fun m => m.issueRun i.die i.core i.block i.group i.lanes (.kt x rd a b) { regBad := i.regBad, hints := i.hints }) =
      .next (s.setM ((s.reading i k (r :: rs) (.kt x rd a b)).execKt i.die (r :: rs) x rd a b).nutmegAll) := by
  have hissue := State.onIssue_kt_of_issues h
  rw [State.onIssue] at hissue
  exact State.onWaits_of_onDie h.1 hissue

/-- The operand reads do not depend on the register that takes the result. -/
theorem State.reading_kt_rd (s : State) (i : Issue) (k : Block) (n : List ThreadRef) (x : KtOp) (rd rd' a b : Nat) :
    s.reading i k n (.kt x rd a b) = s.reading i k n (.kt x rd' a b) := (rfl)

section
variable {s : State} {i : Issue} {x : KtOp} {rd rd' a b : Nat} {r : ThreadRef} {rs : List ThreadRef} {k : Block}

/-- An Xkt instruction that works lane by lane. -/
theorem State.onIssue_kt_lanes {lane : Mach → ThreadRef → Mach} (h : s.issues i (.kt x rd' a b) r rs k)
    (hx : ∀ m refs, Mach.execKt m i.die refs x rd' a b = m.lanesRun i.die refs lane) : s.onIssue i (.kt x rd' a b) =
      .next (s.setM ((s.reading i k (r :: rs) (.kt x rd a b)).lanesRun i.die (r :: rs) lane)) := by
  rw [State.onIssue_kt_of_issues h, hx, State.reading_kt_rd _ _ _ _ _ _ rd]

/-- One that is judged for every lane first. -/
theorem State.onIssue_kt_judged {bad : Mach → ThreadRef → Bool} {lane : Mach → ThreadRef → Mach} (h : s.issues i (.kt x rd' a b) r rs k)
    (hx : ∀ m refs, Mach.execKt m i.die refs x rd' a b = m.lanesJudged i.die refs bad lane) : s.onIssue i (.kt x rd' a b) =
      .next (s.setM ((s.reading i k (r :: rs) (.kt x rd a b)).lanesJudged i.die (r :: rs) bad lane)) := by
  rw [State.onIssue_kt_of_issues h, hx, State.reading_kt_rd _ _ _ _ _ _ rd]

/-- One that is judged for every lane first and whose slots settle after it. -/
theorem State.onWaits_kt_judged {bad : Mach → ThreadRef → Bool} {lane : Mach → ThreadRef → Mach} (h : s.issues i (.kt x rd' a b) r rs k)
    (hx : ∀ m refs, Mach.execKt m i.die refs x rd' a b = m.lanesJudged i.die refs bad lane) :
    s.onWaits i.die
        (fun m => m.issueRun i.die i.core i.block i.group i.lanes (.kt x rd' a b) { regBad := i.regBad, hints := i.hints }) =
      .next (s.setM ((s.reading i k (r :: rs) (.kt x rd a b)).lanesJudged i.die (r :: rs) bad lane).nutmegAll) := by
  rw [State.onWaits_of_issues h, hx, State.reading_kt_rd _ _ _ _ _ _ rd]

end

/-- Settles O33. -/
theorem ktInstructionsRunTheirLanes : Obligations.KtInstructionsRunTheirLanes := by
  intro s i r rs k rd a b d runs run judged counter waits slot settled near
  refine ⟨fun q hi => ?qcred, fun hi => ?scadd, fun hi => ?scaddRemote, fun hi => ?scsub, fun hi => ?scset, fun hi => ?scrd, fun hi => ?scwait,
    fun hi => ?scwaitc, fun hi => ?bar, fun hi => ?mbarWait, fun hi => ?mbar, fun hi => ?fenceBlock, fun hi => ?fenceCluster,
    fun hi => ?fenceDie, fun hi => ?fenceModule, fun hi => ?fenceRelease, fun hi => ?fenceAcquire, fun hi => ?fenceFull, fun hi => ?exit⟩
  case qcred => exact State.onIssue_kt_lanes hi fun _ _ => rfl
  case scadd => exact State.onIssue_kt_judged hi fun _ _ => rfl
  case scaddRemote => exact State.onIssue_kt_judged hi fun _ _ => rfl
  case scsub => exact State.onIssue_kt_judged hi fun _ _ => rfl
  case scset => exact State.onIssue_kt_judged hi fun _ _ => rfl
  case scrd => exact State.onIssue_kt_judged hi fun _ _ => rfl
  case scwait => exact State.onIssue_kt_judged hi fun _ _ => rfl
  case scwaitc => exact State.onIssue_kt_judged hi fun _ _ => rfl
  case bar => exact State.onIssue_kt_lanes hi fun _ _ => rfl
  case mbarWait =>
    dsimp only [settled, slot, judged, State.setM]
    exact (exec_ktMbarArriveWait ..).trans (State.onWaits_kt_judged hi fun _ _ => rfl)
  case mbar =>
    dsimp only [settled, slot, judged, State.setM]
    exact (exec_ktMbarArrive ..).trans (State.onWaits_kt_judged hi fun _ _ => rfl)
  case fenceBlock => exact State.onIssue_kt_lanes hi fun _ _ => rfl
  case fenceCluster => exact State.onIssue_kt_lanes hi fun _ _ => rfl
  case fenceDie => exact State.onIssue_kt_lanes hi fun _ _ => rfl
  case fenceModule => exact State.onIssue_kt_lanes hi fun _ _ => rfl
  case fenceRelease => exact State.onIssue_kt_lanes hi fun _ _ => rfl
  case fenceAcquire => exact State.onIssue_kt_lanes hi fun _ _ => rfl
  case fenceFull => exact State.onIssue_kt_lanes hi fun _ _ => rfl
  case exit => exact State.onIssue_kt_lanes hi fun _ _ => rfl

end Sys2Proof.Machine
end

section
/-! SUPPORT and proofs. The Xkt instructions of queues, counters and prefetches over one thread (R200, R206 to R210, R238, R240, R242, R299). -/

namespace Sys2Proof.Machine

section
variable {s : State} {i : Issue} {r : ThreadRef} {k : Block}

/-- One thread whose operands are good is its lane's step. -/
theorem State.onIssue_kt_lane {x : KtOp} {rd a b : Nat} {bad : Mach → ThreadRef → Bool} {lane : Mach → ThreadRef → Mach}
    (hcores : smSorted s.m.cores = true) (h : s.issues i (.kt x rd a b) r [] k)
    (hx : ∀ m refs, Mach.execKt m i.die refs x rd a b = m.lanesJudged i.die refs bad lane)
    (hgood : bad (s.reading i k [r] (.kt x rd a b)) r = false) :
    s.onIssue i (.kt x rd a b) = .next (s.setM (lane (s.reading i k [r] (.kt x rd a b)) r)) := by
  have hlive : (s.reading i k [r] (.kt x rd a b)).live i.die r = true := (State.reading_live hcores ..).trans (State.live_of_issues h)
  rw [State.onIssue_kt_of_issues h, hx, Mach.lanesJudged, List.find?_cons_of_neg (by simp [hgood])]
  simp only [List.find?_nil, Mach.lanesRun, List.foldl_cons, List.foldl_nil, hlive, if_true]

end

/-! ### Pushes (R206 to R208) -/

section
variable {m : Mach} {d q : Nat} {r : ThreadRef} (hnone : (m.stallsOf d r.core q).any (fun p => p.who == r) = false)
include hnone

theorem Mach.no_stall_of_any : (m.stallsOf d r.core q).find? (fun p => p.who == r) = none :=
  List.find?_eq_none.mpr fun x hx => by simpa using List.any_eq_false.mp hnone x hx

theorem Mach.takeCredit_of_free (hfree : m.creditsUsed d r.core q < queueDepth q) (hgranted : (m.stallsOf d r.core q).all (·.granted) = true) :
    m.takeCredit d q r = (m.modStalls d r.core q (fun l => l ++ [{ who := r, granted := true }]), true) := by
  simp only [Mach.takeCredit, Mach.no_stall_of_any hnone, hfree, hgranted, decide_true, Bool.and_true, if_true]

theorem Mach.takeCredit_of_full (hfull : queueDepth q ≤ m.creditsUsed d r.core q) : m.takeCredit d q r =
    (((m.modStalls d r.core q (fun l => l ++ [{ who := r, granted := false }])).modThread d r (fun t => { t with wait := .push })).ev
      Fld.cqEvents_push_stall d (c := r.core), false) := by
  simp only [Mach.takeCredit, Mach.no_stall_of_any hnone, Nat.not_lt.mpr hfull, decide_false, Bool.false_and, Bool.false_eq_true, if_false]

end

section
variable {m m' m2 : Mach} {d q rd a : Nat} {r : ThreadRef} {p : Place}
  (hplace : m.placeFor d r .desc (m.laneVa d r a 0) 64 = (m', .ok p)) (hlive : m'.live d r = true)
include hplace hlive

/-- A push that gets its credit takes its descriptor into the queue. -/
theorem Mach.opPush_of_credit {m3 m4 : Mach} {bs : List Byte} (hcredit : m'.takeCredit d q r = (m2, true))
    (hclean : m2.descPoison d (r, m.laneVa d r a 0, p) = none) (hgate : m2.laneGate d r .desc p = (m3, true))
    (hread : m3.readDesc d r (m.laneVa d r a 0) p = (m4, some (bs, false))) :
    m.opPush d [r] q rd a = m4.pushWords d q rd r (wordsOf bs 8) := by
  simp [Mach.opPush, Mach.placeAll, hplace, hlive, hcredit, hclean, hgate, hread]

/-- A push that gets none stalls. -/
theorem Mach.opPush_of_no_credit (hcredit : m'.takeCredit d q r = (m2, false)) : m.opPush d [r] q rd a = m2 := by
  simp [Mach.opPush, Mach.placeAll, hplace, hlive, hcredit]

end

/-! ### Counters (R238, R240, R242) -/

section
variable {m : Mach} {d f3 a b rd : Nat} {r : ThreadRef}

theorem Mach.ctrBad_of_local (hok : m.handleOk d r (m.tx d r a) (f3 == 0) (decide (4 ≤ f3)) = true) (hlocal : bitOf (m.tx d r a) 15 = false) :
    m.ctrBad d f3 a b r = false := by
  simp only [Mach.ctrBad, hok, hlocal]
  rfl

/-- A handle that may not name a remote counter names a local one. -/
theorem Mach.local_of_handleOk {h : Nat} {wait : Bool} (hok : m.handleOk d r h false wait = true) : bitOf h 15 = false := by
  cases hb : bitOf h 15 with
  | false => rfl
  | true => simp [Mach.handleOk, hb] at hok

/-- A remote ADD, once its handle is of the right form and its peer takes it, is sent. -/
theorem Mach.ctrBad_of_remote (hform : m.tx d r a < 2 ^ 30) (hremote : bitOf (m.tx d r a) 15 = true)
    (htaken : m.requestRefused d (bitsOf (m.tx d r a) 29 16) (.add (bitsOf (m.tx d r a) 14 12) (bitsOf (m.tx d r a) 11 0)
      (m.tx d r b % 2 ^ 32)) = false) : m.ctrBad d 0 a b r = false := by
  have hok : m.handleOk d r (m.tx d r a) true false = true := by simp [Mach.handleOk, hremote, show m.tx d r a < 1073741824 from hform]
  simp only [Mach.ctrBad, show ((0 : Nat) == 0) = true from rfl, show decide (4 ≤ 0) = false from rfl, hok, htaken, Bool.and_false]
  rfl

theorem Mach.ctrLane_remote (hremote : bitOf (m.tx d r a) 15 = true) : m.ctrLane d f3 rd a b r =
    ((m.doneX d r rd 0).cnt .syncCnt d 6).remoteSend d (bitsOf (m.tx d r a) 29 16)
      (.add (bitsOf (m.tx d r a) 14 12) (bitsOf (m.tx d r a) 11 0) (m.tx d r b % 2 ^ 32)) (.store r) 0 := by
  unfold Mach.ctrLane
  exact if_pos hremote

theorem Mach.ctrLane_read (hlocal : bitOf (m.tx d r a) 15 = false) : m.ctrLane d 3 rd a b r =
    m.doneX d r rd (m.get Fld.syncCtr_value (bitsOf (m.tx d r a) 14 12) (bitsOf (m.tx d r a) 11 0)) := by
  unfold Mach.ctrLane
  exact (if_neg (by rw [hlocal]; exact Bool.false_ne_true)).trans (if_pos rfl)

/-- The operation that each instruction on a counter is. -/
def ctrOpOf (f3 : Nat) : CtrOp :=
  match f3 with
  | 0 => .add
  | 1 => .sub
  | _ => .set

theorem Mach.ctrLane_local (hlocal : bitOf (m.tx d r a) 15 = false) (hvis : m.earlierVisible d r = true) (hf3 : f3 ≠ 3) :
    m.ctrLane d f3 rd a b r =
      ((m.doneX d r rd (m.get Fld.syncCtr_value (bitsOf (m.tx d r a) 14 12) (bitsOf (m.tx d r a) 11 0))).ctrApply (bitsOf (m.tx d r a) 14 12)
        (bitsOf (m.tx d r a) 11 0) (ctrOpOf f3) (m.tx d r b % 2 ^ 32) f3 (m.srcThread d r)).1 := by
  unfold Mach.ctrLane
  exact (if_neg (by rw [hlocal]; exact Bool.false_ne_true)).trans ((if_neg hf3).trans (if_neg (by rw [hvis]; exact Bool.false_ne_true)))

end

/-! ### Prefetches (R299) -/

section
variable {m m' : Mach} {d a : Nat} {l1 : Bool} {r : ThreadRef}

theorem Mach.opPref_coherent {pa : Nat} {mirror : Bool} {rest} (h : m.translate d r.core (m.laneVa d r a 0) .read = (m', .ok (.coherent pa mirror rest))) :
    m.opPref d [r] l1 a = (if l1 then m'.l1Prefetch d r.core pa mirror else
      m'.corePrefetch d r.core d none pa (.thread r.core) mirror).modThread d r Thread.retire := by
  simp only [Mach.opPref, List.foldl_cons, List.foldl_nil, h]

theorem Mach.opPref_error {e : XlatFail} (h : m.translate d r.core (m.laneVa d r a 0) .read = (m', .error e)) (he : ∀ w, e ≠ .wait w) :
    m.opPref d [r] l1 a = m'.modThread d r Thread.retire := by
  cases e with
  | wait w => exact absurd rfl (he w)
  | _ => simp only [Mach.opPref, List.foldl_cons, List.foldl_nil, h]

end

/-- Settles O34. -/
theorem oneThreadsKtInstruction : Obligations.OneThreadsKtInstruction := by
  intro s i r k t rd a b hcores ht
  dsimp only
  have hx (op : RvOp) (a : Nat) : (s.reading i k [r] op).tx i.die r a = t.getX a := State.reading_getX hcores ht a
  have hva (op : RvOp) : (s.reading i k [r] op).laneVa i.die r a 0 = s.m.laneVa i.die r a 0 := State.reading_laneVa hcores ..
  refine ⟨fun q m' p hi hplace hlive hnone => ⟨fun m3 m4 m5 bs seq hfree hgranted hclean hgate hread henq => ?push, fun hfull => ?stall⟩,
    fun hi hok hlocal => ?scrd, fun hi hok hlocal hvis => ?scadd, fun hi hok hlocal hvis => ?scsub, fun hi hok hlocal hvis => ?scset,
    fun hi hform hremote htaken => ?remote, fun hi hok => ?scwait, fun hi hok => ?scwaitc, fun m' pa mirror rest hi hto => ?prefL1,
    fun m' pa mirror rest hi hto => ?prefDie, fun m' e hi hto he => ?prefFails⟩
  case push =>
    rw [← hva (.kt (.qpush q) rd a 0)] at hplace hclean hread
    rw [exec_ktQpush, State.onIssue_kt_of_issues hi, Mach.execKt, Mach.opPush_of_credit hplace hlive
      (Mach.takeCredit_of_free hnone hfree hgranted) hclean hgate hread, Mach.pushWords, henq]
    simp only [Fin.val_eq_zero_iff]
  case stall =>
    rw [← hva (.kt (.qpush q) rd a 0)] at hplace
    rw [exec_ktQpush, State.onIssue_kt_of_issues hi, Mach.execKt,
      Mach.opPush_of_no_credit hplace hlive (Mach.takeCredit_of_full hnone hfull)]
  case scrd =>
    rw [exec_ktScrd, State.onIssue_kt_lane hcores hi (fun _ _ => rfl) (Mach.ctrBad_of_local (by rw [hx]; exact hok) (by rw [hx]; exact hlocal)),
      Mach.ctrLane_read (by rw [hx]; exact hlocal), hx]
  case scadd =>
    rw [exec_ktScadd, State.onIssue_kt_lane hcores hi (fun _ _ => rfl) (Mach.ctrBad_of_local (by rw [hx]; exact hok) (by rw [hx]; exact hlocal)),
      Mach.ctrLane_local (by rw [hx]; exact hlocal) hvis (by decide), hx, hx]
    rfl
  case scsub =>
    rw [exec_ktScsub, State.onIssue_kt_lane hcores hi (fun _ _ => rfl) (Mach.ctrBad_of_local (by rw [hx]; exact hok) (by rw [hx]; exact hlocal)),
      Mach.ctrLane_local (by rw [hx]; exact hlocal) hvis (by decide), hx, hx]
    rfl
  case scset =>
    rw [exec_ktScset, State.onIssue_kt_lane hcores hi (fun _ _ => rfl) (Mach.ctrBad_of_local (by rw [hx]; exact hok) (by rw [hx]; exact hlocal)),
      Mach.ctrLane_local (by rw [hx]; exact hlocal) hvis (by decide), hx, hx]
    rfl
  case remote =>
    rw [exec_ktScaddRemote, State.onIssue_kt_lane hcores hi (fun _ _ => rfl) (Mach.ctrBad_of_remote (by rw [hx]; exact hform)
      (by rw [hx]; exact hremote) (by rw [hx, hx]; exact htaken)), Mach.ctrLane_remote (by rw [hx]; exact hremote), hx, hx]
  case scwait =>
    rw [exec_ktScwait, State.onIssue_kt_lane hcores hi (fun _ _ => rfl)
      (Mach.ctrBad_of_local (by rw [hx]; exact hok) (by rw [hx]; exact Mach.local_of_handleOk hok)), Mach.waitLane, hx, hx]
  case scwaitc =>
    rw [exec_ktScwaitc, State.onIssue_kt_lane hcores hi (fun _ _ => rfl)
      (Mach.ctrBad_of_local (by rw [hx]; exact hok) (by rw [hx]; exact Mach.local_of_handleOk hok)), Mach.waitLane, hx, hx]
  case prefL1 =>
    rw [← hva (.kt (.pref true) 0 a 0)] at hto
    rw [exec_ktPrefL1, State.onIssue_kt_of_issues hi, Mach.execKt, Mach.opPref_coherent hto, if_pos rfl]
  case prefDie =>
    rw [← hva (.kt (.pref false) 0 a 0)] at hto
    rw [exec_ktPrefDieCache, State.onIssue_kt_of_issues hi, Mach.execKt, Mach.opPref_coherent hto, if_neg Bool.false_ne_true]
  case prefFails =>
    rw [← hva (.kt (.pref true) 0 a 0)] at hto
    rw [exec_ktPrefL1, State.onIssue_kt_of_issues hi, Mach.execKt, Mach.opPref_error hto he]

end Sys2Proof.Machine
end

section
/-! SUPPORT and proofs. Issue slots and the time limits of barriers and fences (R177 to R179, R194, R204, R205, R259, R373, R379). -/

namespace Sys2Proof.Machine

theorem Mach.issueSlot_of_idle {m : Mach} {d c q : Nat} (bad : Bool) (h : m.nextGroup d c q = none) : m.issueSlot d c q bad = m.cnt .tguCnt d 2 (c := c) := by
  simp only [Mach.issueSlot, h]

/-- The state in which a chosen pc is fetched: the rotation, the threads passed over, and the grant of a priority pc. -/
def Mach.slotGrant (m : Mach) (d c q : Nat) (k : Block) (g pc : Nat) (first : Bool) : Mach :=
  let m0 := (m.modCore d c (fun x => { x with lastGroup := x.lastGroup.filter (fun y => y.1 != q) ++ [(q, k.slot * 16 + g)] })).modBlock
    d c k.slot (fun x => { x with passed := passOver (m.readyAt d c k g) x.passed g pc })
  if first then (m0.cnt .tguCnt d 4 (c := c)).ev Fld.tguEvents_starve_grant d (c := c) else m0

/-- What a slot does with what its fetch of `pc` gave. -/
def Mach.runFetched (m : Mach) (d c : Nat) (k : Block) (g fresh : Nat) (r : ThreadRef) (refs : List ThreadRef) (bad : Bool) (pc : Nat) :
    FetchRes → Mach
  | .word w => ((if fresh = 0 then m.cnt .tguCnt d 2 (c := c) else m).issueCount d c k g fresh).execOp d refs (decodeRv w)
      { regBad := bad, hints := bitsOf w 26 25 }
  | .fault cause => (m.cnt .tguCnt d 2 (c := c)).threadFault d r cause pc
  | .wait h => (m.cnt .tguCnt d 2 (c := c)).holdFetch d refs h

theorem Mach.issueSlot_of_next {m m' : Mach} {d c q g pc : Nat} {k : Block} {first : Bool} {r : ThreadRef} {rs : List ThreadRef} {res : FetchRes}
    (bad : Bool) (hnext : m.nextGroup d c q = some (k, g)) (hpc : choosePc (m.readyAt d c k g) k.passed g = some (pc, first))
    (hrefs : ((m.readyAt d c k g).filter (fun x => x.2.pc == pc)).map (fun x => (⟨c, k.slot, x.1⟩ : ThreadRef)) = r :: rs)
    (hfetch : (m.slotGrant d c q k g pc first).fetch d r pc = (m', res)) :
    m.issueSlot d c q bad = m'.runFetched d c k g ((m.slotGrant d c q k g pc first).freshCount d (r :: rs)) r (r :: rs) bad pc res := by
  unfold slotGrant at hfetch ⊢
  unfold Mach.issueSlot
  simp only [hnext, hpc, hrefs]
  dsimp only at hfetch
  rw [hfetch]
  cases res <;> rfl

theorem Mach.slotTimeout_of_due {m : Mach} {d n t0 : Nat} {md : Bool} (hstart : (m.slotSt d md n).start = some t0)
    (hsent : (m.slotSt d md n).sent = false) (hlow : (m.slotDies d md n).head?.getD d = d)
    (hlate : t0 + 2 ^ m.get Fld.syncBarWdog_wdog_log2 d ≤ m.cc d) :
    m.slotTimeout d md n =
      let x := ((m.setSlotSt d md n { m.slotSt d md n with sent := true }).ev Fld.syncDieEvents_bar_timeout d).cnt .syncCnt d 11
      x.syncRec d 0x04 (b2n md * 2048 + n) 0 srcOther 0 0 0 (m.slotMasks d md n).1 (m.slotMasks d md n).2 (x.slotGen d md n) := by
  unfold Mach.slotTimeout
  simp only [hstart]
  exact if_neg (by simp [hsent, hlow, Nat.not_lt.mpr hlate])

theorem Mach.slotTimeout_of_sent {m : Mach} {d n : Nat} {md : Bool} (hsent : (m.slotSt d md n).sent = true) : m.slotTimeout d md n = m := by
  unfold Mach.slotTimeout
  cases hstart : (m.slotSt d md n).start with
  | none => simp only [hstart]
  | some t0 => simp only [hstart, hsent, true_or, if_true]

theorem Mach.barTimeout_of_late {m : Mach} {d c b : Nat} {k : Block} {x : BarInst} (hk : m.block d c b = some k)
    (hx : k.bars.find? (fun x => decide (x.start + x.limit ≤ m.cc d)) = some x) :
    ∃ info : FaultInfo, info.thread = x.first ∧ info.barId = x.id ∧ m.barTimeout d c b = m.blockFault d c b 0x06 info := by
  simp only [Mach.barTimeout, hk, hx]
  exact ⟨_, rfl, rfl, rfl⟩

/-- Settles O36. -/
theorem issueSlotsAndTimeouts : Obligations.IssueSlotsAndTimeouts := by
  refine ⟨fun s d c q hruns => ⟨fun bad hidle => ?idle, fun bad k g pc first r rs m' res hnext => ?issues⟩,
    fun s d c b k x hruns hk hx => ?bar, fun s d md n t0 hruns hstart hsent hlow hlate => ?slot, fun s d md n hruns hsent => ?sent,
    fun s d hruns => ?fence⟩
  case idle =>
    rw [exec_issueSlot, State.onWaits_run hruns, Mach.issueSlot_of_idle bad hidle]
    rfl
  case issues =>
    intro ready hpc hrefs m0 m fresh hfetch
    rw [exec_issueSlot, State.onWaits_run hruns]
    refine State.next_setM_congr s (congrArg Mach.nutmegAll ?_)
    rw [Mach.issueSlot_of_next bad hnext hpc hrefs hfetch]
    cases res <;> rfl
  case bar =>
    obtain ⟨info, hthread, hid, hfault⟩ := Mach.barTimeout_of_late hk hx
    exact ⟨info, hthread, hid, by rw [exec_barrierTimeout, State.onDie_run hruns, hfault]; rfl⟩
  case slot =>
    rw [exec_barSlotTimeout, State.onDie_run hruns, Mach.slotTimeout_of_due hstart hsent hlow hlate]
    rfl
  case sent => rw [exec_barSlotTimeout, State.onDie_run hruns, Mach.slotTimeout_of_sent hsent]
  case fence => exact (exec_fenceTimeout ..).trans (State.onDie_run hruns)

end Sys2Proof.Machine
end

section
/-! SUPPORT and proofs. Launches: their reading, the placing of their blocks and how a placed block starts (R176, R180, R183 to R187, R189,
R224 to R229). -/

namespace Sys2Proof.Machine

/-! ### Reading a launch -/

theorem Mach.launchRead_of_aborting {m : Mach} {k q : Nat} (h : m.aborting k = true) : m.launchRead k q = m := by
  unfold Mach.launchRead
  cases m.partAt k with
  | none => rfl
  | some p => exact if_pos (by rw [h]; rfl)

/-- A launch as it starts (R225): none of its blocks placed. -/
def startedLaunch (p : Part) (q head : Nat) (ws : List Nat) : Launch :=
  { lq := q, seq := head, words := ws, released := !hWaitEn ws, placed := List.replicate (lKernels ws) 0, exited := 0, faulted := 0,
    rows := launchRows p ws }

/-- What a launch queue does with the descriptor `bs` that it has read (R224, R226, R227). -/
def Mach.launchTaken (m : Mach) (k q head : Nat) (p : Part) (bs : List (Byte × Bool)) : Mach :=
  let ws := wordsOf (plain bs) 16
  if anyPoison bs then m.launchDone p q head ws stPoisoned none 0 0
  else match firstBad (launchChecks p ws) with
    | some bit => m.launchDone p q head ws stFieldRange (some bit) 0 0
    | none =>
      let n := m.modPart k (fun x => { x with launches := x.launches ++ [startedLaunch p q head ws] })
      if hWaitEn ws then n.ctrWait (lCtrDie ws) (hWaitCtr ws) (hWaitVal ws) false (.launch k q head) else n

section
variable {m : Mach} {k q head : Nat} {p : Part} {bs : List (Byte × Bool)}

theorem Mach.launchTaken_of_poison (hpoison : anyPoison bs = true) :
    m.launchTaken k q head p bs = m.launchDone p q head (wordsOf (plain bs) 16) stPoisoned none 0 0 := if_pos hpoison

theorem Mach.launchTaken_of_bad {bit : Nat} (hpoison : anyPoison bs = false)
    (hbad : firstBad (launchChecks p (wordsOf (plain bs) 16)) = some bit) :
    m.launchTaken k q head p bs = m.launchDone p q head (wordsOf (plain bs) 16) stFieldRange (some bit) 0 0 := by
  simp only [Mach.launchTaken, hpoison, hbad, Bool.false_eq_true, if_false]

theorem Mach.launchTaken_of_good (hpoison : anyPoison bs = false) (hgood : firstBad (launchChecks p (wordsOf (plain bs) 16)) = none) :
    m.launchTaken k q head p bs =
      let ws := wordsOf (plain bs) 16
      let n := m.modPart k (fun x => { x with launches := x.launches ++ [startedLaunch p q head ws] })
      if hWaitEn ws then n.ctrWait (lCtrDie ws) (hWaitCtr ws) (hWaitVal ws) false (.launch k q head) else n := by
  simp only [Mach.launchTaken, hpoison, hgood, Bool.false_eq_true, if_false]

end

/-- An enabled queue with a descriptor takes the one at its head. -/
theorem Mach.launchRead_of_read {m m' : Mach} {k q : Nat} {p : Part} {bs : List (Byte × Bool)} (hpart : m.partAt k = some p)
    (habort : m.aborting k = false) (hen : m.flag Fld.lqCfg_enable p.low q = true)
    (hnext : m.get Fld.lqHead_head p.low q ≠ m.get Fld.lqTail_tail p.low q)
    (hplacing : p.launches.any (fun l => l.lq == q && !l.allPlaced) = false)
    (hread : m.tableRead (Via.engine p.low) (m.get Fld.lqBase_base p.low q * 128 + 128 *
      (m.get Fld.lqHead_head p.low q % 2 ^ m.get Fld.lqCfg_log2_entries p.low q)) 128 = (m', .ok bs)) :
    m.launchRead k q =
      (m'.put Fld.lqHead_head p.low (m.get Fld.lqHead_head p.low q + 1) q).launchTaken k q (m.get Fld.lqHead_head p.low q) p bs := by
  have hgo : ¬ (m.aborting k || !m.flag Fld.lqCfg_enable p.low q || m.get Fld.lqHead_head p.low q == m.get Fld.lqTail_tail p.low q ||
      p.launches.any (fun l => l.lq == q && !l.allPlaced)) = true := by simp [habort, hen, hnext, hplacing]
  unfold Mach.launchRead
  simp only [hpart]
  rw [if_neg hgo]
  simp only [hread]
  rfl

/-! ### Placing blocks -/

section
variable {m : Mach} {k d c i : Nat} {p : Part} {l : Launch}

theorem Mach.blockPlace_of_aborting (h : m.aborting k = true) : m.blockPlace k d c = m := by
  unfold Mach.blockPlace
  cases m.partAt k with
  | none => rfl
  | some p => simp only [h, if_true]

/-- The cores of the cluster place of core `c`. -/
def placeCores (n c : Nat) : List Nat := (List.range n).map (fun r => c / n * n + r)

theorem Mach.blockPlace_of_next (hpart : m.partAt k = some p) (habort : m.aborting k = false) (hnext : p.nextLaunch = some l)
    (hkernel : l.kernelAt d c = some i) : m.blockPlace k d c =
      let n := lCluster l.words
      let cores := placeCores n c
      let room := cores.map (fun x => m.roomFor d x l.words i)
      if room.all (·.isSome) then
        (((cores.zip room).foldl (fun m x => m.placeOn k l i d x.1 (l.placed.getD i 0 + x.1 % n) (x.1 % n) (x.2.getD [])) m).modPart k
          (fun x => { x with lastQueue := l.lq,
                             launches := x.launches.map (fun y => if y.lq = l.lq ∧ y.seq = l.seq then
                               { y with placed := y.placed.modify i (· + n) } else y) })).drainSettle k
      else cores.foldl (fun m x => if m.splitHeld d x (lLsSize l.words) then m.put Fld.tguStatus_draining d 1 (c := x) else m) m := by
  unfold Mach.blockPlace
  simp only [hpart, habort, Bool.false_eq_true, if_false, hnext, hkernel]
  rfl

end

/-- Marking cores as draining changes registers alone. -/
theorem Mach.foldl_draining (d ls : Nat) (cores : List Nat) (m : Mach) :
    let t := cores.foldl (fun m x => if m.splitHeld d x ls then m.put Fld.tguStatus_draining d 1 (c := x) else m) m
    t.parts = m.parts ∧ t.mem = m.mem ∧ t.cores = m.cores := by
  refine foldl_keeps (fun t : Mach => t.parts = m.parts ∧ t.mem = m.mem ∧ t.cores = m.cores) _ (fun t x h => ?_) _ _ ⟨rfl, rfl, rfl⟩
  split
  · exact h
  · exact h

/-! ### A placed block -/

/-- With fewer than 32 blocks a place is free, and no block has it. -/
theorem freePlace_spec {bs : List Block} (h : bs.length < 32) : freePlace bs < 32 ∧ ∀ k ∈ bs, k.slot ≠ freePlace bs := by
  unfold freePlace
  cases hfind : (List.range 32).find? (fun s => bs.all (fun b => b.slot != s)) with
  | some s =>
    have hs := List.find?_some hfind
    simp only [List.all_eq_true, bne_iff_ne] at hs
    exact ⟨List.mem_range.mp (List.mem_of_find?_eq_some hfind), hs⟩
  | none =>
    have hall : List.range 32 ⊆ bs.map (·.slot) := fun s hs => by
      have := List.find?_eq_none.mp hfind s hs
      simpa [List.all_eq_true] using this
    have := (List.nodup_range (n := 32)).subperm hall |>.length_le
    simp at this
    omega

theorem Mach.takeSplit_cores_sorted {m : Mach} (d c ls : Nat) (h : smSorted m.cores = true) : smSorted (m.takeSplit d c ls).cores = true := by
  unfold Mach.takeSplit
  split
  · exact h
  · dsimp only
    split <;> exact smSorted_smSet _ _ _ _ h

theorem Mach.core_of_cores {m m' : Mach} (h : m.cores = m'.cores) (d c : Nat) : m.core d c = m'.core d c := by
  simp only [Mach.core, h]

theorem Mach.tguStatus_cores (m : Mach) (d c : Nat) : (m.tguStatus d c).cores = m.cores := (rfl)

/-- The block that `Mach.placeOn` puts on a core. -/
def placedBlock (x : Core) (k : Nat) (l : Launch) (i index rank : Nat) (sched : List Nat) : Block :=
  { slot := freePlace x.blocks, part := k, lq := l.lq, launch := l.seq, kernel := i, index, nblk := kBlocks l.words i,
    xregs := kXregs l.words i, fregs := kFregs l.words i,
    threads := List.replicate (kThreads l.words i) (Thread.start (kEntry l.words i) (kArgs l.words i)), ls := [],
    lsBytes := kLs l.words i * 4096, crank := rank, csize := lCluster l.words, sched, kept := [], bars := [], passed := [], ended := false }

theorem Mach.placeOn_core {m : Mach} (k : Nat) (l : Launch) (i d c index rank : Nat) (sched : List Nat) (h : smSorted m.cores = true) :
    let x := (m.takeSplit d c (lLsSize l.words)).core d c
    (m.placeOn k l i d c index rank sched).core d c = { x with blocks := x.blocks ++ [placedBlock x k l i index rank sched] } := by
  intro x
  unfold Mach.placeOn
  exact ((Mach.core_of_cores (Mach.tguStatus_cores ..) d c).trans (Mach.core_of_cores (Mach.cnt_cores ..) d c)).trans
    (Mach.core_modCore_same _ _ _ _ (Mach.takeSplit_cores_sorted d c _ h))

/-- Settles O37. -/
theorem launchesPlaceTheirBlocks : Obligations.LaunchesPlaceTheirBlocks := by
  refine ⟨⟨fun s slot q hdata habort => ?readsNothing, fun s slot q p m' bs hdata hpart hen hnext hplacing habort hread => ?reads⟩,
    ⟨fun s slot d c hruns habort => ?placesNothing, fun s slot d c p l i hruns hpart hnext hkernel habort => ?places⟩,
    fun m slot l i d c index rank sched hcores => ?placed⟩
  case readsNothing => rw [exec_launchRead, State.onData_run hdata, Mach.launchRead_of_aborting habort]
  case reads =>
    intro m ws
    rw [exec_launchRead, State.onData_run hdata, Mach.launchRead_of_read hpart habort hen hnext hplacing hread]
    exact ⟨fun hpoison => State.next_setM_congr s (Mach.launchTaken_of_poison hpoison),
      fun bit hpoison hbad => State.next_setM_congr s (Mach.launchTaken_of_bad hpoison hbad),
      fun hpoison hgood => State.next_setM_congr s (Mach.launchTaken_of_good hpoison hgood)⟩
  case placesNothing => rw [exec_blockPlace, State.onDie_run hruns, Mach.blockPlace_of_aborting habort]
  case places =>
    intro n cores room first
    rw [exec_blockPlace, State.onDie_run hruns, Mach.blockPlace_of_next hpart habort hnext hkernel]
    refine ⟨fun hroom => ?_, fun hroom => ?_⟩
    · exact State.next_setM_congr s (if_pos hroom)
    · exact ⟨_, State.next_setM_congr s (if_neg (Bool.eq_false_iff.mp hroom)), Mach.foldl_draining ..⟩
  case placed =>
    exact ⟨_, Mach.placeOn_core slot l i d c index rank sched hcores, rfl, rfl, rfl, rfl, rfl, rfl, rfl, rfl, rfl, rfl, rfl, rfl, rfl, rfl, rfl,
      rfl, rfl, freePlace_spec⟩

end Sys2Proof.Machine
end

section
/-! SUPPORT and proofs. Operations on sync counters and the waits of threads (R238, R242 to R244, R249). -/

namespace Sys2Proof.Machine

/-! ### What an operation on a counter leaves -/

/-- `m'` differs from `m` in counter `n` of die `d`, in registers that are no SYNC_CTR, and in the fault records. -/
structure Mach.CtrChanged (d n : Nat) (m m' : Mach) : Prop where
  sorted : m'.regsSorted
  dies : smSorted m'.dies = true
  mem : m'.mem = m.mem
  cores : m'.cores = m.cores
  waits : (m'.die d).ctrWaits = (m.die d).ctrWaits
  other : ∀ d' n', d' ≠ d ∨ n' ≠ n → m'.rd .syncCtr d' n' = m.rd .syncCtr d' n'

namespace Mach.CtrChanged

theorem refl {m : Mach} (d n : Nat) (h : m.regsSorted) (hdies : smSorted m.dies = true) : CtrChanged d n m m :=
  ⟨h, hdies, rfl, rfl, rfl, fun _ _ _ => rfl⟩

variable {d n : Nat} {m m' : Mach} (h : CtrChanged d n m m')
include h

/-- A write of a register that is no SYNC_CTR. -/
theorem wr {r : Reg} (hr : r ≠ .syncCtr) (d' v i c j : Nat) : CtrChanged d n m (m'.wr r d' v i c j) where
  sorted := Mach.regsSorted_setReg _ _ _ h.sorted
  dies := h.dies
  mem := h.mem
  cores := h.cores
  waits := h.waits
  other d'' n' hne := (Mach.rd_wr_ne _ _ _ _ _ _ _ _ _ _ _ _ h.sorted (by simp [Ne.symm hr])).trans (h.other d'' n' hne)

theorem cnt (i k : Nat) : CtrChanged d n m (m'.cnt .syncCnt d i k) := h.wr (by decide) _ _ _ _ _

/-- A write of a field of the counter. -/
theorem put {f : Fld} (hf : f.reg = .syncCtr) (v : Nat) : CtrChanged d n m (m'.put f d v n) where
  sorted := Mach.regsSorted_put _ _ _ _ _ _ _ h.sorted
  dies := h.dies
  mem := h.mem
  cores := h.cores
  waits := h.waits
  other d' n' hne := (Mach.rd_put_ne _ _ _ _ _ _ _ _ _ _ _ _ h.sorted (by simpa [hf] using fun e1 e2 => hne.elim (· e1) (· e2))).trans
    (h.other d' n' hne)

theorem ite {p : Prop} [Decidable p] {m'' : Mach} (h' : CtrChanged d n m m'') : CtrChanged d n m (if p then m' else m'') := by
  split
  · exact h
  · exact h'

/-- A change of the die that leaves the waits alone. -/
theorem modDie {f : Die → Die} (hf : (f (m'.die d)).ctrWaits = (m'.die d).ctrWaits) : CtrChanged d n m (m'.modDie d f) where
  sorted := h.sorted
  dies := smSorted_smSet _ _ _ _ h.dies
  mem := h.mem
  cores := h.cores
  waits := (congrArg Die.ctrWaits (Mach.die_modDie_same _ _ _ h.dies)).trans (hf.trans h.waits)
  other := h.other

theorem ctrFlag {f : Fld} (hf : f.reg = .syncCtr) (kind cntIdx lastOp source v before total : Nat) :
    CtrChanged d n m (m'.ctrFlag d n f kind cntIdx lastOp source v before total) := by
  unfold Mach.ctrFlag
  exact (((h.put hf 1).cnt cntIdx 1).modDie rfl).ite ((h.put hf 1).cnt cntIdx 1)

end Mach.CtrChanged

section
variable {m : Mach} {d n : Nat} (hregs : m.regsSorted)
include hregs

/-- A field of a counter is read past the unit's event counters. -/
theorem Mach.get_cnt {f : Fld} (hf : f.reg = .syncCtr) (d' i k : Nat) : (m.cnt .syncCnt d' i k).get f d n = m.get f d n := by
  simp only [Mach.get, hf, Mach.cnt]
  rw [Mach.rd_wr_ne _ _ _ _ _ _ _ _ _ _ _ _ hregs (by simp)]

/-- And past its running total. -/
theorem Mach.get_putTotal {f : Fld} (hf : f.reg = .syncCtr) (d' i v : Nat) :
    (m.put Fld.syncCtrTotal_total d' v i).get f d n = m.get f d n := by
  simp only [Mach.get, hf]
  rw [Mach.rd_put_ne _ _ _ _ _ _ _ _ _ _ _ _ hregs (by simp)]

/-- A flag that is set reads as set, and no field apart from it moves. -/
theorem Mach.ctrFlag_flag {f : Fld} (hf : f.reg = .syncCtr) (hbit : f.lo = f.hi) (h64 : f.hi < 64) (kind cntIdx lastOp source v before total : Nat) :
    (m.ctrFlag d n f kind cntIdx lastOp source v before total).flag f d n = true := by
  have hset : ((m.ev f d n).cnt .syncCnt d cntIdx).get f d n = 1 := by
    rw [Mach.ev, Mach.get_cnt (Mach.regsSorted_put _ _ _ _ _ _ _ hregs) hf, Mach.get_put_same _ _ _ _ _ _ _ hregs (by omega) h64, hbit]
    simp
  unfold Mach.ctrFlag
  have hflag : ((m.ev f d n).cnt .syncCnt d cntIdx).flag f d n = true := by rw [Mach.flag, hset]; rfl
  dsimp only
  split <;> exact hflag

theorem Mach.ctrFlag_get_apart {f g : Fld} (hf : f.reg = .syncCtr) (hg : g.reg = .syncCtr) (hbit : f.lo = f.hi) (h64 : f.hi < 64)
    (hapart : g.hi < f.lo ∨ f.hi < g.lo) (kind cntIdx lastOp source v before total : Nat) :
    (m.ctrFlag d n f kind cntIdx lastOp source v before total).get g d n = m.get g d n := by
  have hget : ((m.ev f d n).cnt .syncCnt d cntIdx).get g d n = m.get g d n := by
    rw [Mach.ev, Mach.get_cnt (Mach.regsSorted_put _ _ _ _ _ _ _ hregs) hg, Mach.get_put_disjoint _ _ _ _ _ _ _ _ hregs (hg.trans hf.symm) (by omega) h64 hapart]
  unfold Mach.ctrFlag
  dsimp only
  split <;> exact hget

end

/-! ### Serving a counter that nothing waits for -/

section
variable {m : Mach} {d n : Nat} (hdies : smSorted m.dies = true) (hnone : (m.die d).ctrWaits.all (fun w => w.ctr != n) = true)
include hnone

theorem Mach.ctr_ne_of_wait {w : CtrWait} (h : w ∈ (m.die d).ctrWaits) : (w.ctr == n) = false := by
  simpa using List.all_eq_true.mp hnone w h

/-- No observer of another counter is released. -/
theorem Mach.releaseObservers_of_none (value : Nat) : m.releaseObservers d n value = m.modDie d (fun x =>
    { x with ctrWaits := x.ctrWaits.filter (fun w => !(w.ctr == n && !w.consume && decide (w.n ≤ value))) }) := by
  have hgo : (m.die d).ctrWaits.filter (fun w => w.ctr == n && !w.consume && decide (w.n ≤ value)) = [] :=
    List.filter_eq_nil_iff.mpr fun w hw => by simp [Mach.ctr_ne_of_wait hnone hw]
  simp only [Mach.releaseObservers, hgo, List.foldl_nil]

theorem Mach.serveConsumers_of_none (fuel : Nat) : m.serveConsumers d n fuel = m := by
  cases fuel with
  | zero => rfl
  | succ fuel =>
    have hfind : (m.die d).ctrWaits.find? (fun w => w.ctr == n && w.consume) = none :=
      List.find?_eq_none.mpr fun w hw => by simp [Mach.ctr_ne_of_wait hnone hw]
    simp only [Mach.serveConsumers, hfind]

theorem Mach.filter_of_none (value : Nat) :
    (m.die d).ctrWaits.filter (fun w => !(w.ctr == n && !w.consume && decide (w.n ≤ value))) = (m.die d).ctrWaits :=
  List.filter_eq_self.mpr fun w hw => by simp [Mach.ctr_ne_of_wait hnone hw]

include hdies

/-- Serving such a counter changes nothing that can be read. -/
theorem Mach.ctrServe_of_none : m.ctrServe d n = m.modDie d (fun x => { x with
    ctrWaits := x.ctrWaits.filter (fun w => !(w.ctr == n && !w.consume && decide (w.n ≤ m.get Fld.syncCtr_value d n))) }) := by
  rw [Mach.ctrServe, Mach.releaseObservers_of_none hnone, Mach.serveConsumers_of_none]
  rw [Mach.die_modDie_same _ _ _ hdies]
  simpa only [Mach.filter_of_none hnone] using hnone

end

/-! ### The operations (Table 9.1) -/

/-- The running total of a counter after an ADD of `v`. -/
def Mach.totalAfter (m : Mach) (d n v : Nat) : Nat := satN 32 ((m.cnt .syncCnt d 0).get Fld.syncCtrTotal_total d n + v)

/-- A counter after an operation, its flags not set and its waiters not served yet. -/
def Mach.ctrValued (m : Mach) (d n : Nat) (op : CtrOp) (v : Nat) : Mach :=
  let old := m.get Fld.syncCtr_value d n
  match op with
  | .add => ((m.cnt .syncCnt d 0).put Fld.syncCtr_value d (satN 32 (old + v)) n).put Fld.syncCtrTotal_total d (m.totalAfter d n v) n
  | .sub => (m.cnt .syncCnt d 0).put Fld.syncCtr_value d (old - v) n
  | .set => (m.cnt .syncCnt d 0).put Fld.syncCtr_value d v n

/-- Set a flag of a counter when `p` holds. -/
def Mach.flagIf (m : Mach) (p : Bool) (d n : Nat) (f : Fld) (kind cntIdx lastOp source v before total : Nat) : Mach :=
  if p then m.ctrFlag d n f kind cntIdx lastOp source v before total else m

/-- A counter after an operation, its waiters not served yet. -/
def Mach.ctrStep (m : Mach) (d n : Nat) (op : CtrOp) (v lastOp source : Nat) : Mach :=
  let old := m.get Fld.syncCtr_value d n
  let x := m.ctrValued d n op v
  match op with
  | .add =>
    let total := m.totalAfter d n v
    let y := x.flagIf (decide (2 ^ 32 ≤ old + v)) d n Fld.syncCtr_ovf 0x01 3 lastOp source v old total
    y.flagIf (y.flag Fld.syncCtrArm_armed d n && decide (y.get Fld.syncCtrArm_expect d n < total)) d n Fld.syncCtr_drift 0x03 5 lastOp source v
      old total
  | .sub => x.flagIf (decide (old < v)) d n Fld.syncCtr_unf 0x02 4 lastOp source v old (x.get Fld.syncCtrTotal_total d n)
  | .set => x

theorem Mach.regsSorted_cnt {m : Mach} (h : m.regsSorted) (r : Reg) (d i n c j : Nat) : (m.cnt r d i n c j).regsSorted :=
  Mach.regsSorted_setReg _ _ _ h

section
variable {m : Mach} {d n v lastOp source : Nat}

theorem Mach.ctrApply_eq (hv : v < 2 ^ 32) (op : CtrOp) :
    m.ctrApply d n op v lastOp source = ((m.ctrStep d n op v lastOp source).ctrServe d n, m.get Fld.syncCtr_value d n) := by
  unfold Mach.ctrApply
  rw [Nat.mod_eq_of_lt hv]
  cases op with
  | add => simp only [Mach.ctrStep, Mach.ctrValued, Mach.flagIf, Mach.totalAfter, decide_eq_true_eq]
  | sub => simp only [Mach.ctrStep, Mach.ctrValued, Mach.flagIf, decide_eq_true_eq]
  | set => rfl

variable (hregs : m.regsSorted)
include hregs

theorem Mach.get_putValue (w : Nat) : ((m.cnt .syncCnt d 0).put Fld.syncCtr_value d w n).get Fld.syncCtr_value d n = w % 2 ^ 32 :=
  Mach.get_put_same _ _ _ _ _ _ _ (Mach.regsSorted_cnt hregs _ _ _ _ _ _) (by decide) (by decide)

/-- The flags of a counter stand as they were when its value is written. -/
theorem Mach.get_putValue_apart {g : Fld} (hg : g.reg = .syncCtr) (hapart : 31 < g.lo) (w : Nat) :
    ((m.cnt .syncCnt d 0).put Fld.syncCtr_value d w n).get g d n = m.get g d n := by
  rw [Mach.get_put_disjoint _ _ _ _ _ _ _ _ (Mach.regsSorted_cnt hregs _ _ _ _ _ _) hg (by decide) (by decide) (.inr hapart), Mach.get_cnt hregs hg]

theorem Mach.ctrValued_sorted (op : CtrOp) : (m.ctrValued d n op v).regsSorted := by
  have hvalue (w : Nat) : ((m.cnt .syncCnt d 0).put Fld.syncCtr_value d w n).regsSorted :=
    Mach.regsSorted_put _ _ _ _ _ _ _ (Mach.regsSorted_cnt hregs _ _ _ _ _ _)
  cases op with
  | add => exact Mach.regsSorted_put _ _ _ _ _ _ _ (hvalue _)
  | sub => exact hvalue _
  | set => exact hvalue _

/-- The value that an operation gives a counter (Table 9.1). -/
def ctrResult (op : CtrOp) (old v : Nat) : Nat :=
  match op with
  | .add => min (old + v) (2 ^ 32 - 1)
  | .sub => old - v
  | .set => v

theorem Mach.ctrValued_value (hv : v < 2 ^ 32) (op : CtrOp) :
    (m.ctrValued d n op v).get Fld.syncCtr_value d n = ctrResult op (m.get Fld.syncCtr_value d n) v := by
  have hold : m.get Fld.syncCtr_value d n < 2 ^ 32 := Nat.mod_lt _ (by decide)
  cases op with
  | add =>
    have hsat : satN 32 (m.get Fld.syncCtr_value d n + v) = min (m.get Fld.syncCtr_value d n + v) (2 ^ 32 - 1) := by
      unfold satN
      split <;> omega
    rw [Mach.ctrValued, Mach.get_putTotal (Mach.regsSorted_put _ _ _ _ _ _ _ (Mach.regsSorted_cnt hregs _ _ _ _ _ _)) (f := Fld.syncCtr_value) rfl,
      Mach.get_putValue hregs, Nat.mod_eq_of_lt (satN_lt _ _), hsat]
    rfl
  | sub =>
    rw [Mach.ctrValued, Mach.get_putValue hregs, Nat.mod_eq_of_lt (by omega)]
    rfl
  | set =>
    rw [Mach.ctrValued, Mach.get_putValue hregs, Nat.mod_eq_of_lt hv]
    rfl

theorem Mach.ctrValued_apart {g : Fld} (hg : g.reg = .syncCtr) (hapart : 31 < g.lo) (op : CtrOp) :
    (m.ctrValued d n op v).get g d n = m.get g d n := by
  cases op with
  | add =>
    rw [Mach.ctrValued, Mach.get_putTotal (Mach.regsSorted_put _ _ _ _ _ _ _ (Mach.regsSorted_cnt hregs _ _ _ _ _ _)) hg,
      Mach.get_putValue_apart hregs hg hapart]
  | sub => exact Mach.get_putValue_apart hregs hg hapart _
  | set => exact Mach.get_putValue_apart hregs hg hapart _

/-! Setting a flag on a condition. -/

omit hregs in
theorem Mach.CtrChanged.flagIf {m' : Mach} {f : Fld} (h : CtrChanged d n m m') (hf : f.reg = .syncCtr) (p : Bool)
    (kind cntIdx lastOp source v before total : Nat) :
    CtrChanged d n m (m'.flagIf p d n f kind cntIdx lastOp source v before total) := (h.ctrFlag hf ..).ite h

theorem Mach.flagIf_flag {f : Fld} (hf : f.reg = .syncCtr) (hbit : f.lo = f.hi) (h64 : f.hi < 64) {p : Bool} (hp : p = true)
    (kind cntIdx lastOp source v before total : Nat) : (m.flagIf p d n f kind cntIdx lastOp source v before total).flag f d n = true := by
  rw [Mach.flagIf, if_pos hp, Mach.ctrFlag_flag hregs hf hbit h64]

omit hregs in
theorem Mach.flagIf_false {f : Fld} {p : Bool} (hp : p = false) (kind cntIdx lastOp source v before total : Nat) :
    m.flagIf p d n f kind cntIdx lastOp source v before total = m := if_neg (by rw [hp]; exact Bool.false_ne_true)

theorem Mach.flagIf_get_apart {f g : Fld} (hf : f.reg = .syncCtr) (hg : g.reg = .syncCtr) (hbit : f.lo = f.hi) (h64 : f.hi < 64)
    (hapart : g.hi < f.lo ∨ f.hi < g.lo) (p : Bool) (kind cntIdx lastOp source v before total : Nat) :
    (m.flagIf p d n f kind cntIdx lastOp source v before total).get g d n = m.get g d n := by
  unfold Mach.flagIf
  split
  · exact Mach.ctrFlag_get_apart hregs hf hg hbit h64 hapart ..
  · rfl

variable (hdies : smSorted m.dies = true)
include hdies

theorem Mach.ctrValued_changed (op : CtrOp) : CtrChanged d n m (m.ctrValued d n op v) := by
  have counted : CtrChanged d n m (m.cnt .syncCnt d 0) := (CtrChanged.refl d n hregs hdies).cnt 0 1
  cases op with
  | add => exact (counted.put rfl _).wr (by decide) _ _ _ _ _
  | sub => exact counted.put rfl _
  | set => exact counted.put rfl _

theorem Mach.ctrStep_changed (op : CtrOp) : CtrChanged d n m (m.ctrStep d n op v lastOp source) := by
  have valued := Mach.ctrValued_changed (v := v) hregs hdies (n := n) (d := d) op
  cases op with
  | add => exact (valued.flagIf rfl ..).flagIf rfl ..
  | sub => exact valued.flagIf rfl ..
  | set => exact valued

/-- No flag touches the value. -/
theorem Mach.ctrStep_value (hv : v < 2 ^ 32) (op : CtrOp) :
    (m.ctrStep d n op v lastOp source).get Fld.syncCtr_value d n = ctrResult op (m.get Fld.syncCtr_value d n) v := by
  have hsorted := Mach.ctrValued_sorted (d := d) (n := n) (v := v) hregs op
  rw [← Mach.ctrValued_value hregs hv op]
  cases op with
  | add =>
    have hflagged := (Mach.ctrValued_changed (d := d) (n := n) (v := v) hregs hdies .add).flagIf (f := Fld.syncCtr_ovf) rfl
      (decide (2 ^ 32 ≤ m.get Fld.syncCtr_value d n + v)) 0x01 3 lastOp source v (m.get Fld.syncCtr_value d n) (m.totalAfter d n v)
    rw [Mach.ctrStep, Mach.flagIf_get_apart hflagged.sorted rfl rfl rfl (by decide) (by decide),
      Mach.flagIf_get_apart hsorted rfl rfl rfl (by decide) (by decide)]
  | sub => rw [Mach.ctrStep, Mach.flagIf_get_apart hsorted rfl rfl rfl (by decide) (by decide)]
  | set => rfl

theorem Mach.ctrStep_ovf : (m.ctrStep d n .add v lastOp source).get Fld.syncCtr_ovf d n =
    ((m.ctrValued d n .add v).flagIf (decide (2 ^ 32 ≤ m.get Fld.syncCtr_value d n + v)) d n Fld.syncCtr_ovf 0x01 3 lastOp source v
      (m.get Fld.syncCtr_value d n) (m.totalAfter d n v)).get Fld.syncCtr_ovf d n := by
  have hflagged := (Mach.ctrValued_changed (d := d) (n := n) (v := v) hregs hdies .add).flagIf (f := Fld.syncCtr_ovf) rfl
    (decide (2 ^ 32 ≤ m.get Fld.syncCtr_value d n + v)) 0x01 3 lastOp source v (m.get Fld.syncCtr_value d n) (m.totalAfter d n v)
  rw [Mach.ctrStep, Mach.flagIf_get_apart hflagged.sorted rfl rfl rfl (by decide) (by decide)]

end

/-! ### The waits of threads (R242, R243) -/

section
variable {m : Mach} {d n threshold rd : Nat} {consume : Bool} {r : ThreadRef}

/-- The state in which a wait of a thread is joined to its counter. -/
def Mach.joined (m : Mach) (d n threshold : Nat) (consume : Bool) (r : ThreadRef) (rd : Nat) : Mach :=
  m.modDie d (fun x => { x with ctrWaits := x.ctrWaits ++ [⟨n, threshold, consume, .thread r rd⟩] })

variable (hdies : smSorted m.dies = true) (hnone : (m.die d).ctrWaits.all (fun w => w.ctr != n) = true)
include hdies

theorem Mach.joined_waits : ((m.joined d n threshold consume r rd).die d).ctrWaits =
    (m.die d).ctrWaits ++ [⟨n, threshold, consume, .thread r rd⟩] := congrArg Die.ctrWaits (Mach.die_modDie_same _ _ _ hdies)

theorem Mach.joined_dies : smSorted (m.joined d n threshold consume r rd).dies = true := smSorted_smSet _ _ _ _ hdies

include hnone

/-- Which waits a value of the counter releases: the one joined, if it observes and its threshold is reached. -/
theorem Mach.joined_released (value : Nat) :
    ((m.joined d n threshold consume r rd).die d).ctrWaits.filter (fun w => w.ctr == n && !w.consume && decide (w.n ≤ value)) =
      if !consume && decide (threshold ≤ value) then [⟨n, threshold, consume, .thread r rd⟩] else [] := by
  have hrest : (m.die d).ctrWaits.filter (fun w => w.ctr == n && !w.consume && decide (w.n ≤ value)) = [] :=
    List.filter_eq_nil_iff.mpr fun w hw => by simp [Mach.ctr_ne_of_wait hnone hw]
  rw [Mach.joined_waits hdies, List.filter_append, hrest, List.nil_append]
  simp [List.filter_cons]

theorem Mach.joined_left (value : Nat) :
    ((m.joined d n threshold consume r rd).die d).ctrWaits.filter (fun w => !(w.ctr == n && !w.consume && decide (w.n ≤ value))) =
      (m.die d).ctrWaits ++ if !consume && decide (threshold ≤ value) then [] else [⟨n, threshold, consume, .thread r rd⟩] := by
  rw [Mach.joined_waits hdies, List.filter_append, Mach.filter_of_none hnone]
  by_cases hn : threshold ≤ value <;> cases consume <;> simp [hn]

/-- The joined state once the waits that `value` releases have left. -/
def Mach.unreleased (m : Mach) (d n value : Nat) : Mach := m.modDie d (fun x =>
  { x with ctrWaits := x.ctrWaits.filter (fun w => !(w.ctr == n && !w.consume && decide (w.n ≤ value))) })

theorem Mach.unreleased_waits (value : Nat) : (((m.joined d n threshold consume r rd).unreleased d n value).die d).ctrWaits =
    (m.die d).ctrWaits ++ if !consume && decide (threshold ≤ value) then [] else [⟨n, threshold, consume, .thread r rd⟩] :=
  (congrArg Die.ctrWaits (Mach.die_modDie_same _ _ _ (Mach.joined_dies hdies))).trans (Mach.joined_left hdies hnone value)

/-- An observer whose threshold is reached goes on with the value. -/
theorem Mach.ctrWait_observed (h : threshold ≤ m.get Fld.syncCtr_value d n) : m.ctrWait d n threshold false (.thread r rd) =
    (((m.joined d n threshold false r rd).unreleased d n (m.get Fld.syncCtr_value d n)).wake d (.thread r rd)
      (m.get Fld.syncCtr_value d n)).cnt .syncCnt d 1 := by
  have hwaits := Mach.unreleased_waits (threshold := threshold) (consume := false) (r := r) (rd := rd) hdies hnone (m.get Fld.syncCtr_value d n)
  rw [Bool.not_false, Bool.true_and, decide_eq_true h, if_pos rfl, List.append_nil] at hwaits
  have hreleased : (m.joined d n threshold false r rd).releaseObservers d n (m.get Fld.syncCtr_value d n) =
      (((m.joined d n threshold false r rd).unreleased d n (m.get Fld.syncCtr_value d n)).wake d (.thread r rd)
        (m.get Fld.syncCtr_value d n)).cnt .syncCnt d 1 := by
    rw [Mach.releaseObservers, Mach.joined_released hdies hnone, Bool.not_false, Bool.true_and, decide_eq_true h, if_pos rfl]
    rfl
  show ((m.joined d n threshold false r rd).releaseObservers d n (m.get Fld.syncCtr_value d n)).serveConsumers d n _ = _
  rw [hreleased]
  refine Mach.serveConsumers_of_none ?_ _
  exact (congrArg (fun l => List.all l (fun w => w.ctr != n)) hwaits).trans hnone

/-- A wait that is not released at once leaves the observers as they were. -/
theorem Mach.ctrWait_unobserved (h : (!consume && decide (threshold ≤ m.get Fld.syncCtr_value d n)) = false) :
    m.ctrWait d n threshold consume (.thread r rd) =
      ((m.joined d n threshold consume r rd).unreleased d n (m.get Fld.syncCtr_value d n)).serveConsumers d n ((m.die d).ctrWaits.length + 1) := by
  have hwaits := Mach.unreleased_waits (threshold := threshold) (consume := consume) (r := r) (rd := rd) hdies hnone (m.get Fld.syncCtr_value d n)
  rw [h, if_neg Bool.false_ne_true] at hwaits
  have hreleased : (m.joined d n threshold consume r rd).releaseObservers d n (m.get Fld.syncCtr_value d n) =
      (m.joined d n threshold consume r rd).unreleased d n (m.get Fld.syncCtr_value d n) := by
    rw [Mach.releaseObservers, Mach.joined_released hdies hnone, h, if_neg Bool.false_ne_true]
    rfl
  show ((m.joined d n threshold consume r rd).releaseObservers d n (m.get Fld.syncCtr_value d n)).serveConsumers d n
    (((m.joined d n threshold consume r rd).releaseObservers d n (m.get Fld.syncCtr_value d n)).die d).ctrWaits.length = _
  rw [hreleased, hwaits, List.length_append, List.length_singleton]

/-- The consumer that is joined is the first that the counter serves. -/
theorem Mach.joined_consumer (hconsume : consume = true) (value : Nat) :
    (((m.joined d n threshold consume r rd).unreleased d n value).die d).ctrWaits.find? (fun w => w.ctr == n && w.consume) =
      some ⟨n, threshold, consume, .thread r rd⟩ := by
  have hrest : (m.die d).ctrWaits.find? (fun w => w.ctr == n && w.consume) = none :=
    List.find?_eq_none.mpr fun w hw => by simp [Mach.ctr_ne_of_wait hnone hw]
  rw [Mach.unreleased_waits hdies hnone, hconsume, List.find?_append, hrest]
  simp

/-- A consumer whose threshold is reached takes it from the counter and goes on with the value from before. -/
theorem Mach.ctrWait_consumed (h : threshold ≤ m.get Fld.syncCtr_value d n) : m.ctrWait d n threshold true (.thread r rd) =
    (((((m.joined d n threshold true r rd).unreleased d n (m.get Fld.syncCtr_value d n)).modDie d
      (fun x => { x with ctrWaits := x.ctrWaits.erase ⟨n, threshold, true, .thread r rd⟩ })).put Fld.syncCtr_value d
        (m.get Fld.syncCtr_value d n - threshold) n).wake d (.thread r rd) (m.get Fld.syncCtr_value d n)).cnt .syncCnt d 2 := by
  have hwaits := Mach.unreleased_waits (threshold := threshold) (consume := true) (r := r) (rd := rd) hdies hnone (m.get Fld.syncCtr_value d n)
  rw [Mach.ctrWait_unobserved hdies hnone rfl, Mach.serveConsumers, Mach.joined_consumer hdies hnone rfl]
  refine (if_pos h).trans (Mach.serveConsumers_of_none ?_ _)
  have herase : (((m.joined d n threshold true r rd).unreleased d n (m.get Fld.syncCtr_value d n)).die d).ctrWaits.erase
      ⟨n, threshold, true, .thread r rd⟩ = (m.die d).ctrWaits := by
    rw [hwaits, List.erase_append_right _ (fun hmem => by simpa using Mach.ctr_ne_of_wait hnone hmem)]
    simp
  have hdie := Mach.die_modDie_same ((m.joined d n threshold true r rd).unreleased d n (m.get Fld.syncCtr_value d n)) d
    (fun x => { x with ctrWaits := x.ctrWaits.erase ⟨n, threshold, true, .thread r rd⟩ }) (smSorted_smSet _ _ _ _ (Mach.joined_dies hdies))
  exact (congrArg (fun l => List.all l (fun w => w.ctr != n)) ((congrArg Die.ctrWaits hdie).trans herase)).trans hnone

/-- A wait whose threshold is above the value waits. -/
theorem Mach.ctrWait_waits (h : m.get Fld.syncCtr_value d n < threshold) : m.ctrWait d n threshold consume (.thread r rd) =
    (m.joined d n threshold consume r rd).unreleased d n (m.get Fld.syncCtr_value d n) := by
  have hnot : decide (threshold ≤ m.get Fld.syncCtr_value d n) = false := decide_eq_false (by omega)
  rw [Mach.ctrWait_unobserved hdies hnone (by rw [hnot, Bool.and_false])]
  cases hconsume : consume with
  | false =>
    have hwaits := Mach.unreleased_waits (threshold := threshold) (consume := false) (r := r) (rd := rd) hdies hnone (m.get Fld.syncCtr_value d n)
    have hfind : (((m.joined d n threshold false r rd).unreleased d n (m.get Fld.syncCtr_value d n)).die d).ctrWaits.find?
        (fun w => w.ctr == n && w.consume) = none := by
      rw [hwaits, hnot, Bool.and_false, if_neg Bool.false_ne_true]
      refine List.find?_eq_none.mpr fun w hw => ?_
      obtain hw | hw := List.mem_append.mp hw
      · simp [Mach.ctr_ne_of_wait hnone hw]
      · simp [List.mem_singleton.mp hw]
    simp only [Mach.serveConsumers, hfind]
  | true =>
    rw [Mach.serveConsumers, Mach.joined_consumer hdies hnone rfl]
    exact if_neg (Nat.not_le.mpr h)

end

section
variable {m m' : Mach} {d rd value : Nat} {r : ThreadRef} {t : Thread}

/-- A thread that is woken takes the value and goes on. -/
theorem Mach.thread_wake (hcores : smSorted m.cores = true) (ht : m.thread d r = some t) (hm' : m'.cores = m.cores) :
    (m'.wake d (.thread r rd) value).thread d r = some (t.setX rd value).retire := by
  rw [Mach.wake, Mach.thread_modThread _ _ _ _ _ _ (hm' ▸ hcores) (fun _ => ⟨rfl, rfl⟩), if_pos ⟨rfl, rfl⟩, Mach.thread_of_cores hm', ht]
  rfl

end

/-- Settles O46. -/
theorem counterOperationsAndWaits : Obligations.CounterOperationsAndWaits := by
  refine ⟨fun m d n v lastOp source hregs hv hnone hdies => ?ops, fun m d n threshold rd r t hregs hdies hcores hnone ht hlive hwait => ?waits⟩
  case ops =>
    intro old after
    have hchanged (op : CtrOp) : Mach.CtrChanged d n m (m.ctrStep d n op v lastOp source) := Mach.ctrStep_changed hregs hdies op
    have hsorted (op : CtrOp) : (m.ctrValued d n op v).regsSorted := Mach.ctrValued_sorted hregs op
    have hafter (op : CtrOp) : ∃ f, after op = (m.ctrStep d n op v lastOp source).modDie d f :=
      ⟨_, (congrArg Prod.fst (Mach.ctrApply_eq hv op)).trans
        (Mach.ctrServe_of_none (hchanged op).dies (by rw [(hchanged op).waits]; exact hnone))⟩
    have hget (op : CtrOp) (f : Fld) : (after op).get f d n = (m.ctrStep d n op v lastOp source).get f d n := by
      obtain ⟨f, hf⟩ := hafter op
      rw [hf, Mach.modDie_get]
    have hvalue (op : CtrOp) : (after op).get Fld.syncCtr_value d n = ctrResult op old v := (hget ..).trans (Mach.ctrStep_value hregs hdies hv op)
    refine ⟨hvalue .add, hvalue .sub, hvalue .set, fun op => by rw [Mach.ctrApply_eq hv op], fun h => ?ovf, fun h => ?noOvf, fun h => ?unf,
      fun h => ?noUnf, fun op d' n' hne => ?other, fun op => ?frame⟩
    case ovf =>
      rw [Mach.flag, hget, Mach.ctrStep_ovf hregs hdies]
      exact Mach.flagIf_flag (hsorted _) rfl rfl (by decide) (decide_eq_true h) ..
    case noOvf =>
      rw [Mach.flag, hget, Mach.ctrStep_ovf hregs hdies, Mach.flagIf_false (decide_eq_false (by omega)), Mach.ctrValued_apart hregs rfl (by decide)]
      rfl
    case unf =>
      rw [Mach.flag, hget, Mach.ctrStep]
      exact Mach.flagIf_flag (hsorted _) rfl rfl (by decide) (decide_eq_true h) ..
    case noUnf =>
      rw [Mach.flag, hget, Mach.ctrStep, Mach.flagIf_false (decide_eq_false (by omega)), Mach.ctrValued_apart hregs rfl (by decide)]
      rfl
    case other =>
      obtain ⟨f, hf⟩ := hafter op
      rw [hf, Mach.modDie_rd]
      exact (hchanged op).other d' n' hne
    case frame =>
      obtain ⟨f, hf⟩ := hafter op
      rw [hf]
      exact ⟨(hchanged op).mem, (hchanged op).cores⟩
  case waits =>
    intro v
    refine ⟨fun h => ?observed, fun h => ?consumed, fun h consume => ?waits⟩
    case observed =>
      rw [Mach.ctrWait_observed hdies hnone h]
      exact ⟨(Mach.thread_of_cores (Mach.cnt_cores ..) d r).trans (Mach.thread_wake hcores ht rfl), Mach.get_cnt hregs rfl _ _ _⟩
    case consumed =>
      rw [Mach.ctrWait_consumed hdies hnone h]
      refine ⟨(Mach.thread_of_cores (Mach.cnt_cores ..) d r).trans (Mach.thread_wake hcores ht rfl), ?_⟩
      refine (Mach.get_cnt (f := Fld.syncCtr_value) (Mach.regsSorted_put m _ _ _ _ _ _ hregs) rfl _ _ _).trans
        ((Mach.get_put_same m _ _ _ _ _ _ hregs (by decide) (by decide)).trans (Nat.mod_eq_of_lt ?_))
      have : m.get Fld.syncCtr_value d n < 2 ^ 32 := Nat.mod_lt _ (by decide)
      show v - threshold < 2 ^ 32
      omega
    case waits =>
      rw [Mach.ctrWait_waits hdies hnone h]
      refine ⟨ht, rfl, ?_⟩
      rw [Mach.unreleased_waits hdies hnone, decide_eq_false (by omega : ¬ threshold ≤ m.get Fld.syncCtr_value d n), Bool.and_false,
        if_neg Bool.false_ne_true]

end Sys2Proof.Machine
end

section
/-! SUPPORT and proofs. The upkeep of a die's cache: a counterexample about the requests of other modules that waited (R297, R370). -/

namespace Sys2Proof.Tests

open Sys2Proof.Machine

/-- Die 0 of a running module, whose dead range 0, the first 4096 bytes of memory, is to be cancelled once its invalidation ends; a write of
another module to its first sector is next in order and waits. -/
def heldWriteInRange : Mach :=
  ((((((runP.put Fld.dcDeadCtl_active 0 1).put Fld.dcDeadCtl_busy 0 1).put Fld.dcDeadCtl_len 0 1).put Fld.fabJob_valid 0 1).put
    Fld.fabJob_job 0 7).modCache 0 (fun c => { c with deadCancel := 1 })).setSource 0
      { inc := 0, next := 0, held := [(0, 7, .write 0 (List.replicate 32 1#8) false)], results := [] }

theorem heldWriteInRange_sorted : heldWriteInRange.regsSorted := Mach.regsSorted_of _ (by decide +kernel)

/-- Once the invalidation is done the waiting write is applied, and the cache holds a line of the range again. -/
theorem line_of_heldWriteInRange : (after (exec (.deadRangeInvalidateDone 0 0) (st heldWriteInRange))).map
    (fun t => (t.cache 0).lines.map (fun l => (l.node, l.addr))) = some [(none, 0)] := by decide +kernel

/-- Refutes O49: DEAD_RANGE_INVALIDATE_DONE also applies the accesses of other modules that waited (log 37), and one of them may bring a line
of the range, which a cancel has made ordinary memory, back into the home's cache. -/
theorem not_dieCacheUpkeepRows : ¬ Obligations.DieCacheUpkeepRows := by
  intro h
  obtain ⟨t, hexec, _, hlines, _⟩ := h.2 (st heldWriteInRange) 0 0 (by decide +kernel) (by decide +kernel) heldWriteInRange_sorted
    (by decide +kernel) (by decide +kernel) (by decide +kernel) (by decide +kernel) (by decide +kernel)
  have hline := line_of_heldWriteInRange
  rw [hexec] at hline
  have hline : (t.m.cache 0).lines.map (fun l => (l.node, l.addr)) = [(none, 0)] := Option.some.inj hline
  obtain ⟨l, hl, hat⟩ := List.mem_map.mp (hline ▸ List.mem_singleton.mpr rfl)
  obtain ⟨hnode, haddr⟩ := Prod.mk.inj hat
  exact hlines 0 (by decide) l hl hnode (by rw [haddr]; decide +kernel)

end Sys2Proof.Tests
end

section
/-! SUPPORT and proofs. Requests to a die's cache, accumulate writes and the misses in flight (R266, R270 to R303). -/

namespace Sys2Proof.Machine

/-! ### Requests -/

/-- An error that the cache's code meets at a request is handled before it (R303). -/
def Mach.meets (m : Mach) (d : Nat) (err : Option CacheErr) (a : Nat) (node : Option Nat := none) : Mach :=
  match err with
  | some e => if (m.lineAt d node a).isSome then m.dcEcc d node a e else m
  | none => m

/-- What is answered of bytes that may carry poison. -/
def respOf (bs : List Byte) (poison : Bool) : Resp := if poison then .poisoned (ofBytes bs) else .ok (ofBytes bs)

section
variable {m m' m2 m0 : Mach} {d : Nat} {req : Requester} {mirror : Bool} {err : Option CacheErr} {a n : Nat} {bs : List Byte} {poison : Bool}

theorem Mach.dcRequest_read_outside (h : inMemory a n = false) :
    m.dcRequest d req (.read a n) mirror err = { m with resp := .accessFault } := by
  unfold Mach.dcRequest
  exact if_neg (by rw [h]; exact Bool.false_ne_true)

theorem Mach.dcRequest_read_dead (h : inMemory a n = true) (hdead : m.deadFault a n = some m') :
    m.dcRequest d req (.read a n) mirror err = { m' with resp := .accessFault } := by
  unfold Mach.dcRequest
  simp only [h, if_true, hdead]

section
variable (h : inMemory a n = true) (hdead : m.deadFault a n = none)
include h hdead

theorem Mach.dcRequest_read_waits (hgate : (m.meets d err a).bytesGate (viaOf d req mirror) a n true = (m', false)) :
    m.dcRequest d req (.read a n) mirror err = { m' with resp := .waits } := by
  unfold Mach.dcRequest
  simp only [h, if_true, hdead]
  cases err <;> dsimp only [Mach.meets] at hgate <;> simp only [hgate]

theorem Mach.dcRequest_read_answers {rs : List (Byte × Bool)}
    (hgate : (m.meets d err a).bytesGate (viaOf d req mirror) a n true = (m', true))
    (hread : m'.readBytes (viaOf d req mirror) a n = (m2, rs)) :
    m.dcRequest d req (.read a n) mirror err = { m2 with resp := respOf (plain rs) (anyPoison rs) } := by
  unfold Mach.dcRequest
  simp only [h, if_true, hdead]
  cases err <;> dsimp only [Mach.meets] at hgate <;> simp only [hgate, hread, respOf]

end

theorem Mach.dcRequest_write_outside (h : inMemory a bs.length = false) :
    m.dcRequest d req (.write a bs poison) mirror err = { m with resp := .accessFault } := by
  unfold Mach.dcRequest
  exact if_neg (by rw [h]; exact Bool.false_ne_true)

section
variable (h : inMemory a bs.length = true)
include h

theorem Mach.dcRequest_write_held (hdead : (m.meets d err a).deadHolds a bs.length = (m', true)) :
    m.dcRequest d req (.write a bs poison) mirror err = { m' with resp := .waits } := by
  unfold Mach.dcRequest
  simp only [h, if_true]
  cases err <;> dsimp only [Mach.meets] at hdead <;> simp only [hdead]

variable (hdead : (m.meets d err a).deadHolds a bs.length = (m0, false))
include hdead

theorem Mach.dcRequest_write_waits (hgate : m0.bytesGate (viaOf d req mirror) a bs.length false = (m', false)) :
    m.dcRequest d req (.write a bs poison) mirror err = { m' with resp := .waits } := by
  unfold Mach.dcRequest
  simp only [h, if_true]
  cases err <;> dsimp only [Mach.meets] at hdead <;> simp only [hdead, hgate]

theorem Mach.dcRequest_write_joins (hgate : m0.bytesGate (viaOf d req mirror) a bs.length false = (m', true)) :
    m.dcRequest d req (.write a bs poison) mirror err =
      { m'.writeBytes (viaOf d req mirror) a (bs.map (fun b => (b, poison))) with resp := .ok 0 } := by
  unfold Mach.dcRequest
  simp only [h, if_true]
  cases err <;> dsimp only [Mach.meets] at hdead <;> simp only [hdead, hgate]

end

/-! A read of another module's sector. -/

variable {node : Nat}

theorem Mach.dcRequest_remote_refused (h : 8 ≤ d ∨ isStacked (a / 32 * 32) = false ∨ m.requestRefused d node (.read (a / 32 * 32) 32) = true) :
    m.dcRequest d req (.readRemote node a) mirror err = { m with resp := .accessFault } := by
  unfold Mach.dcRequest
  exact if_pos (by simpa using h)

/-- The sector is asked for already, its node is lost, or no slot is free for it. -/
def Mach.remoteHolds (m : Mach) (d : Nat) (req : Requester) (node a : Nat) : Prop :=
  ((m.fab d).unacked ++ (m.fab d).waiting).any (fun u => u.node == node && u.req == .read a 32 && u.for_ == .fill) = true ∨
    m.isLost d node = true ∨ m.requestOpen d req (2 ^ 48) = false

section
variable {hit : Option (List Byte × Bool)} {stream : Bool} (ha : a % 32 = 0) (hd : d < 8) (hstack : isStacked a = true)
  (hopen : m.requestRefused d node (.read a 32) = false)
include ha hd hstack hopen

theorem Mach.dcRequest_remote_hit (hdemand : (m.meets d err a (some node)).remoteDemand d req node a = (m', some (bs, poison), stream)) :
    m.dcRequest d req (.readRemote node a) mirror err = { m' with resp := respOf bs poison } := by
  have hbase : a / 32 * 32 = a := by omega
  unfold Mach.dcRequest
  dsimp only
  rw [hbase]
  refine (if_neg (by simp [hd, hstack, hopen])).trans ?_
  cases err <;> dsimp only [Mach.meets] at hdemand <;> simp only [hdemand, respOf]

variable (hdemand : (m.meets d err a (some node)).remoteDemand d req node a = (m', none, stream))
include hdemand

theorem Mach.dcRequest_remote_held (hheld : m'.remoteHolds d req node a) :
    m.dcRequest d req (.readRemote node a) mirror err = { m' with resp := .waits } := by
  have hbase : a / 32 * 32 = a := by omega
  unfold Mach.dcRequest
  dsimp only
  rw [hbase]
  refine (if_neg (by simp [hd, hstack, hopen])).trans ?_
  cases err <;> dsimp only [Mach.meets] at hdemand <;> simp only [hdemand]
  all_goals exact if_pos (by simpa [Mach.remoteHolds] using hheld)

theorem Mach.dcRequest_remote_sent (hheld : ¬ m'.remoteHolds d req node a) :
    m.dcRequest d req (.readRemote node a) mirror err = { m'.remoteSend d node (.read a 32) .fill a stream with resp := .waits } := by
  have hbase : a / 32 * 32 = a := by omega
  unfold Mach.dcRequest
  dsimp only
  rw [hbase]
  refine (if_neg (by simp [hd, hstack, hopen])).trans ?_
  cases err <;> dsimp only [Mach.meets] at hdemand <;> simp only [hdemand]
  all_goals exact if_neg (by simpa [Mach.remoteHolds] using hheld)

end
end

/-! ### Accumulate stores (R296) -/

/-- What an accumulate store asks for: whole elements, aligned, in one sector of memory. -/
def AccFits (a width : Nat) (bs : List Byte) : Prop :=
  (width = 4 ∨ width = 8) ∧ a % width = 0 ∧ bs.length % width = 0 ∧ bs ≠ [] ∧ a % 32 + bs.length ≤ 32 ∧ isMemory a = true

theorem accOk_iff (a width : Nat) (bs : List Byte) : accOk a width bs = true ↔ AccFits a width bs := by
  simp [accOk, AccFits, and_assoc]

section
variable {m m' m0 : Mach} {req : Requester} {a width : Nat} {bs : List Byte} {poison mirror : Bool}

theorem Mach.accRequest_bad (h : ¬ AccFits a width bs) :
    m.accRequest req a width bs poison mirror = { m with resp := .accessFault } := by
  have hbad : accOk a width bs = false := by rwa [← accOk_iff, Bool.not_eq_true] at h
  simp only [Mach.accRequest, hbad, Bool.not_false, if_true]

theorem Mach.accRequest_held (h : AccFits a width bs) (hdead : m.deadHolds a 1 = (m', true)) :
    m.accRequest req a width bs poison mirror = { m' with resp := .waits } := by
  simp only [Mach.accRequest, (accOk_iff a width bs).2 h, hdead, Bool.not_true, Bool.false_eq_true, if_false]

theorem Mach.accRequest_waits (h : AccFits a width bs) (hdead : m.deadHolds a 1 = (m0, false))
    (hgate : m0.requestGate (viaOf (homeDie a) req mirror) a .modify = (m', false)) :
    m.accRequest req a width bs poison mirror = { m' with resp := .waits } := by
  simp only [Mach.accRequest, (accOk_iff a width bs).2 h, hdead, hgate, Bool.not_true, Bool.false_eq_true, if_false]

theorem Mach.accRequest_adds (h : AccFits a width bs) (hdead : m.deadHolds a 1 = (m0, false))
    (hgate : m0.requestGate (viaOf (homeDie a) req mirror) a .modify = (m', true)) :
    m.accRequest req a width bs poison mirror =
      { m'.writeSector (viaOf (homeDie a) req mirror) a bs poison width with resp := .ok 0 } := by
  have hok := (accOk_iff a width bs).2 h
  simp only [Mach.accRequest, hok, hdead, hgate, Mach.accWrite, Bool.not_true, Bool.false_eq_true, if_false, if_true]

end

/-! ### Misses in flight (R300 to R302, R306) -/

/-- A sector of the fill still has to come from memory, and its bank is full. -/
def Mach.fillLate (m : Mach) (d : Nat) (full : Bool) (a : Nat) (f : Fill) : Bool :=
  full && isStacked a && (List.range 4).any (fun k => f.sectors.testBit k && m.fromMemory d (f.addr + 32 * k))

section
variable {m : Mach} {d a : Nat} {full : Bool} {f : Fill}

theorem Mach.missFill_of_none (h : findFill (m.cache d).fills a = none) : m.missFill d a full = m := by
  simp only [Mach.missFill, h]

section
variable (h : findFill (m.cache d).fills a = some f)
include h

theorem Mach.missFill_home_in_reset (hhome : m.homeServes a = false) : m.missFill d a full = m := by
  simp only [Mach.missFill, h, hhome, Bool.not_false, if_true]

theorem Mach.missFill_comes (hhome : m.homeServes a = true) (hlate : m.fillLate d full a f = false) :
    m.missFill d a full = m.fillNow d f := by
  unfold Mach.fillLate at hlate
  simp only [Mach.missFill, h, hhome, hlate, Bool.not_true, Bool.false_eq_true, if_false]

theorem Mach.missFill_late (hhome : m.homeServes a = true) (hlate : m.fillLate d full a f = true) :
    m.missFill d a full = (m.dropFill f).bankFull f := by
  unfold Mach.fillLate at hlate
  simp only [Mach.missFill, h, hhome, hlate, Bool.not_true, Bool.false_eq_true, if_false, if_true]

end

/-- The retry buffer of the fill's slice at its home has room. -/
def Mach.retryRoomy (m : Mach) (f : Fill) : Prop :=
  ((m.cache (homeDie f.addr)).retry.filter (fun g => dcSlice g.addr == dcSlice f.addr)).length < 64

theorem Mach.bankFull_roomy (h : m.retryRoomy f) :
    m.bankFull f = (((m.modCache (homeDie f.addr) (fun c => { c with retry := c.retry ++ [f] })).dcCnt (homeDie f.addr) 22).put
      Fld.dcEvents_bank_hot (homeDie f.addr) 1).retryOcc (homeDie f.addr) := by
  unfold Mach.bankFull
  exact if_pos h

theorem Mach.bankFull_returned (h : ¬ m.retryRoomy f) :
    m.bankFull f = match reqCore f.req with
      | some c => if f.mark = PfMark.stream then m.modCache f.into (fun c => { c with returned := c.returned ++ [f] })
          else (m.modCache f.into (fun c => { c with returned := c.returned ++ [f] })).cnt .dcL1Cnt f.by_ 10 (c := c)
      | none => m.modCache f.into (fun c => { c with returned := c.returned ++ [f] }) := by
  unfold Mach.bankFull
  exact (if_neg h).trans rfl

end

/-! ### The obligation -/

/-- Settles O48: every request and every fill in flight goes down one branch of its row, named by the state's conditions. -/
theorem dieCacheRequestsAndMisses : Obligations.DieCacheRequestsAndMisses := by
  refine ⟨⟨?_, ?_⟩, ?_, ?_⟩
  · intro s d req mirror err hd
    have run (op : CacheOp) : exec (.dieCacheRequest d req op mirror err) s = .next (s.setM (s.m.dcRequest d req op mirror err)) :=
      (exec_dieCacheRequest d req op mirror err s).trans (State.onNine_run hd)
    intro v answers met held
    refine ⟨?_, ?_, ?_, ?_, ?_, ?_, ?_, ?_, ?_, ?_, ?_⟩
    · intro a n h
      exact (run _).trans (s.next_setM_congr (Mach.dcRequest_read_outside h))
    · intro a n m' h hdead
      exact (run _).trans (s.next_setM_congr (Mach.dcRequest_read_dead h hdead))
    · intro a n m' h hdead hgate
      exact (run _).trans (s.next_setM_congr (Mach.dcRequest_read_waits h hdead hgate))
    · intro a n m' m2 bs h hdead hgate hread
      exact (run _).trans (s.next_setM_congr (Mach.dcRequest_read_answers h hdead hgate hread))
    · intro a bs poison h
      exact (run _).trans (s.next_setM_congr (Mach.dcRequest_write_outside h))
    · intro a bs poison m' h hdead
      exact (run _).trans (s.next_setM_congr (Mach.dcRequest_write_held h hdead))
    · intro a bs poison m0 m' h hdead hgate
      exact (run _).trans (s.next_setM_congr (Mach.dcRequest_write_waits h hdead hgate))
    · intro a bs poison m0 m' h hdead hgate
      exact (run _).trans (s.next_setM_congr (Mach.dcRequest_write_joins h hdead hgate))
    · intro node a h
      exact (run _).trans (s.next_setM_congr (Mach.dcRequest_remote_refused h))
    · intro node a m' hit stream ha hdie hstack hopen hdemand
      refine ⟨?_, ?_, ?_⟩
      · rintro bs poison rfl
        exact (run _).trans (s.next_setM_congr (Mach.dcRequest_remote_hit ha hdie hstack hopen hdemand))
      · rintro rfl hheld
        exact (run _).trans (s.next_setM_congr (Mach.dcRequest_remote_held ha hdie hstack hopen hdemand hheld))
      · rintro rfl hheld
        exact (run _).trans (s.next_setM_congr (Mach.dcRequest_remote_sent ha hdie hstack hopen hdemand hheld))
    · intro a
      exact run _
  · intro s req a width bs poison mirror hdata
    refine ((exec_accumulateWriteApply req a width bs poison mirror s).trans (State.onData_run hdata)).trans (s.next_setM_congr ?_)
    by_cases hfits : AccFits a width bs
    case neg => exact (Mach.accRequest_bad hfits).trans (if_neg hfits).symm
    case pos =>
      rw [if_pos (show (width = 4 ∨ width = 8) ∧ _ from hfits)]
      rcases hdead : s.m.deadHolds a 1 with ⟨m0, _ | _⟩
      case true => exact Mach.accRequest_held hfits hdead
      case false =>
        rcases hgate : m0.requestGate (viaOf (homeDie a) req mirror) a .modify with ⟨m', _ | _⟩
        case false => simpa only [hgate] using Mach.accRequest_waits hfits hdead hgate
        case true => simpa only [hgate] using Mach.accRequest_adds hfits hdead hgate
  · intro s d a full hd
    have run : exec (.dieCacheMissFill d a full) s = .next (s.setM (s.m.missFill d a full).waitersDrain) :=
      (exec_dieCacheMissFill d a full s).trans (State.onNine_run hd)
    have runs {m : Mach} (h : s.m.missFill d a full = m) : exec (.dieCacheMissFill d a full) s = .next (s.setM m.waitersDrain) :=
      run.trans (s.next_setM_congr (congrArg Mach.waitersDrain h))
    refine ⟨fun h => runs (Mach.missFill_of_none h), ?_⟩
    intro f hf late m h roomy back
    refine ⟨?_, ?_, ?_, ?_⟩
    · exact fun hhome => runs (Mach.missFill_home_in_reset hf hhome)
    · exact fun hhome hlate => runs (Mach.missFill_comes hf hhome hlate)
    · exact fun hhome hlate hroom => runs ((Mach.missFill_late hf hhome hlate).trans (Mach.bankFull_roomy hroom))
    · exact fun hhome hlate hroom => runs ((Mach.missFill_late hf hhome hlate).trans (Mach.bankFull_returned hroom))
  · intro s d hd
    exact ⟨fun c => (exec_missSlotIssue d c s).trans (State.onDie_run hd), fun a => (exec_bankRetryIssue d a s).trans (State.onDie_run hd),
      fun a => (exec_missReissue d a s).trans (State.onDie_run hd)⟩

end Sys2Proof.Machine
end

section
/-! SUPPORT and proofs. Link retry and passing packets (R351, R360, R361, R365). -/

namespace Sys2Proof.Machine

section
variable {m : Mach} {d p : Nat}

theorem Mach.port_modPort_same {f : PortSt → PortSt} (hdies : smSorted m.dies = true) (hf : f (m.port d p) ≠ PortSt.init) :
    (m.modPort d p f).port d p = f (m.port d p) := by
  unfold Mach.modPort Mach.modFab Mach.port Mach.fab
  rw [Mach.die_modDie_same _ _ _ hdies]
  exact smGet_smSet_same_of_ne_default _ _ hf

theorem Mach.die_modPort_ne {e : Nat} (hdies : smSorted m.dies = true) (f : PortSt → PortSt) (h : e ≠ d) :
    (m.modPort d p f).die e = m.die e := Mach.die_modDie_ne _ _ _ _ hdies h

theorem Mach.port_dies {n : Mach} (h : n.dies = m.dies) : n.port d p = m.port d p := by
  simp only [Mach.port, Mach.fab, Mach.die, h]

end

/-! ### Link retry -/

section
variable {m : Mach} {d p seq n : Nat} (hup : m.portUp d p = true)
include hup

theorem Mach.linkReceive_bad {ok : Bool} (h : ok = false ∨ (m.port d p).rxSeq < seq) :
    m.linkReceive d p (.data seq ok n) = m.send 0x06 [8 * d + p, (m.port d p).rxSeq] := by
  unfold Mach.linkReceive
  simp only [hup, Bool.not_true, Bool.false_eq_true, if_false]
  exact if_pos (by simpa using h)

theorem Mach.linkReceive_again (h : seq < (m.port d p).rxSeq) :
    m.linkReceive d p (.data seq true n) = m.send 0x07 [8 * d + p, seq] := by
  unfold Mach.linkReceive
  simp only [hup, Bool.not_true, Bool.false_eq_true, if_false, false_or]
  exact (if_neg (by omega)).trans (if_pos h)

theorem Mach.linkReceive_next :
    m.linkReceive d p (.data (m.port d p).rxSeq true n) =
      (((m.cnt .fabPortCnt d p 1 0 5).cnt .fabPortCnt d p n 0 7).modPort d p (fun x =>
        { x with rxSeq := (m.port d p).rxSeq + 1 })).send 0x07 [8 * d + p, (m.port d p).rxSeq] := by
  unfold Mach.linkReceive
  simp only [hup, Bool.not_true, Bool.false_eq_true, if_false, false_or, Nat.lt_irrefl]

theorem Mach.linkReceive_ack : m.linkReceive d p (.ack seq) =
    m.modPort d p (fun x => { x with replay := x.replay.filter (fun r => decide (seq < r.1)), replays := 0 }) := by
  simp only [Mach.linkReceive, hup, Bool.not_true, Bool.false_eq_true, if_false]

theorem Mach.linkReceive_corrected : m.linkReceive d p (.corrected n) = m.cnt .fabPortCnt d p n 0 1 := by
  simp only [Mach.linkReceive, hup, Bool.not_true, Bool.false_eq_true, if_false]

end

/-- The port after one more request for replay. -/
def Mach.replayAsked (m : Mach) (d p : Nat) : Mach :=
  (m.cnt .fabPortCnt d p 1 0 0).modPort d p (fun x => { x with replays := x.replays + 1 })

theorem Mach.port_replayAsked {m : Mach} {d p : Nat} (hdies : smSorted m.dies = true) :
    (m.replayAsked d p).port d p = { m.port d p with replays := (m.port d p).replays + 1 } := by
  have hport : (m.cnt .fabPortCnt d p 1 0 0).port d p = m.port d p := Mach.port_dies (Mach.wr_dies ..)
  unfold Mach.replayAsked
  rw [Mach.port_modPort_same (by rwa [Mach.cnt, Mach.wr_dies]), hport]
  intro h
  simpa [PortSt.init] using congrArg PortSt.replays h

theorem Mach.linkReceive_replay {m : Mach} {d p : Nat} (hup : m.portUp d p = true) (hdies : smSorted m.dies = true)
    (hfew : (m.port d p).replays < 15) :
    m.linkReceive d p .replay = (m.replayAsked d p).send 0x09 ((8 * d + p) :: (m.port d p).replay.map (·.1)) := by
  have hport := Mach.port_replayAsked (d := d) (p := p) hdies
  unfold Mach.linkReceive
  simp only [hup, Bool.not_true, Bool.false_eq_true, if_false]
  unfold Mach.replayAsked at hport ⊢
  rw [hport]
  exact if_neg (show ¬ 16 ≤ (m.port d p).replays + 1 by omega)

/-- Settles O52: each packet kind goes down its own branch; a port that counted a replay reads back from its map. -/
theorem linkRetry : Obligations.LinkRetry := by
  intro s d p hd hup want g
  have run (e : LinkEvent) : exec (.linkPacketReceive d p e) s = .next (s.setM (s.m.linkReceive d p e)) :=
    (exec_linkPacketReceive d p e s).trans (State.onDie_run hd)
  refine ⟨?_, ?_, ?_, ?_, ?_, ?_⟩
  · exact fun seq ok n h => (run _).trans (s.next_setM_congr (Mach.linkReceive_bad hup h))
  · exact fun seq n h => (run _).trans (s.next_setM_congr (Mach.linkReceive_again hup h))
  · exact fun n => (run _).trans (s.next_setM_congr (Mach.linkReceive_next hup))
  · exact fun seq => (run _).trans (s.next_setM_congr (Mach.linkReceive_ack hup))
  · exact fun n => (run _).trans (s.next_setM_congr (Mach.linkReceive_corrected hup))
  · intro hfew hdies
    have hport := Mach.port_replayAsked (d := d) (p := p) hdies
    refine ⟨_, (run _).trans (s.next_setM_congr (Mach.linkReceive_replay hup hdies hfew)), ?_, ?_, rfl, rfl, rfl⟩
    · exact (congrArg PortSt.replays hport :)
    · exact (congrArg PortSt.replay hport :)

/-! ### Passing packets -/

/-- A change of the fabric's part of one die. -/
structure Mach.OnlyFabric (m m' : Mach) : Prop where
  mem : m'.mem = m.mem
  ecc : m'.ecc = m.ecc
  cores : m'.cores = m.cores
  sorted : m'.regsSorted
  dies : smSorted m'.dies = true
  cache : ∀ e, (m'.die e).cache = (m.die e).cache
  colQ : ∀ e, (m'.die e).colQ = (m.die e).colQ
  col : ∀ e, (m'.die e).col = (m.die e).col
  reg : ∀ id : RegId, id.reg ≠ .fabCnt → id.reg ≠ .fabPortCnt → m'.reg id = m.reg id

namespace Mach.OnlyFabric
variable {m m' : Mach}

theorem refl (hregs : m.regsSorted) (hdies : smSorted m.dies = true) : OnlyFabric m m :=
  ⟨rfl, rfl, rfl, hregs, hdies, fun _ => rfl, fun _ => rfl, fun _ => rfl, fun _ _ _ => rfl⟩

variable (h : OnlyFabric m m')
include h

theorem cnt {r : Reg} (hr : r = .fabCnt ∨ r = .fabPortCnt) (d i n c j : Nat) : OnlyFabric m (m'.cnt r d i n c j) where
  mem := h.mem
  ecc := h.ecc
  cores := h.cores
  sorted := Mach.regsSorted_cnt h.sorted ..
  dies := h.dies
  cache := h.cache
  colQ := h.colQ
  col := h.col
  reg id h1 h2 := by
    refine (Mach.reg_setReg_ne _ _ _ _ h.sorted ?_).trans (h.reg id h1 h2)
    rintro rfl
    exact hr.elim h1 h2

theorem modPort (d p : Nat) (f : PortSt → PortSt) : OnlyFabric m (m'.modPort d p f) where
  mem := h.mem
  ecc := h.ecc
  cores := h.cores
  sorted := h.sorted
  dies := smSorted_smSet _ _ _ _ h.dies
  cache e := by
    by_cases he : e = d
    · subst he
      rw [Mach.modPort, Mach.modFab, Mach.die_modDie_same _ _ _ h.dies]
      exact h.cache e
    · rw [Mach.die_modPort_ne h.dies f he, h.cache]
  colQ e := by
    by_cases he : e = d
    · subst he
      rw [Mach.modPort, Mach.modFab, Mach.die_modDie_same _ _ _ h.dies]
      exact h.colQ e
    · rw [Mach.die_modPort_ne h.dies f he, h.colQ]
  col e := by
    by_cases he : e = d
    · subst he
      rw [Mach.modPort, Mach.modFab, Mach.die_modDie_same _ _ _ h.dies]
      exact h.col e
    · rw [Mach.die_modPort_ne h.dies f he, h.col]
  reg id h1 h2 := (Mach.reg_congr (Mach.modDie_regs _ _ _) id).trans (h.reg id h1 h2)

theorem send (tag : Nat) (words : List Nat) : OnlyFabric m (m'.send tag words) :=
  ⟨h.mem, h.ecc, h.cores, h.sorted, h.dies, h.cache, h.colQ, h.col, h.reg⟩

theorem putOnLink (d p : Nat) (x : Packet) : OnlyFabric m (m'.putOnLink d p x) :=
  ((((h.modPort d p _).cnt (.inr rfl) d p 1 0 4).cnt (.inr rfl) d p x.bytes 0 6)).send _ _

end Mach.OnlyFabric

/-- The counters of a passing packet: how it was routed, and that it is another module's (R360, R365). -/
def Mach.passed (m : Mach) (d : Nat) (x : Packet) (why : RouteBy) : Mach :=
  let m' := match why with
    | .plain => m
    | .lost => m.cnt .fabCnt d 10
    | .entry => m.cnt .fabCnt d 11
  if x.src = m'.node d then m' else m'.cnt .fabCnt d 12

section
variable {m : Mach} {d : Nat} {x : Packet}

theorem Mach.passed_onlyFabric (why : RouteBy) (hregs : m.regsSorted) (hdies : smSorted m.dies = true) :
    m.OnlyFabric (m.passed d x why) := by
  have h := Mach.OnlyFabric.refl hregs hdies
  have noted {m' : Mach} (routed : m.OnlyFabric m') : m.OnlyFabric (if x.src = m'.node d then m' else m'.cnt .fabCnt d 12) := by
    split
    · exact routed
    · exact routed.cnt (.inl rfl) ..
  cases why with
  | plain => exact noted h
  | lost => exact noted (h.cnt (.inl rfl) ..)
  | entry => exact noted (h.cnt (.inl rfl) ..)

theorem Mach.passed_dies (why : RouteBy) : (m.passed d x why).dies = m.dies := by
  unfold Mach.passed
  cases why <;> dsimp only <;> split <;> rfl

theorem Mach.passed_out (why : RouteBy) : (m.passed d x why).out = m.out := by
  unfold Mach.passed
  cases why <;> dsimp only <;> split <;> rfl

theorem Mach.putOnLink_out (pd p : Nat) : (m.putOnLink pd p x).out =
    (m.send 0x0A ([8 * pd + p, (m.port pd p).txSeq, x.src, x.dest, x.job, x.epoch, x.hops, x.bytes, b2n x.escape] ++ x.detour)).out := rfl

section
variable (hsilent : m.silent = false) (hlost : m.isLost d x.dest = false) (hdest : x.dest ≠ m.node d)
include hsilent hlost hdest

theorem Mach.forward_stale (h : (x.epoch ≠ m.get Fld.fabRouteCtl_epoch d ∧ (x.epoch + 1) % 2 ^ 16 ≠ m.get Fld.fabRouteCtl_epoch d) ∨ 96 ≤ x.hops) :
    m.forward d x = (m.cnt .fabCnt d 3).ev Fld.fabEvents_discarded d := by
  unfold Mach.forward
  exact (if_neg (by simp [hsilent, hlost, hdest])).trans (if_pos h)

theorem Mach.forward_passes {dir pd p : Nat} {rest : List Nat} {why : RouteBy}
    (h : ¬ ((x.epoch ≠ m.get Fld.fabRouteCtl_epoch d ∧ (x.epoch + 1) % 2 ^ 16 ≠ m.get Fld.fabRouteCtl_epoch d) ∨ 96 ≤ x.hops))
    (hroute : m.route d x = some (dir, rest, why)) (hport : m.pickPort dir = some (pd, p)) :
    m.forward d x = (m.passed d x why).putOnLink pd p
      { x with hops := x.hops + 1, escape := x.escape || why != .plain, detour := rest } := by
  unfold Mach.forward
  refine (if_neg (by simp [hsilent, hlost, hdest])).trans ((if_neg h).trans ?_)
  simp only [hroute, hport]
  unfold Mach.passed
  cases why <;> rfl

end
end

/-- Settles O53: a packet is discarded, or counted and put on a link, which moves the fabric's counters and the port's state alone. -/
theorem passingPacketsTouchNothing : Obligations.PassingPacketsTouchNothing := by
  intro s d x hd hsilent hlost hdest hregs hdies cur stale
  have run : exec (.packetForward d x) s = .next (s.setM (s.m.forward d x)) :=
    (exec_packetForward d x s).trans (State.onDie_run hd)
  refine ⟨fun h => run.trans (s.next_setM_congr (Mach.forward_stale hsilent hlost hdest h)), ?_⟩
  intro dir rest why pd p hfresh hroute hport
  have only := (Mach.passed_onlyFabric (x := x) (d := d) why hregs hdies).putOnLink pd p
    { x with hops := x.hops + 1, escape := x.escape || why != .plain, detour := rest }
  refine ⟨_, run.trans (s.next_setM_congr (Mach.forward_passes hsilent hlost hdest hfresh hroute hport)), ?_,
    only.mem, only.ecc, only.cores, fun e => ⟨only.cache e, only.colQ e, only.col e⟩, only.reg, rfl⟩
  exact (Mach.putOnLink_out pd p).trans (by simp only [Mach.send, Mach.passed_out, Mach.port_dies (Mach.passed_dies why)])

end Sys2Proof.Machine
end

section
/-! SUPPORT and proofs. The rows of the dies and what a die reset leaves (R306, R413, R417, R419, R421, R449, R478). -/

namespace Sys2Proof.Machine

/-! ### Operations that keep the maps in their form -/

/-- `m'` has its maps in their form, and die `d`'s incarnation and the dies in reset as in `m`. -/
structure Mach.Ordered (d : Nat) (m m' : Mach) : Prop where
  regs : m'.regsSorted
  dies : smSorted m'.dies = true
  cores : smSorted m'.cores = true
  resetting : m'.cp.resetting = m.cp.resetting
  inc : (m'.die d).fab.inc = (m.die d).fab.inc

namespace Mach.Ordered

theorem refl (d : Nat) {m : Mach} (hregs : m.regsSorted) (hdies : smSorted m.dies = true) (hcores : smSorted m.cores = true) :
    Ordered d m m := ⟨hregs, hdies, hcores, rfl, rfl⟩

section
variable {d : Nat} {m m' : Mach} (h : Ordered d m m')
include h

/-- What leaves registers, dies, cores and the dies in reset as they are. -/
theorem of_eq {m'' : Mach} (hregs : m''.regs = m'.regs) (hdies : m''.dies = m'.dies) (hcores : m''.cores = m'.cores)
    (hres : m''.cp.resetting = m'.cp.resetting) : Ordered d m m'' where
  regs := by simpa only [Mach.regsSorted, hregs] using h.regs
  dies := hdies ▸ h.dies
  cores := hcores ▸ h.cores
  resetting := hres.trans h.resetting
  inc := by rw [Mach.die, hdies]; exact h.inc

theorem wr (r : Reg) (x v i c j : Nat) : Ordered d m (m'.wr r x v i c j) :=
  ⟨Mach.regsSorted_setReg _ _ _ h.regs, h.dies, h.cores, h.resetting, h.inc⟩

theorem put (f : Fld) (x v i c j : Nat) : Ordered d m (m'.put f x v i c j) := h.wr _ x _ i c j

theorem cnt (r : Reg) (x i n c j : Nat) : Ordered d m (m'.cnt r x i n c j) := h.wr _ x _ i c j

theorem modCore (x c : Nat) (f : Core → Core) : Ordered d m (m'.modCore x c f) :=
  ⟨h.regs, h.dies, smSorted_smSet _ _ _ _ h.cores, h.resetting, h.inc⟩

theorem modDie {f : Die → Die} (hf : ∀ y, (f y).fab.inc = y.fab.inc) (x : Nat) : Ordered d m (m'.modDie x f) where
  regs := h.regs
  dies := smSorted_smSet _ _ _ _ h.dies
  cores := h.cores
  resetting := h.resetting
  inc := by
    by_cases hx : d = x
    · rw [← hx, Mach.die_modDie_same _ _ _ h.dies, hf, h.inc]
    · rw [Mach.die_modDie_ne _ _ _ _ h.dies hx, h.inc]

theorem modCache (x : Nat) (f : CacheSt → CacheSt) : Ordered d m (m'.modCache x f) :=
  h.modDie (f := fun y => { y with cache := f y.cache }) (fun _ => rfl) x

theorem modTime (x : Nat) (f : DieTime → DieTime) : Ordered d m (m'.modTime x f) :=
  h.modDie (f := fun y => { y with time := f y.time }) (fun _ => rfl) x

theorem emitRec (x k : Nat) (a b : Bool) (fs : List (Nat × Nat)) (p q : Bool) (l : List Nat) : Ordered d m (m'.emitRec x k a b fs p q l) :=
  h.modDie (f := fun y => { y with records := y.records ++
    [{ kind := k, masked := a, restartable := b, die := x, ft := m'.ft x, payload := packFields fs 0 0, toCp := p, toMc := q, parts := l }] })
    (fun _ => rfl) x

theorem ite {p : Prop} [Decidable p] {m'' : Mach} (h' : Ordered d m m'') : Ordered d m (if p then m' else m'') := by
  split
  · exact h
  · exact h'

end

theorem foldl {d : Nat} {m m' : Mach} {α : Type} {f : Mach → α → Mach} (hf : ∀ x a, Ordered d m x → Ordered d m (f x a)) (l : List α)
    (h : Ordered d m m') : Ordered d m (l.foldl f m') :=
  foldl_keeps (Ordered d m) f hf l m' h

section
variable {d : Nat} {m m' : Mach} (h : Ordered d m m')
include h

theorem dcCnt (x n k : Nat) : Ordered d m (m'.dcCnt x n k) := (h.cnt _ x n k 0 0).ite h

theorem setRaw (a : Nat) (bs : List Byte) : Ordered d m (m'.setRaw a bs) := by
  induction bs generalizing a m' with
  | nil => exact h
  | cons b bs ih => exact ih (h.of_eq (m'' := m'.setByte a b) rfl rfl rfl rfl) (a + 1)

theorem storeSector (a : Nat) (bs : List Byte) (poison : Bool) : Ordered d m (m'.storeSector a bs poison) :=
  ((h.cnt .hbmCnt _ 1 1 _ 0).setRaw _ bs).of_eq rfl rfl rfl rfl

theorem darkPort (x p : Nat) : Ordered d m (m'.darkPort x p) :=
  (((h.put _ x _ p 0 0).put _ x _ p 0 0).put _ x _ p 0 0).put _ x _ p 0 0

theorem darkPorts (x : Nat) : Ordered d m (m'.darkPorts x) :=
  (foldl (fun _ p hy => hy.darkPort x p) _ h).modDie (f := fun y => { y with fab := { y.fab with ports := litPorts y.fab.ports false } })
    (fun _ => rfl) x

theorem goSilent : Ordered d m m'.goSilent :=
  h.ite (foldl (fun _ x hy => hy.darkPorts x) _ (h.of_eq (m'' := { m' with silent := true }.send 0x03 []) rfl rfl rfl rfl))

theorem bludjanLost : Ordered d m m'.bludjanLost := h.goSilent.of_eq rfl rfl rfl rfl

theorem gdWrite (a : Nat) (bs : List Byte) (poison : Bool) : Ordered d m (m'.gdWrite a bs poison) := by
  have written := (h.cnt .gdCnt sdDie 1 1 0 0).setRaw (a / 32 * 32) bs
  unfold Mach.gdWrite
  extract_lets
  split
  · split
    · exact written
    · split
      · refine put ?_ ..
        exact written.of_eq rfl rfl rfl rfl
      · exact (written.emitRec ..).bludjanLost
  · refine put ?_ ..
    exact written.of_eq rfl rfl rfl rfl

theorem memWrite (a : Nat) (bs : List Byte) (poison mirror : Bool) : Ordered d m (m'.memWrite a bs poison mirror) :=
  ite (ite ((h.storeSector a bs poison).storeSector _ bs poison) (h.storeSector a bs poison)) (h.gdWrite a bs poison)

theorem writeBack (l : Line) (mask : Nat) : Ordered d m (m'.writeBack l mask) :=
  h.ite (foldl (fun _ _ hy => (hy.memWrite _ _ _ _).dcCnt _ 2 1) _ h)

theorem l1Invalidate (x a : Nat) (keep : Option Nat) : Ordered d m (m'.l1Invalidate x a keep) := by
  refine ite (foldl (fun y c hy => hy.ite ?_) _ h) h
  split
  · exact hy
  · have dropped := (hy.modCore x c (fun k => { k with l1 := k.l1.filter (fun l => l.addr != lineBase a) })).cnt .dcL1Cnt x 4 1 c 0
    exact dropped.ite (dropped.cnt _ x 8 1 c 0)

theorem noteUnused (x : Nat) (l : Line) : Ordered d m (m'.noteUnused x l) := by
  unfold Mach.noteUnused
  split
  · exact h
  · exact h
  · exact h.dcCnt x 15 1
  · exact h.dcCnt x 19 1

theorem giveUp (x a : Nat) : Ordered d m (m'.giveUp x a) := by
  unfold Mach.giveUp
  split
  · exact h
  · next l _ =>
    have dropped := ((h.l1Invalidate x a none).modCache x (fun c => { c with lines := c.lines.filter (fun l => !l.isAt none a) })).noteUnused x l
    extract_lets
    split
    · exact dropped.ite (dropped.modCache _ _)
    · exact dropped.writeBack _ _

theorem recallFrom (x a : Nat) : Ordered d m (m'.recallFrom x a) := ((h.giveUp x a).dcCnt _ 3 1).ite h

theorem retryOcc (x : Nat) : Ordered d m (m'.retryOcc x) := h.put _ x _ 0 0 0

theorem dropGrants (p : Grant → Bool) : Ordered d m (m'.dropGrants p) :=
  foldl (fun _ x hy => (hy.modCache x _).ite hy) _ h

theorem flushDie (x : Nat) : Ordered d m (m'.flushDie x) := by
  have recalled := foldl (d := d) (m := m) (f := fun m' y => if y = x then m'
      else ((m'.cache y).lines.filter (fun l => l.node.isNone && homeDie l.addr == x)).foldl (fun m l => m.recallFrom y l.addr) m')
    (fun _ y hy => hy.ite (foldl (fun _ l hz => hz.recallFrom y l.addr) _ hy)) nineDies h
  unfold Mach.flushDie
  extract_lets m1 m2 k m3 m4 m5
  have given : Ordered d m m2 := foldl (fun _ l hy => (hy.giveUp x l.addr).ite (hy.writeBack l _)) _ recalled
  have refilled : Ordered d m m3 := foldl (fun _ f hy => hy.modCache f.into _) _ given
  have cleared : Ordered d m m4 := foldl (fun _ y hy => (hy.modCache y _).retryOcc y) _ refilled
  exact (cleared.dropGrants _).modCache x _

theorem marginEnd (x state written : Nat) : Ordered d m (m'.marginEnd x state written) := by
  unfold Mach.marginEnd
  split
  · exact h
  · next y _ =>
    extract_lets swept m1 sectors m2
    have counted : Ordered d m m2 := by
      refine put (cnt ?_ ..) ..
      exact h.of_eq rfl rfl rfl rfl
    exact counted.of_eq rfl rfl rfl rfl

theorem disown (x : Nat) (mine : ThreadRef → Bool) : Ordered d m (m'.disown x mine) := by
  have left := h.modDie (f := fun y => { y with fab := { y.fab with
    unacked := y.fab.unacked.map (fun u => { u with for_ := u.for_.without mine }),
    waiting := y.fab.waiting.map (fun u => { u with for_ := u.for_.without mine }) } }) (fun _ => rfl) x
  exact ite (foldl (fun _ y hy => hy.modCache y _) _ left) left

end
end Mach.Ordered

/-! ### Dropping registers, and cores as at reset -/

theorem smSorted_filter {α : Type} (p : Nat × α → Bool) (m : SMap α) (h : smSorted m = true) : smSorted (m.filter p) = true := by
  induction m with
  | nil => rfl
  | cons e m ih =>
    obtain ⟨k, v⟩ := e
    simp only [smSorted, Bool.and_eq_true] at h
    obtain ⟨habove, hsorted⟩ := h
    rw [List.filter_cons]
    split
    · simp only [smSorted, smAbove_filter p m k habove, ih hsorted, Bool.and_self]
    · exact ih hsorted

theorem smGet_filter_of_dropped {α : Type} (d : α) (p : Nat × α → Bool) (m : SMap α) (k : Nat) (h : ∀ v, p (k, v) = false) :
    smGet d (m.filter p) k = d := by
  induction m with
  | nil => rfl
  | cons e m ih =>
    obtain ⟨k', v⟩ := e
    rw [List.filter_cons]
    split
    · next hp =>
      have hne : k' ≠ k := by
        rintro rfl
        simp [h] at hp
      simpa [smGet, hne] using ih
    · exact ih

section
variable {m : Mach} {d : Nat} {p : Nat → Nat → Bool} (hregs : m.regsSorted)
include hregs

theorem Mach.regsSorted_dropRegs : (m.dropRegs d p).regsSorted := by
  refine ⟨smSorted_smSet _ _ _ _ hregs.1, fun x => ?_⟩
  by_cases hx : x = d
  · subst hx
    exact (congrArg smSorted (smGet_smMod_same _ _ _ _ hregs.1)).trans (smSorted_filter _ _ (hregs.2 x))
  · exact (congrArg smSorted (smGet_smMod_ne _ _ _ _ _ hregs.1 hx)).trans (hregs.2 x)

/-- A register that is dropped reads as at reset. -/
theorem Mach.reg_dropRegs {id : RegId} (h : p id.reg.code id.core = true) (hd : id.die = d) :
    (m.dropRegs d p).reg id = (BitVec.ofNat 64 (resetOf id)).toNat := by
  subst hd
  unfold Mach.reg Mach.dropRegs
  rw [smGet_smMod_same _ _ _ _ hregs.1, smGet_filter_of_dropped _ _ _ _ (fun v => ?_)]
  simp only [keyReg, RegId.key, Nat.unpair_pair, h, Bool.not_true]

end

theorem Mach.ftState_dropRegs {m : Mach} {d : Nat} (hregs : m.regsSorted) :
    (m.dropRegs d (fun r _ => !keptRegs.contains r)).ftState d = 0 := by
  unfold Mach.ftState Mach.get Mach.rd
  have hreset : resetOf ⟨.ftStatus, d, 0, 0, 0⟩ = resetFields Reg.ftStatusInfo.fields 0 := rfl
  have hstate : bitsOf (resetFields Reg.ftStatusInfo.fields 0 % 2 ^ 64) 1 0 = 0 := by decide
  rw [Mach.reg_dropRegs (id := ⟨.ftStatus, d, 0, 0, 0⟩) hregs rfl rfl, BitVec.toNat_ofNat, hreset]
  exact hstate

/-- The cores of die `d` in the list as at reset. -/
def Mach.coresInit (m : Mach) (d : Nat) (cs : List Nat) : Mach := cs.foldl (fun m c => m.modCore d c (fun _ => Core.init)) m

theorem Mach.coresInit_fields (m : Mach) (d : Nat) (cs : List Nat) :
    (m.coresInit d cs).regs = m.regs ∧ (m.coresInit d cs).dies = m.dies ∧ (m.coresInit d cs).cp = m.cp := by
  induction cs generalizing m with
  | nil => exact ⟨rfl, rfl, rfl⟩
  | cons c cs ih => exact ih (m.modCore d c (fun _ => Core.init))

theorem Mach.coresInit_sorted {m : Mach} (h : smSorted m.cores = true) (d : Nat) (cs : List Nat) :
    smSorted (m.coresInit d cs).cores = true :=
  foldl_keeps (fun m => smSorted m.cores = true) _ (fun _ _ hm => smSorted_smSet _ _ _ _ hm) cs m h

/-- A core that is as at reset, or is set so, is so in the end. -/
theorem Mach.core_coresInit {m : Mach} (h : smSorted m.cores = true) {d c : Nat} {cs : List Nat} (hc : c ∈ cs ∨ m.core d c = Core.init) :
    (m.coresInit d cs).core d c = Core.init := by
  induction cs generalizing m with
  | nil => exact hc.resolve_left (List.not_mem_nil)
  | cons x cs ih =>
    refine ih (m := m.modCore d x (fun _ => Core.init)) (smSorted_smSet _ _ _ _ h) ?_
    by_cases hx : c = x
    · exact .inr (hx ▸ Mach.core_modCore_same m d x _ h)
    · rw [Mach.core_modCore_ne _ _ _ _ _ _ h (by simp [coreKey, hx])]
      exact hc.imp_left (fun hm => (List.mem_cons.1 hm).resolve_left hx)

/-! ### A die loses a source while the module is unlocked -/

/-- `m'` is in its form, and has the cores and the lock state of die `d` as in `m`. -/
structure Mach.Untouched (d : Nat) (m m' : Mach) : Prop where
  ordered : Ordered d m m'
  cores_eq : m'.cores = m.cores
  state : m'.ftState d = m.ftState d

namespace Mach.Untouched

section
variable {d : Nat} {m m' : Mach} (h : Untouched d m m')
include h

/-- A register of another die. -/
theorem wr {x : Nat} (hx : x ≠ d) (r : Reg) (v i c j : Nat) : Untouched d m (m'.wr r x v i c j) where
  ordered := h.ordered.wr ..
  cores_eq := h.cores_eq
  state := by
    rw [← h.state]
    exact congrArg (fun v => bitsOf v _ _) (Mach.rd_wr_ne _ _ _ _ _ _ _ _ _ _ _ _ h.ordered.regs (by simp [hx.symm]))

theorem put {x : Nat} (hx : x ≠ d) (f : Fld) (v i c j : Nat) : Untouched d m (m'.put f x v i c j) := h.wr hx ..

/-- The flag that shows whether the module is unlocked is not the lock state. -/
theorem putUnlocked (x v : Nat) : Untouched d m (m'.put Fld.ftStatus_module_unlocked x v) where
  ordered := h.ordered.put ..
  cores_eq := h.cores_eq
  state := by
    by_cases hx : x = d
    · subst hx
      refine Eq.trans ?_ h.state
      unfold Mach.ftState
      exact Mach.get_put_disjoint m' Fld.ftStatus_module_unlocked Fld.ftStatus_state x v 0 0 0 h.ordered.regs rfl
        (by decide) (by decide) (by decide)
    · exact (h.put hx Fld.ftStatus_module_unlocked v 0 0 0).state

theorem modTime (x : Nat) (f : DieTime → DieTime) : Untouched d m (m'.modTime x f) :=
  ⟨h.ordered.modTime x f, h.cores_eq, h.state⟩

theorem ite {p : Prop} [Decidable p] {m'' : Mach} (h' : Untouched d m m'') : Untouched d m (if p then m' else m'') := by
  split
  · exact h
  · exact h'

/-- A module that was unlocked before sends no record of it. -/
theorem moduleLockFollow : Untouched d m (m'.moduleLockFollow true) := by
  unfold Mach.moduleLockFollow
  simp only [Bool.not_true, Bool.and_false, Bool.false_eq_true, if_false]
  exact foldl_keeps (Untouched d m) _ (fun y x hy => hy.putUnlocked x _) _ _ h

section
variable (hd : d < 9) (hlow : m.ftState d < 2)
include hd hlow

theorem moduleUnlocked : m'.moduleUnlocked = true := by
  have hstate := h.state
  simp only [Mach.moduleUnlocked, List.any_eq_true]
  exact ⟨d, List.mem_range.2 hd, by simp only [Mach.dieLocked, hstate]; simpa using hlow⟩

variable {x : Nat} (hx : x ≠ d)
include hx

theorem ftEnter (s : Nat) : Untouched d m (m'.ftEnter x s) := by
  unfold Mach.ftEnter
  rw [h.moduleUnlocked hd hlow]
  extract_lets old was shown lost held timed
  refine h.ite (moduleLockFollow (m' := timed) (modTime (m' := held) ?_ _ _))
  have hshown : Untouched d m shown := (h.put hx ..).put hx ..
  have hlost : Untouched d m lost := ite ((hshown.put hx ..).wr hx ..) hshown
  exact ite ((hlost.put hx ..).modTime ..) hlost

omit hd hlow in
theorem showSource (s : TimeSource) : Untouched d m (m'.showSource x s) := by
  have shown : Untouched d m (m'.setGm x s.gm s.epoch (s.hop + 1)) :=
    ((ite h (h.put hx Fld.ftEvents_gm_changed 1 0 0 0)).put hx _ _ 0 0 0).put hx _ _ 0 0 0 |>.put hx _ _ 0 0 0
  unfold Mach.showSource
  extract_lets
  split
  · exact (shown.wr hx ..).put hx ..
  · exact shown

theorem takeSource (s : TimeSource) : Untouched d m (m'.takeSource x s) := by
  unfold Mach.takeSource
  extract_lets st cur shown timed
  have htimed : Untouched d m timed := (showSource (h.put hx ..) hx s).modTime ..
  clear_value timed st
  refine h.ite ?_
  split
  · exact htimed.ftEnter hd hlow hx _
  · exact htimed.modTime ..
  · exact htimed.ftEnter hd hlow hx _
  · exact htimed

theorem noSource : Untouched d m (m'.noSource x) := by
  have shown := (h.put hx Fld.ftStatus_upstream 0xFF 0 0 0).put hx Fld.ftStatus_hop_count 0x3F 0 0 0
  unfold Mach.noSource
  extract_lets
  split
  · exact shown.ftEnter hd hlow hx _
  · exact shown.ftEnter hd hlow hx _
  · exact shown

theorem selectSource : Untouched d m (m'.selectSource x) := by
  unfold Mach.selectSource
  refine h.ite ?_
  extract_lets
  split
  · split
    · exact h.takeSource hd hlow hx _
    · exact h.noSource hd hlow hx
  · extract_lets
    split
    · exact h.takeSource hd hlow hx _
    · exact h

theorem loseSource (src : Nat) : Untouched d m (m'.loseSource x src) := (h.modTime x _).selectSource hd hlow hx

end
end

end Mach.Untouched

/-! ### A die reset -/

/-- Die `d` is being reset, is not locked, and has incarnation `n`; the maps are in their form. -/
structure Mach.InReset (d n : Nat) (m : Mach) : Prop where
  regs : m.regsSorted
  dies : smSorted m.dies = true
  cores : smSorted m.cores = true
  resetting : m.cp.resetting.testBit d = true
  state : m.ftState d = 0
  inc : (m.die d).fab.inc = n

namespace Mach.InReset
variable {d n : Nat} {m m' : Mach}

theorem of_eq (h : InReset d n m) (hregs : m'.regs = m.regs) (hdies : m'.dies = m.dies) (hcores : m'.cores = m.cores)
    (hcp : m'.cp = m.cp) : InReset d n m' where
  regs := by simpa only [Mach.regsSorted, hregs] using h.regs
  dies := hdies ▸ h.dies
  cores := hcores ▸ h.cores
  resetting := hcp ▸ h.resetting
  state := (congrArg (fun v => bitsOf v _ _) (Mach.reg_congr hregs _)).trans h.state
  inc := by rw [Mach.die, hdies]; exact h.inc

theorem coresInit (h : InReset d n m) (cs : List Nat) : InReset d n (m.coresInit d cs) := by
  obtain ⟨hregs, hdies, hcp⟩ := Mach.coresInit_fields m d cs
  have told : InReset d n { m.coresInit d cs with cores := m.cores } := h.of_eq hregs hdies rfl hcp
  exact ⟨told.regs, told.dies, Mach.coresInit_sorted h.cores d cs, told.resetting, told.state, told.inc⟩

theorem untouched (h : InReset d n m) : Untouched d m m := ⟨Ordered.refl d h.regs h.dies h.cores, rfl, rfl⟩

/-- What is left once the other dies have lost the die as a source. -/
theorem of_untouched (h : InReset d n m) (h' : Untouched d m m') : InReset d n m' :=
  ⟨h'.ordered.regs, h'.ordered.dies, h'.ordered.cores, h'.ordered.resetting ▸ h.resetting, h'.state.trans h.state,
    h'.ordered.inc.trans h.inc⟩

end Mach.InReset

/-- The caches, margin runs and accesses of the die are gone, and it is among the dies in reset. -/
def Mach.taken (m : Mach) (d : Nat) : Mach :=
  let m := ((m.flushDie d).marginEnd d 3 0).disown d (fun _ => true)
  let keys := (recordRegs d).map RegId.key
  let saved := (smGet [] m.regs d).filter (fun e => keys.contains e.1)
  { m with cp := { m.cp with saved := smSet [] m.cp.saved d saved, resetting := m.cp.resetting + 2 ^ d } }

section
variable {m : Mach} {d : Nat} (hd : d < 8) (hres : m.cp.resetting.testBit d = false) (hregs : m.regsSorted)
  (hdies : smSorted m.dies = true) (hcores : smSorted m.cores = true)
include hregs hdies hcores hres

theorem Mach.taken_inReset : Mach.InReset d (m.die d).fab.inc ((m.taken d).dropRegs d (fun r _ => !keptRegs.contains r)) := by
  have flushed : Mach.Ordered d m (((m.flushDie d).marginEnd d 3 0).disown d (fun _ => true)) :=
    (((Mach.Ordered.refl d hregs hdies hcores).flushDie d).marginEnd ..).disown ..
  unfold Mach.taken
  extract_lets m1 keys saved
  clear_value saved
  change Mach.Ordered d m m1 at flushed
  clear_value m1
  refine ⟨Mach.regsSorted_dropRegs flushed.regs, flushed.dies, flushed.cores, ?_, Mach.ftState_dropRegs flushed.regs, flushed.inc⟩
  change (m1.cp.resetting + 2 ^ d).testBit d = true
  rw [flushed.resetting, Nat.add_comm, Nat.testBit_two_pow_add_eq, hres, Bool.not_false]

end

/-- What a die keeps of itself through its reset. -/
def Die.kept (x : Die) : Die :=
  { Die.init with records := x.records, cache := x.cache, snap := x.snap,
                  fab := { FabSt.init with inc := (x.fab.inc + 1) % 2 ^ 16, sources := x.fab.sources, ports := litPorts x.fab.ports true },
                  pwr := { PwrSt.init with cap := x.pwr.cap, capPend := x.pwr.capPend } }

theorem Mach.InReset.kept {m : Mach} {d n : Nat} (h : m.InReset d n) : (m.modDie d Die.kept).InReset d ((n + 1) % 2 ^ 16) where
  regs := h.regs
  dies := smSorted_smSet _ _ _ _ h.dies
  cores := h.cores
  resetting := h.resetting
  state := h.state
  inc := by
    rw [Mach.die_modDie_same _ _ _ h.dies, ← h.inc]
    rfl

/-- The die's registers, its own state and its cores are as at reset. -/
def Mach.blank (m : Mach) (d : Nat) : Mach :=
  (((m.taken d).dropRegs d (fun r _ => !keptRegs.contains r)).modDie d Die.kept).coresInit d (List.range 32)

/-- The launches of a partition whose lowest die it is are gone, and so is a grandmaster's role. -/
def Mach.unled (m : Mach) (d : Nat) : Mach :=
  let m := match m.partOf d with
    | some p => if p.low = d then m.modPart p.slot (fun x => { x with launches := [] }) else m
    | none => m
  if d = 0 then { m with mt := { m.mt with gm := false, heardAt := 0, ppsAt := none } } else m

theorem Mach.unled_fields (m : Mach) (d : Nat) :
    (m.unled d).regs = m.regs ∧ (m.unled d).dies = m.dies ∧ (m.unled d).cores = m.cores ∧ (m.unled d).cp = m.cp := by
  unfold Mach.unled
  cases m.partOf d with
  | none => dsimp only; split <;> exact ⟨rfl, rfl, rfl, rfl⟩
  | some p => dsimp only; split <;> split <;> exact ⟨rfl, rfl, rfl, rfl⟩

theorem Mach.dieReset_eq {m : Mach} {d : Nat} (hres : m.cp.resetting.testBit d = false) (hd : d < 8) : m.dieReset d =
    (nineDies.foldl (fun m x => if x = d then m else m.loseSource x (64 + d)) ((m.blank d).unled d)).moduleLockFollow m.moduleUnlocked := by
  unfold Mach.dieReset
  rw [if_neg (by simp [hres, hd])]
  extract_lets was m1 keys saved _ m2 m3 _ _ _ m4 m5 m6 times m7 m8
  have hflushed : m1 = ((m.flushDie d).marginEnd d 3 0).disown d (fun _ => true) := rfl
  clear_value m1
  have htaken : m2 = m.taken d := by
    unfold Mach.taken
    rw [← hflushed]
  clear_value m2
  have hkept : m4 = m3.modDie d Die.kept := rfl
  clear_value m4
  have hblank : m5 = m.blank d := by
    simp only [m5, hkept, m3, htaken]
    rfl
  clear_value m5
  have hunled : m7 = m5.unled d := by
    unfold Mach.unled
    cases hpart : m5.partOf d <;> simp only [m7, m6, times, hpart]
  rw [← hblank, ← hunled]

section
variable {m : Mach} {d : Nat} (hd : d < 8) (hres : m.cp.resetting.testBit d = false) (hregs : m.regsSorted)
  (hdies : smSorted m.dies = true) (hcores : smSorted m.cores = true)
include hregs hdies hcores hres

theorem Mach.unled_blank_inReset :
    ((m.blank d).unled d).InReset d (((m.die d).fab.inc + 1) % 2 ^ 16) ∧ ∀ c, c < 32 → ((m.blank d).unled d).core d c = Core.init := by
  have kept := (Mach.taken_inReset hres hregs hdies hcores).kept
  have blank : (m.blank d).InReset d (((m.die d).fab.inc + 1) % 2 ^ 16) := kept.coresInit _
  obtain ⟨h1, h2, h3, h4⟩ := Mach.unled_fields (m.blank d) d
  exact ⟨blank.of_eq h1 h2 h3 h4, fun c hc => (Mach.core_of_cores h3 d c).trans (Mach.core_coresInit kept.cores (.inl (List.mem_range.2 hc)))⟩

include hd in
/-- What a die reset leaves of its die: it is being reset, its cores are as at reset and its incarnation has moved on. -/
theorem Mach.dieReset_leaves (hunlocked : m.moduleUnlocked = true) :
    (m.dieReset d).InReset d (((m.die d).fab.inc + 1) % 2 ^ 16) ∧ ∀ c, c < 32 → (m.dieReset d).core d c = Core.init := by
  obtain ⟨h, hinit⟩ := Mach.unled_blank_inReset hres hregs hdies hcores
  rw [Mach.dieReset_eq hres hd, hunlocked]
  have lost := foldl_keeps (Mach.Untouched d ((m.blank d).unled d)) (fun m x => if x = d then m else m.loseSource x (64 + d)) (fun y x hy => by
    by_cases hx : x = d
    · rwa [if_pos hx]
    · rw [if_neg hx]
      exact hy.loseSource (by omega) (by rw [h.state]; decide) hx _) nineDies _ h.untouched
  have told := lost.moduleLockFollow
  exact ⟨h.of_untouched told, fun c hc => (Mach.core_of_cores told.cores_eq d c).trans (hinit c hc)⟩

end

theorem Mach.dieRuns_of_inReset {m : Mach} {d n : Nat} (h : m.InReset d n) : m.dieRuns d = false := by
  simp only [Mach.dieRuns, h.resetting, Bool.not_true, Bool.and_false]

/-! ### The rows -/

section
variable {m : Mach} {d : Nat}

theorem Mach.deliver_cons {r : FaultRec} {rest : List FaultRec} (h : (m.die d).records = r :: rest) :
    m.deliver d =
      let m := m.modDie d (fun x => { x with records := rest })
      let q := r.parts.foldl (fun (acc : Mach × Bool) k => ((acc.1.recToQueue r k).1, acc.2 || (acc.1.recToQueue r k).2)) (m, false)
      let m := if r.toMc then q.1.recToMc r else q.1
      if r.toCp || q.2 then m.recToCp r else m := by
  unfold Mach.deliver
  simp only [h]

theorem Mach.d2dFault_new {a b l : Nat} (hl : l < d2dLinks a b) (hab : a < b) (hup : m.mt.d2dDown.contains (a, b, l) = false) :
    m.d2dFault a b l =
      let m : Mach := { m with mt := { m.mt with d2dDown := m.mt.d2dDown ++ [(a, b, l)] } }
      if m.d2dUp a b then m.d2dRec a b l 1 else ((m.d2dRec a b l 2).loseSource a (64 + b)).loseSource b (64 + a) := by
  unfold Mach.d2dFault
  rw [if_neg (by simp only [hup, Bool.false_eq_true, or_false]; omega)]
  extract_lets _ m1 up m2
  dsimp only [m2, up]
  split <;> rfl

theorem Mach.d2dRestored_down {a b l : Nat} (hdown : m.mt.d2dDown.contains (a, b, l) = true) :
    m.d2dRestored a b l = ({ m with mt := { m.mt with d2dDown := m.mt.d2dDown.erase (a, b, l) } } : Mach).d2dRec a b l 0 := by
  unfold Mach.d2dRestored
  rw [if_neg (by rw [hdown]; decide)]

theorem Mach.dieHang_open (hres : m.cp.resetting.testBit d = false) (hlate : smGet 0 m.cp.beats d + 600000 ≤ m.pmu sdDie)
    (hpart : ((m.beat d).partOf d).isSome = true) (hjob : (m.beat d).flag Fld.fabJob_valid d = true) :
    m.dieHang d = ((m.beat d).withdraw 1 d).dieReset d := by
  unfold Mach.dieHang
  exact (if_neg (by simp [hres, hlate])).trans (congrArg (fun m : Mach => m.dieReset d) (if_pos ⟨hpart, hjob⟩))

theorem Mach.dieHang_idle (hres : m.cp.resetting.testBit d = false) (hlate : smGet 0 m.cp.beats d + 600000 ≤ m.pmu sdDie)
    (hidle : (m.beat d).partOf d = none ∨ (m.beat d).flag Fld.fabJob_valid d = false) : m.dieHang d = (m.beat d).dieReset d := by
  unfold Mach.dieHang
  refine (if_neg (by simp [hres, hlate])).trans (congrArg (fun m : Mach => m.dieReset d) (if_neg ?_))
  rcases hidle with h | h <;> simp [h]

theorem Mach.cpWatchdog_hung (h : m.sec.hung = true) : m.cpWatchdog = m := by
  unfold Mach.cpWatchdog
  exact if_pos (.inl h)

theorem Mach.mcWatchdog_hung (h : m.sec.hung = true) : m.mcWatchdog = m := by
  unfold Mach.mcWatchdog
  exact if_pos (.inl h)

theorem Mach.spWatchdog_hung (h : m.sec.hung = true) : m.spWatchdog = m := by
  unfold Mach.spWatchdog
  exact if_pos (.inl h)

section
variable (h : m.sec.hung = false)
include h

theorem Mach.cpWatchdog_runs (hup : m.cp.up = true) : m.cpWatchdog = (m.withdraw 2 0).cpReset := by
  unfold Mach.cpWatchdog
  exact if_neg (by simp [h, hup])

theorem Mach.mcWatchdog_runs (hup : m.pins.mcUp = true) :
    m.mcWatchdog = { m.send 0x42 [] with cp := { m.cp with mcHangs := m.cp.mcHangs + 1 } } := by
  unfold Mach.mcWatchdog
  exact if_neg (by simp [h, hup])

theorem Mach.spWatchdog_runs (hup : m.pins.mcUp = true) :
    m.spWatchdog = { m.withdraw 3 0 with sec := { (m.withdraw 3 0).sec with hung := true } } := by
  unfold Mach.spWatchdog
  exact if_neg (by simp [h, hup])

end
end

/-- Settles O50: each row goes down one branch; a reset puts the die among those in reset before anything else is told, and what the
other dies lose with it touches neither its cores nor its incarnation. -/
theorem dieRows : Obligations.DieRows := by
  refine ⟨⟨?_, ?_, ?_, ?_, ?_, ?_, ?_, ?_, ?_, ?_, ?_, ?_⟩, ?_⟩
  · intro s d r rest hd h
    exact ((exec_faultRecordDeliver d s).trans (State.onNine_run hd)).trans (s.next_setM_congr (Mach.deliver_cons h))
  · intro s a b l hdata hl hab hup
    exact ((exec_d2dLinkFault a b l s).trans (State.onData_run hdata)).trans (s.next_setM_congr (Mach.d2dFault_new hl hab hup))
  · intro s a b l hdata hdown
    exact ((exec_d2dLinkRestored a b l s).trans (State.onData_run hdata)).trans (s.next_setM_congr (Mach.d2dRestored_down hdown))
  · intro s d hd
    exact (exec_livenessBeat d s).trans (State.onDie_run hd)
  · intro s d hdata hres hlate
    have run := (exec_dieHangDetect d s).trans (State.onData_run hdata)
    exact ⟨fun hpart hjob => run.trans (s.next_setM_congr (Mach.dieHang_open hres hlate hpart hjob)),
      fun hidle => run.trans (s.next_setM_congr (Mach.dieHang_idle hres hlate hidle))⟩
  · intro s hp h hup
    exact ((exec_cpWatchdogExpire s).trans (State.onModule_run hp)).trans (s.next_setM_congr (Mach.cpWatchdog_runs h hup))
  · intro s hp h hup
    exact ((exec_mcWatchdogExpire s).trans (State.onModule_run hp)).trans (s.next_setM_congr (Mach.mcWatchdog_runs h hup))
  · intro s hp h
    exact ⟨((exec_cpWatchdogExpire s).trans (State.onModule_run hp)).trans (s.next_setM_congr (Mach.cpWatchdog_hung h)),
      ((exec_mcWatchdogExpire s).trans (State.onModule_run hp)).trans (s.next_setM_congr (Mach.mcWatchdog_hung h)),
      ((exec_spWatchdogExpire s).trans (State.onModule_run hp)).trans (s.next_setM_congr (Mach.spWatchdog_hung h))⟩
  · intro s hp h hup
    exact ((exec_spWatchdogExpire s).trans (State.onModule_run hp)).trans (s.next_setM_congr (Mach.spWatchdog_runs h hup))
  · intro s hdata
    exact (exec_d2dBeatLost s).trans (State.onData_run hdata)
  · intro s d hdata _
    exact (exec_dieReset d s).trans (State.onData_run hdata)
  · intro s d hdata _
    exact (exec_dieResetComplete d s).trans (State.onData_run hdata)
  · intro s d hdata hres hregs hdies hcores hunlocked
    obtain ⟨left, hinit⟩ := Mach.dieReset_leaves d.isLt hres hregs hdies hcores hunlocked
    have hstops : (s.m.dieReset d).dieRuns d = false := Mach.dieRuns_of_inReset left
    refine ⟨_, (exec_dieReset d s).trans (State.onData_run hdata), hstops, rfl, hinit, left.inc, ?_⟩
    rintro i op rfl
    exact State.onDie_not hstops

end Sys2Proof.Machine
end

section
/-! SUPPORT and proofs. The ports and the routes (R345, R349 to R358, R362, R364, R365, R445). -/

namespace Sys2Proof.Machine

/-! ### The rows of a port -/

section
variable {m : Mach} {d p : Nat}

/-- A port that light reaches now, and that may train. -/
def Mach.mayWake (m : Mach) (d p : Nat) : Prop :=
  m.silent = false ∧ m.lit = true ∧ m.flag Fld.fabPortCtl_disable d p = false ∧ m.portRoleNow d p ≠ 3 ∧
    m.portState d p = psDark ∧ (m.port d p).light ≠ 0

theorem Mach.portWake_wakes (hres : m.cp.resetting.testBit d = false) (h : m.mayWake d p) :
    m.portWake d p = m.put Fld.fabPortStatus_state d psTrain p := by
  obtain ⟨h1, h2, h3, h4, h5, h6⟩ := h
  unfold Mach.portWake
  exact if_neg (by simp [h1, h2, h3, h4, h5, h6, hres])

theorem Mach.portWake_stays (h : ¬ m.mayWake d p) : m.portWake d p = m := by
  unfold Mach.portWake
  refine if_pos (by_contra fun hstay => h ?_)
  simp only [not_or, Bool.not_eq_true, Bool.not_eq_true', not_not] at hstay
  obtain ⟨h1, h2, _, h4, h5, h6, h7⟩ := hstay
  exact ⟨h1, by simpa using h2, h4, h5, h6, h7⟩

section
variable {lanes : Nat} (h : m.portState d p = psTrain)
include h

theorem Mach.trainComplete_goes (hnode : m.flag Fld.fabNode_valid d = true) :
    m.trainComplete d p lanes true =
      ((m.modPort d p (fun y => { y with trained := lanes &&& y.light })).put Fld.fabPortStatus_state d psNegotiate p).exchange d p := by
  unfold Mach.trainComplete
  exact (if_neg (not_not_intro h)).trans (if_pos ⟨hnode, rfl⟩)

theorem Mach.trainComplete_waits : m.trainComplete d p lanes false = m.modPort d p (fun y => { y with trained := lanes &&& y.light }) := by
  unfold Mach.trainComplete
  exact (if_neg (not_not_intro h)).trans (if_neg (fun hn => Bool.false_ne_true hn.2))

end

section
variable {y : PeerCaps} (h : m.portState d p = psNegotiate)
include h

theorem Mach.negotiate_miswired (hwire : m.wiringOk d p y = false) :
    m.negotiate d p y = ((m.portDown d p psWiring).ev Fld.fabEvents_wiring d).portRec d p 0x23 y.node := by
  unfold Mach.negotiate
  exact (if_neg (not_not_intro h)).trans (if_pos (by rw [hwire]; rfl))

variable (hwire : m.wiringOk d p y = true)
include hwire

/-- What both ends of a port can do together. -/
def Mach.portRate (m : Mach) (d p : Nat) (y : PeerCaps) : Nat × Nat :=
  let capOf (r : Nat) : Nat := if r = 0 then 1 else r
  rateOf ((m.port d p).trained &&& y.lanes) (min (capOf (m.get Fld.fabPortCtl_max_rate d p)) (capOf y.maxRate))

theorem Mach.negotiate_no_rate (hrate : (m.portRate d p y).1 = 0) : m.negotiate d p y = m.portFailed d p false := by
  unfold Mach.negotiate
  exact (if_neg (not_not_intro h)).trans ((if_neg (by simp [hwire])).trans (if_pos hrate))

theorem Mach.negotiate_agrees (hrate : (m.portRate d p y).1 ≠ 0) : m.negotiate d p y =
    let got := m.portRate d p y
    let role := if m.portRoleNow d p = 0 ∧ (y.role = 1 ∨ (m.port d p).wasReset = true) then 1 else m.portRoleNow d p
    let st := m.rd .fabPortStatus d p
    let st := Fld.fabPortStatus_peer_node.into (Fld.fabPortStatus_peer_die.into (Fld.fabPortStatus_peer_port.into st y.port) y.die) y.node
    let st := Fld.fabPortStatus_lanes_ok.into (Fld.fabPortStatus_rate.into (Fld.fabPortStatus_role.into st role) got.1) got.2
    let st := Fld.fabPortStatus_hb_missed.into (Fld.fabPortStatus_state.into st (if role = 1 then psStandby else psActive)) 0
    let m := m.wr .fabPortStatus d st p
    (m.modPort d p (fun z =>
      { z with replays := 0, txSeq := 0, rxSeq := 0, hbSent := m.ft d, hbSeen := m.ft d, peerRole := y.role,
               fec := [], rate := got.1, wasReset := false })).resendHeld d p := by
  unfold Mach.negotiate
  exact (if_neg (not_not_intro h)).trans ((if_neg (by simp [hwire])).trans (if_neg hrate))

end

section
variable {lanes : Nat}

/-- Light is gone on lanes of a port. -/
def Mach.darkened (m : Mach) (d p lanes : Nat) : Mach :=
  m.modPort d p (fun y => { y with light := y.light - (y.light &&& lanes), lightLost := some (m.ft d) })

theorem Mach.lightLost_idle (hup : (m.darkened d p lanes).portUp d p = false) (htrain : (m.darkened d p lanes).portState d p ≠ psTrain)
    (hneg : (m.darkened d p lanes).portState d p ≠ psNegotiate) : m.lightLost d p lanes = m.darkened d p lanes := by
  unfold Mach.lightLost
  exact (if_neg (Bool.eq_false_iff.1 hup)).trans (if_neg (fun h => h.1.elim htrain hneg))

theorem Mach.lightLost_up (hup : (m.darkened d p lanes).portUp d p = true) : m.lightLost d p lanes =
    if m.get Fld.fabPortStatus_lanes_ok d p &&& lanes ≠ 0 then
      (m.darkened d p lanes).laneFault d p ((m.darkened d p lanes).lanesLeft d p lanes) else m.darkened d p lanes := by
  unfold Mach.lightLost
  exact if_pos hup

end

theorem Mach.standbySwap_swaps {fd fp : Nat} (h : m.portState d p = psStandby)
    (hfind : (m.dirPorts (m.portDirNow d p)).find? (fun y => m.portRoleNow y.1 y.2 == 0 && m.portState y.1 y.2 == psFailed) = some (fd, fp)) :
    m.standbySwap d p =
      let m := m.put Fld.fabPortStatus_role fd 1 fp
      let m := (m.put Fld.fabPortStatus_role d 0 p).put Fld.fabPortStatus_state d psActive p
      let m := (m.put Fld.fabPortStatus_replaces d (8 * fd + fp) p).ev Fld.fabEvents_swap d
      (m.portRec d p 0x22 (m.get Fld.fabPortStatus_peer_node d p)).resendHeld fd fp := by
  unfold Mach.standbySwap
  rw [if_neg (not_not_intro h), hfind]

section
variable (h : m.portState d p = psFailed)
include h

theorem Mach.portRetry_trains (hsilent : m.silent = false) (hdue : (m.port d p).failedAt + 200000000 ≤ m.pmu d)
    (hlight : ((m.modPort d p (fun y => { y with failedAt := m.pmu d })).port d p).light ≠ 0) :
    m.portRetry d p = (m.modPort d p (fun y => { y with failedAt := m.pmu d })).put Fld.fabPortStatus_state d psTrain p := by
  unfold Mach.portRetry
  exact (if_neg (by simp [h, hsilent, hdue])).trans (if_neg hlight)

omit h in
theorem Mach.portRetry_early (hearly : m.pmu d < (m.port d p).failedAt + 200000000) : m.portRetry d p = m := by
  unfold Mach.portRetry
  exact if_pos (.inr (.inr hearly))

end

section
variable (hup : m.portUp d p = true)
include hup

theorem Mach.fecFail_up {lane n : Nat} : m.fecFail d p lane n =
    let now := m.pmu d
    let m := m.cnt .fabPortCnt d p n 0 2
    let m := m.modPort d p (fun y =>
      { y with fec := (y.fec ++ List.replicate (min n 8) (lane, now)).filter (fun e => decide (now ≤ e.2 + 2000)) })
    if 8 ≤ ((m.port d p).fec.filter (fun e => e.1 == lane)).length then m.laneFault d p (m.lanesLeft d p (2 ^ lane)) else m := by
  unfold Mach.fecFail
  exact if_neg (by simp [hup])

theorem Mach.heartbeatSend_due (hsilent : m.silent = false) (hdue : (m.port d p).hbSent + 250000 ≤ m.ft d) : m.heartbeatSend d p =
    (m.modPort d p (fun y => { y with hbSent := m.ft d })).send 0x08 [8 * d + p, m.node d, m.get Fld.fabRouteCtl_epoch d, 0] := by
  unfold Mach.heartbeatSend
  exact (if_neg (by simp [hup, hsilent, hdue])).trans (by rw [hsilent]; rfl)

theorem Mach.heartbeatReceive_up : m.heartbeatReceive d p =
    (m.modPort d p (fun y => { y with hbSeen := m.ft d })).put Fld.fabPortStatus_hb_missed d 0 p := by
  unfold Mach.heartbeatReceive
  exact if_neg (by simp [hup])

theorem Mach.heartbeatTimeout_missed
    (hmiss : m.get Fld.fabPortStatus_hb_missed d p < (m.ft d - (m.port d p).hbSeen) / 250000) : m.heartbeatTimeout d p =
    let missed := (m.ft d - (m.port d p).hbSeen) / 250000
    let m := (m.cnt .fabPortCnt d p (missed - m.get Fld.fabPortStatus_hb_missed d p) 0 3).put Fld.fabPortStatus_hb_missed d (min 15 missed) p
    if 4 ≤ missed then m.portFailed d p false else m := by
  unfold Mach.heartbeatTimeout
  exact (if_neg (by simp [hup])).trans (if_neg (Nat.not_le.2 hmiss))

end

/-! ### Lost nodes -/

section
variable {n : Nat} (hsilent : m.silent = false)
include hsilent

theorem Mach.nodeLostReceive_self (hd : d < 8) (hvalid : m.flag Fld.fabNode_valid d = true) (hn : n = m.node d) :
    m.nodeLostReceive n = m.selfLost := by
  unfold Mach.nodeLostReceive
  refine (if_neg (by simp [hsilent])).trans (if_pos ?_)
  exact List.any_eq_true.2 ⟨d, List.mem_range.2 hd, by simp [hvalid, hn]⟩

theorem Mach.nodeLostReceive_other (h : ∀ d, d < 8 → m.flag Fld.fabNode_valid d = false ∨ n ≠ m.node d) :
    m.nodeLostReceive n = m.nodeLost n := by
  unfold Mach.nodeLostReceive
  refine (if_neg (by simp [hsilent])).trans (if_neg ?_)
  simp only [List.any_eq_true, List.mem_range, not_exists, not_and, Bool.not_eq_true, Bool.and_eq_false_iff, beq_eq_false_iff_ne]
  exact h

end

/-! ### The epoch switch (R364) -/

/-- The first `n` entries of the pending detour table are in force. -/
def Mach.detoured (m : Mach) (d n : Nat) : Mach := (List.range n).foldl (fun m i => m.wr .fabDetour d (m.rd .fabDetourPend d i) i) m

theorem Mach.detoured_succ (n : Nat) :
    m.detoured d (n + 1) = (m.detoured d n).wr .fabDetour d ((m.detoured d n).rd .fabDetourPend d n) n := by
  simp only [Mach.detoured, List.range_succ, List.foldl_append, List.foldl_cons, List.foldl_nil]

section
variable (hregs : m.regsSorted)
include hregs

theorem Mach.keeps_detoured {r : Reg} (hr : r ≠ .fabDetour) (n : Nat) : Mach.Keeps r m (m.detoured d n) :=
  Mach.Keeps.foldl (fun _ _ hx => hx.wr hr ..) _ (.refl r hregs)

theorem Mach.rd_detoured {n i : Nat} (hi : i < n) : (m.detoured d n).rd .fabDetour d i = m.rd .fabDetourPend d i := by
  induction n with
  | zero => omega
  | succ n ih =>
    have pend := Mach.keeps_detoured (d := d) hregs (r := .fabDetourPend) (by decide) n
    rw [Mach.detoured_succ]
    by_cases hn : i = n
    · rw [hn, Mach.rd_wr_same _ _ _ _ _ _ _ pend.sorted, pend.rd_eq]
      exact Nat.mod_eq_of_lt (Mach.reg_lt m _)
    · rw [Mach.rd_wr_ne _ _ _ _ _ _ _ _ _ _ _ _ pend.sorted (by simp [hn])]
      exact ih (by omega)

theorem Mach.rd_detoured_ne {e : Nat} (he : e ≠ d) (n i : Nat) : (m.detoured d n).rd .fabDetour e i = m.rd .fabDetour e i := by
  induction n with
  | zero => rfl
  | succ n ih =>
    have pend := Mach.keeps_detoured (d := d) hregs (r := .fabDetourPend) (by decide) n
    rw [Mach.detoured_succ, Mach.rd_wr_ne _ _ _ _ _ _ _ _ _ _ _ _ pend.sorted (by simp [he]), ih]

end

theorem Mach.detoured_frame (n : Nat) : (m.detoured d n).dies = m.dies ∧ (m.detoured d n).mem = m.mem := by
  induction n with
  | zero => exact ⟨rfl, rfl⟩
  | succ n ih =>
    rw [Mach.detoured_succ]
    exact ih

/-- The pending table and epoch are in force, nothing is armed, and it is said. -/
def Mach.switched (m : Mach) (d : Nat) : Mach :=
  let m := m.detoured d 64
  ((m.put Fld.fabRouteCtl_epoch d (m.get Fld.fabRouteCtl_pend_epoch d)).put Fld.fabRouteCtl_arm d 0).ev Fld.fabEvents_epoch_switched d

section
variable (hregs : m.regsSorted)
include hregs

theorem Mach.keeps_switched {r : Reg} (h1 : r ≠ .fabRouteCtl) (h2 : r ≠ .fabEvents) : Mach.Keeps r (m.detoured d 64) (m.switched d) :=
  (((Mach.Keeps.refl r (Mach.keeps_detoured hregs (r := .fabCnt) (by decide) 64).sorted).put h1 ..).put h1 ..).put h2 ..

theorem Mach.switched_sorted : (m.switched d).regsSorted := (Mach.keeps_switched hregs (r := .fabCnt) (by decide) (by decide)).sorted

theorem Mach.switched_epoch : (m.switched d).get Fld.fabRouteCtl_epoch d = m.get Fld.fabRouteCtl_pend_epoch d := by
  have ctl := Mach.keeps_detoured (d := d) hregs (r := .fabRouteCtl) (by decide) 64
  have hepoch := Mach.regsSorted_put (m.detoured d 64) Fld.fabRouteCtl_epoch d ((m.detoured d 64).get Fld.fabRouteCtl_pend_epoch d) 0 0 0 ctl.sorted
  have harm := Mach.regsSorted_put _ Fld.fabRouteCtl_arm d 0 0 0 0 hepoch
  have hset : (m.switched d).get Fld.fabRouteCtl_epoch d = ((m.detoured d 64).put Fld.fabRouteCtl_epoch d ((m.detoured d 64).get Fld.fabRouteCtl_pend_epoch d)).get Fld.fabRouteCtl_epoch d :=
    (((Mach.Keeps.refl .fabRouteCtl harm).put (f := Fld.fabEvents_epoch_switched) (by decide) d 1 0 0 0).get_eq rfl d 0 0 0).trans
      (Mach.get_put_disjoint _ _ _ _ _ _ _ _ hepoch rfl (by decide) (by decide) (by decide))
  rw [hset, Mach.get_put_same _ _ _ _ _ _ _ ctl.sorted (by decide) (by decide), ctl.get_eq rfl]
  exact Nat.mod_eq_of_lt (Nat.mod_lt _ (by decide))

theorem Mach.switched_arm : (m.switched d).flag Fld.fabRouteCtl_arm d = false := by
  have ctl := Mach.keeps_detoured (d := d) hregs (r := .fabRouteCtl) (by decide) 64
  have hepoch := Mach.regsSorted_put (m.detoured d 64) Fld.fabRouteCtl_epoch d ((m.detoured d 64).get Fld.fabRouteCtl_pend_epoch d) 0 0 0 ctl.sorted
  have harm := Mach.regsSorted_put _ Fld.fabRouteCtl_arm d 0 0 0 0 hepoch
  have hget : (m.switched d).get Fld.fabRouteCtl_arm d = 0 :=
    (((Mach.Keeps.refl .fabRouteCtl harm).put (f := Fld.fabEvents_epoch_switched) (by decide) d 1 0 0 0).get_eq rfl d 0 0 0).trans
      (Mach.get_put_same _ _ _ _ _ _ _ hepoch (by decide) (by decide))
  rw [Mach.flag, hget]
  rfl

theorem Mach.switched_event : (m.switched d).get Fld.fabEvents_epoch_switched d = 1 :=
  Mach.get_put_same _ _ _ _ _ _ _ (Mach.regsSorted_put _ _ _ _ _ _ _ (Mach.regsSorted_put _ _ _ _ _ _ _
    (Mach.keeps_detoured (d := d) hregs (r := .fabCnt) (by decide) 64).sorted)) (by decide) (by decide)

end

/-- The switch is recorded, and no node waits to come back. -/
def Mach.switchTold (m : Mach) (d : Nat) : Mach :=
  ((m.switched d).fabRec d 0x2B 0x7F 0 0 0 0 0 true true []).modFab d (fun x => { x with clearList := [] })

theorem Mach.keeps_switchTold (hregs : m.regsSorted) (r : Reg) : Mach.Keeps r (m.switched d) (m.switchTold d) :=
  (Mach.Keeps.refl r (Mach.switched_sorted hregs)).of_regs
    ((Mach.modDie_regs _ _ _).trans (Mach.emitRec_regs (m.switched d) d 0x2B true false _ true false []))

theorem Mach.switchTold_mem : (m.switchTold d).mem = m.mem := by
  simp only [Mach.switchTold, Mach.switched, Mach.fabRec, Mach.modFab_mem, Mach.emitRec_mem, Mach.ev_mem, Mach.put_mem,
    (Mach.detoured_frame 64).2]

theorem Mach.epochSwitch_due (hdies : smSorted m.dies = true) (harm : m.flag Fld.fabRouteCtl_arm d = true)
    (hclear : (m.fab d).clearList = [])
    (hdue : m.rd .fabRouteSwitch d + (if (m.fab d).armedLate then 0 else 40) ≤ m.ft d) :
    m.epochSwitch d = m.switchTold d := by
  have hback : (((m.switched d).fabRec d 0x2B 0x7F 0 0 0 0 0 true true []).fab d).clearList = [] := by
    rw [← hclear]
    unfold Mach.fab Mach.fabRec Mach.emitRec
    rw [Mach.die_modDie_same _ _ _ (by rwa [Mach.switched, Mach.ev, Mach.put_dies, Mach.put_dies, Mach.put_dies, (Mach.detoured_frame 64).1])]
    rw [Mach.die, Mach.switched, Mach.ev, Mach.put_dies, Mach.put_dies, Mach.put_dies, (Mach.detoured_frame 64).1]
    rfl
  unfold Mach.epochSwitch
  refine (if_neg (by simp only [harm, Bool.not_true, Bool.false_eq_true, false_or]; omega)).trans ?_
  extract_lets m1 m2 m3 m4 back m5
  have hnone : back = [] := hback
  simp only [m5, hnone, List.foldl_nil, List.contains_nil, Bool.false_eq_true, if_false]
  rfl

end

/-- Settles O51: each row goes down one branch; the switch copies the pending table entry by entry and then moves the epoch. -/
theorem portRows : Obligations.PortRows := by
  refine ⟨⟨?_, ?_⟩, ?_⟩
  · intro s d p hd goes x
    have run {i : Instr} {f : Mach → Mach} (h : exec i s = s.onDie d f) {m : Mach} (hm : f s.m = m) : exec i s = goes m :=
      (h.trans (State.onDie_run hd)).trans (s.next_setM_congr hm)
    have hres : s.m.cp.resetting.testBit d = false := by
      simp only [Mach.dieRuns, Bool.and_eq_true, Bool.not_eq_true'] at hd
      exact hd.2
    refine ⟨?_, ?_, ?_, ?_, ?_, ?_, ?_, ?_, ?_, ?_, ?_, ?_⟩
    · intro lanes m wakes
      exact ⟨fun h => run (exec_portLightDetect ..) (Mach.portWake_wakes (m := m) hres h),
        fun h => run (exec_portLightDetect ..) (Mach.portWake_stays (m := m) h)⟩
    · intro lanes h m
      exact ⟨fun hnode => run (exec_portTrainComplete ..) (Mach.trainComplete_goes h hnode),
        run (exec_portTrainComplete ..) (Mach.trainComplete_waits h)⟩
    · exact fun y h hwire => run (exec_portNegotiate ..) (Mach.negotiate_miswired h hwire)
    · intro y h hwire capOf got
      exact ⟨fun hrate => run (exec_portNegotiate ..) (Mach.negotiate_no_rate h hwire hrate),
        fun hrate => run (exec_portNegotiate ..) (Mach.negotiate_agrees h hwire hrate)⟩
    · intro lanes m
      exact ⟨fun hup htrain hneg => run (exec_portLightLost ..) (Mach.lightLost_idle hup htrain hneg),
        fun hup => run (exec_portLightLost ..) (Mach.lightLost_up hup)⟩
    · exact fun lane n hup => run (exec_portFecFail ..) (Mach.fecFail_up hup)
    · exact fun fd fp h hfind => run (exec_standbySwap ..) (Mach.standbySwap_swaps h hfind)
    · exact fun h hsilent hdue hlight => run (exec_portRetry ..) (Mach.portRetry_trains h hsilent hdue hlight)
    · exact fun _ hearly => run (exec_portRetry ..) (Mach.portRetry_early hearly)
    · exact fun hup hsilent hdue => run (exec_heartbeatSend ..) (Mach.heartbeatSend_due hup hsilent hdue)
    · exact fun hup => run (exec_heartbeatReceive ..) (Mach.heartbeatReceive_up hup)
    · intro missed hup hmiss
      exact run (exec_heartbeatTimeout ..) (Mach.heartbeatTimeout_missed hup hmiss)
  · intro s n hdata hsilent
    have run := (exec_nodeLostReceive n s).trans (State.onData_run hdata)
    exact ⟨fun d hd hvalid hn => run.trans (s.next_setM_congr (Mach.nodeLostReceive_self hsilent hd hvalid hn)),
      fun h => run.trans (s.next_setM_congr (Mach.nodeLostReceive_other hsilent h))⟩
  · intro s d hd hregs harm hclear hdies hdue
    have told (r : Reg) := Mach.keeps_switchTold (d := d.val) hregs r
    have table {e i : Nat} : (s.m.switchTold d).rd .fabDetour e i = (s.m.detoured d 64).rd .fabDetour e i :=
      ((told _).rd_eq ..).trans ((Mach.keeps_switched hregs (by decide) (by decide)).rd_eq ..)
    refine ⟨_, ((exec_routeEpochSwitch d s).trans (State.onDie_run hd)).trans
      (s.next_setM_congr (Mach.epochSwitch_due hdies harm hclear hdue)), ?_, ?_, ?_, ?_, ?_, ?_⟩
    · exact fun i hi => table.trans (Mach.rd_detoured hregs hi)
    · exact ((told _).get_eq rfl ..).trans (Mach.switched_epoch hregs)
    · exact ((told _).flag_eq rfl ..).trans (Mach.switched_arm hregs)
    · exact ((told _).get_eq rfl ..).trans (Mach.switched_event hregs)
    · exact fun e i he => table.trans (Mach.rd_detoured_ne hregs he 64 i)
    · exact Mach.switchTold_mem

end Sys2Proof.Machine
end

section
/-! SUPPORT and proofs. What an answer leaves in the response slot (R484, R506). -/

namespace Sys2Proof.Machine

/-! ### Bytes of words -/

theorem ofBytes_toBytes (n v : Nat) : ofBytes (toBytes n v) = v % 256 ^ n := by
  induction n generalizing v with
  | zero => simp [toBytes, ofBytes, Nat.mod_one]
  | succ n ih =>
    have hbyte : v % 256 % 2 ^ 8 = v % 256 := by omega
    simp only [toBytes, ofBytes, ih, BitVec.toNat_ofNat, hbyte]
    rw [Nat.pow_succ', Nat.mod_mul]

theorem getElem?_flatMap_toBytes (ws : List Nat) (j i : Nat) (hi : i < 8) :
    (ws.flatMap (toBytes 8))[8 * j + i]? = (ws[j]?).bind (fun w => (toBytes 8 w)[i]?) := by
  induction ws generalizing j with
  | nil => simp
  | cons w ws ih =>
    rw [List.flatMap_cons]
    cases j with
    | zero => simp [List.getElem?_append, toBytes_length, hi]
    | succ j =>
      rw [List.getElem?_append_right (by rw [toBytes_length]; omega), toBytes_length, show 8 * (j + 1) + i - 8 = 8 * j + i by omega, ih,
        List.getElem?_cons_succ]

/-! ### The mailbox slots -/

section
variable {slots : SMap Byte} (h : smSorted slots = true) (off : Nat)

/-- The slots with bytes stored from an offset on. -/
def slotsWith (slots : SMap Byte) (off : Nat) (bs : List Byte) : SMap Byte :=
  (bs.mapIdx (fun i b => (i, b))).foldl (fun s x => smSet 0#8 s (off + x.1) x.2) slots

theorem slotsWith_concat (bs : List Byte) (b : Byte) :
    slotsWith slots off (bs ++ [b]) = smSet 0#8 (slotsWith slots off bs) (off + bs.length) b := by
  simp [slotsWith, List.mapIdx_append]

include h

theorem slotsWith_sorted (bs : List Byte) : smSorted (slotsWith slots off bs) = true :=
  foldl_keeps (fun s => smSorted s = true) _ (fun _ _ hs => smSorted_smSet _ _ _ _ hs) _ _ h

theorem smGet_slotsWith (bs : List Byte) {i : Nat} (hi : i < bs.length) : smGet 0#8 (slotsWith slots off bs) (off + i) = bs[i] := by
  induction bs using List.reverseRecOn with
  | nil => simp at hi
  | append_singleton bs b ih =>
    have hsorted := slotsWith_sorted h off bs
    rw [slotsWith_concat]
    by_cases hlast : i = bs.length
    · simp [hlast, smGet_smSet_same _ _ _ _ hsorted]
    · have hlt : i < bs.length := by
        rw [List.length_append, List.length_singleton] at hi
        omega
      rw [smGet_smSet_ne _ _ _ _ _ hsorted (by omega), ih hlt, List.getElem_append_left hlt]

end

/-- A word of what has been written to the slots reads back. -/
theorem Mach.slotNum_slotWrite {m : Mach} (h : smSorted m.cp.slots = true) (a : Nat) {ws : List Nat} {j w : Nat} (hj : ws[j]? = some w) :
    (m.slotWrite a (ws.flatMap (toBytes 8))).slotNum (a + 8 * j) 8 = w % 2 ^ 64 := by
  have hbytes : (List.range 8).map (fun i => smGet 0#8 (slotsWith m.cp.slots a (ws.flatMap (toBytes 8))) (a + 8 * j + i)) = toBytes 8 w := by
    refine List.ext_getElem (by simp [toBytes_length]) fun i h1 _ => ?_
    have hi : i < 8 := by simpa using h1
    have hword : (ws.flatMap (toBytes 8))[8 * j + i]? = (toBytes 8 w)[i]? := by rw [getElem?_flatMap_toBytes _ _ _ hi, hj, Option.bind_some]
    rw [List.getElem?_eq_getElem (l := toBytes 8 w) (by rwa [toBytes_length])] at hword
    obtain ⟨hlt, heq⟩ := List.getElem?_eq_some_iff.1 hword
    rw [List.getElem_map, List.getElem_range, Nat.add_assoc, smGet_slotsWith h a _ hlt, heq]
  refine (congrArg ofBytes hbytes).trans ?_
  rw [ofBytes_toBytes, show 256 ^ 8 = 2 ^ 64 by decide]

theorem Mach.slotNum_congr {m m' : Mach} (h : m'.cp.slots = m.cp.slots) (off n : Nat) : m'.slotNum off n = m.slotNum off n := by
  simp only [Mach.slotNum, h]

/-! ### What an answer leaves after its slot is written -/

/-- `m'` has the slots, memory and the response pointers as in `m`. -/
structure Mach.KeepsSlots (m m' : Mach) : Prop where
  slots : m'.cp.slots = m.cp.slots
  mem : m'.mem = m.mem
  tail : Mach.Keeps .mbxRspTail m m'

namespace Mach.KeepsSlots

theorem refl {m : Mach} (h : m.regsSorted) : KeepsSlots m m := ⟨rfl, rfl, .refl _ h⟩

section
variable {m m' : Mach} (h : KeepsSlots m m')
include h

theorem put {f : Fld} (hf : Reg.mbxRspTail ≠ f.reg) (d v i c j : Nat) : KeepsSlots m (m'.put f d v i c j) :=
  ⟨h.slots, h.mem, h.tail.put hf ..⟩

theorem of_eq {m'' : Mach} (hslots : m''.cp.slots = m'.cp.slots) (hmem : m''.mem = m'.mem) (hregs : m''.regs = m'.regs) : KeepsSlots m m'' :=
  ⟨hslots.trans h.slots, hmem.trans h.mem, h.tail.of_regs hregs⟩

theorem mbxAdvance (k : Nat) : KeepsSlots m (m'.mbxAdvance k) :=
  (h.put (f := Fld.mbxReqHead_count) (by decide) sdDie _ k 0 0).of_eq rfl rfl rfl

theorem mbxSkip (k fuel : Nat) : KeepsSlots m (m'.mbxSkip k fuel) := by
  induction fuel generalizing m' with
  | zero => exact h
  | succ fuel ih =>
    unfold Mach.mbxSkip
    extract_lets head r m1
    have hm1 : KeepsSlots m m1 := by
      simp only [m1]
      split
      · exact h.of_eq rfl rfl rfl
      · exact h
    split
    · exact ih (hm1.mbxAdvance k)
    · exact h

theorem interrupt (v : Nat) : KeepsSlots m (m'.interrupt v) := by
  unfold Mach.interrupt
  extract_lets ident
  split
  · exact h.of_eq rfl rfl rfl
  · exact h.put (by decide) ..

end
end Mach.KeepsSlots

/-- The words of an answer. -/
def Mach.answerWords (m : Mach) (c : MbxCmd) (status : Nat) (ws : List Nat) : List Nat :=
  (c.opcode * 2 ^ 56 + status * 2 ^ 48 + 8 * ws.length * 2 ^ 32 + c.seq) :: m.ft sdDie :: ws

/-- The answer is in its slot and the tail has moved on. -/
def Mach.answeredIn (m : Mach) (c : MbxCmd) (status : Nat) (ws : List Nat) : Mach :=
  (m.slotWrite (slotAt c.mbx (m.get Fld.mbxRspTail_count sdDie c.mbx) + 0x800) ((m.answerWords c status ws).flatMap (toBytes 8))).put
    Fld.mbxRspTail_count sdDie ((m.get Fld.mbxRspTail_count sdDie c.mbx + 1) % 2 ^ 16) c.mbx

section
variable {m : Mach} {c : MbxCmd} {status : Nat} {ws : List Nat} (hregs : m.regsSorted)
include hregs

theorem Mach.respond_keepsSlots : Mach.KeepsSlots (m.answeredIn c status ws) (m.respond c status ws) := by
  have answered := Mach.KeepsSlots.refl (m := m.answeredIn c status ws) (Mach.regsSorted_put (m.slotWrite _ _) _ _ _ _ _ _ hregs)
  unfold Mach.respond
  extract_lets k t w0 m1 m2 _ m3 m4
  have served : Mach.KeepsSlots (m.answeredIn c status ws) m3 := answered.of_eq rfl rfl rfl
  have hm4 : Mach.KeepsSlots (m.answeredIn c status ws) m4 := (served.put (f := Fld.mbxStatus_busy) (by decide) ..).mbxSkip c.mbx 16
  split
  · exact hm4.interrupt _
  · exact hm4

theorem Mach.respond_tail : (m.respond c status ws).get Fld.mbxRspTail_count sdDie c.mbx =
    (m.get Fld.mbxRspTail_count sdDie c.mbx + 1) % 2 ^ 16 := by
  rw [(Mach.respond_keepsSlots hregs).tail.get_eq rfl]
  refine (Mach.get_put_same (m.slotWrite _ _) _ _ _ _ _ _ hregs (by decide) (by decide)).trans ?_
  exact Nat.mod_mod_of_dvd _ (dvd_refl _)

theorem Mach.respond_word (hslots : smSorted m.cp.slots = true) {j w : Nat} (hj : (m.answerWords c status ws)[j]? = some w) (hw : w < 2 ^ 64) :
    (m.respond c status ws).slotNum (slotAt c.mbx (m.get Fld.mbxRspTail_count sdDie c.mbx) + 0x800 + 8 * j) 8 = w := by
  rw [Mach.slotNum_congr (Mach.respond_keepsSlots hregs).slots]
  exact (Mach.slotNum_congr (m := m.slotWrite _ _) rfl _ _).trans ((Mach.slotNum_slotWrite hslots _ hj).trans (Nat.mod_eq_of_lt hw))

theorem Mach.respond_mem : (m.respond c status ws).mem = m.mem := (Mach.respond_keepsSlots hregs).mem

end

/-- A command that a mailbox serves is answered. -/
theorem Mach.mbxRun_of_serving {s : State} {k op : Nat} {c : MbxCmd} (h : s.serving k op c) (f : Mach → MbxCmd → Mach × Nat × List Nat) :
    s.m.mbxRun k op f = (f s.m c).1.respond c (f s.m c).2.1 (f s.m c).2.2 := by
  unfold Mach.mbxRun
  rw [h.2]

theorem State.serving_cmd {s : State} {k op : Nat} {c : MbxCmd} (h : s.serving k op c) : c.mbx = k ∧ c.opcode = op := by
  simpa using List.find?_some h.2

/-- Settles O60: the words of the answer are read back from the slots, which nothing after them writes. -/
theorem ftStatusIsInTheResponseSlot : Obligations.FtStatusIsInTheResponseSlot := by
  intro s k c hserving hseq hslots hregs
  obtain ⟨hmbx, hop⟩ := State.serving_cmd hserving
  let ws := nineDies.map (fun d => s.m.rd .ftStatus d) ++ [s.m.ft 0, s.m.rd .ftCivilOffset sdDie]
  have run : exec (.ftStatus k) s = .next (s.setM (s.m.respond c mbOk ws)) :=
    ((exec_ftStatus k s).trans (State.onModule_run hserving.1)).trans (s.next_setM_congr (Mach.mbxRun_of_serving hserving _))
  have word {j w : Nat} (hj : (s.m.answerWords c mbOk ws)[j]? = some w) (hw : w < 2 ^ 64) := Mach.respond_word hregs hslots hj hw
  rw [hmbx] at word
  refine ⟨_, run, ?_, ?_, ?_, ?_, Mach.respond_mem hregs⟩
  · refine word (j := 0) (congrArg some ?_) (by omega)
    rw [hop]
    rfl
  · intro d hd
    refine (congrArg (fun a => (s.m.respond c mbOk ws).slotNum a 8) (by omega)).trans (word (j := d + 2) ?_ (Mach.reg_lt s.m _))
    simp [Mach.answerWords, ws, nineDies, List.getElem?_append, hd]
  · exact word (j := 11) rfl (Mach.reg_lt s.m _)
  · have htail := Mach.respond_tail (c := c) (status := mbOk) (ws := ws) hregs
    rwa [hmbx] at htail

end Sys2Proof.Machine
end

section
/-! SUPPORT and proofs. What a spill adds, and reads of accumulators (R90, R94, R95). -/

namespace Sys2Proof.Machine

/-! ### Changing the entries that a sorted list names -/

section
variable {α β : Type} [DecidableEq α] (d : α) (g : α → β → α)

/-- `st` with each entry that `cells` names taken through `g`. -/
def smMerge (st : SMap α) (cells : SMap β) : SMap α := cells.foldl (fun s x => smSet d s x.1 (g (smGet d s x.1) x.2)) st

theorem smMerge_sorted {st : SMap α} (h : smSorted st = true) (cells : SMap β) : smSorted (smMerge d g st cells) = true :=
  foldl_keeps (fun s => smSorted s = true) _ (fun _ _ hs => smSorted_smSet _ _ _ _ hs) cells st h

theorem smGet_smMerge_ne {st : SMap α} (h : smSorted st = true) {cells : SMap β} {k : Nat} (hk : ∀ v, (k, v) ∉ cells) :
    smGet d (smMerge d g st cells) k = smGet d st k := by
  induction cells generalizing st with
  | nil => rfl
  | cons x cells ih =>
    obtain ⟨k', v'⟩ := x
    have hne : k ≠ k' := fun e => hk v' (by simp [e])
    refine (ih (smSorted_smSet _ _ _ _ h) (fun v hv => hk v (List.mem_cons_of_mem _ hv))).trans ?_
    exact smGet_smSet_ne _ _ _ _ _ h hne

/-- A key above which every entry lies is not listed. -/
theorem not_mem_of_smAbove {m : SMap β} {k : Nat} (h : smAbove k m = true) (v : β) : (k, v) ∉ m := by
  induction m with
  | nil => exact List.not_mem_nil
  | cons x m ih =>
    obtain ⟨k', v'⟩ := x
    simp only [smAbove, Bool.and_eq_true, decide_eq_true_eq] at h
    obtain ⟨hlt, habove⟩ := h
    intro hmem
    rcases List.mem_cons.1 hmem with heq | hrest
    · exact Nat.ne_of_lt hlt (congrArg Prod.fst heq)
    · exact ih habove hrest

theorem smGet_smMerge_mem {st : SMap α} (h : smSorted st = true) {cells : SMap β} (hcells : smSorted cells = true) {k : Nat} {v : β}
    (hk : (k, v) ∈ cells) : smGet d (smMerge d g st cells) k = g (smGet d st k) v := by
  induction cells generalizing st with
  | nil => simp at hk
  | cons x cells ih =>
    obtain ⟨k', v'⟩ := x
    simp only [smSorted, Bool.and_eq_true] at hcells
    obtain ⟨habove, hsorted⟩ := hcells
    have hset := smSorted_smSet d st k' (g (smGet d st k') v') h
    rcases List.mem_cons.1 hk with heq | hmem
    · obtain ⟨rfl, rfl⟩ := Prod.mk.inj heq
      refine (smGet_smMerge_ne d g hset (not_mem_of_smAbove habove)).trans ?_
      exact smGet_smSet_same _ _ _ _ h
    · have hne : k ≠ k' := fun e => not_mem_of_smAbove habove v (e ▸ hmem)
      refine (ih hset hsorted hmem).trans ?_
      rw [smGet_smSet_ne _ _ _ _ _ h hne]

end

/-! ### Filtering a sorted map by value -/

/-- A key whose entries are all kept reads as before. -/
theorem smGet_filter_of_kept {α : Type} (d : α) (p : Nat × α → Bool) (m : SMap α) (k : Nat) (h : ∀ v, p (k, v) = true) :
    smGet d (m.filter p) k = smGet d m k := by
  induction m with
  | nil => rfl
  | cons e m ih =>
    obtain ⟨k', v⟩ := e
    by_cases hk : k' = k
    · subst hk
      rw [List.filter_cons_of_pos (h v), smGet, smGet, if_pos rfl, if_pos rfl]
    · rw [List.filter_cons]
      split
      · simp only [smGet, if_neg hk, ih]
      · simp only [smGet, if_neg hk, ih]

/-- Otherwise a sorted map reads its entry where that is kept, and the default where it is not. -/
theorem smGet_filter {α : Type} (d : α) (p : Nat × α → Bool) {m : SMap α} (hm : smSorted m = true) (k : Nat) :
    smGet d (m.filter p) k = if p (k, smGet d m k) = true then smGet d m k else d := by
  induction m with
  | nil =>
    exact (ite_self (c := p (k, d) = true) d).symm
  | cons e m ih =>
    obtain ⟨k', v⟩ := e
    simp only [smSorted, Bool.and_eq_true] at hm
    obtain ⟨habove, hsorted⟩ := hm
    by_cases hk : k' = k
    · subst hk
      have hrest := smGet_of_smAbove d k' _ (smAbove_filter p m k' habove)
      rw [List.filter_cons, smGet, if_pos rfl]
      split
      · rw [smGet, if_pos rfl]
      · exact hrest
    · have hget : smGet d ((k', v) :: m) k = smGet d m k := by rw [smGet, if_neg hk]
      rw [List.filter_cons, hget, ← ih hsorted]
      split
      · rw [smGet, if_neg hk]
      · rfl

/-! ### A spill -/

/-- A cell of a plane in binary64. -/
def cellWide (v : W64) : Nat := (fmtFA40.convert fmtB64 .rne v.toNat).v

/-- What a spill leaves of an element. -/
def spillCell (first : Bool) (x v : W64) : W64 := BitVec.ofNat 64 (if first then cellWide v else (fmtB64.add .rne x.toNat (cellWide v)).v)

/-- The store that a spill adds to: none at the first spill, and later the old one without the −0 that no cell is added to. -/
def spillBase (store : SMap W64) (p : ArrPlane) (first : Bool) : SMap W64 :=
  if first then [] else store.filter (fun e => e.2 != 0x8000000000000000#64 || p.cells.any (fun x => x.1 == e.1))

theorem spillInto_eq (store : SMap W64) (p : ArrPlane) (first : Bool) :
    spillInto store p first = smMerge 0#64 (spillCell first) (spillBase store p first) p.cells := rfl

section
variable {store : SMap W64} {p : ArrPlane} (hstore : smSorted store = true)
include hstore

theorem spillBase_sorted (first : Bool) : smSorted (spillBase store p first) = true := by
  cases first with
  | true => rfl
  | false => exact smSorted_filter _ _ hstore

omit hstore in
theorem smGet_spillBase_mem {k : Nat} {v : W64} (hk : (k, v) ∈ p.cells) : smGet 0#64 (spillBase store p false) k = smGet 0#64 store k :=
  smGet_filter_of_kept _ _ _ _ fun w => by
    have hlisted : p.cells.any (fun x => x.1 == k) = true := List.any_eq_true.2 ⟨(k, v), hk, beq_self_eq_true k⟩
    rw [hlisted, Bool.or_true]

theorem smGet_spillBase_ne (first : Bool) {k : Nat} (hk : ∀ v, (k, v) ∉ p.cells) : smGet 0#64 (spillBase store p first) k =
    if first = true ∨ smGet 0#64 store k = 0x8000000000000000#64 then 0#64 else smGet 0#64 store k := by
  cases first with
  | true => simp [spillBase, smGet]
  | false =>
    have hlisted : p.cells.any (fun x => x.1 == k) = false := by
      rw [List.any_eq_false]
      rintro ⟨k', v⟩ hmem heq
      exact hk v (beq_iff_eq.1 heq ▸ hmem)
    refine (smGet_filter _ _ hstore k).trans ?_
    simp only [hlisted, Bool.or_false, bne_iff_ne, Bool.false_eq_true, false_or, ne_eq, ite_not]

theorem spillInto_cell (hcells : smSorted p.cells = true) (first : Bool) {k : Nat} {v : W64} (hk : (k, v) ∈ p.cells) :
    smGet 0#64 (spillInto store p first) k = spillCell first (smGet 0#64 store k) v := by
  rw [spillInto_eq, smGet_smMerge_mem _ _ (spillBase_sorted hstore first) hcells hk]
  cases first with
  | true => rfl
  | false => rw [smGet_spillBase_mem hk]

theorem spillInto_rest (first : Bool) {k : Nat} (hk : ∀ v, (k, v) ∉ p.cells) : smGet 0#64 (spillInto store p first) k =
    if first = true ∨ smGet 0#64 store k = 0x8000000000000000#64 then 0#64 else smGet 0#64 store k := by
  rw [spillInto_eq, smGet_smMerge_ne _ _ (spillBase_sorted hstore first) hk, smGet_spillBase_ne hstore first hk]

end

/-! ### The state of a location -/

/-- Where ARR_STATUS shows a location's state. -/
def locFld (loc : Nat) : Fld :=
  if loc = 2 then Fld.arrStatus_store_state else if loc = 0 then Fld.arrStatus_plane0_state else Fld.arrStatus_plane1_state

theorem Mach.locState_eq (m : Mach) (d c loc : Nat) : m.locState d c loc = m.get (locFld loc) d (c := c) := by
  unfold Mach.locState Mach.storeState Mach.planeState locFld
  split
  · rfl
  · split <;> rfl

theorem locFld_reg (loc : Nat) : (locFld loc).reg = .arrStatus := by
  unfold locFld
  split
  · rfl
  · split <;> rfl

theorem locFld_lo_hi (loc : Nat) : 5 ≤ (locFld loc).lo ∧ (locFld loc).lo ≤ (locFld loc).hi + 1 ∧ (locFld loc).hi ≤ 13 := by
  unfold locFld
  split
  · decide
  · split <;> decide

section
variable {m m' : Mach} {d c loc : Nat}

theorem Mach.locState_of_regs (h : m'.regs = m.regs) : m'.locState d c loc = m.locState d c loc := by
  rw [Mach.locState_eq, Mach.locState_eq]
  exact congrArg (fun v => bitsOf v _ _) (Mach.reg_congr h _)

/-- The fields of ARR_STATUS beside the states of the locations. -/
theorem Mach.locState_put_apart (h : m.regsSorted) {f : Fld} (hf : f.reg = .arrStatus) (hord : f.lo ≤ f.hi + 1) (h64 : f.hi < 64)
    (hapart : f.hi < 5 ∨ 13 < f.lo) (v : Nat) : (m.put f d v (c := c)).locState d c loc = m.locState d c loc := by
  obtain ⟨h1, _, h3⟩ := locFld_lo_hi loc
  rw [Mach.locState_eq, Mach.locState_eq]
  exact Mach.get_put_disjoint _ _ _ _ _ _ _ _ h ((locFld_reg loc).trans hf.symm) hord h64 (by omega)

theorem Mach.locState_cnt_vec (h : m.regsSorted) (i n : Nat) : (m.cnt .vecCnt d i n (c := c)).locState d c loc = m.locState d c loc := by
  rw [Mach.locState_eq, Mach.locState_eq]
  exact ((Mach.Keeps.refl .arrStatus h).cnt (by decide) ..).get_eq (locFld_reg loc) ..

theorem Mach.locState_arrStatus (h : m.regsSorted) : (m.arrStatus d c).locState d c loc = m.locState d c loc := by
  have opened := Mach.regsSorted_put m Fld.arrStatus_open_tiles d (m.arr d c).openTiles.length 0 c 0 h
  have htiles := Mach.locState_put_apart (loc := loc) (d := d) (c := c) h (f := Fld.arrStatus_open_tiles) rfl (by decide) (by decide) (by decide)
    (m.arr d c).openTiles.length
  unfold Mach.arrStatus
  extract_lets os m1 m2 busyLoc
  have hseq : m2.regsSorted ∧ m2.locState d c loc = m.locState d c loc := by
    simp only [m2]
    split
    · exact ⟨Mach.regsSorted_put _ _ _ _ _ _ _ opened,
        (Mach.locState_put_apart opened rfl (by decide) (by decide) (by decide) _).trans htiles⟩
    · exact ⟨opened, htiles⟩
  exact (Mach.locState_put_apart hseq.1 rfl (by decide) (by decide) (by decide) _).trans hseq.2

/-- R95: a location whose values are taken is FREE. -/
theorem Mach.locState_freeLoc (h : m.regsSorted) (hrel : m.locState d c loc = plReleased) : (m.freeLoc d c loc).locState d c loc = plFree := by
  have freed {m' : Mach} (h' : m'.regsSorted) : ((m'.put (locFld loc) d plFree (c := c)).arrStatus d c).locState d c loc = plFree := by
    obtain ⟨_, h2, h3⟩ := locFld_lo_hi loc
    rw [Mach.locState_arrStatus (Mach.regsSorted_put _ _ _ _ _ _ _ h'), Mach.locState_eq,
      Mach.get_put_same _ _ _ _ _ _ _ h' h2 (by omega)]
    exact Nat.zero_mod _
  unfold Mach.freeLoc
  rw [if_neg (not_not_intro hrel)]
  by_cases h2 : loc = 2
  · rw [if_pos h2]
    subst h2
    exact freed (m' := m.modArr d c (fun a => { a with store := [] })) h
  · rw [if_neg h2]
    have hset : ∀ m' : Mach, m'.setPlaneState d c loc plFree = m'.put (locFld loc) d plFree (c := c) := by
      intro m'
      unfold Mach.setPlaneState locFld
      rw [if_neg h2]
      split <;> rfl
    rw [hset]
    exact freed (m' := m.modPlane d c loc (fun x => { ArrPlane.init with last := x.last })) h

end

/-! ### VACC (R94, R95) -/

theorem Mach.modRun_fold_fields (m : Mach) (d c : Nat) {α : Type} (f : α → VecRun → VecRun) (l : List α) :
    (l.foldl (fun m x => m.modRun d c (f x)) m).regs = m.regs ∧ (l.foldl (fun m x => m.modRun d c (f x)) m).mem = m.mem := by
  induction l generalizing m with
  | nil => exact ⟨rfl, rfl⟩
  | cons x l ih => exact ih (m.modRun d c (f x))

theorem Mach.freeLoc_mem (m : Mach) (d c loc : Nat) : (m.freeLoc d c loc).mem = m.mem := by
  have status (m : Mach) : (m.arrStatus d c).mem = m.mem := by
    unfold Mach.arrStatus
    extract_lets os m1 m2 busyLoc
    change m2.mem = m.mem
    simp only [m2]
    split <;> rfl
  have plane (m : Mach) (s : Nat) : (m.setPlaneState d c loc s).mem = m.mem := by
    unfold Mach.setPlaneState
    split <;> rfl
  unfold Mach.freeLoc
  split
  · rfl
  · split
    · exact status _
    · exact (status _).trans (plane _ _)

section
variable {m : Mach} {d c : Nat} {r : VecRun} {v : VInst} {bad : Bool}

/-- An instruction that reads rows of a location that there is, into registers that there are. -/
def VInst.readsAcc (v : VInst) : Prop :=
  v.imm % 4 ≠ 3 ∧ bitsOf v.imm 16 9 ≠ 0 ∧ bitsOf v.imm 8 2 + bitsOf v.imm 16 9 ≤ 128 ∧
    (bitOf v.imm 17 = true ∨ v.vd + (if v.w then 2 * bitsOf v.imm 16 9 else bitsOf v.imm 16 9) ≤ 32) ∧ (v.imm % 4 ≠ 2 ∨ v.w = true)

/-- What it reads fits the operand cache, where it goes there. -/
def VInst.accFits (v : VInst) (r : VecRun) : Prop :=
  bitOf v.imm 17 = false ∨ ocOk (r.sreg v.sa) (512 * (if v.w then 2 * bitsOf v.imm 16 9 else bitsOf v.imm 16 9)) 64 = true

variable (h : v.readsAcc)
include h

theorem VInst.legal_of_readsAcc : ¬ (v.imm % 4 = 3 ∨ bitsOf v.imm 16 9 = 0 ∨ 128 < bitsOf v.imm 8 2 + bitsOf v.imm 16 9 ∨
    ((!bitOf v.imm 17) = true ∧ 32 < v.vd + (if v.w = true then 2 * bitsOf v.imm 16 9 else bitsOf v.imm 16 9))) := by
  obtain ⟨hloc, hn, hrows, hregs, _⟩ := h
  rintro (h3 | h0 | hlong | ⟨htoOc, hmany⟩)
  · exact hloc h3
  · exact hn h0
  · exact absurd hrows (Nat.not_le.2 hlong)
  · exact absurd (hregs.resolve_left (by simpa using htoOc)) (Nat.not_le.2 hmany)

theorem VInst.wide_of_readsAcc : ¬ (v.imm % 4 = 2 ∧ (!v.w) = true) := by
  obtain ⟨_, _, _, _, hwide⟩ := h
  rintro ⟨h2, hw⟩
  exact hwide.elim (fun hne => hne h2) (fun htrue => by simp [htrue] at hw)

theorem vecVacc_not_released (hstate : m.locState d c (v.imm % 4) ≠ plReleased) : vecVacc bad d c m r v =
    (m.ev Fld.arrEvents_read_err d (c := c), .fail (if m.locPoisonAb d c (v.imm % 4) then stPoisoned else stAccRead)) := by
  unfold vecVacc
  exact (if_neg (VInst.legal_of_readsAcc h)).trans ((if_neg (VInst.wide_of_readsAcc h)).trans (if_pos hstate))

section
variable (hstate : m.locState d c (v.imm % 4) = plReleased) (hfits : v.accFits r)
include hstate hfits

theorem vecVacc_uncorrectable (hbad : bad = true) (hloc : v.imm % 4 = 2) :
    vecVacc bad d c m r v = (m.toCp d 0x34 false false [(4, 5), (8, coreNum d c), (48, 0)], .fail stPoisoned) := by
  unfold vecVacc
  refine (if_neg (VInst.legal_of_readsAcc h)).trans ((if_neg (VInst.wide_of_readsAcc h)).trans ((if_neg (not_not_intro hstate)).trans
    ((if_neg ?_).trans (if_pos ?_))))
  · rcases hfits with hreg | hoc
    · simp [hreg]
    · rw [hoc, Bool.not_true, Bool.and_false]
      exact Bool.false_ne_true
  · simp [hbad, hloc]

theorem vecVacc_reads (hgood : bad = false ∨ v.imm % 4 ≠ 2) : ∃ m' : Mach,
    m'.regs = (m.cnt .vecCnt d 2 (bitsOf v.imm 16 9) (c := c)).regs ∧ m'.mem = m.mem ∧
      vecVacc bad d c m r v = (if v.free then m'.freeLoc d c (v.imm % 4) else m', .next) := by
  unfold vecVacc
  extract_lets loc first n toOc regs off dsc lanes m1 m2
  refine ⟨m2, ?_, ?_, ?_⟩
  · simp only [m2]
    split
    · rfl
    · exact (Mach.modRun_fold_fields m1 d c _ _).1
  · simp only [m2]
    split
    · rfl
    · exact (Mach.modRun_fold_fields m1 d c _ _).2
  · refine (if_neg (VInst.legal_of_readsAcc h)).trans ((if_neg (VInst.wide_of_readsAcc h)).trans ((if_neg (not_not_intro hstate)).trans
      ((if_neg ?_).trans (if_neg ?_))))
    · rcases hfits with hreg | hoc
      · simp [toOc, hreg]
      · rw [show ocOk off (512 * regs) 64 = true from hoc, Bool.not_true, Bool.and_false]
        exact Bool.false_ne_true
    · rcases hgood with hb | hl
      · simp [hb]
      · simp [loc, hl]

end
end

/-- Settles O40: a spill takes the cells one by one into a sorted store; a read looks at the location's state alone, which no register
but ARR_STATUS holds. -/
theorem accumulatorsSpillAndRead : Obligations.AccumulatorsSpillAndRead := by
  refine ⟨?_, ?_⟩
  · intro store p first hstore hcells t wide
    refine ⟨?_, ?_, ?_⟩
    · exact fun k v hk => spillInto_cell hstore hcells first hk
    · exact fun k hk => spillInto_rest hstore first hk
    · exact smMerge_sorted 0#64 (spillCell first) (spillBase_sorted (p := p) hstore first) p.cells
  · intro m d c r v bad hregs loc n h1 h2 h3 h4 h5
    have reads : v.readsAcc := ⟨h1, h2, h3, h4, h5⟩
    refine ⟨fun hstate => vecVacc_not_released reads hstate, fun hstate hfits hbad hloc => vecVacc_uncorrectable reads hstate hfits hbad hloc, ?_⟩
    intro hstate hfits hgood
    obtain ⟨m', hregs', hmem', heq⟩ := vecVacc_reads reads hstate hfits hgood
    have hsorted' : m'.regsSorted := by simpa only [Mach.regsSorted, hregs'] using Mach.regsSorted_cnt hregs .vecCnt d 2 n c 0
    have hstate' : m'.locState d c loc = plReleased :=
      (Mach.locState_of_regs hregs').trans ((Mach.locState_cnt_vec hregs 2 n).trans hstate)
    rw [heq]
    refine ⟨rfl, fun hfree => ?_, fun hkept => ?_, ?_⟩
    · rw [if_pos hfree]
      exact Mach.locState_freeLoc hsorted' hstate'
    · rw [if_neg (by simp [hkept])]
      exact hstate'
    · dsimp only
      split
      · exact (Mach.freeLoc_mem m' d c _).trans hmem'
      · exact hmem'

end Sys2Proof.Machine
end

section
/-! SUPPORT and proofs. What a governor's window leaves (R457, R459, R461). -/

namespace Sys2Proof.Machine

/-- `m'` has the power state of die `d`, the cores and memory as in `m`. -/
structure Mach.SamePower (d : Nat) (m m' : Mach) : Prop where
  dies : smSorted m'.dies = true
  pwr : m'.pwr d = m.pwr d
  cores : m'.cores = m.cores
  mem : m'.mem = m.mem

namespace Mach.SamePower

theorem refl (d : Nat) {m : Mach} (h : smSorted m.dies = true) : SamePower d m m := ⟨h, rfl, rfl, rfl⟩

variable {d : Nat} {m m' : Mach} (h : SamePower d m m')
include h

theorem cnt (r : Reg) (x i n c j : Nat) : SamePower d m (m'.cnt r x i n c j) := ⟨h.dies, h.pwr, h.cores, h.mem⟩

theorem put (f : Fld) (x v i c j : Nat) : SamePower d m (m'.put f x v i c j) := ⟨h.dies, h.pwr, h.cores, h.mem⟩

theorem emitRec (x k : Nat) (a b : Bool) (fs : List (Nat × Nat)) (p q : Bool) (l : List Nat) : SamePower d m (m'.emitRec x k a b fs p q l) where
  dies := smSorted_smSet _ _ _ _ h.dies
  pwr := by
    rw [← h.pwr]
    by_cases hx : d = x
    · subst hx
      exact (congrArg Die.pwr (Mach.die_modDie_same m' d _ h.dies) :)
    · exact congrArg Die.pwr (Mach.die_modDie_ne m' x d _ h.dies hx)
  cores := h.cores
  mem := h.mem

end Mach.SamePower

section
variable {m : Mach} {d u : Nat} (hdies : smSorted m.dies = true)
include hdies

theorem Mach.pwr_modPwr (f : PwrSt → PwrSt) : (m.modPwr d f).pwr d = f (m.pwr d) :=
  congrArg Die.pwr (Mach.die_modDie_same m d _ hdies)

/-- What is noted of a unit's window is that unit's alone. -/
theorem Mach.gov_noted (hgov : smSorted (m.pwr d).gov = true) (new : GovSt) :
    (m.modPwr d (fun p => { p with gov := smSet GovSt.init p.gov u new })).gov d u = new ∧
      ∀ v, v ≠ u → (m.modPwr d (fun p => { p with gov := smSet GovSt.init p.gov u new })).gov d v = m.gov d v := by
  unfold Mach.gov
  rw [Mach.pwr_modPwr hdies]
  exact ⟨smGet_smSet_same _ _ _ _ hgov, fun v hv => smGet_smSet_ne _ _ _ _ _ hgov hv⟩

end

/-- A core that waits `n` bubbles from here on. -/
def Core.bubbling (n : Nat) (c : Core) : Core := { c with vecBubbles := n, vecSlot := 0, arr := { c.arr with bubbles := n, slot := 0 } }

/-- The bubbles of a core that takes `input` over its window: those of its own share, of the die's and of its heat. -/
def Mach.coreBubbles (m : Mach) (d u input : Nat) : Nat :=
  max (max (bubblesFor (m.get Fld.pwrCtl_gain d) (m.corePower d input) (unitShare u (m.pwr d).cap).2.1 (unitShare u (m.pwr d).cap).2.2)
    (bubblesFor (m.get Fld.pwrCtl_gain d) ⟨m.get Fld.pwrStatus_die_w d, 1⟩ (unitShare u (m.pwr d).cap).2.1 100))
    (smGet 0 (m.pwr d).therm (thermKey u))

/-- A window of a core's governor notes the core's bubbles and gives them to the core; what follows counts, shows and records. -/
theorem Mach.governor_core {m : Mach} {d u input : Nat} (hd : d < 8) (hu : u < 32) (hdies : smSorted m.dies = true) :
    ∃ new : GovSt, new.bubbles = m.coreBubbles d u input ∧
      Mach.SamePower d ((m.modPwr d (fun p => { p with gov := smSet GovSt.init p.gov u new })).modCore d u (Core.bubbling (m.coreBubbles d u input)))
        (m.governor d u input) := by
  have hne : d ≠ sdDie := by unfold sdDie; omega
  have hshare : unitShare u (m.pwr d).cap = (0, (m.pwr d).cap * 54, 3200) := if_pos hu
  unfold Mach.governor
  extract_lets gain cap power g now
  rw [show unitShare u cap = _ from hshare]
  dsimp -zeta only
  extract_lets b1 b total since exceeds sent new m1 slowed charged shown excess
  have hgain : gain = m.get Fld.pwrCtl_gain d := by simp only [gain, if_neg hne]
  have hpower : power = m.corePower d input := if_pos hu
  have htotal : total = m.coreBubbles d u input := by
    simp only [total, b, b1, Mach.coreBubbles, hshare, if_pos hu, hgain, hpower]
  have hslowed : slowed = m1.modCore d u (Core.bubbling (m.coreBubbles d u input)) := by
    rw [← htotal]
    rfl
  refine ⟨new, htotal, ?_⟩
  have same : Mach.SamePower d slowed slowed := .refl d (smSorted_smSet _ _ _ _ hdies)
  clear_value total power
  have hcharged : Mach.SamePower d slowed charged := by
    simp only [charged]
    split
    · exact same
    · exact (same.cnt ..).cnt ..
  have hshown : Mach.SamePower d slowed shown := by
    simp only [shown, if_pos hu]
    exact hcharged.put ..
  rw [show (m.modPwr d (fun p => { p with gov := smSet GovSt.init p.gov u new })).modCore d u (Core.bubbling (m.coreBubbles d u input)) =
    slowed from hslowed.symm]
  split
  · exact (hshown.put ..).emitRec ..
  · exact hshown

/-- Settles O56: the unit's window holds its bubbles, its core has them, and what follows counts, shows and records them. -/
theorem governorSetsTheBubbles : Obligations.GovernorSetsTheBubbles := by
  intro s d u input hd hu hdies hcores hregs hgov
  have hd8 : (d.val : Nat) < 8 := d.isLt
  have hnine : s.m.nineRuns d = true := by
    rw [Mach.nineRuns, if_neg (by unfold sdDie; omega)]
    exact hd
  obtain ⟨new, hnew, same⟩ := Mach.governor_core (input := input) hd8 hu hdies
  obtain ⟨hnoted, hothers⟩ := Mach.gov_noted (u := u) hdies hgov new
  have hgovs (v : Nat) : (s.m.governor d u input).gov d v =
      (s.m.modPwr d (fun p => { p with gov := smSet GovSt.init p.gov u new })).gov d v :=
    congrArg (fun p : PwrSt => smGet GovSt.init p.gov v) same.pwr
  have hcore : (s.m.governor d u input).core d u = Core.bubbling (s.m.coreBubbles d u input) (s.m.core d u) :=
    (Mach.core_of_cores same.cores d u).trans (Mach.core_modCore_same _ _ _ _ hcores)
  have hbubbles : ((s.m.governor d u input).gov d u).bubbles = s.m.coreBubbles d u input :=
    (congrArg GovSt.bubbles ((hgovs u).trans hnoted)).trans hnew
  refine ⟨s.setM (s.m.governor d u input), (exec_governorWindow ..).trans (State.onNine_run hnine), hbubbles, ?_, ?_, ?_, ?_, ?_, same.mem⟩
  · exact (congrArg Core.vecBubbles hcore).trans hbubbles.symm
  · exact (congrArg (fun c : Core => c.arr.bubbles) hcore).trans hbubbles.symm
  · exact congrArg Core.vecSlot hcore
  · exact congrArg (fun c : Core => c.arr.slot) hcore
  · exact fun v hv => (hgovs v).trans (hothers v hv)

end Sys2Proof.Machine
end

section
/-! SUPPORT and proofs. Illegal register accesses (R8, R9). -/

namespace Sys2Proof.Machine

section
variable {m : Mach} {who : BusWho} {pa n v hw : Nat} (hslot : inSlots pa n = true) (hmeets : slotsMeet who pa = false)
include hslot hmeets

theorem Mach.storeReg_of_slots_unmet : m.storeReg who pa n v hw = { m with resp := .accessFault } := by
  simp only [Mach.storeReg, Mach.busWrite, hslot, hmeets, if_true, Bool.false_eq_true, if_false]

theorem Mach.loadReg_of_slots_unmet : m.loadReg who pa n = { m with resp := .accessFault } := by
  simp only [Mach.loadReg, Mach.busRead, hslot, hmeets, if_true, Bool.false_eq_true, if_false]

end

/-- Core code meets no slot, and the MC those of mailbox 31 alone. -/
theorem slotsMeet_of_stranger {who : BusWho} {pa : Nat} (h : who = .core ∨ (who = .mc ∧ pa < 0x8080009F000)) : slotsMeet who pa = false := by
  rcases h with rfl | ⟨rfl, hpa⟩
  · rfl
  · exact decide_eq_false (Nat.not_le.2 hpa)

/-- Settles O9: the access ends before any register or slot is read or written. -/
theorem illegalAccessFaults : Obligations.IllegalAccessFaults := by
  refine ⟨?_, ?_⟩
  · intro s who pa n v hw hp hslot hwho
    have hmeets := slotsMeet_of_stranger hwho
    exact ⟨((exec_registerWrite ..).trans (State.onModule_run hp)).trans (s.next_setM_congr (Mach.storeReg_of_slots_unmet hslot hmeets)),
      ((exec_rcCounterRead ..).trans (State.onModule_run hp)).trans (s.next_setM_congr (Mach.loadReg_of_slots_unmet hslot hmeets))⟩
  · intro s who pa n v hw hp hslot hbad
    exact ⟨((exec_registerWrite ..).trans (State.onModule_run hp)).trans
        (s.next_setM_congr (Mach.storeReg_of_fault hslot fun id b hat => .inl (hbad id b hat))),
      ((exec_rcCounterRead ..).trans (State.onModule_run hp)).trans
        (s.next_setM_congr (Mach.loadReg_of_fault hslot fun id b hat => .inl (hbad id b hat)))⟩

end Sys2Proof.Machine
end

section
/-! SUPPORT and proofs. Start-up (R511, R514 to R521). -/

namespace Sys2Proof.Machine

/-! ### A phase that fails (R514) -/

/-- The ports of every die are dark where start-up had reached them. -/
def Mach.darkened8 (m : Mach) : Mach := if 7 ≤ m.bootPhase then (List.range 8).foldl (fun m d => m.darkPorts d) m else m

theorem Mach.darkPort_pins_sec (m : Mach) (d p : Nat) : (m.darkPort d p).pins = m.pins ∧ (m.darkPort d p).sec = m.sec := by
  unfold Mach.darkPort
  exact ⟨rfl, rfl⟩

theorem Mach.darkPorts_pins_sec (m : Mach) (d : Nat) : (m.darkPorts d).pins = m.pins ∧ (m.darkPorts d).sec = m.sec := by
  unfold Mach.darkPorts
  rw [Mach.modDie_pins, Mach.modDie_sec]
  exact foldl_keeps (fun x : Mach => x.pins = m.pins ∧ x.sec = m.sec) (fun x p => x.darkPort d p)
    (fun x p hx => ⟨(x.darkPort_pins_sec d p).1.trans hx.1, (x.darkPort_pins_sec d p).2.trans hx.2⟩) (List.range 8) m ⟨rfl, rfl⟩

theorem Mach.darkened8_pins_sec (m : Mach) : m.darkened8.pins = m.pins ∧ m.darkened8.sec = m.sec := by
  unfold Mach.darkened8
  split
  · exact foldl_keeps (fun x : Mach => x.pins = m.pins ∧ x.sec = m.sec) (fun x d => x.darkPorts d)
      (fun x d hx => ⟨(x.darkPorts_pins_sec d).1.trans hx.1, (x.darkPorts_pins_sec d).2.trans hx.2⟩) _ _ ⟨rfl, rfl⟩
  · exact ⟨rfl, rfl⟩

theorem Mach.keeps_darkened8 {m : Mach} (h : m.regsSorted) : Mach.Keeps .bootStatus m m.darkened8 := by
  unfold Mach.darkened8
  refine Mach.Keeps.ite (Mach.Keeps.foldl (fun x d hx => ?_) _ (.refl _ h)) (.refl _ h)
  obtain ⟨hsorted, hrd⟩ := Mach.darkPorts_keeps x d hx.sorted
  exact ⟨hsorted, fun d' i c j => (hrd _ d' i c j (by decide)).trans (hx.rd_eq d' i c j)⟩

/-- The state that a failure leaves, recovery apart. -/
def Mach.halted (m : Mach) (code : Nat) : Mach :=
  let first := m.bootPhase == 1
  let m := m.darkened8.put Fld.bootStatus_fail sdDie code
  { m with pins := { m.pins with fault := true, held := true, acRun := false, pcie := .idle, mcUp := m.pins.mcUp || (first && !m.sec.hung) },
           sec := { m.sec with stopped := !first } }

theorem Mach.bootFail_eq (m : Mach) (code : Nat) :
    m.bootFail code = if m.bootPhase = 1 then (m.halted code).endPhase 1 2 else m.halted code := by
  unfold Mach.bootFail Mach.halted Mach.darkened8
  simp only [beq_iff_eq]

section
variable {m : Mach} {code : Nat} (h : m.regsSorted)
include h

theorem Mach.halted_sorted : (m.halted code).regsSorted := Mach.regsSorted_put _ _ _ _ _ _ _ (Mach.keeps_darkened8 h).sorted

theorem Mach.halted_fail (hcode : code < 256) : (m.halted code).get Fld.bootStatus_fail sdDie = code :=
  (Mach.get_put_same m.darkened8 Fld.bootStatus_fail sdDie code 0 0 0 (Mach.keeps_darkened8 h).sorted (by decide) (by decide)).trans
    (Nat.mod_eq_of_lt hcode)

theorem Mach.halted_phase : (m.halted code).bootPhase = m.bootPhase := by
  unfold Mach.bootPhase
  exact (Mach.get_put_disjoint m.darkened8 Fld.bootStatus_fail Fld.bootStatus_phase sdDie code 0 0 0 (Mach.keeps_darkened8 h).sorted rfl
    (by decide) (by decide) (by decide)).trans ((Mach.keeps_darkened8 h).get_eq rfl ..)

theorem Mach.endPhase_fail : (m.endPhase 1 2).get Fld.bootStatus_fail sdDie = m.get Fld.bootStatus_fail sdDie := by
  have timed := (Mach.Keeps.refl .bootStatus h).wr (r' := .bootPhaseUs) (by decide) sdDie (m.bootUs % 2 ^ 32) 1 0 0
  unfold Mach.endPhase
  exact (Mach.get_put_disjoint _ Fld.bootStatus_phase Fld.bootStatus_fail sdDie 2 0 0 0 timed.sorted rfl (by decide) (by decide) (by decide)).trans
    (timed.get_eq rfl ..)

theorem Mach.endPhase_phase : (m.endPhase 1 2).bootPhase = 2 := by
  have timed := (Mach.Keeps.refl .bootStatus h).wr (r' := .bootPhaseUs) (by decide) sdDie (m.bootUs % 2 ^ 32) 1 0 0
  unfold Mach.endPhase Mach.bootPhase
  exact (Mach.get_put_same _ Fld.bootStatus_phase sdDie 2 0 0 0 timed.sorted (by decide) (by decide)).trans (by decide)

end

theorem Mach.bootFail_pins_sec (m : Mach) (code : Nat) :
    (m.bootFail code).pins = (m.halted code).pins ∧ (m.bootFail code).sec = (m.halted code).sec := by
  rw [Mach.bootFail_eq]
  split <;> exact ⟨rfl, rfl⟩

theorem Mach.halted_mcUp (m : Mach) (code : Nat) : (m.halted code).pins.mcUp = (m.pins.mcUp || (m.bootPhase == 1 && !m.sec.hung)) := by
  have dark := m.darkened8_pins_sec
  rw [← dark.1, ← dark.2]
  rfl

/-- What a failed phase leaves. -/
theorem Mach.bootFail_leaves {m : Mach} {code : Nat} (h : m.regsSorted) (hcode : code < 256) :
    (m.bootFail code).pins.fault = true ∧ (m.bootFail code).pins.held = true ∧ (m.bootFail code).dataPlane = false ∧
       (m.bootFail code).get Fld.bootStatus_fail sdDie = code ∧
       (m.bootPhase ≠ 1 → (m.bootFail code).sec.stopped = true ∧ (m.bootFail code).bootPhase = m.bootPhase) ∧
       (m.bootFail code).pins.acRun = false ∧ (m.bootFail code).pins.pcie = .idle ∧ (m.pins.mcUp = true → (m.bootFail code).pins.mcUp = true) ∧
       (m.bootPhase = 1 → (m.bootFail code).sec.stopped = false ∧ (m.bootFail code).bootPhase = 2 ∧
         (m.sec.hung = false → (m.bootFail code).pins.mcUp = true)) := by
  obtain ⟨hpins, hsec⟩ := m.bootFail_pins_sec code
  have hmc := m.halted_mcUp code
  have hheld : (m.halted code).pins.held = true := rfl
  have hstopped : (m.halted code).sec.stopped = !(m.bootPhase == 1) := rfl
  refine ⟨?_, ?_, ?_, ?_, ?_, ?_, ?_, ?_, ?_⟩
  · rw [hpins]; rfl
  · rw [hpins, hheld]
  · rw [Mach.dataPlane, hpins, hheld, Bool.not_true, Bool.and_false]
  · rw [Mach.bootFail_eq]
    split
    · exact (Mach.endPhase_fail (Mach.halted_sorted h)).trans (Mach.halted_fail h hcode)
    · exact Mach.halted_fail h hcode
  · intro hne
    rw [hsec, hstopped, Mach.bootFail_eq, if_neg hne]
    exact ⟨by simpa using hne, Mach.halted_phase h⟩
  · rw [hpins]; rfl
  · rw [hpins]; rfl
  · intro hup
    rw [hpins, hmc, hup, Bool.true_or]
  · intro hone
    rw [hsec, hstopped, hpins, hmc, hone, Mach.bootFail_eq, if_pos hone]
    exact ⟨rfl, Mach.endPhase_phase (Mach.halted_sorted h), fun hhung => by simp [hhung]⟩

/-! ### The phases -/

section
variable {m : Mach}

theorem Mach.inSpPhase_of {k : Nat} (h : m.inPhase k = true) (hhung : m.sec.hung = false) : m.inSpPhase k = true := by
  simp [Mach.inSpPhase, h, hhung]

theorem Mach.imageVerification_in (h : m.inSpPhase 1 = true) : m.imageVerification =
    if m.verifyImage = 0 then (m.showImage.deriveIdentity).endPhase 1 3 else m.bootFail m.verifyImage := by
  unfold Mach.imageVerification
  exact (if_neg (by simp [h])).trans (ite_not ..)

section
variable (h : m.inSpPhase 2 = true)
include h

theorem Mach.recovery_none : m.recovery none = m.bootFail 0x06 := by
  unfold Mach.recovery
  exact if_neg (by simp [h])

theorem Mach.recovery_image (bs : List Byte) : m.recovery (some bs) =
    let slot := ((bs.take 0x4000000).mapIdx (fun i b => (i, b))).filter (fun x => x.2 != 0#8)
    let m : Mach := { m with perm := { m.perm with image := slot } }
    if m.verifyImage = 0 then ((m.showImage.deriveIdentity).put Fld.bootStatus_recovery sdDie 1).endPhase 2 3 else m.bootFail 0x07 := by
  unfold Mach.recovery
  exact (if_neg (by simp [h])).trans (ite_not ..)

end

section
variable (h : m.inSpPhase 3 = true)
include h

theorem Mach.release_started : m.release true =
    let als := kmac (m.sec.cdi1.getD []) ((m.sec.meas.drop 1).flatMap id) "KTM32 ALIAS"
    let cert := certificate (m.sec.fwSeed.getD []) (mldsaPublic als) [] (toBytes 32 (Config.freeBits m.freeCtr))
    let m : Mach := { m.tickFree with sec := { m.sec with aliasSeed := some als, aliasCert := cert, fwSeed := none },
                                      pins := { m.pins with mcUp := true, held := false }, cp := { m.cp with up := true } }
    let m := (List.range 8).foldl (fun m d => m.showShare d) m
    (m.put Fld.secStatus_attest_ready sdDie 1).endPhase 3 4 := by
  unfold Mach.release
  exact (if_neg (by simp [h])).trans (if_neg (by decide))

theorem Mach.release_failed : m.release false = m.bootFail 0x08 := by
  unfold Mach.release
  exact (if_neg (by simp [h])).trans (if_pos rfl)

end

section
variable (h : m.inPhase 4 = true)
include h

theorem Mach.fuseLoad_ok : m.fuseLoad true = (allCores.foldl (fun m x => m.wr .arrSpareMap x.1
    (Fld.arrSpareMap_lock.into (smGet noSpare m.perm.spare (coreKey x.1 x.2)).toNat 0) 0 x.2) m).endPhase 4 5 := by
  unfold Mach.fuseLoad
  exact (if_neg (by simp [h])).trans (if_neg (by decide))

theorem Mach.fuseLoad_bad : m.fuseLoad false = m.bootFail 0x10 := by
  unfold Mach.fuseLoad
  exact (if_neg (by simp [h])).trans (if_pos rfl)

end

section
variable {eyes : List (List StackEye)} {gd left : List Nat} (h : m.inPhase 5 = true)
include h

theorem Mach.memoryTraining_trains {r g : Nat} (hr : (List.range 4).find? (fun i => stacksPass (eyes.getD i [])) = some r)
    (hg : (List.range 3).find? (fun i => gd.getD i 1 == 0) = some g) : m.memoryTraining eyes gd (some left) =
    ((((List.range 8).foldl (fun m d => (List.range 4).foldl (fun m k => m.put Fld.hbmStatus_rate d (4 - r) (c := k)) m) m).reapplyRepairs left).put
      Fld.gdStatus_rate sdDie (3 - g)).endPhase 5 6 := by
  unfold Mach.memoryTraining
  rw [if_neg (by simp [h]), hr, hg]

theorem Mach.memoryTraining_no_log : m.memoryTraining eyes gd none = m.bootFail 0x22 := by
  unfold Mach.memoryTraining
  exact if_neg (by simp [h])

theorem Mach.memoryTraining_no_rate (hr : ∀ i, i < 4 → stacksPass (eyes.getD i []) = false) :
    m.memoryTraining eyes gd (some left) = m.bootFail 0x20 := by
  have hnone : (List.range 4).find? (fun i => stacksPass (eyes.getD i [])) = none := by
    simpa [List.find?_eq_none] using hr
  unfold Mach.memoryTraining
  rw [if_neg (by simp [h]), hnone]

theorem Mach.memoryTraining_no_gd (hr : ∃ i, i < 4 ∧ stacksPass (eyes.getD i []) = true) (hg : ∀ i, i < 3 → gd.getD i 1 ≠ 0) :
    m.memoryTraining eyes gd (some left) = m.bootFail 0x21 := by
  obtain ⟨r, hr⟩ : ∃ r, (List.range 4).find? (fun i => stacksPass (eyes.getD i [])) = some r := by
    rw [← Option.isSome_iff_exists, List.find?_isSome]
    obtain ⟨i, hi, hpass⟩ := hr
    exact ⟨i, List.mem_range.2 hi, hpass⟩
  have hnone : (List.range 3).find? (fun i => gd.getD i 1 == 0) = none := by
    simpa [List.find?_eq_none] using hg
  unfold Mach.memoryTraining
  rw [if_neg (by simp [h]), hr, hnone]

end

theorem Mach.selfTest_in (h : m.inPhase 6 = true) (rs : List SelfTestCore) : m.selfTest rs =
    let m := allCores.foldl (fun m x => m.put Fld.arrSpareMap_lock x.1 1 0 x.2) (rs.foldl (fun m t => m.selfTestCore t) m)
    if (List.range 8).any (fun d => (List.range 32).all (fun c => m.fenced d c)) then m.bootFail 0x30 else (m.endPhase 6 7).lightUp := by
  unfold Mach.selfTest
  exact if_neg (by simp [h])

theorem Mach.fabricBringUp_none (h : m.inPhase 7 = true) : m.fabricBringUp none = m.endPhase 7 8 := by
  unfold Mach.fabricBringUp
  exact if_neg (by simp [h])

theorem Mach.fabricBringUp_some (h : m.inPhase 7 = true) (node dims : Nat) : m.fabricBringUp (some (node, dims)) =
    ((m.cfgApply [] 0x0002 (cfgClamp 0x0002 0 0x1FF dims)).cfgApply [] 0x0001 (node % 2 ^ 14)).endPhase 7 8 := by
  unfold Mach.fabricBringUp
  exact if_neg (by simp [h])

theorem Mach.inPhase_phase {k : Nat} (h : m.inPhase k = true) : m.bootPhase = k := by
  simp only [Mach.inPhase, Bool.and_eq_true, beq_iff_eq] at h
  exact h.2

theorem Mach.loaderEntry_enters (h : m.inPhase 8 = true) : m.loaderEntry =
    let perst := some (Config.freeBits m.freeCtr % 2 == 1)
    let svn := if m.imageNum 7 1 % 2 = 1 ∧ m.sec.hung = false then max m.perm.svn (m.imageNum 8 4) else m.perm.svn
    let m : Mach :=
      { m.tickFree with perm := { m.perm with svn }, pins := { m.pins with acRun := true, pcie := .linkUp, perst } }
    (m.put Fld.bootStatus_svn_fused sdDie svn).endPhase 8 0xF := by
  have hno : m.inPhase 0xF = false := by
    rw [Mach.inPhase, Mach.inPhase_phase h, show ((8 : Nat) == 0xF) = false from rfl, Bool.and_false]
  unfold Mach.loaderEntry
  exact (if_neg (by simp [hno])).trans (if_neg (by simp [h]))

theorem Mach.loaderEntry_runs (h : m.inPhase 0xF = true) (hrun : m.pins.acRun = true) (hwith : m.pins.withdrawn = false) : m.loaderEntry =
    { m.tickFree with pins := { m.pins with perst := some (Config.freeBits m.freeCtr % 2 == 1) } } := by
  unfold Mach.loaderEntry
  exact if_pos (by simp [h, hrun, hwith])

theorem Mach.phaseTimeout_late {ms : Nat} (hmax : phaseMax m.bootPhase = some ms) (hin : m.inPhase m.bootPhase = true)
    (hlate : ((List.range 16).map (fun i => m.rd .bootPhaseUs sdDie i)).foldl max 0 + 1000 * ms < m.bootUs) :
    m.phaseTimeout = m.tickFree.bootFail (timeoutCode m.bootPhase (Config.freeBits m.freeCtr)) := by
  unfold Mach.phaseTimeout
  simp only [hmax]
  exact if_neg (by simp [hin, hlate])

end

/-- Settles O19: each phase goes down the branch that its conditions name, and a failure leaves what it says. -/
theorem startUpPhases : Obligations.StartUpPhases := by
  refine ⟨?_, fun m code h hcode => Mach.bootFail_leaves h hcode⟩
  intro s hp
  have run {i : Instr} {f : Mach → Mach} (h : exec i s = s.onModule f) {m : Mach} (hm : f s.m = m) : exec i s = .next (s.setM m) :=
    (h.trans (State.onModule_run hp)).trans (s.next_setM_congr hm)
  refine ⟨?_, ?_, ?_, ?_, ?_, ?_, ?_, ?_, ?_, ?_, ?_, ?_, ?_, ?_⟩
  · exact fun h hh => run (exec_imageVerification s) (Mach.imageVerification_in (Mach.inSpPhase_of h hh))
  · exact fun h hh => run (exec_recovery ..) (Mach.recovery_none (Mach.inSpPhase_of h hh))
  · exact fun bs h hh => run (exec_recovery ..) (Mach.recovery_image (Mach.inSpPhase_of h hh) bs)
  · exact fun h hh => run (exec_release ..) (Mach.release_started (Mach.inSpPhase_of h hh))
  · exact fun h hh => run (exec_release ..) (Mach.release_failed (Mach.inSpPhase_of h hh))
  · exact fun h => run (exec_fuseLoad ..) (Mach.fuseLoad_ok h)
  · exact fun h => run (exec_fuseLoad ..) (Mach.fuseLoad_bad h)
  · exact fun eyes gd left r g h hr hg => run (exec_memoryTraining ..) (Mach.memoryTraining_trains h hr hg)
  · intro eyes gd left h
    exact ⟨run (exec_memoryTraining ..) (Mach.memoryTraining_no_log h),
      fun hr => run (exec_memoryTraining ..) (Mach.memoryTraining_no_rate h hr),
      fun hr hg => run (exec_memoryTraining ..) (Mach.memoryTraining_no_gd h hr hg)⟩
  · exact fun rs h => run (exec_selfTest ..) (Mach.selfTest_in h rs)
  · exact fun h => run (exec_fabricBringUp ..) (Mach.fabricBringUp_none h)
  · exact fun node dims h => run (exec_fabricBringUp ..) (Mach.fabricBringUp_some h node dims)
  · intro perst
    exact ⟨fun h => run (exec_loaderEntry s) (Mach.loaderEntry_enters h),
      fun h hrun hwith => run (exec_loaderEntry s) (Mach.loaderEntry_runs h hrun hwith)⟩
  · rintro k ms rfl hmax hin hlate
    exact run (exec_phaseTimeout s) (Mach.phaseTimeout_late hmax hin hlate)

end Sys2Proof.Machine
end

section
/-! SUPPORT and proofs. The boundary and attestation (R522, R526, R530, R540, R542). -/

namespace Sys2Proof.Machine

section
variable {m : Mach}

theorem Mach.supplyLoss_low {mv : Nat} (h : mv < 36000 ∨ 63000 < mv) : m.supplyLoss mv = m.goSilent.unpowered := by
  unfold Mach.supplyLoss
  exact if_pos h

theorem Mach.i3cEntdaa_free (hup : m.pins.mcUp = true) (hfree : m.pins.i3c = none) (a : Fin 128) :
    m.i3cEntdaa a = { m with pins := { m.pins with i3c := some a.val } } := by
  unfold Mach.i3cEntdaa
  rw [if_neg (by simp [hup, hfree]), Nat.mod_eq_of_lt a.isLt]

theorem Mach.i3cSetdasa_other {st : Fin 128} (h : st ≠ 0x2A) (a : Nat) : m.i3cSetdasa st a = m := by
  unfold Mach.i3cSetdasa
  exact if_pos (fun e => h (Fin.ext e))

theorem Mach.debugPort_closed (h : m.debugOpen = false) (tck tms tdi trst : Bool) :
    m.debugPort tck tms tdi trst = { m with pins := { m.pins with tdo := none } } := by
  unfold Mach.debugPort
  exact if_pos (by simp [h])

section
variable (h : m.debugOpen = true)
include h

theorem Mach.debugPort_reset (tck tms tdi : Bool) :
    m.debugPort tck tms tdi false = { m with pins := { m.pins with tap := .testLogicReset, tck, tdo := none } } := by
  unfold Mach.debugPort
  exact (if_neg (by simp [h])).trans (if_pos rfl)

/-- At a rising edge of TCK the port takes one step, and drives TDO where it shifts. -/
theorem Mach.debugPort_edge (hck : m.pins.tck = false) (tms tdi : Bool) : m.debugPort true tms tdi true =
    { m.tickFree with pins := { m.pins with
        tap := tapNext m.pins.tap tms, tck := true,
        tdo := if (tapNext m.pins.tap tms == .shiftDr || tapNext m.pins.tap tms == .shiftIr) = true
          then some (Config.freeBits m.freeCtr % 2 == 1) else none } } := by
  unfold Mach.debugPort
  refine (if_neg (by simp [h])).trans ((if_neg (by decide)).trans ?_)
  simp only [hck, Bool.not_false, Bool.and_true, if_true]

end

/-! ### Attestation -/

/-- A request waits behind those that wait already. -/
def Mach.asking (m : Mach) (relay : Nat) (nonce : Option (List Byte)) : Mach :=
  { m with sec := { m.sec with asked := m.sec.asked ++ [⟨relay, nonce, m.pmu sdDie⟩] } }

section
variable (h : m.attests = true) {relay : Nat} {nonce : Option (List Byte)}
include h

theorem Mach.attestAsk_few (hfew : m.sec.asked.length ≤ 4) (waiting : Nat) :
    m.attestAsk relay nonce waiting = (m.asking relay nonce).attestServe (m.sec.asked.length + 1 - waiting) := by
  unfold Mach.attestAsk
  refine (if_neg (by simp [h])).trans ((if_neg (Nat.not_lt.2 hfew)).trans ?_)
  simp only [List.length_append, List.length_singleton]
  rfl

theorem Mach.attestAsk_busy (hmany : 4 < m.sec.asked.length) (waiting : Nat) : m.attestAsk relay nonce waiting = m.attestBusy relay := by
  unfold Mach.attestAsk
  exact (if_neg (by simp [h])).trans (if_pos hmany)

/-- With none waiting the request is answered at once. -/
theorem Mach.attestAsk_alone (hnone : m.sec.asked = []) :
    m.attestAsk relay nonce 0 = m.attestAnswer ⟨relay, nonce, m.pmu sdDie⟩ := by
  have hsame : ({ m with sec := { m.sec with asked := [] } } : Mach) = m := by rw [← hnone]
  rw [Mach.attestAsk_few h (by simp [hnone]), hnone, Mach.attestServe]
  simp only [Mach.asking, hnone, List.nil_append, List.length_nil, Nat.zero_add, Nat.sub_zero, List.take_succ_cons, List.take_zero,
    List.drop_succ_cons, List.drop_zero, List.foldl_cons, List.foldl_nil]
  rw [hsame]

end

section
variable {relay t : Nat}

theorem Mach.attestAnswer_report_tainted (htaint : m.flag Fld.secStatus_taint sdDie = true) (nonce : List Byte) :
    m.attestAnswer ⟨relay, some nonce, t⟩ = m.send 0x50 [relay, 0, ofBytes (m.reportHead nonce ++ List.replicate 2420 0#8)] := by
  unfold Mach.attestAnswer
  exact if_pos htaint

theorem Mach.attestAnswer_report_signed (htaint : m.flag Fld.secStatus_taint sdDie = false) (nonce : List Byte) :
    m.attestAnswer ⟨relay, some nonce, t⟩ = m.tickFree.send 0x50 [relay, 0, ofBytes (m.reportHead nonce ++
      mldsaSign (m.sec.aliasSeed.getD []) (m.reportHead nonce) (toBytes 32 (Config.freeBits m.freeCtr)))] := by
  unfold Mach.attestAnswer
  exact if_neg (by simp [htaint])

end
end

/-- Settles O20: each row goes down the branch that its conditions name. -/
theorem boundaryRows : Obligations.BoundaryRows := by
  intro s hp
  have run {i : Instr} {f : Mach → Mach} (h : exec i s = s.onModule f) {m : Mach} (hm : f s.m = m) : exec i s = .next (s.setM m) :=
    (h.trans (State.onModule_run hp)).trans (s.next_setM_congr hm)
  refine ⟨?_, ?_, ?_, ?_, ?_, ?_, ?_, ?_, ?_, ?_, ?_, ?_⟩
  · exact run (exec_supplyOutOfTolerance s) rfl
  · intro mv hmv
    have hrated : ¬ 65000 < mv := by omega
    exact run ((exec_supplyLoss mv s).trans (if_neg hrated)) (Mach.supplyLoss_low (by omega))
  · exact fun a hup hfree => run (exec_i3cEntdaa ..) (Mach.i3cEntdaa_free hup hfree a)
  · exact fun a hup hfree => run (exec_i3cSetdasa ..) (Mach.i3cEntdaa_free hup hfree a)
  · exact fun st a hst => run (exec_i3cSetdasa ..) (Mach.i3cSetdasa_other hst a)
  · exact fun tck tms tdi trst h => run (exec_debugPortAccess ..) (Mach.debugPort_closed h tck tms tdi trst)
  · exact fun tck tms tdi h => run (exec_debugPortAccess ..) (Mach.debugPort_reset h tck tms tdi)
  · intro tms tdi h hck
    refine ⟨_, run (exec_debugPortAccess ..) (Mach.debugPort_edge h hck tms tdi), rfl, rfl, ?_, rfl⟩
    simp only [State.setM]
    split
    · next hshift => simpa using hshift
    · next hshift => simpa using hshift
  · intro relay nonce h hnone
    exact ⟨fun htaint => run (exec_attestationReport ..) ((Mach.attestAsk_alone h hnone).trans (Mach.attestAnswer_report_signed htaint nonce)),
      fun htaint => run (exec_attestationReport ..) ((Mach.attestAsk_alone h hnone).trans (Mach.attestAnswer_report_tainted htaint nonce))⟩
  · exact fun relay h hnone => run (exec_attestationCertificates ..) (Mach.attestAsk_alone h hnone)
  · intro relay nonce waiting h hfew
    exact ⟨run (exec_attestationReport ..) (Mach.attestAsk_few h hfew waiting),
      run (exec_attestationCertificates ..) (Mach.attestAsk_few h hfew waiting)⟩
  · intro relay nonce waiting h hmany
    exact ⟨run (exec_attestationReport ..) (Mach.attestAsk_busy h hmany waiting),
      run (exec_attestationCertificates ..) (Mach.attestAsk_busy h hmany waiting)⟩

end Sys2Proof.Machine
end

section
/-! SUPPORT and proofs. The rows of fabric time (R27 to R38, R43, R538, R553). -/

namespace Sys2Proof.Machine

/-! ### Following the lock of the module -/

theorem Mach.moduleUnlocked_iff (m : Mach) : m.moduleUnlocked = true ↔ ∃ d < 9, m.ftState d < 2 := by
  simp [Mach.moduleUnlocked, Mach.dieLocked, nineDies, List.any_eq_true]

/-- A module that was unlocked before, or is not now, only shows its state. -/
theorem Mach.moduleLockFollow_shows {m : Mach} {was : Bool} (h : m.moduleUnlocked = true → was = true) :
    m.moduleLockFollow was = nineDies.foldl (fun n d => n.put Fld.ftStatus_module_unlocked d (b2n m.moduleUnlocked)) m := by
  unfold Mach.moduleLockFollow
  refine if_neg ?_
  simp only [Bool.and_eq_true, Bool.not_eq_true', not_and, Bool.not_eq_false]
  exact h

/-- `m'` has what FT_STATUS of CD0 shows beside its lock, its counter, memory and the module's time as in `m`. -/
structure Mach.KeepsGrandmaster (m m' : Mach) : Prop where
  sorted : m'.regsSorted
  shown : ∀ f : Fld, f.reg = .ftStatus → 4 ≤ f.lo → m'.get f 0 = m.get f 0
  ft : m'.ft 0 = m.ft 0
  mem : m'.mem = m.mem
  mt : m'.mt = m.mt

namespace Mach.KeepsGrandmaster

theorem refl {m : Mach} (h : m.regsSorted) : KeepsGrandmaster m m := ⟨h, fun _ _ _ => rfl, rfl, rfl, rfl⟩

variable {m m' : Mach} (h : KeepsGrandmaster m m')
include h

/-- The lock fields lie below all others of FT_STATUS. -/
theorem putLock {f : Fld} (hreg : f.reg = .ftStatus) (hord : f.lo ≤ f.hi + 1) (hlow : f.hi < 4) (d v : Nat) : KeepsGrandmaster m (m'.put f d v) where
  sorted := Mach.regsSorted_put _ _ _ _ _ _ _ h.sorted
  shown g hg hlo := by
    refine Eq.trans ?_ (h.shown g hg hlo)
    by_cases hd : d = 0
    · subst hd
      exact Mach.get_put_disjoint _ _ _ _ _ _ _ _ h.sorted (hg.trans hreg.symm) hord (by omega) (.inr (by omega))
    · unfold Mach.get
      rw [Mach.rd_put_ne _ _ _ _ _ _ _ _ _ _ _ _ h.sorted (by simp [Ne.symm hd])]
  ft := (Mach.rd_put_ne _ _ _ _ _ _ _ _ _ _ _ _ h.sorted (by simp [hreg])).trans h.ft
  mem := h.mem
  mt := h.mt

theorem modTime (d : Nat) (f : DieTime → DieTime) : KeepsGrandmaster m (m'.modTime d f) :=
  ⟨h.sorted, h.shown, h.ft, h.mem, h.mt⟩

end Mach.KeepsGrandmaster

/-! ### A backup grandmaster takes the role (R37, R553) -/

section
variable {m : Mach} {d x : Nat}

theorem Mach.ftState_put_ne (h : m.regsSorted) (hx : x ≠ d) (f : Fld) (v : Nat) : (m.put f d v).ftState x = m.ftState x :=
  congrArg (fun v => bitsOf v _ _) (Mach.rd_put_ne _ _ _ _ _ _ _ _ _ _ _ _ h (by simp [hx]))

/-- A put of a field of FT_STATUS beside the state. -/
theorem Mach.ftState_put_apart (h : m.regsSorted) {f : Fld} (hf : f.reg = .ftStatus) (hord : f.lo ≤ f.hi + 1) (h64 : f.hi < 64)
    (hlo : 1 < f.lo) (v : Nat) : (m.put f d v).ftState x = m.ftState x := by
  by_cases hx : x = d
  · subst hx
    unfold Mach.ftState
    exact Mach.get_put_disjoint _ _ _ _ _ _ _ _ h hf.symm hord h64 (.inl hlo)
  · exact Mach.ftState_put_ne h hx f v

/-- Die `d` is shown LOCKED. -/
def Mach.lockedShown (m : Mach) (d : Nat) : Mach :=
  (m.put Fld.ftStatus_state d ftLocked).put Fld.ftStatus_die_unlocked d 0

theorem Mach.ftState_lockedShown (h : m.regsSorted) : (m.lockedShown d).ftState d = ftLocked := by
  unfold Mach.lockedShown
  rw [Mach.ftState_put_apart (Mach.regsSorted_put _ _ _ _ _ _ _ h) rfl (by decide) (by decide) (by decide)]
  exact (Mach.get_put_same m Fld.ftStatus_state d ftLocked 0 0 0 h (by decide) (by decide)).trans (by decide)

theorem Mach.ftState_lockedShown_ne (h : m.regsSorted) (hx : x ≠ d) : (m.lockedShown d).ftState x = m.ftState x := by
  unfold Mach.lockedShown
  rw [Mach.ftState_put_ne (Mach.regsSorted_put _ _ _ _ _ _ _ h) hx, Mach.ftState_put_ne h hx]

/-- The counts of Table 2.1 begin anew. -/
def DieTime.recounted (t : DieTime) : DieTime := { t with over8 := 0, under4 := 0 }

/-- A die that leaves HOLDOVER for LOCKED unlocks nothing: the module shows its state again, and nothing else is told. -/
theorem Mach.ftEnter_locked_of_holdover (h : m.regsSorted) (hstate : m.ftState d = ftHoldover) :
    m.ftEnter d ftLocked = nineDies.foldl (fun n x => n.put Fld.ftStatus_module_unlocked x (b2n ((m.lockedShown d).modTime d DieTime.recounted).moduleUnlocked))
      ((m.lockedShown d).modTime d DieTime.recounted) := by
  have hne : m.ftState d ≠ ftLocked := by rw [hstate]; decide
  have hstays : ((m.lockedShown d).modTime d DieTime.recounted).moduleUnlocked = true → m.moduleUnlocked = true := by
    rw [Mach.moduleUnlocked_iff, Mach.moduleUnlocked_iff]
    rintro ⟨x, hx, hlow⟩
    change (m.lockedShown d).ftState x < 2 at hlow
    by_cases hxd : x = d
    · rw [hxd, Mach.ftState_lockedShown h] at hlow
      exact absurd hlow (by decide)
    · exact ⟨x, hx, by rwa [Mach.ftState_lockedShown_ne h hxd] at hlow⟩
  rw [← Mach.moduleLockFollow_shows hstays]
  unfold Mach.ftEnter
  refine (if_neg hne).trans ?_
  extract_lets was shown lost held timed
  have hlost : lost = shown := if_neg (fun hlose => absurd hlose.2 (by decide))
  have hheld : held = shown := (if_neg (by decide)).trans hlost
  have htimed : timed = (m.lockedShown d).modTime d DieTime.recounted := by
    rw [show m.lockedShown d = held from hheld.symm]
    rfl
  rw [htimed]

end

/-- The machine that holds the role and says so, before CD0 is LOCKED. -/
def Mach.ruling (m : Mach) : Mach :=
  let m := { m with mt := { m.mt with gm := true } }
  (m.setGm 0 (m.node 0) ((m.get Fld.ftStatus_time_epoch 0 + 1) % 256) 0).put Fld.ftStatus_upstream 0 0xFF

theorem Mach.gmTake_eq (m : Mach) : m.gmTake = (List.range 7).foldl (fun m k => m.selectSource (k + 1)) (m.ruling.ftEnter 0 ftLocked) := rfl

/-- What the machine that takes the role shows. -/
structure Mach.Rules (m m' : Mach) : Prop where
  sorted : m'.regsSorted
  gm : m'.mt.gm = true
  ft : m'.ft 0 = m.ft 0
  epoch : m'.get Fld.ftStatus_time_epoch 0 = (m.get Fld.ftStatus_time_epoch 0 + 1) % 256
  hop : m'.get Fld.ftStatus_hop_count 0 = 0
  node : m'.get Fld.ftStatus_gm_node 0 = m.node 0
  mem : m'.mem = m.mem

section
variable {m : Mach} (h : m.regsSorted)
include h

/-- The event that the grandmaster has changed is no part of FT_STATUS or of the counter. -/
def Mach.gmNoted (m : Mach) (d node epoch : Nat) : Mach :=
  if (m.get Fld.ftStatus_gm_node d == node && m.get Fld.ftStatus_time_epoch d == epoch) = true then m else m.ev Fld.ftEvents_gm_changed d

theorem Mach.keeps_gmNoted {r : Reg} (hr : r ≠ .ftEvents) (d node epoch : Nat) : Mach.Keeps r m (m.gmNoted d node epoch) :=
  Mach.Keeps.ite (.refl r h) ((Mach.Keeps.refl r h).put hr ..)

/-- The role is held, and a new grandmaster is noted. -/
def Mach.crowned (m : Mach) : Mach :=
  let m : Mach := { m with mt := { m.mt with gm := true } }
  m.gmNoted 0 (m.node 0) ((m.get Fld.ftStatus_time_epoch 0 + 1) % 256)

omit h in
theorem Mach.ruling_eq : m.ruling = (((m.crowned.put Fld.ftStatus_gm_node 0 (m.node 0)).put Fld.ftStatus_time_epoch 0
    ((m.get Fld.ftStatus_time_epoch 0 + 1) % 256)).put Fld.ftStatus_hop_count 0 0).put Fld.ftStatus_upstream 0 0xFF := rfl

theorem Mach.keeps_crowned {r : Reg} (hr : r ≠ .ftEvents) : Mach.Keeps r m m.crowned := by
  obtain ⟨hsorted, hrd⟩ := Mach.keeps_gmNoted (m := { m with mt := { m.mt with gm := true } }) h hr 0 (m.node 0)
    ((m.get Fld.ftStatus_time_epoch 0 + 1) % 256)
  exact ⟨hsorted, hrd⟩

omit h in
theorem Mach.crowned_rest : m.crowned.mt.gm = true ∧ m.crowned.mem = m.mem := by
  unfold Mach.crowned Mach.gmNoted
  dsimp only
  split <;> exact ⟨rfl, rfl⟩

theorem Mach.ruling_rules : m.Rules m.ruling ∧ m.ruling.ftState 0 = m.ftState 0 := by
  have crowned := Mach.keeps_crowned h (r := .ftStatus) (by decide)
  have count := Mach.keeps_crowned h (r := .ftCount) (by decide)
  have h0 := crowned.sorted
  have h1 := Mach.regsSorted_put _ Fld.ftStatus_gm_node 0 (m.node 0) 0 0 0 h0
  have h2 := Mach.regsSorted_put _ Fld.ftStatus_time_epoch 0 ((m.get Fld.ftStatus_time_epoch 0 + 1) % 256) 0 0 0 h1
  have h3 := Mach.regsSorted_put _ Fld.ftStatus_hop_count 0 0 0 0 0 h2
  have h4 := Mach.regsSorted_put _ Fld.ftStatus_upstream 0 0xFF 0 0 0 h3
  have apart {n : Mach} (hn : n.regsSorted) {f g : Fld} (v : Nat) (hf : f.reg = .ftStatus) (hg : g.reg = .ftStatus) (hord : f.lo ≤ f.hi + 1)
      (h64 : f.hi < 64) (hd : g.hi < f.lo ∨ f.hi < g.lo) : (n.put f 0 v).get g 0 = n.get g 0 :=
    Mach.get_put_disjoint _ _ _ _ _ _ _ _ hn (hg.trans hf.symm) hord h64 hd
  rw [Mach.ruling_eq]
  refine ⟨⟨h4, Mach.crowned_rest.1, ?_, ?_, ?_, ?_, Mach.crowned_rest.2⟩, ?_⟩
  · exact (((((count.put (f := Fld.ftStatus_gm_node) (by decide) ..).put (f := Fld.ftStatus_time_epoch) (by decide) ..).put
      (f := Fld.ftStatus_hop_count) (by decide) ..).put (f := Fld.ftStatus_upstream) (by decide) ..).rd_eq ..)
  · rw [apart h3 _ rfl rfl (by decide) (by decide) (by decide), apart h2 _ rfl rfl (by decide) (by decide) (by decide),
      Mach.get_put_same _ _ _ _ _ _ _ h1 (by decide) (by decide)]
    exact Nat.mod_mod _ _
  · rw [apart h3 _ rfl rfl (by decide) (by decide) (by decide), Mach.get_put_same _ _ _ _ _ _ _ h2 (by decide) (by decide), Nat.zero_mod]
  · rw [apart h3 _ rfl rfl (by decide) (by decide) (by decide), apart h2 _ rfl rfl (by decide) (by decide) (by decide),
      apart h1 _ rfl rfl (by decide) (by decide) (by decide), Mach.get_put_same _ _ _ _ _ _ _ h0 (by decide) (by decide)]
    exact Nat.mod_mod _ _
  · unfold Mach.ftState
    rw [apart h3 _ rfl rfl (by decide) (by decide) (by decide), apart h2 _ rfl rfl (by decide) (by decide) (by decide),
      apart h1 _ rfl rfl (by decide) (by decide) (by decide), apart h0 _ rfl rfl (by decide) (by decide) (by decide)]
    exact crowned.get_eq rfl 0 0 0 0

end

theorem Mach.Rules.of_keeps {m m' m'' : Mach} (h : m.Rules m') (h' : m'.KeepsGrandmaster m'') : m.Rules m'' where
  sorted := h'.sorted
  gm := (congrArg ModTime.gm h'.mt).trans h.gm
  ft := h'.ft.trans h.ft
  epoch := (h'.shown _ rfl (by decide)).trans h.epoch
  hop := (h'.shown _ rfl (by decide)).trans h.hop
  node := (h'.shown _ rfl (by decide)).trans h.node
  mem := h'.mem.trans h.mem

/-- CD0 that is LOCKED or in HOLDOVER is LOCKED then, and what is shown of the grandmaster stays. -/
theorem Mach.ftEnter_locked {m : Mach} (h : m.regsSorted) (hlocked : m.dieLocked 0 = true) :
    m.KeepsGrandmaster (m.ftEnter 0 ftLocked) ∧ (m.ftEnter 0 ftLocked).ftState 0 = ftLocked := by
  have hlow : 2 ≤ m.ftState 0 := of_decide_eq_true hlocked
  have hhigh : m.ftState 0 < 4 := Nat.mod_lt _ (by decide)
  have keeps := Mach.KeepsGrandmaster.refl h
  by_cases hstate : m.ftState 0 = ftLocked
  · have hsame : m.ftEnter 0 ftLocked = m := by
      unfold Mach.ftEnter
      exact if_pos hstate
    rw [hsame]
    exact ⟨keeps, hstate⟩
  · have hhold : m.ftState 0 = ftHoldover := by
      unfold ftHoldover
      unfold ftLocked at hstate
      omega
    rw [Mach.ftEnter_locked_of_holdover h hhold]
    have timed := (((keeps.putLock (f := Fld.ftStatus_state) rfl (by decide) (by decide) 0 ftLocked).putLock (f := Fld.ftStatus_die_unlocked) rfl
      (by decide) (by decide) 0 0).modTime 0 DieTime.recounted)
    have shown := foldl_keeps (fun n : Mach => m.KeepsGrandmaster n ∧ n.ftState 0 = ftLocked)
      (fun n x => n.put Fld.ftStatus_module_unlocked x (b2n ((m.lockedShown 0).modTime 0 DieTime.recounted).moduleUnlocked))
      (fun n x hn => ⟨hn.1.putLock rfl (by decide) (by decide) x _,
        (Mach.ftState_put_apart hn.1.sorted rfl (by decide) (by decide) (by decide) _).trans hn.2⟩) nineDies
      ((m.lockedShown 0).modTime 0 DieTime.recounted) ⟨timed, Mach.ftState_lockedShown h⟩
    exact shown

/-! ### The rows -/

section
variable {m : Mach} {d : Nat}

theorem Mach.timeSend_due {p : Nat} (hsilent : m.silent = false) (hst : m.get Fld.fabPortStatus_state d p = 3 ∨ m.get Fld.fabPortStatus_state d p = 4)
    (hdue : smGet 0 (m.time d).lastSend p + 64000 ≤ m.ft d) : m.timeSend d p =
      (m.modTime d (fun t => { t with lastSend := smSet 0 t.lastSend p (m.ft d) })).send 0x02
        [d, p, m.ft d, m.get Fld.ftStatus_gm_node d, m.get Fld.ftStatus_time_epoch d, m.get Fld.ftStatus_hop_count d,
         m.rd .ftCivilOffset d] := by
  unfold Mach.timeSend
  exact if_neg (by simp [hsilent, hdue, hst])

section
variable {src gm epoch hop : Nat} {t1 t2 t3 t4 : Int} {civil : Option W64}

theorem Mach.timeMessage_unheard (h : m.hears d src = false) : m.timeMessage d src t1 t2 t3 t4 gm epoch hop civil = m := by
  unfold Mach.timeMessage
  exact if_pos (by simp [h])

variable {g e hc : Nat} {c : Option W64} (h : m.hears d src = true) (hmsg : m.message src gm epoch hop civil = (g, e, hc, c))
include h hmsg

theorem Mach.timeMessage_no_hops (hfar : 63 ≤ hc) : m.timeMessage d src t1 t2 t3 t4 gm epoch hop civil =
    (((m.hearDelay d src t1 t2 t3 t4).loseSource d src).yieldTo src g e).noteEpoch src e := by
  unfold Mach.timeMessage
  rw [if_neg (by simp [h]), hmsg]
  dsimp only
  rw [if_pos hfar]

theorem Mach.timeMessage_hops (hnear : hc < 63) : m.timeMessage d src t1 t2 t3 t4 gm epoch hop civil =
    ((m.hearDelay d src t1 t2 t3 t4).meetMessage d src t3 t4 g e hc c).noteEpoch src e := by
  unfold Mach.timeMessage
  rw [if_neg (by simp [h]), hmsg]
  dsimp only
  rw [if_neg (Nat.not_le.2 hnear)]

end

theorem Mach.holdoverExpire_due (hstate : m.ftState d = ftHoldover) (hdue : 1000000 ≤ m.pmu d - (m.time d).holdStart) :
    m.holdoverExpire d = m.ftEnter d ftFree := by
  unfold Mach.holdoverExpire
  exact if_pos ⟨hstate, hdue⟩

theorem Mach.gmPromote_due (hrole : m.get Fld.ftCtrl_role 0 = 2) (hgm : m.mt.gm = false) (hlocked : m.dieLocked 0 = true)
    (hdue : 200000 ≤ m.pmu 0 - m.mt.heardAt) : m.gmPromote = m.gmTake := by
  unfold Mach.gmPromote
  exact if_pos ⟨hrole, by simp [hgm], hlocked, hdue⟩

/-- An edge of TREF_PPS is read. -/
def Mach.ppsRead (m : Mach) : Mach :=
  { m with mt := { m.mt with ptp := m.mt.ptp.map (· + 1), ppsAt := if m.cp.resetting.testBit 0 then none else some (m.ft 0) } }

theorem Mach.ppsEdge_gm (h : m.mt.gm = true) : m.ppsEdge =
    (m.ppsRead.modTime 0 (fun t => { t with adj := slewRate t.adj (Config.freeInt m.freeCtr) })).tickFree.civilFollow := by
  unfold Mach.ppsEdge
  exact if_pos h

theorem Mach.ppsEdge_other (h : m.mt.gm = false) : m.ppsEdge = m.ppsRead := by
  unfold Mach.ppsEdge
  exact if_neg (by simp [h])

end

/-- Settles O21: each row when it is due; a promotion moves CD0's lock state alone beside what it announces. -/
theorem timeRows : Obligations.TimeRows := by
  refine ⟨⟨?_, ?_, ?_, ?_, ?_, ?_, ?_, ?_, ?_, ?_⟩, ?_⟩
  · exact fun s hp => (exec_ftCounterTick s).trans (State.onModule_run hp)
  · intro s d p hd hsilent hst hdue
    exact ((exec_timeMessageSend ..).trans (State.onDie_run hd)).trans (s.next_setM_congr (Mach.timeSend_due hsilent hst hdue))
  · intro s d src t1 t2 t3 t4 gm epoch hop valid off hd civil
    have run {m : Mach} (hm : s.m.timeMessage d src t1 t2 t3 t4 gm epoch hop civil = m) :
        exec (.timeMessageReceive d src t1 t2 t3 t4 gm epoch hop valid off) s = .next (s.setM m) :=
      ((exec_timeMessageReceive ..).trans (State.onNine_run hd)).trans (s.next_setM_congr hm)
    refine ⟨fun h => run (Mach.timeMessage_unheard h), ?_⟩
    intro g e h c hh hmsg heard yields
    exact ⟨fun hfar => run (Mach.timeMessage_no_hops hh hmsg hfar), fun hnear => run (Mach.timeMessage_hops hh hmsg hnear)⟩
  · intro s d hd hstate hdue
    exact ((exec_holdoverExpire ..).trans (State.onNine_run hd)).trans (s.next_setM_congr (Mach.holdoverExpire_due hstate hdue))
  · intro s hdata hrole hgm hlocked hdue
    exact ((exec_gmPromote s).trans (State.onData_run hdata)).trans (s.next_setM_congr (Mach.gmPromote_due hrole hgm hlocked hdue))
  · intro s hdata hgm
    exact ((exec_trefPpsEdge s).trans (State.onData_run hdata)).trans (s.next_setM_congr (Mach.ppsEdge_gm hgm))
  · intro s hdata hgm
    exact ((exec_trefPpsEdge s).trans (State.onData_run hdata)).trans (s.next_setM_congr (Mach.ppsEdge_other hgm))
  · exact fun s sec hp => (exec_ptpTimeReceive ..).trans (State.onModule_run hp)
  · intro s d n hd hreached
    exact ((exec_timerFire ..).trans (State.onDie_run hd)).trans (s.next_setM_congr (if_pos hreached))
  · intro s d n hd hreached
    exact ((exec_timerFire ..).trans (State.onDie_run hd)).trans (s.next_setM_congr (if_neg (by simp [hreached])))
  · intro s hdata hregs hrole hgm hlocked hdue
    obtain ⟨rules, hstate⟩ := Mach.ruling_rules hregs
    have hruling : s.m.ruling.dieLocked 0 = true := by
      rw [Mach.dieLocked, hstate]
      exact hlocked
    obtain ⟨keeps, hlock⟩ := Mach.ftEnter_locked rules.sorted hruling
    obtain ⟨_, h1, h2, h3, h4, h5, h6⟩ := rules.of_keeps keeps
    exact ⟨_, ((exec_gmPromote s).trans (State.onData_run hdata)).trans (s.next_setM_congr
      ((Mach.gmPromote_due hrole hgm hlocked hdue).trans s.m.gmTake_eq)), h1, h2, h3, h4, h5, hlock, h6⟩

end Sys2Proof.Machine
end

section
/-! SUPPORT and proofs. Power and heat (R455, R460, R464, R466, R467, R469). -/

namespace Sys2Proof.Machine

/-! ### A row that runs leaves what its function gives -/

section
variable {s : State} {f : Mach → Mach} {i : Instr} {m : Mach}

theorem State.next_of_onModule (hp : s.m.powered = true) (h : exec i s = s.onModule f) (hm : f s.m = m) : exec i s = .next (s.setM m) :=
  (h.trans (State.onModule_run hp)).trans (s.next_setM_congr hm)

theorem State.next_of_onDie {d : Fin 8} (hd : s.m.dieRuns d = true) (h : exec i s = s.onDie d f) (hm : f s.m = m) :
    exec i s = .next (s.setM m) :=
  (h.trans (State.onDie_run hd)).trans (s.next_setM_congr hm)

theorem State.next_of_onNine {d : Fin 9} (hd : s.m.nineRuns d = true) (h : exec i s = s.onNine d f) (hm : f s.m = m) :
    exec i s = .next (s.setM m) :=
  (h.trans (State.onNine_run hd)).trans (s.next_setM_congr hm)

end

section
variable {m : Mach} {d : Nat}

/-! ### Samples and droops -/

theorem Mach.powerRow_bludjan (h : d = sdDie) (compute : Nat) (stk : List Nat) (optics : Nat) :
    m.powerRow d compute stk optics = m.powerMc compute := if_pos h

theorem Mach.powerRow_compute (h : d ≠ sdDie) (compute : Nat) (stk : List Nat) (optics : Nat) :
    m.powerRow d compute stk optics = m.powerSample d compute stk optics := if_neg h

theorem Mach.supplyDroop_small {drop : Nat} (h : drop ≤ m.get Fld.pwrCtl_droop_mv d) : m.supplyDroop d drop = m := if_pos (.inl h)

theorem Mach.supplyDroop_drooping (drop : Nat) (h : (m.pwr d).droop = true) : m.supplyDroop d drop = m := if_pos (.inr h)

theorem Mach.supplyDroop_begins {drop : Nat} (h : m.get Fld.pwrCtl_droop_mv d < drop) (hno : (m.pwr d).droop = false) :
    m.supplyDroop d drop = ((m.ev Fld.pwrEvents_droop d).cnt .pwrCnt d 2).modPwr d
      (fun p => { p with droop := true, droopAt := max (3 * m.pmu d) p.droopEnd }) :=
  if_neg (by rintro (hle | hin) <;> [omega; simp [hno] at hin])

/-! ### Ballast and the taper -/

theorem Mach.ballastFree_iff {c : Nat} : m.ballastFree d c = true ↔
    m.fenced d c = false ∧ (m.gov d c).bubbles = 0 ∧ smGet 0 (m.pwr d).therm 0 = 0 ∧ m.drooping d = false ∧
      (m.pwr d).droopEnd ≤ 3 * (m.gov d c).start ∧ m.get Fld.pwrStatus_die_w d * 100 < (m.pwr d).cap * 54 ∧
      (m.gov d c).power.num * 3200 < (m.pwr d).cap * 54 * (m.gov d c).power.den := by
  simp [Mach.ballastFree, and_assoc]

theorem Mach.ballast_issues {c : Nat} (hfree : m.ballastFree d c = true) (hidle : m.arrayIdle d c = true)
    (hlow : m.get Fld.pwrStatus_die_w d < m.ballastFloor d) :
    m.ballast d c = ((m.cnt .arrCnt d 6 (c := c)).cnt .pwrCnt d 5).showFloor d := if_pos ⟨hfree, hidle, hlow⟩

theorem Mach.ballast_withheld {c : Nat} (h : m.ballastFree d c ≠ true ∨ m.arrayIdle d c = false ∨ m.ballastFloor d ≤ m.get Fld.pwrStatus_die_w d) :
    m.ballast d c = m := by
  refine if_neg ?_
  rintro ⟨hfree, hidle, hlow⟩
  rcases h with h | h | h
  · exact h hfree
  · simp [h] at hidle
  · omega

section
variable {n : NutSt} (hnut : (m.pwr d).nut = some n)
include hnut

theorem Mach.taperStart_engaged : m.taperStart d =
    if n.taper.isSome ∨ m.ft d < roundUp n.t0 (m.get Fld.pwrNutCfg_grid_us d * 1000) then m
    else (m.modPwr d (fun p => { p with nut := some { n with taper := some (roundUp n.t0 (m.get Fld.pwrNutCfg_grid_us d * 1000)) } })).showFloor d := by
  unfold Mach.taperStart
  rw [hnut]

theorem Mach.taperStart_due (hnone : n.taper = none) (hdue : roundUp n.t0 (m.get Fld.pwrNutCfg_grid_us d * 1000) ≤ m.ft d) :
    m.taperStart d = (m.modPwr d (fun p =>
      { p with nut := some { n with taper := some (roundUp n.t0 (m.get Fld.pwrNutCfg_grid_us d * 1000)) } })).showFloor d := by
  rw [Mach.taperStart_engaged hnut]
  exact if_neg (by simp [hnone, hdue])

theorem Mach.taperStart_early (hearly : m.ft d < roundUp n.t0 (m.get Fld.pwrNutCfg_grid_us d * 1000)) : m.taperStart d = m := by
  rw [Mach.taperStart_engaged hnut]
  exact if_pos (.inr hearly)

end
end

/-- Settles O55: each row goes down the branch that its conditions name. -/
theorem powerRows : Obligations.PowerRows := by
  refine ⟨?_, ?_, ?_, ?_, ?_, ?_, ?_, ?_, ?_⟩
  · exact fun s w hp => State.next_of_onModule hp (exec_pldmPowerLimit ..) rfl
  · intro s d compute stk optics hd
    exact ⟨fun hne => State.next_of_onNine hd (exec_powerSample ..) (Mach.powerRow_compute hne ..),
      fun he => State.next_of_onNine hd (exec_powerSample ..) (Mach.powerRow_bludjan he ..)⟩
  · exact fun s d activity uncore hd => State.next_of_onDie hd (exec_estimatorRescale ..) rfl
  · exact fun s d u input hd => State.next_of_onNine hd (exec_governorWindow ..) rfl
  · intro s d drop hd
    exact ⟨fun hover hno => State.next_of_onDie hd (exec_supplyDroop ..) (Mach.supplyDroop_begins hover hno),
      fun hin => State.next_of_onDie hd (exec_supplyDroop ..) (Mach.supplyDroop_drooping drop hin),
      fun hsmall => State.next_of_onDie hd (exec_supplyDroop ..) (Mach.supplyDroop_small hsmall)⟩
  · intro s d c hd free floor
    constructor
    · exact fun hfree hidle hlow => State.next_of_onDie hd (exec_ballastIssue ..)
        (Mach.ballast_issues (Mach.ballastFree_iff.2 hfree) hidle hlow)
    · intro h
      refine State.next_of_onDie hd (exec_ballastIssue ..) (Mach.ballast_withheld ?_)
      exact h.imp_left (fun hnot hfree => hnot (Mach.ballastFree_iff.1 hfree))
  · intro s d n hd hnut hnone at_
    exact ⟨fun hdue => State.next_of_onDie hd (exec_nutmegTaperStart ..) (Mach.taperStart_due hnut hnone hdue),
      fun hearly => State.next_of_onDie hd (exec_nutmegTaperStart ..) (Mach.taperStart_early hnut hearly)⟩
  · exact fun s d tj stk optics hd => State.next_of_onNine hd (exec_thermalSample ..) rfl
  · intro s d hd hin
    exact State.next_of_onDie hd (exec_droopEnd ..) (if_neg (by simp [hin]))

end Sys2Proof.Machine
end

section
/-! SUPPORT and proofs. How requests come in, are taken and are aborted (R480 to R488, R501, R502). -/

namespace Sys2Proof.Machine

theorem State.next_of_onCp {s : State} {i : Instr} {f : Mach → Mach} {m : Mach} (hp : s.m.powered = true) (hcp : s.m.cp.up = true)
    (h : exec i s = s.onCp f) (hm : f s.m = m) : exec i s = .next (s.setM m) :=
  State.next_of_onModule hp h ((if_pos hcp).trans hm)

section
variable {m : Mach}

/-! ### The MC's ring -/

theorem Mach.mcRelay_full {ws : List Nat} (h : 16 ≤ (m.mbxTail 31 + 2 ^ 16 - m.mbxHead 31) % 2 ^ 16) :
    m.mcRelay ws = m.ev Fld.mbxEvents_doorbell_err sdDie 31 := if_pos h

theorem Mach.mcRelay_room {ws : List Nat} (h : (m.mbxTail 31 + 2 ^ 16 - m.mbxHead 31) % 2 ^ 16 < 16) :
    m.mcRelay ws = (m.slotWrite (slotAt 31 (m.mbxTail 31)) ((ws.take 16).flatMap (toBytes 8))).wrReqTail ⟨.mbxReqTail, sdDie, 0, 31, 0⟩
      ⟨.mc, m.mbxTail 31, (m.mbxTail 31 + 1) % 2 ^ 16, (m.mbxTail 31 + 1) % 2 ^ 16, 2 ^ 32 - 1⟩ := if_neg (by omega)

/-! ### The next request of a mailbox -/

/-- The machine that has taken request `r` of a mailbox: the sequence number and the head have moved on. -/
def Mach.requestTaken (m : Mach) (k : Nat) (r : MbxReq) : Mach :=
  (if (m.flag Fld.mbxStatus_open sdDie k && r.opcode != 0x01 && r.seq == m.expected k) = true then m.setExpected k (r.seq + 1) else m).mbxAdvance k

section
variable {k : Nat} (hnext : (m.mbxSkip k 16).mbxHead k ≠ (m.mbxSkip k 16).mbxTail k) (hfree : (m.mbxSkip k 16).mbxRunning k = false)
  (hslot : (m.mbxSkip k 16).rspFree k = true) (hop : ((m.mbxSkip k 16).request k ((m.mbxSkip k 16).mbxHead k)).opcode ≠ 0x14)
include hnext hfree hslot hop

theorem Mach.mbxTake_refused {status : Nat} {ws : List Nat}
    (hverdict : (m.mbxSkip k 16).verdict ((m.mbxSkip k 16).request k ((m.mbxSkip k 16).mbxHead k))
      ((m.mbxSkip k 16).flag Fld.mbxStatus_open sdDie k) ((m.mbxSkip k 16).expected k) = some (status, ws)) :
    m.mbxTake k = ((m.mbxSkip k 16).requestTaken k ((m.mbxSkip k 16).request k ((m.mbxSkip k 16).mbxHead k))).respond
      ((m.mbxSkip k 16).started ((m.mbxSkip k 16).request k ((m.mbxSkip k 16).mbxHead k))) status ws := by
  unfold Mach.mbxTake
  refine (if_neg (by simp [hnext, hfree, hslot])).trans ((if_neg hop).trans ((if_neg (by simp [hverdict])).trans ?_))
  rw [hverdict]
  rfl

theorem Mach.mbxTake_started
    (hverdict : (m.mbxSkip k 16).verdict ((m.mbxSkip k 16).request k ((m.mbxSkip k 16).mbxHead k))
      ((m.mbxSkip k 16).flag Fld.mbxStatus_open sdDie k) ((m.mbxSkip k 16).expected k) = none)
    (hbusy : (m.mbxSkip k 16).partitionBusy ((m.mbxSkip k 16).request k ((m.mbxSkip k 16).mbxHead k)) = false)
    (hrestore : ((m.mbxSkip k 16).request k ((m.mbxSkip k 16).mbxHead k)).opcode ≠ 0x21) {n : Mach}
    (hn : n = (m.mbxSkip k 16).requestTaken k ((m.mbxSkip k 16).request k ((m.mbxSkip k 16).mbxHead k))) :
    m.mbxTake k = ({ n with cp := { n.cp with running := n.cp.running ++
      [(m.mbxSkip k 16).started ((m.mbxSkip k 16).request k ((m.mbxSkip k 16).mbxHead k))] } } : Mach).mbxBusy k := by
  subst hn
  unfold Mach.mbxTake
  refine (if_neg (by simp [hnext, hfree, hslot])).trans ((if_neg hop).trans ((if_neg (by simp [hbusy])).trans ?_))
  rw [hverdict]
  refine congrArg (Mach.mbxBusy · k) ?_
  dsimp only
  split
  · exact if_neg hrestore
  · rfl

end

/-! ### An ABORT -/

/-- The ABORT of request `r` has been taken ahead. -/
def Mach.takenAhead (m : Mach) (k count : Nat) : Mach := { m with cp := { m.cp with ahead := m.cp.ahead ++ [(k, count)] } }

/-- The ABORT of a partition's slot begins. -/
def Mach.abortBegun (m : Mach) (slot : Nat) (p : Part) (c : MbxCmd) : Mach :=
  let x := (m.abortOthers slot).abortPart p
  { x.1 with cp := { x.1.cp with aborts := x.1.cp.aborts ++ [⟨slot, [c], x.1.pmu sdDie, x.2.1, x.2.2, 0⟩] } }

theorem Mach.abortStart_first {c : MbxCmd} {p : Part} (hopen : m.abortSettled c = none) (hpart : m.partAt (pfield c.words 0 3 0) = some p)
    (hno : m.aborting (pfield c.words 0 3 0) = false) : m.abortStart c = m.abortBegun (pfield c.words 0 3 0) p c := by
  unfold Mach.abortStart
  rw [hopen]
  unfold Mach.abortBegin
  dsimp only
  rw [hpart]
  exact if_neg (by simp [hno])

theorem Mach.abortTake_first {k : Nat} {r : MbxReq} {p : Part} (hopen : m.abortSettled (m.started r) = none) (hreq : m.abortRequest k = some r)
    (hslot : m.rspFree k = true) (hverdict : m.verdict r (m.ringState k r.count).1 (m.ringState k r.count).2 = none)
    (hpart : m.partAt (pfield r.words 0 3 0) = some p) (hno : m.aborting (pfield r.words 0 3 0) = false) :
    m.abortTake k = (((m.takenAhead k r.count).abortBegun (pfield r.words 0 3 0) p (m.started r)).mbxSkip k 16).mbxBusy k := by
  have hahead : (m.takenAhead k r.count).verdict r (m.ringState k r.count).1 (m.ringState k r.count).2 = none := hverdict
  unfold Mach.abortTake
  rw [hreq]
  refine (if_neg (by simp [hslot])).trans (congrArg (fun n : Mach => (n.mbxSkip k 16).mbxBusy k) ?_)
  unfold Mach.takenAhead at hahead
  rw [hahead]
  exact Mach.abortStart_first (m := m.takenAhead k r.count) hopen hpart hno

section
variable {slot : Nat} {a : AbortSt} (habort : m.cp.aborts.find? (fun a => a.slot == slot) = some a)
include habort

theorem Mach.aborting_of_found : m.aborting slot = true := by
  have hmatch : (a.slot == slot) = true := List.find?_some (p := fun a : AbortSt => a.slot == slot) habort
  exact List.any_eq_true.2 ⟨a, List.mem_of_find?_eq_some habort, hmatch⟩

variable {p : Part} (hpart : m.partAt slot = some p)
include hpart

theorem Mach.abortComplete_idle (hidle : m.partIdle p = true) : m.abortComplete slot = (m.abortLaunches p).abortFinish slot 0 mbOk := by
  unfold Mach.abortComplete
  rw [hpart]
  exact if_pos (by simp [Mach.aborting_of_found habort, hidle])

omit habort in
theorem Mach.abortComplete_busy (hbusy : m.partIdle p = false) : m.abortComplete slot = m := by
  unfold Mach.abortComplete
  rw [hpart]
  exact if_neg (by simp [hbusy])

theorem Mach.abortEscalate_found : m.abortEscalate slot = if m.pmu sdDie < a.start + 400000 then m
    else (p.dies.foldl (fun m d => m.dieReset d) m).abortFinish slot p.dieMask mbEscalated := by
  unfold Mach.abortEscalate
  rw [habort, hpart]

end
end

/-- Settles O58: each row goes down the branch that its conditions name. -/
theorem requestRows : Obligations.RequestRows := by
  refine ⟨?_, ?_, ?_, ?_⟩
  · intro s ws hp hmc t
    exact ⟨fun hroom => State.next_of_onModule hp (exec_mcRelayRequest ..) ((if_pos hmc).trans (Mach.mcRelay_room hroom)),
      fun hfull => State.next_of_onModule hp (exec_mcRelayRequest ..) ((if_pos hmc).trans (Mach.mcRelay_full hfull))⟩
  · intro s k hp hcp m r hnext hfree hslot hop uses taken
    exact ⟨fun status ws hverdict =>
        State.next_of_onCp hp hcp (exec_mailboxRequestTake ..) (Mach.mbxTake_refused hnext hfree hslot hop hverdict),
      fun hverdict hbusy hrestore =>
        State.next_of_onCp hp hcp (exec_mailboxRequestTake ..) (Mach.mbxTake_started hnext hfree hslot hop hverdict hbusy hrestore rfl)⟩
  · intro s k r p hp hcp hopen hreq hslot hverdict hpart hno
    exact State.next_of_onCp hp hcp (exec_abort ..) (Mach.abortTake_first hopen hreq hslot hverdict hpart hno)
  · intro s slot a p hp hcp habort hpart
    refine ⟨fun hidle => State.next_of_onCp hp hcp (exec_abortComplete ..) (Mach.abortComplete_idle habort hpart hidle),
      fun hbusy => State.next_of_onCp hp hcp (exec_abortComplete ..) (Mach.abortComplete_busy hpart hbusy),
      fun hdue => State.next_of_onCp hp hcp (exec_abortEscalate ..) ((Mach.abortEscalate_found habort hpart).trans (if_neg (by omega))),
      fun hearly => State.next_of_onCp hp hcp (exec_abortEscalate ..) ((Mach.abortEscalate_found habort hpart).trans (if_pos hearly))⟩

end Sys2Proof.Machine
end

section
/-! SUPPORT and proofs. Snapshots (R428 to R432, R434, R448). -/

namespace Sys2Proof.Machine

/-! ### A die whose schedule is being captured keeps SNAP_WORK while memory is read

Nothing is assumed of the form of the registers: that SNAP_STATUS is listed, with `capturing` set, is enough for a write of another
register to leave the die's list in place. -/

section
variable {m : Mach} {mark id id' : RegId}

theorem Mach.dieRegs_setReg_of_marked (hmark : m.reg mark ≠ (BitVec.ofNat 64 (resetOf mark)).toNat) (hdie : mark.die = id.die) (hne : mark ≠ id)
    (v : Nat) : smGet [] (m.setReg id v).regs id.die =
      smSet (BitVec.ofNat 64 (resetOf id)) (smGet [] m.regs id.die) id.key (BitVec.ofNat 64 v) := by
  refine smGet_smSet_same_of_ne_default [] m.regs fun hnil => hmark ?_
  have hkey : mark.key ≠ id.key := fun h => hne (RegId.key_inj _ _ h hdie)
  have hkept := smGet_smSet_of_ne (BitVec.ofNat 64 (resetOf id)) (smGet [] m.regs id.die) (v := BitVec.ofNat 64 v)
    (BitVec.ofNat 64 (resetOf mark)) hkey
  rw [show smSet (BitVec.ofNat 64 (resetOf id)) (smGet [] m.regs id.die) id.key (BitVec.ofNat 64 v) = [] from hnil] at hkept
  exact congrArg BitVec.toNat ((congrArg (fun x => smGet _ (smGet [] m.regs x) mark.key) hdie).trans hkept.symm)

theorem Mach.reg_setReg_ne_of_marked (hmark : m.reg mark ≠ (BitVec.ofNat 64 (resetOf mark)).toNat) (hdie : id'.die = mark.die)
    (hm : mark ≠ id) (hne : id' ≠ id) (v : Nat) : (m.setReg id v).reg id' = m.reg id' := by
  unfold Mach.reg
  by_cases hd : id'.die = id.die
  · have hkey : id'.key ≠ id.key := fun h => hne (RegId.key_inj _ _ h hd)
    rw [hd, Mach.dieRegs_setReg_of_marked hmark (hdie.symm.trans hd) hm, smGet_smSet_of_ne _ _ _ hkey]
  · rw [show smGet [] (m.setReg id v).regs id'.die = smGet [] m.regs id'.die from smGet_smSet_of_ne _ _ _ hd]

end

/-- `m'` has die `d`'s SNAP_STATUS, which says that the schedule is being captured, and its SNAP_WORK as in `m`. -/
structure Mach.KeepsWork (d : Nat) (m m' : Mach) : Prop where
  capturing : m.flag Fld.snapStatus_capturing d = true
  status : m'.rd .snapStatus d = m.rd .snapStatus d
  work : m'.rd .snapWork d = m.rd .snapWork d

namespace Mach.KeepsWork

theorem refl {m : Mach} {d : Nat} (h : m.flag Fld.snapStatus_capturing d = true) : KeepsWork d m m := ⟨h, rfl, rfl⟩

section
variable {d : Nat} {m m' : Mach} (h : KeepsWork d m m')
include h

theorem marked : m'.rd .snapStatus d ≠ (BitVec.ofNat 64 (resetOf ⟨.snapStatus, d, 0, 0, 0⟩)).toNat := by
  intro heq
  have hcap := h.capturing
  rw [Mach.flag, Mach.get, ← h.status, heq] at hcap
  rw [show resetOf ⟨.snapStatus, d, 0, 0, 0⟩ = 0 from rfl] at hcap
  exact absurd hcap (by decide)

theorem of_regs {m'' : Mach} (hregs : m''.regs = m'.regs) : KeepsWork d m m'' :=
  ⟨h.capturing, (Mach.reg_congr hregs _).trans h.status, (Mach.reg_congr hregs _).trans h.work⟩

theorem wr {r : Reg} (hs : Reg.snapStatus ≠ r) (hw : Reg.snapWork ≠ r) (x v i c j : Nat) : KeepsWork d m (m'.wr r x v i c j) where
  capturing := h.capturing
  status := (Mach.reg_setReg_ne_of_marked (mark := ⟨.snapStatus, d, 0, 0, 0⟩) (id' := ⟨.snapStatus, d, 0, 0, 0⟩) h.marked rfl
    (by simp [hs]) (by simp [hs]) v).trans h.status
  work := (Mach.reg_setReg_ne_of_marked (mark := ⟨.snapStatus, d, 0, 0, 0⟩) (id' := ⟨.snapWork, d, 0, 0, 0⟩) h.marked rfl
    (by simp [hs]) (by simp [hw]) v).trans h.work

theorem put {f : Fld} (hs : Reg.snapStatus ≠ f.reg) (hw : Reg.snapWork ≠ f.reg) (x v i c j : Nat) : KeepsWork d m (m'.put f x v i c j) :=
  h.wr hs hw x _ i c j

theorem cnt {r : Reg} (hs : Reg.snapStatus ≠ r) (hw : Reg.snapWork ≠ r) (x i n c j : Nat) : KeepsWork d m (m'.cnt r x i n c j) :=
  h.wr hs hw x _ i c j

theorem ite {p : Prop} [Decidable p] {m'' : Mach} (h' : KeepsWork d m m'') : KeepsWork d m (if p then m' else m'') := by
  split
  · exact h
  · exact h'

end

theorem foldl {d : Nat} {m m' : Mach} {α : Type} {f : Mach → α → Mach} (hf : ∀ x a, KeepsWork d m x → KeepsWork d m (f x a)) (l : List α)
    (h : KeepsWork d m m') : KeepsWork d m (l.foldl f m') :=
  foldl_keeps (KeepsWork d m) f hf l m' h

section
variable {d : Nat} {m m' : Mach} (h : KeepsWork d m m')
include h

theorem toCp (x kind : Nat) (masked restartable : Bool) (fields : List (Nat × Nat)) : KeepsWork d m (m'.toCp x kind masked restartable fields) :=
  h.of_regs rfl

theorem hbmLog (a : HbmAddr) (ue scrub mirror : Bool) (mask : Nat) : KeepsWork d m (m'.hbmLog a ue scrub mirror mask) :=
  ((h.wr (r := .hbmErrAddr) (by decide) (by decide) _ _ _ _ _).wr (r := .hbmErrSym) (by decide) (by decide) _ _ _ _ _).ite h

theorem retireCandidate (a : HbmAddr) (ue : Bool) : KeepsWork d m (m'.retireCandidate a ue) :=
  (h.put (f := Fld.hbmEvents_retire_candidate) (by decide) (by decide) _ _ _ _ _).toCp ..

theorem notePin (a : HbmAddr) (sym : Nat) : KeepsWork d m (m'.notePin a sym) := by
  unfold Mach.notePin
  extract_lets t rows rows' full t' noted
  have hnoted : KeepsWork d m noted := h.of_regs rfl
  exact h.ite ((hnoted.toCp ..).ite hnoted)

theorem noteRow (a : HbmAddr) : KeepsWork d m (m'.noteRow a) := by
  unfold Mach.noteRow
  extract_lets t old fires r rows noted
  have hnoted : KeepsWork d m noted := h.of_regs rfl
  exact (hnoted.retireCandidate a false).ite hnoted

theorem noteCorrection (a : HbmAddr) (scrub : Bool) (mask n : Nat) : KeepsWork d m (m'.noteCorrection a scrub mask n) := by
  have logged := ((h.cnt (r := .hbmCnt) (by decide) (by decide) a.die (if n = 1 then 2 else 3) 1 a.stack 0).put (f := Fld.hbmEvents_ce)
    (by decide) (by decide) a.die 1 0 a.stack 0).hbmLog a false scrub false mask
  have pinned := foldl (fun _ s hx => hx.notePin a s) (bitsSet mask 36) logged
  exact (pinned.noteRow a).ite pinned

theorem noteUe (a : HbmAddr) (at_ : Nat) (scrub mirrored : Bool) : KeepsWork d m (m'.noteUe a at_ scrub mirrored) :=
  ((((h.cnt (r := .hbmCnt) (by decide) (by decide) ..).put (f := Fld.hbmEvents_ue) (by decide) (by decide) ..).hbmLog ..).retireCandidate ..).toCp ..

theorem sense (a : Nat) (scrub : Bool) : KeepsWork d m (m'.sense a scrub).1 := by
  have counted := h.cnt (r := .hbmCnt) (by decide) (by decide) (hbmDecode a).die 0 1 (hbmDecode a).stack 0
  unfold Mach.sense
  dsimp only
  split
  · exact counted.noteCorrection ..
  · exact (counted.cnt (by decide) (by decide) ..).put (by decide) (by decide) ..
  · exact counted
  · exact counted

theorem hbmRead (a : Nat) : KeepsWork d m (m'.hbmRead a false).1 := by
  have sensed := h.sense (a / 32 * 32) false
  unfold Mach.hbmRead
  dsimp only
  split
  · exact sensed
  · exact sensed
  · exact sensed
  · exact sensed.noteUe ..

theorem gdRead (a fails : Nat) (devCorrected devUe : Bool) : KeepsWork d m (m'.gdRead a fails devCorrected devUe).1 := by
  unfold Mach.gdRead
  extract_lets sector counted retries retried corrected listed poisoned ue g failed
  have hcounted : KeepsWork d m counted := h.cnt (by decide) (by decide) ..
  have hretried : KeepsWork d m retried := ((hcounted.cnt (by decide) (by decide) ..).put (by decide) (by decide) ..).ite hcounted
  have hcorrected : KeepsWork d m corrected := (hretried.cnt (by decide) (by decide) ..).ite hretried
  have hpoisoned : KeepsWork d m poisoned := ((hcorrected.cnt (by decide) (by decide) ..).put (by decide) (by decide) ..).ite hcorrected
  exact ((((hpoisoned.cnt (by decide) (by decide) ..).put (f := Fld.gdEvents_ue) (by decide) (by decide) ..).wr (r := .gdErrLog) (by decide)
    (by decide) ..).toCp ..).ite hpoisoned

theorem memRead (a : Nat) : KeepsWork d m (m'.memRead a false).1 := by
  unfold Mach.memRead
  split
  · exact h.hbmRead a
  · exact h.gdRead ..

theorem deadRead (a : Nat) : KeepsWork d m (m'.deadRead a) :=
  ((h.cnt (r := .dcCnt) (by decide) (by decide) _ _ _ _ _).ite h).put (f := Fld.dcEvents_dead_read) (by decide) (by decide) _ _ _ _ _

theorem viewed (a n : Nat) : KeepsWork d m (m'.viewed a n) :=
  foldl (fun _ p hx => (hx.deadRead p.1).ite (hx.ite (hx.memRead p.1))) _ h

theorem slotBytes_eq : m'.slotBytes d = m.slotBytes d := by
  unfold Mach.slotBytes Mach.get
  rw [h.work]

end
end Mach.KeepsWork

section
variable {m : Mach} {d : Nat}

/-! ### The schedule block -/

section
variable {p : Part} (hpart : m.partOf d = some p) (hlow : p.low = d) (hcap : m.flag Fld.snapStatus_capturing d = true)
include hpart hlow hcap

theorem Mach.captureDone_waiting (hscl : m.sclPending p = true) : m.captureDone d = m := by
  unfold Mach.captureDone
  rw [hpart]
  exact (if_neg (by simp [hlow, hcap])).trans (if_pos (.inl hscl))

theorem Mach.captureDone_served (hscl : m.sclPending p = false) (hrange : m.rangeServed (m.manifest d) (m.slotBytes d) = true)
    (htables : (m.schedTables p).all (fun r => m.homeServes r.1) = true) : m.captureDone d =
      (let a := m.manifest d
       let bs := (m.snap d).sched ++ m.captureTables p
       let rs := regionChunks (m.snap d).rgns
       let want := ceilDiv bs.length chunkBytes
       let at_ := a + roundUp (128 + 48 * (rs.length + want)) chunkBytes
       let n := min want ((a + m.slotBytes d - at_) / chunkBytes)
       let m := ((m.schedTables p).foldl (fun m r => m.viewed r.1 r.2) m).putBytes d at_
         ((bs ++ List.replicate (n * chunkBytes - bs.length) 0#8).take (n * chunkBytes))
       let m := (m.writeNum (Via.engine d) (a + 0x20) 4 (rs.length + n)).writeNum (Via.engine d) (a + 0x24) 4 n
       (m.put Fld.snapStatus_capturing d 0).modSnap d (fun x => { x with sched := [], sclCap := [] })) := by
  have hserved : (m.schedTables p).any (fun r => !m.homeServes r.1) = false := by
    rw [List.any_eq_false]
    exact fun r hr => by simp [List.all_eq_true.1 htables r hr]
  have hgo : ¬ (m.sclPending p = true ∨ (!m.rangeServed (m.manifest d) (m.slotBytes d)) = true ∨
      (m.schedTables p).any (fun r => !m.homeServes r.1) = true) := by simp [hscl, hrange, hserved]
  unfold Mach.captureDone
  rw [hpart]
  dsimp only
  rw [if_neg (show ¬ (p.low ≠ d ∨ (!m.flag Fld.snapStatus_capturing d) = true) by simp [hlow, hcap]), if_neg hgo,
    (Mach.KeepsWork.foldl (fun _ r hx => hx.viewed r.1 r.2) (m.schedTables p) (.refl hcap)).slotBytes_eq]

end

/-! ### The digest of a chunk -/

/-- What the digest of chunk `c` leaves of the machine that has read its bytes. -/
def Mach.digestDone (m : Mach) (d : Nat) (v : SnapSt) (c : ChunkRef) (at_ : Nat) (fetched : Option (List Byte)) (bs : List (Byte × Bool)) : Mach :=
  let repair := anyPoison bs && c.region != 0xFF && c.kind == 0
  let data := if repair then fetched.getD [] else plain bs
  let who := if repair then m.get Fld.snapCfg_replica d else m.node d
  let m := if repair then (m.putBytes (homeDie at_) at_ data).cnt .snapCnt d 6 else m
  let m := if anyPoison bs then (m.ev Fld.snapEvents_digest_mismatch d).emitRec d 0x41 repair false
      [(8, c.region), (32, c.chunk), (14, who), (1, b2n repair)] true false (if repair then [] else m.slotList d) else m
  let bad := anyPoison bs && !repair
  let m := m.putBytes d (m.manifest d + 128 + 48 * v.digested) (entryBytes c false bad (sha3 data))
  let m := (m.modSnap d (fun x => { x with digested := x.digested + 1, bad := x.bad || bad })).cnt .snapCnt d 4
  let m :=
    if !m.flag Fld.snapStatus_capturing d && v.digested + 1 == (m.versionChunks d).length then
      let m := m.putBytes d (m.manifest d + 0x30) (m.bodyDigest (m.manifest d))
      (m.writeNum (Via.engine d) (m.manifest d + 4) 4 2).put Fld.snapStatus_digest_done d 1
    else m
  m.drainOffer d

theorem Mach.chunkDigest_served {fetched : Option (List Byte)} {c : ChunkRef} {m' : Mach} {bs : List (Byte × Bool)}
    (hon : m.flag Fld.snapCfg_enable d = true) (hopen : m.flag Fld.snapStatus_committed d = false) (hstate : m.manifestState d = 1)
    (hdue : (m.snap d).flipFt + 1000 * m.get Fld.snapTimes_drain_delay d ≤ m.ft d)
    (hchunk : (m.versionChunks d)[(m.snap d).digested]? = some c) (hcap : c.region ≠ 0xFF ∨ m.flag Fld.snapStatus_capturing d = false)
    (hread : m.readBytes (Via.engine (homeDie (m.chunkAddr d (m.get Fld.snapStatus_cur d) c))) (m.chunkAddr d (m.get Fld.snapStatus_cur d) c)
      chunkBytes = (m', bs))
    (hhome : m.homeServes (m.chunkAddr d (m.get Fld.snapStatus_cur d) c) = true)
    (hentry : m'.homeServes (m'.manifest d + 128 + 48 * (m.snap d).digested) = true)
    (hfetched : (anyPoison bs && c.region != 0xFF && c.kind == 0) = true → ∃ l, fetched = some l ∧ l.length = chunkBytes) :
    m.chunkDigest d fetched = m'.digestDone d (m.snap d) c (m.chunkAddr d (m.get Fld.snapStatus_cur d) c) fetched bs := by
  have hready : ¬ (anyPoison bs = true ∧ c.region ≠ 0xFF ∧ c.kind = 0 ∧ fetched.all (fun l => l.length != chunkBytes) = true) := by
    rintro ⟨hpoison, hregion, hkind, hall⟩
    obtain ⟨l, rfl, hlen⟩ := hfetched (by simp [hpoison, hregion, hkind])
    simp [hlen] at hall
  unfold Mach.chunkDigest
  refine (if_neg (by simp [hon, hopen, hstate, hdue])).trans ?_
  rw [hchunk]
  refine (if_neg ?_).trans ?_
  · rintro ⟨hschedule, hcapturing⟩
    rcases hcap with hother | hdone
    · exact hother hschedule
    · simp [hdone] at hcapturing
  · dsimp only
    rw [hread]
    exact (if_neg (by simp [hhome])).trans ((if_neg (by simp [hentry])).trans (if_neg hready))

/-! ### The receiver of a drain -/

section
variable {node step : Nat} {x : DrainItem}

theorem Mach.drainReceive_turnedAway (h : m.flag Fld.snapRecvCfg_enable sdDie = false ∨ node ≠ m.get Fld.snapRecvCfg_sender sdDie) :
    m.drainReceive node step x = m.drainReply node 2 := if_pos (by simpa using h)

section
variable (hon : m.flag Fld.snapRecvCfg_enable sdDie = true) (hnode : node = m.get Fld.snapRecvCfg_sender sdDie)
include hon hnode

theorem Mach.drainReceive_copying (hcopy : m.flag Fld.snapRecvStatus_copying sdDie = true) :
    m.drainReceive node step x = { m with recv := { m.recv with waiting := m.recv.waiting ++ [(node, step, x)] } } :=
  (if_neg (by simp [hon, hnode])).trans (if_pos hcopy)

variable (hidle : m.flag Fld.snapRecvStatus_copying sdDie = false) (hstep : m.rd .snapRecvStep sdDie = step)
include hidle hstep

section
variable {region kind chunk : Nat} {data digest : List Byte}
  (hroom : m.recv.next < min (m.get Fld.snapRecvArea_len sdDie) (m.get Fld.snapHoldArea_len sdDie))
include hroom

theorem Mach.drainReceive_mismatch (hbad : sha3 data ≠ digest) : m.drainReceive node step (.chunk region kind chunk data digest) =
    ({ m with recv := { m.recv with mism := m.recv.mism + 1 } } : Mach).drainReply node 1 := by
  unfold Mach.drainReceive
  refine (if_neg (by simp [hon, hnode])).trans ((if_neg (by simp [hidle])).trans ?_)
  rw [if_pos hstep]
  exact (if_neg (Nat.not_le.2 hroom)).trans (if_pos hbad)

theorem Mach.drainReceive_kept (hgood : sha3 data = digest) : m.drainReceive node step (.chunk region kind chunk data digest) =
    (let a := m.get Fld.snapRecvArea_base sdDie * chunkBytes + m.recv.next * chunkBytes
     let m := m.putBytes sdDie a data
     let es := m.recv.entries ++ [(region, kind, chunk, digest)]
     let m : Mach := { m with recv := { m.recv with next := m.recv.next + 1, mism := 0, entries := es } }
     (m.put Fld.snapRecvStatus_recv_bytes sdDie (m.get Fld.snapRecvStatus_recv_bytes sdDie + chunkBytes)).drainReply node 0) := by
  unfold Mach.drainReceive
  refine (if_neg (by simp [hon, hnode])).trans ((if_neg (by simp [hidle])).trans ?_)
  rw [if_pos hstep]
  exact (if_neg (Nat.not_le.2 hroom)).trans (if_neg (not_not.2 hgood))

end

theorem Mach.drainReceive_manifest (entries : List (Nat × Nat × Nat × List Byte)) (body : List Byte) :
    m.drainReceive node step (.manifest entries body) =
      if sentBody entries = body ∧ entries.filter (fun e => ChunkRef.drains ⟨e.1, e.2.1, e.2.2.1⟩) = m.recv.entries then
        (({ m with recv := { m.recv with manifest := ⟨entries, body⟩ } } : Mach).put Fld.snapRecvStatus_recv_complete sdDie 1).drainReply node 0
      else m.drainReply node 1 := by
  unfold Mach.drainReceive
  refine (if_neg (by simp [hon, hnode])).trans ((if_neg (by simp [hidle])).trans ?_)
  rw [if_pos hstep]

end
end

/-! ### The sender of a drain -/

/-- The chunks of a version that its drain sends, each with its place in the manifest. -/
def Mach.drainItems (m : Mach) (d : Nat) : List (Nat × ChunkRef) :=
  ((m.versionChunks d).mapIdx (fun i c => (i, c))).filter (fun x => x.2.drains)

/-- What the drain offered has been answered. -/
def Mach.drainAnswered (m : Mach) (d : Nat) : Mach := m.modSnap d (fun x => { x with offered := false })

theorem Mach.drainAck_unoffered (h : (m.snap d).offered = false) (r : DrainAnswer) : m.drainAck d r = m := if_pos (by simp [h])

section
variable (hdrain : m.draining d = true) (hoffer : (m.snap d).offered = true)
include hdrain hoffer

theorem Mach.drainAck_refuse : m.drainAck d .refuse = (m.drainAnswered d).drainFail d 2 := by
  unfold Mach.drainAck
  exact if_neg (by simp [hdrain, hoffer])

theorem Mach.drainAck_again : m.drainAck d .again =
    (let m := (m.drainAnswered d).modSnap d (fun x => { x with mism := x.mism + 1 })
     if 3 ≤ (m.snap d).mism then m.drainFail d 3 else m.drainOffer d) := by
  unfold Mach.drainAck
  exact if_neg (by simp [hdrain, hoffer])

theorem Mach.drainAck_chunk {i : Nat} {c : ChunkRef} (hitem : ((m.drainAnswered d).drainItems d)[((m.drainAnswered d).snap d).drained]? = some (i, c))
    (hdone : i < ((m.drainAnswered d).snap d).digested) : m.drainAck d .ack =
      (let m := m.drainAnswered d
       let a := m.manifest d + 128 + 48 * i
       let m := m.writeNum (Via.engine d) a 4 (setBits (m.viewNum a 4) 10 10 1)
       let m := if m.flag Fld.snapStatus_digest_done d then m.putBytes d (m.manifest d + 0x30) (m.bodyDigest (m.manifest d)) else m
       ((m.modSnap d (fun x => { x with drained := x.drained + 1, mism := 0 })).cnt .snapCnt d 5 chunkBytes).drainOffer d) := by
  unfold Mach.drainItems Mach.drainAnswered at hitem
  unfold Mach.drainAck
  refine (if_neg (by simp [hdrain, hoffer])).trans ?_
  dsimp only
  rw [hitem]
  exact if_neg (Nat.not_le.2 hdone)

theorem Mach.drainAck_last (hitem : ((m.drainAnswered d).drainItems d)[((m.drainAnswered d).snap d).drained]? = none)
    (hdigests : (m.drainAnswered d).flag Fld.snapStatus_digest_done d = true) :
    m.drainAck d .ack = (m.drainAnswered d).put Fld.snapStatus_drain_done d 1 := by
  unfold Mach.drainItems Mach.drainAnswered at hitem
  unfold Mach.drainAck
  refine (if_neg (by simp [hdrain, hoffer])).trans ?_
  dsimp only
  rw [hitem]
  exact if_pos hdigests

end

/-! ### A page rebuilt from a chunk -/

theorem Mach.pageRebuild_found {a i : Nat} {c : ChunkRef} (data : List Byte) (hon : m.flag Fld.snapCfg_enable d = true)
    (hit : ((m.versionChunks d).mapIdx (fun i c => (i, c))).find? (fun x => x.2.region != 0xFF && x.2.kind == 0 &&
      m.chunkAddr d (m.get Fld.snapStatus_cur d) x.2 == a / chunkBytes * chunkBytes) = some (i, c)) :
    m.pageRebuild d a data = if m.entryDigest (m.manifest d) i ≠ sha3 data ∨ data.length ≠ chunkBytes then m
      else ((m.putBytes (homeDie (a / chunkBytes * chunkBytes)) (a / chunkBytes * chunkBytes) data).cnt .snapCnt d 6).emitRec d 0x37 true false
        [(48, a / chunkBytes * chunkBytes), (16, 1)] false false
        (((m.putBytes (homeDie (a / chunkBytes * chunkBytes)) (a / chunkBytes * chunkBytes) data).cnt .snapCnt d 6).parts.map (·.slot)) := by
  unfold Mach.pageRebuild
  refine (if_neg (by simp [hon])).trans ?_
  dsimp only
  rw [hit]

end

/-- Settles O54: each row goes down the branch that its conditions name. -/
theorem snapshotRows : Obligations.SnapshotRows := by
  refine ⟨?_, ?_, ?_, ?_, ?_, ?_, ?_⟩
  · intro s d p hd hpart hlow hcap a tables
    exact ⟨fun hscl => State.next_of_onDie hd (exec_scheduleCaptureComplete ..) (Mach.captureDone_waiting hpart hlow hcap hscl),
      fun hscl hrange htables => State.next_of_onDie hd (exec_scheduleCaptureComplete ..)
        (Mach.captureDone_served hpart hlow hcap hscl hrange htables)⟩
  · intro s d fetched c m' bs hd hon hopen hstate hdue hchunk hcap at_ hread hhome hentry repair hfetched
    exact State.next_of_onDie hd (exec_chunkDigest ..)
      (Mach.chunkDigest_served hon hopen hstate hdue hchunk hcap hread hhome hentry hfetched)
  · intro s node step x hp
    refine ⟨fun h => State.next_of_onModule hp (exec_drainChunkReceive ..) (Mach.drainReceive_turnedAway h), ?_,
      fun hon hnode hcopy => State.next_of_onModule hp (exec_drainChunkReceive ..) (Mach.drainReceive_copying hon hnode hcopy)⟩
    intro hon hnode hidle hstep
    constructor
    · rintro region kind chunk data digest rfl hroom
      exact ⟨fun hbad => State.next_of_onModule hp (exec_drainChunkReceive ..) (Mach.drainReceive_mismatch hon hnode hidle hstep hroom hbad),
        fun hgood => State.next_of_onModule hp (exec_drainChunkReceive ..) (Mach.drainReceive_kept hon hnode hidle hstep hroom hgood)⟩
    · rintro entries body rfl
      exact State.next_of_onModule hp (exec_drainChunkReceive ..) (Mach.drainReceive_manifest hon hnode hidle hstep entries body)
  · exact fun s d hd _ hno r => State.next_of_onDie hd (exec_drainChunkAck ..) (Mach.drainAck_unoffered hno r)
  · intro s d hd hdrain hoffer m0 v items
    exact ⟨State.next_of_onDie hd (exec_drainChunkAck ..) (Mach.drainAck_refuse hdrain hoffer),
      fun i c hitem hdone => State.next_of_onDie hd (exec_drainChunkAck ..) (Mach.drainAck_chunk hdrain hoffer hitem hdone),
      fun hitem hdigests => State.next_of_onDie hd (exec_drainChunkAck ..) (Mach.drainAck_last hdrain hoffer hitem hdigests),
      State.next_of_onDie hd (exec_drainChunkAck ..) (Mach.drainAck_again hdrain hoffer)⟩
  · intro s hp hcopy hserved
    exact State.next_of_onModule hp (exec_holdCopyComplete s) ((if_neg (by simp [hcopy])).trans (if_neg (by simp [hserved])))
  · intro s d a i c data hd hon at_ hit
    rw [(exec_pageRebuild d a data s).trans (State.onDie_run hd), Mach.pageRebuild_found data hon hit]
    by_cases hgood : s.m.entryDigest (s.m.manifest d) i = sha3 data ∧ data.length = chunkBytes
    · rw [if_pos hgood, if_neg (by simp [hgood])]
      rfl
    · rw [if_neg hgood, if_pos (by rwa [not_and_or] at hgood)]

end Sys2Proof.Machine
end

section
/-! SUPPORT and proofs. Remote accesses (R251, R252, R367 to R370, R377, R396). -/

namespace Sys2Proof.Machine

theorem State.next_of_onData {s : State} {i : Instr} {f : Mach → Mach} {m : Mach} (hdata : s.m.dataPlane = true) (h : exec i s = s.onData f)
    (hm : f s.m = m) : exec i s = .next (s.setM m) :=
  (h.trans (State.onData_run hdata)).trans (s.next_setM_congr hm)

/-! ### An access that arrives -/

/-- How far a sequence number lies ahead of the one that a source sends next. -/
def SourceSt.ahead (x : SourceSt) (seq : Nat) : Nat := (seq + 2 ^ 32 - x.next) % 2 ^ 32

section
variable {m : Mach} {node sdie inc seq job : Nat} {op : RemoteOp}

theorem Mach.holdAccess_new (h : (m.source (sourceKey node sdie)).held.any (fun x => x.1 == seq) = false) :
    m.holdAccess node sdie seq job op = m.setSource (sourceKey node sdie)
      { m.source (sourceKey node sdie) with held := (m.source (sourceKey node sdie)).held ++ [(seq, job, op)] } := by
  unfold Mach.holdAccess
  dsimp only
  rw [if_neg (by simp [h])]

section
variable (hup : m.silent = false) (hinc : (m.source (sourceKey node sdie)).inc = inc)
include hup hinc

/-- An access of the incarnation that its source is known with. -/
theorem Mach.remoteReceive_current : m.remoteReceive node sdie inc seq job op =
    if (m.source (sourceKey node sdie)).ahead seq = 0 then
      match m.accessGate node job op with
      | (m', true) => (m'.remoteTurn node sdie job op 1).remoteHeld node sdie (m.source (sourceKey node sdie)).held.length
      | (m', false) => m'.holdAccess node sdie seq job op
    else if (m.source (sourceKey node sdie)).ahead seq < 2 ^ 31 then m.holdAccess node sdie seq job op
    else match (m.source (sourceKey node sdie)).results.find? (fun r => r.1 == seq) with
      | some (_, code, bs, p) =>
        if code = codeTurned then (m.cnt .fabCnt (opDie op) 2).remoteAgain node sdie seq op
        else (m.cnt .fabCnt (opDie op) 2).remoteAnswer node sdie seq code bs p
      | none => (m.cnt .fabCnt (opDie op) 2).remoteAnswer node sdie seq 0 [] false := by
  unfold Mach.remoteReceive
  refine (if_neg (by simp [hup])).trans ?_
  dsimp only
  rw [if_neg (show ¬ (m.source (sourceKey node sdie)).inc < inc by omega)]
  refine (if_neg (by omega)).trans ?_
  unfold SourceSt.ahead
  congr 1

section
variable {m' : Mach} (hnext : (m.source (sourceKey node sdie)).ahead seq = 0)
include hnext

theorem Mach.remoteReceive_applied (hgate : m.accessGate node job op = (m', true)) : m.remoteReceive node sdie inc seq job op =
    (m'.remoteTurn node sdie job op 1).remoteHeld node sdie (m.source (sourceKey node sdie)).held.length := by
  rw [Mach.remoteReceive_current hup hinc, if_pos hnext, hgate]

theorem Mach.remoteReceive_gated (hgate : m.accessGate node job op = (m', false)) : m.remoteReceive node sdie inc seq job op =
    m'.holdAccess node sdie seq job op := by
  rw [Mach.remoteReceive_current hup hinc, if_pos hnext, hgate]

end

theorem Mach.remoteReceive_early (hlo : 0 < (m.source (sourceKey node sdie)).ahead seq)
    (hhi : (m.source (sourceKey node sdie)).ahead seq < 2 ^ 31) : m.remoteReceive node sdie inc seq job op = m.holdAccess node sdie seq job op := by
  rw [Mach.remoteReceive_current hup hinc, if_neg hlo.ne', if_pos hhi]

theorem Mach.remoteReceive_again (hold : 2 ^ 31 ≤ (m.source (sourceKey node sdie)).ahead seq) {r : Nat × Nat × List Byte × Bool}
    (hkept : (m.source (sourceKey node sdie)).results.find? (fun r => r.1 == seq) = some r) : m.remoteReceive node sdie inc seq job op =
      if r.2.1 = codeTurned then (m.cnt .fabCnt (opDie op) 2).remoteAgain node sdie seq op
      else (m.cnt .fabCnt (opDie op) 2).remoteAnswer node sdie seq r.2.1 r.2.2.1 r.2.2.2 := by
  rw [Mach.remoteReceive_current hup hinc, if_neg (by omega), if_neg (by omega), hkept]

end

theorem Mach.remoteAgain_turned {m' : Mach} (h : m.msgTurned node sdie op = (m', true)) : m.remoteAgain node sdie seq op = m' := by
  unfold Mach.remoteAgain
  rw [h]

/-- An ADD waits for nothing: it addresses no memory. -/
theorem Mach.accessGate_add (die ctr v : Nat) : m.accessGate node job (.add die ctr v) = (m, true) := rfl

end

/-! ### The requester -/

section
variable {m : Mach} {d node seq : Nat} {u : Unacked} (hwait : m.unackedAt d node seq = some u)
include hwait

theorem Mach.remoteReject_add {die ctr v : Nat} (hadd : u.req = .add die ctr v) : m.remoteReject d node seq =
    ((((((m.dropUnacked d node seq).cnt .fabCnt d 7).ev Fld.fabEvents_reject_out d).ev Fld.syncDieEvents_remote_reject d).cnt
      .syncCnt d 8).remoteAddRec d 0x05 die ctr v node) := by
  unfold Mach.remoteReject
  rw [hwait]
  dsimp only
  rw [hadd]

theorem Mach.remoteReject_access (hother : ∀ die ctr v, u.req ≠ .add die ctr v) : m.remoteReject d node seq =
    (let m := ((m.dropUnacked d node seq).cnt .fabCnt d 7).ev Fld.fabEvents_reject_out d
     (m.fabRec d 0x2A 0x7F node (coreFor d u.for_) 0 u.va 0 false false (m.slotList d)).accessFaulted d u) := by
  unfold Mach.remoteReject
  rw [hwait]
  dsimp only
  split
  · next die ctr v hadd => exact absurd hadd (hother die ctr v)
  · rfl

theorem Mach.remoteResponse_fault (bs : List Byte) (poison : Bool) :
    m.remoteResponse d node seq bs poison true = (m.dropUnacked d node seq).accessFaulted d u := by
  unfold Mach.remoteResponse
  rw [hwait]
  rfl

theorem Mach.remoteResponse_load {a n rd width : Nat} {r : ThreadRef} {sg fl : Bool} (hread : u.req = .read a n)
    (hfor : u.for_ = .thread r rd width sg fl) (bs : List Byte) : m.remoteResponse d node seq bs false false =
      ((m.dropUnacked d node seq).remoteFill d node a bs false .demand u.stream).loadDone d r rd width sg fl
        (ofBytes ((bs.drop (u.va % 32)).take width)) := by
  unfold Mach.remoteResponse
  rw [hwait]
  dsimp only
  rw [hread, hfor]
  rfl

theorem Mach.remoteResponse_lanes {ws : List (ThreadRef × Nat × Nat)} {f5 width : Nat} (hfor : u.for_ = .lanes ws f5 width) (bs : List Byte) :
    m.remoteResponse d node seq bs false false = (m.dropUnacked d node seq).lanesDone d ws f5 width (ofBytes bs) := by
  unfold Mach.remoteResponse
  rw [hwait]
  dsimp only
  rw [hfor]
  cases u.req <;> rfl

theorem Mach.remoteResend_early (h : m.pmu d < u.at_ + 20000) : m.remoteResend d node seq = m := by
  unfold Mach.remoteResend
  rw [hwait]
  exact if_pos h

theorem Mach.remoteResend_due (h : u.at_ + 20000 ≤ m.pmu d) : m.remoteResend d node seq =
    (let n := m.modFab d (fun x => { x with unacked := x.unacked.map (fun y =>
       if y.node = node ∧ y.seq = seq then { y with at_ := m.pmu d } else y) })
     (n.cnt .fabCnt d 1).send 0x12
       ([d, node, (n.fab d).inc, seq, n.jobFor d u.for_, n.get Fld.fabRouteCtl_epoch d] ++ reqWords u.node u.req)) := by
  unfold Mach.remoteResend
  rw [hwait]
  exact if_neg (Nat.not_lt.2 h)

end

/-! ### Edge peers -/

section
variable {m : Mach} {d p node tag : Nat} {op : RemoteOp} (hrole : m.get Fld.fabPortStatus_role d p = 2)
  (hstate : m.get Fld.fabPortStatus_state d p = 3) (hup : m.silent = false)
include hrole hstate hup

theorem Mach.edgeRequest_disabled (hoff : m.flag Fld.fabPortCtl_edge_en d p = false) :
    m.edgeRequest d p node tag op = m.send 0x14 [8 * d + p, tag, 1] := by
  unfold Mach.edgeRequest
  exact (if_neg (by simp [hrole, hstate, hup])).trans (if_pos (by simp [hoff]))

section
variable (hon : m.flag Fld.fabPortCtl_edge_en d p = true) (hplace : (opOffset op).isSome = true) (hfree : m.requestRefused d node op = false)
include hon hplace hfree

theorem Mach.edgeRequest_onward (hother : node ≠ m.node d) :
    m.edgeRequest d p node tag op = m.remoteSend d node op (.edge p tag (m.get Fld.fabPortCtl_edge_job d p)) 0 := by
  unfold Mach.edgeRequest
  exact (if_neg (by simp [hrole, hstate, hup])).trans
    ((if_neg (by simp [hon, Option.isSome_iff_ne_none.1 hplace, hfree])).trans (if_neg hother))

theorem Mach.edgeRequest_here (hhere : node = m.node d) : m.edgeRequest d p node tag op =
    (m.modFab d (fun x => { x with edgeWait := x.edgeWait ++ [(p, tag, m.get Fld.fabPortCtl_edge_job d p, op)] })).edgeDrain d
      ((m.fab d).edgeWait.length + 1) := by
  unfold Mach.edgeRequest
  exact (if_neg (by simp [hrole, hstate, hup])).trans
    ((if_neg (by simp [hon, Option.isSome_iff_ne_none.1 hplace, hfree])).trans (if_pos hhere))

end
end

/-- The one request that waits is applied and answered. -/
theorem Mach.edgeDrain_one {m m2 m' : Mach} {d p tag job code : Nat} {op : RemoteOp} {bs : List Byte} {poison : Bool}
    (hwait : (m.fab d).edgeWait = [(p, tag, job, op)]) (hgate : m.accessGate (m.node d) job op = (m2, true))
    (happly : (m2.modFab d (fun x => { x with edgeWait := [] })).remoteApply (m2.node d) job op = (m', code, bs, poison)) :
    m.edgeDrain d 1 = m'.send 0x14 [8 * d + p, tag, code, b2n poison, ofBytes bs] := by
  have hnode : (m2.modFab d (fun x => { x with edgeWait := [] })).node d = m2.node d := rfl
  unfold Mach.edgeDrain
  rw [hwait]
  dsimp only
  rw [hgate]
  dsimp only
  rw [Mach.edgeDrain, Mach.edgeApply, hnode, happly]

theorem Mach.edgeWait_modFab {m : Mach} {d : Nat} (h : smSorted m.dies = true) (hnone : (m.fab d).edgeWait = []) (x : Nat × Nat × Nat × RemoteOp) :
    ((m.modFab d (fun y => { y with edgeWait := y.edgeWait ++ [x] })).fab d).edgeWait = [x] := by
  refine (congrArg (fun y : Die => y.fab.edgeWait) (Mach.die_modDie_same m d _ h)).trans ?_
  change (m.fab d).edgeWait ++ [x] = [x]
  rw [hnone, List.nil_append]

/-- Settles O47: each row goes down the branch that its conditions name. -/
theorem remoteRows : Obligations.RemoteRows := by
  refine ⟨?_, ?_, ?_, ?_, ?_⟩
  · intro s node sdie inc seq job op hdata hup hinc x ahead
    refine ⟨?_, ?_, ?_, ?_, ?_⟩
    · exact fun m' hnext hgate => State.next_of_onData hdata (exec_remoteRequestReceive ..) (Mach.remoteReceive_applied hup hinc hnext hgate)
    · exact fun m' hnext hgate => State.next_of_onData hdata (exec_remoteRequestReceive ..) (Mach.remoteReceive_gated hup hinc hnext hgate)
    · exact fun hlo hhi hnew => State.next_of_onData hdata (exec_remoteRequestReceive ..)
        ((Mach.remoteReceive_early hup hinc hlo hhi).trans (Mach.holdAccess_new hnew))
    · exact fun hlo hhi _ => State.next_of_onData hdata (exec_remoteRequestReceive ..) (Mach.remoteReceive_early hup hinc hlo hhi)
    · intro hold r hkept
      refine ⟨fun hcode => State.next_of_onData hdata (exec_remoteRequestReceive ..)
          ((Mach.remoteReceive_again hup hinc hold hkept).trans (if_neg hcode)), fun hcode m' hturned => ?_⟩
      exact State.next_of_onData hdata (exec_remoteRequestReceive ..)
        ((Mach.remoteReceive_again hup hinc hold hkept).trans ((if_pos hcode).trans (Mach.remoteAgain_turned hturned)))
  · exact fun s node sdie inc seq job die ctr v => (exec_remoteAddReceive ..).trans (exec_remoteRequestReceive ..).symm
  · intro s node sdie inc seq job die ctr v hdata hup hinc hnext hheld hseq
    have hahead : (s.m.source (sourceKey node sdie)).ahead seq = 0 := by
      rw [SourceSt.ahead, hnext, Nat.add_sub_cancel_left, Nat.mod_self]
    have happlied := Mach.remoteReceive_applied hup hinc hahead (Mach.accessGate_add (job := job) die ctr v)
    rw [hheld] at happlied
    exact State.next_of_onData hdata (exec_remoteAddReceive ..) happlied
  · intro s d node seq u hd hwait
    refine ⟨?_, ?_, ?_, ?_, ?_, ?_, ?_⟩
    · exact fun die ctr v hadd => State.next_of_onDie hd (exec_remoteRejectReceive ..) (Mach.remoteReject_add hwait hadd)
    · exact fun hother => State.next_of_onDie hd (exec_remoteRejectReceive ..) (Mach.remoteReject_access hwait hother)
    · exact fun bs poison => State.next_of_onDie hd (exec_remoteResponseReceive ..) (Mach.remoteResponse_fault hwait bs poison)
    · exact fun a n r rd width sg fl bs hread hfor =>
        State.next_of_onDie hd (exec_remoteResponseReceive ..) (Mach.remoteResponse_load hwait hread hfor bs)
    · exact fun ws f5 width bs hfor _ => State.next_of_onDie hd (exec_remoteResponseReceive ..) (Mach.remoteResponse_lanes hwait hfor bs)
    · exact fun hearly => State.next_of_onDie hd (exec_remoteResend ..) (Mach.remoteResend_early hwait hearly)
    · exact fun hdue => State.next_of_onDie hd (exec_remoteResend ..) (Mach.remoteResend_due hwait hdue)
  · intro s d p node tag op hd hrole hstate hup job
    refine ⟨?_, ?_, ?_, ?_⟩
    · exact fun hoff => State.next_of_onDie hd (exec_edgeRequestReceive ..) (Mach.edgeRequest_disabled hrole hstate hup hoff)
    · exact fun hon hplace hfree hother => State.next_of_onDie hd (exec_edgeRequestReceive ..)
        (Mach.edgeRequest_onward hrole hstate hup hon hplace hfree hother)
    · exact fun hon hplace hfree hhere => State.next_of_onDie hd (exec_edgeRequestReceive ..)
        (Mach.edgeRequest_here hrole hstate hup hon hplace hfree hhere)
    · intro m2 m' code bs poison hon hplace hfree hhere hnone hsorted m1 hgate happly
      refine State.next_of_onDie hd (exec_edgeRequestReceive ..) ((Mach.edgeRequest_here hrole hstate hup hon hplace hfree hhere).trans ?_)
      rw [hnone]
      exact Mach.edgeDrain_one (Mach.edgeWait_modFab hsorted hnone _) hgate happly

end Sys2Proof.Machine
end

section
/-! SUPPORT and proofs. The actions of the timers and the step boundary (R25, R43, R45, R402, R433, R436, R456, R465, R468). -/

namespace Sys2Proof.Machine

theorem State.next_of_onWaits {s : State} {i : Instr} {f : Mach → Mach} {m : Mach} {d : Fin 8} (hd : s.m.dieRuns d = true)
    (h : exec i s = s.onWaits d f) (hm : f s.m = m) : exec i s = .next (s.setM m.nutmegAll) :=
  (h.trans (State.onWaits_run hd)).trans (s.next_setM_congr (congrArg Mach.nutmegAll hm))

/-! ### One action that has reached its actuator -/

section
variable {n m : Mach} {d : Nat} {a : TimerAct}

theorem Mach.interruptAct_taken (h : n.takeAct d 1 = (m, some a)) : n.interruptAct d = m.interrupt (a.arg % 4096) := by
  unfold Mach.interruptAct
  rw [h]

theorem Mach.syncAct_taken (h : n.takeAct d 2 = (m, some a)) : n.syncAct d = m.ctrAdd1 d (a.arg % 4096) srcOther := by
  unfold Mach.syncAct
  rw [h]

theorem Mach.scrubWindow_taken {code : Nat} (h : n.takeAct d code = (m, some a)) : n.scrubWindow d code =
    (bitsSet a.arg 4).foldl (fun m k => if m.flag Fld.hbmStatus_margining d (c := k) then m
      else m.put Fld.hbmStatus_scrub_open d (b2n (decide (code = 8))) (c := k)) m := by
  unfold Mach.scrubWindow
  rw [h]

/-! ### Collective deadlines -/

theorem Mach.colDeadlineAct_taken (h : n.takeAct d 4 = (m, some a)) : n.colDeadlineAct d = m.lateNow d (a.arg % 256) := by
  unfold Mach.colDeadlineAct
  rw [h]

theorem Mach.lateNow_free {g : Nat} (h : m.colOp d g = none) : m.lateNow d g =
    match m.unstartedWords d g with
    | some ws => m.makeLate d g ws
    | none => m.markLate d g true := by
  unfold Mach.lateNow
  rw [h]
  cases m.unstartedWords d g <;> rfl

theorem Mach.lateNow_running {g : Nat} {o : ColOp} (h : m.colOp d g = some o) :
    m.lateNow d g = if o.desc = none then m else m.markLate d g true := by
  unfold Mach.lateNow
  rw [h]
  cases hdesc : o.desc <;> simp [hdesc]

/-! ### The ramp and the cap -/

section
variable (h : n.takeAct d 5 = (m, some a))
include h

theorem Mach.rampStart_profile {x : NutSt} (hnut : (m.pwr d).nut = some x) (harg : a.arg < 16)
    (hvalid : m.flag Fld.pwrNutProf_valid d a.arg = true) : n.rampStart d =
      (let r : RampSt := { t0 := m.ft d, from_ := m.floorNow d, to_ := m.get Fld.pwrNutProf_level_pct d a.arg * x.a / 100,
                           dur := m.get Fld.pwrNutProf_dur_us d a.arg * 1000 }
       (m.modPwr d (fun y => { y with nut := some { x with ramp := some r } })).showFloor d) := by
  have hgo : (decide (a.arg < 16) && m.flag Fld.pwrNutProf_valid d a.arg) = true := by simp [harg, hvalid]
  unfold Mach.rampStart
  rw [h]
  dsimp only
  rw [hnut, hgo]

theorem Mach.rampStart_none (hno : (m.pwr d).nut = none ∨ 16 ≤ a.arg ∨ m.flag Fld.pwrNutProf_valid d a.arg = false) :
    n.rampStart d = m.cnt .pwrCnt d 7 := by
  unfold Mach.rampStart
  rw [h]
  dsimp only
  rcases hno with hno | hno
  · rw [hno]
  · have hstop : (decide (a.arg < 16) && m.flag Fld.pwrNutProf_valid d a.arg) = false := by
      rcases hno with hbig | hinvalid
      · simp [Nat.not_lt.2 hbig]
      · simp [hinvalid]
    rw [hstop]
    cases (m.pwr d).nut <;> rfl

end

section
variable (h : n.takeAct d 6 = (m, some a))
include h

theorem Mach.applyCap_none (hnone : (m.pwr d).capPend = none) : n.applyCap d = m := by
  unfold Mach.applyCap
  rw [h]
  dsimp only
  rw [hnone]

section
variable {cap : Nat} (hcap : (m.pwr d).capPend = some cap)
include hcap

theorem Mach.applyCap_die (hd : d ≠ 0) : n.applyCap d =
    ((m.modPwr d (fun p => { p with cap, capPend := none })).showShare d).ev Fld.pwrEvents_cap_applied d := by
  unfold Mach.applyCap
  rw [h]
  dsimp only
  rw [hcap]
  exact if_pos hd

/-- CD0 applies the cap of the module too. -/
theorem Mach.applyCap_module (hd : d = 0) : n.applyCap d =
    (let m := ((m.modPwr d (fun p => { p with cap, capPend := none })).showShare d).ev Fld.pwrEvents_cap_applied d
     let m := m.modPwr sdDie (fun p => { p with cap, capPend := none })
     let byChassis := match m.pins.chassisW with | some l => decide (l < classRating m.pins.cool) | none => false
     ((((m.put Fld.pwrCap_cap_w sdDie cap).put Fld.pwrCap_chassis sdDie (b2n byChassis)).put Fld.pwrCapPend_valid sdDie 0)).toCp
       sdDie 0x50 false false [(16, cap), (1, b2n byChassis)]) := by
  unfold Mach.applyCap
  rw [h]
  dsimp only
  rw [hcap]
  exact if_neg (not_not.2 hd)

end
end

/-! ### The commit point and its vote -/

section
variable {p : Part}

theorem Mach.commitPoint_taken (h : n.takeAct d 7 = (m, some a)) (hpart : m.partAt (a.arg % 16) = some p) (hlow : p.low = d)
    (hon : m.flag Fld.snapCfg_enable d = true) : n.commitPoint d =
      (let m := (m.lateBoundary p).dropBoundary p
       if !m.voteDue p then m
       else
         let r := m.voteReason p
         let m := (m.put Fld.snapStatus_vote_pending d 1).modSnap d (fun x => { x with voteFt := m.ft d, voteReason := r })
         m.send 0x1B [m.node d, m.get Fld.fabJob_job d, m.versionStep d, b2n (decide (r = 0))]) := by
  unfold Mach.commitPoint
  rw [h]
  dsimp only
  rw [hpart]
  exact (if_neg (not_not.2 hlow)).trans (if_neg (by simp [hon]))

section
variable (hpart : m.partOf d = some p) (hlow : p.low = d)
include hpart hlow

theorem Mach.voteResult_pending (hon : m.flag Fld.snapCfg_enable d = true) (hvote : m.flag Fld.snapStatus_vote_pending d = true) (allOk : Bool) :
    m.voteResult d allOk =
      if (m.snap d).voteReason = 0 ∧ allOk = true ∧ m.ft d ≤ (m.snap d).voteFt + 1000 * m.get Fld.snapTimes_vote_window d
      then (m.put Fld.snapStatus_vote_pending d 0).commit p
      else (m.put Fld.snapStatus_vote_pending d 0).commitFailed d (if (m.snap d).voteReason ≠ 0 then (m.snap d).voteReason else 5) := by
  unfold Mach.voteResult
  rw [hpart]
  refine (if_neg (not_not.2 hlow)).trans ((if_neg (by simp [hon, hvote])).trans ?_)
  exact if_congr (and_congr_right' (and_congr_right' decide_eq_true_iff)) rfl rfl

theorem Mach.voteResult_none (hno : m.flag Fld.snapCfg_enable d = false ∨ m.flag Fld.snapStatus_vote_pending d = false) (allOk : Bool) :
    m.voteResult d allOk = if allOk = true ∧ m.newReceived = true then m.put Fld.snapRecvStatus_copying sdDie 1 else m := by
  unfold Mach.voteResult
  rw [hpart]
  refine (if_neg (not_not.2 hlow)).trans ((if_pos (by simpa using hno)).trans ?_)
  exact if_congr (Bool.and_eq_true _ _ ▸ Iff.rfl) rfl rfl

end

/-! ### Scale entries and the step boundary -/

theorem Mach.scaleEntry_next {k : Nat} (hpart : n.partOf d = some p) (hnext : n.sclNext d (n.sclEntries d) 0 = (m, some k)) :
    n.scaleEntry d = (m.sclProcess d k (m.rd .snapStep p.low)).sclCapture p d k := by
  unfold Mach.scaleEntry
  rw [hpart]
  dsimp only
  rw [hnext]

end

theorem Mach.takeAct_regs (m : Mach) (d code : Nat) : (m.takeAct d code).1.regs = m.regs := by
  unfold Mach.takeAct
  split <;> rfl

theorem Mach.stepBoundary_open {slot : Nat} {p : Part} (hpart : m.partAt slot = some p) (hopen : m.flag Fld.fabJob_valid p.low = true) :
    m.stepBoundary slot =
      (let due := p.dies.filter (fun d => ((m.takeAct d 3).2).isSome)
       let m := due.foldl (fun m d => (m.takeAct d 3).1) m
       let m := if p.low ∈ due then m.boundaryLow p else m
       due.foldl (fun m d => m.boundaryDie p d) m) := by
  have hregs : ((p.dies.filter (fun d => ((m.takeAct d 3).2).isSome)).foldl (fun m d => (m.takeAct d 3).1) m).regs = m.regs :=
    foldl_keeps (fun x : Mach => x.regs = m.regs) _ (fun x d hx => (x.takeAct_regs d 3).trans hx) _ m rfl
  have hstill : ((p.dies.filter (fun d => ((m.takeAct d 3).2).isSome)).foldl (fun m d => (m.takeAct d 3).1) m).flag Fld.fabJob_valid p.low =
      true := by
    rw [Mach.flag, Mach.get, Mach.rd, Mach.reg_congr hregs]
    exact hopen
  unfold Mach.stepBoundary
  rw [hpart]
  refine (if_neg (by simp [hstill])).trans ?_
  dsimp only
  simp only [List.contains_iff_mem]

end

/-- Settles O24: each row takes its action and goes down the branch that its conditions name. -/
theorem timerActionsAndStepBoundary : Obligations.TimerActionsAndStepBoundary := by
  constructor
  · intro s d m a hd
    refine ⟨?_, ?_, ?_, ?_, ?_, ?_, ?_, ?_, ?_, ?_, ?_, ?_, ?_, ?_, ?_, ?_⟩
    · exact fun h => State.next_of_onDie hd (exec_timerActionInterrupt ..) (Mach.interruptAct_taken h)
    · exact fun h => State.next_of_onDie hd (exec_timerActionSyncAdd ..) (Mach.syncAct_taken h)
    · intro h hfree
      refine State.next_of_onWaits hd (exec_collectiveDeadlineAction ..) ((Mach.colDeadlineAct_taken h).trans ((Mach.lateNow_free hfree).trans ?_))
      cases m.unstartedWords d (a.arg % 256) <;> rfl
    · exact fun o h hrun => State.next_of_onWaits hd (exec_collectiveDeadlineAction ..)
        ((Mach.colDeadlineAct_taken h).trans (Mach.lateNow_running hrun))
    · exact fun x h hnut harg hvalid => State.next_of_onDie hd (exec_nutmegRampStart ..) (Mach.rampStart_profile h hnut harg hvalid)
    · exact fun h hno => State.next_of_onDie hd (exec_nutmegRampStart ..) (Mach.rampStart_none h hno)
    · exact fun h hnone => State.next_of_onDie hd (exec_applyPendingCap ..) (Mach.applyCap_none h hnone)
    · exact fun cap h hcap hne => State.next_of_onDie hd (exec_applyPendingCap ..) (Mach.applyCap_die h hcap (Fin.val_ne_of_ne hne))
    · rintro cap h hcap rfl
      exact State.next_of_onDie hd (exec_applyPendingCap ..) (Mach.applyCap_module h hcap rfl)
    · exact fun p h hpart hlow hon hno => State.next_of_onDie hd (exec_commitPoint ..)
        ((Mach.commitPoint_taken h hpart hlow hon).trans (if_pos (by simp [hno])))
    · exact fun p h hpart hlow hon hdue => State.next_of_onDie hd (exec_commitPoint ..)
        ((Mach.commitPoint_taken h hpart hlow hon).trans (if_neg (by simp [hdue])))
    · exact fun h => State.next_of_onDie hd (exec_scrubWindowOpen ..) (Mach.scrubWindow_taken h)
    · exact fun h => State.next_of_onDie hd (exec_scrubWindowClose ..) (Mach.scrubWindow_taken h)
    · exact fun p hpart hlow hon hvote allOk => State.next_of_onDie hd (exec_commitVoteResult ..)
        (Mach.voteResult_pending hpart hlow hon hvote allOk)
    · exact fun p hpart hlow hno allOk => State.next_of_onDie hd (exec_commitVoteResult ..) (Mach.voteResult_none hpart hlow hno allOk)
    · exact fun p k hpart hnext => State.next_of_onDie hd (exec_scaleEntryProcess ..) (Mach.scaleEntry_next hpart hnext)
  · exact fun s slot p hdata hpart hopen => State.next_of_onData hdata (exec_stepBoundary ..) (Mach.stepBoundary_open hpart hopen)

end Sys2Proof.Machine
end

section
/-! SUPPORT and proofs. The memory controllers and translation (R317, R321, R323 to R328, R331, R334, R336, R338). -/

namespace Sys2Proof.Machine

section
variable {m : Mach}

theorem Mach.scrubRead_due {d k pch : Nat} (hopen : m.flag Fld.hbmStatus_scrub_open d (c := k) = true)
    (hfree : m.flag Fld.hbmStatus_margining d (c := k) = false) (hrate : m.get Fld.hbmCfg_scrub_rate d (c := k) ≠ 0)
    (hpos : (m.pchTrk d k pch).pos < passSectors) (e : Nat) : m.scrubRead d k pch e =
      ((((m.upset (scrubAddr d k pch (m.pchTrk d k pch).pos) e).scrubSector (scrubAddr d k pch (m.pchTrk d k pch).pos)).modPch d k pch
        (fun t => { t with pos := t.pos + 1 })).showScrub d k).scrubPassEnd d k := by
  have hgo : (!m.flag Fld.hbmStatus_scrub_open d (c := k) || m.flag Fld.hbmStatus_margining d (c := k) ||
      m.get Fld.hbmCfg_scrub_rate d (c := k) == 0 || decide (passSectors ≤ (m.pchTrk d k pch).pos)) = false := by
    simp [hopen, hfree, hrate, Nat.not_le.2 hpos]
  unfold Mach.scrubRead
  exact if_neg (ne_true_of_eq_false hgo)

theorem Mach.hbmReadDone_stacked {a : Nat} (h : isStacked a = true) (e : Nat) (mirror : Bool) : m.hbmReadDone a e mirror =
    ((m.upset a e).hbmRead a mirror).1.answer ((m.upset a e).hbmRead a mirror).2 := if_pos h

theorem Mach.gdReadDone_gddr {a : Nat} (h : isGddr a = true) (fails : Nat) (dc du : Bool) : m.gdReadDone a fails dc du =
    (m.gdRead a fails dc du).1.answer (m.gdRead a fails dc du).2 := if_pos h

theorem Mach.mirrorRead_bad {a : Nat} (h : isStacked a = true) (hbad : (m.sectorDecode a).2 = .bad) (e : Nat) : m.mirrorRead a e =
    ((m.upset (mirrorAddr a) e).hbmRead a true).1.answer ((m.upset (mirrorAddr a) e).hbmRead a true).2 := by
  unfold Mach.mirrorRead
  refine (if_pos h).trans ?_
  rw [hbad]

/-! ### A margin run -/

/-- The pseudo-channels and pins that a margin run measures. -/
def marginPins (mask : Nat) : List (Nat × Nat) := (bitsSet mask 64).flatMap (fun q => (List.range 36).map (fun pin => (q, pin)))

/-- The 16 bytes of a pin's result. -/
def pinBytes (x : MarginSt) (d rate : Nat) (y : (Nat × Nat) × PinMargin) : List Byte :=
  let r := y.2
  let time := x.sweep.testBit 0
  let volt := x.sweep.testBit 1
  let cell (b : Bool) (v : Nat) : Nat := if b then v else 0
  toBytes 1 y.1.2 ++ toBytes 1 y.1.1 ++ toBytes 1 (4 * d + x.stack) ++ toBytes 1 rate ++ toBytes 1 (cell time r.tLeft) ++
    toBytes 1 (cell time r.tRight) ++ toBytes 1 (cell volt r.vLow) ++ toBytes 1 (cell volt r.vHigh) ++ toBytes 4 r.errors ++
    toBytes 1 (b2n r.limit + 2 * b2n (!(time && volt))) ++ toBytes 3 0

theorem pinBytes_length (x : MarginSt) (d rate : Nat) (y : (Nat × Nat) × PinMargin) : (pinBytes x d rate y).length = 16 := by
  simp [pinBytes, toBytes_length]

theorem flatMap_pinBytes_length (x : MarginSt) (d rate : Nat) (ys : List ((Nat × Nat) × PinMargin)) :
    (ys.flatMap (pinBytes x d rate)).length = 16 * ys.length := by
  induction ys with
  | nil => rfl
  | cons y ys ih => rw [List.flatMap_cons, List.length_append, pinBytes_length, ih, List.length_cons, Nat.mul_succ, Nat.add_comm]

theorem Mach.marginComplete_measured {d : Nat} {x : MarginSt} (hrun : m.cp.margins.find? (fun y => y.die == d && y.state == 1) = some x)
    {results : List PinMargin} (hlen : results.length = (marginPins x.mask).length) : m.marginComplete d results =
      (m.putBytes sdDie x.addr (((marginPins x.mask).zip results).flatMap (pinBytes x d (m.get Fld.hbmStatus_rate d (c := x.stack))))).marginEnd
        d 2 results.length := by
  unfold Mach.marginComplete
  rw [hrun]
  refine (if_neg (not_not.2 hlen)).trans ?_
  rw [hlen]
  rfl

/-! ### The end of an invalidation -/

theorem Mach.xlatInvDone_partition {d : Nat} {p : Part} (hbusy : m.flag Fld.cfgXlatInv_busy d = true) (hpart : m.partOf d = some p) :
    m.xlatInvDone d =
      (let va := m.get Fld.cfgXlatInv_va d / 65536 * 65536
       let whole := m.get Fld.cfgXlatInv_scope d == 1
       let covers (e : TlbEntry) : Bool := whole || (decide (e.va ≤ va) && decide (va < e.va + e.size))
       let onWalk (w : WalkPtr) : Bool := whole || (decide (w.va ≤ va) && decide (va < w.va + entrySpan (w.level + 1)))
       let m := p.dies.foldl (fun m x => (List.range 32).foldl (fun m c =>
         m.modCore x c (fun k => { k with tlb := k.tlb.filter (fun e => !covers e), walks := k.walks.filter (fun w => !onWalk w) })) m) m
       m.put Fld.cfgXlatInv_busy d 0) := by
  unfold Mach.xlatInvDone
  refine (if_neg (by simp [hbusy])).trans ?_
  rw [hpart]

end

/-- Settles O27: each row goes down the branch that its conditions name. -/
theorem memoryRows : Obligations.MemoryRows := by
  refine ⟨?_, ?_, ?_, ?_, ?_, ?_, ?_, ?_, ?_⟩
  · exact fun s d k pch e hd hopen hfree hrate hpos => State.next_of_onDie hd (exec_scrubRead ..) (Mach.scrubRead_due hopen hfree hrate hpos e)
  · intro s d k pch bank
    rw [exec_hbmRefresh]
    rcases hd : s.m.dieRuns d with _ | _
    · exact State.onDie_not hd
    · exact State.onDie_run hd
  · exact fun s a e mirror hdata hst => State.next_of_onData hdata (exec_hbmReadComplete ..) (Mach.hbmReadDone_stacked hst e mirror)
  · exact fun s r n hdata => State.next_of_onData hdata (exec_rowRetire ..) rfl
  · exact fun s r hdata => State.next_of_onData hdata (exec_rowRetire ..) rfl
  · exact fun s a e hdata hst hbad => State.next_of_onData hdata (exec_mirrorRead ..) (Mach.mirrorRead_bad hst hbad e)
  · exact fun s a fails dc du hdata hgd => State.next_of_onData hdata (exec_gddr7ReadComplete ..) (Mach.gdReadDone_gddr hgd fails dc du)
  · intro s d results x hd hrun hlen
    refine ⟨_, ?_, State.next_of_onDie hd (exec_marginRunComplete ..) (Mach.marginComplete_measured hrun hlen)⟩
    rw [flatMap_pinBytes_length, List.length_zip, ← show results.length = (marginPins x.mask).length from hlen, Nat.min_self]
  · exact fun s d p hd hbusy hpart => State.next_of_onDie hd (exec_xlatInvComplete ..) (Mach.xlatInvDone_partition hbusy hpart)

end Sys2Proof.Machine
end

section
/-! SUPPORT and proofs. The matrix array (R80 to R93, R96, R97, R100 to R106, R109). -/

namespace Sys2Proof.Machine

section
variable {m : Mach} {d c : Nat}

/-! ### Descriptors start -/

section
variable (hopen : m.fenced d c = false) {x : Desc} (hnext : m.oldest d c 0 = some x)
include hopen hnext

theorem Mach.readEntry_array_bad (hwait : x.waiting = false) (hrel : x.released = false) (f : Mach → Mach) :
    m.readEntry d c 0 none true f = m.queueUe d c 0 x := by
  unfold Mach.readEntry
  refine (if_pos rfl).trans ?_
  rw [hnext]
  exact if_neg (by simp [hwait, hrel, hopen])

theorem Mach.arrayStart_refused (hwait : x.waiting = false) (hrel : x.released = false) {bit : Nat}
    (hbad : firstBad (m.arrayChecks d c x) = some bit) :
    m.arrayStart d c = ((m.dropAhead d c x.seq).completeBad d c 0 x bit).planWindow d c := by
  unfold Mach.arrayStart
  refine (if_neg (by simp [hopen])).trans ?_
  rw [hnext]
  dsimp only
  rw [hbad]
  exact if_neg (by simp [hwait, hrel])

/-- A descriptor that has been checked, or whose checks all pass, goes on to its wait. -/
theorem Mach.arrayStart_goes (h : x.waiting = true ∨ x.released = true ∨ firstBad (m.arrayChecks d c x) = none) :
    m.arrayStart d c = m.arrayGo d c x := by
  unfold Mach.arrayStart
  refine (if_neg (by simp [hopen])).trans ?_
  rw [hnext]
  dsimp only
  rcases hbad : firstBad (m.arrayChecks d c x) with _ | bit
  · rfl
  · refine if_pos ?_
    rcases h with h | h | h
    · simp [h]
    · simp [h]
    · simp [hbad] at h

end

/-- The machine in which descriptor `x` has started, and is no longer one that is planned ahead. -/
def Mach.arrStarted (m : Mach) (d c : Nat) (x : Desc) : Mach :=
  (m.startDesc d c 0 x.seq).modArr d c (fun y => { y with ahead := y.ahead.filter (fun z => z.seq != x.seq) })

/-- Descriptor `x` as its tile takes it. -/
def Mach.arrTaken (m : Mach) (d c : Nat) (x : Desc) : TDesc := ((m.startDesc d c 0 x.seq).arr d c).taken x.seq x.words

section
variable {m' : Mach} {x : Desc} (hwait : m.waitDone d c 0 x = (m', true))
include hwait

theorem Mach.arrayGo_opens (hnone : ((m'.arrStarted d c x).arr d c).tiles.find? (fun t => t.accepting) = none) (hfirst : aFirst x.words = true) :
    m.arrayGo d c x = (((((m'.arrStarted d c x).modArr d c (fun y =>
      { y with tiles := y.tiles ++ [{ Tile.new x.seq x.words with descs := [m'.arrTaken d c x] }] })).fetchMissed d c x.seq
        (m'.arrTaken d c x)).planWindow d c).arrFinish d c).arrStatus d c := by
  unfold Mach.arrStarted at hnone
  unfold Mach.arrayGo
  rw [hwait]
  dsimp only
  rw [hnone]
  dsimp only
  rw [if_pos hfirst]
  rfl

theorem Mach.arrayGo_joins {t : Tile} (htile : ((m'.arrStarted d c x).arr d c).tiles.find? (fun t => t.accepting) = some t) (herr : t.err = 0)
    (hframe : t.breach x.words = false) : m.arrayGo d c x =
      (((((m'.arrStarted d c x).modTile d c t.uid (fun y =>
        { y with descs := y.descs ++ [{ m'.arrTaken d c x with again := t.descs.any (·.again) }], accepting := !aLast x.words })).fetchMissed
          d c t.uid (m'.arrTaken d c x)).planWindow d c).arrFinish d c).arrStatus d c := by
  unfold Mach.arrStarted at htile
  unfold Mach.arrayGo
  rw [hwait]
  dsimp only
  rw [htile]
  dsimp only
  rw [if_neg (not_not.2 herr), if_neg (by simp [hframe])]
  rfl

end

/-! ### A tile opens -/

theorem passOps_zero (ws : List Nat) : passOps ws 0 = (0, 1) := by
  unfold passOps
  simp

theorem ArrSt.tileReady_of {a : ArrSt} {t : Tile} (h : ∀ x, t.current = some x → x.streamable = true ∧ ∀ b, t.nextBlock x x.pos = some b →
    a.operand x 0 b ≠ .absent ∧ a.operand x 1 b ≠ .absent) : a.tileReady t = true := by
  unfold ArrSt.tileReady
  rcases hcur : t.current with _ | x
  · rfl
  · obtain ⟨hstream, hblock⟩ := h x hcur
    dsimp only
    rw [hstream, Bool.true_and]
    rcases hnext : t.nextBlock x x.pos with _ | b
    · rfl
    · obtain ⟨hA, hB⟩ := hblock b hnext
      simp [ArrSt.operandsHeld, passOps_zero, hA, hB]

theorem Mach.tileOpen_free {t : Tile} {p : Nat} (htile : (m.arr d c).tiles.find? (fun t => !t.opened && t.err == 0) = some t)
    (hopen : m.fenced d c = false) (hroom : (m.arr d c).openTiles.length < 2)
    (holder : ((m.arr d c).tiles.takeWhile (fun x => x.uid != t.uid)).any
      (fun x => !x.opened || !x.streamed || (x.attempt == 2 && t.seq.isSome)) = false)
    (hready : (m.arr d c).tileReady t = true) (hplane : (List.range 2).find? (fun p => m.planeState d c p == plFree) = some p) :
    m.tileOpen d c =
      (let a := m.arr d c
       let m := if t.seq.isNone then m.modArr d c (fun a => { a with tileSeq := a.tileSeq + 1 }) else m
       let g := if aSpill t.words0 = 0 then m.get Fld.arrCfg_spill_log2 d (c := c) else aSpill t.words0
       let m := m.modTile d c t.uid (fun x => { x with seq := some (t.seq.getD a.tileSeq), opened := true,
                                                       sLog := if t.seq.isSome then t.sLog else g, plane := p, seg := 0, spilled := false })
       (((m.modPlane d c p (fun _ => { ArrPlane.init with owner := t.uid, last := some t.uid })).setPlaneState d c p plAccum).arrFinish
         d c).arrStatus d c) := by
  unfold Mach.tileOpen
  dsimp only
  rw [htile]
  dsimp only
  rw [if_neg (by simp [hopen, holder]), if_neg (by simp [hready]), hplane]
  exact if_neg (Nat.not_le.2 hroom)

/-! ### Operands come in -/

theorem Mach.operandFetch_ok {seq block op : Nat} {t : Tile} {x : TDesc} {m' : Mach} {codes : List Nat} {bad : Nat}
    (htile : (m.arr d c).tiles.find? (fun t => t.err == 0 && t.descs.any (fun x => x.seq == seq)) = some t)
    (hdesc : t.descs.find? (fun x => x.seq == seq) = some x) (hwant : (x.wants op block).1 = true)
    (hnew : (m.arr d c).feed.any (fun f => f.seq == seq && f.block == block && f.op == op) = false)
    (hroom : (m.arr d c).ringUsed (op % 2 == 1) + ceilDiv (aLines x.words (op % 2 == 1) * 32 * elemBits (aFmt x.words (op % 2 == 1))) 8 ≤
      m.ringRoom d c (op % 2 == 1))
    (hmiss : x.miss.testBit block = false) (hstream : aResident x.words (op % 2 == 1) = false) (hop : op < 2 ∨ aSplit3 x.words = true)
    (hread : m.streamBlock d c seq x.words op block = (m', .ok (codes, bad))) :
    m.operandFetch d c seq block op = m'.modArr d c (fun a => { a with feed := a.feed ++ [⟨seq, block, op, codes, bad, false⟩] }) := by
  have hfetch : (m.arr d c).fetching seq = some (some t.uid, x) := by
    unfold ArrSt.fetching
    rw [htile]
    dsimp only
    rw [hdesc]
    rfl
  have hlo : (decide (2 ≤ op) && !aSplit3 x.words) = false := by
    rcases hop with hlt | hsplit
    · simp [Nat.not_le.2 hlt]
    · simp [hsplit]
  unfold Mach.operandFetch
  dsimp only
  rw [hfetch]
  dsimp only
  rw [if_neg (by simp [hwant, hnew, hmiss, hstream, hlo, Nat.not_lt.2 hroom]), hread]

/-! ### A cycle of the array -/

theorem Mach.arrayCycle_droop (h : m.drooping d = true) (up : Option (Nat × Nat × Nat)) (bad : Bool) :
    m.arrayCycle d c up bad = m.cnt .arrCnt d 5 (c := c) := if_pos h

theorem Mach.arrayCycle_bubble (hno : m.drooping d = false) (hbubble : bubbleSlot (m.arr d c).bubbles (m.arr d c).slot = true)
    (up : Option (Nat × Nat × Nat)) (bad : Bool) : m.arrayCycle d c up bad = (m.arrSlot d c).cnt .arrCnt d 5 (c := c) := by
  unfold Mach.arrayCycle
  refine (if_neg (by simp [hno])).trans ?_
  unfold Mach.kGroup
  exact if_pos hbubble

/-- The group `idx` of a block that comes next in a descriptor. -/
def TDesc.nextGroup (x : TDesc) (b : Nat) : Nat := if b = x.pos then x.grp else 0

/-- A group of a descriptor has entered. -/
def Mach.groupEntered (m : Mach) (d c : Nat) (t : Tile) (x : TDesc) (b : Nat) : Mach :=
  let idx := if b = x.pos then x.grp else 0
  let last := idx + 1 == blockGroups x.words
  let m := m.modTDesc d c x.seq (fun y => { y with pos := if last then b + 1 else b, grp := if last then 0 else idx + 1 })
  let m := (if last then m.dropBlock d c x.seq b else m).spillFull d c t.uid
  ((m.planWindow d c).arrFinish d c).arrStatus d c

theorem Mach.enterGroup_bad {t : Tile} {x : TDesc} {b idx : Nat} {ca cb : List Nat} {ba bb : Nat}
    (hA : (m.arr d c).operand x (passOps x.words idx).1 b = .ready ca ba) (hB : (m.arr d c).operand x (passOps x.words idx).2 b = .ready cb bb)
    (up : Option (Nat × Nat × Nat)) : m.enterGroup d c t x b idx up true =
      ((m.toCp d 0x34 false false [(4, 4), (8, coreNum d c), (48, 0)]).abandonTile d c t.uid 1 stPoisoned [], .abandoned) := by
  unfold Mach.enterGroup
  dsimp only
  rw [hA, hB]
  rfl

section
variable (hno : m.drooping d = false) (hslot : bubbleSlot (m.arr d c).bubbles (m.arr d c).slot = false) {t : Tile} {x : TDesc} {b : Nat}
  (htile : (m.arr d c).streaming = some t) (hcur : t.current = some x) (hstream : x.streamable = true) (hblock : t.nextBlock x x.pos = some b)
include hno hslot htile hcur hstream hblock

theorem Mach.arrayCycle_group (up : Option (Nat × Nat × Nat)) (bad : Bool) : m.arrayCycle d c up bad =
    match (m.arrSlot d c).enterGroup d c t x b (x.nextGroup b) up bad with
    | (m, .stalled) => m
    | (m, .abandoned) => m.planWindow d c
    | (m, .entered) => m.groupEntered d c t x b := by
  unfold Mach.arrayCycle
  refine (if_neg (by simp [hno])).trans ?_
  unfold Mach.kGroup
  refine (if_neg (by simp [hslot])).trans ?_
  rw [htile]
  dsimp only
  rw [hcur]
  dsimp only
  rw [if_neg (by simp [hstream]), hblock]
  dsimp only
  unfold TDesc.nextGroup
  rcases (m.arrSlot d c).enterGroup d c t x b (if b = x.pos then x.grp else 0) up bad with ⟨m', _ | _ | _⟩ <;> rfl

theorem Mach.arrayCycle_entered {up : Option (Nat × Nat × Nat)} {m' : Mach}
    (henter : (m.arrSlot d c).enterGroup d c t x b (x.nextGroup b) up = (m', .entered)) :
    m.arrayCycle d c up false = m'.groupEntered d c t x b := by
  rw [Mach.arrayCycle_group hno hslot htile hcur hstream hblock, henter]

theorem Mach.arrayCycle_bad {ca cb : List Nat} {ba bb : Nat}
    (hA : ((m.arrSlot d c).arr d c).operand x (passOps x.words (x.nextGroup b)).1 b = .ready ca ba)
    (hB : ((m.arrSlot d c).arr d c).operand x (passOps x.words (x.nextGroup b)).2 b = .ready cb bb) (up : Option (Nat × Nat × Nat)) :
    m.arrayCycle d c up true = (((m.arrSlot d c).toCp d 0x34 false false [(4, 4), (8, coreNum d c), (48, 0)]).abandonTile d c t.uid 1
      stPoisoned []).planWindow d c := by
  rw [Mach.arrayCycle_group hno hslot htile hcur hstream hblock, Mach.enterGroup_bad hA hB]

end

/-! ### Spills -/

section
variable {p : Nat} {t : Tile} (hplane : m.spillPlane d c = some p) (htile : m.planeTile d c p = some t)
include hplane htile

theorem Mach.spill_waits (hfirst : t.spilled = false) (hheld : m.storeState d c ≠ plFree) (dis : Bool) :
    m.spill d c dis = m.cnt .arrCnt d 4 (c := c) := by
  unfold Mach.spill
  rw [hplane]
  dsimp only
  rw [htile]
  exact if_pos (by simp [hfirst, hheld])

theorem Mach.spill_adds (h : t.spilled = true ∨ m.storeState d c = plFree) (dis : Bool) : m.spill d c dis =
    (let a := m.arr d c
     let sum := spillInto a.store (a.plane p) (!t.spilled)
     let m := m.modArr d c (fun a => { a with store := sum, storeOwner := t.uid, storeLast := some t.uid, storePoisonAb := false })
     let m := m.setStoreState d c (if t.streamed && p == t.plane then plCheck else plAccum)
     let m := (m.modPlane d c p (fun x => { x with added := true })).modTile d c t.uid (fun x => { x with spilled := true })
     let m := m.cnt .arrCnt d 7 (c := c)
     if dis then m.mismatch d c t (a.plane p).seg 0xFF 0xFF else m.arrStatus d c) := by
  have hgo : (!t.spilled && m.storeState d c != plFree) = false := by
    rcases h with h | h
    · simp [h]
    · simp [h]
  unfold Mach.spill
  rw [hplane]
  dsimp only
  rw [htile]
  exact if_neg (ne_true_of_eq_false hgo)

end

theorem Mach.spillComplete_found {p : Nat} (h : (List.range 2).find? (fun p => m.planeState d c p == plSpill && ((m.arr d c).plane p).added &&
    ((m.arr d c).plane p).compared) = some p) :
    m.spillComplete d c = ((m.modPlane d c p (fun x => { ArrPlane.init with last := x.last })).setPlaneState d c p plFree).arrStatus d c := by
  unfold Mach.spillComplete
  rw [h]

/-! ### Release -/

/-- The planes that still hold segments of tile `t`, where each has been compared and added. -/
theorem Mach.planes_settled {t : Tile} (h : ∀ p, p < 2 → m.planeState d c p = plSpill ∨ m.planeState d c p = plCheck → ((m.arr d c).plane p).owner = t.uid →
      ((m.arr d c).plane p).compared = true ∧ (m.planeState d c p = plSpill → ((m.arr d c).plane p).added = true)) :
    ((List.range 2).filter (fun p => (m.planeState d c p == plSpill || m.planeState d c p == plCheck) && ((m.arr d c).plane p).owner == t.uid)).any
      (fun p => !((m.arr d c).plane p).compared || (m.planeState d c p == plSpill && !((m.arr d c).plane p).added)) = false := by
  rw [List.any_eq_false]
  intro p hp
  simp only [List.mem_filter, List.mem_range, Bool.and_eq_true, Bool.or_eq_true, beq_iff_eq] at hp
  obtain ⟨hlt, hstate, howner⟩ := hp
  obtain ⟨hcompared, hadded⟩ := h p hlt hstate howner
  by_cases hspill : m.planeState d c p = plSpill
  · simp [hcompared, hadded hspill]
  · simp [hcompared, hspill]

/-- Tile `t`, whose result is in its plane, is released. -/
def Mach.tileReleased (m : Mach) (d c : Nat) (t : Tile) (scl : Bool) : Mach :=
  let w := statusWord (t.seq.getD 0) 0 t.plane t.skipped scl t.corr t.chk t.nan t.sat true
  let m := (m.setPlaneState d c t.plane plReleased).modArr d c (fun a => { a with tiles := a.tiles.tail })
  let m := (m.tileStatus d c w).cnt .arrCnt d 0 (c := c)
  let m := if t.sat then (m.ev Fld.arrEvents_sat_tile d (c := c)).cnt .arrCnt d 12 (c := c) else m
  let m := if t.nan then (m.ev Fld.arrEvents_nan_tile d (c := c)).cnt .arrCnt d 13 (c := c) else m
  let m := if t.attempt = 2 then (m.ev Fld.arrEvents_recompute_pass d (c := c)).cnt .arrCnt d 11 (c := c) else m
  let m := m.dropFeed d c (t.descs.map (·.seq))
  (t.descs.foldl (fun m x => m.arrComplete d c x.seq stOk w) m).arrStatus d c

theorem Mach.tileRelease_resident {t : Tile} {m' : Mach} {scl : Bool} (hhead : (m.arr d c).tiles.head? = some t) (hopened : t.opened = true)
    (hstreamed : t.streamed = true) (hplane : t.spilled = false)
    (hsettled : ((List.range 2).filter (fun p => (m.planeState d c p == plSpill || m.planeState d c p == plCheck) &&
      ((m.arr d c).plane p).owner == t.uid)).any
      (fun p => !((m.arr d c).plane p).compared || (m.planeState d c p == plSpill && !((m.arr d c).plane p).added)) = false)
    (hscl : m.tileScl d t = (m', scl)) : m.tileRelease d c = m'.tileReleased d c t scl := by
  unfold Mach.tileRelease
  rw [hhead]
  refine (if_neg (by simp [hopened, hstreamed, hplane, hsettled])).trans ?_
  rw [hscl, hplane]
  rfl

/-! ### Checksums -/

theorem filter_range_two {q : Nat → Bool} {p : Nat} (hp : p < 2) (hyes : q p = true) (hno : ∀ x, x < 2 → x ≠ p → q x = false) :
    (List.range 2).filter q = [p] := by
  have hp2 : p = 0 ∨ p = 1 := by omega
  rcases hp2 with rfl | rfl
  · simp [List.range_succ, hyes, hno 1 (by decide) (by decide)]
  · simp [List.range_succ, hyes, hno 0 (by decide) (by decide)]

/-- What is done once the row and column checks of plane `p` have been held against its cells. -/
def Mach.segmentCompared (m : Mach) (d c p : Nat) (t : Tile) : Option (Nat × Nat) → Mach
  | none => ((m.modPlane d c p (fun x => { x with compared := true })).modTile d c t.uid (fun x => { x with skipped := true })).cnt
      .arrCnt d 9 (c := c)
  | some (r, q) =>
    if r = 0xFF ∧ q = 0xFF then (m.cnt .arrCnt d 8 (c := c)).modPlane d c p (fun x => { x with compared := true })
    else (m.cnt .arrCnt d 8 (c := c)).mismatch d c t ((m.arr d c).plane p).seg r q

section
variable {p : Nat} {t : Tile} (hp : p < 2) (hdue : m.comparable d c p = true) (hother : ∀ q, q < 2 → q ≠ p → m.comparable d c q = false)
  (htile : m.planeTile d c p = some t)
include hp hdue hother htile

theorem Mach.checksumCompare_one : m.checksumCompare d c = m.segmentCompared d c p t (compareSegment ((m.arr d c).plane p)) := by
  unfold Mach.checksumCompare
  dsimp only
  rw [filter_range_two hp hdue hother]
  dsimp only [List.foldl]
  rw [htile]
  dsimp only
  rcases compareSegment ((m.arr d c).plane p) with _ | ⟨r, q⟩ <;> rfl

end
end

/-- Settles O38: each row goes down the branch that its conditions name. -/
theorem arrayRows : Obligations.ArrayRows := by
  constructor
  · intro s d c hd a goes
    refine ⟨?_, ?_, ?_, ?_, ?_, ?_, ?_, ?_, ?_, ?_, ?_, ?_, ?_, ?_⟩
    · exact fun x bit hopen hnext hwait hrel hbad => State.next_of_onDie hd (exec_arrayDescriptorStart ..)
        (Mach.arrayStart_refused hopen hnext hwait hrel hbad)
    · exact fun x hopen hnext hwait hrel => State.next_of_onDie hd (exec_arrayDescriptorStart ..)
        (Mach.readEntry_array_bad hopen hnext hwait hrel _)
    · exact fun x m' hopen hnext hgo hdone hnone hfirst => State.next_of_onDie hd (exec_arrayDescriptorStart ..)
        ((Mach.arrayStart_goes hopen hnext hgo).trans (Mach.arrayGo_opens hdone hnone hfirst))
    · exact fun x m' t hopen hnext hgo hdone htile herr hframe => State.next_of_onDie hd (exec_arrayDescriptorStart ..)
        ((Mach.arrayStart_goes hopen hnext hgo).trans (Mach.arrayGo_joins hdone htile herr hframe))
    · exact fun t p htile hopen hroom holder hready hplane => State.next_of_onDie hd (exec_tileOpen ..)
        (Mach.tileOpen_free htile hopen hroom holder (ArrSt.tileReady_of hready) hplane)
    · exact fun seq block op t x m' codes bad htile hdesc hwant hnew hroom hmiss hstream hop hread =>
        State.next_of_onDie hd (exec_operandFetchComplete ..)
          (Mach.operandFetch_ok htile hdesc hwant hnew hroom hmiss hstream hop hread)
    · exact fun up bad hdroop => State.next_of_onDie hd (exec_kGroupEnter ..) (Mach.arrayCycle_droop hdroop up bad)
    · exact fun up bad hno hbubble => State.next_of_onDie hd (exec_kGroupEnter ..) (Mach.arrayCycle_bubble hno hbubble up bad)
    · exact fun up t x b ca ba cb bb hno hslot htile hcur hstream hblock hA hB => State.next_of_onDie hd (exec_kGroupEnter ..)
        (Mach.arrayCycle_bad hno hslot htile hcur hstream hblock hA hB up)
    · intro up t x b m' hno hslot htile hcur hstream hblock idx henter
      have hentered := Mach.arrayCycle_entered hno hslot htile hcur hstream hblock henter
      have hnext := State.next_of_onDie hd (exec_kGroupEnter d c ⟨up, false⟩ s) hentered
      exact hnext
    · exact fun dis p t hplane htile h => State.next_of_onDie hd (exec_spill ..) (Mach.spill_adds hplane htile h dis)
    · exact fun dis p t hplane htile hfirst hheld => State.next_of_onDie hd (exec_spill ..) (Mach.spill_waits hplane htile hfirst hheld dis)
    · exact fun p h => State.next_of_onDie hd (exec_spillComplete ..) (Mach.spillComplete_found h)
    · exact fun t hhead hopened hstreamed hplane h m' scl hscl => State.next_of_onDie hd (exec_tileRelease ..)
        (congrArg (Mach.planWindow · d c) (Mach.tileRelease_resident hhead hopened hstreamed hplane (Mach.planes_settled h) hscl))
  · intro s d c p t hd hp a hdue hother htile
    have hone := Mach.checksumCompare_one hp hdue hother htile
    refine ⟨fun hskip => ?_, fun hgood => ?_, fun r q hbad hne => ?_⟩
    · rw [show compareSegment ((s.m.arr d c).plane p) = none from hskip] at hone
      exact State.next_of_onDie hd (exec_checksumCompare ..) hone
    · rw [show compareSegment ((s.m.arr d c).plane p) = some (0xFF, 0xFF) from hgood] at hone
      exact State.next_of_onDie hd (exec_checksumCompare ..) hone
    · rw [show compareSegment ((s.m.arr d c).plane p) = some (r, q) from hbad] at hone
      exact State.next_of_onDie hd (exec_checksumCompare ..) (hone.trans (if_neg (by omega)))

end Sys2Proof.Machine
end

section
/-! SUPPORT and proofs. The sparsity unit (R124, R125, R127 to R130, R133, R134, R136). -/

namespace Sys2Proof.Machine

section
variable {m : Mach} {d c : Nat}

/-! ### Predictions -/

section
variable {t : Tile} {x : TDesc} (hnext : (m.window d c).find? (fun y => !y.2.planned && y.2.mode == 2) = some (t, x))
include hnext

theorem Mach.predictionRead_none (hno : aHist x.words = 0x7FF) :
    m.predictionRead d c = (m.modTDesc d c x.seq (fun y => { y with planned := true, pred := 0 })).sumStatus d c := by
  unfold Mach.predictionRead
  rw [hnext]
  exact if_pos hno

theorem Mach.predictionRead_entry (hidx : aHist x.words ≠ 0x7FF) {m1 m2 : Mach} {h : HistEntry} {v : Nat}
    (hentry : m.histEntry d (aHist x.words) = (m1, h, false, false)) (hvalid : h.valid = true)
    (hmap : m1.readMap d (h.map 9) h.len = (m2, v, false)) : m.predictionRead d c =
      (let pred := (List.range x.blocks).foldl (fun acc b =>
         if aHistKb x.words + b ≤ h.nblk ∧ v.testBit (aHistKb x.words + b) then acc + 2 ^ b else acc) 0
       let m := m2.cnt .sumCnt d 0 (popcount pred x.blocks) (c := c)
       (m.modTDesc d c x.seq (fun y => { y with planned := true, pred })).sumStatus d c) := by
  unfold Mach.predictionRead
  rw [hnext]
  refine (if_neg hidx).trans ?_
  rw [hentry]
  refine (if_neg (by decide)).trans ((if_neg (by simp [hvalid])).trans ?_)
  rw [hmap]
  rfl

end

/-! ### Actual maps -/

/-- The blocks that were predicted zero and are not, of a first execution. -/
def TDesc.missedBy (x : TDesc) (act : Nat) : Nat :=
  if x.mode = 2 ∧ x.again = false then (bitsSet x.pred x.blocks).foldl (fun a b => if act.testBit b then a else a + 2 ^ b) 0 else 0

/-- The actual map of descriptor `x` has been read. -/
def Mach.mapRead (m : Mach) (d c seq : Nat) (x : TDesc) (act : Nat) : Mach :=
  let m := m.modCore d c (fun k => { k with zmapOk := k.zmapOk.filter (fun s => s != seq) })
  let verify := m.flag Fld.sumTblCfg_verify d
  let m := m.modTDesc d c seq (fun y => { y with act := some act, toVerify := if verify then act else 0, miss := x.missedBy act })
  let m := m.modArr d c (fun a => { a with feed := a.feed.filter (fun f =>
    !(f.seq == seq && act.testBit f.block && !x.vbad.testBit f.block && !verify)) })
  let m := (m.cnt .sumCnt d 2 (popcount (x.missedBy act) x.blocks) (c := c)).countBlocks d c seq
  (((m.observe d c x act).planWindow d c).arrFinish d c).arrStatus d c

theorem Mach.actualRead_first {seq : Nat} {t : Tile} {x : TDesc} {m' : Mach} {bs : List (Byte × Bool)}
    (hdesc : (m.window d c).find? (fun y => y.2.seq == seq) = some (t, x)) (hplanned : x.planned = true) (hmode : x.mode ≠ 0)
    (hact : x.act = none) (hredo : x.redo = false) (herr : x.err = 0) (hzmap : (m.core d c).zmapOk.contains seq = true)
    (hread : m.engRead (feedEng d c seq) (aZmapAddr x.words) (ceilDiv (aZmapBit x.words + x.blocks) 8) = (m', .ok bs))
    (hgood : anyPoison bs = false) :
    m.actualRead d c seq = m'.mapRead d c seq x ((ofBytes (plain bs) >>> aZmapBit x.words) % 2 ^ x.blocks) := by
  have hgo : (!x.planned || x.err != 0 || x.mode == 0 || x.act.isSome || !(x.redo || (m.core d c).zmapOk.contains seq)) = false := by
    simp only [hplanned, herr, hact, hredo, hzmap, beq_false_of_ne hmode]
    rfl
  unfold Mach.actualRead
  rw [hdesc]
  refine (if_neg (ne_true_of_eq_false hgo)).trans ?_
  dsimp only
  rw [hread]
  simp only [hgood, hredo, Bool.not_false, Bool.and_true, Bool.not_eq_true', Bool.or_self, Bool.false_eq_true, if_false]
  rfl

/-! ### Verification -/

/-- A block that was marked zero has been judged: `wrong` where it is not zero or is poisoned, `falseZero` where an element is not zero. -/
def Mach.verifyJudged (m : Mach) (d c seq : Nat) (x : TDesc) (b : Nat) (wrong falseZero : Bool) : Mach :=
  let m := m.modTDesc d c seq (fun y =>
    { y with toVerify := setBits y.toVerify b b 0, vbad := if wrong then setBits y.vbad b b 1 else y.vbad,
             vfalse := if falseZero then setBits y.vfalse b b 1 else y.vfalse,
             miss := if wrong && !x.again then setBits y.miss b b 1 else y.miss })
  let m := if !wrong || decide (64 < (m.arr d c).missesHeld) then m.dropBlock d c seq b else m
  let m := if wrong && !x.again then m.cnt .sumCnt d 2 (c := c) else m
  let m := if falseZero then (m.ev Fld.sumEvents_zmap_false d (c := c)).cnt .sumCnt d 9 (c := c) else m
  (((m.countBlocks d c seq).sumStatus d c).arrFinish d c).arrStatus d c

/-- An element of the block is not zero. -/
def anyNonZero (fmt : Nat) (codes : List Nat) : Bool := codes.any (fun k => !(elemVal fmt k).isZero)

theorem Mach.verifyRead_single {seq : Nat} {x : TDesc} {b : Nat} {m1 : Mach} {codes : List Nat} {bad : Nat}
    (hdesc : (m.arr d c).allDescs.find? (fun x => x.seq == seq && x.toVerify != 0) = some x) (hblock : lowestBit x.toVerify x.blocks = some b)
    (hsingle : aSplit3 x.words = false) (hread : m.verifyOperand d c x 0 b = (m1, some (codes, bad), false)) : m.verifyRead d c seq =
      m1.verifyJudged d c seq x b (anyNonZero (aFmt x.words false) codes || bad != 0) (anyNonZero (aFmt x.words false) codes && bad == 0) := by
  unfold Mach.verifyRead
  rw [hdesc]
  dsimp only
  rw [hblock]
  dsimp only
  rw [hread, hsingle]
  by_cases hbad : bad = 0
  · subst hbad
    refine (if_neg Bool.false_ne_true).trans ((if_neg (by decide)).trans ?_)
    rw [show ((0 : Nat) != 0) = false from rfl, show ((0 : Nat) == 0) = true from rfl, Bool.or_false, Bool.and_true, List.append_nil]
    rfl
  · refine (if_neg Bool.false_ne_true).trans ((if_pos (.inl hbad)).trans ?_)
    rw [show (bad != 0) = true from bne_iff_ne.2 hbad, show (bad == 0) = false from beq_false_of_ne hbad, Bool.or_true, Bool.and_false]
    rfl

/-! ### Corrections -/

theorem Mach.correction_missed {t : Tile} {x : TDesc} {b : Nat} (hstream : (m.arr d c).streaming = some t) (haccept : t.accepting = false)
    (hcur : t.current = none) (hverify : t.descs.any (fun x => x.toVerify != 0) = false) (hmiss : t.nextMiss = some (x, b)) :
    m.correction d c =
      (let m := m.correctGroups d c t.uid x.seq b (96 + (m.arr d c).bubbles)
       let finished := ((m.arr d c).tiles.find? (fun y => y.uid == t.uid)).any (fun y => decide (blockGroups x.words ≤ y.cgrp))
       let m := if finished then
           (((m.modTDesc d c x.seq (fun y => { y with miss := setBits y.miss b b 0 })).modTile d c t.uid
             (fun y => { y with cgrp := 0 })).dropBlock d c x.seq b).spillFull d c t.uid
         else m
       (((m.planWindow d c).arrFinish d c).sumStatus d c).arrStatus d c) := by
  unfold Mach.correction
  rw [hstream]
  refine (if_neg (by simp [haccept, hcur, hverify])).trans ?_
  rw [hmiss]

end

/-- Settles O39: each row goes down the branch that its conditions name. -/
theorem sparsityRows : Obligations.SparsityRows := by
  intro s d c hd goes
  refine ⟨?_, ?_, ?_, ?_, ?_⟩
  · exact fun t x hnext hno => State.next_of_onDie hd (exec_sumacPredictionRead ..) (Mach.predictionRead_none hnext hno)
  · exact fun t x m1 h m2 v hnext hidx hentry hvalid hmap => State.next_of_onDie hd (exec_sumacPredictionRead ..)
      (Mach.predictionRead_entry hnext hidx hentry hvalid hmap)
  · intro seq t x m' bs hdesc hplanned hmode hact hredo herr hzmap hread hgood
    have hnext := State.next_of_onDie hd (exec_zmapActualRead d c seq s)
      (Mach.actualRead_first hdesc hplanned hmode hact hredo herr hzmap hread hgood)
    exact hnext
  · intro seq x b m1 codes bad hdesc hblock hsingle hread
    have hjudged := State.next_of_onDie hd (exec_zmapVerifyRead d c seq s) (Mach.verifyRead_single hdesc hblock hsingle hread)
    exact hjudged
  · exact fun t x b hstream haccept hcur hverify hmiss => State.next_of_onDie hd (exec_sumacCorrection ..)
      (Mach.correction_missed hstream haccept hcur hverify hmiss)

end Sys2Proof.Machine
end

section
/-! SUPPORT and proofs. The vector engine's arithmetic (R141, R152, R158, R161). -/

namespace Sys2Proof.Machine

/-! ### An instruction at issue -/

/-- An instruction that can issue has its outcome. -/
theorem Mach.vecIssue_word {m m' : Mach} {d c op : Nat} {r : VecRun} {v : VInst} (hopen : m.fenced d c = false)
    (hfetch : m.vecFetch d c = (m', .word r v)) (hop : v.op = op) (hfree : m'.vecBubbled d c op = false) (hlegal : v.legal = true)
    (body : Mach → VecRun → VInst → Mach × VOut) :
    m.vecIssue d c op body = Mach.vecThen d c r (body (m'.vecNoted d c op) { r with last := r.idx } v) := by
  unfold Mach.vecIssue
  refine (if_neg (by simp [hopen])).trans ?_
  rw [hfetch]
  refine (if_neg (not_not_intro hop)).trans ((if_neg (by simp [hfree])).trans ((if_neg (by simp [hlegal])).trans ?_))
  rcases body (m'.vecNoted d c op) { r with last := r.idx } v with ⟨n, _ | _ | _ | _⟩ <;> rfl

theorem State.next_of_vecIssue {s : State} {d : Fin 8} {c : Fin 32} {op : Nat} {m' : Mach} {r : VecRun} {v : VInst} (h : s.vecAt d c op m' r v)
    {i : Instr} {body : Mach → VecRun → VInst → Mach × VOut} (hexec : exec i s = s.onDie d (fun m => m.vecIssue d c op body)) {x : Mach × VOut}
    (hbody : body (m'.vecNoted d c op) { r with last := r.idx } v = x) : exec i s = .next (s.setM (Mach.vecThen d c r x)) := by
  obtain ⟨hd, hopen, hfetch, hop, hfree, hlegal⟩ := h
  exact State.next_of_onDie hd hexec ((Mach.vecIssue_word hopen hfetch hop hfree hlegal body).trans (congrArg (Mach.vecThen d c r) hbody))

/-! ### What the instructions with codes of their own do -/

section
variable (d c : Nat) (m : Mach) (r : VecRun) (v : VInst)

theorem vecCmp_code (h : v.imm % 8 ≠ 7) : vecCmp d c m r v = m.vecResult d c v (List.zipWith (fun x y =>
    (⟨maskLane v.w (vCompare (v.imm % 8) ((vFmt v.w).unpack x) ((vFmt v.w).unpack y)),
      { FFlags.none with nv := cmpInvalid (v.imm % 8) ((vFmt v.w).unpack x) ((vFmt v.w).unpack y) }⟩ : FR))
    (r.row v.w v.va) (r.row v.w v.vb)) := if_neg h

theorem vecShift_left (h : bitsOf v.imm 6 5 = 0) :
    vecShift d c m r v = m.vecPlain d c v ((r.row false v.va).map (fun x => x * 2 ^ (v.imm % 32) % 2 ^ 32)) := by
  unfold vecShift
  rw [h]
  exact if_neg (by decide)

theorem vecShift_right (h : bitsOf v.imm 6 5 = 1) :
    vecShift d c m r v = m.vecPlain d c v ((r.row false v.va).map (fun x => x / 2 ^ (v.imm % 32))) := by
  unfold vecShift
  rw [h]
  exact if_neg (by decide)

theorem vecShift_arith (h : bitsOf v.imm 6 5 = 2) :
    vecShift d c m r v = m.vecPlain d c v ((r.row false v.va).map (fun x => wrap 32 (signed 32 x / (2 ^ (v.imm % 32) : Nat)))) := by
  unfold vecShift
  rw [h]
  exact if_neg (by decide)

/-- The comparison of integers that a code names. -/
def intHit (code : Nat) (x y : Int) : Bool :=
  match code with
  | 0 => x == y
  | 1 => x != y
  | 2 => decide (x < y)
  | 3 => decide (x ≤ y)
  | 4 => decide (y < x)
  | 5 => decide (y ≤ x)
  | _ => false

theorem vecIcmp_code (h : v.imm % 8 ≠ 7) : vecIcmp d c m r v =
    m.vecPlain d c v (List.zipWith (fun x y => maskLane false (intHit (v.imm % 8) (signed 32 x) (signed 32 y)))
      (r.row false v.va) (r.row false v.vb)) := if_neg h

theorem vecExtreme_plain (max_ : Bool) :
    vecExtreme max_ false d c m r v = m.vecReduce d c v (foldRow (vFmt v.w) max_ (r.row v.w v.va)) := by
  unfold vecExtreme
  simp only [Bool.false_eq_true, if_false, List.map_id']

end

/-- Settles O41: each instruction issues, and its body is the function of its rows. -/
theorem vectorArithmeticRows : Obligations.VectorArithmeticRows := by
  intro s d c op m' r v h m f a b e ia ib gives real bits func
  refine ⟨?_, ?_, ?_, ?_, ?_, ?_, ?_, ?_, ?_, ?_, ?_, ?_, ?_, ?_, ?_, ?_, ?_, ?_, ?_, ?_, ?_, ?_, ?_, ?_, ?_, ?_, ?_, ?_, ?_, ?_, ?_, ?_, ?_, ?_, ?_⟩ <;>
    intro hop <;> subst hop
  · exact State.next_of_vecIssue h (exec_vadd ..) rfl
  · exact State.next_of_vecIssue h (exec_vsub ..) rfl
  · exact State.next_of_vecIssue h (exec_vmul ..) rfl
  · exact State.next_of_vecIssue h (exec_vfma ..) rfl
  · exact State.next_of_vecIssue h (exec_vneg ..) rfl
  · exact State.next_of_vecIssue h (exec_vabs ..) rfl
  · exact State.next_of_vecIssue h (exec_vmin ..) rfl
  · exact State.next_of_vecIssue h (exec_vmax ..) rfl
  · exact State.next_of_vecIssue h (exec_vdiv ..) rfl
  · exact State.next_of_vecIssue h (exec_vsqrt ..) rfl
  · exact State.next_of_vecIssue h (exec_vrcp ..) rfl
  · exact State.next_of_vecIssue h (exec_vrsqrt ..) rfl
  · exact State.next_of_vecIssue h (exec_vexp2 ..) rfl
  · exact State.next_of_vecIssue h (exec_vexp ..) rfl
  · exact State.next_of_vecIssue h (exec_vlog2 ..) rfl
  · exact State.next_of_vecIssue h (exec_vlog ..) rfl
  · exact State.next_of_vecIssue h (exec_vtanh ..) rfl
  · exact State.next_of_vecIssue h (exec_vsigm ..) rfl
  · exact State.next_of_vecIssue h (exec_verf ..) rfl
  · exact fun hcode => State.next_of_vecIssue h (exec_vcmp ..) (vecCmp_code _ _ _ _ _ hcode)
  · exact State.next_of_vecIssue h (exec_vsel ..) rfl
  · exact State.next_of_vecIssue h (exec_vclass ..) rfl
  · exact State.next_of_vecIssue h (exec_viadd ..) rfl
  · exact State.next_of_vecIssue h (exec_visub ..) rfl
  · exact State.next_of_vecIssue h (exec_vand ..) rfl
  · exact State.next_of_vecIssue h (exec_vor ..) rfl
  · exact State.next_of_vecIssue h (exec_vxor ..) rfl
  · exact fun hkind => State.next_of_vecIssue h (exec_vshift ..) (vecShift_left _ _ _ _ _ hkind)
  · exact fun hkind => State.next_of_vecIssue h (exec_vshift ..) (vecShift_right _ _ _ _ _ hkind)
  · exact fun hkind => State.next_of_vecIssue h (exec_vshift ..) (vecShift_arith _ _ _ _ _ hkind)
  · exact fun hcode => State.next_of_vecIssue h (exec_vicmp ..) (vecIcmp_code _ _ _ _ _ hcode)
  · exact State.next_of_vecIssue h (exec_vrsum ..) rfl
  · exact State.next_of_vecIssue h (exec_vrmax ..) (vecExtreme_plain ..)
  · exact State.next_of_vecIssue h (exec_vrmin ..) (vecExtreme_plain ..)
  · exact State.next_of_vecIssue h (exec_vramax ..) rfl

end Sys2Proof.Machine
end

section
/-! SUPPORT and proofs. The vector engine's data instructions and the life of a vector descriptor (R144, R145, R149 to R157, R161, R203, R212). -/

namespace Sys2Proof.Machine

/-! ### Rows that are read -/

/-- The row that has been read is loaded, or its read ends the instruction. -/
def Mach.rowLoaded (d c vd : Nat) : Mach × Except VOut (List Byte) → Mach × VOut
  | (m, .ok bs) => m.vecLoadRow d c vd bs
  | (m, .error o) => (m, o)

section
variable {d c : Nat} {m : Mach} {r : VecRun} {v : VInst}

theorem vecVld_eq : vecVld d c m r v = Mach.rowLoaded d c v.vd (m.vecRead d c r.seq (vAddr r v.sa v.simm) 512) := by
  unfold vecVld
  rcases m.vecRead d c r.seq (vAddr r v.sa v.simm) 512 with ⟨n, _ | _⟩ <;> rfl

/-- The machine once the errors that a read of the operand cache meets have been put there. -/
def Mach.ocMet (m : Mach) (d c : Nat) (off : Int) : Option (Bool × Nat) → Mach
  | some (double, k) => if ocOk off 512 64 then m.ocEcc d c (off.toNat / 32 + k % 16) double else m
  | none => m

theorem vecVold_eq (ecc : Option (Bool × Nat)) : vecVold ecc d c m r v = Mach.rowLoaded d c v.vd
    ((m.ocMet d c ((r.sreg v.sa : Int) + v.imm) ecc).vecOcRead d c ((r.sreg v.sa : Int) + v.imm) 512 64) := by
  -- the offset is set aside first: the kernel must not compute with it
  have h : @vecVold = @vecVold := rfl
  conv at h => rhs; delta vecVold
  rw [h]
  beta_reduce
  generalize (r.sreg v.sa : Int) + v.imm = off
  extract_lets off' n
  have hn : n = m.ocMet d c off' ecc := by rcases ecc with _ | ⟨double, k⟩ <;> rfl
  rw [hn]
  change _ = Mach.rowLoaded d c v.vd ((m.ocMet d c off' ecc).vecOcRead d c off' 512 64)
  generalize (m.ocMet d c off' ecc).vecOcRead d c off' 512 64 = x
  rcases x with ⟨n, _ | _⟩ <;> rfl

/-! ### The operand cache -/

theorem vecVost_fits (h : ocOk ((r.sreg v.sa : Int) + v.imm) 512 64 = true) : vecVost d c m r v =
    (m.modVec d c (fun x => x.ocWrite ((r.sreg v.sa : Int) + v.imm).toNat ((rowBytes (r.lanes v.va)).map (fun b => (b, false)))), .next) := by
  unfold vecVost
  dsimp only
  rw [h, Bool.not_true, if_neg Bool.false_ne_true]

theorem vecVost_outside (h : ocOk ((r.sreg v.sa : Int) + v.imm) 512 64 = false) : vecVost d c m r v = (m, .fail stOcRange) := by
  unfold vecVost
  dsimp only
  rw [h, Bool.not_false, if_pos rfl]

end

/-! ### A vector descriptor -/

/-- The program of a descriptor begins with the arguments that have been read, or ends because they cannot be. -/
def Mach.vecArgsRead (d c : Nat) (x : Desc) : Mach × EngRes → Mach
  | (m, .ok bs) =>
    if anyPoison bs then (m.vecBegin d c x []).vecFinish d c stPoisoned
    else m.vecBegin d c x (wordsOf (plain bs) (wbits x.words 1 47 44))
  | (m, .fault) => (m.vecBegin d c x []).vecFinish d c stMemAccess
  | (m, .poisonedTable) => (m.vecBegin d c x []).vecFinish d c stPoisoned
  | (m, _) => m

section
variable {m : Mach} {d c : Nat}

section
variable (hopen : m.fenced d c = false) {x : Desc} (hnext : m.oldest d c 1 = some x)
include hopen hnext

theorem Mach.readEntry_vector_bad (hwait : x.waiting = false) (hrel : x.released = false) (f : Mach → Mach) :
    m.readEntry d c 1 none true f =
      ((m.toCp d 0x34 false false [(4, 7), (8, coreNum d c), (48, 0)]).complete d c 1 x stPoisoned none 0 0).cnt .vecCnt d 0 (c := c) := by
  unfold Mach.readEntry
  refine (if_pos rfl).trans ?_
  rw [hnext]
  exact if_neg (by simp [hwait, hrel, hopen])

theorem Mach.vectorStart_refused (hwait : x.waiting = false) (hrel : x.released = false) {bit : Nat} (hbad : firstBad (vectorChecks x.words) = some bit) :
    m.vectorStart d c = (m.completeBad d c 1 x bit).cnt .vecCnt d 0 (c := c) := by
  have hcheck : (if (x.waiting || x.released) = true then none else firstBad (vectorChecks x.words)) = some bit := by simp [hwait, hrel, hbad]
  unfold Mach.vectorStart
  refine (if_neg (by simp [hopen])).trans ?_
  rw [hnext]
  dsimp only
  rw [hcheck]

section
variable (hgo : x.waiting = true ∨ x.released = true ∨ firstBad (vectorChecks x.words) = none) {m' : Mach} (hdone : m.waitDone d c 1 x = (m', true))
include hgo hdone

/-- A descriptor whose wait is over starts where no program runs, with the arguments that it reads. -/
theorem Mach.vectorStart_released : m.vectorStart d c =
    if (m'.vec d c).run.isSome then m'
    else if wbits x.words 1 47 44 = 0 then m'.vecBegin d c x []
    else Mach.vecArgsRead d c x (m'.engRead (vecEng d c x.seq) (wbits x.words 3 63 16) (8 * wbits x.words 1 47 44)) := by
  have hcheck : (if (x.waiting || x.released) = true then none else firstBad (vectorChecks x.words)) = none := by
    rcases hgo with h | h | h
    · simp [h]
    · simp [h]
    · simp [h]
  unfold Mach.vectorStart
  refine (if_neg (by simp [hopen])).trans ?_
  rw [hnext]
  dsimp only
  rw [hcheck]
  dsimp only
  rw [hdone]
  dsimp only
  rcases m'.engRead (vecEng d c x.seq) (wbits x.words 3 63 16) (8 * wbits x.words 1 47 44) with ⟨n, _ | _ | _ | _⟩ <;> rfl

theorem Mach.vectorStart_busy (hrun : (m'.vec d c).run.isSome = true) : m.vectorStart d c = m' :=
  (Mach.vectorStart_released hopen hnext hgo hdone).trans (if_pos hrun)

section
variable (hfree : (m'.vec d c).run = none)
include hfree

theorem Mach.vectorStart_plain (hno : wbits x.words 1 47 44 = 0) : m.vectorStart d c = m'.vecBegin d c x [] :=
  (Mach.vectorStart_released hopen hnext hgo hdone).trans ((if_neg (by simp [hfree])).trans (if_pos hno))

theorem Mach.vectorStart_args (hargs : wbits x.words 1 47 44 ≠ 0) {m2 : Mach} {bs : List (Byte × Bool)}
    (hread : m'.engRead (vecEng d c x.seq) (wbits x.words 3 63 16) (8 * wbits x.words 1 47 44) = (m2, .ok bs)) (hgood : anyPoison bs = false) :
    m.vectorStart d c = m2.vecBegin d c x (wordsOf (plain bs) (wbits x.words 1 47 44)) := by
  refine (Mach.vectorStart_released hopen hnext hgo hdone).trans ((if_neg (by simp [hfree])).trans ((if_neg hargs).trans ?_))
  rw [hread]
  exact if_neg (by simp [hgood])

end
end
end

section
variable {r : VecRun} (hrun : (m.vec d c).run = some r)
include hrun

section
variable (hover : vLen r.words ≤ r.idx)
include hover

theorem Mach.vectorComplete_held (hheld : m.engOutstanding d c 1 r.seq = true) : m.vectorComplete d c = m := by
  unfold Mach.vectorComplete
  rw [hrun]
  exact (if_pos hover).trans (if_pos hheld)

theorem Mach.vectorComplete_over (hfree : m.engOutstanding d c 1 r.seq = false) :
    m.vectorComplete d c = m.vecFinish d c (if (m.die d).engineBad.contains (c, 1, r.seq) then stMemAccess else stOk) := by
  unfold Mach.vectorComplete
  rw [hrun]
  exact (if_pos hover).trans (if_neg (by simp [hfree]))

end

theorem Mach.vectorComplete_undefined (hgoes : r.idx < vLen r.words) {m' : Mach} {r' : VecRun} {v : VInst}
    (hfetch : m.vecFetch d c = (m', .word r' v)) (hop : vopDefined v.op = false) :
    m.vectorComplete d c = (m'.vecNoted d c v.op).vecFinish d c stIllegal := by
  unfold Mach.vectorComplete
  rw [hrun]
  refine (if_neg (Nat.not_le.2 hgoes)).trans ?_
  rw [hfetch]
  exact if_neg (by simp [hop])

end
end

/-- Settles O42: each instruction issues and its body is the function of its operands; a descriptor's rows go down the branch that their
conditions name. -/
theorem vectorDataRows : Obligations.VectorDataRows := by
  refine ⟨?_, ?_, ?_⟩
  · intro s d c op m' r v h m gives bits loads n rot p
    have hloads (x : Mach × Except VOut (List Byte)) : loads x = gives (Mach.rowLoaded d c v.vd x) := by
      rcases x with ⟨n, _ | _⟩ <;> rfl
    have hvold (ecc : Option (Bool × Nat)) (hecc : op = 0x3D) : exec (.vold d c ecc) s = gives (Mach.rowLoaded d c v.vd
        ((m.ocMet d c ((r.sreg v.sa : Int) + v.imm) ecc).vecOcRead d c ((r.sreg v.sa : Int) + v.imm) 512 64)) := by
      subst hecc
      have hsreg : p.sreg v.sa = r.sreg v.sa := rfl
      have hbody := vecVold_eq (d := d) (c := c) (m := m) (r := p) (v := v) ecc
      rw [hsreg] at hbody
      exact State.next_of_vecIssue h (exec_vold d c ecc s) hbody
    refine ⟨?_, ?_, ?_, ?_, ?_, ?_, ?_, ?_, ?_, ?_, ?_, ?_, ?_, ?_, ?_, ?_, ?_, ?_, ?_, ?_, ?_, ?_, ?_, ?_, ?_⟩ <;> intro hop <;> subst hop
    · exact State.next_of_vecIssue h (exec_vperm ..) rfl
    · exact State.next_of_vecIssue h (exec_vilv ..) rfl
    · exact State.next_of_vecIssue h (exec_vdilv ..) rfl
    · exact State.next_of_vecIssue h (exec_vrot ..) rfl
    · exact State.next_of_vecIssue h (exec_vcvt ..) rfl
    · exact State.next_of_vecIssue h (exec_vcvts ..) rfl
    · exact State.next_of_vecIssue h (exec_vsplit ..) rfl
    · exact State.next_of_vecIssue h (exec_vunpk ..) rfl
    · exact (State.next_of_vecIssue h (exec_vld ..) vecVld_eq).trans (hloads _).symm
    · exact State.next_of_vecIssue h (exec_vst ..) rfl
    · exact State.next_of_vecIssue h (exec_vlds ..) rfl
    · exact State.next_of_vecIssue h (exec_vsts ..) rfl
    · exact State.next_of_vecIssue h (exec_vsta ..) rfl
    · rw [hloads]
      exact hvold none rfl
    · intro dbl k
      rw [hloads]
      exact hvold (some (dbl, k)) rfl
    · exact fun hfits => State.next_of_vecIssue h (exec_vost ..) (vecVost_fits hfits)
    · exact fun hout => State.next_of_vecIssue h (exec_vost ..) (vecVost_outside hout)
    · exact fun bad => State.next_of_vecIssue h (exec_vacc d ⟨c, bad⟩ s) rfl
    · exact State.next_of_vecIssue h (exec_zmapclr ..) rfl
    · exact State.next_of_vecIssue h (exec_zmapwr ..) rfl
    · exact State.next_of_vecIssue h (exec_sli ..) rfl
    · exact State.next_of_vecIssue h (exec_sadd ..) rfl
    · exact State.next_of_vecIssue h (exec_smul ..) rfl
    · exact State.next_of_vecIssue h (exec_sloop ..) rfl
    · exact State.next_of_vecIssue h (exec_sjmp ..) rfl
  · intro s d c x hd hopen hnext
    refine ⟨fun bit hwait hrel hbad => State.next_of_onDie hd (exec_vectorDescriptorStart ..)
        (Mach.vectorStart_refused hopen hnext hwait hrel hbad),
      fun hwait hrel => State.next_of_onDie hd (exec_vectorDescriptorStart ..) (Mach.readEntry_vector_bad hopen hnext hwait hrel _),
      fun m' hgo hdone => ⟨fun hrun => State.next_of_onDie hd (exec_vectorDescriptorStart ..)
        (Mach.vectorStart_busy hopen hnext hgo hdone hrun), fun hfree => ⟨fun hno => ?_, fun m2 bs hargs hread hgood => ?_⟩⟩⟩
    · exact State.next_of_onDie hd (exec_vectorDescriptorStart ..) (Mach.vectorStart_plain hopen hnext hgo hdone hfree hno)
    · exact State.next_of_onDie hd (exec_vectorDescriptorStart ..) (Mach.vectorStart_args hopen hnext hgo hdone hfree hargs hread hgood)
  · intro s d c r hd hrun held
    exact ⟨fun hover hfree => State.next_of_onDie hd (exec_vectorDescriptorComplete ..) (Mach.vectorComplete_over hrun hover hfree),
      fun hover hheld => State.next_of_onDie hd (exec_vectorDescriptorComplete ..) (Mach.vectorComplete_held hrun hover hheld),
      fun m' r' v hgoes hfetch hop => State.next_of_onDie hd (exec_vectorDescriptorComplete ..)
        (Mach.vectorComplete_undefined hrun hgoes hfetch hop)⟩

end Sys2Proof.Machine
end

section
/-! SUPPORT and proofs. The movers: how a descriptor starts, goes on with its lines and completes (R203, R212, R213, R218 to R221). -/

namespace Sys2Proof.Machine

/-- Every mover instruction reads its descriptor's entry and moves for its own code. -/
theorem exec_of_mover {op : Nat} {f : Fin 8 → Fin 32 → Met Nat → Instr}
    (hmem : (op, f) ∈ [(0, Instr.moverCopy), (1, Instr.moverLoadOperandCache), (2, Instr.moverStoreOperandCache), (3, Instr.moverFillAStager),
      (4, Instr.moverFillBStager), (5, Instr.moverPrefetch), (6, Instr.moverFillPattern), (7, Instr.moverAccumulateCopy)])
    (d : Fin 8) (c : Fin 32) (seq : Met Nat) (s : State) :
    exec (f d c seq) s = s.onDie d (fun m => m.readEntry d c 2 (some seq.val) seq.bad (fun m => m.mover d c seq.val op)) := by
  simp only [List.mem_cons, List.not_mem_nil, or_false, Prod.mk.injEq] at hmem
  rcases hmem with ⟨rfl, rfl⟩ | ⟨rfl, rfl⟩ | ⟨rfl, rfl⟩ | ⟨rfl, rfl⟩ | ⟨rfl, rfl⟩ | ⟨rfl, rfl⟩ | ⟨rfl, rfl⟩ | ⟨rfl, rfl⟩
  · exact exec_moverCopy d c seq s
  · exact exec_moverLoadOperandCache d c seq s
  · exact exec_moverStoreOperandCache d c seq s
  · exact exec_moverFillAStager d c seq s
  · exact exec_moverFillBStager d c seq s
  · exact exec_moverPrefetch d c seq s
  · exact exec_moverFillPattern d c seq s
  · exact exec_moverAccumulateCopy d c seq s

theorem Mach.readEntry_good (m : Mach) (d c q : Nat) (seq : Option Nat) (f : Mach → Mach) : m.readEntry d c q seq false f = f m := rfl

section
variable {m : Mach} {d c seq : Nat}

/-! ### The descriptor that a mover instruction names -/

section
variable (hopen : m.fenced d c = false) {op : Nat}
include hopen

theorem Mach.mover_running {r : MovRun} (hrun : m.movRun d c seq = some r) (hop : mvOp r.words = op) :
    m.mover d c seq op = m.moverGo d c seq (mvLines r.words + 2) := by
  unfold Mach.mover
  rw [if_neg (by simp [hopen]), hrun]
  dsimp only
  rw [if_neg (show ¬ (some r).isNone = true by simp), hrun]
  exact if_pos hop

section
variable (hrun : m.movRun d c seq = none)
include hrun

theorem Mach.mover_started {m' : Mach} (hstart : m.moverStart d c seq op = m') {r : MovRun} (hnew : m'.movRun d c seq = some r)
    (hop : mvOp r.words = op) : m.mover d c seq op = m'.moverGo d c seq (mvLines r.words + 2) := by
  unfold Mach.mover
  rw [if_neg (by simp [hopen]), hrun]
  dsimp only
  rw [if_pos (show (none : Option MovRun).isNone = true from rfl), hstart, hnew]
  exact if_pos hop

theorem Mach.mover_refused {m' : Mach} (hstart : m.moverStart d c seq op = m') (hnew : m'.movRun d c seq = none) : m.mover d c seq op = m' := by
  unfold Mach.mover
  rw [if_neg (by simp [hopen]), hrun]
  dsimp only
  rw [if_pos (show (none : Option MovRun).isNone = true from rfl), hstart, hnew]

end
end

section
variable {x : Desc} (hnext : m.oldest d c 2 = some x) (hseq : x.seq = seq)
include hnext hseq

theorem Mach.moverStart_bad (op : Nat) (hwait : x.waiting = false) (hrel : x.released = false) {bit : Nat}
    (hbad : firstBad (m.moverChecks d c x.words) = some bit) : m.moverStart d c seq op = m.completeBad d c 2 x bit := by
  have hcheck : (if (x.waiting || x.released) = true then none else firstBad (m.moverChecks d c x.words)) = some bit := by simp [hwait, hrel, hbad]
  unfold Mach.moverStart
  rw [hnext]
  refine (if_neg (by simp [hseq])).trans ?_
  rw [hcheck]

theorem Mach.moverStart_room {op : Nat} (hop : mvOp x.words = op)
    (hgo : x.waiting = true ∨ x.released = true ∨ firstBad (m.moverChecks d c x.words) = none) {m' : Mach} (hdone : m.waitDone d c 2 x = (m', true))
    (hroom : m'.moverRoom d c x.words = true) : m.moverStart d c seq op = (m'.startDesc d c 2 seq).modCore d c (fun k => { k with
      movs := k.movs ++ [{ seq, words := x.words, line := 0, finished := false, status := stOk, poisoned := 0, bytes := 0 }] }) := by
  have hcheck : (if (x.waiting || x.released) = true then none else firstBad (m.moverChecks d c x.words)) = none := by
    rcases hgo with h | h | h
    · simp [h]
    · simp [h]
    · simp [h]
  unfold Mach.moverStart
  rw [hnext]
  refine (if_neg (by simp [hseq])).trans ?_
  rw [hcheck]
  refine (if_neg (by simp [hop])).trans ?_
  rw [hdone]
  exact if_pos hroom

theorem Mach.readEntry_mover_bad (hopen : m.fenced d c = false) (hwait : x.waiting = false) (hrel : x.released = false) (f : Mach → Mach) :
    m.readEntry d c 2 (some seq) true f =
      (m.toCp d 0x34 false false [(4, 7), (8, coreNum d c), (48, 0)]).complete d c 2 x stPoisoned none 0 0 := by
  unfold Mach.readEntry
  refine (if_pos rfl).trans ?_
  rw [hnext]
  exact if_neg (by simp [hwait, hrel, hopen, hseq])

end

/-- A run that is over, with nothing of it outstanding and nothing lost or refused, ends its descriptor with the run's own status. -/
theorem Mach.moverComplete_over {r : MovRun} (hrun : m.movRun d c seq = some r) (hover : r.finished = true) (hfree : m.engOutstanding d c 2 seq = false)
    {x : Desc} (hx : (m.queue d c 2).find? (fun x => x.seq == seq) = some x) (hlost : (m.die d).engineLost.any (fun x => x == (c, 2, seq)) = false)
    (hbad : (m.die d).engineBad.any (fun x => x == (c, 2, seq)) = false) : m.moverComplete d c seq =
      ((m.modCore d c (fun k => { k with movs := k.movs.filter (fun y => y.seq != seq),
                                         engBuf := k.engBuf.filter (fun b => !(b.queue == 2 && b.seq == seq)) })).modDie d
        (fun k => { k with engineLost := k.engineLost.filter (fun y => y != (c, 2, seq)),
                           engineBad := k.engineBad.filter (fun y => y != (c, 2, seq)) })).complete
        d c 2 x r.status none (satN 32 r.poisoned) r.bytes := by
  unfold Mach.moverComplete
  rw [hrun]
  refine (if_neg (by simp [hover, hfree])).trans ?_
  rw [hx, hlost, hbad]
  rfl

end

/-! ### One line -/

section
variable {m : Mach} {d c : Nat} {r : MovRun} (hop : mvOp r.words ≠ 5)
include hop

theorem Mach.moverLine_moves {m1 m2 : Mach} {bs : List (Byte × Bool)} {u : List (Byte × Bool)} (hread : m.moverRead d c r = (m1, .ok bs))
    (hwrite : m1.moverWrite d c r bs = (m2, .ok u)) : m.moverLine d c r = (m2.modMov d c r.seq (fun x =>
      { x with line := x.line + 1, poisoned := x.poisoned + poisonedSectors bs, bytes := x.bytes + bs.length }), true) := by
  unfold Mach.moverLine
  refine (if_neg hop).trans ?_
  rw [hread]
  dsimp only
  rw [hwrite]

theorem Mach.moverLine_faults {m1 : Mach} (hread : m.moverRead d c r = (m1, .fault)) :
    m.moverLine d c r = (m1.modMov d c r.seq (fun x => { x with finished := true, status := stMemAccess }), false) := by
  unfold Mach.moverLine
  refine (if_neg hop).trans ?_
  rw [hread]

theorem Mach.moverLine_poisoned {m1 : Mach} (hread : m.moverRead d c r = (m1, .poisonedTable)) :
    m.moverLine d c r = (m1.modMov d c r.seq (fun x => { x with finished := true, status := stPoisoned }), false) := by
  unfold Mach.moverLine
  refine (if_neg hop).trans ?_
  rw [hread]

end

/-- Settles O43: every mover instruction goes through the one function of the movers, whose branches are named above. -/
theorem moverRows : Obligations.MoverRows := by
  refine ⟨⟨fun s d c seq op f hmem hd hopen => ⟨?_, ?_, ?_, ?_⟩, ?_⟩, ?_⟩
  · intro r hrun hop
    exact State.next_of_onDie hd (exec_of_mover hmem d c ⟨seq, false⟩ s) (Mach.mover_running hopen hrun hop)
  · intro x m' hrun hnext hseq hop hgo hdone hroom r m hnew
    have hstart : s.m.moverStart d c seq op = m := Mach.moverStart_room hnext hseq hop hgo hdone hroom
    clear_value m
    have hgoes := Mach.mover_started hopen hrun hstart hnew hop
    exact State.next_of_onDie hd (exec_of_mover hmem d c ⟨seq, false⟩ s) hgoes
  · intro x bit hrun hnext hseq hwait hrel hbad hnone
    exact State.next_of_onDie hd (exec_of_mover hmem d c ⟨seq, false⟩ s)
      (Mach.mover_refused hopen hrun (Mach.moverStart_bad hnext hseq op hwait hrel hbad) hnone)
  · intro x hnext hseq hwait hrel
    exact State.next_of_onDie hd (exec_of_mover hmem d c ⟨seq, true⟩ s) (Mach.readEntry_mover_bad hnext hseq hopen hwait hrel _)
  · intro s d c seq r x hd hrun hover hfree hx hlost hbad
    exact State.next_of_onDie hd (exec_moverDescriptorComplete d c seq s) (Mach.moverComplete_over hrun hover hfree hx hlost hbad)
  · intro m d c r hop
    exact ⟨fun _ _ _ _ => Mach.moverLine_moves hop, fun _ => Mach.moverLine_faults hop, fun _ => Mach.moverLine_poisoned hop⟩

end Sys2Proof.Machine
end

section
/-! SUPPORT and proofs. Collectives: how a descriptor starts, what a message, a notice and a deadline do, and how an operation completes
(spec/13). -/

namespace Sys2Proof.Machine

/-- Every collective instruction reads its descriptor's entry and starts for its own code. -/
theorem exec_of_collective {op : Nat} {f : Met (Fin 8) → Instr}
    (hmem : (op, f) ∈ [(0, Instr.allReduce), (1, Instr.reduceScatter), (2, Instr.allGather), (3, Instr.allToAllV), (4, Instr.expertCombine)])
    (d : Met (Fin 8)) (s : State) :
    exec (f d) s = s.onWaits d.val (fun m => m.readEntry d.val 0 3 none d.bad (fun m => m.collective d.val op)) := by
  simp only [List.mem_cons, List.not_mem_nil, or_false, Prod.mk.injEq] at hmem
  rcases hmem with ⟨rfl, rfl⟩ | ⟨rfl, rfl⟩ | ⟨rfl, rfl⟩ | ⟨rfl, rfl⟩ | ⟨rfl, rfl⟩
  · exact exec_allReduce d s
  · exact exec_reduceScatter d s
  · exact exec_allGather d s
  · exact exec_allToAllV d s
  · exact exec_expertCombine d s

section
variable {m : Mach} {d : Nat}

/-! ### The descriptor that is next -/

section
variable {x : Desc} (hnext : m.oldest d 0 3 = some x)
include hnext

theorem Mach.readEntry_collective_bad (hwait : x.waiting = false) (hrel : x.released = false) (f : Mach → Mach) :
    m.readEntry d 0 3 none true f =
      (m.toCp d 0x34 false false [(4, 7), (8, coreNum d 0), (48, 0)]).complete d 0 3 x stPoisoned none 0 0 := by
  unfold Mach.readEntry
  refine (if_pos rfl).trans ?_
  rw [hnext]
  exact if_neg (by simp [hwait, hrel])

theorem Mach.collective_bad (op : Nat) (hwait : x.waiting = false) (hrel : x.released = false) {bit : Nat}
    (hbad : firstBad (colChecks x.words) = some bit) : m.collective d op = m.completeBad d 0 3 x bit := by
  have hcheck : (if (x.waiting || x.released) = true then none else firstBad (colChecks x.words)) = some bit := by simp [hwait, hrel, hbad]
  unfold Mach.collective
  rw [hnext]
  dsimp only
  rw [hcheck]

theorem Mach.collective_opens {op : Nat} (hop : cOp x.words = op)
    (hgo : x.waiting = true ∨ x.released = true ∨ firstBad (colChecks x.words) = none) {m' m2 m3 : Mach} {e : List Nat}
    (hdone : m.waitDone d 0 3 x = (m', true)) (hfree : m'.colOp d (cGroup x.words) = none) (hroom : (m'.col d).ops.length < 8)
    (hfetch : m'.groupFetch d (cGroup x.words) = (m2, .ok e)) (hstart : m2.colStartStatus d x.words e = (m3, .ok ())) :
    m.collective d op = m3.colOpen d x e := by
  have hcheck : (if (x.waiting || x.released) = true then none else firstBad (colChecks x.words)) = none := by
    rcases hgo with h | h | h
    · simp [h]
    · simp [h]
    · simp [h]
  unfold Mach.collective
  rw [hnext]
  dsimp only
  rw [hcheck]
  refine (if_neg (by simp [hop])).trans ?_
  rw [hdone]
  dsimp only
  rw [hfree]
  refine (if_neg (Nat.not_le.2 hroom)).trans ?_
  rw [hfetch]
  dsimp only
  rw [hstart]

end

/-- An operation that no notice has ended begins, takes its held messages and goes on. -/
theorem Mach.colOpen_unnoticed {x : Desc} {e : List Nat} (hnone : m.noticed d (cGroup x.words) (gSeq e) = none) : m.colOpen d x e = (
    let g := cGroup x.words
    let r := (rankOfNode e (m.node d)).getD 0
    let o := ColOp.fresh (some x.seq) x.words e g (gSeq e) r false (m.get Fld.syncCtr_value d (gVout e))
    let n := ((m.takeSeq d g (gSeq e)).startDesc d 0 3 x.seq).modCol d (fun c => { c with ops := c.ops ++ [o], late := c.late.filter (· != g) })
    let n :=
      if !((m.col d).late.contains g || m.colOverdue d x.words) then n.colBegin d g
      else if stageShort x.words e then (n.ev Fld.colEvents_stage_short d).colBegin d g
      else (n.lateBegin d g).lateStart d g
    (n.takeHeld d g (gSeq e)).colGo d g) := by
  unfold Mach.colOpen
  dsimp only
  rw [hnone]

/-! ### Messages -/

section
variable {x : ColMsg}

theorem Mach.colMessage_otherJob (h : m.flag Fld.fabJob_valid d = false ∨ x.job ≠ m.get Fld.fabJob_job d) : m.colMessage d x = m := by
  unfold Mach.colMessage
  exact if_pos (h.imp_left (by simp +contextual))

variable (hvalid : m.flag Fld.fabJob_valid d = true) (hjob : x.job = m.get Fld.fabJob_job d) {o : ColOp} (hrun : m.colOp d x.group = some o)
include hvalid hjob hrun

/-- A message of the job meets the operation of its group. -/
theorem Mach.colMessage_running : m.colMessage d x =
    if x.seq < o.gseq ∨ (o.gseq = x.seq ∧ o.status.isSome) then m
    else if o.gseq < x.seq ∨ o.held ∨ (o.desc.isNone ∧ 3 ≤ cOp o.words) then m.colHold d o.entry x
    else (m.colTake d x).colGo d x.group := by
  unfold Mach.colMessage
  refine (if_neg (by simp [hvalid, hjob])).trans ?_
  rw [hrun]

theorem Mach.colMessage_older (h : x.seq < o.gseq) : m.colMessage d x = m :=
  (Mach.colMessage_running hvalid hjob hrun).trans (if_pos (.inl h))

theorem Mach.colMessage_newer (h : o.gseq < x.seq) : m.colMessage d x = m.colHold d o.entry x :=
  (Mach.colMessage_running hvalid hjob hrun).trans ((if_neg (by omega)).trans (if_pos (.inl h)))

section
variable (hseq : o.gseq = x.seq) (hstatus : o.status = none)
include hseq hstatus

theorem Mach.colMessage_taken (hheld : o.held = false) (hstarted : o.desc.isSome = true ∨ cOp o.words < 3) :
    m.colMessage d x = (m.colTake d x).colGo d x.group := by
  have hnot : ¬ (o.gseq < x.seq ∨ o.held ∨ (o.desc.isNone ∧ 3 ≤ cOp o.words)) := by
    rw [hheld, hseq]
    rcases hstarted with h | h
    · simp [Option.isSome_iff_ne_none.1 h]
    · simp [Nat.not_le.2 h]
  exact (Mach.colMessage_running hvalid hjob hrun).trans ((if_neg (by simp [hseq, hstatus])).trans (if_neg hnot))

omit hvalid hjob hseq in
theorem Mach.colTake_same (hsame : m.colMismatch d o x = none) : m.colTake d x = m.colApply d x := by
  unfold Mach.colTake
  rw [hrun]
  refine (if_neg (by simp [hstatus])).trans ?_
  rw [hsame]

omit hvalid hjob hseq in
theorem Mach.colTake_differs {st : Nat} (hdiff : m.colMismatch d o x = some st) : m.colTake d x = m.colEnd d o st true := by
  unfold Mach.colTake
  rw [hrun]
  refine (if_neg (by simp [hstatus])).trans ?_
  rw [hdiff]

end
end

theorem Mach.colHold_noStage {e : List Nat} (h : gStageLen e = 0) (x : ColMsg) :
    m.colHold d e x = m.modCol d (fun c => { c with turned := c.turned ++ [(x.node, x.group, x.seq)] }) := by
  unfold Mach.colHold
  exact if_neg (fun hroom => hroom.2 h)

/-! ### Notices and deadlines -/

section
variable {g : Nat}

theorem Mach.colNotice_running {o : ColOp} (hrun : m.colOp d g = some o) (status : Nat) :
    m.colNotice d g o.gseq status = (m.colEnd d o status false).colShow d := by
  unfold Mach.colNotice
  rw [hrun, Option.filter_some_pos (p := fun y : ColOp => y.gseq == o.gseq) (beq_self_eq_true _)]

theorem Mach.colNotice_kept {seq : Nat} (hfree : m.colOp d g = none) {m' : Mach} {e : List Nat} (hentry : m.groupEntry d g = (m', e))
    (hvalid : gValid e = true) (hseq : gSeq e ≤ seq) (hnone : m'.noticed d g seq = none) (status : Nat) :
    m.colNotice d g seq status = m'.modCol d (fun c => { c with notices := c.notices ++ [(g, seq, status)] }) := by
  unfold Mach.colNotice
  rw [hfree, Option.filter_none]
  dsimp only
  rw [hentry]
  exact if_pos ⟨hvalid, hseq, hnone⟩

variable {ws : List Nat} (hws : m.unstartedWords d g = some ws)
include hws

theorem Mach.colDeadline_passed (hlock : m.moduleUnlocked = false) (ht16 : m.flag Fld.colCfg_t16_compat d = false) (hfree : m.colOp d g = none)
    (hen : cDeadlineEn ws = true) (hpast : cDeadline ws ≤ m.ft d) : m.colDeadline d g = m.makeLate d g ws := by
  unfold Mach.colDeadline
  rw [hws]
  exact (if_pos (by simp [Mach.colOverdue, hlock, ht16, hen, hpast])).trans ((Mach.lateNow_free hfree).trans (by rw [hws]))

theorem Mach.colDeadline_ahead (hahead : m.ft d < cDeadline ws) : m.colDeadline d g = m := by
  unfold Mach.colDeadline
  rw [hws]
  exact if_neg (by simp [Mach.colOverdue, hahead])

end

/-! ### Completion -/

theorem Mach.colOp_group {g : Nat} {o : ColOp} (h : m.colOp d g = some o) : o.group = g :=
  eq_of_beq (List.find?_some (p := fun o : ColOp => o.group == g) h)

theorem Mach.blurDst_apart {o : ColOp} (h : o.overlaps = false) : m.blurDst d o = (m, .ok ()) := by
  unfold Mach.blurDst
  exact if_pos (by simp [h])

theorem Mach.colComplete_done {g : Nat} {o : ColOp} (hrun : (m.colGo d g).colOp d g = some o) {seq : Nat} (hdesc : o.desc = some seq)
    (hover : o.status.isSome = true ∨
      ((m.colGo d g).colDone d o = true ∧ (m.colGo d g).engOutstanding d 0 3 o.id = false ∧ o.held = false))
    {x : Desc} (hx : ((m.colGo d g).die d).colQ.find? (fun x => x.seq == seq) = some x) (hapart : o.overlaps = false) :
    m.colComplete d g = (m.colGo d g).colFinish d o x := by
  have hends : ¬ (o.status.isNone && (!(m.colGo d g).colDone d o || (m.colGo d g).engOutstanding d 0 3 o.id || o.held)) = true := by
    rcases hover with h | ⟨hdone, hout, hheld⟩
    · simp [Option.isSome_iff_ne_none.1 h]
    · simp [hdone, hout, hheld]
  unfold Mach.colComplete
  dsimp only
  rw [hrun]
  dsimp only
  rw [hdesc]
  refine (if_neg hends).trans ?_
  rw [hx]
  dsimp only
  rw [Mach.blurDst_apart hapart]
  dsimp only
  rw [hrun, Option.getD_some]

end

/-- Settles O44: a start, a message, a notice, a deadline and a completion each go down the branch that their conditions name. -/
theorem collectiveRows : Obligations.CollectiveRows := by
  refine ⟨?_, ?_, ?_, ?_, ?_, ?_, ?_, ?_, ?_, ?_⟩
  · intro s d op f x m' m2 m3 e hmem hd hnext hgo hop hdone g hfree hroom hfetch hstart hnone
    exact State.next_of_onWaits hd (exec_of_collective hmem ⟨d, false⟩ s)
      ((Mach.collective_opens hnext hop hgo hdone hfree hroom hfetch hstart).trans (Mach.colOpen_unnoticed hnone))
  · intro s d op f x bit hmem hd hnext hwait hrel hbad
    exact State.next_of_onWaits hd (exec_of_collective hmem ⟨d, false⟩ s) (Mach.collective_bad hnext op hwait hrel hbad)
  · intro s d op f x hmem hd hnext hwait hrel
    exact State.next_of_onWaits hd (exec_of_collective hmem ⟨d, true⟩ s) (Mach.readEntry_collective_bad hnext hwait hrel _)
  · intro s d x o hd hvalid hjob hrun
    have hmsg {m : Mach} (h : s.m.colMessage d x = m) : exec (.collectiveMessageReceive d x) s = .next (s.setM m.nutmegAll) :=
      State.next_of_onWaits hd (exec_collectiveMessageReceive d x s) h
    have hnewer (h : o.gseq < x.seq) := Mach.colMessage_newer hvalid hjob hrun h
    refine ⟨fun hseq hstatus hheld hsame hgo => ?_, fun st hseq hstatus hheld hdiff hgo => ?_, fun h => ?_, fun h => hmsg (hnewer h),
      fun h hstage => hmsg ((hnewer h).trans (Mach.colHold_noStage hstage x))⟩
    · exact hmsg ((Mach.colMessage_taken hvalid hjob hrun hseq hstatus hheld hgo).trans
        (congrArg (Mach.colGo · d x.group) (Mach.colTake_same hrun hstatus hsame)))
    · exact hmsg ((Mach.colMessage_taken hvalid hjob hrun hseq hstatus hheld hgo).trans
        (congrArg (Mach.colGo · d x.group) (Mach.colTake_differs hrun hstatus hdiff)))
    · exact hmsg (Mach.colMessage_older hvalid hjob hrun h)
  · intro s d x hd hother
    exact State.next_of_onWaits hd (exec_collectiveMessageReceive d x s) (Mach.colMessage_otherJob hother)
  · rintro s d g _ status o hd hrun rfl
    exact State.next_of_onWaits hd (exec_collectiveEndNotice d g o.gseq status s) (Mach.colNotice_running hrun status)
  · intro s d g seq status m' e hd hfree hentry hvalid hseq hnone
    exact State.next_of_onWaits hd (exec_collectiveEndNotice d g seq status s) (Mach.colNotice_kept hfree hentry hvalid hseq hnone status)
  · intro s d g ws hd hlock ht16 hfree hws hen hpast
    exact State.next_of_onWaits hd (exec_collectiveDeadline d g s) (Mach.colDeadline_passed hws hlock ht16 hfree hen hpast)
  · intro s d g ws hd hws hahead
    exact State.next_of_onWaits hd (exec_collectiveDeadline d g s) (Mach.colDeadline_ahead hws hahead)
  · intro s d g seq o x hd n hrun hdesc hover hx hapart
    have hgroup := Mach.colOp_group hrun
    subst hgroup
    exact State.next_of_onWaits hd (exec_collectiveComplete d o.group s) (Mach.colComplete_done hrun hdesc hover hx hapart)

end Sys2Proof.Machine
end

section
/-! SUPPORT and proofs. Registers whose write acts: a counterexample about COL_RESUME (R407). -/

namespace Sys2Proof.Tests

open Sys2Proof.Machine

/-- Die 0 of an epoch-compatible module, whose group 0 is broken and no longer valid. -/
def brokenGroup : Mach :=
  ((run.put Fld.colCfg_t16_compat 0 1).put Fld.colGrpCfg_entries 0 1).setRaw 0 ((2 ^ 30 :: grp.tail).flatMap (toBytes 4))

/-- The grant by which the collective engine of die 0 reads a sector of memory past the die's cache. -/
def sectorGrant (a : Nat) : Grant := { by_ := 0, req := .collective, node := none, addr := a, lru := false, data := none }

/-- A message of group 0, of another generation of it. -/
def staleMsg : ColMsg :=
  { node := 0, job := 0, group := 0, seq := 0, gen := 1, box := 0, op := 0, dtype := 0, addMode := 0, bytes := 0, deadline := none, late := [],
    poison := false, body := .block 0 0 0 [] }

/-- The state that lists die 0 twice: the entry that counts is as after reset but for a stale message and the grants of the two sectors of
the group's entry; behind it stands one with an operation of the group on hold. -/
def dieListedTwice : Mach :=
  { brokenGroup with dies :=
      [(0, { Die.init with
          cache := { Die.init.cache with granted := [sectorGrant 0, sectorGrant 32] }, col := { Die.init.col with held := [staleMsg] } }),
       (0, { Die.init with col := { Die.init.col with ops := [{ ColOp.fresh none [] [] 0 0 0 false 0 with held := true }] } })] }

theorem after_next_setM (s : State) (m : Mach) : after (.next (s.setM m)) = some m := rfl

/-- The write of group 0 to COL_RESUME is allowed, the group is in the table and broken, and no operation of it is listed. -/
theorem wr_resume_of_dieListedTwice : wr dieListedTwice .sw (r0 .colResume) 0 (fun w =>
    decide (dieListedTwice.flag Fld.colCfg_t16_compat 0 = true) && decide (bitsOf w.raw 7 0 < dieListedTwice.get Fld.colGrpCfg_entries 0) &&
      decide (gBroken (dieListedTwice.groupEntry 0 (bitsOf w.raw 7 0)).2 = true) &&
      decide ((dieListedTwice.groupEntry 0 (bitsOf w.raw 7 0)).1.colOp 0 (bitsOf w.raw 7 0) = none)) = true := by decide +kernel

/-- What the write leaves: the operation that comes to light has ended. -/
theorem ops_of_resume : (after (exec (.colResumeWrite .sw (r0 .colResume).addr ((r0 .colResume).reg.info.width / 8) 0 0) (st dieListedTwice))).map
    (fun m => (m.col 0).ops.map (·.held)) = some [false] := by decide +kernel

/-- What the statement says that it leaves: the operation on hold. -/
theorem ops_of_dropped : (
    let g := bitsOf (dieListedTwice.wordAt .sw (r0 .colResume) 0 ((r0 .colResume).reg.info.width / 8) 0 0).raw 7 0
    let x := dieListedTwice.groupEntry 0 g
    ((((x.1.modCol 0 (fun c => { c with held := c.held.filter (fun y => !(y.group == g && y.gen != gGen x.2)) })).answered (r0 .colResume)
      (w1cHit (r0 .colResume) 0 ((r0 .colResume).reg.info.width / 8) 0 0)).nutmegAll).col 0).ops.map (·.held)) = [true] := by decide +kernel

/-- Refutes O15: the statement asks for no operation of the group before the stale messages go, and the write looks for one after that. The two
differ where a die is listed twice (no premise excludes it): the entry in front becomes that of a reset die, which is not listed, and the one
behind it counts from then on. -/
theorem not_actingRegisterRows : ¬ Obligations.ActingRegisterRows := by
  intro h
  obtain ⟨hwrites, hword⟩ := writes_of_wr wr_resume_of_dieListedTwice
  simp only [Bool.and_eq_true, decide_eq_true_eq] at hword
  obtain ⟨⟨⟨ht16, hin⟩, hbroken⟩, hnone⟩ := hword
  obtain ⟨-, -, -, -, -, -, -, -, -, -, -, -, -, hrow, -⟩ := h (st dieListedTwice) .sw _ _ 0 0 0 _ hwrites
  have hresume := hrow rfl ht16 hin hbroken hnone
  have hleft := ops_of_resume
  rw [hresume, after_next_setM, Option.map_some] at hleft
  have hkept := ops_of_dropped
  dsimp only [st] at hleft hkept
  have hheld : [true] = [false] := hkept.symm.trans (Option.some.inj hleft)
  exact absurd hheld (by decide)

end Sys2Proof.Tests
end

section
/-! SUPPORT and proofs. The commands that a mailbox serves: what each answers, by the branch that its fields and the module's state select
(spec/16). -/

namespace Sys2Proof.Machine

/-- A command that is served is answered with what its own function gives. -/
theorem State.next_of_mbxRun {s : State} {k : Fin 32} {op : Nat} {c : MbxCmd} (h : s.serving k op c) {i : Instr}
    {f : Mach → MbxCmd → Mach × Nat × List Nat} (hexec : exec i s = s.onModule (fun m => m.mbxRun k op f)) {m : Mach} {status : Nat}
    {ws : List Nat} (hf : f s.m c = (m, status, ws)) : exec i s = .next (s.replied m c status ws) :=
  State.next_of_onModule h.1 hexec ((Mach.mbxRun_of_serving h f).trans (by rw [hf]))

/-- A command of the debug port is answered by the one of its two rows whose function it names. -/
theorem State.next_of_debugRun {s : State} {k : Fin 32} {c : MbxCmd} (h : s.serving k 0x43 c) {i : Instr} {unlock : Bool}
    (hexec : exec i s = s.onModule (fun m => m.debugRun k unlock)) (hrow : (pfield c.words 0 3 0 == 1) = unlock) {m : Mach} {status : Nat}
    {ws : List Nat} (hf : (if unlock then s.m.cmdUnlock c else s.m.cmdChallenge c) = (m, status, ws)) :
    exec i s = .next (s.replied m c status ws) := by
  refine State.next_of_onModule h.1 hexec ?_
  unfold Mach.debugRun
  rw [h.2]
  dsimp only
  rw [hrow, if_neg (show ¬ (unlock != unlock) = true by simp), hf]

section
variable {m : Mach} {c : MbxCmd}

/-! ### OPEN and QUERY -/

theorem Mach.cmdOpen_version (hlow : pfield c.words 0 47 32 ≤ 1) (hhigh : 1 ≤ pfield c.words 0 63 48) : m.cmdOpen c = (
    let m := (m.put Fld.mbxStatus_open sdDie 1 c.mbx).put Fld.mbxStatus_major sdDie 1 c.mbx
    let next := (c.count + 1) % 2 ^ 16
    let passed := (m.mbxHead c.mbx + 2 ^ 16 - next) % 2 ^ 16
    let m := m.setExpected c.mbx (m.ringFold c.mbx next passed (true, (c.seq + 1) % 2 ^ 32)).2
    (m, mbOk, [2 ^ 48 + Config.mbxMinor.toNat % 2 ^ 16 * 2 ^ 32, 7, m.get Fld.bootFw_build sdDie 3])) := by
  unfold Mach.cmdOpen
  exact if_neg (by simp [openAccepts, hlow, hhigh])

theorem Mach.cmdOpen_noVersion (h : 1 < pfield c.words 0 47 32 ∨ pfield c.words 0 63 48 < 1) : m.cmdOpen c = (m, mbNoVersion, []) := by
  unfold Mach.cmdOpen
  exact if_pos (by simp only [openAccepts, Bool.not_eq_true', Bool.and_eq_false_iff, decide_eq_false_iff_not]; omega)

/-- The 14 words of a QUERY's answer. -/
def queryWords (l : List Nat) : List Nat := (l ++ List.replicate 14 0).take 14

theorem Mach.cmdQuery_identity (h : pfield c.words 0 7 0 = 0) : m.cmdQuery c = (m, mbOk, queryWords [m.get Fld.bootId_stepping sdDie,
    m.perm.serial % 2 ^ 64, m.perm.serial / 2 ^ 64 % 2 ^ 64, m.get Fld.fabNode_valid 0 * 2 ^ 14 + m.get Fld.fabNode_node 0]) := by
  unfold Mach.cmdQuery
  rw [h]
  rfl

theorem Mach.cmdQuery_partitions (h : pfield c.words 0 7 0 = 1) : m.cmdQuery c = (m, mbOk, queryWords ((List.range 8).map m.partWord)) := by
  unfold Mach.cmdQuery
  rw [h]
  rfl

theorem Mach.cmdQuery_power (h : pfield c.words 0 7 0 = 2) :
    m.cmdQuery c = (m, mbOk, queryWords [m.rd .pwrCap sdDie + (m.pins.chassisW.getD 0) % 2 ^ 16 * 2 ^ 32]) := by
  unfold Mach.cmdQuery
  rw [h]
  rfl

theorem Mach.cmdQuery_firmware (h : pfield c.words 0 7 0 = 3) : m.cmdQuery c =
    (m, mbOk, queryWords [Config.romVersion.toNat, m.fwVersion 3, m.fwVersion 2, m.fwVersion 1, m.fwVersion 4]) := by
  unfold Mach.cmdQuery
  rw [h]
  rfl

theorem Mach.cmdQuery_unknown (h : 3 < pfield c.words 0 7 0) : m.cmdQuery c = (m, mbBadArg, [0]) := by
  unfold Mach.cmdQuery
  generalize pfield c.words 0 7 0 = kind at h
  rcases kind with _ | _ | _ | _ | kind
  · omega
  · omega
  · omega
  · omega
  · rfl

/-! ### Partitions and jobs -/

theorem Mach.cmdCreate_free {free : Nat} (hmask : pfield c.words 0 7 0 ≠ 0) (hbox : pfield c.words 0 12 8 ≠ 0) (hmc : pfield c.words 0 12 8 ≠ 31)
    (hpage : pword c.words 1 % 4096 = 0) (hroot : isStacked (pfield c.words 1 47 12 * 4096) = true)
    (hdies : ∀ d ∈ bitsSet (pfield c.words 0 7 0) 8, m.partOf d = none ∧ m.cp.resetting.testBit d = false ∧
      m.cp.margins.any (fun x => x.die == d && x.state == 1) = false)
    (hunused : m.get Fld.mbxStatus_part sdDie (pfield c.words 0 12 8) = 0xF) (hfree : (List.range 8).find? (fun i => (m.partAt i).isNone) = some free) :
    m.cmdCreate c = (
      let n : Mach := { m with parts := m.parts ++ [Machine.Part.mk free (pfield c.words 0 7 0) (pfield c.words 0 12 8) [] 0] }
      ((bitsSet (pfield c.words 0 7 0) 8).foldl (fun m d =>
        let m := m.cpWrite ⟨.cfgXlatRoot, d, 0, 0, 0⟩
          (Fld.cfgXlatRoot_valid.into (Fld.cfgXlatRoot_root.into 0 (pfield c.words 1 47 12 * 4096 / 4096)) 1)
        (m.cpPut Fld.dcPinQuota_quota d 1048576).cpPut Fld.fabJob_valid d 0) (n.put Fld.mbxStatus_part sdDie free (pfield c.words 0 12 8)),
        mbOk, [free])) := by
  have hbusy : ¬ ((bitsSet (pfield c.words 0 7 0) 8).any (fun d =>
      (m.partOf d).isSome || m.cp.resetting.testBit d || m.cp.margins.any (fun x => x.die == d && x.state == 1)) = true ∨
      m.get Fld.mbxStatus_part sdDie (pfield c.words 0 12 8) ≠ 0xF) := by
    rintro (hany | hused)
    · obtain ⟨d, hd, hd'⟩ := List.any_eq_true.1 hany
      obtain ⟨hpart, hreset, hmargin⟩ := hdies d hd
      simp [hpart, hreset, hmargin] at hd'
    · exact hused hunused
  unfold Mach.cmdCreate
  refine (if_neg hmask).trans ((if_neg (by simp [hbox, hmc])).trans ((if_neg (by simp [hpage, hroot])).trans ((if_neg hbusy).trans ?_)))
  rw [hfree]

section
variable {p : Part} (hp : m.partAt (pfield c.words 0 3 0) = some p)
include hp

theorem Mach.cmdDestroy_closed (hclosed : Fld.fabJob_valid.of (m.cpReg ⟨.fabJob, p.low, 0, 0, 0⟩) = 0) : m.cmdDestroy c = (
    let n := p.dies.foldl (fun m d => m.dieReset d) ((m.doomQueued p.slot).abortPart p).1
    let n := p.dies.foldl (fun (m : Mach) d =>
      let saved := smMod [] m.cp.saved d (fun r => r.filter (fun (e : Nat × W64) => !((partitionRegs d).map RegId.key).contains e.1))
      { m with cp := { m.cp with saved } }) n
    let n : Mach := { n with parts := n.parts.filter (fun x => x.slot != p.slot),
                             cp := { n.cp with abortRead := n.cp.abortRead.filter (fun a => a.1 != p.slot) } }
    (((n.put Fld.mbxStatus_part sdDie 0xF p.mailbox).put Fld.mbxStatus_open sdDie 0 p.mailbox).put Fld.mbxStatus_major sdDie 0 p.mailbox,
      mbOk, [])) := by
  unfold Mach.cmdDestroy
  rw [hp]
  exact if_neg (by simp [hclosed])

theorem Mach.cmdJobClose_busy (h : m.partBusy p = true) : m.cmdJobClose c = (m, mbBusy, []) := by
  unfold Mach.cmdJobClose
  rw [hp]
  exact if_pos h

theorem Mach.cmdJobClose_idle (h : m.partBusy p = false) : m.cmdJobClose c = ((p.dies.foldl (fun m d =>
    ((List.range 5).foldl (fun m i => m.cpPut Fld.ftTmrCtl_enable d 0 (i + 3)) m).cpPut Fld.fabJob_valid d 0) m).cpPut
      Fld.snapCfg_enable p.low 0, mbOk, []) := by
  unfold Mach.cmdJobClose
  rw [hp]
  exact if_neg (by simp [h])

theorem Mach.cmdSnapConfig_receives (hopen : m.drainOpen p.low = false) (hsend : pfield c.words 0 4 4 = 0) (hrecv : pfield c.words 0 5 5 = 1)
    (harea : areaOk (pword c.words 3) 0x20000000000 0x20800000000 = true) (hhold : areaOk (pword c.words 4) 0 0x20000000000 = true) :
    m.cmdSnapConfig c = (((m.wr .snapRecvCfg sdDie (pfield c.words 2 14 0)).wr .snapRecvArea sdDie (pword c.words 3 / 2 ^ 22 * 2 ^ 22)).wr
      .snapHoldArea sdDie (pword c.words 4 / 2 ^ 22 * 2 ^ 22), mbOk, []) := by
  have hnot : ¬ pfield c.words 0 4 4 = 1 := by omega
  unfold Mach.cmdSnapConfig
  dsimp only
  rw [hp]
  refine (if_neg (by simp [harea])).trans ((if_neg (by simp [hhold])).trans ((if_neg (by simp [hopen])).trans ?_))
  rw [if_neg hnot, if_pos hrecv]

/-- JOB_OPEN of a partition without an open job, whose snapshots stay off. -/
theorem Mach.cmdJobOpen_plain (hgood : m.jobError p c.words = none) (hclosed : Fld.fabJob_valid.of (m.cpReg ⟨.fabJob, p.low, 0, 0, 0⟩) = 0)
    (hplain : pfield c.words 6 4 4 = 0) : m.cmdJobOpen c = (
      let job := 2 ^ 63 + pfield c.words 0 31 16 * 2 ^ 32 + pfield c.words 1 22 0 * 2 ^ 9
      let col := Fld.colCfg_pf_en.into (Fld.colCfg_t16_compat.into 0 (pfield c.words 6 5 5)) (pfield c.words 6 6 6)
      let m1 := p.dies.foldl (fun m x => (m.cpWrite ⟨.fabJob, x, 0, 0, 0⟩ job).cpWrite ⟨.colCfg, x, 0, 0, 0⟩ col) m
      let cfg := Fld.snapCfg_replica.into (Fld.snapCfg_buddy.into (m1.cpReg ⟨.snapCfg, p.low, 0, 0, 0⟩) (pfield c.words 6 33 20)) (pfield c.words 6 47 34)
      let cfg := Fld.snapCfg_enable.into (Fld.snapCfg_rgn_count.into cfg (pfield c.words 7 56 48)) 0
      let m2 := (m1.cpWrite ⟨.snapCfg, p.low, 0, 0, 0⟩ (Fld.snapCfg_commit_ctr.into cfg (pfield c.words 6 19 8))).cpWrite ⟨.snapWork, p.low, 0, 0, 0⟩
        (pword c.words 8 / 2 ^ 22 * 2 ^ 22)
      let m3 := (m2.wr .snapRgnBase p.low (pfield c.words 7 47 0)).wr .snapSsrBase p.low (pfield c.words 9 47 0)
      let m4 := ((m3.wr .snapStep p.low 0).wr .snapUpdDone p.low (2 ^ 64 - 1)).wr .snapCommit p.low (2 ^ 64 - 1)
      let m5 := (m4.wr .snapStatus p.low 0).modSnap p.low (fun _ => SnapSt.init)
      let ts := jobTimers p.slot c.words
      (p.dies.foldl (fun m x => ts.foldl (fun m t => m.armTimer x t.1 t.2.1 t.2.2) m) m5, mbOk, [(ts.map (fun t => 2 ^ t.1)).foldl (· + ·) 0])) := by
  have hnot : ¬ pfield c.words 6 4 4 = 1 := by omega
  unfold Mach.cmdJobOpen
  dsimp only
  rw [hp]
  dsimp only
  rw [hgood]
  refine (if_neg (by simp [hclosed, hnot])).trans ?_
  rw [if_neg hnot, if_neg hnot, if_neg hnot, if_neg hnot, decide_eq_false hnot]
  rfl

end

/-! ### Routes, counters and the debug port -/

theorem Mach.cmdRoute_unarmed (hepoch : pfield c.words 0 15 0 = (Fld.fabRouteCtl_epoch.of (m.cpReg ⟨.fabRouteCtl, 0, 0, 0, 0⟩) + 1) % 2 ^ 16)
    (htable : regionOk (pfield c.words 2 47 0) 512 = true) (hlist : regionOk (pfield c.words 3 47 0) (2 * pfield c.words 4 13 0) = true)
    (harm : Fld.fabRouteCtl_arm.of (m.cpReg ⟨.fabRouteCtl, 0, 0, 0, 0⟩) ≠ 1) : m.cmdRoute c =
      (orlupo.foldl (fun n d =>
         let n := (((List.range 64).map (fun i => m.viewNum (pfield c.words 2 47 0 + 8 * i) 8)).mapIdx (fun i e => (i, e))).foldl (fun m x =>
           m.cpWrite ⟨.fabDetourPend, d, 0, x.1, 0⟩ x.2) n
         let n := n.cpWrite ⟨.fabRouteSwitch, d, 0, 0, 0⟩ (pword c.words 1)
         let n := n.modFab d (fun x => { x with
           clearList := (List.range (pfield c.words 4 13 0)).map (fun i => bitsOf (m.viewNum (pfield c.words 3 47 0 + 2 * i) 2) 13 0) })
         let id : RegId := ⟨.fabRouteCtl, d, 0, 0, 0⟩
         n.cpWrite id (Fld.fabRouteCtl_arm.into (Fld.fabRouteCtl_pend_epoch.into (n.cpReg id) (pfield c.words 0 15 0)) 1))
       ((m.viewed (pfield c.words 2 47 0) 512).viewed (pfield c.words 3 47 0) (2 * pfield c.words 4 13 0)), mbOk, []) := by
  unfold Mach.cmdRoute
  exact (if_neg (by simp [hepoch])).trans ((if_neg (by simp [htable])).trans ((if_neg (by simp [hlist])).trans (if_neg harm)))

/-- The counters that COUNTER_SNAPSHOT names, by die, block and copy. -/
def snapshotParts (ws : List Nat) : List (Nat × Nat × Nat × List RegId) :=
  (bitsSet (pfield ws 1 24 16) 9).flatMap (fun d => (bitsSet (pfield ws 1 13 0) 14).flatMap (fun b =>
    (blockCounters b d).map (fun x => (d, b, x.1, x.2))))

/-- The bytes that COUNTER_SNAPSHOT writes for them. -/
def snapshotSize (ws : List Nat) : Nat := ((snapshotParts ws).map (fun x => 16 + 8 * x.2.2.2.length)).foldl (· + ·) 0

section
variable (hbuf : regionOk (pfield c.words 0 47 0) (pfield c.words 2 31 0) = true)
include hbuf

theorem Mach.cmdCounters_short (h : pfield c.words 2 31 0 < snapshotSize c.words) : m.cmdCounters c = (m, mbBadArg, [2]) := by
  unfold Mach.cmdCounters
  exact (if_neg (by simp [hbuf])).trans (if_pos h)

theorem Mach.cmdCounters_fits (h : snapshotSize c.words ≤ pfield c.words 2 31 0) : m.cmdCounters c = (
    let parts := snapshotParts c.words
    let bytes := parts.flatMap (fun x =>
      toBytes 8 (x.2.1 + x.1 * 2 ^ 8 + x.2.2.1 * 2 ^ 16 + x.2.2.2.length * 2 ^ 24) ++ toBytes 8 (m.ft x.1) ++
        x.2.2.2.flatMap (fun id => toBytes 8 (m.reg id)))
    let n := if pfield c.words 1 32 32 = 1 then parts.foldl (fun m x => x.2.2.2.foldl (fun m id => m.setReg id 0) m) m else m
    (n.putBytes sdDie (pfield c.words 0 47 0) bytes, mbOk, [snapshotSize c.words])) := by
  unfold Mach.cmdCounters
  exact (if_neg (by simp [hbuf])).trans (if_neg (Nat.not_lt.2 h))

end

theorem Mach.cmdChallenge_shut (h : pfield c.words 0 3 0 = 0) (hshut : m.debugShut = true) :
    m.cmdChallenge c = (m.ev Fld.secEvents_unlock_refused sdDie, mbDebugRefused, []) := by
  unfold Mach.cmdChallenge
  exact (if_neg (by simp [h])).trans (if_pos hshut)

theorem Mach.cmdChallenge_open (h : pfield c.words 0 3 0 = 0) (hshut : m.debugShut = false) : m.cmdChallenge c = (
    let n := Config.freeBits m.freeCtr % 2 ^ 256
    let m : Mach := { m.tickFree with sec := { m.sec with challenge := some (toBytes 32 n, m.pmu sdDie) } }
    (m, mbOk, (List.range 4).map (fun i => n / 2 ^ (64 * i) % 2 ^ 64) ++ (List.range 4).map (fun i => m.rd .secDevid sdDie i))) := by
  unfold Mach.cmdChallenge
  exact (if_neg (by simp [h])).trans (if_neg (by simp [hshut]))

theorem Mach.cmdUnlock_already (h : m.debugOpen = true) : m.cmdUnlock c = (m, mbOk, [3]) := by
  unfold Mach.cmdUnlock
  exact if_pos h

section
variable (hopen : m.debugOpen = false)
include hopen

theorem Mach.cmdUnlock_shut (hshut : m.debugShut = true) : m.cmdUnlock c = m.debugRefuse := by
  unfold Mach.cmdUnlock
  exact (if_neg (by simp [hopen])).trans (if_pos hshut)

variable (hshut : m.debugShut = false)
include hshut

theorem Mach.cmdUnlock_badArg (h : regionOk (pfield c.words 1 47 0) 2496 = false ∨ pfield c.words 2 31 0 ≠ 2496) :
    m.cmdUnlock c = (m.dropChallenge, mbBadArg, [if regionOk (pfield c.words 1 47 0) 2496 then 2 else 1]) := by
  unfold Mach.cmdUnlock
  refine (if_neg (by simp [hopen])).trans ((if_neg (by simp [hshut])).trans ?_)
  cases hregion : regionOk (pfield c.words 1 47 0) 2496 with
  | false => exact if_pos rfl
  | true => exact (if_neg (by simp)).trans (if_pos (h.resolve_left (by simp [hregion])))

section
variable (hregion : regionOk (pfield c.words 1 47 0) 2496 = true) (hlen : pfield c.words 2 31 0 = 2496)
include hregion hlen

theorem Mach.cmdUnlock_refused (htoken : m.tokenOk (m.viewBytes (pfield c.words 1 47 0) 2496) = false) :
    m.cmdUnlock c = (m.viewed (pfield c.words 1 47 0) 2496).debugRefuse := by
  unfold Mach.cmdUnlock
  exact (if_neg (by simp [hopen])).trans ((if_neg (by simp [hshut])).trans ((if_neg (by simp [hregion])).trans ((if_neg (by simp [hlen])).trans
    (if_pos (by simp [htoken])))))

variable (htoken : m.tokenOk (m.viewBytes (pfield c.words 1 47 0) 2496) = true)
include htoken

theorem Mach.cmdUnlock_hung (hhung : m.sec.hung = true) :
    m.cmdUnlock c = ((m.viewed (pfield c.words 1 47 0) 2496).dropChallenge, mbFailed, [0]) := by
  unfold Mach.cmdUnlock
  exact (if_neg (by simp [hopen])).trans ((if_neg (by simp [hshut])).trans ((if_neg (by simp [hregion])).trans ((if_neg (by simp [hlen])).trans
    ((if_neg (by simp [htoken])).trans (if_pos hhung)))))

theorem Mach.cmdUnlock_opens (hhung : m.sec.hung = false) : m.cmdUnlock c = (
    let v := m.viewed (pfield c.words 1 47 0) 2496
    let n : Mach := { v with debugOpen := true, sec := { v.sec with cdi1 := none, aliasSeed := none, fwSeed := none, challenge := none } }
    (((n.put Fld.secStatus_debug_open sdDie 1).put Fld.secStatus_taint sdDie 1).ev Fld.secEvents_debug_opened sdDie, mbOk, [3])) := by
  unfold Mach.cmdUnlock
  exact (if_neg (by simp [hopen])).trans ((if_neg (by simp [hshut])).trans ((if_neg (by simp [hregion])).trans ((if_neg (by simp [hlen])).trans
    ((if_neg (by simp [htoken])).trans (if_neg (by simp [hhung]))))))

end
end

/-! ### Margin runs -/

theorem Mach.cmdMarginStart_free (hsweep : pfield c.words 0 6 5 ≠ 0) (hmask : pword c.words 1 ≠ 0) (hlow : 0x20000000000 ≤ pfield c.words 2 47 0)
    (hhigh : pfield c.words 2 47 0 + 576 * popcount (pword c.words 1) 64 ≤ 0x20800000000) (hpart : m.partOf (pfield c.words 0 2 0) = none)
    (hnone : m.cp.margins.any (fun x => x.die == pfield c.words 0 2 0 && x.state == 1) = false) : m.cmdMarginStart c = (
      let d := pfield c.words 0 2 0
      let run : MarginSt := { die := d, stack := pfield c.words 0 4 3, sweep := pfield c.words 0 6 5, mask := pword c.words 1,
                              addr := pfield c.words 2 47 0, state := 1, written := 0, ended := 0 }
      let n : Mach := { m with cp := { m.cp with margins := (m.cp.margins.filter (fun (x : MarginSt) => x.die != d)) ++ [run] } }
      (n.put Fld.hbmStatus_margining d 1 (c := pfield c.words 0 4 3), mbOk, [36 * popcount (pword c.words 1) 64])) := by
  unfold Mach.cmdMarginStart
  exact (if_neg hsweep).trans ((if_neg hmask).trans ((if_neg (by omega)).trans (if_neg (by simp only [hpart, hnone]; simp))))

theorem Mach.cmdMarginStatus_some {x : MarginSt} (h : m.cp.margins.find? (fun x => x.die == pfield c.words 0 2 0) = some x) :
    m.cmdMarginStatus c = (m, mbOk, [x.state + x.written * 2 ^ 16, x.ended]) := by
  unfold Mach.cmdMarginStatus
  rw [h]

theorem Mach.cmdMarginStatus_none (h : m.cp.margins.find? (fun x => x.die == pfield c.words 0 2 0) = none) :
    m.cmdMarginStatus c = (m, mbOk, [0, 0]) := by
  unfold Mach.cmdMarginStatus
  rw [h]

theorem Mach.cmdMarginCancel_running (h : m.cp.margins.any (fun x => x.die == pfield c.words 0 2 0 && x.state == 1) = true) :
    m.cmdMarginCancel c = (m.marginEnd (pfield c.words 0 2 0) 3 0, mbOk, []) := if_pos h

theorem Mach.cmdMarginCancel_idle (h : m.cp.margins.any (fun x => x.die == pfield c.words 0 2 0 && x.state == 1) = false) :
    m.cmdMarginCancel c = (m, mbBusy, []) := if_neg (by simp [h])

/-! ### CONFIGURE -/

/-- A table of CONFIGURE whose header and trailer agree is taken entry by entry. -/
theorem Mach.cmdConfigure_whole
    (hscope : pfield c.words 2 3 0 = 0xF ∨ (m.partAt (pfield c.words 2 3 0)).isSome = true)
    (hregion : regionOk (pfield c.words 0 47 0) (pfield c.words 1 31 0) = true)
    (hreport : pfield c.words 3 47 0 = 0 ∨ regionOk (pfield c.words 3 47 0) (16 * pfield c.words 2 31 16) = true)
    (hmagic : m.viewNum (pfield c.words 0 47 0) 4 = 0x43464731) (hsize : m.viewNum (pfield c.words 0 47 0 + 8) 4 = pfield c.words 1 31 0)
    (hlen : pfield c.words 1 31 0 = 24 + 8 * m.viewNum (pfield c.words 0 47 0 + 12) 2)
    (hgen : m.viewNum (pfield c.words 0 47 0 + 4) 4 = pfield c.words 1 63 32)
    (htrail : m.viewNum (pfield c.words 0 47 0 + 16 + 8 * m.viewNum (pfield c.words 0 47 0 + 12) 2 + 4) 4 = pfield c.words 1 63 32) :
    m.cmdConfigure c = (
      let addr := pfield c.words 0 47 0
      let scope := pfield c.words 2 3 0
      let raddr := pfield c.words 3 47 0
      let n := m.viewNum (addr + 12) 2
      let dies := match m.partAt scope with | some p => p.dies | none => []
      let a := (List.range n).foldl (fun (a : CfgAcc) i =>
        let e := m.viewNum (addr + 16 + 8 * i) 8
        a.entry c.mbx (if scope = 0xF then none else some scope) dies i (bitsOf e 63 48) (bitsOf e 31 0)) (CfgAcc.mk (m.viewed addr (24 + 8 * n)) [] [] 0 0 0 0 false)
      let m' : Mach := if a.lock then orlupo.foldl (fun m d => m.cpPut Fld.fabNode_lock d 1) a.m else a.m
      let wr := if raddr = 0 then 0 else min (pfield c.words 2 31 16) a.reports.length
      (m'.putBytes sdDie raddr ((a.reports.take wr).flatMap reportBytes), if a.reports.isEmpty then mbOk else mbClamped,
        [a.applied % 2 ^ 16 * 2 ^ 48 + a.clamped % 2 ^ 16 * 2 ^ 32 + a.ignored % 2 ^ 16 * 2 ^ 16 + a.refused % 2 ^ 16,
         (a.reports.length - wr) % 2 ^ 16 * 2 ^ 16 + wr])) := by
  have hrange : ¬ (pfield c.words 2 3 0 ≠ 0xF ∧ (m.partAt (pfield c.words 2 3 0)).isNone = true) := by
    rcases hscope with h | h
    · simp [h]
    · simp [Option.isSome_iff_ne_none.1 h]
  have hreports : ¬ (pfield c.words 3 47 0 ≠ 0 ∧ (!regionOk (pfield c.words 3 47 0) (16 * pfield c.words 2 31 16)) = true) := by
    rcases hreport with h | h
    · simp [h]
    · simp [h]
  unfold Mach.cmdConfigure
  refine (if_neg (by simp [hregion])).trans ((if_neg hrange).trans ((if_neg hreports).trans ((if_neg (by omega)).trans ?_)))
  exact if_neg (by simp [hmagic, hsize, ← hlen, hgen, htrail])

/-! ### SNAP_RESTORE -/

section
variable {p : Part} (hp : m.partAt (pfield c.words 0 3 0) = some p) (hmode : pfield c.words 0 5 4 = 0)
include hp hmode

theorem Mach.cmdRestore_local (feed : RestoreFeed) (hon : (m.put Fld.snapStatus_restoring p.low 0).flag Fld.snapCfg_enable p.low = true)
    (hidle : (m.put Fld.snapStatus_restoring p.low 0).partBusy p = false) :
    m.cmdRestore c feed = (m.put Fld.snapStatus_restoring p.low 0).restoreLocal p c feed := by
  unfold Mach.cmdRestore
  rw [hp]
  exact (if_neg (by simp [hmode])).trans ((if_neg (by simp [hon])).trans ((if_neg (by simp [hmode])).trans ((if_neg (by simp [hidle])).trans
    (if_pos hmode))))

end

/-- What is answered once the chunks of a version have been tried: the version is installed, or one of them failed. -/
def Mach.chunksTried (p : Part) (slot : Nat) (c : MbxCmd) : Mach × Option Nat → Mach × Nat × List Nat
  | (m, some refetched) => m.restoreInstall p slot c refetched
  | (m, none) => (m, mbFailed, [3])

theorem Mach.chunksTried_some (p : Part) (slot refetched : Nat) : Mach.chunksTried p slot c (m, some refetched) =
    ((m.restoreInstall p slot c refetched).1, mbOk, (m.restoreInstall p slot c refetched).2.2) := rfl

section
variable {p : Part} (hcur : pfield c.words 0 6 6 = 0) {slot a n : Nat} (hslot : m.get Fld.snapStatus_cur p.low = slot)
  (ha : m.slotBase p.low slot = a) (hn : m.viewNum (a + 0x20) 4 = n) (feed : RestoreFeed)
include hcur hslot ha hn

/-- A local restore of the current version: its manifest has to stand there, of a version that has been committed, with its digest. -/
theorem Mach.restoreLocal_current : m.restoreLocal p c feed =
    if (m.snap p.low).initial = true ∨ m.viewNum a 4 ≠ 0x4D414E31 ∨
        ¬ (m.viewNum (a + 4) 1 % 8 = 2 ∨ m.viewNum (a + 4) 1 % 8 = 3 ∨ m.viewNum (a + 4) 1 % 8 = 4) then (m, mbFailed, [1])
    else if sha3 (m.viewBytes (a + 128) (48 * n)) ≠ m.viewBytes (a + 0x30) 32 then (m.viewed a (128 + 48 * n), mbFailed, [2])
    else Mach.chunksTried p slot c
      ((m.viewed a (128 + 48 * n)).restoreChunks p.low slot c.words true feed (m.manifestEntries p.low slot) 0) := by
  have hnot : ¬ pfield c.words 0 6 6 = 1 := by omega
  have hdef : @Mach.restoreLocal = @Mach.restoreLocal := rfl
  conv at hdef => rhs; delta Mach.restoreLocal
  rw [hdef]
  clear hdef
  beta_reduce
  extract_lets d cur previous slot' a' st n' seen
  have hprev : ¬ previous := hnot
  have hslot' : slot' = slot := (if_neg hprev).trans hslot
  have ha' : a' = a := (congrArg (m.slotBase p.low) hslot').trans ha
  have hst : st = m.viewNum (a + 4) 1 % 8 := congrArg (fun x => m.viewNum (x + 4) 1 % 8) ha'
  have hn' : n' = n := (congrArg (fun x => m.viewNum (x + 0x20) 4) ha').trans hn
  have hseen : seen = m.viewed a (128 + 48 * n) := congrArg₂ (fun x y => m.viewed x (128 + 48 * y)) ha' hn'
  clear_value seen n' st a' slot'
  subst hslot' ha' hst hn' hseen
  refine if_congr ?_ rfl (if_congr Iff.rfl rfl ?_)
  · simp [hprev, d, and_comm]
  · generalize (m.viewed a' (128 + 48 * n')).restoreChunks p.low slot' c.words true feed (m.manifestEntries p.low slot') 0 = x
    rcases x with ⟨n, _ | refetched⟩
    · rfl
    · exact congrArg (fun x : Mach => x.restoreInstall p slot' c refetched) (if_neg hprev)

theorem Mach.restoreLocal_initial (h : (m.snap p.low).initial = true) : m.restoreLocal p c feed = (m, mbFailed, [1]) :=
  (Mach.restoreLocal_current hcur hslot ha hn feed).trans (if_pos (.inl h))

theorem Mach.restoreLocal_tried (hlater : (m.snap p.low).initial = false) (hmagic : m.viewNum a 4 = 0x4D414E31)
    (hstate : m.viewNum (a + 4) 1 % 8 = 2 ∨ m.viewNum (a + 4) 1 % 8 = 3 ∨ m.viewNum (a + 4) 1 % 8 = 4)
    (hdigest : sha3 (m.viewBytes (a + 128) (48 * n)) = m.viewBytes (a + 0x30) 32) : m.restoreLocal p c feed = Mach.chunksTried p slot c
      ((m.viewed a (128 + 48 * n)).restoreChunks p.low slot c.words true feed (m.manifestEntries p.low slot) 0) := by
  have hgood : ¬ ((m.snap p.low).initial = true ∨ m.viewNum a 4 ≠ 0x4D414E31 ∨
      ¬ (m.viewNum (a + 4) 1 % 8 = 2 ∨ m.viewNum (a + 4) 1 % 8 = 3 ∨ m.viewNum (a + 4) 1 % 8 = 4)) := by
    rw [hlater]
    simp only [hmagic, hstate]
    simp
  exact (Mach.restoreLocal_current hcur hslot ha hn feed).trans ((if_neg hgood).trans (if_neg (not_not.2 hdigest)))

end

end

/-- Settles O59: each command is its own function of the request's words; every check that the statement assumes sends it past a refusal. -/
theorem mailboxCommandRows : Obligations.MailboxCommandRows := by
  refine ⟨⟨?open_, ?query, ?create, ?destroy, ?jobClose, ?route, ?snapConfig, ?fuse, ?ftStatus, ?counters, ?shut, ?challenge, ?unlock⟩,
    ⟨?marginStart, ?marginStatus, ?marginCancel⟩, ?configure, ?jobOpen, ?restore⟩
  case open_ =>
    intro s k c h
    exact ⟨fun hlow hhigh => State.next_of_mbxRun h (exec_openMailbox k s) (Mach.cmdOpen_version hlow hhigh),
      fun hno => State.next_of_mbxRun h (exec_openMailbox k s) (Mach.cmdOpen_noVersion hno)⟩
  case query =>
    intro s k c h pad
    exact ⟨fun hq => State.next_of_mbxRun h (exec_query k s) (Mach.cmdQuery_identity hq),
      fun hq => State.next_of_mbxRun h (exec_query k s) (Mach.cmdQuery_partitions hq),
      fun hq => State.next_of_mbxRun h (exec_query k s) (Mach.cmdQuery_power hq),
      fun hq => State.next_of_mbxRun h (exec_query k s) (Mach.cmdQuery_firmware hq),
      fun hq => State.next_of_mbxRun h (exec_query k s) (Mach.cmdQuery_unknown hq)⟩
  case create =>
    intro s k c free h mask box root dies hmask hbox hmc hpage hroot hdies hunused hfree
    exact State.next_of_mbxRun h (exec_partitionCreate k s) (Mach.cmdCreate_free hmask hbox hmc hpage hroot hdies hunused hfree)
  case destroy =>
    intro s k c p h hp hclosed
    exact State.next_of_mbxRun h (exec_partitionDestroy k s) (Mach.cmdDestroy_closed hp hclosed)
  case jobClose =>
    intro s k c p h hp
    exact ⟨fun hbusy => State.next_of_mbxRun h (exec_jobClose k s) (Mach.cmdJobClose_busy hp hbusy),
      fun hidle => State.next_of_mbxRun h (exec_jobClose k s) (Mach.cmdJobClose_idle hp hidle)⟩
  case route =>
    intro s k c h table list n ctl hepoch htable hlist harm
    exact State.next_of_mbxRun h (exec_routeUpdate k s) (Mach.cmdRoute_unarmed hepoch htable hlist harm)
  case snapConfig =>
    intro s k c p h hp hopen hsend hrecv harea hhold
    exact State.next_of_mbxRun h (exec_snapConfig k s) (Mach.cmdSnapConfig_receives hp hopen hsend hrecv harea hhold)
  case fuse =>
    intro s k c h d
    exact State.next_of_mbxRun h (exec_fuseStatus k s) rfl
  case ftStatus => exact fun s k c h => State.next_of_mbxRun h (exec_ftStatus k s) rfl
  case counters =>
    intro s k c h buf parts total hbuf
    exact ⟨fun hshort => State.next_of_mbxRun h (exec_counterSnapshot k s) (Mach.cmdCounters_short hbuf hshort),
      fun hfits => State.next_of_mbxRun h (exec_counterSnapshot k s) (Mach.cmdCounters_fits hbuf hfits)⟩
  case shut =>
    exact fun s k c h hzero hshut => State.next_of_debugRun h (exec_debugChallenge k s) (by simp [hzero]) (Mach.cmdChallenge_shut hzero hshut)
  case challenge =>
    exact fun s k c h hzero hshut => State.next_of_debugRun h (exec_debugChallenge k s) (by simp [hzero]) (Mach.cmdChallenge_open hzero hshut)
  case unlock =>
    intro s k c h hone addr tok v
    have hrow {m : Mach} {status : Nat} {ws : List Nat} (hf : s.m.cmdUnlock c = (m, status, ws)) :
        exec (.debugUnlock k) s = .next (s.replied m c status ws) := State.next_of_debugRun h (exec_debugUnlock k s) (by simp [hone]) hf
    exact ⟨fun hopen => hrow (Mach.cmdUnlock_already hopen), fun hopen hshut => hrow (Mach.cmdUnlock_shut hopen hshut),
      fun hopen hshut hbad => hrow (Mach.cmdUnlock_badArg hopen hshut hbad), fun hopen hshut hregion hlen =>
        ⟨fun htoken => hrow (Mach.cmdUnlock_refused hopen hshut hregion hlen htoken),
          fun htoken hhung => hrow (Mach.cmdUnlock_opens hopen hshut hregion hlen htoken hhung),
          fun htoken hhung => hrow (Mach.cmdUnlock_hung hopen hshut hregion hlen htoken hhung)⟩⟩
  case marginStart =>
    intro s k c h d n addr hsweep hmask hlow hhigh hpart hnone
    exact State.next_of_mbxRun h (exec_marginStart k s) (Mach.cmdMarginStart_free hsweep hmask hlow hhigh hpart hnone)
  case marginStatus =>
    exact fun s k c h => ⟨fun x hx => State.next_of_mbxRun h (exec_marginStatus k s) (Mach.cmdMarginStatus_some hx),
      fun hnone => State.next_of_mbxRun h (exec_marginStatus k s) (Mach.cmdMarginStatus_none hnone)⟩
  case marginCancel =>
    intro s k c h d
    exact ⟨fun hrun => State.next_of_mbxRun h (exec_marginCancel k s) (Mach.cmdMarginCancel_running hrun),
      fun hidle => State.next_of_mbxRun h (exec_marginCancel k s) (Mach.cmdMarginCancel_idle hidle)⟩
  case configure =>
    intro s k c h addr gen len scope rmax raddr n hscope hregion hreport hmagic hsize hlen hgen htrail
    exact State.next_of_mbxRun h (exec_configure k s) (Mach.cmdConfigure_whole hscope hregion hreport hmagic hsize hlen hgen htrail)
  case jobOpen =>
    intro s k c p h hp hgood hclosed hplain
    exact State.next_of_mbxRun h (exec_jobOpen k s) (Mach.cmdJobOpen_plain hp hgood hclosed hplain)
  case restore =>
    intro s k feed c p h hp hmode hcur m slot a state n hon hidle
    have hlocal : s.m.cmdRestore c feed = m.restoreLocal p c feed := Mach.cmdRestore_local hp hmode feed hon hidle
    clear_value m
    refine ⟨fun hinitial => ?_, fun hlater hmagic hstate hdigest => ?_⟩
    · have hfails := hlocal.trans (Mach.restoreLocal_initial hcur rfl rfl rfl feed hinitial)
      exact State.next_of_mbxRun h (exec_snapRestore k feed s) hfails
    · have htried := hlocal.trans (Mach.restoreLocal_tried hcur rfl rfl rfl feed hlater hmagic hstate hdigest)
      generalize (m.viewed a (128 + 48 * n)).restoreChunks p.low slot c.words true feed (m.manifestEntries p.low slot) 0 = x at htried ⊢
      rcases x with ⟨m', _ | refetched⟩
      · exact State.next_of_mbxRun h (exec_snapRestore k feed s) htried
      · exact State.next_of_mbxRun h (exec_snapRestore k feed s) (htried.trans (Mach.chunksTried_some p slot refetched))

end Sys2Proof.Machine
end
